-- ==== Sys2Proof/Syntax.lean ====
section
/-!
DEFINITION. The instructions and events of the T24: one constructor per row of spec/opcode_table.json.

An encoded row's constructor carries the row's fields in ascending bit position (g is the stall code SCODE [2:1] of R87,
t the ST bit of a parcel, R91); an event's constructor carries what names the occurrence: core, slot, line, arriving data.
A tensor operand is the package-wide number of a tensor handle (State.tensors).
-/

namespace Sys2Proof

/-- Who performs a register-window access (R403): the host, the management port, or a supervisor group. -/
inductive Path where
  | host | management | supervisor
deriving DecidableEq, Repr

/-- What the boot ROM finds when it verifies the firmware manifest (R419, R420); an input from outside the state. -/
inductive Manifest where
  | good | ecdsaFailed | lmsFailed | bothFailed | belowMinimum | malformed
deriving DecidableEq, Repr

/-- The kind of an inbound fabric request (R405, R406). -/
inductive PeerOp where
  | read | write
  /-- An operation of R218, by its code; one that returns the old value, or a reduction. -/
  | atomic (op : Nat) (ret : Bool)
deriving DecidableEq, Repr

/-- A directory packet (R407): the fabric port it comes by, and the address of its line. -/
structure DirLine where
  port : Nat
  addr : Nat
deriving DecidableEq, Repr

/-- The management port's write of SCSTAIL (R401): its value, and the bytes put into the ring before it. -/
structure TailWrite where
  value : BitVec 64
  data : List (BitVec 8)
deriving DecidableEq, Repr

/-- The link of a timestamp exchange (R398): the fabric port, whether this package leads, and whether the packages
share a reference. -/
structure AlignLink where
  port : Nat
  leads : Bool
  shared : Bool
deriving DecidableEq, Repr

/-- Every row of the opcode table. -/
inductive Instr where
  /-- TRAP (R345). Raises cause 0x18 with EINFO set to the immediate, delivered to the trap entry under R326. -/
  | trap (g : BitVec 2) (i : BitVec 18)
  /-- RTE (R327). Returns from a trap handler, restoring PC, EXEC, SFL, the interrupted bank and the in-flight writes. -/
  | rte (g : BitVec 2)
  /-- SVCALL (R345). Sends a 64-byte mailbox request and parks the caller until MBREPLY answers it. -/
  | svcall (g : BitVec 2) (v : BitVec 6)
  /-- MBPOP (R345). Parks the supervisor until its event queue is non-empty, then removes the oldest event into sd and sd+1 under guarded issue. -/
  | mbpop (g : BitVec 2) (d : BitVec 6)
  /-- MBREPLY (R346). Answers a mailbox record, resumes or ends a page fault, or releases a stopped team, as sa[7:6] selects. -/
  | mbreply (g : BitVec 2) (a : BitVec 6)
  /-- MGNSET (R348). Reads the selected margin register into sd. -/
  | mgnset (g : BitVec 2) (a : BitVec 6) (d : BitVec 6) (r : BitVec 3)
  /-- MGNSET_W (R348). Reads the selected margin register into sd, then writes sa to it; the value takes effect at the next window boundary. -/
  | mgnsetW (g : BitVec 2) (a : BitVec 6) (d : BitVec 6) (r : BitVec 3)
  /-- QSAVE (R346). Saves a stopped group, both banks and its in-flight writes, to a group record, then frees its slot, entry and quarter-rows. -/
  | qsave (g : BitVec 2) (a : BitVec 6) (b : BitVec 6)
  /-- QLOAD (R346). Places a recorded group into a free slot, binds it under R16 and leaves it stopped. -/
  | qload (g : BitVec 2) (a : BitVec 6) (b : BitVec 6)
  /-- TEMPOW (R347). Holds the group at issue until TEMPO reaches the value in sa. -/
  | tempow (g : BitVec 2) (a : BitVec 6)
  /-- HALTT (R347). Stops the issuing team under R329 with cause 0x19, without entering a handler. -/
  | haltt (g : BitVec 2)
  /-- BR (R127). Branches to PC + 2·off18 when the condition of R95 holds. -/
  | br (g : BitVec 2) (c : BitVec 5) (o : BitVec 18)
  /-- JMP (R128). Jumps to PC + 2·off23. -/
  | jmp (g : BitVec 2) (o : BitVec 23)
  /-- CALL (R128). Writes the return address PC + 4 to s63 and jumps to PC + 2·off23. -/
  | call (g : BitVec 2) (o : BitVec 23)
  /-- NOP (R130). Does nothing. -/
  | nop (g : BitVec 2)
  /-- EXIT (R135). Removes every lane in EXEC from the group, from its masks and from its mask stack, at issue. -/
  | exit (g : BitVec 2)
  /-- RET (R128). Transfers to the address in sa, s63 by default. -/
  | ret (g : BitVec 2) (a : BitVec 6)
  /-- JMPR (R128). Transfers to the address in sa. -/
  | jmpr (g : BitVec 2) (a : BitVec 6)
  /-- SMOV (R130). Copies scalar sa to sd. -/
  | smov (g : BitVec 2) (d : BitVec 6) (a : BitVec 6)
  /-- SMOVS (R131). Reads a special register into sd. -/
  | smovs (g : BitVec 2) (d : BitVec 6) (x : BitVec 6) (y : BitVec 2)
  /-- SMOVW (R131). Writes sa to a writable special register, with the checks of R131. -/
  | smovw (g : BitVec 2) (x : BitVec 6) (a : BitVec 6) (y : BitVec 2)
  /-- FMTSET (R132). Writes FMT from sa[31:0] at issue, after the check of R49. -/
  | fmtset (g : BitVec 2) (a : BitVec 6)
  /-- FMTSET_MASK (R132). Replaces the FMT bits selected by sb with those of sa, at issue. -/
  | fmtsetMask (g : BitVec 2) (a : BitVec 6) (b : BitVec 6)
  /-- FMTGET (R130). Writes FMT, zero-extended, to sd. -/
  | fmtget (g : BitVec 2) (d : BitVec 6)
  /-- FLGGET (R133). Writes FLG to sd once every earlier instruction has set its flags. -/
  | flgget (g : BitVec 2) (d : BitVec 6)
  /-- FLGCLR (R133). Clears the FLG bits selected by sa once every earlier instruction has set its flags. -/
  | flgclr (g : BitVec 2) (a : BitVec 6)
  /-- WAIT (R134). Holds the group until every named outstanding counter is at or below n. -/
  | wait (g : BitVec 2) (c : BitVec 5) (n : BitVec 6)
  /-- SADD (R120). Scalar add modulo 2^64. -/
  | sadd (g : BitVec 2) (d : BitVec 6) (a : BitVec 6) (b : BitVec 6)
  /-- SSUB (R120). Scalar subtract modulo 2^64. -/
  | ssub (g : BitVec 2) (d : BitVec 6) (a : BitVec 6) (b : BitVec 6)
  /-- SMUL (R120). Scalar multiply modulo 2^64. -/
  | smul (g : BitVec 2) (d : BitVec 6) (a : BitVec 6) (b : BitVec 6)
  /-- SMULH_I64 (R120). High 64 bits of the signed 128-bit product. -/
  | smulhI64 (g : BitVec 2) (d : BitVec 6) (a : BitVec 6) (b : BitVec 6)
  /-- SMULH_N64 (R120). High 64 bits of the unsigned 128-bit product. -/
  | smulhN64 (g : BitVec 2) (d : BitVec 6) (a : BitVec 6) (b : BitVec 6)
  /-- SAND (R120). Scalar bitwise AND. -/
  | sand (g : BitVec 2) (d : BitVec 6) (a : BitVec 6) (b : BitVec 6)
  /-- SOR (R120). Scalar bitwise OR. -/
  | sor (g : BitVec 2) (d : BitVec 6) (a : BitVec 6) (b : BitVec 6)
  /-- SXOR (R120). Scalar bitwise XOR. -/
  | sxor (g : BitVec 2) (d : BitVec 6) (a : BitVec 6) (b : BitVec 6)
  /-- SSHL (R120). Scalar left shift by sb[5:0]. -/
  | sshl (g : BitVec 2) (d : BitVec 6) (a : BitVec 6) (b : BitVec 6)
  /-- SSHR (R120). Scalar logical right shift by sb[5:0]. -/
  | sshr (g : BitVec 2) (d : BitVec 6) (a : BitVec 6) (b : BitVec 6)
  /-- SSRA (R120). Scalar arithmetic right shift by sb[5:0]. -/
  | ssra (g : BitVec 2) (d : BitVec 6) (a : BitVec 6) (b : BitVec 6)
  /-- SMIN_I64 (R120). Signed scalar minimum. -/
  | sminI64 (g : BitVec 2) (d : BitVec 6) (a : BitVec 6) (b : BitVec 6)
  /-- SMIN_N64 (R120). Unsigned scalar minimum. -/
  | sminN64 (g : BitVec 2) (d : BitVec 6) (a : BitVec 6) (b : BitVec 6)
  /-- SMAX_I64 (R120). Signed scalar maximum. -/
  | smaxI64 (g : BitVec 2) (d : BitVec 6) (a : BitVec 6) (b : BitVec 6)
  /-- SMAX_N64 (R120). Unsigned scalar maximum. -/
  | smaxN64 (g : BitVec 2) (d : BitVec 6) (a : BitVec 6) (b : BitVec 6)
  /-- SSEL (R120). Selects sa if SFL.Z is 1, otherwise sb. -/
  | ssel (g : BitVec 2) (d : BitVec 6) (a : BitVec 6) (b : BitVec 6)
  /-- SADD_FL (R121). Scalar add that sets all four SFL flags. -/
  | saddFl (g : BitVec 2) (d : BitVec 6) (a : BitVec 6) (b : BitVec 6)
  /-- SSUB_FL (R121). Scalar subtract that sets all four SFL flags. -/
  | ssubFl (g : BitVec 2) (d : BitVec 6) (a : BitVec 6) (b : BitVec 6)
  /-- SADDI (R122). Scalar add of a sign-extended imm8. -/
  | saddi (g : BitVec 2) (d : BitVec 6) (a : BitVec 6) (i : BitVec 8)
  /-- SMULI (R122). Scalar multiply by a sign-extended imm8. -/
  | smuli (g : BitVec 2) (d : BitVec 6) (a : BitVec 6) (i : BitVec 8)
  /-- SANDI (R122). Scalar AND with a zero-extended imm8. -/
  | sandi (g : BitVec 2) (d : BitVec 6) (a : BitVec 6) (i : BitVec 8)
  /-- SORI (R122). Scalar OR with a zero-extended imm8. -/
  | sori (g : BitVec 2) (d : BitVec 6) (a : BitVec 6) (i : BitVec 8)
  /-- SXORI (R122). Scalar XOR with a zero-extended imm8. -/
  | sxori (g : BitVec 2) (d : BitVec 6) (a : BitVec 6) (i : BitVec 8)
  /-- SSHLI (R122). Scalar left shift by an immediate. -/
  | sshli (g : BitVec 2) (d : BitVec 6) (a : BitVec 6) (i : BitVec 6)
  /-- SSHRI (R122). Scalar logical right shift by an immediate. -/
  | sshri (g : BitVec 2) (d : BitVec 6) (a : BitVec 6) (i : BitVec 6)
  /-- SSRAI (R122). Scalar arithmetic right shift by an immediate. -/
  | ssrai (g : BitVec 2) (d : BitVec 6) (a : BitVec 6) (i : BitVec 6)
  /-- SMOVL (R123). Loads a sign-extended 17-bit immediate into sd. -/
  | smovl (g : BitVec 2) (d : BitVec 6) (i : BitVec 17)
  /-- SSHIN (R123). Shifts sd left by 17 bits and ORs in an unextended 17-bit immediate. -/
  | sshin (g : BitVec 2) (d : BitVec 6) (i : BitVec 17)
  /-- SCMP (R124). Sets SFL as the subtract of sa and sb. -/
  | scmp (g : BitVec 2) (a : BitVec 6) (b : BitVec 6)
  /-- SCMPI (R124). Sets SFL as the subtract of sa and a sign-extended 12-bit immediate. -/
  | scmpi (g : BitVec 2) (i : BitVec 6) (a : BitVec 6) (j : BitVec 6)
  /-- SLD (R125). Scalar load of 2^z bytes, zero-extended, from sa + scaled displacement. -/
  | sld (g : BitVec 2) (z : BitVec 2) (d : BitVec 6) (a : BitVec 6) (i : BitVec 8)
  /-- SST (R125). Scalar store of the low 2^z bytes of sd to sa + scaled displacement. -/
  | sst (g : BitVec 2) (z : BitVec 2) (d : BitVec 6) (a : BitVec 6) (i : BitVec 8)
  /-- IFM (R139). Pushes an IF entry on the mask stack and narrows EXEC by the mask. -/
  | ifm (g : BitVec 2) (a : BitVec 6)
  /-- ELSEM (R140). Switches the top mask-stack entry to its ELSE path. -/
  | elsem (g : BitVec 2)
  /-- ENDM (R141). Pops the top mask-stack entry, restoring EXEC and FMT. -/
  | endm (g : BitVec 2)
  /-- BRKM (R142). Takes the masked active lanes out of the innermost loop. -/
  | brkm (g : BitVec 2) (a : BitVec 6)
  /-- BRKM_LOOP (R142). Pushes a loop entry on the mask stack. -/
  | brkmLoop (g : BitVec 2)
  /-- MAND (R137). Mask AND. -/
  | mand (g : BitVec 2) (d : BitVec 6) (a : BitVec 6) (b : BitVec 6)
  /-- MOR (R137). Mask OR. -/
  | mor (g : BitVec 2) (d : BitVec 6) (a : BitVec 6) (b : BitVec 6)
  /-- MXOR (R137). Mask XOR. -/
  | mxor (g : BitVec 2) (d : BitVec 6) (a : BitVec 6) (b : BitVec 6)
  /-- MNOT (R137). Mask NOT, cleared under R46. -/
  | mnot (g : BitVec 2) (d : BitVec 6) (a : BitVec 6)
  /-- MMOV (R137). Copies one mask to another. -/
  | mmov (g : BitVec 2) (d : BitVec 6) (a : BitVec 6)
  /-- MMOV_FROM_SCALAR (R137). Writes a mask from a scalar register. -/
  | mmovFromScalar (g : BitVec 2) (d : BitVec 6) (a : BitVec 6)
  /-- MMOV_TO_SCALAR (R137). Writes a mask, zero-extended, to a scalar register. -/
  | mmovToScalar (g : BitVec 2) (d : BitVec 6) (a : BitVec 6)
  /-- MPOPC (R137). Counts the 1 bits of a mask into a scalar. -/
  | mpopc (g : BitVec 2) (d : BitVec 6) (a : BitVec 6)
  /-- MFIRST (R137). Writes the index of the lowest set bit of a mask, or 64, to a scalar. -/
  | mfirst (g : BitVec 2) (d : BitVec 6) (a : BitVec 6)
  /-- VADD_I32 (R148). Vector 32-bit add. -/
  | vaddI32 (g : BitVec 2) (d : BitVec 6) (a : BitVec 6) (b : BitVec 6)
  /-- VSUB_I32 (R148). Vector 32-bit subtract. -/
  | vsubI32 (g : BitVec 2) (d : BitVec 6) (a : BitVec 6) (b : BitVec 6)
  /-- VMUL_I32 (R148). Vector 32-bit multiply, low half. -/
  | vmulI32 (g : BitVec 2) (d : BitVec 6) (a : BitVec 6) (b : BitVec 6)
  /-- VMULH_I32 (R148). High half of the signed 64-bit product. -/
  | vmulhI32 (g : BitVec 2) (d : BitVec 6) (a : BitVec 6) (b : BitVec 6)
  /-- VMULH_N32 (R148). High half of the unsigned 64-bit product. -/
  | vmulhN32 (g : BitVec 2) (d : BitVec 6) (a : BitVec 6) (b : BitVec 6)
  /-- VMAD_I32 (R148). Multiply-add into vd modulo 2^32. -/
  | vmadI32 (g : BitVec 2) (d : BitVec 6) (a : BitVec 6) (b : BitVec 6)
  /-- VDIV_I32 (R152). Signed vector division; variable latency, counted in XC. -/
  | vdivI32 (g : BitVec 2) (d : BitVec 6) (a : BitVec 6) (b : BitVec 6)
  /-- VDIV_N32 (R152). Unsigned vector division; variable latency, counted in XC. -/
  | vdivN32 (g : BitVec 2) (d : BitVec 6) (a : BitVec 6) (b : BitVec 6)
  /-- VREM_I32 (R152). Signed vector remainder; variable latency, counted in XC. -/
  | vremI32 (g : BitVec 2) (d : BitVec 6) (a : BitVec 6) (b : BitVec 6)
  /-- VREM_N32 (R152). Unsigned vector remainder; variable latency, counted in XC. -/
  | vremN32 (g : BitVec 2) (d : BitVec 6) (a : BitVec 6) (b : BitVec 6)
  /-- VMIN_I32 (R148). Signed vector minimum. -/
  | vminI32 (g : BitVec 2) (d : BitVec 6) (a : BitVec 6) (b : BitVec 6)
  /-- VMIN_N32 (R148). Unsigned vector minimum. -/
  | vminN32 (g : BitVec 2) (d : BitVec 6) (a : BitVec 6) (b : BitVec 6)
  /-- VMAX_I32 (R148). Signed vector maximum. -/
  | vmaxI32 (g : BitVec 2) (d : BitVec 6) (a : BitVec 6) (b : BitVec 6)
  /-- VMAX_N32 (R148). Unsigned vector maximum. -/
  | vmaxN32 (g : BitVec 2) (d : BitVec 6) (a : BitVec 6) (b : BitVec 6)
  /-- VAND (R148). Vector bitwise AND. -/
  | vand (g : BitVec 2) (d : BitVec 6) (a : BitVec 6) (b : BitVec 6)
  /-- VOR (R148). Vector bitwise OR. -/
  | vor (g : BitVec 2) (d : BitVec 6) (a : BitVec 6) (b : BitVec 6)
  /-- VXOR (R148). Vector bitwise XOR. -/
  | vxor (g : BitVec 2) (d : BitVec 6) (a : BitVec 6) (b : BitVec 6)
  /-- VSHL (R148). Vector left shift by b[4:0]. -/
  | vshl (g : BitVec 2) (d : BitVec 6) (a : BitVec 6) (b : BitVec 6)
  /-- VSHR (R148). Vector logical right shift. -/
  | vshr (g : BitVec 2) (d : BitVec 6) (a : BitVec 6) (b : BitVec 6)
  /-- VSRA (R148). Vector arithmetic right shift. -/
  | vsra (g : BitVec 2) (d : BitVec 6) (a : BitVec 6) (b : BitVec 6)
  /-- VADDC (R150). Vector add with carry in and out through m0. -/
  | vaddc (g : BitVec 2) (d : BitVec 6) (a : BitVec 6) (b : BitVec 6)
  /-- VSUBB (R150). Vector subtract with borrow in and out through m0. -/
  | vsubb (g : BitVec 2) (d : BitVec 6) (a : BitVec 6) (b : BitVec 6)
  /-- VABS_I32 (R148). Vector absolute value modulo 2^32. -/
  | vabsI32 (g : BitVec 2) (d : BitVec 6) (a : BitVec 6)
  /-- VNEG_I32 (R148). Vector negation modulo 2^32. -/
  | vnegI32 (g : BitVec 2) (d : BitVec 6) (a : BitVec 6)
  /-- VNOT (R148). Vector bitwise NOT. -/
  | vnot (g : BitVec 2) (d : BitVec 6) (a : BitVec 6)
  /-- VPOPC (R148). Vector population count. -/
  | vpopc (g : BitVec 2) (d : BitVec 6) (a : BitVec 6)
  /-- VCLZ (R148). Vector count of leading zeros. -/
  | vclz (g : BitVec 2) (d : BitVec 6) (a : BitVec 6)
  /-- VBREV (R148). Vector bit reversal. -/
  | vbrev (g : BitVec 2) (d : BitVec 6) (a : BitVec 6)
  /-- VBFE_I32 (R151). Signed bit-field extract. -/
  | vbfeI32 (g : BitVec 2) (d : BitVec 6) (a : BitVec 6) (b : BitVec 6)
  /-- VBFE_N32 (R151). Unsigned bit-field extract. -/
  | vbfeN32 (g : BitVec 2) (d : BitVec 6) (a : BitVec 6) (b : BitVec 6)
  /-- VBFI (R151). Bit-field insert into vd. -/
  | vbfi (g : BitVec 2) (d : BitVec 6) (a : BitVec 6) (b : BitVec 6)
  /-- VMOV (R148). Vector register copy. -/
  | vmov (g : BitVec 2) (d : BitVec 6) (a : BitVec 6)
  /-- VADD_I32_VS (R153). Vector add with a scalar operand. -/
  | vaddI32Vs (g : BitVec 2) (d : BitVec 6) (a : BitVec 6) (b : BitVec 6)
  /-- VSUB_I32_VS (R153). Vector subtract of a scalar operand. -/
  | vsubI32Vs (g : BitVec 2) (d : BitVec 6) (a : BitVec 6) (b : BitVec 6)
  /-- VMUL_I32_VS (R153). Vector multiply by a scalar operand. -/
  | vmulI32Vs (g : BitVec 2) (d : BitVec 6) (a : BitVec 6) (b : BitVec 6)
  /-- VMULH_I32_VS (R153). Signed high product with a scalar operand. -/
  | vmulhI32Vs (g : BitVec 2) (d : BitVec 6) (a : BitVec 6) (b : BitVec 6)
  /-- VMULH_N32_VS (R153). Unsigned high product with a scalar operand. -/
  | vmulhN32Vs (g : BitVec 2) (d : BitVec 6) (a : BitVec 6) (b : BitVec 6)
  /-- VMAD_I32_VS (R153). Multiply-add with a scalar multiplier. -/
  | vmadI32Vs (g : BitVec 2) (d : BitVec 6) (a : BitVec 6) (b : BitVec 6)
  /-- VDIV_I32_VS (R153). Signed division by a scalar; XC. -/
  | vdivI32Vs (g : BitVec 2) (d : BitVec 6) (a : BitVec 6) (b : BitVec 6)
  /-- VDIV_N32_VS (R153). Unsigned division by a scalar; XC. -/
  | vdivN32Vs (g : BitVec 2) (d : BitVec 6) (a : BitVec 6) (b : BitVec 6)
  /-- VREM_I32_VS (R153). Signed remainder by a scalar; XC. -/
  | vremI32Vs (g : BitVec 2) (d : BitVec 6) (a : BitVec 6) (b : BitVec 6)
  /-- VREM_N32_VS (R153). Unsigned remainder by a scalar; XC. -/
  | vremN32Vs (g : BitVec 2) (d : BitVec 6) (a : BitVec 6) (b : BitVec 6)
  /-- VMIN_I32_VS (R153). Signed minimum with a scalar. -/
  | vminI32Vs (g : BitVec 2) (d : BitVec 6) (a : BitVec 6) (b : BitVec 6)
  /-- VMIN_N32_VS (R153). Unsigned minimum with a scalar. -/
  | vminN32Vs (g : BitVec 2) (d : BitVec 6) (a : BitVec 6) (b : BitVec 6)
  /-- VMAX_I32_VS (R153). Signed maximum with a scalar. -/
  | vmaxI32Vs (g : BitVec 2) (d : BitVec 6) (a : BitVec 6) (b : BitVec 6)
  /-- VMAX_N32_VS (R153). Unsigned maximum with a scalar. -/
  | vmaxN32Vs (g : BitVec 2) (d : BitVec 6) (a : BitVec 6) (b : BitVec 6)
  /-- VAND_VS (R153). AND with a scalar. -/
  | vandVs (g : BitVec 2) (d : BitVec 6) (a : BitVec 6) (b : BitVec 6)
  /-- VOR_VS (R153). OR with a scalar. -/
  | vorVs (g : BitVec 2) (d : BitVec 6) (a : BitVec 6) (b : BitVec 6)
  /-- VXOR_VS (R153). XOR with a scalar. -/
  | vxorVs (g : BitVec 2) (d : BitVec 6) (a : BitVec 6) (b : BitVec 6)
  /-- VSHL_VS (R153). Left shift by a scalar amount. -/
  | vshlVs (g : BitVec 2) (d : BitVec 6) (a : BitVec 6) (b : BitVec 6)
  /-- VSHR_VS (R153). Logical right shift by a scalar amount. -/
  | vshrVs (g : BitVec 2) (d : BitVec 6) (a : BitVec 6) (b : BitVec 6)
  /-- VSRA_VS (R153). Arithmetic right shift by a scalar amount. -/
  | vsraVs (g : BitVec 2) (d : BitVec 6) (a : BitVec 6) (b : BitVec 6)
  /-- VADDC_VS (R153). Add with carry, scalar operand. -/
  | vaddcVs (g : BitVec 2) (d : BitVec 6) (a : BitVec 6) (b : BitVec 6)
  /-- VSUBB_VS (R153). Subtract with borrow, scalar operand. -/
  | vsubbVs (g : BitVec 2) (d : BitVec 6) (a : BitVec 6) (b : BitVec 6)
  /-- VBFE_I32_VS (R153). Signed field extract with a scalar field descriptor. -/
  | vbfeI32Vs (g : BitVec 2) (d : BitVec 6) (a : BitVec 6) (b : BitVec 6)
  /-- VBFE_N32_VS (R153). Unsigned field extract with a scalar field descriptor. -/
  | vbfeN32Vs (g : BitVec 2) (d : BitVec 6) (a : BitVec 6) (b : BitVec 6)
  /-- VBFI_VS (R153). Field insert with a scalar field descriptor. -/
  | vbfiVs (g : BitVec 2) (d : BitVec 6) (a : BitVec 6) (b : BitVec 6)
  /-- VMOV_VS (R153). Writes sb[31:0] to every active lane of vd. -/
  | vmovVs (g : BitVec 2) (d : BitVec 6) (b : BitVec 6)
  /-- VADD_I32_VI (R154). Vector add of a sign-extended immediate. -/
  | vaddI32Vi (g : BitVec 2) (d : BitVec 6) (a : BitVec 6) (i : BitVec 8)
  /-- VMUL_I32_VI (R154). Vector multiply by a sign-extended immediate. -/
  | vmulI32Vi (g : BitVec 2) (d : BitVec 6) (a : BitVec 6) (i : BitVec 8)
  /-- VAND_VI (R154). Vector AND with a zero-extended immediate. -/
  | vandVi (g : BitVec 2) (d : BitVec 6) (a : BitVec 6) (i : BitVec 8)
  /-- VOR_VI (R154). Vector OR with a zero-extended immediate. -/
  | vorVi (g : BitVec 2) (d : BitVec 6) (a : BitVec 6) (i : BitVec 8)
  /-- VXOR_VI (R154). Vector XOR with a zero-extended immediate. -/
  | vxorVi (g : BitVec 2) (d : BitVec 6) (a : BitVec 6) (i : BitVec 8)
  /-- VSHL_VI (R154). Vector left shift by an immediate. -/
  | vshlVi (g : BitVec 2) (d : BitVec 6) (a : BitVec 6) (i : BitVec 5)
  /-- VSHR_VI (R154). Vector logical right shift by an immediate. -/
  | vshrVi (g : BitVec 2) (d : BitVec 6) (a : BitVec 6) (i : BitVec 5)
  /-- VSRA_VI (R154). Vector arithmetic right shift by an immediate. -/
  | vsraVi (g : BitVec 2) (d : BitVec 6) (a : BitVec 6) (i : BitVec 5)
  /-- VCMP_I32 (R156). Signed compare writing a mask. -/
  | vcmpI32 (g : BitVec 2) (c : BitVec 3) (d : BitVec 6) (a : BitVec 6) (b : BitVec 6)
  /-- VSEL (R157). Selects va or vb per lane by m0. -/
  | vsel (g : BitVec 2) (d : BitVec 6) (a : BitVec 6) (b : BitVec 6)
  /-- VCMP_N32 (R156). Unsigned compare writing a mask. -/
  | vcmpN32 (g : BitVec 2) (c : BitVec 3) (d : BitVec 6) (a : BitVec 6) (b : BitVec 6)
  /-- VCMP_F32 (R156). FP32 compare writing a mask. -/
  | vcmpF32 (g : BitVec 2) (c : BitVec 3) (d : BitVec 6) (a : BitVec 6) (b : BitVec 6)
  /-- VCMP_F64 (R156). FP64 compare on pairs writing a mask. -/
  | vcmpF64 (g : BitVec 2) (c : BitVec 3) (d : BitVec 6) (a : BitVec 6) (b : BitVec 6)
  /-- VFADD_F32 (R159). FP32 add rounded once by FMT.RM. -/
  | vfaddF32 (g : BitVec 2) (d : BitVec 6) (a : BitVec 6) (b : BitVec 6)
  /-- VFSUB_F32 (R159). FP32 subtract. -/
  | vfsubF32 (g : BitVec 2) (d : BitVec 6) (a : BitVec 6) (b : BitVec 6)
  /-- VFMUL_F32 (R159). FP32 multiply. -/
  | vfmulF32 (g : BitVec 2) (d : BitVec 6) (a : BitVec 6) (b : BitVec 6)
  /-- VFMA_F32 (R159). Fused FP32 multiply-add into vd. -/
  | vfmaF32 (g : BitVec 2) (d : BitVec 6) (a : BitVec 6) (b : BitVec 6)
  /-- VFMS_F32 (R159). Fused FP32 negated multiply-add into vd. -/
  | vfmsF32 (g : BitVec 2) (d : BitVec 6) (a : BitVec 6) (b : BitVec 6)
  /-- VFMIN_F32 (R160). FP32 minimum. -/
  | vfminF32 (g : BitVec 2) (d : BitVec 6) (a : BitVec 6) (b : BitVec 6)
  /-- VFMAX_F32 (R160). FP32 maximum. -/
  | vfmaxF32 (g : BitVec 2) (d : BitVec 6) (a : BitVec 6) (b : BitVec 6)
  /-- VFABS_F32 (R161). Clears the FP32 sign bit. -/
  | vfabsF32 (g : BitVec 2) (d : BitVec 6) (a : BitVec 6)
  /-- VFNEG_F32 (R161). Inverts the FP32 sign bit. -/
  | vfnegF32 (g : BitVec 2) (d : BitVec 6) (a : BitVec 6)
  /-- VFDIV_F32 (R159). FP32 divide, correctly rounded; XC. -/
  | vfdivF32 (g : BitVec 2) (d : BitVec 6) (a : BitVec 6) (b : BitVec 6)
  /-- VFSQRT_F32 (R159). FP32 square root, correctly rounded; XC. -/
  | vfsqrtF32 (g : BitVec 2) (d : BitVec 6) (a : BitVec 6)
  /-- VFCLASS_F32 (R161). Writes a one-hot FP32 class word. -/
  | vfclassF32 (g : BitVec 2) (d : BitVec 6) (a : BitVec 6)
  /-- VFADD_F32_VS (R162). FP32 add with a scalar operand. -/
  | vfaddF32Vs (g : BitVec 2) (d : BitVec 6) (a : BitVec 6) (b : BitVec 6)
  /-- VFSUB_F32_VS (R162). FP32 subtract of a scalar operand. -/
  | vfsubF32Vs (g : BitVec 2) (d : BitVec 6) (a : BitVec 6) (b : BitVec 6)
  /-- VFMUL_F32_VS (R162). FP32 multiply by a scalar operand. -/
  | vfmulF32Vs (g : BitVec 2) (d : BitVec 6) (a : BitVec 6) (b : BitVec 6)
  /-- VFMA_F32_VS (R162). Fused FP32 multiply-add with a scalar multiplier. -/
  | vfmaF32Vs (g : BitVec 2) (d : BitVec 6) (a : BitVec 6) (b : BitVec 6)
  /-- VFMS_F32_VS (R162). Fused FP32 negated multiply-add with a scalar multiplier. -/
  | vfmsF32Vs (g : BitVec 2) (d : BitVec 6) (a : BitVec 6) (b : BitVec 6)
  /-- VFMIN_F32_VS (R162). FP32 minimum with a scalar. -/
  | vfminF32Vs (g : BitVec 2) (d : BitVec 6) (a : BitVec 6) (b : BitVec 6)
  /-- VFMAX_F32_VS (R162). FP32 maximum with a scalar. -/
  | vfmaxF32Vs (g : BitVec 2) (d : BitVec 6) (a : BitVec 6) (b : BitVec 6)
  /-- VFDIV_F32_VS (R162). FP32 divide by a scalar; XC. -/
  | vfdivF32Vs (g : BitVec 2) (d : BitVec 6) (a : BitVec 6) (b : BitVec 6)
  /-- VFADD_F64 (R159). FP64 add on pairs. -/
  | vfaddF64 (g : BitVec 2) (d : BitVec 6) (a : BitVec 6) (b : BitVec 6)
  /-- VFSUB_F64 (R159). FP64 subtract. -/
  | vfsubF64 (g : BitVec 2) (d : BitVec 6) (a : BitVec 6) (b : BitVec 6)
  /-- VFMUL_F64 (R159). FP64 multiply. -/
  | vfmulF64 (g : BitVec 2) (d : BitVec 6) (a : BitVec 6) (b : BitVec 6)
  /-- VFMA_F64 (R159). Fused FP64 multiply-add into vd. -/
  | vfmaF64 (g : BitVec 2) (d : BitVec 6) (a : BitVec 6) (b : BitVec 6)
  /-- VFMS_F64 (R159). Fused FP64 negated multiply-add into vd. -/
  | vfmsF64 (g : BitVec 2) (d : BitVec 6) (a : BitVec 6) (b : BitVec 6)
  /-- VFMIN_F64 (R160). FP64 minimum. -/
  | vfminF64 (g : BitVec 2) (d : BitVec 6) (a : BitVec 6) (b : BitVec 6)
  /-- VFMAX_F64 (R160). FP64 maximum. -/
  | vfmaxF64 (g : BitVec 2) (d : BitVec 6) (a : BitVec 6) (b : BitVec 6)
  /-- VFABS_F64 (R161). Clears the FP64 sign bit. -/
  | vfabsF64 (g : BitVec 2) (d : BitVec 6) (a : BitVec 6)
  /-- VFNEG_F64 (R161). Inverts the FP64 sign bit. -/
  | vfnegF64 (g : BitVec 2) (d : BitVec 6) (a : BitVec 6)
  /-- VFDIV_F64 (R159). FP64 divide; XC. -/
  | vfdivF64 (g : BitVec 2) (d : BitVec 6) (a : BitVec 6) (b : BitVec 6)
  /-- VFSQRT_F64 (R159). FP64 square root; XC. -/
  | vfsqrtF64 (g : BitVec 2) (d : BitVec 6) (a : BitVec 6)
  /-- VFCLASS_F64 (R161). Writes the one-hot class word of an FP64 value. -/
  | vfclassF64 (g : BitVec 2) (d : BitVec 6) (a : BitVec 6)
  /-- VRECON (R181). Adds one scaled integer slice sum into an FP64 accumulator with one rounding. -/
  | vrecon (g : BitVec 2) (d : BitVec 6) (a : BitVec 6) (b : BitVec 6)
  /-- VHADD_H (R163). Packed FP16 add. -/
  | vhaddH (g : BitVec 2) (d : BitVec 6) (a : BitVec 6) (b : BitVec 6)
  /-- VHMUL_H (R163). Packed FP16 multiply. -/
  | vhmulH (g : BitVec 2) (d : BitVec 6) (a : BitVec 6) (b : BitVec 6)
  /-- VHFMA_H (R163). Packed FP16 fused multiply-add. -/
  | vhfmaH (g : BitVec 2) (d : BitVec 6) (a : BitVec 6) (b : BitVec 6)
  /-- VHADD_BF (R163). Packed BF16 add. -/
  | vhaddBf (g : BitVec 2) (d : BitVec 6) (a : BitVec 6) (b : BitVec 6)
  /-- VHMUL_BF (R163). Packed BF16 multiply. -/
  | vhmulBf (g : BitVec 2) (d : BitVec 6) (a : BitVec 6) (b : BitVec 6)
  /-- VHFMA_BF (R163). Packed BF16 fused multiply-add. -/
  | vhfmaBf (g : BitVec 2) (d : BitVec 6) (a : BitVec 6) (b : BitVec 6)
  /-- VCVT (R166). Converts per the conversion code, rounding by FMT.CRM. -/
  | vcvt (g : BitVec 2) (d : BitVec 6) (a : BitVec 6) (k : BitVec 6)
  /-- VCVTS (R168). Saturating conversion for narrowing and float-to-integer codes. -/
  | vcvts (g : BitVec 2) (d : BitVec 6) (a : BitVec 6) (k : BitVec 6)
  /-- VPACK_H_F32 (R169). Packs two FP32 values into FP16 halves. -/
  | vpackHF32 (g : BitVec 2) (d : BitVec 6) (a : BitVec 6) (b : BitVec 6)
  /-- VPACK_BF_F32 (R169). Packs two FP32 values into BF16 halves. -/
  | vpackBfF32 (g : BitVec 2) (d : BitVec 6) (a : BitVec 6) (b : BitVec 6)
  /-- VPACK_E4_H (R169). Packs four FP16 values into E4M3 bytes. -/
  | vpackE4H (g : BitVec 2) (d : BitVec 6) (a : BitVec 6) (b : BitVec 6)
  /-- VPACK_E5_H (R169). Packs four FP16 values into E5M2 bytes. -/
  | vpackE5H (g : BitVec 2) (d : BitVec 6) (a : BitVec 6) (b : BitVec 6)
  /-- VPACK_I16_I32 (R169). Packs two clamped signed 16-bit halves. -/
  | vpackI16I32 (g : BitVec 2) (d : BitVec 6) (a : BitVec 6) (b : BitVec 6)
  /-- VPACK_N16_I32 (R169). Packs two clamped unsigned 16-bit halves. -/
  | vpackN16I32 (g : BitVec 2) (d : BitVec 6) (a : BitVec 6) (b : BitVec 6)
  /-- VPACK_I8_I16 (R169). Packs four clamped signed bytes. -/
  | vpackI8I16 (g : BitVec 2) (d : BitVec 6) (a : BitVec 6) (b : BitVec 6)
  /-- VPACK_N8_I16 (R169). Packs four clamped unsigned bytes. -/
  | vpackN8I16 (g : BitVec 2) (d : BitVec 6) (a : BitVec 6) (b : BitVec 6)
  /-- VPACK_H_F32_SAT (R169). Saturating pack to FP16. -/
  | vpackHF32Sat (g : BitVec 2) (d : BitVec 6) (a : BitVec 6) (b : BitVec 6)
  /-- VPACK_BF_F32_SAT (R169). Saturating pack to BF16. -/
  | vpackBfF32Sat (g : BitVec 2) (d : BitVec 6) (a : BitVec 6) (b : BitVec 6)
  /-- VPACK_E4_H_SAT (R169). Saturating pack to E4M3. -/
  | vpackE4HSat (g : BitVec 2) (d : BitVec 6) (a : BitVec 6) (b : BitVec 6)
  /-- VPACK_E5_H_SAT (R169). Saturating pack to E5M2. -/
  | vpackE5HSat (g : BitVec 2) (d : BitVec 6) (a : BitVec 6) (b : BitVec 6)
  /-- VUNPACK_F32_H (R170). Widens FP16 half i to FP32. -/
  | vunpackF32H (g : BitVec 2) (d : BitVec 6) (a : BitVec 6) (i : BitVec 6)
  /-- VUNPACK_F32_BF (R170). Widens BF16 half i to FP32. -/
  | vunpackF32Bf (g : BitVec 2) (d : BitVec 6) (a : BitVec 6) (i : BitVec 6)
  /-- VUNPACK_H_E4 (R170). Widens two E4M3 bytes to FP16 halves. -/
  | vunpackHE4 (g : BitVec 2) (d : BitVec 6) (a : BitVec 6) (i : BitVec 6)
  /-- VUNPACK_H_E5 (R170). Widens two E5M2 bytes to FP16 halves. -/
  | vunpackHE5 (g : BitVec 2) (d : BitVec 6) (a : BitVec 6) (i : BitVec 6)
  /-- VUNPACK_I32_I16 (R170). Sign-extends half i. -/
  | vunpackI32I16 (g : BitVec 2) (d : BitVec 6) (a : BitVec 6) (i : BitVec 6)
  /-- VUNPACK_I32_N16 (R170). Zero-extends half i. -/
  | vunpackI32N16 (g : BitVec 2) (d : BitVec 6) (a : BitVec 6) (i : BitVec 6)
  /-- VUNPACK_I16_I8 (R170). Sign-extends two bytes to 16-bit halves. -/
  | vunpackI16I8 (g : BitVec 2) (d : BitVec 6) (a : BitVec 6) (i : BitVec 6)
  /-- VUNPACK_I32_I8 (R170). Sign-extends byte i. -/
  | vunpackI32I8 (g : BitVec 2) (d : BitVec 6) (a : BitVec 6) (i : BitVec 6)
  /-- VUNPACK_I32_N8 (R170). Zero-extends byte i. -/
  | vunpackI32N8 (g : BitVec 2) (d : BitVec 6) (a : BitVec 6) (i : BitVec 6)
  /-- VRCP_F32 (R171). FP32 reciprocal rounded by RNE; XC. -/
  | vrcpF32 (g : BitVec 2) (d : BitVec 6) (a : BitVec 6)
  /-- VRSQ_F32 (R171). FP32 reciprocal square root; XC. -/
  | vrsqF32 (g : BitVec 2) (d : BitVec 6) (a : BitVec 6)
  /-- VEXP2_F32 (R171). FP32 base-2 exponential; XC. -/
  | vexp2F32 (g : BitVec 2) (d : BitVec 6) (a : BitVec 6)
  /-- VLOG2_F32 (R171). FP32 base-2 logarithm; XC. -/
  | vlog2F32 (g : BitVec 2) (d : BitVec 6) (a : BitVec 6)
  /-- VSIN_F32 (R171). FP32 sine; XC. -/
  | vsinF32 (g : BitVec 2) (d : BitVec 6) (a : BitVec 6)
  /-- VCOS_F32 (R171). FP32 cosine; XC. -/
  | vcosF32 (g : BitVec 2) (d : BitVec 6) (a : BitVec 6)
  /-- VPERM (R173). Each active lane reads va from the lane index in vb, fill 0. -/
  | vperm (g : BitVec 2) (d : BitVec 6) (a : BitVec 6) (b : BitVec 6)
  /-- VPERM_K (R173). VPERM keeping the old vd as fill. -/
  | vpermK (g : BitVec 2) (d : BitVec 6) (a : BitVec 6) (b : BitVec 6)
  /-- VSHFL (R174). XOR shuffle by a literal offset. -/
  | vshfl (g : BitVec 2) (d : BitVec 6) (a : BitVec 6) (n : BitVec 6)
  /-- VSHFL_K (R174). XOR shuffle by a literal offset, old vd as fill. -/
  | vshflK (g : BitVec 2) (d : BitVec 6) (a : BitVec 6) (n : BitVec 6)
  /-- VSHFL_W (R174). XOR shuffle by W >> k. -/
  | vshflW (g : BitVec 2) (d : BitVec 6) (a : BitVec 6) (k : BitVec 3)
  /-- VSHFL_K_W (R174). XOR shuffle by W >> k, old vd as fill. -/
  | vshflKW (g : BitVec 2) (d : BitVec 6) (a : BitVec 6) (k : BitVec 3)
  /-- VROT (R174). Lane rotation by a literal offset. -/
  | vrot (g : BitVec 2) (d : BitVec 6) (a : BitVec 6) (n : BitVec 6)
  /-- VROT_K (R174). Lane rotation by a literal offset, old vd as fill. -/
  | vrotK (g : BitVec 2) (d : BitVec 6) (a : BitVec 6) (n : BitVec 6)
  /-- VROT_W (R174). Lane rotation by W >> k. -/
  | vrotW (g : BitVec 2) (d : BitVec 6) (a : BitVec 6) (k : BitVec 3)
  /-- VROT_K_W (R174). Lane rotation by W >> k, old vd as fill. -/
  | vrotKW (g : BitVec 2) (d : BitVec 6) (a : BitVec 6) (k : BitVec 3)
  /-- VBCAST (R174). Broadcasts source lane n. -/
  | vbcast (g : BitVec 2) (d : BitVec 6) (a : BitVec 6) (n : BitVec 6)
  /-- VBCAST_K (R174). Broadcasts source lane n, old vd as fill. -/
  | vbcastK (g : BitVec 2) (d : BitVec 6) (a : BitVec 6) (n : BitVec 6)
  /-- VRED (R175). Reduces the active lanes over a fixed tree and writes the result to every active lane. -/
  | vred (g : BitVec 2) (d : BitVec 6) (a : BitVec 6) (p : BitVec 6)
  /-- VSCAN (R176). Inclusive prefix over lane positions. -/
  | vscan (g : BitVec 2) (d : BitVec 6) (a : BitVec 6) (p : BitVec 6)
  /-- VBALLOT (R178). Writes a mask of the active lanes whose va is non-zero. -/
  | vballot (g : BitVec 2) (d : BitVec 6) (a : BitVec 6)
  /-- VVOTE (R178). Writes the ALL, SOME or UNI predicate over the active lanes. -/
  | vvote (g : BitVec 2) (d : BitVec 6) (a : BitVec 6) (m : BitVec 6)
  /-- VMOVS_N32 (R179). Copies lane n of va, zero-extended, to a scalar. -/
  | vmovsN32 (g : BitVec 2) (d : BitVec 6) (a : BitVec 6) (n : BitVec 6)
  /-- VMOVS_I32 (R179). Copies lane n of va, sign-extended, to a scalar. -/
  | vmovsI32 (g : BitVec 2) (d : BitVec 6) (a : BitVec 6) (n : BitVec 6)
  /-- VMOVS_N64 (R179). Copies the 64-bit lane n of a pair to a scalar. -/
  | vmovsN64 (g : BitVec 2) (d : BitVec 6) (a : BitVec 6) (n : BitVec 6)
  /-- VMOVL (R179). Writes a sign-extended 12-bit immediate to the active lanes. -/
  | vmovl (g : BitVec 2) (d : BitVec 6) (i : BitVec 6) (j : BitVec 6)
  /-- VINS_N32 (R179). Writes sb[31:0] into lane n of vd. -/
  | vinsN32 (g : BitVec 2) (d : BitVec 6) (n : BitVec 6) (b : BitVec 6)
  /-- VINS_N64 (R179). Writes sb into lane n of the pair vd. -/
  | vinsN64 (g : BitVec 2) (d : BitVec 6) (n : BitVec 6) (b : BitVec 6)
  /-- VLANE (R179). Writes LANEID to the active lanes. -/
  | vlane (g : BitVec 2) (d : BitVec 6)
  /-- VSPLIT (R180). Writes one INT8 slice digit of an FP64 value into byte b of vd. -/
  | vsplit (g : BitVec 2) (x : BitVec 3) (y : BitVec 2) (d : BitVec 6) (a : BitVec 6) (b : BitVec 6)
  /-- VLD (R208). Per-lane global load of the width F3 gives, with the cache hint H. -/
  | vld (g : BitVec 2) (w : BitVec 3) (d : BitVec 6) (b : BitVec 6) (o : BitVec 6) (h : BitVec 2)
  /-- PREFETCH (R213). Requests the lines of the active lanes into L2 or L1 without faulting. -/
  | prefetch (g : BitVec 2) (l : BitVec 1) (b : BitVec 6) (o : BitVec 6) (h : BitVec 2)
  /-- VST (R208). Per-lane global store of the width F3 gives, with the cache hint H. -/
  | vst (g : BitVec 2) (w : BitVec 3) (d : BitVec 6) (b : BitVec 6) (o : BitVec 6) (h : BitVec 2)
  /-- ATOM_ADD (R220). 32-bit atomic add returning the old value. -/
  | atomAdd (g : BitVec 2) (o : BitVec 1) (d : BitVec 6) (a : BitVec 6) (b : BitVec 6)
  /-- ATOM_MIN (R220). 32-bit atomic signed minimum. -/
  | atomMin (g : BitVec 2) (o : BitVec 1) (d : BitVec 6) (a : BitVec 6) (b : BitVec 6)
  /-- ATOM_MAX (R220). 32-bit atomic signed maximum. -/
  | atomMax (g : BitVec 2) (o : BitVec 1) (d : BitVec 6) (a : BitVec 6) (b : BitVec 6)
  /-- ATOM_MINU (R220). 32-bit atomic unsigned minimum. -/
  | atomMinu (g : BitVec 2) (o : BitVec 1) (d : BitVec 6) (a : BitVec 6) (b : BitVec 6)
  /-- ATOM_MAXU (R220). 32-bit atomic unsigned maximum. -/
  | atomMaxu (g : BitVec 2) (o : BitVec 1) (d : BitVec 6) (a : BitVec 6) (b : BitVec 6)
  /-- ATOM_AND (R220). 32-bit atomic AND. -/
  | atomAnd (g : BitVec 2) (o : BitVec 1) (d : BitVec 6) (a : BitVec 6) (b : BitVec 6)
  /-- ATOM_OR (R220). 32-bit atomic OR. -/
  | atomOr (g : BitVec 2) (o : BitVec 1) (d : BitVec 6) (a : BitVec 6) (b : BitVec 6)
  /-- ATOM_XOR (R220). 32-bit atomic XOR. -/
  | atomXor (g : BitVec 2) (o : BitVec 1) (d : BitVec 6) (a : BitVec 6) (b : BitVec 6)
  /-- ATOM_XCHG (R220). 32-bit atomic exchange. -/
  | atomXchg (g : BitVec 2) (d : BitVec 6) (a : BitVec 6) (b : BitVec 6)
  /-- CAS (R220). 32-bit compare-and-swap against vd. -/
  | cas (g : BitVec 2) (d : BitVec 6) (a : BitVec 6) (b : BitVec 6)
  /-- RED_ADD (R220). 32-bit integer reduction add at the home slice. -/
  | redAdd (g : BitVec 2) (a : BitVec 6) (b : BitVec 6)
  /-- RED_MIN (R220). 32-bit signed minimum reduction. -/
  | redMin (g : BitVec 2) (a : BitVec 6) (b : BitVec 6)
  /-- RED_MAX (R220). 32-bit signed maximum reduction. -/
  | redMax (g : BitVec 2) (a : BitVec 6) (b : BitVec 6)
  /-- RED_MINU (R220). 32-bit unsigned minimum reduction. -/
  | redMinu (g : BitVec 2) (a : BitVec 6) (b : BitVec 6)
  /-- RED_MAXU (R220). 32-bit unsigned maximum reduction. -/
  | redMaxu (g : BitVec 2) (a : BitVec 6) (b : BitVec 6)
  /-- RED_AND (R220). 32-bit AND reduction. -/
  | redAnd (g : BitVec 2) (a : BitVec 6) (b : BitVec 6)
  /-- RED_OR (R220). 32-bit OR reduction. -/
  | redOr (g : BitVec 2) (a : BitVec 6) (b : BitVec 6)
  /-- RED_XOR (R220). 32-bit XOR reduction. -/
  | redXor (g : BitVec 2) (a : BitVec 6) (b : BitVec 6)
  /-- RED_ADD_F32 (R221). FP32 reduction add, ordered at the memory-side unit or in arrival order. -/
  | redAddF32 (g : BitVec 2) (o : BitVec 1) (a : BitVec 6) (b : BitVec 6)
  /-- RED_ADD_BF (R221). BF16 reduction add on a 2-byte location. -/
  | redAddBf (g : BitVec 2) (o : BitVec 1) (a : BitVec 6) (b : BitVec 6)
  /-- ATOMD_ADD (R220). 64-bit atomic add. -/
  | atomdAdd (g : BitVec 2) (o : BitVec 1) (d : BitVec 6) (a : BitVec 6) (b : BitVec 6)
  /-- ATOMD_MIN (R220). 64-bit atomic signed minimum. -/
  | atomdMin (g : BitVec 2) (o : BitVec 1) (d : BitVec 6) (a : BitVec 6) (b : BitVec 6)
  /-- ATOMD_MAX (R220). 64-bit atomic signed maximum. -/
  | atomdMax (g : BitVec 2) (o : BitVec 1) (d : BitVec 6) (a : BitVec 6) (b : BitVec 6)
  /-- ATOMD_MINU (R220). 64-bit atomic unsigned minimum. -/
  | atomdMinu (g : BitVec 2) (o : BitVec 1) (d : BitVec 6) (a : BitVec 6) (b : BitVec 6)
  /-- ATOMD_MAXU (R220). 64-bit atomic unsigned maximum. -/
  | atomdMaxu (g : BitVec 2) (o : BitVec 1) (d : BitVec 6) (a : BitVec 6) (b : BitVec 6)
  /-- ATOMD_AND (R220). 64-bit atomic AND. -/
  | atomdAnd (g : BitVec 2) (o : BitVec 1) (d : BitVec 6) (a : BitVec 6) (b : BitVec 6)
  /-- ATOMD_OR (R220). 64-bit atomic OR. -/
  | atomdOr (g : BitVec 2) (o : BitVec 1) (d : BitVec 6) (a : BitVec 6) (b : BitVec 6)
  /-- ATOMD_XOR (R220). 64-bit atomic XOR. -/
  | atomdXor (g : BitVec 2) (o : BitVec 1) (d : BitVec 6) (a : BitVec 6) (b : BitVec 6)
  /-- ATOMD_XCHG (R220). 64-bit atomic exchange. -/
  | atomdXchg (g : BitVec 2) (d : BitVec 6) (a : BitVec 6) (b : BitVec 6)
  /-- CASD (R220). 64-bit compare-and-swap. -/
  | casd (g : BitVec 2) (d : BitVec 6) (a : BitVec 6) (b : BitVec 6)
  /-- REDD_ADD (R220). 64-bit integer reduction add. -/
  | reddAdd (g : BitVec 2) (a : BitVec 6) (b : BitVec 6)
  /-- REDD_MIN (R220). 64-bit signed minimum reduction. -/
  | reddMin (g : BitVec 2) (a : BitVec 6) (b : BitVec 6)
  /-- REDD_MAX (R220). 64-bit signed maximum reduction. -/
  | reddMax (g : BitVec 2) (a : BitVec 6) (b : BitVec 6)
  /-- REDD_MINU (R220). 64-bit unsigned minimum reduction. -/
  | reddMinu (g : BitVec 2) (a : BitVec 6) (b : BitVec 6)
  /-- REDD_MAXU (R220). 64-bit unsigned maximum reduction. -/
  | reddMaxu (g : BitVec 2) (a : BitVec 6) (b : BitVec 6)
  /-- REDD_AND (R220). 64-bit AND reduction. -/
  | reddAnd (g : BitVec 2) (a : BitVec 6) (b : BitVec 6)
  /-- REDD_OR (R220). 64-bit OR reduction. -/
  | reddOr (g : BitVec 2) (a : BitVec 6) (b : BitVec 6)
  /-- REDD_XOR (R220). 64-bit XOR reduction. -/
  | reddXor (g : BitVec 2) (a : BitVec 6) (b : BitVec 6)
  /-- REDD_ADD_F64 (R221). FP64 reduction add, ordered or in arrival order. -/
  | reddAddF64 (g : BitVec 2) (o : BitVec 1) (a : BitVec 6) (b : BitVec 6)
  /-- FENCE_REL (R190). Drains accepted accesses and publishes the signature filter at the named scope. -/
  | fenceRel (g : BitVec 2) (p : BitVec 3)
  /-- FENCE_ACQ (R191). Waits for earlier loads, then invalidates the L1 lines that match INB. -/
  | fenceAcq (g : BitVec 2) (p : BitVec 3)
  /-- FENCE_AR (R226). Performs FENCE.REL then FENCE.ACQ at one scope. -/
  | fenceAr (g : BitVec 2) (p : BitVec 3)
  /-- INVL1 (R227). Invalidates the core's L1, read-only lines too when ALL is set. -/
  | invl1 (g : BitVec 2) (l : BitVec 1)
  /-- WAITCMP (R229). Compares a location at its home slice and parks on a monitor until the condition holds. -/
  | waitcmp (g : BitVec 2) (a : BitVec 6) (v : BitVec 6) (c : BitVec 3) (z : BitVec 1) (t : BitVec 1)
  /-- MONCANCEL (R230). Cancels the team's monitors on one address or all of them. -/
  | moncancel (g : BitVec 2) (a : BitVec 6) (l : BitVec 1)
  /-- TLD (R216). Loads from the team's typed buffer selected by H into vector registers. -/
  | tld (g : BitVec 2) (w : BitVec 3) (d : BitVec 6) (b : BitVec 6) (o : BitVec 5) (h : BitVec 2)
  /-- TST (R216). Stores vector registers into the team's typed buffer selected by H. -/
  | tst (g : BitVec 2) (w : BitVec 3) (d : BitVec 6) (b : BitVec 6) (o : BitVec 5) (h : BitVec 2)
  /-- COPYKICK_ORD (R233). Submits copy records to the copy engine, ordered accumulation. -/
  | copykickOrd (g : BitVec 2) (a : BitVec 6) (b : BitVec 6)
  /-- COPYKICK_ANY (R233). Submits copy records to the copy engine, accumulation in arrival order allowed. -/
  | copykickAny (g : BitVec 2) (a : BitVec 6) (b : BitVec 6)
  /-- CDINIT (R237). Initialises a count-down object with REMAIN and ERR 0. -/
  | cdinit (g : BitVec 2) (a : BitVec 6) (b : BitVec 6)
  /-- YIELDC (R238). Parks the group until a count-down object reaches 0, then resumes at the continuation PC. -/
  | yieldc (g : BitVec 2) (a : BitVec 6) (b : BitVec 6)
  /-- PIN (R239). Reserves slice ways of the die for a retention window and reports the outcome in SFL. -/
  | pin (g : BitVec 2) (k : BitVec 2) (n : BitVec 3) (a : BitVec 6) (b : BitVec 6)
  /-- UNPIN (R240). Releases a retention window held by the issuing grid. -/
  | unpin (g : BitVec 2) (k : BitVec 2)
  /-- BAR (R242). Arrives at team barrier b and waits for its phase change. -/
  | bar (g : BitVec 2) (b : BitVec 4) (m : BitVec 4)
  /-- BARA (R242). Arrives at team barrier b after a TEAM release, completing the phase when all participants have arrived. -/
  | bara (g : BitVec 2) (b : BitVec 4) (m : BitVec 4)
  /-- BARW (R242). Waits for barrier b's phase change, then acquires at TEAM. -/
  | barw (g : BitVec 2) (b : BitVec 4)
  /-- GANGBAR (R243). Gang-level barrier with GANG release and acquire. -/
  | gangbar (g : BitVec 2)
  /-- GRIDBAR (R243). Grid-level barrier arrival with DEVICE release. -/
  | gridbar (g : BitVec 2)
  /-- STAGEACQ (R244). Parks until the ring slot at the cursor is ready for the role, then acquires it. -/
  | stageacq (g : BitVec 2)
  /-- STAGEREL (R244). Releases the acquired ring slot and advances the cursor. -/
  | stagerel (g : BitVec 2)
  /-- MMA (R254). Joint matrix multiply accumulating into the cells as stored. -/
  | mma (g : BitVec 2) (a : BitVec 6) (s : BitVec 6) (t : BitVec 6)
  /-- MMA_R (R259). MMA that fills or uses and keeps the set's reuse latch. -/
  | mmaR (g : BitVec 2) (a : BitVec 6) (s : BitVec 6) (t : BitVec 6)
  /-- MMAS (R254). Joint matrix multiply starting the accumulator at zero with flags clear. -/
  | mmas (g : BitVec 2) (a : BitVec 6) (s : BitVec 6) (t : BitVec 6)
  /-- MMAS_R (R259). MMAS that fills or uses and keeps the set's reuse latch. -/
  | mmasR (g : BitVec 2) (a : BitVec 6) (s : BitVec 6) (t : BitVec 6)
  /-- MXSET (R247). Writes the issuing-set register ISET. -/
  | mxset (g : BitVec 2) (a : BitVec 6)
  /-- MSCALE (R253). Sets the row and column scale addresses in MSR. -/
  | mscale (g : BitVec 2) (a : BitVec 6) (b : BitVec 6)
  /-- MXCONT (R263). Continues or abandons a split matrix operation from a continuation block. -/
  | mxcont (g : BitVec 2) (a : BitVec 6) (b : BitVec 6)
  /-- MXWAIT (R264). Holds the group until the named groups' counted matrix operations have ended. -/
  | mxwait (g : BitVec 2) (a : BitVec 6)
  /-- MXCLR (R265). Clears a range of CBUF cells after earlier operations on them. -/
  | mxclr (g : BitVec 2) (a : BitVec 6) (b : BitVec 6)
  /-- MXFLAG (R266). ORs the flags of a range of cells into FLG and sd. -/
  | mxflag (g : BitVec 2) (d : BitVec 6) (a : BitVec 6) (b : BitVec 6)
  /-- MXFLAG_C (R266). MXFLAG that also clears the cell flags. -/
  | mxflagC (g : BitVec 2) (d : BitVec 6) (a : BitVec 6) (b : BitVec 6)
  /-- MXRD (R267). Reads a matrix state word into sd. -/
  | mxrd (g : BitVec 2) (d : BitVec 6) (n : BitVec 6)
  /-- SWDECL (R290). Declares a tensor, builds its maps and counts, and returns a handle. -/
  | swdecl (g : BitVec 2) (d : BitVec 6) (a : BitVec 6)
  /-- SWSTART (R291). Starts n sweeps on every segment of a tensor. -/
  | swstart (g : BitVec 2) (h : BitVec 2) (a : BitVec 6) (b : BitVec 6)
  /-- SWSTART_RESUME (R291). Resumes a halted tensor from its saved cursors. -/
  | swstartResume (g : BitVec 2) (h : BitVec 2) (a : BitVec 6) (b : BitVec 6)
  /-- SWHALT (R293). Stops every segment at its next run boundary. -/
  | swhalt (g : BitVec 2) (h : BitVec 2)
  /-- SWSTAT (R294). Reads a live sweep status word. -/
  | swstat (g : BitVec 2) (d : BitVec 6) (e : BitVec 6) (h : BitVec 2)
  /-- SWSTAT_C (R294). Reads a sweep status word and clears FLAGS. -/
  | swstatC (g : BitVec 2) (d : BitVec 6) (e : BitVec 6) (h : BitVec 2)
  /-- SWFREE (R295). Releases a tensor handle unless it is running. -/
  | swfree (g : BitVec 2) (h : BitVec 2)
  /-- CWAKE_ANY (R296). Sends wakes for cells to the segment engines, applied at run boundaries. -/
  | cwakeAny (g : BitVec 2) (h : BitVec 2) (a : BitVec 6)
  /-- CWAKE_ORD (R296). Sends keyed wakes for cells, applied at the next opening boundary. -/
  | cwakeOrd (g : BitVec 2) (h : BitVec 2) (a : BitVec 6)
  /-- CYIELD (R297). Lane waits awake at a new continuation point. -/
  | cyield (g : BitVec 2) (p : BitVec 16)
  /-- CSLEEP (R297). Lane waits sleeping at a new continuation point. -/
  | csleep (g : BitVec 2) (p : BitVec 16)
  /-- CDONE (R297). Lane waits as done at its own CPC. -/
  | cdone (g : BitVec 2)
  /-- CWAITM (R299). Lane compares a word at its home slice and waits awake or on a monitor. -/
  | cwaitm (g : BitVec 2) (c : BitVec 3) (a : BitVec 6) (b : BitVec 6)
  /-- CWAKE (R300). Routine wake of cells, applied at its run's write-back or at a sweep boundary. -/
  | cwake (g : BitVec 2) (a : BitVec 6)
  /-- CIDX (R297). Writes each lane's cell index. -/
  | cidx (g : BitVec 2) (d : BitVec 6)
  /-- CSTAT (R297). Writes the loaded REF and the sweep count. -/
  | cstat (g : BitVec 2) (d : BitVec 6)
  /-- LAUNCH (R309). Appends a launch-record address to launch queue q after a DEVICE drain. -/
  | launch (g : BitVec 2) (a : BitVec 6) (q : BitVec 4)
  /-- AMSEND_ANY (R310). Sends an active message to a team or core. -/
  | amsendAny (g : BitVec 2) (v : BitVec 6) (a : BitVec 6) (h : BitVec 4)
  /-- AMSEND_ORD (R311). Sends an active message released at the receiving team's next barrier phase change. -/
  | amsendOrd (g : BitVec 2) (v : BitVec 6) (a : BitVec 6) (h : BitVec 4)
  /-- VADD_I32_PARCEL (R92). Parcel form of vd := vd + vs. -/
  | vaddI32Parcel (t : BitVec 1) (d : BitVec 5) (b : BitVec 5)
  /-- VSUB_I32_PARCEL (R92). Parcel form of VSUB.I32. -/
  | vsubI32Parcel (t : BitVec 1) (d : BitVec 5) (b : BitVec 5)
  /-- VMUL_I32_PARCEL (R92). Parcel form of VMUL.I32. -/
  | vmulI32Parcel (t : BitVec 1) (d : BitVec 5) (b : BitVec 5)
  /-- VMIN_I32_PARCEL (R92). Parcel form of VMIN.I32. -/
  | vminI32Parcel (t : BitVec 1) (d : BitVec 5) (b : BitVec 5)
  /-- VMAX_I32_PARCEL (R92). Parcel form of VMAX.I32. -/
  | vmaxI32Parcel (t : BitVec 1) (d : BitVec 5) (b : BitVec 5)
  /-- VAND_PARCEL (R92). Parcel form of VAND. -/
  | vandParcel (t : BitVec 1) (d : BitVec 5) (b : BitVec 5)
  /-- VOR_PARCEL (R92). Parcel form of VOR. -/
  | vorParcel (t : BitVec 1) (d : BitVec 5) (b : BitVec 5)
  /-- VXOR_PARCEL (R92). Parcel form of VXOR. -/
  | vxorParcel (t : BitVec 1) (d : BitVec 5) (b : BitVec 5)
  /-- VSHL_PARCEL (R92). Parcel form of VSHL. -/
  | vshlParcel (t : BitVec 1) (d : BitVec 5) (b : BitVec 5)
  /-- VSHR_PARCEL (R92). Parcel form of VSHR. -/
  | vshrParcel (t : BitVec 1) (d : BitVec 5) (b : BitVec 5)
  /-- VMOV_PARCEL (R149). Parcel form of vd := vs. -/
  | vmovParcel (t : BitVec 1) (d : BitVec 5) (b : BitVec 5)
  /-- VFADD_F32_PARCEL (R92). Parcel form of VFADD.F32. -/
  | vfaddF32Parcel (t : BitVec 1) (d : BitVec 5) (b : BitVec 5)
  /-- VFSUB_F32_PARCEL (R92). Parcel form of VFSUB.F32. -/
  | vfsubF32Parcel (t : BitVec 1) (d : BitVec 5) (b : BitVec 5)
  /-- VFMUL_F32_PARCEL (R92). Parcel form of VFMUL.F32. -/
  | vfmulF32Parcel (t : BitVec 1) (d : BitVec 5) (b : BitVec 5)
  /-- VFMIN_F32_PARCEL (R92). Parcel form of VFMIN.F32. -/
  | vfminF32Parcel (t : BitVec 1) (d : BitVec 5) (b : BitVec 5)
  /-- VFMAX_F32_PARCEL (R92). Parcel form of VFMAX.F32. -/
  | vfmaxF32Parcel (t : BitVec 1) (d : BitVec 5) (b : BitVec 5)
  /-- NULL_PARCEL (R93). The undefined parcel 0x0000 raises the illegal-instruction trap with reason 1. -/
  | nullParcel
  /-- PARKED_GROUP_RECLAIM (R18). A parked group whose event has returned takes a free issue entry, in order of return. -/
  | parkedGroupReclaim (core : Nat)
  /-- GROUP_PROMOTE (R36). A ready group is promoted after 32 consecutive issue opportunities. -/
  | groupPromote (core : Nat) (slot : Nat)
  /-- LOAD_LAND (R106). The result of a load or returning atomic is written to its registers and LC falls. -/
  | loadLand (core : Nat) (id : Nat)
  /-- XC_RESULT_LAND (R147). A variable-latency arithmetic result lands, its flags are set and XC falls, or its enabled trap is taken. -/
  | xcResultLand (core : Nat) (id : Nat)
  /-- TBUF_ACCESS_COMPLETE (R216). A typed-buffer access completes and TC falls. -/
  | tbufAccessComplete (core : Nat) (id : Nat)
  /-- STORE_ACK (R105). A store, reduction or ordered update is acknowledged by its home and SC falls. -/
  | storeAck (core : Nat) (id : Nat)
  /-- FILL_RETURN (R184). A fill returns to the L1 and is installed with later accepted stores applied, or delivered without install. -/
  | fillReturn (core : Nat) (id : Nat)
  /-- WALK_COMPLETE (R333). A translation walk ends with a translation, a page fault or an access fault. -/
  | walkComplete (die : Nat)
  /-- GROUP_RETIRE (R35). A group with no lanes and zero LC, TC, MC and XC retires, freeing slot, entry and quarter-rows. -/
  | groupRetire (core : Nat) (slot : Nat)
  /-- TEAM_RETIRE (R35). A team retires once its groups, copies, sweeps and handlers have finished, freeing its allotments. -/
  | teamRetire (launch : Nat) (lin : Nat)
  /-- GRID_END (R35). After the last team retires the device publishes signatures, drains to DEVICE and writes the completion object. -/
  | gridEnd (launch : Nat)
  /-- AM_ARRIVAL (R33). An active message reaches its core and spawns a handler group or queues. -/
  | amArrival (core : Nat)
  /-- HANDLER_SPAWN (R34). A queued active message spawns a handler group when a handler slot frees. -/
  | handlerSpawn (core : Nat)
  /-- SIGNATURE_RECEIVE (R188). A published signature arrives, is ORed into INB and wider SIG filters, and is acknowledged. -/
  | signatureReceive (core : Nat)
  /-- SIGNATURE_ACK_RECEIVE (R190). A signature acknowledgment returns; the release completes when all have returned. -/
  | signatureAckReceive (core : Nat)
  /-- SLICE_REQUEST (R365). A home slice accepts and performs a request, updating recency and choosing victims. -/
  | sliceRequest (die : Nat) (slice : Nat)
  /-- MONITOR_WAKE_ARRIVE (R202). A monitor wake reaches the core and, once its reply has landed, completes the waiting WAITCMP. -/
  | monitorWakeArrive (core : Nat)
  /-- WAITCMP_TIMEOUT (R229). A WAITCMP timeout expires and the wait completes with C = 1. -/
  | waitcmpTimeout (core : Nat) (slot : Nat)
  /-- MONFULL_BACKOFF_END (R229). The 1 024-cycle back-off after a MONFULL completion ends. -/
  | monfullBackoffEnd (core : Nat) (slot : Nat)
  /-- MS_UNIT_ACCESS (R200). A .MS access is performed at the memory-side unit after slice write-back. -/
  | msUnitAccess (die : Nat) (stack : Nat)
  /-- ORDERED_UPDATE_ARRIVE (R371). An ordered update arrives at the memory-side unit and is held or accumulated exactly. -/
  | orderedUpdateArrive (die : Nat) (stack : Nat)
  /-- ORDERED_FLUSH (R371). The held updates of an address are applied in key order or by one exact rounding. -/
  | orderedFlush (die : Nat) (stack : Nat) (addr : Nat)
  /-- GRIDBAR_COMPLETE (R243). The last team arrives; held updates flush, ATOM.ORD results are delivered and groups are released. -/
  | gridbarComplete (launch : Nat)
  /-- COPY_KICK_START (R233). The copy engine begins executing a queued kick. -/
  | copyKickStart (core : Nat)
  /-- COPY_RECORD_DONE (R236). A record's bytes are written and counted off its count-down object, or the record ends in error. -/
  | copyRecordDone (core : Nat)
  /-- MATRIX_OP_START (R257). A queued matrix operation starts when the engine is free. -/
  | matrixOpStart (core : Nat)
  /-- MATRIX_BLOCK_WRITE (R257). The cell writes of a K-block take effect at their scheduled cycle. -/
  | matrixBlockWrite (core : Nat)
  /-- MATRIX_OP_END (R263). The operation writes its last cell and MC falls in every member. -/
  | matrixOpEnd (core : Nat)
  /-- MATRIX_SPLIT (R261). An operation splits at a block boundary on a save or data error and records a continuation block. -/
  | matrixSplit (core : Nat) (cause : Nat)
  /-- RUN_GROUP_PLACE (R274). A segment engine places its run group once a slot and quarter-rows are free. -/
  | runGroupPlace (tensor : Nat) (seg : Nat)
  /-- SWEEP_OPENING_BOUNDARY (R277). A SWSTART opens on a segment and applies held wakes. -/
  | sweepOpeningBoundary (tensor : Nat) (seg : Nat)
  /-- SWEEP_RUN_STEP (R277). The engine skips a chunk by its summary bit or loads the next run and advances the cursor. -/
  | sweepRunStep (tensor : Nat) (seg : Nat)
  /-- RUN_WRITE_BACK (R278). After the last class of a run, elements, contexts and maps are written back and the run's wakes applied. -/
  | runWriteBack (tensor : Nat) (seg : Nat)
  /-- CLASS_BUDGET_EXHAUSTED (R277). A class issues 65 536 instructions and its remaining lanes fault with 0xF1. -/
  | classBudgetExhausted (tensor : Nat) (seg : Nat)
  /-- SWEEP_BOUNDARY (R280). The cursor wraps at the segment end; with SYNC, engines meet and apply cross-segment wakes. -/
  | sweepBoundary (tensor : Nat) (seg : Nat)
  /-- SWEEP_CLOSING_BOUNDARY (R279). A SWSTART ends, monitors are cancelled and the completion record is written. -/
  | sweepClosingBoundary (tensor : Nat) (seg : Nat)
  /-- EXTERNAL_WAKE_ARRIVE (R296). A CWAKE control message reaches the segment engine and is held for its boundary. -/
  | externalWakeArrive (core : Nat)
  /-- SWEEP_ENGINE_FAULT (R425). An engine access fault stops every segment as halted with EFLT. -/
  | sweepEngineFault (tensor : Nat) (seg : Nat)
  /-- LAUNCH_ADMIT (R304). At a TEMPO multiple of 32 the distributor checks a queue head and admits or refuses it. -/
  | launchAdmit
  /-- GANG_PLACE (R312). At a TEMPO multiple of 32 the distributor places the next gang that fits. -/
  | gangPlace
  /-- PA_PARK (R318). With CNT below THR each core power-parks one more user group. -/
  | paPark (cluster : Nat)
  /-- PA_RELEASE (R318). With CNT at or above THR + HYS each core releases its most recently parked group. -/
  | paRelease (cluster : Nat)
  /-- PA_ROTATE (R318). Every 8 192 core cycles each core rotates its power-parked set. -/
  | paRotate (core : Nat)
  /-- CRREQ_WRITE (R320). A converter-ratio request starts a ramp, is dropped, or becomes pending. -/
  | crreqWrite (path : Path) (cluster : Nat) (value : BitVec 64)
  /-- RAMP_END (R320). A 2 400-cycle ramp ends, the new ratio applies and a pending request is taken. -/
  | rampEnd (cluster : Nat)
  /-- SLEW_ADMIT (R323). The die's slew limiter admits a queued idle cluster in a 256-cycle window. -/
  | slewAdmit (die : Nat)
  /-- HALT_ARRIVE (R330). A halt broadcast reaches a group, which stops within four cycles recording HPC and SKID. -/
  | haltArrive (core : Nat) (slot : Nat)
  /-- TAKEBACK (R342). A late transition is caught; the core's instructions of two cycles are cancelled and the timeline shifts by 6 cycles. -/
  | takeback (core : Nat) (slot : Nat) (stage : Nat) (engine : Bool)
  /-- TAKEBACK_REPEAT_CAUGHT (R342). The repetition is caught again; the core enters safe mode. -/
  | takebackRepeatCaught (core : Nat) (slot : Nat) (stage : Nat)
  /-- GUARD_FAILURE (R344). A transition caught under guarded issue quarantines the core. -/
  | guardFailure (core : Nat) (slot : Nat)
  /-- TBWIN_RESTART (R348). The takeback window expires and TBCNT is cleared. -/
  | tbwinRestart (core : Nat)
  /-- QUARANTINE_CLEAR (R349). System software clears a quarantined core that passed self-test. -/
  | quarantineClear (core : Nat) (selfTest : Bool)
  /-- TLBINV (R335). A write of the OWN word starts a TLB invalidation across the package. -/
  | tlbinv (path : Path) (value : BitVec 64)
  /-- TLBINV_DONE (R335). Every TLB has dropped matching entries and old walks finish; BUSY clears. -/
  | tlbinvDone
  /-- PREEMPT_GO (R339). PRECTL.GO starts the drain stage of pre-empting an owner. -/
  | preemptGo (path : Path) (value : BitVec 64)
  /-- PREEMPT_RESUME (R341). PRECTL.RESUME re-admits a saved owner's placement. -/
  | preemptResume (path : Path) (value : BitVec 64)
  /-- DRAIN_DEADLINE (R339). The drain deadline expires and forced saves begin. -/
  | drainDeadline
  /-- GRACE_DEADLINE (R339). The barrier grace expires and half-arrived teams are saved. -/
  | graceDeadline
  /-- SAVE_DEADLINE (R339). The save deadline expires with a save unfinished. -/
  | saveDeadline
  /-- TEAM_SAVE (R339). A team is halted, its engines split or stopped and its image and group records written. -/
  | teamSave (launch : Nat) (lin : Nat)
  /-- TEAM_RESTORE (R341). A saved team is restored on a core with room and released. -/
  | teamRestore (launch : Nat) (lin : Nat)
  /-- REGISTER_WRITE (R403). A write to a window register with no behaviour of its own. -/
  | registerWrite (path : Path) (offset : Nat) (value : BitVec 64) (half : Option Bool)
  /-- RSTCTL_WARM (R417). Warm reset keeping near memory, logs, VIRST and BOOTWHY. -/
  | rstctlWarm (path : Path)
  /-- RSTCTL_COLD (R417). Cold reset keeping only BOOTWHY. -/
  | rstctlCold (path : Path)
  /-- RESET_RELEASE (R399). Reset releases with reset values and zeroed arrays, and the boot ROM verifies the manifest. -/
  | resetRelease (manifest : Manifest) (good : List Nat)
  /-- FWREADY (R419). Firmware signals ready, boot completes and FAILS clears. -/
  | fwready (path : Path)
  /-- BOOT_READY_TIMEOUT (R419). Ready is not signalled within 2^32 master cycles; the boot fails and the device resets. -/
  | bootReadyTimeout
  /-- BOOTWHY_CLR (R420). Arms clearing of FAILS and MINIMAL at the next reset. -/
  | bootwhyClr (path : Path)
  /-- FABRIC_PEER_REQUEST (R406). An inbound peer request is checked against the export table and performed or aborted. -/
  | fabricPeerRequest (port : Nat) (endpoint : Nat) (op : PeerOp) (addr : Nat) (data : List (BitVec 8))
  /-- DIRECTORY_GET (R407). The home slice supplies a shared line and marks it shared-out. -/
  | directoryGet (line : DirLine)
  /-- DIRECTORY_PUT (R407). A returned modified line is performed as a DEVICE-scope store. -/
  | directoryPut (line : DirLine) (data : List (BitVec 8))
  /-- DIRECTORY_RECALL (R407). The home slice supplies and invalidates a line and sends INB invalidations. -/
  | directoryRecall (line : DirLine)
  /-- DIRECTORY_INVAL_ACK (R407). The directory acknowledges invalidation and a held device write proceeds. -/
  | directoryInvalAck (line : DirLine)
  /-- CXL_BACK_INVALIDATE (R411). A CXL back-invalidate removes the line from every L1. -/
  | cxlBackInvalidate (port : Nat) (addr : Nat)
  /-- CXL_COMPLETION (R411). A CXL completion lands, poisoning lanes if it carries poison. -/
  | cxlCompletion (port : Nat) (data : List (BitVec 8)) (poison : Bool)
  /-- HOST_COMPLETION (R410). A host read completion for an interface lands or is dropped after it leaves running. -/
  | hostCompletion (data : List (BitVec 8))
  /-- TDISP_MESSAGE (R410). A TDISP message changes an interface's state, possibly leaving running. -/
  | tdispMessage (tdi : Nat) (next : Nat)
  /-- SPDM_TDI_WRITE (R413). A secured-session request writes a TDI register. -/
  | spdmTdiWrite (tdi : Nat) (word : Nat) (values : List (BitVec 64))
  /-- SPDM_KEY_LOAD (R413). A secured-session request loads a key-table entry with VALID = 1. -/
  | spdmKeyLoad (entry : Nat) (key1 : BitVec 256) (key2 : BitVec 256) (dbg : Bool)
  /-- SPDM_KEY_RETIRE (R413). A secured-session request retires a key-table entry. -/
  | spdmKeyRetire (entry : Nat)
  /-- SPDM_DBG_WRITE (R413). A secured-session request changes only the DBG bit of a valid entry. -/
  | spdmDbgWrite (entry : Nat) (dbg : Bool)
  /-- SESSION_EXPIRE (R409). No key update within SESSLIFE; the session's interfaces go to error. -/
  | sessionExpire
  /-- KEY_RETIRE_RESET (R410). Once its old accesses complete the owner's key retires with a context reset, STATUS 0x21. -/
  | keyRetireReset (owner : Nat)
  /-- HOST_LINK_DOWN (R416). A host link-down makes the device viral and freezes it. -/
  | hostLinkDown
  /-- CXL_VIRAL (R416). A CXL viral indication makes the device viral. -/
  | cxlViral (port : Nat)
  /-- FABRIC_FATAL (R416). A fatal fabric error makes the device viral. -/
  | fabricFatal (port : Nat)
  /-- THERMAL_SAMPLE (R421). A cluster thermal sample is admitted; above 110 °C it is a thermal trip. -/
  | thermalSample (cluster : Nat) (degrees : Nat)
  /-- CORRECTED_ERROR (R415). A corrected error report is stamped and logged in ERRLOG. -/
  | correctedError (unit : Nat) (where_ : Nat) (addr : Nat) (bit : Nat)
  /-- DRAM_REFRESH (R369). A stack-foot refresh timer expires and issues refresh. -/
  | dramRefresh (die : Nat) (stack : Nat)
  /-- CROSSBAR_GRANT (R360). A free crossbar output grants one offered packet by age and priority. -/
  | crossbarGrant (die : Nat) (port : Nat)
  /-- ESCAPE_CHANNEL_MOVE (R362). A packet without go for 64 network cycles moves to the escape channel. -/
  | escapeChannelMove (die : Nat) (index : Nat)
  /-- STOPAT_FREEZE (R384). TEMPO reaches STOPAT with ARM set and the package freezes after that edge. -/
  | stopatFreeze
  /-- ADJ_ARM (R383). Arms the freeze at STOPAT, or sets ARMERR. -/
  | adjArm (value : BitVec 64)
  /-- ADJ_SCAN (R386). Scans the frozen state into an adjournment slot. -/
  | adjScan (slot : Nat)
  /-- ADJ_LOAD (R387). Loads an adjournment image and leaves the package frozen at its STAMP. -/
  | adjLoad (slot : Nat)
  /-- ADJ_RELEASE (R385). Brings stacks out of self-refresh and resumes from the next edge. -/
  | adjRelease
  /-- REPCTL_WRITE (R388). Sets record, replay or unlogged mode while frozen or in reset. -/
  | repctlWrite (value : BitVec 64)
  /-- REPLAY_INJECT (R389). A recorded arrival is injected at its STAMP; at the end marker the package freezes. -/
  | replayInject
  /-- SCSTAIL_WRITE (R401). The management port advances SCSTAIL past scoresheet entries it has written or drained. -/
  | scstailWrite (write : TailWrite)
  /-- TEMPO_ALIGN (R398). A follower package applies the computed TEMPO offset from the timestamp exchange. -/
  | tempoAlign (t1 : Int) (t2 : Int) (t3 : Int) (t4 : Int) (link : AlignLink)
  /-- READBACK (R418). Reads a frozen storage element through RBSEL and RBDATA. -/
  | readback (value : BitVec 64)
  /-- MEMORY_READBACK (R418). Reads near memory through MRADDR and MRDATA, plaintext only with DBG. -/
  | memoryReadback (addr : Nat)
  /-- TEMPOW_TARGET_REACHED (R347). A group held in TEMPOW is released when a core cycle begins at a master edge with TEMPO at or above its target. -/
  | tempowTargetReached (core : Nat) (slot : Nat)
  /-- CLOCK_WINDOW_BOUNDARY (R322). At a 48-slot window boundary a core takes the clock given by a ramp, a ratio or a new STEP written before it. -/
  | clockWindowBoundary (core : Nat)
  /-- HOST_MEMORY_WRITE (R191). A host write into device memory arrives through the stamping gate, is performed at DEVICE and inserts its sectors into INB on every core. -/
  | hostMemoryWrite (tdi : Nat) (addr : Nat) (data : List (BitVec 8))
  /-- SPDM_SESSION_ESTABLISH (R408). The host's trusted environment establishes the SPDM secured session, making SESS valid on its interfaces. -/
  | spdmSessionEstablish
  /-- PACKAGE_RAIL_CHANGE (R390). The power stage raises the package rail to 1.32 V or returns it to 1.20 V, setting or clearing RAILOK. -/
  | packageRailChange (raised : Bool)
deriving DecidableEq, Repr

end Sys2Proof
end

