-- ==== Sys2Proof/Word.lean ====
section
/-!
DEFINITION. The machine's words and their plainest arithmetic.
-/

namespace Sys2Proof

/-- A scalar register, mask or special register (R42, R46, R52). -/
abbrev Word := BitVec 64

/-- One lane of a vector register (R44). -/
abbrev Lane := BitVec 32

/-- One byte of memory or of a byte-addressed buffer. -/
abbrev Byte := BitVec 8

/-- A CBUF cell: VAL [35:0] and the four cell flags (R59). -/
abbrev Cell40 := BitVec 40

/-- A program counter: 52-bit virtual addresses (R2, R129). -/
abbrev Pc := BitVec 52

end Sys2Proof
end

