-- ==== Sys2Proof/Config.lean ====
section
/-!
DEFINITION. What the implementation fixes, and the values the spec leaves open. Every opaque
constant here has no body: no proof can see its value (log 3).
-/

namespace Sys2Proof

/-- Fresh free values: the k-th value the machine takes that the spec leaves open (log 3). -/
opaque Config.freeWord : Nat → BitVec 64

/-- The k-th free value that an observation register or the scoresheet takes (log 3). -/
opaque Config.freeObs : Nat → BitVec 64

/-- R412: the package wrapping key (log 3). -/
opaque Config.wrapKey : BitVec 256

/-- R386: the scan-map version, and the body bytes of a die's segment (log 3). -/
opaque Config.scanFormat : BitVec 8
opaque Config.scanBytes : Nat → BitVec 32

/-- R334: the set of a TLB that a virtual page falls in: owner, page number, number of sets
(log 12). -/
opaque Config.tlbSet : Nat → Nat → Nat → Nat

/-- R402: the capacity of the device behind a CXL port, found at enumeration (log 3). -/
opaque Config.cxlCapacity : Nat → Nat

/-- R369: master cycles between two refreshes of a stack: 3.9 microseconds, the interval of the HBM
family; the spec gives none (PRESUMED, log 33). -/
def Config.refreshCycles : Nat := 18720

/-- Master cycles per microsecond (R338). -/
def Config.tempoPerUs : Nat := 4800

/-- Clusters, cores per cluster, cores (R2). -/
def Config.clusters : Nat := 96
def Config.coresPerCluster : Nat := 8
def Config.cores : Nat := 768
def Config.dies : Nat := 8

/-- Die of a core, cluster of a core, twin partner (R2, R52 CORE). -/
def Config.dieOf (core : Nat) : Nat := core / 96
def Config.clusterOf (core : Nat) : Nat := core / 8
def Config.partner (core : Nat) : Nat := if core % 2 = 0 then core + 1 else core - 1

/-- R15: group slots. -/
def Config.slots : Nat := 48
/-- R17: issue entries of a core. -/
def Config.entries : Nat := 24
/-- R2: WMAX. -/
def Config.wmax : Nat := 64
/-- R27: quarter-rows left to teams. -/
def Config.teamRows : Nat := 7872

end Sys2Proof
end

