-- ==== Sys2Proof/WellFormed.lean ====
section
/-!
DEFINITION. The static checks of an instruction: the code fields that R96 reason 3 refuses, the
words that belong to another row, and the ranges of the operands that name an event.
-/

namespace Sys2Proof

/-- R95: the condition codes that are defined. -/
def condDefined (c : BitVec 5) : Bool :=
  c.toNat ≤ 14 || (16 ≤ c.toNat && c.toNat ≤ 18) || 24 ≤ c.toNat

/-- R165: the conversion codes that are defined. -/
def cvtDefined (k : BitVec 6) : Bool := k.toNat ≤ 25

/-- R168: the codes that VCVTS admits. -/
def cvtsDefined (k : BitVec 6) : Bool :=
  [0, 3, 5, 7, 9, 12, 13, 16, 17, 20, 21].contains k.toNat

/-- R177: the operation codes of VRED and VSCAN. -/
def redDefined (p : BitVec 6) : Bool :=
  p.toNat ≤ 10 || (12 ≤ p.toNat && p.toNat ≤ 14)

/-- R207: the store width codes. -/
def storeWidthDefined (w : BitVec 3) : Bool := [0, 2, 4, 5, 6].contains w.toNat

/-- R215, R217: the width codes of TLD and TST; `h` = 2 is CBUF. -/
def tldDefined (w : BitVec 3) (h : BitVec 2) : Bool :=
  if h = 2#2 then w.toNat ≤ 4 else w.toNat ≤ 6

def tstDefined (w : BitVec 3) (h : BitVec 2) : Bool :=
  if h = 2#2 then w.toNat ≤ 3 else storeWidthDefined w

/-- R213: the hints of PREFETCH at its level. -/
def prefetchDefined (l : BitVec 1) (h : BitVec 2) : Bool :=
  h = 0#2 || h = 2#2 || (h = 1#2 && l = 1#1)

/-- R96 reason 3: every code field of the instruction has a defined value. -/
def Instr.codesDefined : Instr → Bool
  | .br _ c _ => condDefined c
  | .wait _ c _ => c ≠ 0#5
  | .vcmpI32 _ c _ _ _ => c.toNat ≤ 5
  | .vcmpN32 _ c _ _ _ => c.toNat ≤ 5
  | .vcmpF32 _ c _ _ _ => c.toNat ≤ 6
  | .vcmpF64 _ c _ _ _ => c.toNat ≤ 6
  | .vcvt _ _ _ k => cvtDefined k
  | .vcvts _ _ _ k => cvtsDefined k
  | .vunpackF32H _ _ _ i => i.toNat ≤ 1
  | .vunpackF32Bf _ _ _ i => i.toNat ≤ 1
  | .vunpackHE4 _ _ _ i => i.toNat ≤ 1
  | .vunpackHE5 _ _ _ i => i.toNat ≤ 1
  | .vunpackI32I16 _ _ _ i => i.toNat ≤ 1
  | .vunpackI32N16 _ _ _ i => i.toNat ≤ 1
  | .vunpackI16I8 _ _ _ i => i.toNat ≤ 1
  | .vunpackI32I8 _ _ _ i => i.toNat ≤ 3
  | .vunpackI32N8 _ _ _ i => i.toNat ≤ 3
  | .vshflW _ _ _ k => k.toNat ≤ 5
  | .vshflKW _ _ _ k => k.toNat ≤ 5
  | .vrotW _ _ _ k => k.toNat ≤ 5
  | .vrotKW _ _ _ k => k.toNat ≤ 5
  | .vred _ _ _ p => redDefined p
  | .vscan _ _ _ p => redDefined p
  | .vvote _ _ _ m => m.toNat ≤ 2
  | .prefetch _ l _ _ h => prefetchDefined l h
  | .vst _ w _ _ _ h => storeWidthDefined w && h ≠ 1#2
  | .tld _ w _ _ _ h => tldDefined w h
  | .tst _ w _ _ _ h => tstDefined w h
  | .fenceRel _ p => p.toNat ≤ 4
  | .fenceAcq _ p => p.toNat ≤ 4
  | .fenceAr _ p => p.toNat ≤ 4
  | .waitcmp _ _ _ c _ _ => c.toNat ≤ 5
  | .cwaitm _ c _ _ => c.toNat ≤ 5
  | _ => true

/-- A word that another row of the table claims: VLD with F3 7 is PREFETCH (R207), VCMP.I32 with
code 6 is VSEL (R155), and the parcel 0x0000 is undefined (R93). -/
def Instr.otherRow : Instr → Bool
  | .vld _ w _ _ _ _ => w = 7#3
  | .vcmpI32 _ c _ _ _ => c = 6#3
  | .vaddI32Parcel t d b => t = 0#1 && d = 0#5 && b = 0#5
  | _ => false

/-- Core and slot numbers of an event lie in the part (R2, R15); the operands of an encoded
instruction lie in their fields by type. -/
def Instr.inRange : Instr → Bool
  | .parkedGroupReclaim c => c < Config.cores
  | .groupPromote c s => c < Config.cores && s < Config.slots
  | .loadLand c _ => c < Config.cores
  | .xcResultLand c _ => c < Config.cores
  | .tbufAccessComplete c _ => c < Config.cores
  | .storeAck c _ => c < Config.cores
  | .fillReturn c _ => c < Config.cores
  | .walkComplete d => d < Config.dies
  | .groupRetire c s => c < Config.cores && s < Config.slots
  | .amArrival c => c < Config.cores
  | .handlerSpawn c => c < Config.cores
  | .signatureReceive c => c < Config.cores
  | .signatureAckReceive c => c < Config.cores
  | .sliceRequest d s => d < Config.dies && s < 24
  | .monitorWakeArrive c => c < Config.cores
  | .waitcmpTimeout c s => c < Config.cores && s < Config.slots
  | .monfullBackoffEnd c s => c < Config.cores && s < Config.slots
  | .msUnitAccess d s => d < Config.dies && s < 3
  | .orderedUpdateArrive d s => d < Config.dies && s < 3
  | .orderedFlush d s _ => d < Config.dies && s < 3
  | .copyKickStart c => c < Config.cores
  | .copyRecordDone c => c < Config.cores
  | .matrixOpStart c => c < Config.cores
  | .matrixBlockWrite c => c < Config.cores
  | .matrixOpEnd c => c < Config.cores
  | .matrixSplit c _ => c < Config.cores
  | .externalWakeArrive c => c < Config.cores
  | .paPark c => c < Config.clusters
  | .paRelease c => c < Config.clusters
  | .paRotate c => c < Config.cores
  | .crreqWrite _ c _ => c < Config.clusters
  | .rampEnd c => c < Config.clusters
  | .slewAdmit d => d < Config.dies
  | .haltArrive c s => c < Config.cores && s < Config.slots
  | .takeback c s _ _ => c < Config.cores && s < Config.slots
  | .takebackRepeatCaught c s _ => c < Config.cores && s < Config.slots
  | .guardFailure c s => c < Config.cores && s < Config.slots
  | .tbwinRestart c => c < Config.cores
  | .quarantineClear c _ => c < Config.cores
  | .thermalSample c _ => c < Config.clusters
  | .dramRefresh d s => d < Config.dies && s < 3
  | .crossbarGrant d p => d < Config.dies && p < 48
  | .escapeChannelMove d _ => d < Config.dies
  | .tempowTargetReached c s => c < Config.cores && s < Config.slots
  | .clockWindowBoundary c => c < Config.cores
  | _ => true

/-- The instruction is one the decoder can produce, or an event of the part. -/
def Instr.wellFormed (i : Instr) : Bool := i.codesDefined && !i.otherRow && i.inRange

end Sys2Proof
end

