-- ==== Sys2Proof/Decode.lean ====
section
/-!
DEFINITION. The decoder, total on any bytes, and after it the encoder (R86 to R96). The section is
noncomputable because Lean's runtime has no tag for so many constructors; the kernel evaluates it.
-/

noncomputable section

namespace Sys2Proof

/-- Why a word has no instruction, with its reason in R96. -/
inductive DecodeError where
  /-- Reason 2: MAJOR 0x28 to 0x3F. -/
  | reservedMajor
  /-- Reason 3: an F-code, or a code field, that the family does not define. -/
  | undefinedCode
  /-- Reason 4: non-zero bits in an unused field. -/
  | unusedBits
  /-- Fewer bytes than the instruction has. -/
  | truncated
deriving DecidableEq, Repr

/-- The reason number of R96. -/
def DecodeError.reason : DecodeError → Nat
  | .reservedMajor => 2
  | .undefinedCode => 3
  | .unusedBits => 4
  | .truncated => 2

/-- The words of an instruction: a parcel, a 32-bit word, or none (an event). -/
inductive Code where
  | parcel (p : BitVec 16)
  | word (w : BitVec 32)
  | event
deriving DecidableEq, Repr

/-- A field of a word: `n` bits from bit `lo`. -/
abbrev fld {k : Nat} (lo n : Nat) (w : BitVec k) : BitVec n := w.extractLsb' lo n

/-- Major 0x00, SYS: the row its F-code selects. -/
def decSys (w : BitVec 32) : Option Instr :=
  match (fld 9 5 w).toNat with
  | 0 => some (.trap (fld 1 2 w) (fld 14 18 w))
  | 1 => some (.rte (fld 1 2 w))
  | 2 => some (.svcall (fld 1 2 w) (fld 14 6 w))
  | 3 => some (.mbpop (fld 1 2 w) (fld 14 6 w))
  | 4 => some (.mbreply (fld 1 2 w) (fld 14 6 w))
  | 5 => if fld 29 1 w = 0#1 then some (.mgnset (fld 1 2 w) (fld 14 6 w) (fld 20 6 w) (fld 26 3 w)) else some (.mgnsetW (fld 1 2 w) (fld 14 6 w) (fld 20 6 w) (fld 26 3 w))
  | 6 => some (.qsave (fld 1 2 w) (fld 14 6 w) (fld 20 6 w))
  | 7 => some (.qload (fld 1 2 w) (fld 14 6 w) (fld 20 6 w))
  | 8 => some (.tempow (fld 1 2 w) (fld 14 6 w))
  | 9 => some (.haltt (fld 1 2 w))
  | _ => none

/-- Major 0x01, BR: the row its F-code selects. -/
def decBr (w : BitVec 32) : Option Instr :=
  some (.br (fld 1 2 w) (fld 9 5 w) (fld 14 18 w))

/-- Major 0x02, JMP: the row its F-code selects. -/
def decJmp (w : BitVec 32) : Option Instr :=
  some (.jmp (fld 1 2 w) (fld 9 23 w))

/-- Major 0x03, CALL: the row its F-code selects. -/
def decCall (w : BitVec 32) : Option Instr :=
  some (.call (fld 1 2 w) (fld 9 23 w))

/-- Major 0x04, SCTL: the row its F-code selects. -/
def decSctl (w : BitVec 32) : Option Instr :=
  match (fld 9 5 w).toNat with
  | 0 => some (.nop (fld 1 2 w))
  | 1 => some (.exit (fld 1 2 w))
  | 2 => some (.ret (fld 1 2 w) (fld 20 6 w))
  | 3 => some (.jmpr (fld 1 2 w) (fld 20 6 w))
  | 4 => some (.smov (fld 1 2 w) (fld 14 6 w) (fld 20 6 w))
  | 5 => some (.smovs (fld 1 2 w) (fld 14 6 w) (fld 20 6 w) (fld 26 2 w))
  | 6 => some (.smovw (fld 1 2 w) (fld 14 6 w) (fld 20 6 w) (fld 26 2 w))
  | 7 => some (.fmtset (fld 1 2 w) (fld 20 6 w))
  | 8 => some (.fmtsetMask (fld 1 2 w) (fld 20 6 w) (fld 26 6 w))
  | 9 => some (.fmtget (fld 1 2 w) (fld 14 6 w))
  | 10 => some (.flgget (fld 1 2 w) (fld 14 6 w))
  | 11 => some (.flgclr (fld 1 2 w) (fld 20 6 w))
  | 12 => some (.wait (fld 1 2 w) (fld 14 5 w) (fld 20 6 w))
  | _ => none

/-- Major 0x05, SALU: the row its F-code selects. -/
def decSalu (w : BitVec 32) : Option Instr :=
  match (fld 9 5 w).toNat with
  | 0 => some (.sadd (fld 1 2 w) (fld 14 6 w) (fld 20 6 w) (fld 26 6 w))
  | 1 => some (.ssub (fld 1 2 w) (fld 14 6 w) (fld 20 6 w) (fld 26 6 w))
  | 2 => some (.smul (fld 1 2 w) (fld 14 6 w) (fld 20 6 w) (fld 26 6 w))
  | 3 => some (.smulhI64 (fld 1 2 w) (fld 14 6 w) (fld 20 6 w) (fld 26 6 w))
  | 4 => some (.smulhN64 (fld 1 2 w) (fld 14 6 w) (fld 20 6 w) (fld 26 6 w))
  | 5 => some (.sand (fld 1 2 w) (fld 14 6 w) (fld 20 6 w) (fld 26 6 w))
  | 6 => some (.sor (fld 1 2 w) (fld 14 6 w) (fld 20 6 w) (fld 26 6 w))
  | 7 => some (.sxor (fld 1 2 w) (fld 14 6 w) (fld 20 6 w) (fld 26 6 w))
  | 8 => some (.sshl (fld 1 2 w) (fld 14 6 w) (fld 20 6 w) (fld 26 6 w))
  | 9 => some (.sshr (fld 1 2 w) (fld 14 6 w) (fld 20 6 w) (fld 26 6 w))
  | 10 => some (.ssra (fld 1 2 w) (fld 14 6 w) (fld 20 6 w) (fld 26 6 w))
  | 11 => some (.sminI64 (fld 1 2 w) (fld 14 6 w) (fld 20 6 w) (fld 26 6 w))
  | 12 => some (.sminN64 (fld 1 2 w) (fld 14 6 w) (fld 20 6 w) (fld 26 6 w))
  | 13 => some (.smaxI64 (fld 1 2 w) (fld 14 6 w) (fld 20 6 w) (fld 26 6 w))
  | 14 => some (.smaxN64 (fld 1 2 w) (fld 14 6 w) (fld 20 6 w) (fld 26 6 w))
  | 15 => some (.ssel (fld 1 2 w) (fld 14 6 w) (fld 20 6 w) (fld 26 6 w))
  | 16 => some (.saddFl (fld 1 2 w) (fld 14 6 w) (fld 20 6 w) (fld 26 6 w))
  | 17 => some (.ssubFl (fld 1 2 w) (fld 14 6 w) (fld 20 6 w) (fld 26 6 w))
  | _ => none

/-- Major 0x06, SALUI: the row its F-code selects. -/
def decSalui (w : BitVec 32) : Option Instr :=
  match (fld 9 3 w).toNat with
  | 0 => some (.saddi (fld 1 2 w) (fld 12 6 w) (fld 18 6 w) (fld 24 8 w))
  | 1 => some (.smuli (fld 1 2 w) (fld 12 6 w) (fld 18 6 w) (fld 24 8 w))
  | 2 => some (.sandi (fld 1 2 w) (fld 12 6 w) (fld 18 6 w) (fld 24 8 w))
  | 3 => some (.sori (fld 1 2 w) (fld 12 6 w) (fld 18 6 w) (fld 24 8 w))
  | 4 => some (.sxori (fld 1 2 w) (fld 12 6 w) (fld 18 6 w) (fld 24 8 w))
  | 5 => some (.sshli (fld 1 2 w) (fld 12 6 w) (fld 18 6 w) (fld 24 6 w))
  | 6 => some (.sshri (fld 1 2 w) (fld 12 6 w) (fld 18 6 w) (fld 24 6 w))
  | 7 => some (.ssrai (fld 1 2 w) (fld 12 6 w) (fld 18 6 w) (fld 24 6 w))
  | _ => none

/-- Major 0x07, SMOVL: the row its F-code selects. -/
def decSmovl (w : BitVec 32) : Option Instr :=
  some (.smovl (fld 1 2 w) (fld 9 6 w) (fld 15 17 w))

/-- Major 0x08, SSHIN: the row its F-code selects. -/
def decSshin (w : BitVec 32) : Option Instr :=
  some (.sshin (fld 1 2 w) (fld 9 6 w) (fld 15 17 w))

/-- Major 0x09, SCMP: the row its F-code selects. -/
def decScmp (w : BitVec 32) : Option Instr :=
  match (fld 9 5 w).toNat with
  | 0 => some (.scmp (fld 1 2 w) (fld 20 6 w) (fld 26 6 w))
  | 1 => some (.scmpi (fld 1 2 w) (fld 14 6 w) (fld 20 6 w) (fld 26 6 w))
  | _ => none

/-- Major 0x0A, SMEM: the row its F-code selects. -/
def decSmem (w : BitVec 32) : Option Instr :=
  if fld 11 1 w = 0#1 then some (.sld (fld 1 2 w) (fld 9 2 w) (fld 12 6 w) (fld 18 6 w) (fld 24 8 w))
  else some (.sst (fld 1 2 w) (fld 9 2 w) (fld 12 6 w) (fld 18 6 w) (fld 24 8 w))

/-- Major 0x0B, MASK: the row its F-code selects. -/
def decMask (w : BitVec 32) : Option Instr :=
  match (fld 9 5 w).toNat with
  | 0 => some (.ifm (fld 1 2 w) (fld 20 6 w))
  | 1 => some (.elsem (fld 1 2 w))
  | 2 => some (.endm (fld 1 2 w))
  | 3 => some (.brkm (fld 1 2 w) (fld 20 6 w))
  | 4 => some (.brkmLoop (fld 1 2 w))
  | 5 => some (.mand (fld 1 2 w) (fld 14 6 w) (fld 20 6 w) (fld 26 6 w))
  | 6 => some (.mor (fld 1 2 w) (fld 14 6 w) (fld 20 6 w) (fld 26 6 w))
  | 7 => some (.mxor (fld 1 2 w) (fld 14 6 w) (fld 20 6 w) (fld 26 6 w))
  | 8 => some (.mnot (fld 1 2 w) (fld 14 6 w) (fld 20 6 w))
  | 9 => some (.mmov (fld 1 2 w) (fld 14 6 w) (fld 20 6 w))
  | 10 => some (.mmovFromScalar (fld 1 2 w) (fld 14 6 w) (fld 20 6 w))
  | 11 => some (.mmovToScalar (fld 1 2 w) (fld 14 6 w) (fld 20 6 w))
  | 12 => some (.mpopc (fld 1 2 w) (fld 14 6 w) (fld 20 6 w))
  | 13 => some (.mfirst (fld 1 2 w) (fld 14 6 w) (fld 20 6 w))
  | _ => none

/-- Major 0x0C, VINT: the row its F-code selects. -/
def decVint (w : BitVec 32) : Option Instr :=
  match (fld 9 5 w).toNat with
  | 0 => some (.vaddI32 (fld 1 2 w) (fld 14 6 w) (fld 20 6 w) (fld 26 6 w))
  | 1 => some (.vsubI32 (fld 1 2 w) (fld 14 6 w) (fld 20 6 w) (fld 26 6 w))
  | 2 => some (.vmulI32 (fld 1 2 w) (fld 14 6 w) (fld 20 6 w) (fld 26 6 w))
  | 3 => some (.vmulhI32 (fld 1 2 w) (fld 14 6 w) (fld 20 6 w) (fld 26 6 w))
  | 4 => some (.vmulhN32 (fld 1 2 w) (fld 14 6 w) (fld 20 6 w) (fld 26 6 w))
  | 5 => some (.vmadI32 (fld 1 2 w) (fld 14 6 w) (fld 20 6 w) (fld 26 6 w))
  | 6 => some (.vdivI32 (fld 1 2 w) (fld 14 6 w) (fld 20 6 w) (fld 26 6 w))
  | 7 => some (.vdivN32 (fld 1 2 w) (fld 14 6 w) (fld 20 6 w) (fld 26 6 w))
  | 8 => some (.vremI32 (fld 1 2 w) (fld 14 6 w) (fld 20 6 w) (fld 26 6 w))
  | 9 => some (.vremN32 (fld 1 2 w) (fld 14 6 w) (fld 20 6 w) (fld 26 6 w))
  | 10 => some (.vminI32 (fld 1 2 w) (fld 14 6 w) (fld 20 6 w) (fld 26 6 w))
  | 11 => some (.vminN32 (fld 1 2 w) (fld 14 6 w) (fld 20 6 w) (fld 26 6 w))
  | 12 => some (.vmaxI32 (fld 1 2 w) (fld 14 6 w) (fld 20 6 w) (fld 26 6 w))
  | 13 => some (.vmaxN32 (fld 1 2 w) (fld 14 6 w) (fld 20 6 w) (fld 26 6 w))
  | 14 => some (.vand (fld 1 2 w) (fld 14 6 w) (fld 20 6 w) (fld 26 6 w))
  | 15 => some (.vor (fld 1 2 w) (fld 14 6 w) (fld 20 6 w) (fld 26 6 w))
  | 16 => some (.vxor (fld 1 2 w) (fld 14 6 w) (fld 20 6 w) (fld 26 6 w))
  | 17 => some (.vshl (fld 1 2 w) (fld 14 6 w) (fld 20 6 w) (fld 26 6 w))
  | 18 => some (.vshr (fld 1 2 w) (fld 14 6 w) (fld 20 6 w) (fld 26 6 w))
  | 19 => some (.vsra (fld 1 2 w) (fld 14 6 w) (fld 20 6 w) (fld 26 6 w))
  | 20 => some (.vaddc (fld 1 2 w) (fld 14 6 w) (fld 20 6 w) (fld 26 6 w))
  | 21 => some (.vsubb (fld 1 2 w) (fld 14 6 w) (fld 20 6 w) (fld 26 6 w))
  | 22 => some (.vabsI32 (fld 1 2 w) (fld 14 6 w) (fld 20 6 w))
  | 23 => some (.vnegI32 (fld 1 2 w) (fld 14 6 w) (fld 20 6 w))
  | 24 => some (.vnot (fld 1 2 w) (fld 14 6 w) (fld 20 6 w))
  | 25 => some (.vpopc (fld 1 2 w) (fld 14 6 w) (fld 20 6 w))
  | 26 => some (.vclz (fld 1 2 w) (fld 14 6 w) (fld 20 6 w))
  | 27 => some (.vbrev (fld 1 2 w) (fld 14 6 w) (fld 20 6 w))
  | 28 => some (.vbfeI32 (fld 1 2 w) (fld 14 6 w) (fld 20 6 w) (fld 26 6 w))
  | 29 => some (.vbfeN32 (fld 1 2 w) (fld 14 6 w) (fld 20 6 w) (fld 26 6 w))
  | 30 => some (.vbfi (fld 1 2 w) (fld 14 6 w) (fld 20 6 w) (fld 26 6 w))
  | 31 => some (.vmov (fld 1 2 w) (fld 14 6 w) (fld 20 6 w))
  | _ => none

/-- Major 0x0D, VINTS: the row its F-code selects. -/
def decVints (w : BitVec 32) : Option Instr :=
  match (fld 9 5 w).toNat with
  | 0 => some (.vaddI32Vs (fld 1 2 w) (fld 14 6 w) (fld 20 6 w) (fld 26 6 w))
  | 1 => some (.vsubI32Vs (fld 1 2 w) (fld 14 6 w) (fld 20 6 w) (fld 26 6 w))
  | 2 => some (.vmulI32Vs (fld 1 2 w) (fld 14 6 w) (fld 20 6 w) (fld 26 6 w))
  | 3 => some (.vmulhI32Vs (fld 1 2 w) (fld 14 6 w) (fld 20 6 w) (fld 26 6 w))
  | 4 => some (.vmulhN32Vs (fld 1 2 w) (fld 14 6 w) (fld 20 6 w) (fld 26 6 w))
  | 5 => some (.vmadI32Vs (fld 1 2 w) (fld 14 6 w) (fld 20 6 w) (fld 26 6 w))
  | 6 => some (.vdivI32Vs (fld 1 2 w) (fld 14 6 w) (fld 20 6 w) (fld 26 6 w))
  | 7 => some (.vdivN32Vs (fld 1 2 w) (fld 14 6 w) (fld 20 6 w) (fld 26 6 w))
  | 8 => some (.vremI32Vs (fld 1 2 w) (fld 14 6 w) (fld 20 6 w) (fld 26 6 w))
  | 9 => some (.vremN32Vs (fld 1 2 w) (fld 14 6 w) (fld 20 6 w) (fld 26 6 w))
  | 10 => some (.vminI32Vs (fld 1 2 w) (fld 14 6 w) (fld 20 6 w) (fld 26 6 w))
  | 11 => some (.vminN32Vs (fld 1 2 w) (fld 14 6 w) (fld 20 6 w) (fld 26 6 w))
  | 12 => some (.vmaxI32Vs (fld 1 2 w) (fld 14 6 w) (fld 20 6 w) (fld 26 6 w))
  | 13 => some (.vmaxN32Vs (fld 1 2 w) (fld 14 6 w) (fld 20 6 w) (fld 26 6 w))
  | 14 => some (.vandVs (fld 1 2 w) (fld 14 6 w) (fld 20 6 w) (fld 26 6 w))
  | 15 => some (.vorVs (fld 1 2 w) (fld 14 6 w) (fld 20 6 w) (fld 26 6 w))
  | 16 => some (.vxorVs (fld 1 2 w) (fld 14 6 w) (fld 20 6 w) (fld 26 6 w))
  | 17 => some (.vshlVs (fld 1 2 w) (fld 14 6 w) (fld 20 6 w) (fld 26 6 w))
  | 18 => some (.vshrVs (fld 1 2 w) (fld 14 6 w) (fld 20 6 w) (fld 26 6 w))
  | 19 => some (.vsraVs (fld 1 2 w) (fld 14 6 w) (fld 20 6 w) (fld 26 6 w))
  | 20 => some (.vaddcVs (fld 1 2 w) (fld 14 6 w) (fld 20 6 w) (fld 26 6 w))
  | 21 => some (.vsubbVs (fld 1 2 w) (fld 14 6 w) (fld 20 6 w) (fld 26 6 w))
  | 28 => some (.vbfeI32Vs (fld 1 2 w) (fld 14 6 w) (fld 20 6 w) (fld 26 6 w))
  | 29 => some (.vbfeN32Vs (fld 1 2 w) (fld 14 6 w) (fld 20 6 w) (fld 26 6 w))
  | 30 => some (.vbfiVs (fld 1 2 w) (fld 14 6 w) (fld 20 6 w) (fld 26 6 w))
  | 31 => some (.vmovVs (fld 1 2 w) (fld 14 6 w) (fld 26 6 w))
  | _ => none

/-- Major 0x0E, VINTI: the row its F-code selects. -/
def decVinti (w : BitVec 32) : Option Instr :=
  match (fld 9 3 w).toNat with
  | 0 => some (.vaddI32Vi (fld 1 2 w) (fld 12 6 w) (fld 18 6 w) (fld 24 8 w))
  | 1 => some (.vmulI32Vi (fld 1 2 w) (fld 12 6 w) (fld 18 6 w) (fld 24 8 w))
  | 2 => some (.vandVi (fld 1 2 w) (fld 12 6 w) (fld 18 6 w) (fld 24 8 w))
  | 3 => some (.vorVi (fld 1 2 w) (fld 12 6 w) (fld 18 6 w) (fld 24 8 w))
  | 4 => some (.vxorVi (fld 1 2 w) (fld 12 6 w) (fld 18 6 w) (fld 24 8 w))
  | 5 => some (.vshlVi (fld 1 2 w) (fld 12 6 w) (fld 18 6 w) (fld 24 5 w))
  | 6 => some (.vshrVi (fld 1 2 w) (fld 12 6 w) (fld 18 6 w) (fld 24 5 w))
  | 7 => some (.vsraVi (fld 1 2 w) (fld 12 6 w) (fld 18 6 w) (fld 24 5 w))
  | _ => none

/-- Major 0x0F, VCMP: the row its F-code selects. -/
def decVcmp (w : BitVec 32) : Option Instr :=
  match (fld 12 2 w).toNat with
  | 0 => if fld 9 3 w = 6#3 then some (.vsel (fld 1 2 w) (fld 14 6 w) (fld 20 6 w) (fld 26 6 w)) else some (.vcmpI32 (fld 1 2 w) (fld 9 3 w) (fld 14 6 w) (fld 20 6 w) (fld 26 6 w))
  | 1 => some (.vcmpN32 (fld 1 2 w) (fld 9 3 w) (fld 14 6 w) (fld 20 6 w) (fld 26 6 w))
  | 2 => some (.vcmpF32 (fld 1 2 w) (fld 9 3 w) (fld 14 6 w) (fld 20 6 w) (fld 26 6 w))
  | 3 => some (.vcmpF64 (fld 1 2 w) (fld 9 3 w) (fld 14 6 w) (fld 20 6 w) (fld 26 6 w))
  | _ => none

/-- Major 0x10, VF32: the row its F-code selects. -/
def decVf32 (w : BitVec 32) : Option Instr :=
  match (fld 9 5 w).toNat with
  | 0 => some (.vfaddF32 (fld 1 2 w) (fld 14 6 w) (fld 20 6 w) (fld 26 6 w))
  | 1 => some (.vfsubF32 (fld 1 2 w) (fld 14 6 w) (fld 20 6 w) (fld 26 6 w))
  | 2 => some (.vfmulF32 (fld 1 2 w) (fld 14 6 w) (fld 20 6 w) (fld 26 6 w))
  | 3 => some (.vfmaF32 (fld 1 2 w) (fld 14 6 w) (fld 20 6 w) (fld 26 6 w))
  | 4 => some (.vfmsF32 (fld 1 2 w) (fld 14 6 w) (fld 20 6 w) (fld 26 6 w))
  | 5 => some (.vfminF32 (fld 1 2 w) (fld 14 6 w) (fld 20 6 w) (fld 26 6 w))
  | 6 => some (.vfmaxF32 (fld 1 2 w) (fld 14 6 w) (fld 20 6 w) (fld 26 6 w))
  | 7 => some (.vfabsF32 (fld 1 2 w) (fld 14 6 w) (fld 20 6 w))
  | 8 => some (.vfnegF32 (fld 1 2 w) (fld 14 6 w) (fld 20 6 w))
  | 9 => some (.vfdivF32 (fld 1 2 w) (fld 14 6 w) (fld 20 6 w) (fld 26 6 w))
  | 10 => some (.vfsqrtF32 (fld 1 2 w) (fld 14 6 w) (fld 20 6 w))
  | 11 => some (.vfclassF32 (fld 1 2 w) (fld 14 6 w) (fld 20 6 w))
  | _ => none

/-- Major 0x11, VF32S: the row its F-code selects. -/
def decVf32s (w : BitVec 32) : Option Instr :=
  match (fld 9 5 w).toNat with
  | 0 => some (.vfaddF32Vs (fld 1 2 w) (fld 14 6 w) (fld 20 6 w) (fld 26 6 w))
  | 1 => some (.vfsubF32Vs (fld 1 2 w) (fld 14 6 w) (fld 20 6 w) (fld 26 6 w))
  | 2 => some (.vfmulF32Vs (fld 1 2 w) (fld 14 6 w) (fld 20 6 w) (fld 26 6 w))
  | 3 => some (.vfmaF32Vs (fld 1 2 w) (fld 14 6 w) (fld 20 6 w) (fld 26 6 w))
  | 4 => some (.vfmsF32Vs (fld 1 2 w) (fld 14 6 w) (fld 20 6 w) (fld 26 6 w))
  | 5 => some (.vfminF32Vs (fld 1 2 w) (fld 14 6 w) (fld 20 6 w) (fld 26 6 w))
  | 6 => some (.vfmaxF32Vs (fld 1 2 w) (fld 14 6 w) (fld 20 6 w) (fld 26 6 w))
  | 9 => some (.vfdivF32Vs (fld 1 2 w) (fld 14 6 w) (fld 20 6 w) (fld 26 6 w))
  | _ => none

/-- Major 0x12, VF64: the row its F-code selects. -/
def decVf64 (w : BitVec 32) : Option Instr :=
  match (fld 9 5 w).toNat with
  | 0 => some (.vfaddF64 (fld 1 2 w) (fld 14 6 w) (fld 20 6 w) (fld 26 6 w))
  | 1 => some (.vfsubF64 (fld 1 2 w) (fld 14 6 w) (fld 20 6 w) (fld 26 6 w))
  | 2 => some (.vfmulF64 (fld 1 2 w) (fld 14 6 w) (fld 20 6 w) (fld 26 6 w))
  | 3 => some (.vfmaF64 (fld 1 2 w) (fld 14 6 w) (fld 20 6 w) (fld 26 6 w))
  | 4 => some (.vfmsF64 (fld 1 2 w) (fld 14 6 w) (fld 20 6 w) (fld 26 6 w))
  | 5 => some (.vfminF64 (fld 1 2 w) (fld 14 6 w) (fld 20 6 w) (fld 26 6 w))
  | 6 => some (.vfmaxF64 (fld 1 2 w) (fld 14 6 w) (fld 20 6 w) (fld 26 6 w))
  | 7 => some (.vfabsF64 (fld 1 2 w) (fld 14 6 w) (fld 20 6 w))
  | 8 => some (.vfnegF64 (fld 1 2 w) (fld 14 6 w) (fld 20 6 w))
  | 9 => some (.vfdivF64 (fld 1 2 w) (fld 14 6 w) (fld 20 6 w) (fld 26 6 w))
  | 10 => some (.vfsqrtF64 (fld 1 2 w) (fld 14 6 w) (fld 20 6 w))
  | 11 => some (.vfclassF64 (fld 1 2 w) (fld 14 6 w) (fld 20 6 w))
  | 16 => some (.vrecon (fld 1 2 w) (fld 14 6 w) (fld 20 6 w) (fld 26 6 w))
  | _ => none

/-- Major 0x13, VF16: the row its F-code selects. -/
def decVf16 (w : BitVec 32) : Option Instr :=
  match (fld 9 5 w).toNat with
  | 0 => some (.vhaddH (fld 1 2 w) (fld 14 6 w) (fld 20 6 w) (fld 26 6 w))
  | 1 => some (.vhmulH (fld 1 2 w) (fld 14 6 w) (fld 20 6 w) (fld 26 6 w))
  | 2 => some (.vhfmaH (fld 1 2 w) (fld 14 6 w) (fld 20 6 w) (fld 26 6 w))
  | 8 => some (.vhaddBf (fld 1 2 w) (fld 14 6 w) (fld 20 6 w) (fld 26 6 w))
  | 9 => some (.vhmulBf (fld 1 2 w) (fld 14 6 w) (fld 20 6 w) (fld 26 6 w))
  | 10 => some (.vhfmaBf (fld 1 2 w) (fld 14 6 w) (fld 20 6 w) (fld 26 6 w))
  | _ => none

/-- Major 0x14, VCVT: the row its F-code selects. -/
def decVcvt (w : BitVec 32) : Option Instr :=
  match (fld 9 5 w).toNat with
  | 0 => some (.vcvt (fld 1 2 w) (fld 14 6 w) (fld 20 6 w) (fld 26 6 w))
  | 1 => some (.vcvts (fld 1 2 w) (fld 14 6 w) (fld 20 6 w) (fld 26 6 w))
  | 2 => some (.vpackHF32 (fld 1 2 w) (fld 14 6 w) (fld 20 6 w) (fld 26 6 w))
  | 3 => some (.vpackBfF32 (fld 1 2 w) (fld 14 6 w) (fld 20 6 w) (fld 26 6 w))
  | 4 => some (.vpackE4H (fld 1 2 w) (fld 14 6 w) (fld 20 6 w) (fld 26 6 w))
  | 5 => some (.vpackE5H (fld 1 2 w) (fld 14 6 w) (fld 20 6 w) (fld 26 6 w))
  | 6 => some (.vpackI16I32 (fld 1 2 w) (fld 14 6 w) (fld 20 6 w) (fld 26 6 w))
  | 7 => some (.vpackN16I32 (fld 1 2 w) (fld 14 6 w) (fld 20 6 w) (fld 26 6 w))
  | 8 => some (.vpackI8I16 (fld 1 2 w) (fld 14 6 w) (fld 20 6 w) (fld 26 6 w))
  | 9 => some (.vpackN8I16 (fld 1 2 w) (fld 14 6 w) (fld 20 6 w) (fld 26 6 w))
  | 10 => some (.vpackHF32Sat (fld 1 2 w) (fld 14 6 w) (fld 20 6 w) (fld 26 6 w))
  | 11 => some (.vpackBfF32Sat (fld 1 2 w) (fld 14 6 w) (fld 20 6 w) (fld 26 6 w))
  | 12 => some (.vpackE4HSat (fld 1 2 w) (fld 14 6 w) (fld 20 6 w) (fld 26 6 w))
  | 13 => some (.vpackE5HSat (fld 1 2 w) (fld 14 6 w) (fld 20 6 w) (fld 26 6 w))
  | 16 => some (.vunpackF32H (fld 1 2 w) (fld 14 6 w) (fld 20 6 w) (fld 26 6 w))
  | 17 => some (.vunpackF32Bf (fld 1 2 w) (fld 14 6 w) (fld 20 6 w) (fld 26 6 w))
  | 18 => some (.vunpackHE4 (fld 1 2 w) (fld 14 6 w) (fld 20 6 w) (fld 26 6 w))
  | 19 => some (.vunpackHE5 (fld 1 2 w) (fld 14 6 w) (fld 20 6 w) (fld 26 6 w))
  | 20 => some (.vunpackI32I16 (fld 1 2 w) (fld 14 6 w) (fld 20 6 w) (fld 26 6 w))
  | 21 => some (.vunpackI32N16 (fld 1 2 w) (fld 14 6 w) (fld 20 6 w) (fld 26 6 w))
  | 22 => some (.vunpackI16I8 (fld 1 2 w) (fld 14 6 w) (fld 20 6 w) (fld 26 6 w))
  | 23 => some (.vunpackI32I8 (fld 1 2 w) (fld 14 6 w) (fld 20 6 w) (fld 26 6 w))
  | 24 => some (.vunpackI32N8 (fld 1 2 w) (fld 14 6 w) (fld 20 6 w) (fld 26 6 w))
  | _ => none

/-- Major 0x15, VSFU: the row its F-code selects. -/
def decVsfu (w : BitVec 32) : Option Instr :=
  match (fld 9 5 w).toNat with
  | 0 => some (.vrcpF32 (fld 1 2 w) (fld 14 6 w) (fld 20 6 w))
  | 1 => some (.vrsqF32 (fld 1 2 w) (fld 14 6 w) (fld 20 6 w))
  | 2 => some (.vexp2F32 (fld 1 2 w) (fld 14 6 w) (fld 20 6 w))
  | 3 => some (.vlog2F32 (fld 1 2 w) (fld 14 6 w) (fld 20 6 w))
  | 4 => some (.vsinF32 (fld 1 2 w) (fld 14 6 w) (fld 20 6 w))
  | 5 => some (.vcosF32 (fld 1 2 w) (fld 14 6 w) (fld 20 6 w))
  | _ => none

/-- Major 0x16, VXL: the row its F-code selects. -/
def decVxl (w : BitVec 32) : Option Instr :=
  match (fld 9 5 w).toNat with
  | 0 => some (.vperm (fld 1 2 w) (fld 14 6 w) (fld 20 6 w) (fld 26 6 w))
  | 1 => some (.vpermK (fld 1 2 w) (fld 14 6 w) (fld 20 6 w) (fld 26 6 w))
  | 2 => some (.vshfl (fld 1 2 w) (fld 14 6 w) (fld 20 6 w) (fld 26 6 w))
  | 3 => some (.vshflK (fld 1 2 w) (fld 14 6 w) (fld 20 6 w) (fld 26 6 w))
  | 4 => some (.vshflW (fld 1 2 w) (fld 14 6 w) (fld 20 6 w) (fld 26 3 w))
  | 5 => some (.vshflKW (fld 1 2 w) (fld 14 6 w) (fld 20 6 w) (fld 26 3 w))
  | 6 => some (.vrot (fld 1 2 w) (fld 14 6 w) (fld 20 6 w) (fld 26 6 w))
  | 7 => some (.vrotK (fld 1 2 w) (fld 14 6 w) (fld 20 6 w) (fld 26 6 w))
  | 8 => some (.vrotW (fld 1 2 w) (fld 14 6 w) (fld 20 6 w) (fld 26 3 w))
  | 9 => some (.vrotKW (fld 1 2 w) (fld 14 6 w) (fld 20 6 w) (fld 26 3 w))
  | 10 => some (.vbcast (fld 1 2 w) (fld 14 6 w) (fld 20 6 w) (fld 26 6 w))
  | 11 => some (.vbcastK (fld 1 2 w) (fld 14 6 w) (fld 20 6 w) (fld 26 6 w))
  | 12 => some (.vred (fld 1 2 w) (fld 14 6 w) (fld 20 6 w) (fld 26 6 w))
  | 13 => some (.vscan (fld 1 2 w) (fld 14 6 w) (fld 20 6 w) (fld 26 6 w))
  | 14 => some (.vballot (fld 1 2 w) (fld 14 6 w) (fld 20 6 w))
  | 15 => some (.vvote (fld 1 2 w) (fld 14 6 w) (fld 20 6 w) (fld 26 6 w))
  | _ => none

/-- Major 0x17, VMOVX: the row its F-code selects. -/
def decVmovx (w : BitVec 32) : Option Instr :=
  match (fld 9 5 w).toNat with
  | 0 => some (.vmovsN32 (fld 1 2 w) (fld 14 6 w) (fld 20 6 w) (fld 26 6 w))
  | 1 => some (.vmovsI32 (fld 1 2 w) (fld 14 6 w) (fld 20 6 w) (fld 26 6 w))
  | 2 => some (.vmovsN64 (fld 1 2 w) (fld 14 6 w) (fld 20 6 w) (fld 26 6 w))
  | 3 => some (.vmovl (fld 1 2 w) (fld 14 6 w) (fld 20 6 w) (fld 26 6 w))
  | 4 => some (.vinsN32 (fld 1 2 w) (fld 14 6 w) (fld 20 6 w) (fld 26 6 w))
  | 5 => some (.vinsN64 (fld 1 2 w) (fld 14 6 w) (fld 20 6 w) (fld 26 6 w))
  | 6 => some (.vlane (fld 1 2 w) (fld 14 6 w))
  | _ => none

/-- Major 0x18, VSPLIT: the row its F-code selects. -/
def decVsplit (w : BitVec 32) : Option Instr :=
  some (.vsplit (fld 1 2 w) (fld 9 3 w) (fld 12 2 w) (fld 14 6 w) (fld 20 6 w) (fld 26 6 w))

/-- Major 0x19, VLD: the row its F-code selects. -/
def decVld (w : BitVec 32) : Option Instr :=
  if fld 9 3 w = 7#3 then some (.prefetch (fld 1 2 w) (fld 12 1 w) (fld 18 6 w) (fld 24 6 w) (fld 30 2 w))
  else some (.vld (fld 1 2 w) (fld 9 3 w) (fld 12 6 w) (fld 18 6 w) (fld 24 6 w) (fld 30 2 w))

/-- Major 0x1A, VST: the row its F-code selects. -/
def decVst (w : BitVec 32) : Option Instr :=
  some (.vst (fld 1 2 w) (fld 9 3 w) (fld 12 6 w) (fld 18 6 w) (fld 24 6 w) (fld 30 2 w))

/-- Major 0x1B, ATOM: the row its F-code selects. -/
def decAtom (w : BitVec 32) : Option Instr :=
  match (fld 9 4 w).toNat with
  | 0 => some (.atomAdd (fld 1 2 w) (fld 13 1 w) (fld 14 6 w) (fld 20 6 w) (fld 26 6 w))
  | 1 => some (.atomMin (fld 1 2 w) (fld 13 1 w) (fld 14 6 w) (fld 20 6 w) (fld 26 6 w))
  | 2 => some (.atomMax (fld 1 2 w) (fld 13 1 w) (fld 14 6 w) (fld 20 6 w) (fld 26 6 w))
  | 3 => some (.atomMinu (fld 1 2 w) (fld 13 1 w) (fld 14 6 w) (fld 20 6 w) (fld 26 6 w))
  | 4 => some (.atomMaxu (fld 1 2 w) (fld 13 1 w) (fld 14 6 w) (fld 20 6 w) (fld 26 6 w))
  | 5 => some (.atomAnd (fld 1 2 w) (fld 13 1 w) (fld 14 6 w) (fld 20 6 w) (fld 26 6 w))
  | 6 => some (.atomOr (fld 1 2 w) (fld 13 1 w) (fld 14 6 w) (fld 20 6 w) (fld 26 6 w))
  | 7 => some (.atomXor (fld 1 2 w) (fld 13 1 w) (fld 14 6 w) (fld 20 6 w) (fld 26 6 w))
  | 8 => if fld 13 1 w = 1#1 then none else some (.atomXchg (fld 1 2 w) (fld 14 6 w) (fld 20 6 w) (fld 26 6 w))
  | 9 => if fld 13 1 w = 1#1 then none else some (.cas (fld 1 2 w) (fld 14 6 w) (fld 20 6 w) (fld 26 6 w))
  | _ => none

/-- Major 0x1C, RED: the row its F-code selects. -/
def decRed (w : BitVec 32) : Option Instr :=
  match (fld 9 4 w).toNat with
  | 0 => if fld 13 1 w = 1#1 then none else some (.redAdd (fld 1 2 w) (fld 20 6 w) (fld 26 6 w))
  | 1 => if fld 13 1 w = 1#1 then none else some (.redMin (fld 1 2 w) (fld 20 6 w) (fld 26 6 w))
  | 2 => if fld 13 1 w = 1#1 then none else some (.redMax (fld 1 2 w) (fld 20 6 w) (fld 26 6 w))
  | 3 => if fld 13 1 w = 1#1 then none else some (.redMinu (fld 1 2 w) (fld 20 6 w) (fld 26 6 w))
  | 4 => if fld 13 1 w = 1#1 then none else some (.redMaxu (fld 1 2 w) (fld 20 6 w) (fld 26 6 w))
  | 5 => if fld 13 1 w = 1#1 then none else some (.redAnd (fld 1 2 w) (fld 20 6 w) (fld 26 6 w))
  | 6 => if fld 13 1 w = 1#1 then none else some (.redOr (fld 1 2 w) (fld 20 6 w) (fld 26 6 w))
  | 7 => if fld 13 1 w = 1#1 then none else some (.redXor (fld 1 2 w) (fld 20 6 w) (fld 26 6 w))
  | 8 => some (.redAddF32 (fld 1 2 w) (fld 13 1 w) (fld 20 6 w) (fld 26 6 w))
  | 9 => some (.redAddBf (fld 1 2 w) (fld 13 1 w) (fld 20 6 w) (fld 26 6 w))
  | _ => none

/-- Major 0x1D, ATOMD: the row its F-code selects. -/
def decAtomd (w : BitVec 32) : Option Instr :=
  match (fld 9 4 w).toNat with
  | 0 => some (.atomdAdd (fld 1 2 w) (fld 13 1 w) (fld 14 6 w) (fld 20 6 w) (fld 26 6 w))
  | 1 => some (.atomdMin (fld 1 2 w) (fld 13 1 w) (fld 14 6 w) (fld 20 6 w) (fld 26 6 w))
  | 2 => some (.atomdMax (fld 1 2 w) (fld 13 1 w) (fld 14 6 w) (fld 20 6 w) (fld 26 6 w))
  | 3 => some (.atomdMinu (fld 1 2 w) (fld 13 1 w) (fld 14 6 w) (fld 20 6 w) (fld 26 6 w))
  | 4 => some (.atomdMaxu (fld 1 2 w) (fld 13 1 w) (fld 14 6 w) (fld 20 6 w) (fld 26 6 w))
  | 5 => some (.atomdAnd (fld 1 2 w) (fld 13 1 w) (fld 14 6 w) (fld 20 6 w) (fld 26 6 w))
  | 6 => some (.atomdOr (fld 1 2 w) (fld 13 1 w) (fld 14 6 w) (fld 20 6 w) (fld 26 6 w))
  | 7 => some (.atomdXor (fld 1 2 w) (fld 13 1 w) (fld 14 6 w) (fld 20 6 w) (fld 26 6 w))
  | 8 => if fld 13 1 w = 1#1 then none else some (.atomdXchg (fld 1 2 w) (fld 14 6 w) (fld 20 6 w) (fld 26 6 w))
  | 9 => if fld 13 1 w = 1#1 then none else some (.casd (fld 1 2 w) (fld 14 6 w) (fld 20 6 w) (fld 26 6 w))
  | _ => none

/-- Major 0x1E, REDD: the row its F-code selects. -/
def decRedd (w : BitVec 32) : Option Instr :=
  match (fld 9 4 w).toNat with
  | 0 => if fld 13 1 w = 1#1 then none else some (.reddAdd (fld 1 2 w) (fld 20 6 w) (fld 26 6 w))
  | 1 => if fld 13 1 w = 1#1 then none else some (.reddMin (fld 1 2 w) (fld 20 6 w) (fld 26 6 w))
  | 2 => if fld 13 1 w = 1#1 then none else some (.reddMax (fld 1 2 w) (fld 20 6 w) (fld 26 6 w))
  | 3 => if fld 13 1 w = 1#1 then none else some (.reddMinu (fld 1 2 w) (fld 20 6 w) (fld 26 6 w))
  | 4 => if fld 13 1 w = 1#1 then none else some (.reddMaxu (fld 1 2 w) (fld 20 6 w) (fld 26 6 w))
  | 5 => if fld 13 1 w = 1#1 then none else some (.reddAnd (fld 1 2 w) (fld 20 6 w) (fld 26 6 w))
  | 6 => if fld 13 1 w = 1#1 then none else some (.reddOr (fld 1 2 w) (fld 20 6 w) (fld 26 6 w))
  | 7 => if fld 13 1 w = 1#1 then none else some (.reddXor (fld 1 2 w) (fld 20 6 w) (fld 26 6 w))
  | 8 => some (.reddAddF64 (fld 1 2 w) (fld 13 1 w) (fld 20 6 w) (fld 26 6 w))
  | _ => none

/-- Major 0x1F, MSYNC: the row its F-code selects. -/
def decMsync (w : BitVec 32) : Option Instr :=
  match (fld 9 5 w).toNat with
  | 0 => some (.fenceRel (fld 1 2 w) (fld 14 3 w))
  | 1 => some (.fenceAcq (fld 1 2 w) (fld 14 3 w))
  | 2 => some (.fenceAr (fld 1 2 w) (fld 14 3 w))
  | 3 => some (.invl1 (fld 1 2 w) (fld 14 1 w))
  | 4 => some (.waitcmp (fld 1 2 w) (fld 14 6 w) (fld 20 6 w) (fld 26 3 w) (fld 29 1 w) (fld 30 1 w))
  | 5 => some (.moncancel (fld 1 2 w) (fld 14 6 w) (fld 20 1 w))
  | _ => none

/-- Major 0x20, TBUF: the row its F-code selects. -/
def decTbuf (w : BitVec 32) : Option Instr :=
  if fld 29 1 w = 0#1 then some (.tld (fld 1 2 w) (fld 9 3 w) (fld 12 6 w) (fld 18 6 w) (fld 24 5 w) (fld 30 2 w))
  else some (.tst (fld 1 2 w) (fld 9 3 w) (fld 12 6 w) (fld 18 6 w) (fld 24 5 w) (fld 30 2 w))

/-- Major 0x21, COPY: the row its F-code selects. -/
def decCopy (w : BitVec 32) : Option Instr :=
  match (fld 9 5 w).toNat with
  | 0 => some (.copykickOrd (fld 1 2 w) (fld 20 6 w) (fld 26 6 w))
  | 1 => some (.copykickAny (fld 1 2 w) (fld 20 6 w) (fld 26 6 w))
  | 2 => some (.cdinit (fld 1 2 w) (fld 20 6 w) (fld 26 6 w))
  | 3 => some (.yieldc (fld 1 2 w) (fld 20 6 w) (fld 26 6 w))
  | 4 => some (.pin (fld 1 2 w) (fld 14 2 w) (fld 16 3 w) (fld 20 6 w) (fld 26 6 w))
  | 5 => some (.unpin (fld 1 2 w) (fld 14 2 w))
  | _ => none

/-- Major 0x22, SYNC: the row its F-code selects. -/
def decSync (w : BitVec 32) : Option Instr :=
  match (fld 9 5 w).toNat with
  | 0 => some (.bar (fld 1 2 w) (fld 14 4 w) (fld 18 4 w))
  | 1 => some (.bara (fld 1 2 w) (fld 14 4 w) (fld 18 4 w))
  | 2 => some (.barw (fld 1 2 w) (fld 14 4 w))
  | 3 => some (.gangbar (fld 1 2 w))
  | 4 => some (.gridbar (fld 1 2 w))
  | 5 => some (.stageacq (fld 1 2 w))
  | 6 => some (.stagerel (fld 1 2 w))
  | _ => none

/-- Major 0x23, MX: the row its F-code selects. -/
def decMx (w : BitVec 32) : Option Instr :=
  match (fld 9 5 w).toNat with
  | 0 => some (.mma (fld 1 2 w) (fld 14 6 w) (fld 20 6 w) (fld 26 6 w))
  | 1 => some (.mmaR (fld 1 2 w) (fld 14 6 w) (fld 20 6 w) (fld 26 6 w))
  | 2 => some (.mmas (fld 1 2 w) (fld 14 6 w) (fld 20 6 w) (fld 26 6 w))
  | 3 => some (.mmasR (fld 1 2 w) (fld 14 6 w) (fld 20 6 w) (fld 26 6 w))
  | _ => none

/-- Major 0x24, MXCTL: the row its F-code selects. -/
def decMxctl (w : BitVec 32) : Option Instr :=
  match (fld 9 5 w).toNat with
  | 0 => some (.mxset (fld 1 2 w) (fld 20 6 w))
  | 1 => some (.mscale (fld 1 2 w) (fld 20 6 w) (fld 26 6 w))
  | 2 => some (.mxcont (fld 1 2 w) (fld 20 6 w) (fld 26 6 w))
  | 3 => some (.mxwait (fld 1 2 w) (fld 20 6 w))
  | 4 => some (.mxclr (fld 1 2 w) (fld 20 6 w) (fld 26 6 w))
  | 5 => some (.mxflag (fld 1 2 w) (fld 14 6 w) (fld 20 6 w) (fld 26 6 w))
  | 6 => some (.mxflagC (fld 1 2 w) (fld 14 6 w) (fld 20 6 w) (fld 26 6 w))
  | 7 => some (.mxrd (fld 1 2 w) (fld 14 6 w) (fld 20 6 w))
  | _ => none

/-- Major 0x25, SWP: the row its F-code selects. -/
def decSwp (w : BitVec 32) : Option Instr :=
  match (fld 9 5 w).toNat with
  | 0 => some (.swdecl (fld 1 2 w) (fld 14 6 w) (fld 20 6 w))
  | 1 => if fld 16 1 w = 0#1 then some (.swstart (fld 1 2 w) (fld 14 2 w) (fld 20 6 w) (fld 26 6 w)) else some (.swstartResume (fld 1 2 w) (fld 14 2 w) (fld 20 6 w) (fld 26 6 w))
  | 2 => some (.swhalt (fld 1 2 w) (fld 14 2 w))
  | 3 => some (.swstat (fld 1 2 w) (fld 14 6 w) (fld 20 6 w) (fld 26 2 w))
  | 4 => some (.swstatC (fld 1 2 w) (fld 14 6 w) (fld 20 6 w) (fld 26 2 w))
  | 5 => some (.swfree (fld 1 2 w) (fld 14 2 w))
  | 6 => some (.cwakeAny (fld 1 2 w) (fld 14 2 w) (fld 20 6 w))
  | 7 => some (.cwakeOrd (fld 1 2 w) (fld 14 2 w) (fld 20 6 w))
  | _ => none

/-- Major 0x26, CTX: the row its F-code selects. -/
def decCtx (w : BitVec 32) : Option Instr :=
  match (fld 9 5 w).toNat with
  | 0 => some (.cyield (fld 1 2 w) (fld 14 16 w))
  | 1 => some (.csleep (fld 1 2 w) (fld 14 16 w))
  | 2 => some (.cdone (fld 1 2 w))
  | 3 => some (.cwaitm (fld 1 2 w) (fld 14 3 w) (fld 20 6 w) (fld 26 6 w))
  | 4 => some (.cwake (fld 1 2 w) (fld 20 6 w))
  | 5 => some (.cidx (fld 1 2 w) (fld 14 6 w))
  | 6 => some (.cstat (fld 1 2 w) (fld 14 6 w))
  | _ => none

/-- Major 0x27, LAUNCH: the row its F-code selects. -/
def decLaunch (w : BitVec 32) : Option Instr :=
  match (fld 9 5 w).toNat with
  | 0 => some (.launch (fld 1 2 w) (fld 20 6 w) (fld 26 4 w))
  | 1 => some (.amsendAny (fld 1 2 w) (fld 14 6 w) (fld 20 6 w) (fld 26 4 w))
  | 2 => some (.amsendOrd (fld 1 2 w) (fld 14 6 w) (fld 20 6 w) (fld 26 4 w))
  | _ => none

/-- R94: the family that MAJOR selects; none of them for 0x28 to 0x3F. -/
def decMajor (w : BitVec 32) : Option (Option Instr) :=
  match (fld 3 6 w).toNat with
  | 0 => some (decSys w)
  | 1 => some (decBr w)
  | 2 => some (decJmp w)
  | 3 => some (decCall w)
  | 4 => some (decSctl w)
  | 5 => some (decSalu w)
  | 6 => some (decSalui w)
  | 7 => some (decSmovl w)
  | 8 => some (decSshin w)
  | 9 => some (decScmp w)
  | 10 => some (decSmem w)
  | 11 => some (decMask w)
  | 12 => some (decVint w)
  | 13 => some (decVints w)
  | 14 => some (decVinti w)
  | 15 => some (decVcmp w)
  | 16 => some (decVf32 w)
  | 17 => some (decVf32s w)
  | 18 => some (decVf64 w)
  | 19 => some (decVf16 w)
  | 20 => some (decVcvt w)
  | 21 => some (decVsfu w)
  | 22 => some (decVxl w)
  | 23 => some (decVmovx w)
  | 24 => some (decVsplit w)
  | 25 => some (decVld w)
  | 26 => some (decVst w)
  | 27 => some (decAtom w)
  | 28 => some (decRed w)
  | 29 => some (decAtomd w)
  | 30 => some (decRedd w)
  | 31 => some (decMsync w)
  | 32 => some (decTbuf w)
  | 33 => some (decCopy w)
  | 34 => some (decSync w)
  | 35 => some (decMx w)
  | 36 => some (decMxctl w)
  | 37 => some (decSwp w)
  | 38 => some (decCtx w)
  | 39 => some (decLaunch w)
  | _ => none

/-- R91, R92: a parcel; the null parcel of R93 apart. -/
def decParcel (p : BitVec 16) : Instr :=
  if p = 0#16 then .nullParcel
  else match (fld 1 4 p).toNat with
  | 0 => .vaddI32Parcel (fld 5 1 p) (fld 6 5 p) (fld 11 5 p)
  | 1 => .vsubI32Parcel (fld 5 1 p) (fld 6 5 p) (fld 11 5 p)
  | 2 => .vmulI32Parcel (fld 5 1 p) (fld 6 5 p) (fld 11 5 p)
  | 3 => .vminI32Parcel (fld 5 1 p) (fld 6 5 p) (fld 11 5 p)
  | 4 => .vmaxI32Parcel (fld 5 1 p) (fld 6 5 p) (fld 11 5 p)
  | 5 => .vandParcel (fld 5 1 p) (fld 6 5 p) (fld 11 5 p)
  | 6 => .vorParcel (fld 5 1 p) (fld 6 5 p) (fld 11 5 p)
  | 7 => .vxorParcel (fld 5 1 p) (fld 6 5 p) (fld 11 5 p)
  | 8 => .vshlParcel (fld 5 1 p) (fld 6 5 p) (fld 11 5 p)
  | 9 => .vshrParcel (fld 5 1 p) (fld 6 5 p) (fld 11 5 p)
  | 10 => .vmovParcel (fld 5 1 p) (fld 6 5 p) (fld 11 5 p)
  | 11 => .vfaddF32Parcel (fld 5 1 p) (fld 6 5 p) (fld 11 5 p)
  | 12 => .vfsubF32Parcel (fld 5 1 p) (fld 6 5 p) (fld 11 5 p)
  | 13 => .vfmulF32Parcel (fld 5 1 p) (fld 6 5 p) (fld 11 5 p)
  | 14 => .vfminF32Parcel (fld 5 1 p) (fld 6 5 p) (fld 11 5 p)
  | _ => .vfmaxF32Parcel (fld 5 1 p) (fld 6 5 p) (fld 11 5 p)

/-- The word of TRAP (R345). -/
def wTrap (g : BitVec 2) (i : BitVec 18) : BitVec 32 :=
  i ++ 0#11 ++ g ++ 1#1

/-- The word of RTE (R327). -/
def wRte (g : BitVec 2) : BitVec 32 :=
  64#29 ++ g ++ 1#1

/-- The word of SVCALL (R345). -/
def wSvcall (g : BitVec 2) (v : BitVec 6) : BitVec 32 :=
  0#12 ++ v ++ 128#11 ++ g ++ 1#1

/-- The word of MBPOP (R345). -/
def wMbpop (g : BitVec 2) (d : BitVec 6) : BitVec 32 :=
  0#12 ++ d ++ 192#11 ++ g ++ 1#1

/-- The word of MBREPLY (R346). -/
def wMbreply (g : BitVec 2) (a : BitVec 6) : BitVec 32 :=
  0#12 ++ a ++ 256#11 ++ g ++ 1#1

/-- The word of MGNSET (R348). -/
def wMgnset (g : BitVec 2) (a : BitVec 6) (d : BitVec 6) (r : BitVec 3) : BitVec 32 :=
  0#3 ++ r ++ d ++ a ++ 320#11 ++ g ++ 1#1

/-- The word of MGNSET_W (R348). -/
def wMgnsetW (g : BitVec 2) (a : BitVec 6) (d : BitVec 6) (r : BitVec 3) : BitVec 32 :=
  1#3 ++ r ++ d ++ a ++ 320#11 ++ g ++ 1#1

/-- The word of QSAVE (R346). -/
def wQsave (g : BitVec 2) (a : BitVec 6) (b : BitVec 6) : BitVec 32 :=
  0#6 ++ b ++ a ++ 384#11 ++ g ++ 1#1

/-- The word of QLOAD (R346). -/
def wQload (g : BitVec 2) (a : BitVec 6) (b : BitVec 6) : BitVec 32 :=
  0#6 ++ b ++ a ++ 448#11 ++ g ++ 1#1

/-- The word of TEMPOW (R347). -/
def wTempow (g : BitVec 2) (a : BitVec 6) : BitVec 32 :=
  0#12 ++ a ++ 512#11 ++ g ++ 1#1

/-- The word of HALTT (R347). -/
def wHaltt (g : BitVec 2) : BitVec 32 :=
  576#29 ++ g ++ 1#1

/-- The word of BR (R127). -/
def wBr (g : BitVec 2) (c : BitVec 5) (o : BitVec 18) : BitVec 32 :=
  o ++ c ++ 1#6 ++ g ++ 1#1

/-- The word of JMP (R128). -/
def wJmp (g : BitVec 2) (o : BitVec 23) : BitVec 32 :=
  o ++ 2#6 ++ g ++ 1#1

/-- The word of CALL (R128). -/
def wCall (g : BitVec 2) (o : BitVec 23) : BitVec 32 :=
  o ++ 3#6 ++ g ++ 1#1

/-- The word of NOP (R130). -/
def wNop (g : BitVec 2) : BitVec 32 :=
  4#29 ++ g ++ 1#1

/-- The word of EXIT (R135). -/
def wExit (g : BitVec 2) : BitVec 32 :=
  68#29 ++ g ++ 1#1

/-- The word of RET (R128). -/
def wRet (g : BitVec 2) (a : BitVec 6) : BitVec 32 :=
  0#6 ++ a ++ 132#17 ++ g ++ 1#1

/-- The word of JMPR (R128). -/
def wJmpr (g : BitVec 2) (a : BitVec 6) : BitVec 32 :=
  0#6 ++ a ++ 196#17 ++ g ++ 1#1

/-- The word of SMOV (R130). -/
def wSmov (g : BitVec 2) (d : BitVec 6) (a : BitVec 6) : BitVec 32 :=
  0#6 ++ a ++ d ++ 260#11 ++ g ++ 1#1

/-- The word of SMOVS (R131). -/
def wSmovs (g : BitVec 2) (d : BitVec 6) (x : BitVec 6) (y : BitVec 2) : BitVec 32 :=
  0#4 ++ y ++ x ++ d ++ 324#11 ++ g ++ 1#1

/-- The word of SMOVW (R131). -/
def wSmovw (g : BitVec 2) (x : BitVec 6) (a : BitVec 6) (y : BitVec 2) : BitVec 32 :=
  0#4 ++ y ++ a ++ x ++ 388#11 ++ g ++ 1#1

/-- The word of FMTSET (R132). -/
def wFmtset (g : BitVec 2) (a : BitVec 6) : BitVec 32 :=
  0#6 ++ a ++ 452#17 ++ g ++ 1#1

/-- The word of FMTSET_MASK (R132). -/
def wFmtsetMask (g : BitVec 2) (a : BitVec 6) (b : BitVec 6) : BitVec 32 :=
  b ++ a ++ 516#17 ++ g ++ 1#1

/-- The word of FMTGET (R130). -/
def wFmtget (g : BitVec 2) (d : BitVec 6) : BitVec 32 :=
  0#12 ++ d ++ 580#11 ++ g ++ 1#1

/-- The word of FLGGET (R133). -/
def wFlgget (g : BitVec 2) (d : BitVec 6) : BitVec 32 :=
  0#12 ++ d ++ 644#11 ++ g ++ 1#1

/-- The word of FLGCLR (R133). -/
def wFlgclr (g : BitVec 2) (a : BitVec 6) : BitVec 32 :=
  0#6 ++ a ++ 708#17 ++ g ++ 1#1

/-- The word of WAIT (R134). -/
def wWait (g : BitVec 2) (c : BitVec 5) (n : BitVec 6) : BitVec 32 :=
  0#6 ++ n ++ 0#1 ++ c ++ 772#11 ++ g ++ 1#1

/-- The word of SADD (R120). -/
def wSadd (g : BitVec 2) (d : BitVec 6) (a : BitVec 6) (b : BitVec 6) : BitVec 32 :=
  b ++ a ++ d ++ 5#11 ++ g ++ 1#1

/-- The word of SSUB (R120). -/
def wSsub (g : BitVec 2) (d : BitVec 6) (a : BitVec 6) (b : BitVec 6) : BitVec 32 :=
  b ++ a ++ d ++ 69#11 ++ g ++ 1#1

/-- The word of SMUL (R120). -/
def wSmul (g : BitVec 2) (d : BitVec 6) (a : BitVec 6) (b : BitVec 6) : BitVec 32 :=
  b ++ a ++ d ++ 133#11 ++ g ++ 1#1

/-- The word of SMULH_I64 (R120). -/
def wSmulhI64 (g : BitVec 2) (d : BitVec 6) (a : BitVec 6) (b : BitVec 6) : BitVec 32 :=
  b ++ a ++ d ++ 197#11 ++ g ++ 1#1

/-- The word of SMULH_N64 (R120). -/
def wSmulhN64 (g : BitVec 2) (d : BitVec 6) (a : BitVec 6) (b : BitVec 6) : BitVec 32 :=
  b ++ a ++ d ++ 261#11 ++ g ++ 1#1

/-- The word of SAND (R120). -/
def wSand (g : BitVec 2) (d : BitVec 6) (a : BitVec 6) (b : BitVec 6) : BitVec 32 :=
  b ++ a ++ d ++ 325#11 ++ g ++ 1#1

/-- The word of SOR (R120). -/
def wSor (g : BitVec 2) (d : BitVec 6) (a : BitVec 6) (b : BitVec 6) : BitVec 32 :=
  b ++ a ++ d ++ 389#11 ++ g ++ 1#1

/-- The word of SXOR (R120). -/
def wSxor (g : BitVec 2) (d : BitVec 6) (a : BitVec 6) (b : BitVec 6) : BitVec 32 :=
  b ++ a ++ d ++ 453#11 ++ g ++ 1#1

/-- The word of SSHL (R120). -/
def wSshl (g : BitVec 2) (d : BitVec 6) (a : BitVec 6) (b : BitVec 6) : BitVec 32 :=
  b ++ a ++ d ++ 517#11 ++ g ++ 1#1

/-- The word of SSHR (R120). -/
def wSshr (g : BitVec 2) (d : BitVec 6) (a : BitVec 6) (b : BitVec 6) : BitVec 32 :=
  b ++ a ++ d ++ 581#11 ++ g ++ 1#1

/-- The word of SSRA (R120). -/
def wSsra (g : BitVec 2) (d : BitVec 6) (a : BitVec 6) (b : BitVec 6) : BitVec 32 :=
  b ++ a ++ d ++ 645#11 ++ g ++ 1#1

/-- The word of SMIN_I64 (R120). -/
def wSminI64 (g : BitVec 2) (d : BitVec 6) (a : BitVec 6) (b : BitVec 6) : BitVec 32 :=
  b ++ a ++ d ++ 709#11 ++ g ++ 1#1

/-- The word of SMIN_N64 (R120). -/
def wSminN64 (g : BitVec 2) (d : BitVec 6) (a : BitVec 6) (b : BitVec 6) : BitVec 32 :=
  b ++ a ++ d ++ 773#11 ++ g ++ 1#1

/-- The word of SMAX_I64 (R120). -/
def wSmaxI64 (g : BitVec 2) (d : BitVec 6) (a : BitVec 6) (b : BitVec 6) : BitVec 32 :=
  b ++ a ++ d ++ 837#11 ++ g ++ 1#1

/-- The word of SMAX_N64 (R120). -/
def wSmaxN64 (g : BitVec 2) (d : BitVec 6) (a : BitVec 6) (b : BitVec 6) : BitVec 32 :=
  b ++ a ++ d ++ 901#11 ++ g ++ 1#1

/-- The word of SSEL (R120). -/
def wSsel (g : BitVec 2) (d : BitVec 6) (a : BitVec 6) (b : BitVec 6) : BitVec 32 :=
  b ++ a ++ d ++ 965#11 ++ g ++ 1#1

/-- The word of SADD_FL (R121). -/
def wSaddFl (g : BitVec 2) (d : BitVec 6) (a : BitVec 6) (b : BitVec 6) : BitVec 32 :=
  b ++ a ++ d ++ 1029#11 ++ g ++ 1#1

/-- The word of SSUB_FL (R121). -/
def wSsubFl (g : BitVec 2) (d : BitVec 6) (a : BitVec 6) (b : BitVec 6) : BitVec 32 :=
  b ++ a ++ d ++ 1093#11 ++ g ++ 1#1

/-- The word of SADDI (R122). -/
def wSaddi (g : BitVec 2) (d : BitVec 6) (a : BitVec 6) (i : BitVec 8) : BitVec 32 :=
  i ++ a ++ d ++ 6#9 ++ g ++ 1#1

/-- The word of SMULI (R122). -/
def wSmuli (g : BitVec 2) (d : BitVec 6) (a : BitVec 6) (i : BitVec 8) : BitVec 32 :=
  i ++ a ++ d ++ 70#9 ++ g ++ 1#1

/-- The word of SANDI (R122). -/
def wSandi (g : BitVec 2) (d : BitVec 6) (a : BitVec 6) (i : BitVec 8) : BitVec 32 :=
  i ++ a ++ d ++ 134#9 ++ g ++ 1#1

/-- The word of SORI (R122). -/
def wSori (g : BitVec 2) (d : BitVec 6) (a : BitVec 6) (i : BitVec 8) : BitVec 32 :=
  i ++ a ++ d ++ 198#9 ++ g ++ 1#1

/-- The word of SXORI (R122). -/
def wSxori (g : BitVec 2) (d : BitVec 6) (a : BitVec 6) (i : BitVec 8) : BitVec 32 :=
  i ++ a ++ d ++ 262#9 ++ g ++ 1#1

/-- The word of SSHLI (R122). -/
def wSshli (g : BitVec 2) (d : BitVec 6) (a : BitVec 6) (i : BitVec 6) : BitVec 32 :=
  0#2 ++ i ++ a ++ d ++ 326#9 ++ g ++ 1#1

/-- The word of SSHRI (R122). -/
def wSshri (g : BitVec 2) (d : BitVec 6) (a : BitVec 6) (i : BitVec 6) : BitVec 32 :=
  0#2 ++ i ++ a ++ d ++ 390#9 ++ g ++ 1#1

/-- The word of SSRAI (R122). -/
def wSsrai (g : BitVec 2) (d : BitVec 6) (a : BitVec 6) (i : BitVec 6) : BitVec 32 :=
  0#2 ++ i ++ a ++ d ++ 454#9 ++ g ++ 1#1

/-- The word of SMOVL (R123). -/
def wSmovl (g : BitVec 2) (d : BitVec 6) (i : BitVec 17) : BitVec 32 :=
  i ++ d ++ 7#6 ++ g ++ 1#1

/-- The word of SSHIN (R123). -/
def wSshin (g : BitVec 2) (d : BitVec 6) (i : BitVec 17) : BitVec 32 :=
  i ++ d ++ 8#6 ++ g ++ 1#1

/-- The word of SCMP (R124). -/
def wScmp (g : BitVec 2) (a : BitVec 6) (b : BitVec 6) : BitVec 32 :=
  b ++ a ++ 9#17 ++ g ++ 1#1

/-- The word of SCMPI (R124). -/
def wScmpi (g : BitVec 2) (i : BitVec 6) (a : BitVec 6) (j : BitVec 6) : BitVec 32 :=
  j ++ a ++ i ++ 73#11 ++ g ++ 1#1

/-- The word of SLD (R125). -/
def wSld (g : BitVec 2) (z : BitVec 2) (d : BitVec 6) (a : BitVec 6) (i : BitVec 8) : BitVec 32 :=
  i ++ a ++ d ++ 0#1 ++ z ++ 10#6 ++ g ++ 1#1

/-- The word of SST (R125). -/
def wSst (g : BitVec 2) (z : BitVec 2) (d : BitVec 6) (a : BitVec 6) (i : BitVec 8) : BitVec 32 :=
  i ++ a ++ d ++ 1#1 ++ z ++ 10#6 ++ g ++ 1#1

/-- The word of IFM (R139). -/
def wIfm (g : BitVec 2) (a : BitVec 6) : BitVec 32 :=
  0#6 ++ a ++ 11#17 ++ g ++ 1#1

/-- The word of ELSEM (R140). -/
def wElsem (g : BitVec 2) : BitVec 32 :=
  75#29 ++ g ++ 1#1

/-- The word of ENDM (R141). -/
def wEndm (g : BitVec 2) : BitVec 32 :=
  139#29 ++ g ++ 1#1

/-- The word of BRKM (R142). -/
def wBrkm (g : BitVec 2) (a : BitVec 6) : BitVec 32 :=
  0#6 ++ a ++ 203#17 ++ g ++ 1#1

/-- The word of BRKM_LOOP (R142). -/
def wBrkmLoop (g : BitVec 2) : BitVec 32 :=
  267#29 ++ g ++ 1#1

/-- The word of MAND (R137). -/
def wMand (g : BitVec 2) (d : BitVec 6) (a : BitVec 6) (b : BitVec 6) : BitVec 32 :=
  b ++ a ++ d ++ 331#11 ++ g ++ 1#1

/-- The word of MOR (R137). -/
def wMor (g : BitVec 2) (d : BitVec 6) (a : BitVec 6) (b : BitVec 6) : BitVec 32 :=
  b ++ a ++ d ++ 395#11 ++ g ++ 1#1

/-- The word of MXOR (R137). -/
def wMxor (g : BitVec 2) (d : BitVec 6) (a : BitVec 6) (b : BitVec 6) : BitVec 32 :=
  b ++ a ++ d ++ 459#11 ++ g ++ 1#1

/-- The word of MNOT (R137). -/
def wMnot (g : BitVec 2) (d : BitVec 6) (a : BitVec 6) : BitVec 32 :=
  0#6 ++ a ++ d ++ 523#11 ++ g ++ 1#1

/-- The word of MMOV (R137). -/
def wMmov (g : BitVec 2) (d : BitVec 6) (a : BitVec 6) : BitVec 32 :=
  0#6 ++ a ++ d ++ 587#11 ++ g ++ 1#1

/-- The word of MMOV_FROM_SCALAR (R137). -/
def wMmovFromScalar (g : BitVec 2) (d : BitVec 6) (a : BitVec 6) : BitVec 32 :=
  0#6 ++ a ++ d ++ 651#11 ++ g ++ 1#1

/-- The word of MMOV_TO_SCALAR (R137). -/
def wMmovToScalar (g : BitVec 2) (d : BitVec 6) (a : BitVec 6) : BitVec 32 :=
  0#6 ++ a ++ d ++ 715#11 ++ g ++ 1#1

/-- The word of MPOPC (R137). -/
def wMpopc (g : BitVec 2) (d : BitVec 6) (a : BitVec 6) : BitVec 32 :=
  0#6 ++ a ++ d ++ 779#11 ++ g ++ 1#1

/-- The word of MFIRST (R137). -/
def wMfirst (g : BitVec 2) (d : BitVec 6) (a : BitVec 6) : BitVec 32 :=
  0#6 ++ a ++ d ++ 843#11 ++ g ++ 1#1

/-- The word of VADD_I32 (R148). -/
def wVaddI32 (g : BitVec 2) (d : BitVec 6) (a : BitVec 6) (b : BitVec 6) : BitVec 32 :=
  b ++ a ++ d ++ 12#11 ++ g ++ 1#1

/-- The word of VSUB_I32 (R148). -/
def wVsubI32 (g : BitVec 2) (d : BitVec 6) (a : BitVec 6) (b : BitVec 6) : BitVec 32 :=
  b ++ a ++ d ++ 76#11 ++ g ++ 1#1

/-- The word of VMUL_I32 (R148). -/
def wVmulI32 (g : BitVec 2) (d : BitVec 6) (a : BitVec 6) (b : BitVec 6) : BitVec 32 :=
  b ++ a ++ d ++ 140#11 ++ g ++ 1#1

/-- The word of VMULH_I32 (R148). -/
def wVmulhI32 (g : BitVec 2) (d : BitVec 6) (a : BitVec 6) (b : BitVec 6) : BitVec 32 :=
  b ++ a ++ d ++ 204#11 ++ g ++ 1#1

/-- The word of VMULH_N32 (R148). -/
def wVmulhN32 (g : BitVec 2) (d : BitVec 6) (a : BitVec 6) (b : BitVec 6) : BitVec 32 :=
  b ++ a ++ d ++ 268#11 ++ g ++ 1#1

/-- The word of VMAD_I32 (R148). -/
def wVmadI32 (g : BitVec 2) (d : BitVec 6) (a : BitVec 6) (b : BitVec 6) : BitVec 32 :=
  b ++ a ++ d ++ 332#11 ++ g ++ 1#1

/-- The word of VDIV_I32 (R152). -/
def wVdivI32 (g : BitVec 2) (d : BitVec 6) (a : BitVec 6) (b : BitVec 6) : BitVec 32 :=
  b ++ a ++ d ++ 396#11 ++ g ++ 1#1

/-- The word of VDIV_N32 (R152). -/
def wVdivN32 (g : BitVec 2) (d : BitVec 6) (a : BitVec 6) (b : BitVec 6) : BitVec 32 :=
  b ++ a ++ d ++ 460#11 ++ g ++ 1#1

/-- The word of VREM_I32 (R152). -/
def wVremI32 (g : BitVec 2) (d : BitVec 6) (a : BitVec 6) (b : BitVec 6) : BitVec 32 :=
  b ++ a ++ d ++ 524#11 ++ g ++ 1#1

/-- The word of VREM_N32 (R152). -/
def wVremN32 (g : BitVec 2) (d : BitVec 6) (a : BitVec 6) (b : BitVec 6) : BitVec 32 :=
  b ++ a ++ d ++ 588#11 ++ g ++ 1#1

/-- The word of VMIN_I32 (R148). -/
def wVminI32 (g : BitVec 2) (d : BitVec 6) (a : BitVec 6) (b : BitVec 6) : BitVec 32 :=
  b ++ a ++ d ++ 652#11 ++ g ++ 1#1

/-- The word of VMIN_N32 (R148). -/
def wVminN32 (g : BitVec 2) (d : BitVec 6) (a : BitVec 6) (b : BitVec 6) : BitVec 32 :=
  b ++ a ++ d ++ 716#11 ++ g ++ 1#1

/-- The word of VMAX_I32 (R148). -/
def wVmaxI32 (g : BitVec 2) (d : BitVec 6) (a : BitVec 6) (b : BitVec 6) : BitVec 32 :=
  b ++ a ++ d ++ 780#11 ++ g ++ 1#1

/-- The word of VMAX_N32 (R148). -/
def wVmaxN32 (g : BitVec 2) (d : BitVec 6) (a : BitVec 6) (b : BitVec 6) : BitVec 32 :=
  b ++ a ++ d ++ 844#11 ++ g ++ 1#1

/-- The word of VAND (R148). -/
def wVand (g : BitVec 2) (d : BitVec 6) (a : BitVec 6) (b : BitVec 6) : BitVec 32 :=
  b ++ a ++ d ++ 908#11 ++ g ++ 1#1

/-- The word of VOR (R148). -/
def wVor (g : BitVec 2) (d : BitVec 6) (a : BitVec 6) (b : BitVec 6) : BitVec 32 :=
  b ++ a ++ d ++ 972#11 ++ g ++ 1#1

/-- The word of VXOR (R148). -/
def wVxor (g : BitVec 2) (d : BitVec 6) (a : BitVec 6) (b : BitVec 6) : BitVec 32 :=
  b ++ a ++ d ++ 1036#11 ++ g ++ 1#1

/-- The word of VSHL (R148). -/
def wVshl (g : BitVec 2) (d : BitVec 6) (a : BitVec 6) (b : BitVec 6) : BitVec 32 :=
  b ++ a ++ d ++ 1100#11 ++ g ++ 1#1

/-- The word of VSHR (R148). -/
def wVshr (g : BitVec 2) (d : BitVec 6) (a : BitVec 6) (b : BitVec 6) : BitVec 32 :=
  b ++ a ++ d ++ 1164#11 ++ g ++ 1#1

/-- The word of VSRA (R148). -/
def wVsra (g : BitVec 2) (d : BitVec 6) (a : BitVec 6) (b : BitVec 6) : BitVec 32 :=
  b ++ a ++ d ++ 1228#11 ++ g ++ 1#1

/-- The word of VADDC (R150). -/
def wVaddc (g : BitVec 2) (d : BitVec 6) (a : BitVec 6) (b : BitVec 6) : BitVec 32 :=
  b ++ a ++ d ++ 1292#11 ++ g ++ 1#1

/-- The word of VSUBB (R150). -/
def wVsubb (g : BitVec 2) (d : BitVec 6) (a : BitVec 6) (b : BitVec 6) : BitVec 32 :=
  b ++ a ++ d ++ 1356#11 ++ g ++ 1#1

/-- The word of VABS_I32 (R148). -/
def wVabsI32 (g : BitVec 2) (d : BitVec 6) (a : BitVec 6) : BitVec 32 :=
  0#6 ++ a ++ d ++ 1420#11 ++ g ++ 1#1

/-- The word of VNEG_I32 (R148). -/
def wVnegI32 (g : BitVec 2) (d : BitVec 6) (a : BitVec 6) : BitVec 32 :=
  0#6 ++ a ++ d ++ 1484#11 ++ g ++ 1#1

/-- The word of VNOT (R148). -/
def wVnot (g : BitVec 2) (d : BitVec 6) (a : BitVec 6) : BitVec 32 :=
  0#6 ++ a ++ d ++ 1548#11 ++ g ++ 1#1

/-- The word of VPOPC (R148). -/
def wVpopc (g : BitVec 2) (d : BitVec 6) (a : BitVec 6) : BitVec 32 :=
  0#6 ++ a ++ d ++ 1612#11 ++ g ++ 1#1

/-- The word of VCLZ (R148). -/
def wVclz (g : BitVec 2) (d : BitVec 6) (a : BitVec 6) : BitVec 32 :=
  0#6 ++ a ++ d ++ 1676#11 ++ g ++ 1#1

/-- The word of VBREV (R148). -/
def wVbrev (g : BitVec 2) (d : BitVec 6) (a : BitVec 6) : BitVec 32 :=
  0#6 ++ a ++ d ++ 1740#11 ++ g ++ 1#1

/-- The word of VBFE_I32 (R151). -/
def wVbfeI32 (g : BitVec 2) (d : BitVec 6) (a : BitVec 6) (b : BitVec 6) : BitVec 32 :=
  b ++ a ++ d ++ 1804#11 ++ g ++ 1#1

/-- The word of VBFE_N32 (R151). -/
def wVbfeN32 (g : BitVec 2) (d : BitVec 6) (a : BitVec 6) (b : BitVec 6) : BitVec 32 :=
  b ++ a ++ d ++ 1868#11 ++ g ++ 1#1

/-- The word of VBFI (R151). -/
def wVbfi (g : BitVec 2) (d : BitVec 6) (a : BitVec 6) (b : BitVec 6) : BitVec 32 :=
  b ++ a ++ d ++ 1932#11 ++ g ++ 1#1

/-- The word of VMOV (R148). -/
def wVmov (g : BitVec 2) (d : BitVec 6) (a : BitVec 6) : BitVec 32 :=
  0#6 ++ a ++ d ++ 1996#11 ++ g ++ 1#1

/-- The word of VADD_I32_VS (R153). -/
def wVaddI32Vs (g : BitVec 2) (d : BitVec 6) (a : BitVec 6) (b : BitVec 6) : BitVec 32 :=
  b ++ a ++ d ++ 13#11 ++ g ++ 1#1

/-- The word of VSUB_I32_VS (R153). -/
def wVsubI32Vs (g : BitVec 2) (d : BitVec 6) (a : BitVec 6) (b : BitVec 6) : BitVec 32 :=
  b ++ a ++ d ++ 77#11 ++ g ++ 1#1

/-- The word of VMUL_I32_VS (R153). -/
def wVmulI32Vs (g : BitVec 2) (d : BitVec 6) (a : BitVec 6) (b : BitVec 6) : BitVec 32 :=
  b ++ a ++ d ++ 141#11 ++ g ++ 1#1

/-- The word of VMULH_I32_VS (R153). -/
def wVmulhI32Vs (g : BitVec 2) (d : BitVec 6) (a : BitVec 6) (b : BitVec 6) : BitVec 32 :=
  b ++ a ++ d ++ 205#11 ++ g ++ 1#1

/-- The word of VMULH_N32_VS (R153). -/
def wVmulhN32Vs (g : BitVec 2) (d : BitVec 6) (a : BitVec 6) (b : BitVec 6) : BitVec 32 :=
  b ++ a ++ d ++ 269#11 ++ g ++ 1#1

/-- The word of VMAD_I32_VS (R153). -/
def wVmadI32Vs (g : BitVec 2) (d : BitVec 6) (a : BitVec 6) (b : BitVec 6) : BitVec 32 :=
  b ++ a ++ d ++ 333#11 ++ g ++ 1#1

/-- The word of VDIV_I32_VS (R153). -/
def wVdivI32Vs (g : BitVec 2) (d : BitVec 6) (a : BitVec 6) (b : BitVec 6) : BitVec 32 :=
  b ++ a ++ d ++ 397#11 ++ g ++ 1#1

/-- The word of VDIV_N32_VS (R153). -/
def wVdivN32Vs (g : BitVec 2) (d : BitVec 6) (a : BitVec 6) (b : BitVec 6) : BitVec 32 :=
  b ++ a ++ d ++ 461#11 ++ g ++ 1#1

/-- The word of VREM_I32_VS (R153). -/
def wVremI32Vs (g : BitVec 2) (d : BitVec 6) (a : BitVec 6) (b : BitVec 6) : BitVec 32 :=
  b ++ a ++ d ++ 525#11 ++ g ++ 1#1

/-- The word of VREM_N32_VS (R153). -/
def wVremN32Vs (g : BitVec 2) (d : BitVec 6) (a : BitVec 6) (b : BitVec 6) : BitVec 32 :=
  b ++ a ++ d ++ 589#11 ++ g ++ 1#1

/-- The word of VMIN_I32_VS (R153). -/
def wVminI32Vs (g : BitVec 2) (d : BitVec 6) (a : BitVec 6) (b : BitVec 6) : BitVec 32 :=
  b ++ a ++ d ++ 653#11 ++ g ++ 1#1

/-- The word of VMIN_N32_VS (R153). -/
def wVminN32Vs (g : BitVec 2) (d : BitVec 6) (a : BitVec 6) (b : BitVec 6) : BitVec 32 :=
  b ++ a ++ d ++ 717#11 ++ g ++ 1#1

/-- The word of VMAX_I32_VS (R153). -/
def wVmaxI32Vs (g : BitVec 2) (d : BitVec 6) (a : BitVec 6) (b : BitVec 6) : BitVec 32 :=
  b ++ a ++ d ++ 781#11 ++ g ++ 1#1

/-- The word of VMAX_N32_VS (R153). -/
def wVmaxN32Vs (g : BitVec 2) (d : BitVec 6) (a : BitVec 6) (b : BitVec 6) : BitVec 32 :=
  b ++ a ++ d ++ 845#11 ++ g ++ 1#1

/-- The word of VAND_VS (R153). -/
def wVandVs (g : BitVec 2) (d : BitVec 6) (a : BitVec 6) (b : BitVec 6) : BitVec 32 :=
  b ++ a ++ d ++ 909#11 ++ g ++ 1#1

/-- The word of VOR_VS (R153). -/
def wVorVs (g : BitVec 2) (d : BitVec 6) (a : BitVec 6) (b : BitVec 6) : BitVec 32 :=
  b ++ a ++ d ++ 973#11 ++ g ++ 1#1

/-- The word of VXOR_VS (R153). -/
def wVxorVs (g : BitVec 2) (d : BitVec 6) (a : BitVec 6) (b : BitVec 6) : BitVec 32 :=
  b ++ a ++ d ++ 1037#11 ++ g ++ 1#1

/-- The word of VSHL_VS (R153). -/
def wVshlVs (g : BitVec 2) (d : BitVec 6) (a : BitVec 6) (b : BitVec 6) : BitVec 32 :=
  b ++ a ++ d ++ 1101#11 ++ g ++ 1#1

/-- The word of VSHR_VS (R153). -/
def wVshrVs (g : BitVec 2) (d : BitVec 6) (a : BitVec 6) (b : BitVec 6) : BitVec 32 :=
  b ++ a ++ d ++ 1165#11 ++ g ++ 1#1

/-- The word of VSRA_VS (R153). -/
def wVsraVs (g : BitVec 2) (d : BitVec 6) (a : BitVec 6) (b : BitVec 6) : BitVec 32 :=
  b ++ a ++ d ++ 1229#11 ++ g ++ 1#1

/-- The word of VADDC_VS (R153). -/
def wVaddcVs (g : BitVec 2) (d : BitVec 6) (a : BitVec 6) (b : BitVec 6) : BitVec 32 :=
  b ++ a ++ d ++ 1293#11 ++ g ++ 1#1

/-- The word of VSUBB_VS (R153). -/
def wVsubbVs (g : BitVec 2) (d : BitVec 6) (a : BitVec 6) (b : BitVec 6) : BitVec 32 :=
  b ++ a ++ d ++ 1357#11 ++ g ++ 1#1

/-- The word of VBFE_I32_VS (R153). -/
def wVbfeI32Vs (g : BitVec 2) (d : BitVec 6) (a : BitVec 6) (b : BitVec 6) : BitVec 32 :=
  b ++ a ++ d ++ 1805#11 ++ g ++ 1#1

/-- The word of VBFE_N32_VS (R153). -/
def wVbfeN32Vs (g : BitVec 2) (d : BitVec 6) (a : BitVec 6) (b : BitVec 6) : BitVec 32 :=
  b ++ a ++ d ++ 1869#11 ++ g ++ 1#1

/-- The word of VBFI_VS (R153). -/
def wVbfiVs (g : BitVec 2) (d : BitVec 6) (a : BitVec 6) (b : BitVec 6) : BitVec 32 :=
  b ++ a ++ d ++ 1933#11 ++ g ++ 1#1

/-- The word of VMOV_VS (R153). -/
def wVmovVs (g : BitVec 2) (d : BitVec 6) (b : BitVec 6) : BitVec 32 :=
  b ++ 0#6 ++ d ++ 1997#11 ++ g ++ 1#1

/-- The word of VADD_I32_VI (R154). -/
def wVaddI32Vi (g : BitVec 2) (d : BitVec 6) (a : BitVec 6) (i : BitVec 8) : BitVec 32 :=
  i ++ a ++ d ++ 14#9 ++ g ++ 1#1

/-- The word of VMUL_I32_VI (R154). -/
def wVmulI32Vi (g : BitVec 2) (d : BitVec 6) (a : BitVec 6) (i : BitVec 8) : BitVec 32 :=
  i ++ a ++ d ++ 78#9 ++ g ++ 1#1

/-- The word of VAND_VI (R154). -/
def wVandVi (g : BitVec 2) (d : BitVec 6) (a : BitVec 6) (i : BitVec 8) : BitVec 32 :=
  i ++ a ++ d ++ 142#9 ++ g ++ 1#1

/-- The word of VOR_VI (R154). -/
def wVorVi (g : BitVec 2) (d : BitVec 6) (a : BitVec 6) (i : BitVec 8) : BitVec 32 :=
  i ++ a ++ d ++ 206#9 ++ g ++ 1#1

/-- The word of VXOR_VI (R154). -/
def wVxorVi (g : BitVec 2) (d : BitVec 6) (a : BitVec 6) (i : BitVec 8) : BitVec 32 :=
  i ++ a ++ d ++ 270#9 ++ g ++ 1#1

/-- The word of VSHL_VI (R154). -/
def wVshlVi (g : BitVec 2) (d : BitVec 6) (a : BitVec 6) (i : BitVec 5) : BitVec 32 :=
  0#3 ++ i ++ a ++ d ++ 334#9 ++ g ++ 1#1

/-- The word of VSHR_VI (R154). -/
def wVshrVi (g : BitVec 2) (d : BitVec 6) (a : BitVec 6) (i : BitVec 5) : BitVec 32 :=
  0#3 ++ i ++ a ++ d ++ 398#9 ++ g ++ 1#1

/-- The word of VSRA_VI (R154). -/
def wVsraVi (g : BitVec 2) (d : BitVec 6) (a : BitVec 6) (i : BitVec 5) : BitVec 32 :=
  0#3 ++ i ++ a ++ d ++ 462#9 ++ g ++ 1#1

/-- The word of VCMP_I32 (R156). -/
def wVcmpI32 (g : BitVec 2) (c : BitVec 3) (d : BitVec 6) (a : BitVec 6) (b : BitVec 6) : BitVec 32 :=
  b ++ a ++ d ++ 0#2 ++ c ++ 15#6 ++ g ++ 1#1

/-- The word of VSEL (R157). -/
def wVsel (g : BitVec 2) (d : BitVec 6) (a : BitVec 6) (b : BitVec 6) : BitVec 32 :=
  b ++ a ++ d ++ 399#11 ++ g ++ 1#1

/-- The word of VCMP_N32 (R156). -/
def wVcmpN32 (g : BitVec 2) (c : BitVec 3) (d : BitVec 6) (a : BitVec 6) (b : BitVec 6) : BitVec 32 :=
  b ++ a ++ d ++ 1#2 ++ c ++ 15#6 ++ g ++ 1#1

/-- The word of VCMP_F32 (R156). -/
def wVcmpF32 (g : BitVec 2) (c : BitVec 3) (d : BitVec 6) (a : BitVec 6) (b : BitVec 6) : BitVec 32 :=
  b ++ a ++ d ++ 2#2 ++ c ++ 15#6 ++ g ++ 1#1

/-- The word of VCMP_F64 (R156). -/
def wVcmpF64 (g : BitVec 2) (c : BitVec 3) (d : BitVec 6) (a : BitVec 6) (b : BitVec 6) : BitVec 32 :=
  b ++ a ++ d ++ 3#2 ++ c ++ 15#6 ++ g ++ 1#1

/-- The word of VFADD_F32 (R159). -/
def wVfaddF32 (g : BitVec 2) (d : BitVec 6) (a : BitVec 6) (b : BitVec 6) : BitVec 32 :=
  b ++ a ++ d ++ 16#11 ++ g ++ 1#1

/-- The word of VFSUB_F32 (R159). -/
def wVfsubF32 (g : BitVec 2) (d : BitVec 6) (a : BitVec 6) (b : BitVec 6) : BitVec 32 :=
  b ++ a ++ d ++ 80#11 ++ g ++ 1#1

/-- The word of VFMUL_F32 (R159). -/
def wVfmulF32 (g : BitVec 2) (d : BitVec 6) (a : BitVec 6) (b : BitVec 6) : BitVec 32 :=
  b ++ a ++ d ++ 144#11 ++ g ++ 1#1

/-- The word of VFMA_F32 (R159). -/
def wVfmaF32 (g : BitVec 2) (d : BitVec 6) (a : BitVec 6) (b : BitVec 6) : BitVec 32 :=
  b ++ a ++ d ++ 208#11 ++ g ++ 1#1

/-- The word of VFMS_F32 (R159). -/
def wVfmsF32 (g : BitVec 2) (d : BitVec 6) (a : BitVec 6) (b : BitVec 6) : BitVec 32 :=
  b ++ a ++ d ++ 272#11 ++ g ++ 1#1

/-- The word of VFMIN_F32 (R160). -/
def wVfminF32 (g : BitVec 2) (d : BitVec 6) (a : BitVec 6) (b : BitVec 6) : BitVec 32 :=
  b ++ a ++ d ++ 336#11 ++ g ++ 1#1

/-- The word of VFMAX_F32 (R160). -/
def wVfmaxF32 (g : BitVec 2) (d : BitVec 6) (a : BitVec 6) (b : BitVec 6) : BitVec 32 :=
  b ++ a ++ d ++ 400#11 ++ g ++ 1#1

/-- The word of VFABS_F32 (R161). -/
def wVfabsF32 (g : BitVec 2) (d : BitVec 6) (a : BitVec 6) : BitVec 32 :=
  0#6 ++ a ++ d ++ 464#11 ++ g ++ 1#1

/-- The word of VFNEG_F32 (R161). -/
def wVfnegF32 (g : BitVec 2) (d : BitVec 6) (a : BitVec 6) : BitVec 32 :=
  0#6 ++ a ++ d ++ 528#11 ++ g ++ 1#1

/-- The word of VFDIV_F32 (R159). -/
def wVfdivF32 (g : BitVec 2) (d : BitVec 6) (a : BitVec 6) (b : BitVec 6) : BitVec 32 :=
  b ++ a ++ d ++ 592#11 ++ g ++ 1#1

/-- The word of VFSQRT_F32 (R159). -/
def wVfsqrtF32 (g : BitVec 2) (d : BitVec 6) (a : BitVec 6) : BitVec 32 :=
  0#6 ++ a ++ d ++ 656#11 ++ g ++ 1#1

/-- The word of VFCLASS_F32 (R161). -/
def wVfclassF32 (g : BitVec 2) (d : BitVec 6) (a : BitVec 6) : BitVec 32 :=
  0#6 ++ a ++ d ++ 720#11 ++ g ++ 1#1

/-- The word of VFADD_F32_VS (R162). -/
def wVfaddF32Vs (g : BitVec 2) (d : BitVec 6) (a : BitVec 6) (b : BitVec 6) : BitVec 32 :=
  b ++ a ++ d ++ 17#11 ++ g ++ 1#1

/-- The word of VFSUB_F32_VS (R162). -/
def wVfsubF32Vs (g : BitVec 2) (d : BitVec 6) (a : BitVec 6) (b : BitVec 6) : BitVec 32 :=
  b ++ a ++ d ++ 81#11 ++ g ++ 1#1

/-- The word of VFMUL_F32_VS (R162). -/
def wVfmulF32Vs (g : BitVec 2) (d : BitVec 6) (a : BitVec 6) (b : BitVec 6) : BitVec 32 :=
  b ++ a ++ d ++ 145#11 ++ g ++ 1#1

/-- The word of VFMA_F32_VS (R162). -/
def wVfmaF32Vs (g : BitVec 2) (d : BitVec 6) (a : BitVec 6) (b : BitVec 6) : BitVec 32 :=
  b ++ a ++ d ++ 209#11 ++ g ++ 1#1

/-- The word of VFMS_F32_VS (R162). -/
def wVfmsF32Vs (g : BitVec 2) (d : BitVec 6) (a : BitVec 6) (b : BitVec 6) : BitVec 32 :=
  b ++ a ++ d ++ 273#11 ++ g ++ 1#1

/-- The word of VFMIN_F32_VS (R162). -/
def wVfminF32Vs (g : BitVec 2) (d : BitVec 6) (a : BitVec 6) (b : BitVec 6) : BitVec 32 :=
  b ++ a ++ d ++ 337#11 ++ g ++ 1#1

/-- The word of VFMAX_F32_VS (R162). -/
def wVfmaxF32Vs (g : BitVec 2) (d : BitVec 6) (a : BitVec 6) (b : BitVec 6) : BitVec 32 :=
  b ++ a ++ d ++ 401#11 ++ g ++ 1#1

/-- The word of VFDIV_F32_VS (R162). -/
def wVfdivF32Vs (g : BitVec 2) (d : BitVec 6) (a : BitVec 6) (b : BitVec 6) : BitVec 32 :=
  b ++ a ++ d ++ 593#11 ++ g ++ 1#1

/-- The word of VFADD_F64 (R159). -/
def wVfaddF64 (g : BitVec 2) (d : BitVec 6) (a : BitVec 6) (b : BitVec 6) : BitVec 32 :=
  b ++ a ++ d ++ 18#11 ++ g ++ 1#1

/-- The word of VFSUB_F64 (R159). -/
def wVfsubF64 (g : BitVec 2) (d : BitVec 6) (a : BitVec 6) (b : BitVec 6) : BitVec 32 :=
  b ++ a ++ d ++ 82#11 ++ g ++ 1#1

/-- The word of VFMUL_F64 (R159). -/
def wVfmulF64 (g : BitVec 2) (d : BitVec 6) (a : BitVec 6) (b : BitVec 6) : BitVec 32 :=
  b ++ a ++ d ++ 146#11 ++ g ++ 1#1

/-- The word of VFMA_F64 (R159). -/
def wVfmaF64 (g : BitVec 2) (d : BitVec 6) (a : BitVec 6) (b : BitVec 6) : BitVec 32 :=
  b ++ a ++ d ++ 210#11 ++ g ++ 1#1

/-- The word of VFMS_F64 (R159). -/
def wVfmsF64 (g : BitVec 2) (d : BitVec 6) (a : BitVec 6) (b : BitVec 6) : BitVec 32 :=
  b ++ a ++ d ++ 274#11 ++ g ++ 1#1

/-- The word of VFMIN_F64 (R160). -/
def wVfminF64 (g : BitVec 2) (d : BitVec 6) (a : BitVec 6) (b : BitVec 6) : BitVec 32 :=
  b ++ a ++ d ++ 338#11 ++ g ++ 1#1

/-- The word of VFMAX_F64 (R160). -/
def wVfmaxF64 (g : BitVec 2) (d : BitVec 6) (a : BitVec 6) (b : BitVec 6) : BitVec 32 :=
  b ++ a ++ d ++ 402#11 ++ g ++ 1#1

/-- The word of VFABS_F64 (R161). -/
def wVfabsF64 (g : BitVec 2) (d : BitVec 6) (a : BitVec 6) : BitVec 32 :=
  0#6 ++ a ++ d ++ 466#11 ++ g ++ 1#1

/-- The word of VFNEG_F64 (R161). -/
def wVfnegF64 (g : BitVec 2) (d : BitVec 6) (a : BitVec 6) : BitVec 32 :=
  0#6 ++ a ++ d ++ 530#11 ++ g ++ 1#1

/-- The word of VFDIV_F64 (R159). -/
def wVfdivF64 (g : BitVec 2) (d : BitVec 6) (a : BitVec 6) (b : BitVec 6) : BitVec 32 :=
  b ++ a ++ d ++ 594#11 ++ g ++ 1#1

/-- The word of VFSQRT_F64 (R159). -/
def wVfsqrtF64 (g : BitVec 2) (d : BitVec 6) (a : BitVec 6) : BitVec 32 :=
  0#6 ++ a ++ d ++ 658#11 ++ g ++ 1#1

/-- The word of VFCLASS_F64 (R161). -/
def wVfclassF64 (g : BitVec 2) (d : BitVec 6) (a : BitVec 6) : BitVec 32 :=
  0#6 ++ a ++ d ++ 722#11 ++ g ++ 1#1

/-- The word of VRECON (R181). -/
def wVrecon (g : BitVec 2) (d : BitVec 6) (a : BitVec 6) (b : BitVec 6) : BitVec 32 :=
  b ++ a ++ d ++ 1042#11 ++ g ++ 1#1

/-- The word of VHADD_H (R163). -/
def wVhaddH (g : BitVec 2) (d : BitVec 6) (a : BitVec 6) (b : BitVec 6) : BitVec 32 :=
  b ++ a ++ d ++ 19#11 ++ g ++ 1#1

/-- The word of VHMUL_H (R163). -/
def wVhmulH (g : BitVec 2) (d : BitVec 6) (a : BitVec 6) (b : BitVec 6) : BitVec 32 :=
  b ++ a ++ d ++ 83#11 ++ g ++ 1#1

/-- The word of VHFMA_H (R163). -/
def wVhfmaH (g : BitVec 2) (d : BitVec 6) (a : BitVec 6) (b : BitVec 6) : BitVec 32 :=
  b ++ a ++ d ++ 147#11 ++ g ++ 1#1

/-- The word of VHADD_BF (R163). -/
def wVhaddBf (g : BitVec 2) (d : BitVec 6) (a : BitVec 6) (b : BitVec 6) : BitVec 32 :=
  b ++ a ++ d ++ 531#11 ++ g ++ 1#1

/-- The word of VHMUL_BF (R163). -/
def wVhmulBf (g : BitVec 2) (d : BitVec 6) (a : BitVec 6) (b : BitVec 6) : BitVec 32 :=
  b ++ a ++ d ++ 595#11 ++ g ++ 1#1

/-- The word of VHFMA_BF (R163). -/
def wVhfmaBf (g : BitVec 2) (d : BitVec 6) (a : BitVec 6) (b : BitVec 6) : BitVec 32 :=
  b ++ a ++ d ++ 659#11 ++ g ++ 1#1

/-- The word of VCVT (R166). -/
def wVcvt (g : BitVec 2) (d : BitVec 6) (a : BitVec 6) (k : BitVec 6) : BitVec 32 :=
  k ++ a ++ d ++ 20#11 ++ g ++ 1#1

/-- The word of VCVTS (R168). -/
def wVcvts (g : BitVec 2) (d : BitVec 6) (a : BitVec 6) (k : BitVec 6) : BitVec 32 :=
  k ++ a ++ d ++ 84#11 ++ g ++ 1#1

/-- The word of VPACK_H_F32 (R169). -/
def wVpackHF32 (g : BitVec 2) (d : BitVec 6) (a : BitVec 6) (b : BitVec 6) : BitVec 32 :=
  b ++ a ++ d ++ 148#11 ++ g ++ 1#1

/-- The word of VPACK_BF_F32 (R169). -/
def wVpackBfF32 (g : BitVec 2) (d : BitVec 6) (a : BitVec 6) (b : BitVec 6) : BitVec 32 :=
  b ++ a ++ d ++ 212#11 ++ g ++ 1#1

/-- The word of VPACK_E4_H (R169). -/
def wVpackE4H (g : BitVec 2) (d : BitVec 6) (a : BitVec 6) (b : BitVec 6) : BitVec 32 :=
  b ++ a ++ d ++ 276#11 ++ g ++ 1#1

/-- The word of VPACK_E5_H (R169). -/
def wVpackE5H (g : BitVec 2) (d : BitVec 6) (a : BitVec 6) (b : BitVec 6) : BitVec 32 :=
  b ++ a ++ d ++ 340#11 ++ g ++ 1#1

/-- The word of VPACK_I16_I32 (R169). -/
def wVpackI16I32 (g : BitVec 2) (d : BitVec 6) (a : BitVec 6) (b : BitVec 6) : BitVec 32 :=
  b ++ a ++ d ++ 404#11 ++ g ++ 1#1

/-- The word of VPACK_N16_I32 (R169). -/
def wVpackN16I32 (g : BitVec 2) (d : BitVec 6) (a : BitVec 6) (b : BitVec 6) : BitVec 32 :=
  b ++ a ++ d ++ 468#11 ++ g ++ 1#1

/-- The word of VPACK_I8_I16 (R169). -/
def wVpackI8I16 (g : BitVec 2) (d : BitVec 6) (a : BitVec 6) (b : BitVec 6) : BitVec 32 :=
  b ++ a ++ d ++ 532#11 ++ g ++ 1#1

/-- The word of VPACK_N8_I16 (R169). -/
def wVpackN8I16 (g : BitVec 2) (d : BitVec 6) (a : BitVec 6) (b : BitVec 6) : BitVec 32 :=
  b ++ a ++ d ++ 596#11 ++ g ++ 1#1

/-- The word of VPACK_H_F32_SAT (R169). -/
def wVpackHF32Sat (g : BitVec 2) (d : BitVec 6) (a : BitVec 6) (b : BitVec 6) : BitVec 32 :=
  b ++ a ++ d ++ 660#11 ++ g ++ 1#1

/-- The word of VPACK_BF_F32_SAT (R169). -/
def wVpackBfF32Sat (g : BitVec 2) (d : BitVec 6) (a : BitVec 6) (b : BitVec 6) : BitVec 32 :=
  b ++ a ++ d ++ 724#11 ++ g ++ 1#1

/-- The word of VPACK_E4_H_SAT (R169). -/
def wVpackE4HSat (g : BitVec 2) (d : BitVec 6) (a : BitVec 6) (b : BitVec 6) : BitVec 32 :=
  b ++ a ++ d ++ 788#11 ++ g ++ 1#1

/-- The word of VPACK_E5_H_SAT (R169). -/
def wVpackE5HSat (g : BitVec 2) (d : BitVec 6) (a : BitVec 6) (b : BitVec 6) : BitVec 32 :=
  b ++ a ++ d ++ 852#11 ++ g ++ 1#1

/-- The word of VUNPACK_F32_H (R170). -/
def wVunpackF32H (g : BitVec 2) (d : BitVec 6) (a : BitVec 6) (i : BitVec 6) : BitVec 32 :=
  i ++ a ++ d ++ 1044#11 ++ g ++ 1#1

/-- The word of VUNPACK_F32_BF (R170). -/
def wVunpackF32Bf (g : BitVec 2) (d : BitVec 6) (a : BitVec 6) (i : BitVec 6) : BitVec 32 :=
  i ++ a ++ d ++ 1108#11 ++ g ++ 1#1

/-- The word of VUNPACK_H_E4 (R170). -/
def wVunpackHE4 (g : BitVec 2) (d : BitVec 6) (a : BitVec 6) (i : BitVec 6) : BitVec 32 :=
  i ++ a ++ d ++ 1172#11 ++ g ++ 1#1

/-- The word of VUNPACK_H_E5 (R170). -/
def wVunpackHE5 (g : BitVec 2) (d : BitVec 6) (a : BitVec 6) (i : BitVec 6) : BitVec 32 :=
  i ++ a ++ d ++ 1236#11 ++ g ++ 1#1

/-- The word of VUNPACK_I32_I16 (R170). -/
def wVunpackI32I16 (g : BitVec 2) (d : BitVec 6) (a : BitVec 6) (i : BitVec 6) : BitVec 32 :=
  i ++ a ++ d ++ 1300#11 ++ g ++ 1#1

/-- The word of VUNPACK_I32_N16 (R170). -/
def wVunpackI32N16 (g : BitVec 2) (d : BitVec 6) (a : BitVec 6) (i : BitVec 6) : BitVec 32 :=
  i ++ a ++ d ++ 1364#11 ++ g ++ 1#1

/-- The word of VUNPACK_I16_I8 (R170). -/
def wVunpackI16I8 (g : BitVec 2) (d : BitVec 6) (a : BitVec 6) (i : BitVec 6) : BitVec 32 :=
  i ++ a ++ d ++ 1428#11 ++ g ++ 1#1

/-- The word of VUNPACK_I32_I8 (R170). -/
def wVunpackI32I8 (g : BitVec 2) (d : BitVec 6) (a : BitVec 6) (i : BitVec 6) : BitVec 32 :=
  i ++ a ++ d ++ 1492#11 ++ g ++ 1#1

/-- The word of VUNPACK_I32_N8 (R170). -/
def wVunpackI32N8 (g : BitVec 2) (d : BitVec 6) (a : BitVec 6) (i : BitVec 6) : BitVec 32 :=
  i ++ a ++ d ++ 1556#11 ++ g ++ 1#1

/-- The word of VRCP_F32 (R171). -/
def wVrcpF32 (g : BitVec 2) (d : BitVec 6) (a : BitVec 6) : BitVec 32 :=
  0#6 ++ a ++ d ++ 21#11 ++ g ++ 1#1

/-- The word of VRSQ_F32 (R171). -/
def wVrsqF32 (g : BitVec 2) (d : BitVec 6) (a : BitVec 6) : BitVec 32 :=
  0#6 ++ a ++ d ++ 85#11 ++ g ++ 1#1

/-- The word of VEXP2_F32 (R171). -/
def wVexp2F32 (g : BitVec 2) (d : BitVec 6) (a : BitVec 6) : BitVec 32 :=
  0#6 ++ a ++ d ++ 149#11 ++ g ++ 1#1

/-- The word of VLOG2_F32 (R171). -/
def wVlog2F32 (g : BitVec 2) (d : BitVec 6) (a : BitVec 6) : BitVec 32 :=
  0#6 ++ a ++ d ++ 213#11 ++ g ++ 1#1

/-- The word of VSIN_F32 (R171). -/
def wVsinF32 (g : BitVec 2) (d : BitVec 6) (a : BitVec 6) : BitVec 32 :=
  0#6 ++ a ++ d ++ 277#11 ++ g ++ 1#1

/-- The word of VCOS_F32 (R171). -/
def wVcosF32 (g : BitVec 2) (d : BitVec 6) (a : BitVec 6) : BitVec 32 :=
  0#6 ++ a ++ d ++ 341#11 ++ g ++ 1#1

/-- The word of VPERM (R173). -/
def wVperm (g : BitVec 2) (d : BitVec 6) (a : BitVec 6) (b : BitVec 6) : BitVec 32 :=
  b ++ a ++ d ++ 22#11 ++ g ++ 1#1

/-- The word of VPERM_K (R173). -/
def wVpermK (g : BitVec 2) (d : BitVec 6) (a : BitVec 6) (b : BitVec 6) : BitVec 32 :=
  b ++ a ++ d ++ 86#11 ++ g ++ 1#1

/-- The word of VSHFL (R174). -/
def wVshfl (g : BitVec 2) (d : BitVec 6) (a : BitVec 6) (n : BitVec 6) : BitVec 32 :=
  n ++ a ++ d ++ 150#11 ++ g ++ 1#1

/-- The word of VSHFL_K (R174). -/
def wVshflK (g : BitVec 2) (d : BitVec 6) (a : BitVec 6) (n : BitVec 6) : BitVec 32 :=
  n ++ a ++ d ++ 214#11 ++ g ++ 1#1

/-- The word of VSHFL_W (R174). -/
def wVshflW (g : BitVec 2) (d : BitVec 6) (a : BitVec 6) (k : BitVec 3) : BitVec 32 :=
  0#3 ++ k ++ a ++ d ++ 278#11 ++ g ++ 1#1

/-- The word of VSHFL_K_W (R174). -/
def wVshflKW (g : BitVec 2) (d : BitVec 6) (a : BitVec 6) (k : BitVec 3) : BitVec 32 :=
  0#3 ++ k ++ a ++ d ++ 342#11 ++ g ++ 1#1

/-- The word of VROT (R174). -/
def wVrot (g : BitVec 2) (d : BitVec 6) (a : BitVec 6) (n : BitVec 6) : BitVec 32 :=
  n ++ a ++ d ++ 406#11 ++ g ++ 1#1

/-- The word of VROT_K (R174). -/
def wVrotK (g : BitVec 2) (d : BitVec 6) (a : BitVec 6) (n : BitVec 6) : BitVec 32 :=
  n ++ a ++ d ++ 470#11 ++ g ++ 1#1

/-- The word of VROT_W (R174). -/
def wVrotW (g : BitVec 2) (d : BitVec 6) (a : BitVec 6) (k : BitVec 3) : BitVec 32 :=
  0#3 ++ k ++ a ++ d ++ 534#11 ++ g ++ 1#1

/-- The word of VROT_K_W (R174). -/
def wVrotKW (g : BitVec 2) (d : BitVec 6) (a : BitVec 6) (k : BitVec 3) : BitVec 32 :=
  0#3 ++ k ++ a ++ d ++ 598#11 ++ g ++ 1#1

/-- The word of VBCAST (R174). -/
def wVbcast (g : BitVec 2) (d : BitVec 6) (a : BitVec 6) (n : BitVec 6) : BitVec 32 :=
  n ++ a ++ d ++ 662#11 ++ g ++ 1#1

/-- The word of VBCAST_K (R174). -/
def wVbcastK (g : BitVec 2) (d : BitVec 6) (a : BitVec 6) (n : BitVec 6) : BitVec 32 :=
  n ++ a ++ d ++ 726#11 ++ g ++ 1#1

/-- The word of VRED (R175). -/
def wVred (g : BitVec 2) (d : BitVec 6) (a : BitVec 6) (p : BitVec 6) : BitVec 32 :=
  p ++ a ++ d ++ 790#11 ++ g ++ 1#1

/-- The word of VSCAN (R176). -/
def wVscan (g : BitVec 2) (d : BitVec 6) (a : BitVec 6) (p : BitVec 6) : BitVec 32 :=
  p ++ a ++ d ++ 854#11 ++ g ++ 1#1

/-- The word of VBALLOT (R178). -/
def wVballot (g : BitVec 2) (d : BitVec 6) (a : BitVec 6) : BitVec 32 :=
  0#6 ++ a ++ d ++ 918#11 ++ g ++ 1#1

/-- The word of VVOTE (R178). -/
def wVvote (g : BitVec 2) (d : BitVec 6) (a : BitVec 6) (m : BitVec 6) : BitVec 32 :=
  m ++ a ++ d ++ 982#11 ++ g ++ 1#1

/-- The word of VMOVS_N32 (R179). -/
def wVmovsN32 (g : BitVec 2) (d : BitVec 6) (a : BitVec 6) (n : BitVec 6) : BitVec 32 :=
  n ++ a ++ d ++ 23#11 ++ g ++ 1#1

/-- The word of VMOVS_I32 (R179). -/
def wVmovsI32 (g : BitVec 2) (d : BitVec 6) (a : BitVec 6) (n : BitVec 6) : BitVec 32 :=
  n ++ a ++ d ++ 87#11 ++ g ++ 1#1

/-- The word of VMOVS_N64 (R179). -/
def wVmovsN64 (g : BitVec 2) (d : BitVec 6) (a : BitVec 6) (n : BitVec 6) : BitVec 32 :=
  n ++ a ++ d ++ 151#11 ++ g ++ 1#1

/-- The word of VMOVL (R179). -/
def wVmovl (g : BitVec 2) (d : BitVec 6) (i : BitVec 6) (j : BitVec 6) : BitVec 32 :=
  j ++ i ++ d ++ 215#11 ++ g ++ 1#1

/-- The word of VINS_N32 (R179). -/
def wVinsN32 (g : BitVec 2) (d : BitVec 6) (n : BitVec 6) (b : BitVec 6) : BitVec 32 :=
  b ++ n ++ d ++ 279#11 ++ g ++ 1#1

/-- The word of VINS_N64 (R179). -/
def wVinsN64 (g : BitVec 2) (d : BitVec 6) (n : BitVec 6) (b : BitVec 6) : BitVec 32 :=
  b ++ n ++ d ++ 343#11 ++ g ++ 1#1

/-- The word of VLANE (R179). -/
def wVlane (g : BitVec 2) (d : BitVec 6) : BitVec 32 :=
  0#12 ++ d ++ 407#11 ++ g ++ 1#1

/-- The word of VSPLIT (R180). -/
def wVsplit (g : BitVec 2) (x : BitVec 3) (y : BitVec 2) (d : BitVec 6) (a : BitVec 6) (b : BitVec 6) : BitVec 32 :=
  b ++ a ++ d ++ y ++ x ++ 24#6 ++ g ++ 1#1

/-- The word of VLD (R208). -/
def wVld (g : BitVec 2) (w : BitVec 3) (d : BitVec 6) (b : BitVec 6) (o : BitVec 6) (h : BitVec 2) : BitVec 32 :=
  h ++ o ++ b ++ d ++ w ++ 25#6 ++ g ++ 1#1

/-- The word of PREFETCH (R213). -/
def wPrefetch (g : BitVec 2) (l : BitVec 1) (b : BitVec 6) (o : BitVec 6) (h : BitVec 2) : BitVec 32 :=
  h ++ o ++ b ++ 0#5 ++ l ++ 473#9 ++ g ++ 1#1

/-- The word of VST (R208). -/
def wVst (g : BitVec 2) (w : BitVec 3) (d : BitVec 6) (b : BitVec 6) (o : BitVec 6) (h : BitVec 2) : BitVec 32 :=
  h ++ o ++ b ++ d ++ w ++ 26#6 ++ g ++ 1#1

/-- The word of ATOM_ADD (R220). -/
def wAtomAdd (g : BitVec 2) (o : BitVec 1) (d : BitVec 6) (a : BitVec 6) (b : BitVec 6) : BitVec 32 :=
  b ++ a ++ d ++ o ++ 27#10 ++ g ++ 1#1

/-- The word of ATOM_MIN (R220). -/
def wAtomMin (g : BitVec 2) (o : BitVec 1) (d : BitVec 6) (a : BitVec 6) (b : BitVec 6) : BitVec 32 :=
  b ++ a ++ d ++ o ++ 91#10 ++ g ++ 1#1

/-- The word of ATOM_MAX (R220). -/
def wAtomMax (g : BitVec 2) (o : BitVec 1) (d : BitVec 6) (a : BitVec 6) (b : BitVec 6) : BitVec 32 :=
  b ++ a ++ d ++ o ++ 155#10 ++ g ++ 1#1

/-- The word of ATOM_MINU (R220). -/
def wAtomMinu (g : BitVec 2) (o : BitVec 1) (d : BitVec 6) (a : BitVec 6) (b : BitVec 6) : BitVec 32 :=
  b ++ a ++ d ++ o ++ 219#10 ++ g ++ 1#1

/-- The word of ATOM_MAXU (R220). -/
def wAtomMaxu (g : BitVec 2) (o : BitVec 1) (d : BitVec 6) (a : BitVec 6) (b : BitVec 6) : BitVec 32 :=
  b ++ a ++ d ++ o ++ 283#10 ++ g ++ 1#1

/-- The word of ATOM_AND (R220). -/
def wAtomAnd (g : BitVec 2) (o : BitVec 1) (d : BitVec 6) (a : BitVec 6) (b : BitVec 6) : BitVec 32 :=
  b ++ a ++ d ++ o ++ 347#10 ++ g ++ 1#1

/-- The word of ATOM_OR (R220). -/
def wAtomOr (g : BitVec 2) (o : BitVec 1) (d : BitVec 6) (a : BitVec 6) (b : BitVec 6) : BitVec 32 :=
  b ++ a ++ d ++ o ++ 411#10 ++ g ++ 1#1

/-- The word of ATOM_XOR (R220). -/
def wAtomXor (g : BitVec 2) (o : BitVec 1) (d : BitVec 6) (a : BitVec 6) (b : BitVec 6) : BitVec 32 :=
  b ++ a ++ d ++ o ++ 475#10 ++ g ++ 1#1

/-- The word of ATOM_XCHG (R220). -/
def wAtomXchg (g : BitVec 2) (d : BitVec 6) (a : BitVec 6) (b : BitVec 6) : BitVec 32 :=
  b ++ a ++ d ++ 539#11 ++ g ++ 1#1

/-- The word of CAS (R220). -/
def wCas (g : BitVec 2) (d : BitVec 6) (a : BitVec 6) (b : BitVec 6) : BitVec 32 :=
  b ++ a ++ d ++ 603#11 ++ g ++ 1#1

/-- The word of RED_ADD (R220). -/
def wRedAdd (g : BitVec 2) (a : BitVec 6) (b : BitVec 6) : BitVec 32 :=
  b ++ a ++ 28#17 ++ g ++ 1#1

/-- The word of RED_MIN (R220). -/
def wRedMin (g : BitVec 2) (a : BitVec 6) (b : BitVec 6) : BitVec 32 :=
  b ++ a ++ 92#17 ++ g ++ 1#1

/-- The word of RED_MAX (R220). -/
def wRedMax (g : BitVec 2) (a : BitVec 6) (b : BitVec 6) : BitVec 32 :=
  b ++ a ++ 156#17 ++ g ++ 1#1

/-- The word of RED_MINU (R220). -/
def wRedMinu (g : BitVec 2) (a : BitVec 6) (b : BitVec 6) : BitVec 32 :=
  b ++ a ++ 220#17 ++ g ++ 1#1

/-- The word of RED_MAXU (R220). -/
def wRedMaxu (g : BitVec 2) (a : BitVec 6) (b : BitVec 6) : BitVec 32 :=
  b ++ a ++ 284#17 ++ g ++ 1#1

/-- The word of RED_AND (R220). -/
def wRedAnd (g : BitVec 2) (a : BitVec 6) (b : BitVec 6) : BitVec 32 :=
  b ++ a ++ 348#17 ++ g ++ 1#1

/-- The word of RED_OR (R220). -/
def wRedOr (g : BitVec 2) (a : BitVec 6) (b : BitVec 6) : BitVec 32 :=
  b ++ a ++ 412#17 ++ g ++ 1#1

/-- The word of RED_XOR (R220). -/
def wRedXor (g : BitVec 2) (a : BitVec 6) (b : BitVec 6) : BitVec 32 :=
  b ++ a ++ 476#17 ++ g ++ 1#1

/-- The word of RED_ADD_F32 (R221). -/
def wRedAddF32 (g : BitVec 2) (o : BitVec 1) (a : BitVec 6) (b : BitVec 6) : BitVec 32 :=
  b ++ a ++ 0#6 ++ o ++ 540#10 ++ g ++ 1#1

/-- The word of RED_ADD_BF (R221). -/
def wRedAddBf (g : BitVec 2) (o : BitVec 1) (a : BitVec 6) (b : BitVec 6) : BitVec 32 :=
  b ++ a ++ 0#6 ++ o ++ 604#10 ++ g ++ 1#1

/-- The word of ATOMD_ADD (R220). -/
def wAtomdAdd (g : BitVec 2) (o : BitVec 1) (d : BitVec 6) (a : BitVec 6) (b : BitVec 6) : BitVec 32 :=
  b ++ a ++ d ++ o ++ 29#10 ++ g ++ 1#1

/-- The word of ATOMD_MIN (R220). -/
def wAtomdMin (g : BitVec 2) (o : BitVec 1) (d : BitVec 6) (a : BitVec 6) (b : BitVec 6) : BitVec 32 :=
  b ++ a ++ d ++ o ++ 93#10 ++ g ++ 1#1

/-- The word of ATOMD_MAX (R220). -/
def wAtomdMax (g : BitVec 2) (o : BitVec 1) (d : BitVec 6) (a : BitVec 6) (b : BitVec 6) : BitVec 32 :=
  b ++ a ++ d ++ o ++ 157#10 ++ g ++ 1#1

/-- The word of ATOMD_MINU (R220). -/
def wAtomdMinu (g : BitVec 2) (o : BitVec 1) (d : BitVec 6) (a : BitVec 6) (b : BitVec 6) : BitVec 32 :=
  b ++ a ++ d ++ o ++ 221#10 ++ g ++ 1#1

/-- The word of ATOMD_MAXU (R220). -/
def wAtomdMaxu (g : BitVec 2) (o : BitVec 1) (d : BitVec 6) (a : BitVec 6) (b : BitVec 6) : BitVec 32 :=
  b ++ a ++ d ++ o ++ 285#10 ++ g ++ 1#1

/-- The word of ATOMD_AND (R220). -/
def wAtomdAnd (g : BitVec 2) (o : BitVec 1) (d : BitVec 6) (a : BitVec 6) (b : BitVec 6) : BitVec 32 :=
  b ++ a ++ d ++ o ++ 349#10 ++ g ++ 1#1

/-- The word of ATOMD_OR (R220). -/
def wAtomdOr (g : BitVec 2) (o : BitVec 1) (d : BitVec 6) (a : BitVec 6) (b : BitVec 6) : BitVec 32 :=
  b ++ a ++ d ++ o ++ 413#10 ++ g ++ 1#1

/-- The word of ATOMD_XOR (R220). -/
def wAtomdXor (g : BitVec 2) (o : BitVec 1) (d : BitVec 6) (a : BitVec 6) (b : BitVec 6) : BitVec 32 :=
  b ++ a ++ d ++ o ++ 477#10 ++ g ++ 1#1

/-- The word of ATOMD_XCHG (R220). -/
def wAtomdXchg (g : BitVec 2) (d : BitVec 6) (a : BitVec 6) (b : BitVec 6) : BitVec 32 :=
  b ++ a ++ d ++ 541#11 ++ g ++ 1#1

/-- The word of CASD (R220). -/
def wCasd (g : BitVec 2) (d : BitVec 6) (a : BitVec 6) (b : BitVec 6) : BitVec 32 :=
  b ++ a ++ d ++ 605#11 ++ g ++ 1#1

/-- The word of REDD_ADD (R220). -/
def wReddAdd (g : BitVec 2) (a : BitVec 6) (b : BitVec 6) : BitVec 32 :=
  b ++ a ++ 30#17 ++ g ++ 1#1

/-- The word of REDD_MIN (R220). -/
def wReddMin (g : BitVec 2) (a : BitVec 6) (b : BitVec 6) : BitVec 32 :=
  b ++ a ++ 94#17 ++ g ++ 1#1

/-- The word of REDD_MAX (R220). -/
def wReddMax (g : BitVec 2) (a : BitVec 6) (b : BitVec 6) : BitVec 32 :=
  b ++ a ++ 158#17 ++ g ++ 1#1

/-- The word of REDD_MINU (R220). -/
def wReddMinu (g : BitVec 2) (a : BitVec 6) (b : BitVec 6) : BitVec 32 :=
  b ++ a ++ 222#17 ++ g ++ 1#1

/-- The word of REDD_MAXU (R220). -/
def wReddMaxu (g : BitVec 2) (a : BitVec 6) (b : BitVec 6) : BitVec 32 :=
  b ++ a ++ 286#17 ++ g ++ 1#1

/-- The word of REDD_AND (R220). -/
def wReddAnd (g : BitVec 2) (a : BitVec 6) (b : BitVec 6) : BitVec 32 :=
  b ++ a ++ 350#17 ++ g ++ 1#1

/-- The word of REDD_OR (R220). -/
def wReddOr (g : BitVec 2) (a : BitVec 6) (b : BitVec 6) : BitVec 32 :=
  b ++ a ++ 414#17 ++ g ++ 1#1

/-- The word of REDD_XOR (R220). -/
def wReddXor (g : BitVec 2) (a : BitVec 6) (b : BitVec 6) : BitVec 32 :=
  b ++ a ++ 478#17 ++ g ++ 1#1

/-- The word of REDD_ADD_F64 (R221). -/
def wReddAddF64 (g : BitVec 2) (o : BitVec 1) (a : BitVec 6) (b : BitVec 6) : BitVec 32 :=
  b ++ a ++ 0#6 ++ o ++ 542#10 ++ g ++ 1#1

/-- The word of FENCE_REL (R190). -/
def wFenceRel (g : BitVec 2) (p : BitVec 3) : BitVec 32 :=
  0#15 ++ p ++ 31#11 ++ g ++ 1#1

/-- The word of FENCE_ACQ (R191). -/
def wFenceAcq (g : BitVec 2) (p : BitVec 3) : BitVec 32 :=
  0#15 ++ p ++ 95#11 ++ g ++ 1#1

/-- The word of FENCE_AR (R226). -/
def wFenceAr (g : BitVec 2) (p : BitVec 3) : BitVec 32 :=
  0#15 ++ p ++ 159#11 ++ g ++ 1#1

/-- The word of INVL1 (R227). -/
def wInvl1 (g : BitVec 2) (l : BitVec 1) : BitVec 32 :=
  0#17 ++ l ++ 223#11 ++ g ++ 1#1

/-- The word of WAITCMP (R229). -/
def wWaitcmp (g : BitVec 2) (a : BitVec 6) (v : BitVec 6) (c : BitVec 3) (z : BitVec 1) (t : BitVec 1) : BitVec 32 :=
  0#1 ++ t ++ z ++ c ++ v ++ a ++ 287#11 ++ g ++ 1#1

/-- The word of MONCANCEL (R230). -/
def wMoncancel (g : BitVec 2) (a : BitVec 6) (l : BitVec 1) : BitVec 32 :=
  0#11 ++ l ++ a ++ 351#11 ++ g ++ 1#1

/-- The word of TLD (R216). -/
def wTld (g : BitVec 2) (w : BitVec 3) (d : BitVec 6) (b : BitVec 6) (o : BitVec 5) (h : BitVec 2) : BitVec 32 :=
  h ++ 0#1 ++ o ++ b ++ d ++ w ++ 32#6 ++ g ++ 1#1

/-- The word of TST (R216). -/
def wTst (g : BitVec 2) (w : BitVec 3) (d : BitVec 6) (b : BitVec 6) (o : BitVec 5) (h : BitVec 2) : BitVec 32 :=
  h ++ 1#1 ++ o ++ b ++ d ++ w ++ 32#6 ++ g ++ 1#1

/-- The word of COPYKICK_ORD (R233). -/
def wCopykickOrd (g : BitVec 2) (a : BitVec 6) (b : BitVec 6) : BitVec 32 :=
  b ++ a ++ 33#17 ++ g ++ 1#1

/-- The word of COPYKICK_ANY (R233). -/
def wCopykickAny (g : BitVec 2) (a : BitVec 6) (b : BitVec 6) : BitVec 32 :=
  b ++ a ++ 97#17 ++ g ++ 1#1

/-- The word of CDINIT (R237). -/
def wCdinit (g : BitVec 2) (a : BitVec 6) (b : BitVec 6) : BitVec 32 :=
  b ++ a ++ 161#17 ++ g ++ 1#1

/-- The word of YIELDC (R238). -/
def wYieldc (g : BitVec 2) (a : BitVec 6) (b : BitVec 6) : BitVec 32 :=
  b ++ a ++ 225#17 ++ g ++ 1#1

/-- The word of PIN (R239). -/
def wPin (g : BitVec 2) (k : BitVec 2) (n : BitVec 3) (a : BitVec 6) (b : BitVec 6) : BitVec 32 :=
  b ++ a ++ 0#1 ++ n ++ k ++ 289#11 ++ g ++ 1#1

/-- The word of UNPIN (R240). -/
def wUnpin (g : BitVec 2) (k : BitVec 2) : BitVec 32 :=
  0#16 ++ k ++ 353#11 ++ g ++ 1#1

/-- The word of BAR (R242). -/
def wBar (g : BitVec 2) (b : BitVec 4) (m : BitVec 4) : BitVec 32 :=
  0#10 ++ m ++ b ++ 34#11 ++ g ++ 1#1

/-- The word of BARA (R242). -/
def wBara (g : BitVec 2) (b : BitVec 4) (m : BitVec 4) : BitVec 32 :=
  0#10 ++ m ++ b ++ 98#11 ++ g ++ 1#1

/-- The word of BARW (R242). -/
def wBarw (g : BitVec 2) (b : BitVec 4) : BitVec 32 :=
  0#14 ++ b ++ 162#11 ++ g ++ 1#1

/-- The word of GANGBAR (R243). -/
def wGangbar (g : BitVec 2) : BitVec 32 :=
  226#29 ++ g ++ 1#1

/-- The word of GRIDBAR (R243). -/
def wGridbar (g : BitVec 2) : BitVec 32 :=
  290#29 ++ g ++ 1#1

/-- The word of STAGEACQ (R244). -/
def wStageacq (g : BitVec 2) : BitVec 32 :=
  354#29 ++ g ++ 1#1

/-- The word of STAGEREL (R244). -/
def wStagerel (g : BitVec 2) : BitVec 32 :=
  418#29 ++ g ++ 1#1

/-- The word of MMA (R254). -/
def wMma (g : BitVec 2) (a : BitVec 6) (s : BitVec 6) (t : BitVec 6) : BitVec 32 :=
  t ++ s ++ a ++ 35#11 ++ g ++ 1#1

/-- The word of MMA_R (R259). -/
def wMmaR (g : BitVec 2) (a : BitVec 6) (s : BitVec 6) (t : BitVec 6) : BitVec 32 :=
  t ++ s ++ a ++ 99#11 ++ g ++ 1#1

/-- The word of MMAS (R254). -/
def wMmas (g : BitVec 2) (a : BitVec 6) (s : BitVec 6) (t : BitVec 6) : BitVec 32 :=
  t ++ s ++ a ++ 163#11 ++ g ++ 1#1

/-- The word of MMAS_R (R259). -/
def wMmasR (g : BitVec 2) (a : BitVec 6) (s : BitVec 6) (t : BitVec 6) : BitVec 32 :=
  t ++ s ++ a ++ 227#11 ++ g ++ 1#1

/-- The word of MXSET (R247). -/
def wMxset (g : BitVec 2) (a : BitVec 6) : BitVec 32 :=
  0#6 ++ a ++ 36#17 ++ g ++ 1#1

/-- The word of MSCALE (R253). -/
def wMscale (g : BitVec 2) (a : BitVec 6) (b : BitVec 6) : BitVec 32 :=
  b ++ a ++ 100#17 ++ g ++ 1#1

/-- The word of MXCONT (R263). -/
def wMxcont (g : BitVec 2) (a : BitVec 6) (b : BitVec 6) : BitVec 32 :=
  b ++ a ++ 164#17 ++ g ++ 1#1

/-- The word of MXWAIT (R264). -/
def wMxwait (g : BitVec 2) (a : BitVec 6) : BitVec 32 :=
  0#6 ++ a ++ 228#17 ++ g ++ 1#1

/-- The word of MXCLR (R265). -/
def wMxclr (g : BitVec 2) (a : BitVec 6) (b : BitVec 6) : BitVec 32 :=
  b ++ a ++ 292#17 ++ g ++ 1#1

/-- The word of MXFLAG (R266). -/
def wMxflag (g : BitVec 2) (d : BitVec 6) (a : BitVec 6) (b : BitVec 6) : BitVec 32 :=
  b ++ a ++ d ++ 356#11 ++ g ++ 1#1

/-- The word of MXFLAG_C (R266). -/
def wMxflagC (g : BitVec 2) (d : BitVec 6) (a : BitVec 6) (b : BitVec 6) : BitVec 32 :=
  b ++ a ++ d ++ 420#11 ++ g ++ 1#1

/-- The word of MXRD (R267). -/
def wMxrd (g : BitVec 2) (d : BitVec 6) (n : BitVec 6) : BitVec 32 :=
  0#6 ++ n ++ d ++ 484#11 ++ g ++ 1#1

/-- The word of SWDECL (R290). -/
def wSwdecl (g : BitVec 2) (d : BitVec 6) (a : BitVec 6) : BitVec 32 :=
  0#6 ++ a ++ d ++ 37#11 ++ g ++ 1#1

/-- The word of SWSTART (R291). -/
def wSwstart (g : BitVec 2) (h : BitVec 2) (a : BitVec 6) (b : BitVec 6) : BitVec 32 :=
  b ++ a ++ 0#4 ++ h ++ 101#11 ++ g ++ 1#1

/-- The word of SWSTART_RESUME (R291). -/
def wSwstartResume (g : BitVec 2) (h : BitVec 2) (a : BitVec 6) (b : BitVec 6) : BitVec 32 :=
  b ++ a ++ 1#4 ++ h ++ 101#11 ++ g ++ 1#1

/-- The word of SWHALT (R293). -/
def wSwhalt (g : BitVec 2) (h : BitVec 2) : BitVec 32 :=
  0#16 ++ h ++ 165#11 ++ g ++ 1#1

/-- The word of SWSTAT (R294). -/
def wSwstat (g : BitVec 2) (d : BitVec 6) (e : BitVec 6) (h : BitVec 2) : BitVec 32 :=
  0#4 ++ h ++ e ++ d ++ 229#11 ++ g ++ 1#1

/-- The word of SWSTAT_C (R294). -/
def wSwstatC (g : BitVec 2) (d : BitVec 6) (e : BitVec 6) (h : BitVec 2) : BitVec 32 :=
  0#4 ++ h ++ e ++ d ++ 293#11 ++ g ++ 1#1

/-- The word of SWFREE (R295). -/
def wSwfree (g : BitVec 2) (h : BitVec 2) : BitVec 32 :=
  0#16 ++ h ++ 357#11 ++ g ++ 1#1

/-- The word of CWAKE_ANY (R296). -/
def wCwakeAny (g : BitVec 2) (h : BitVec 2) (a : BitVec 6) : BitVec 32 :=
  0#6 ++ a ++ 0#4 ++ h ++ 421#11 ++ g ++ 1#1

/-- The word of CWAKE_ORD (R296). -/
def wCwakeOrd (g : BitVec 2) (h : BitVec 2) (a : BitVec 6) : BitVec 32 :=
  0#6 ++ a ++ 0#4 ++ h ++ 485#11 ++ g ++ 1#1

/-- The word of CYIELD (R297). -/
def wCyield (g : BitVec 2) (p : BitVec 16) : BitVec 32 :=
  0#2 ++ p ++ 38#11 ++ g ++ 1#1

/-- The word of CSLEEP (R297). -/
def wCsleep (g : BitVec 2) (p : BitVec 16) : BitVec 32 :=
  0#2 ++ p ++ 102#11 ++ g ++ 1#1

/-- The word of CDONE (R297). -/
def wCdone (g : BitVec 2) : BitVec 32 :=
  166#29 ++ g ++ 1#1

/-- The word of CWAITM (R299). -/
def wCwaitm (g : BitVec 2) (c : BitVec 3) (a : BitVec 6) (b : BitVec 6) : BitVec 32 :=
  b ++ a ++ 0#3 ++ c ++ 230#11 ++ g ++ 1#1

/-- The word of CWAKE (R300). -/
def wCwake (g : BitVec 2) (a : BitVec 6) : BitVec 32 :=
  0#6 ++ a ++ 294#17 ++ g ++ 1#1

/-- The word of CIDX (R297). -/
def wCidx (g : BitVec 2) (d : BitVec 6) : BitVec 32 :=
  0#12 ++ d ++ 358#11 ++ g ++ 1#1

/-- The word of CSTAT (R297). -/
def wCstat (g : BitVec 2) (d : BitVec 6) : BitVec 32 :=
  0#12 ++ d ++ 422#11 ++ g ++ 1#1

/-- The word of LAUNCH (R309). -/
def wLaunch (g : BitVec 2) (a : BitVec 6) (q : BitVec 4) : BitVec 32 :=
  0#2 ++ q ++ a ++ 39#17 ++ g ++ 1#1

/-- The word of AMSEND_ANY (R310). -/
def wAmsendAny (g : BitVec 2) (v : BitVec 6) (a : BitVec 6) (h : BitVec 4) : BitVec 32 :=
  0#2 ++ h ++ a ++ v ++ 103#11 ++ g ++ 1#1

/-- The word of AMSEND_ORD (R311). -/
def wAmsendOrd (g : BitVec 2) (v : BitVec 6) (a : BitVec 6) (h : BitVec 4) : BitVec 32 :=
  0#2 ++ h ++ a ++ v ++ 167#11 ++ g ++ 1#1

/-- The parcel of VADD_I32_PARCEL (R92). -/
def wVaddI32Parcel (t : BitVec 1) (d : BitVec 5) (b : BitVec 5) : BitVec 16 :=
  b ++ d ++ t ++ 0#5

/-- The parcel of VSUB_I32_PARCEL (R92). -/
def wVsubI32Parcel (t : BitVec 1) (d : BitVec 5) (b : BitVec 5) : BitVec 16 :=
  b ++ d ++ t ++ 2#5

/-- The parcel of VMUL_I32_PARCEL (R92). -/
def wVmulI32Parcel (t : BitVec 1) (d : BitVec 5) (b : BitVec 5) : BitVec 16 :=
  b ++ d ++ t ++ 4#5

/-- The parcel of VMIN_I32_PARCEL (R92). -/
def wVminI32Parcel (t : BitVec 1) (d : BitVec 5) (b : BitVec 5) : BitVec 16 :=
  b ++ d ++ t ++ 6#5

/-- The parcel of VMAX_I32_PARCEL (R92). -/
def wVmaxI32Parcel (t : BitVec 1) (d : BitVec 5) (b : BitVec 5) : BitVec 16 :=
  b ++ d ++ t ++ 8#5

/-- The parcel of VAND_PARCEL (R92). -/
def wVandParcel (t : BitVec 1) (d : BitVec 5) (b : BitVec 5) : BitVec 16 :=
  b ++ d ++ t ++ 10#5

/-- The parcel of VOR_PARCEL (R92). -/
def wVorParcel (t : BitVec 1) (d : BitVec 5) (b : BitVec 5) : BitVec 16 :=
  b ++ d ++ t ++ 12#5

/-- The parcel of VXOR_PARCEL (R92). -/
def wVxorParcel (t : BitVec 1) (d : BitVec 5) (b : BitVec 5) : BitVec 16 :=
  b ++ d ++ t ++ 14#5

/-- The parcel of VSHL_PARCEL (R92). -/
def wVshlParcel (t : BitVec 1) (d : BitVec 5) (b : BitVec 5) : BitVec 16 :=
  b ++ d ++ t ++ 16#5

/-- The parcel of VSHR_PARCEL (R92). -/
def wVshrParcel (t : BitVec 1) (d : BitVec 5) (b : BitVec 5) : BitVec 16 :=
  b ++ d ++ t ++ 18#5

/-- The parcel of VMOV_PARCEL (R149). -/
def wVmovParcel (t : BitVec 1) (d : BitVec 5) (b : BitVec 5) : BitVec 16 :=
  b ++ d ++ t ++ 20#5

/-- The parcel of VFADD_F32_PARCEL (R92). -/
def wVfaddF32Parcel (t : BitVec 1) (d : BitVec 5) (b : BitVec 5) : BitVec 16 :=
  b ++ d ++ t ++ 22#5

/-- The parcel of VFSUB_F32_PARCEL (R92). -/
def wVfsubF32Parcel (t : BitVec 1) (d : BitVec 5) (b : BitVec 5) : BitVec 16 :=
  b ++ d ++ t ++ 24#5

/-- The parcel of VFMUL_F32_PARCEL (R92). -/
def wVfmulF32Parcel (t : BitVec 1) (d : BitVec 5) (b : BitVec 5) : BitVec 16 :=
  b ++ d ++ t ++ 26#5

/-- The parcel of VFMIN_F32_PARCEL (R92). -/
def wVfminF32Parcel (t : BitVec 1) (d : BitVec 5) (b : BitVec 5) : BitVec 16 :=
  b ++ d ++ t ++ 28#5

/-- The parcel of VFMAX_F32_PARCEL (R92). -/
def wVfmaxF32Parcel (t : BitVec 1) (d : BitVec 5) (b : BitVec 5) : BitVec 16 :=
  b ++ d ++ t ++ 30#5

/-- The words of an instruction, from the encoding tables of the spec (R87 to R92). -/
def encode : Instr → Code
  | .trap g i => .word (wTrap g i)
  | .rte g => .word (wRte g)
  | .svcall g v => .word (wSvcall g v)
  | .mbpop g d => .word (wMbpop g d)
  | .mbreply g a => .word (wMbreply g a)
  | .mgnset g a d r => .word (wMgnset g a d r)
  | .mgnsetW g a d r => .word (wMgnsetW g a d r)
  | .qsave g a b => .word (wQsave g a b)
  | .qload g a b => .word (wQload g a b)
  | .tempow g a => .word (wTempow g a)
  | .haltt g => .word (wHaltt g)
  | .br g c o => .word (wBr g c o)
  | .jmp g o => .word (wJmp g o)
  | .call g o => .word (wCall g o)
  | .nop g => .word (wNop g)
  | .exit g => .word (wExit g)
  | .ret g a => .word (wRet g a)
  | .jmpr g a => .word (wJmpr g a)
  | .smov g d a => .word (wSmov g d a)
  | .smovs g d x y => .word (wSmovs g d x y)
  | .smovw g x a y => .word (wSmovw g x a y)
  | .fmtset g a => .word (wFmtset g a)
  | .fmtsetMask g a b => .word (wFmtsetMask g a b)
  | .fmtget g d => .word (wFmtget g d)
  | .flgget g d => .word (wFlgget g d)
  | .flgclr g a => .word (wFlgclr g a)
  | .wait g c n => .word (wWait g c n)
  | .sadd g d a b => .word (wSadd g d a b)
  | .ssub g d a b => .word (wSsub g d a b)
  | .smul g d a b => .word (wSmul g d a b)
  | .smulhI64 g d a b => .word (wSmulhI64 g d a b)
  | .smulhN64 g d a b => .word (wSmulhN64 g d a b)
  | .sand g d a b => .word (wSand g d a b)
  | .sor g d a b => .word (wSor g d a b)
  | .sxor g d a b => .word (wSxor g d a b)
  | .sshl g d a b => .word (wSshl g d a b)
  | .sshr g d a b => .word (wSshr g d a b)
  | .ssra g d a b => .word (wSsra g d a b)
  | .sminI64 g d a b => .word (wSminI64 g d a b)
  | .sminN64 g d a b => .word (wSminN64 g d a b)
  | .smaxI64 g d a b => .word (wSmaxI64 g d a b)
  | .smaxN64 g d a b => .word (wSmaxN64 g d a b)
  | .ssel g d a b => .word (wSsel g d a b)
  | .saddFl g d a b => .word (wSaddFl g d a b)
  | .ssubFl g d a b => .word (wSsubFl g d a b)
  | .saddi g d a i => .word (wSaddi g d a i)
  | .smuli g d a i => .word (wSmuli g d a i)
  | .sandi g d a i => .word (wSandi g d a i)
  | .sori g d a i => .word (wSori g d a i)
  | .sxori g d a i => .word (wSxori g d a i)
  | .sshli g d a i => .word (wSshli g d a i)
  | .sshri g d a i => .word (wSshri g d a i)
  | .ssrai g d a i => .word (wSsrai g d a i)
  | .smovl g d i => .word (wSmovl g d i)
  | .sshin g d i => .word (wSshin g d i)
  | .scmp g a b => .word (wScmp g a b)
  | .scmpi g i a j => .word (wScmpi g i a j)
  | .sld g z d a i => .word (wSld g z d a i)
  | .sst g z d a i => .word (wSst g z d a i)
  | .ifm g a => .word (wIfm g a)
  | .elsem g => .word (wElsem g)
  | .endm g => .word (wEndm g)
  | .brkm g a => .word (wBrkm g a)
  | .brkmLoop g => .word (wBrkmLoop g)
  | .mand g d a b => .word (wMand g d a b)
  | .mor g d a b => .word (wMor g d a b)
  | .mxor g d a b => .word (wMxor g d a b)
  | .mnot g d a => .word (wMnot g d a)
  | .mmov g d a => .word (wMmov g d a)
  | .mmovFromScalar g d a => .word (wMmovFromScalar g d a)
  | .mmovToScalar g d a => .word (wMmovToScalar g d a)
  | .mpopc g d a => .word (wMpopc g d a)
  | .mfirst g d a => .word (wMfirst g d a)
  | .vaddI32 g d a b => .word (wVaddI32 g d a b)
  | .vsubI32 g d a b => .word (wVsubI32 g d a b)
  | .vmulI32 g d a b => .word (wVmulI32 g d a b)
  | .vmulhI32 g d a b => .word (wVmulhI32 g d a b)
  | .vmulhN32 g d a b => .word (wVmulhN32 g d a b)
  | .vmadI32 g d a b => .word (wVmadI32 g d a b)
  | .vdivI32 g d a b => .word (wVdivI32 g d a b)
  | .vdivN32 g d a b => .word (wVdivN32 g d a b)
  | .vremI32 g d a b => .word (wVremI32 g d a b)
  | .vremN32 g d a b => .word (wVremN32 g d a b)
  | .vminI32 g d a b => .word (wVminI32 g d a b)
  | .vminN32 g d a b => .word (wVminN32 g d a b)
  | .vmaxI32 g d a b => .word (wVmaxI32 g d a b)
  | .vmaxN32 g d a b => .word (wVmaxN32 g d a b)
  | .vand g d a b => .word (wVand g d a b)
  | .vor g d a b => .word (wVor g d a b)
  | .vxor g d a b => .word (wVxor g d a b)
  | .vshl g d a b => .word (wVshl g d a b)
  | .vshr g d a b => .word (wVshr g d a b)
  | .vsra g d a b => .word (wVsra g d a b)
  | .vaddc g d a b => .word (wVaddc g d a b)
  | .vsubb g d a b => .word (wVsubb g d a b)
  | .vabsI32 g d a => .word (wVabsI32 g d a)
  | .vnegI32 g d a => .word (wVnegI32 g d a)
  | .vnot g d a => .word (wVnot g d a)
  | .vpopc g d a => .word (wVpopc g d a)
  | .vclz g d a => .word (wVclz g d a)
  | .vbrev g d a => .word (wVbrev g d a)
  | .vbfeI32 g d a b => .word (wVbfeI32 g d a b)
  | .vbfeN32 g d a b => .word (wVbfeN32 g d a b)
  | .vbfi g d a b => .word (wVbfi g d a b)
  | .vmov g d a => .word (wVmov g d a)
  | .vaddI32Vs g d a b => .word (wVaddI32Vs g d a b)
  | .vsubI32Vs g d a b => .word (wVsubI32Vs g d a b)
  | .vmulI32Vs g d a b => .word (wVmulI32Vs g d a b)
  | .vmulhI32Vs g d a b => .word (wVmulhI32Vs g d a b)
  | .vmulhN32Vs g d a b => .word (wVmulhN32Vs g d a b)
  | .vmadI32Vs g d a b => .word (wVmadI32Vs g d a b)
  | .vdivI32Vs g d a b => .word (wVdivI32Vs g d a b)
  | .vdivN32Vs g d a b => .word (wVdivN32Vs g d a b)
  | .vremI32Vs g d a b => .word (wVremI32Vs g d a b)
  | .vremN32Vs g d a b => .word (wVremN32Vs g d a b)
  | .vminI32Vs g d a b => .word (wVminI32Vs g d a b)
  | .vminN32Vs g d a b => .word (wVminN32Vs g d a b)
  | .vmaxI32Vs g d a b => .word (wVmaxI32Vs g d a b)
  | .vmaxN32Vs g d a b => .word (wVmaxN32Vs g d a b)
  | .vandVs g d a b => .word (wVandVs g d a b)
  | .vorVs g d a b => .word (wVorVs g d a b)
  | .vxorVs g d a b => .word (wVxorVs g d a b)
  | .vshlVs g d a b => .word (wVshlVs g d a b)
  | .vshrVs g d a b => .word (wVshrVs g d a b)
  | .vsraVs g d a b => .word (wVsraVs g d a b)
  | .vaddcVs g d a b => .word (wVaddcVs g d a b)
  | .vsubbVs g d a b => .word (wVsubbVs g d a b)
  | .vbfeI32Vs g d a b => .word (wVbfeI32Vs g d a b)
  | .vbfeN32Vs g d a b => .word (wVbfeN32Vs g d a b)
  | .vbfiVs g d a b => .word (wVbfiVs g d a b)
  | .vmovVs g d b => .word (wVmovVs g d b)
  | .vaddI32Vi g d a i => .word (wVaddI32Vi g d a i)
  | .vmulI32Vi g d a i => .word (wVmulI32Vi g d a i)
  | .vandVi g d a i => .word (wVandVi g d a i)
  | .vorVi g d a i => .word (wVorVi g d a i)
  | .vxorVi g d a i => .word (wVxorVi g d a i)
  | .vshlVi g d a i => .word (wVshlVi g d a i)
  | .vshrVi g d a i => .word (wVshrVi g d a i)
  | .vsraVi g d a i => .word (wVsraVi g d a i)
  | .vcmpI32 g c d a b => .word (wVcmpI32 g c d a b)
  | .vsel g d a b => .word (wVsel g d a b)
  | .vcmpN32 g c d a b => .word (wVcmpN32 g c d a b)
  | .vcmpF32 g c d a b => .word (wVcmpF32 g c d a b)
  | .vcmpF64 g c d a b => .word (wVcmpF64 g c d a b)
  | .vfaddF32 g d a b => .word (wVfaddF32 g d a b)
  | .vfsubF32 g d a b => .word (wVfsubF32 g d a b)
  | .vfmulF32 g d a b => .word (wVfmulF32 g d a b)
  | .vfmaF32 g d a b => .word (wVfmaF32 g d a b)
  | .vfmsF32 g d a b => .word (wVfmsF32 g d a b)
  | .vfminF32 g d a b => .word (wVfminF32 g d a b)
  | .vfmaxF32 g d a b => .word (wVfmaxF32 g d a b)
  | .vfabsF32 g d a => .word (wVfabsF32 g d a)
  | .vfnegF32 g d a => .word (wVfnegF32 g d a)
  | .vfdivF32 g d a b => .word (wVfdivF32 g d a b)
  | .vfsqrtF32 g d a => .word (wVfsqrtF32 g d a)
  | .vfclassF32 g d a => .word (wVfclassF32 g d a)
  | .vfaddF32Vs g d a b => .word (wVfaddF32Vs g d a b)
  | .vfsubF32Vs g d a b => .word (wVfsubF32Vs g d a b)
  | .vfmulF32Vs g d a b => .word (wVfmulF32Vs g d a b)
  | .vfmaF32Vs g d a b => .word (wVfmaF32Vs g d a b)
  | .vfmsF32Vs g d a b => .word (wVfmsF32Vs g d a b)
  | .vfminF32Vs g d a b => .word (wVfminF32Vs g d a b)
  | .vfmaxF32Vs g d a b => .word (wVfmaxF32Vs g d a b)
  | .vfdivF32Vs g d a b => .word (wVfdivF32Vs g d a b)
  | .vfaddF64 g d a b => .word (wVfaddF64 g d a b)
  | .vfsubF64 g d a b => .word (wVfsubF64 g d a b)
  | .vfmulF64 g d a b => .word (wVfmulF64 g d a b)
  | .vfmaF64 g d a b => .word (wVfmaF64 g d a b)
  | .vfmsF64 g d a b => .word (wVfmsF64 g d a b)
  | .vfminF64 g d a b => .word (wVfminF64 g d a b)
  | .vfmaxF64 g d a b => .word (wVfmaxF64 g d a b)
  | .vfabsF64 g d a => .word (wVfabsF64 g d a)
  | .vfnegF64 g d a => .word (wVfnegF64 g d a)
  | .vfdivF64 g d a b => .word (wVfdivF64 g d a b)
  | .vfsqrtF64 g d a => .word (wVfsqrtF64 g d a)
  | .vfclassF64 g d a => .word (wVfclassF64 g d a)
  | .vrecon g d a b => .word (wVrecon g d a b)
  | .vhaddH g d a b => .word (wVhaddH g d a b)
  | .vhmulH g d a b => .word (wVhmulH g d a b)
  | .vhfmaH g d a b => .word (wVhfmaH g d a b)
  | .vhaddBf g d a b => .word (wVhaddBf g d a b)
  | .vhmulBf g d a b => .word (wVhmulBf g d a b)
  | .vhfmaBf g d a b => .word (wVhfmaBf g d a b)
  | .vcvt g d a k => .word (wVcvt g d a k)
  | .vcvts g d a k => .word (wVcvts g d a k)
  | .vpackHF32 g d a b => .word (wVpackHF32 g d a b)
  | .vpackBfF32 g d a b => .word (wVpackBfF32 g d a b)
  | .vpackE4H g d a b => .word (wVpackE4H g d a b)
  | .vpackE5H g d a b => .word (wVpackE5H g d a b)
  | .vpackI16I32 g d a b => .word (wVpackI16I32 g d a b)
  | .vpackN16I32 g d a b => .word (wVpackN16I32 g d a b)
  | .vpackI8I16 g d a b => .word (wVpackI8I16 g d a b)
  | .vpackN8I16 g d a b => .word (wVpackN8I16 g d a b)
  | .vpackHF32Sat g d a b => .word (wVpackHF32Sat g d a b)
  | .vpackBfF32Sat g d a b => .word (wVpackBfF32Sat g d a b)
  | .vpackE4HSat g d a b => .word (wVpackE4HSat g d a b)
  | .vpackE5HSat g d a b => .word (wVpackE5HSat g d a b)
  | .vunpackF32H g d a i => .word (wVunpackF32H g d a i)
  | .vunpackF32Bf g d a i => .word (wVunpackF32Bf g d a i)
  | .vunpackHE4 g d a i => .word (wVunpackHE4 g d a i)
  | .vunpackHE5 g d a i => .word (wVunpackHE5 g d a i)
  | .vunpackI32I16 g d a i => .word (wVunpackI32I16 g d a i)
  | .vunpackI32N16 g d a i => .word (wVunpackI32N16 g d a i)
  | .vunpackI16I8 g d a i => .word (wVunpackI16I8 g d a i)
  | .vunpackI32I8 g d a i => .word (wVunpackI32I8 g d a i)
  | .vunpackI32N8 g d a i => .word (wVunpackI32N8 g d a i)
  | .vrcpF32 g d a => .word (wVrcpF32 g d a)
  | .vrsqF32 g d a => .word (wVrsqF32 g d a)
  | .vexp2F32 g d a => .word (wVexp2F32 g d a)
  | .vlog2F32 g d a => .word (wVlog2F32 g d a)
  | .vsinF32 g d a => .word (wVsinF32 g d a)
  | .vcosF32 g d a => .word (wVcosF32 g d a)
  | .vperm g d a b => .word (wVperm g d a b)
  | .vpermK g d a b => .word (wVpermK g d a b)
  | .vshfl g d a n => .word (wVshfl g d a n)
  | .vshflK g d a n => .word (wVshflK g d a n)
  | .vshflW g d a k => .word (wVshflW g d a k)
  | .vshflKW g d a k => .word (wVshflKW g d a k)
  | .vrot g d a n => .word (wVrot g d a n)
  | .vrotK g d a n => .word (wVrotK g d a n)
  | .vrotW g d a k => .word (wVrotW g d a k)
  | .vrotKW g d a k => .word (wVrotKW g d a k)
  | .vbcast g d a n => .word (wVbcast g d a n)
  | .vbcastK g d a n => .word (wVbcastK g d a n)
  | .vred g d a p => .word (wVred g d a p)
  | .vscan g d a p => .word (wVscan g d a p)
  | .vballot g d a => .word (wVballot g d a)
  | .vvote g d a m => .word (wVvote g d a m)
  | .vmovsN32 g d a n => .word (wVmovsN32 g d a n)
  | .vmovsI32 g d a n => .word (wVmovsI32 g d a n)
  | .vmovsN64 g d a n => .word (wVmovsN64 g d a n)
  | .vmovl g d i j => .word (wVmovl g d i j)
  | .vinsN32 g d n b => .word (wVinsN32 g d n b)
  | .vinsN64 g d n b => .word (wVinsN64 g d n b)
  | .vlane g d => .word (wVlane g d)
  | .vsplit g x y d a b => .word (wVsplit g x y d a b)
  | .vld g w d b o h => .word (wVld g w d b o h)
  | .prefetch g l b o h => .word (wPrefetch g l b o h)
  | .vst g w d b o h => .word (wVst g w d b o h)
  | .atomAdd g o d a b => .word (wAtomAdd g o d a b)
  | .atomMin g o d a b => .word (wAtomMin g o d a b)
  | .atomMax g o d a b => .word (wAtomMax g o d a b)
  | .atomMinu g o d a b => .word (wAtomMinu g o d a b)
  | .atomMaxu g o d a b => .word (wAtomMaxu g o d a b)
  | .atomAnd g o d a b => .word (wAtomAnd g o d a b)
  | .atomOr g o d a b => .word (wAtomOr g o d a b)
  | .atomXor g o d a b => .word (wAtomXor g o d a b)
  | .atomXchg g d a b => .word (wAtomXchg g d a b)
  | .cas g d a b => .word (wCas g d a b)
  | .redAdd g a b => .word (wRedAdd g a b)
  | .redMin g a b => .word (wRedMin g a b)
  | .redMax g a b => .word (wRedMax g a b)
  | .redMinu g a b => .word (wRedMinu g a b)
  | .redMaxu g a b => .word (wRedMaxu g a b)
  | .redAnd g a b => .word (wRedAnd g a b)
  | .redOr g a b => .word (wRedOr g a b)
  | .redXor g a b => .word (wRedXor g a b)
  | .redAddF32 g o a b => .word (wRedAddF32 g o a b)
  | .redAddBf g o a b => .word (wRedAddBf g o a b)
  | .atomdAdd g o d a b => .word (wAtomdAdd g o d a b)
  | .atomdMin g o d a b => .word (wAtomdMin g o d a b)
  | .atomdMax g o d a b => .word (wAtomdMax g o d a b)
  | .atomdMinu g o d a b => .word (wAtomdMinu g o d a b)
  | .atomdMaxu g o d a b => .word (wAtomdMaxu g o d a b)
  | .atomdAnd g o d a b => .word (wAtomdAnd g o d a b)
  | .atomdOr g o d a b => .word (wAtomdOr g o d a b)
  | .atomdXor g o d a b => .word (wAtomdXor g o d a b)
  | .atomdXchg g d a b => .word (wAtomdXchg g d a b)
  | .casd g d a b => .word (wCasd g d a b)
  | .reddAdd g a b => .word (wReddAdd g a b)
  | .reddMin g a b => .word (wReddMin g a b)
  | .reddMax g a b => .word (wReddMax g a b)
  | .reddMinu g a b => .word (wReddMinu g a b)
  | .reddMaxu g a b => .word (wReddMaxu g a b)
  | .reddAnd g a b => .word (wReddAnd g a b)
  | .reddOr g a b => .word (wReddOr g a b)
  | .reddXor g a b => .word (wReddXor g a b)
  | .reddAddF64 g o a b => .word (wReddAddF64 g o a b)
  | .fenceRel g p => .word (wFenceRel g p)
  | .fenceAcq g p => .word (wFenceAcq g p)
  | .fenceAr g p => .word (wFenceAr g p)
  | .invl1 g l => .word (wInvl1 g l)
  | .waitcmp g a v c z t => .word (wWaitcmp g a v c z t)
  | .moncancel g a l => .word (wMoncancel g a l)
  | .tld g w d b o h => .word (wTld g w d b o h)
  | .tst g w d b o h => .word (wTst g w d b o h)
  | .copykickOrd g a b => .word (wCopykickOrd g a b)
  | .copykickAny g a b => .word (wCopykickAny g a b)
  | .cdinit g a b => .word (wCdinit g a b)
  | .yieldc g a b => .word (wYieldc g a b)
  | .pin g k n a b => .word (wPin g k n a b)
  | .unpin g k => .word (wUnpin g k)
  | .bar g b m => .word (wBar g b m)
  | .bara g b m => .word (wBara g b m)
  | .barw g b => .word (wBarw g b)
  | .gangbar g => .word (wGangbar g)
  | .gridbar g => .word (wGridbar g)
  | .stageacq g => .word (wStageacq g)
  | .stagerel g => .word (wStagerel g)
  | .mma g a s t => .word (wMma g a s t)
  | .mmaR g a s t => .word (wMmaR g a s t)
  | .mmas g a s t => .word (wMmas g a s t)
  | .mmasR g a s t => .word (wMmasR g a s t)
  | .mxset g a => .word (wMxset g a)
  | .mscale g a b => .word (wMscale g a b)
  | .mxcont g a b => .word (wMxcont g a b)
  | .mxwait g a => .word (wMxwait g a)
  | .mxclr g a b => .word (wMxclr g a b)
  | .mxflag g d a b => .word (wMxflag g d a b)
  | .mxflagC g d a b => .word (wMxflagC g d a b)
  | .mxrd g d n => .word (wMxrd g d n)
  | .swdecl g d a => .word (wSwdecl g d a)
  | .swstart g h a b => .word (wSwstart g h a b)
  | .swstartResume g h a b => .word (wSwstartResume g h a b)
  | .swhalt g h => .word (wSwhalt g h)
  | .swstat g d e h => .word (wSwstat g d e h)
  | .swstatC g d e h => .word (wSwstatC g d e h)
  | .swfree g h => .word (wSwfree g h)
  | .cwakeAny g h a => .word (wCwakeAny g h a)
  | .cwakeOrd g h a => .word (wCwakeOrd g h a)
  | .cyield g p => .word (wCyield g p)
  | .csleep g p => .word (wCsleep g p)
  | .cdone g => .word (wCdone g)
  | .cwaitm g c a b => .word (wCwaitm g c a b)
  | .cwake g a => .word (wCwake g a)
  | .cidx g d => .word (wCidx g d)
  | .cstat g d => .word (wCstat g d)
  | .launch g a q => .word (wLaunch g a q)
  | .amsendAny g v a h => .word (wAmsendAny g v a h)
  | .amsendOrd g v a h => .word (wAmsendOrd g v a h)
  | .vaddI32Parcel t d b => .parcel (wVaddI32Parcel t d b)
  | .vsubI32Parcel t d b => .parcel (wVsubI32Parcel t d b)
  | .vmulI32Parcel t d b => .parcel (wVmulI32Parcel t d b)
  | .vminI32Parcel t d b => .parcel (wVminI32Parcel t d b)
  | .vmaxI32Parcel t d b => .parcel (wVmaxI32Parcel t d b)
  | .vandParcel t d b => .parcel (wVandParcel t d b)
  | .vorParcel t d b => .parcel (wVorParcel t d b)
  | .vxorParcel t d b => .parcel (wVxorParcel t d b)
  | .vshlParcel t d b => .parcel (wVshlParcel t d b)
  | .vshrParcel t d b => .parcel (wVshrParcel t d b)
  | .vmovParcel t d b => .parcel (wVmovParcel t d b)
  | .vfaddF32Parcel t d b => .parcel (wVfaddF32Parcel t d b)
  | .vfsubF32Parcel t d b => .parcel (wVfsubF32Parcel t d b)
  | .vfmulF32Parcel t d b => .parcel (wVfmulF32Parcel t d b)
  | .vfminF32Parcel t d b => .parcel (wVfminF32Parcel t d b)
  | .vfmaxF32Parcel t d b => .parcel (wVfmaxF32Parcel t d b)
  | .nullParcel => .parcel 0#16
  | .parkedGroupReclaim _ => .event
  | .groupPromote _ _ => .event
  | .loadLand _ _ => .event
  | .xcResultLand _ _ => .event
  | .tbufAccessComplete _ _ => .event
  | .storeAck _ _ => .event
  | .fillReturn _ _ => .event
  | .walkComplete _ => .event
  | .groupRetire _ _ => .event
  | .teamRetire _ _ => .event
  | .gridEnd _ => .event
  | .amArrival _ => .event
  | .handlerSpawn _ => .event
  | .signatureReceive _ => .event
  | .signatureAckReceive _ => .event
  | .sliceRequest _ _ => .event
  | .monitorWakeArrive _ => .event
  | .waitcmpTimeout _ _ => .event
  | .monfullBackoffEnd _ _ => .event
  | .msUnitAccess _ _ => .event
  | .orderedUpdateArrive _ _ => .event
  | .orderedFlush _ _ _ => .event
  | .gridbarComplete _ => .event
  | .copyKickStart _ => .event
  | .copyRecordDone _ => .event
  | .matrixOpStart _ => .event
  | .matrixBlockWrite _ => .event
  | .matrixOpEnd _ => .event
  | .matrixSplit _ _ => .event
  | .runGroupPlace _ _ => .event
  | .sweepOpeningBoundary _ _ => .event
  | .sweepRunStep _ _ => .event
  | .runWriteBack _ _ => .event
  | .classBudgetExhausted _ _ => .event
  | .sweepBoundary _ _ => .event
  | .sweepClosingBoundary _ _ => .event
  | .externalWakeArrive _ => .event
  | .sweepEngineFault _ _ => .event
  | .launchAdmit => .event
  | .gangPlace => .event
  | .paPark _ => .event
  | .paRelease _ => .event
  | .paRotate _ => .event
  | .crreqWrite _ _ _ => .event
  | .rampEnd _ => .event
  | .slewAdmit _ => .event
  | .haltArrive _ _ => .event
  | .takeback _ _ _ _ => .event
  | .takebackRepeatCaught _ _ _ => .event
  | .guardFailure _ _ => .event
  | .tbwinRestart _ => .event
  | .quarantineClear _ _ => .event
  | .tlbinv _ _ => .event
  | .tlbinvDone => .event
  | .preemptGo _ _ => .event
  | .preemptResume _ _ => .event
  | .drainDeadline => .event
  | .graceDeadline => .event
  | .saveDeadline => .event
  | .teamSave _ _ => .event
  | .teamRestore _ _ => .event
  | .registerWrite _ _ _ _ => .event
  | .rstctlWarm _ => .event
  | .rstctlCold _ => .event
  | .resetRelease _ _ => .event
  | .fwready _ => .event
  | .bootReadyTimeout => .event
  | .bootwhyClr _ => .event
  | .fabricPeerRequest _ _ _ _ _ => .event
  | .directoryGet _ => .event
  | .directoryPut _ _ => .event
  | .directoryRecall _ => .event
  | .directoryInvalAck _ => .event
  | .cxlBackInvalidate _ _ => .event
  | .cxlCompletion _ _ _ => .event
  | .hostCompletion _ => .event
  | .tdispMessage _ _ => .event
  | .spdmTdiWrite _ _ _ => .event
  | .spdmKeyLoad _ _ _ _ => .event
  | .spdmKeyRetire _ => .event
  | .spdmDbgWrite _ _ => .event
  | .sessionExpire => .event
  | .keyRetireReset _ => .event
  | .hostLinkDown => .event
  | .cxlViral _ => .event
  | .fabricFatal _ => .event
  | .thermalSample _ _ => .event
  | .correctedError _ _ _ _ => .event
  | .dramRefresh _ _ => .event
  | .crossbarGrant _ _ => .event
  | .escapeChannelMove _ _ => .event
  | .stopatFreeze => .event
  | .adjArm _ => .event
  | .adjScan _ => .event
  | .adjLoad _ => .event
  | .adjRelease => .event
  | .repctlWrite _ => .event
  | .replayInject => .event
  | .scstailWrite _ => .event
  | .tempoAlign _ _ _ _ _ => .event
  | .readback _ => .event
  | .memoryReadback _ => .event
  | .tempowTargetReached _ _ => .event
  | .clockWindowBoundary _ => .event
  | .hostMemoryWrite _ _ _ => .event
  | .spdmSessionEstablish => .event
  | .packageRailChange _ => .event

/-- A 32-bit word: the row its MAJOR and F-code select, where every unused bit is zero. -/
def decodeWord (w : BitVec 32) : Except DecodeError Instr :=
  match decMajor w with
  | none => .error .reservedMajor
  | some none => .error .undefinedCode
  | some (some i) =>
    if encode i = .word w then .ok i
    else if i.codesDefined then .error .unusedBits
    else .error .undefinedCode

/-- A 16-bit parcel: every parcel is one (R93). -/
def decodeParcel (p : BitVec 16) : Instr := decParcel p

/-- R86: the instruction at the head of a byte stream, with the bytes after it. -/
def decodeBytes : List Byte → Except DecodeError (Instr × List Byte)
  | a :: b :: rest =>
    if a.getLsbD 0 then
      match rest with
      | c :: d :: rest' =>
        match decodeWord (d ++ c ++ b ++ a) with
        | .ok i => .ok (i, rest')
        | .error e => .error e
      | _ => .error .truncated
    else .ok (decodeParcel (b ++ a), rest)
  | _ => .error .truncated

/-- The bytes of an instruction, little-endian (R86). -/
def Code.bytes : Code → List Byte
  | .parcel p => [fld 0 8 p, fld 8 8 p]
  | .word w => [fld 0 8 w, fld 8 8 w, fld 16 8 w, fld 24 8 w]
  | .event => []

/-- Length in bytes. -/
def Code.len : Code → Nat
  | .parcel _ => 2
  | .word _ => 4
  | .event => 0

/-- The word as EINFO reports it: a parcel zero-extended (R96). -/
def Code.word32 : Code → BitVec 32
  | .parcel p => p.zeroExtend 32
  | .word w => w
  | .event => 0

/-- The instruction our decoder reads from an instruction whose bits are `w`: bit 0 of `w` is bit
0 of the first parcel, and missing high bits are zero. -/
def decodeTableWord (_nbits w : Nat) : Option Instr :=
  let b := fun k : Nat => BitVec.ofNat 8 (w / 2 ^ (8 * k))
  match decodeBytes [b 0, b 1, b 2, b 3] with
  | .ok (i, _) => some i
  | .error _ => none

end Sys2Proof

end
end

