-- ==== Sys2Proof/Machine/Tab.lean ====
section
/-!
DEFINITION. Sparse tables: a list of (key, value) pairs with keys strictly rising. A table with a
default value lists no entry equal to that default, so that equal contents are equal lists.
-/

namespace Sys2Proof.Machine

/-- A sparse table keyed by numbers. -/
abbrev Tab (α : Type) := List (Nat × α)

/-- The entry at a key, if listed. -/
def tfind {α : Type} (k : Nat) : Tab α → Option α
  | [] => none
  | (j, v) :: t => if j = k then some v else tfind k t

/-- The value at a key, or the default. -/
def tget {α : Type} (d : α) (k : Nat) (t : Tab α) : α := (tfind k t).getD d

/-- Remove a key. -/
def tdel {α : Type} (k : Nat) : Tab α → Tab α
  | [] => []
  | (j, v) :: t => if j = k then tdel k t else (j, v) :: tdel k t

/-- Insert or replace a key, keeping the keys in rising order. -/
def tins {α : Type} (k : Nat) (v : α) : Tab α → Tab α
  | [] => [(k, v)]
  | (j, x) :: t =>
    if j = k then (k, v) :: t else if k < j then (k, v) :: (j, x) :: t else (j, x) :: tins k v t

/-- Store a value under the canonical form: a value equal to the default is not listed. -/
def tput {α : Type} [DecidableEq α] (d : α) (k : Nat) (v : α) (t : Tab α) : Tab α :=
  if v = d then tdel k t else tins k v t

/-- Change the value at a listed key. -/
def tmod {α : Type} (k : Nat) (f : α → α) (t : Tab α) : Tab α :=
  match tfind k t with
  | some v => tins k (f v) t
  | none => t

/-- Change every value. -/
def tmap {α : Type} (f : Nat → α → α) (t : Tab α) : Tab α := t.map fun p => (p.1, f p.1 p.2)

/-- Keep the entries that a test admits. -/
def tfilter {α : Type} (f : Nat → α → Bool) (t : Tab α) : Tab α := t.filter fun p => f p.1 p.2

/-- The keys in rising order. -/
def tkeys {α : Type} (t : Tab α) : List Nat := t.map Prod.fst

/-- Keys strictly rising. -/
def tsorted {α : Type} : Tab α → Bool
  | [] => true
  | [_] => true
  | (j, _) :: (k, y) :: t => decide (j < k) && tsorted ((k, y) :: t)

/-- The lowest number from `lo`, among `n` candidates, that a test admits. -/
def lowest (n : Nat) (lo : Nat) (f : Nat → Bool) : Option Nat :=
  match n with
  | 0 => none
  | n + 1 => if f lo then some lo else lowest n (lo + 1) f

/-- The numbers lo, lo+1, … (n of them). -/
def upto (n : Nat) (lo : Nat := 0) : List Nat := (List.range n).map (· + lo)

/-- Insert into a list kept in rising order, without repeats. -/
def ninsert (k : Nat) : List Nat → List Nat
  | [] => [k]
  | j :: t => if j = k then j :: t else if k < j then k :: j :: t else j :: ninsert k t

/-- The element with the least key, the first on a tie. -/
def leastBy {α : Type} (key : α → Nat) : List α → Option α
  | [] => none
  | a :: t =>
    match leastBy key t with
    | none => some a
    | some b => if key b < key a then some b else some a

/-- Insertion by a strict order test: stable. -/
def insBy {α : Type} (lt : α → α → Bool) (a : α) : List α → List α
  | [] => [a]
  | b :: t => if lt b a then b :: insBy lt a t else a :: b :: t

/-- Stable insertion sort. -/
def sortBy {α : Type} (lt : α → α → Bool) (l : List α) : List α :=
  l.foldr (insBy lt) []

end Sys2Proof.Machine
end

