-- ==== Sys2Proof/Machine/State.lean ====
section
/-!
DEFINITION. The state of the T24: every piece of state the spec gives the machine, as plain data,
and its reset. INVENTORY.md lists the pieces with the rules that name them.
-/

namespace Sys2Proof.Machine

/-- Why a step stops the machine. The model raises no fault: every fault of the spec is a trap, a
park or an event with a next state. -/
inductive Fault where
  /-- Nobody raises this: kept so that the type is inhabited. Safe. -/
  | never
deriving DecidableEq, Repr

/-- Why a step has no meaning. -/
inductive Refusal where
  /-- An instruction that has no meaning yet. Safe. -/
  | notModelled (mnemonic : String)
  /-- `exec` is asked to run an encoded instruction for a core slot that holds no group. Safe: no
  hardware issues an instruction for an empty slot (R15). -/
  | noGroup
deriving DecidableEq, Repr

/-! ## Groups -/

/-- What a group slot holds (R15, R31, R33, R34, R274). -/
inductive GroupKind where
  | user | handlerTeam | handlerCore | supervisor | run
deriving DecidableEq, Repr

/-- Kinds of register, in the order of R103's kind code. -/
inductive RegKind where
  | scalar | vector | mask | flags
deriving DecidableEq, Repr

/-- R47: one entry of the mask stack. -/
structure StackEnt where
  sexec : Word
  pend : Word
  sfmt : BitVec 32
  kind : Nat
deriving DecidableEq, Repr

/-- R101, R104: a fixed-latency write still in flight: its register, the lanes (or bits) it
writes, its value (per lane for a vector register) and the remaining distance. -/
structure Flight where
  kind : RegKind
  reg : Nat
  bank : Bool
  lanes : Word
  left : Nat
  val : Word
  vec : Tab Lane
deriving DecidableEq, Repr

/-- R106: a register that a variable-latency operation has yet to write. -/
structure Pending where
  kind : RegKind
  reg : Nat
  bank : Bool
  lanes : Word
  op : Nat
deriving DecidableEq, Repr

/-- R18, R231: what a group waits for. -/
inductive Wait where
  | none
  /-- Parked on registers pending on operations of which one is a load that missed in L1:
  re-executes when all have landed. -/
  | load (ops : List Nat)
  /-- In WAIT until the counters of a mask are at most `n` (R134). -/
  | counters (mask : BitVec 5) (n : Nat)
  /-- Parked on a translation walk of a page: re-executes (R209). -/
  | walk (owner vpn : Nat)
  /-- Parked on a page fault (R336): re-executes when resumed. -/
  | fault (va : Nat) (write : Bool) (lanes : Word)
  /-- YIELDC: object offset and continuation (R238). -/
  | yieldc (off : Nat) (target : Pc)
  /-- WAITCMP: virtual and physical address, size, condition, value, deadline in core cycles, number
  of its request (R229). -/
  | monitor (va pa size cond : Nat) (value : Word) (deadline : Option Nat) (op : Nat)
  /-- Back-off after MONFULL until a core cycle (R229). -/
  | monfull (until_ : Nat)
  | barrier (b : Nat)
  | gangbar
  | gridbar
  | stage
  /-- SVCALL: mailbox record that holds the request, and the first reply register (R345). -/
  | svcall (record va : Nat)
  /-- SVCALL with all 16 records occupied: the request words and its operation (R32). -/
  | svqueue (va : Nat) (words : List Lane) (op : Nat)
  /-- MBPOP on an empty event queue: destination (R345). -/
  | mbpop (sd : Nat)
  /-- AMSEND or LAUNCH at its gate; TEMPOW; held, not parked. -/
  | tempow (target : Word)
deriving DecidableEq, Repr

/-- Progress of a fence, or of an operation held behind a release (R190, R197, R309). -/
structure Release where
  scope : Nat
  /-- Operations of the core with a number below this one are drained. -/
  stamp : Nat
  /-- Number of the published signature, which its acknowledgments carry. -/
  token : Nat
  /-- 0 draining; 1 flushing; 2 acknowledgments awaited. -/
  phase : Nat
  /-- Acknowledgments still to come. -/
  acks : Nat
  /-- Earlier publications of the core that were still to be acknowledged when it published (R203). -/
  after : List Nat := []
deriving DecidableEq, Repr

/-- R299: a compare of CWAITM for one lane: its request, the continuation point of the CWAITM, what
it compares, and the answer: 0 condition holds, 1 armed (and the entry), 2 MONFULL. -/
structure Ask where
  op : Nat
  cpc : Nat
  pa : Nat
  key : Nat
  cond : Nat
  value : Nat
  result : Option (Nat × Nat)
deriving DecidableEq, Repr

/-- R275 to R278, R284, R298: what a run group carries for its run. -/
structure RunCtx where
  tensor : Nat
  seg : Nat
  /-- First cell of the run; ARGS, descriptor and routine addresses. -/
  base : Nat
  args : Word
  desc : Nat
  rbase : Nat
  /-- The class entry in force and its lanes. -/
  cls : Nat
  lanes : Word
  /-- Per lane: continuation, state and reference as they stand, and the reference as loaded. -/
  cpc : Tab Nat
  st : Tab Nat
  ref : Tab Nat
  ref0 : Tab Nat
  /-- Lanes that execute in the run, repaired lanes, lanes whose class is still to run, lanes that
  have waited or faulted (R277). -/
  executed : Word
  repaired : Word
  todo : Word
  done : Word
  /-- By lane (R299). -/
  asks : Tab Ask
  /-- Wakes of CWAKE in program order: lane and cell. -/
  wakes : List (Nat × Nat)
  /-- Instructions the class has issued. -/
  budget : Nat
deriving DecidableEq, Repr

/-- R224, R372: a deferred ATOM.ORD destination: register or pair, lanes, sequence of its updates,
and whether the unit refused one. -/
structure Deferred where
  reg : Nat
  wide : Bool
  lanes : Word
  seq : Nat
  refused : Bool
  /-- The group index of its issuer key (R222). -/
  idx : Nat := 0
deriving DecidableEq, Repr

/-- A group of a core (R14, R26, R52, R54). -/
structure Group where
  kind : GroupKind
  launch : Nat
  lin : Nat
  gidx : Nat
  role : Nat
  /-- The core's operation number when the group was placed: its own operations carry later ones. -/
  born : Nat
  owner : Nat
  width : Nat
  qbase : Nat
  nv : Nat
  pri : Nat
  live : Word
  exec : Word
  pc : Pc
  sreg : Tab Word
  hsreg : Tab Word
  vreg : Tab Lane
  mreg : Tab Word
  hmreg : Tab Word
  sfl : BitVec 4
  fmt : BitVec 32
  hfmt : BitVec 32
  flg : BitVec 7
  chk : Bool
  stack : List StackEnt
  epc : Word
  ecause : Word
  eexec : Word
  elanes : Word
  einfo : Word
  inHandler : Bool
  hdepth : Nat
  iset : Word
  msr : Word
  cont : List Word
  lc : Nat
  sc : Nat
  tc : Nat
  mc : Nat
  xc : Nat
  flights : List Flight
  savedFlights : List Flight
  pend : List Pending
  /-- Vector registers that the matrix engine still reads, with the operation (R256). -/
  locked : List (Nat × Nat)
  /-- The matrix operations that an MXWAIT in progress covers (R264). -/
  covers : List Nat
  deferred : List Deferred
  /-- Poisoned lanes: 64 × register + lane to the load address (R209, R410); a scalar register r
  has the key 4096 + r, of the handler bank 4160 + r. 2^52 + 64 × slot + register: the row of the
  register pool holds an uncorrectable error (R62, log 32). -/
  poison : Tab Nat
  /-- Ring cursor, acquired mark (R30, R244). -/
  cursor : Nat
  acquired : Bool
  /-- Barrier phase bits, b = 0 to 15 (R242). -/
  phases : BitVec 16
  /-- Ordered updates issued since the last grid barrier (R222). -/
  ordSeq : Nat
  /-- Scheduling: issue entry held; parked; event returned (R17, R18). -/
  entry : Bool
  parked : Bool
  /-- The last attempt to issue was held (R314, R330). -/
  held : Bool
  wait : Wait
  /-- Step of the instruction whose wait completes later (R99). -/
  wstep : Nat
  /-- Core cycle in which the group may issue next (R99). -/
  readyAt : Nat
  /-- Core cycle in which the ready stretch began, while ready (R314). -/
  since : Option Nat
  /-- Consecutive issue opportunities and promotion stamp (R36). -/
  opps : Nat
  promo : Option Nat
  /-- Power-parked with its order number (R318). -/
  powered : Option Nat
  /-- Awaiting slew-limiter admission (R321). -/
  slewed : Bool
  /-- R330: halt broadcast due at a core cycle; arrived at a core cycle; stopped. -/
  haltDue : Option Nat
  haltAt : Option Nat
  stopped : Bool
  trapStop : Bool
  hpc : Pc
  skid : Nat
  stopInfo : Word
  /-- Address of the last instruction it issued (R348, R331). -/
  lastPc : Pc
  /-- Release in progress, and which half of a compound instruction has been done. -/
  rel : Option Release
  half : Nat
  /-- Walks that ended in a fault for the instruction being tried: 64 KiB page number to 1 page
  fault, 2 access fault (R333). -/
  walked : Tab Nat
  /-- A trap to raise at the next issue: its cause, EINFO and ELANES (R224, R263, R337, R147). -/
  raise : Option (Nat × Word × Word)
  /-- The run, in a run group. -/
  run : Option RunCtx
  /-- R231: the timeout that remained of a WAITCMP that a restore issues again. -/
  left : Option Nat := none
deriving DecidableEq, Repr

/-! ## Cores -/

/-- R424: one way of the L1. -/
structure L1Line where
  line : Nat
  data : BitVec 1024
  ro : Bool
  roLaunch : Nat
  roLin : Nat
  poisoned : Bool
deriving DecidableEq, Repr

/-- R334: a translation held in a TLB. Size 0 is 64 KiB, 1 is 2 MiB, 2 is 64 MiB, 3 is 1 GiB. -/
structure TlbEnt where
  owner : Nat
  size : Nat
  vpn : Nat
  ppn : Nat
  r : Bool
  w : Bool
  x : Bool
  sup : Bool
  ro : Bool
  key : Nat
deriving DecidableEq, Repr

/-- A load or returning atomic in progress (R105, R106, R211). -/
structure Load where
  slot : Nat
  kind : RegKind
  reg : Nat
  bank : Bool
  lanes : Word
  /-- Bytes per lane; sign extension; atomic result. -/
  size : Nat
  signed : Bool
  atomic : Bool
  /-- Lane to physical address; lane to value read. -/
  addr : Tab Nat
  got : Tab (BitVec 128)
  bad : Word
  /-- Requests still to return; missed in L1. -/
  left : Nat
  missed : Bool
  /-- Core cycle of the last data that came (log 10). -/
  at_ : Nat := 0
  /-- Its sectors were published before it was performed (R203). -/
  early : Bool := false
deriving DecidableEq, Repr

/-- A store, reduction or ordered update not yet performed (R105, R190). -/
structure StoreOp where
  slot : Nat
  launch : Nat
  lin : Nat
  gidx : Nat
  left : Nat
  /-- Its 32 B sectors (R188). -/
  secs : List Nat
  /-- 1 RED.ORD, 2 ATOM.ORD, else 0. -/
  ord : Nat := 0
  /-- Its sectors were published before it was performed (R203). -/
  early : Bool := false
deriving DecidableEq, Repr

/-- R217, R216: a typed-buffer access in progress. -/
structure TAccess where
  slot : Nat
  store : Bool
  buf : Nat
  code : Nat
  /-- Core whose buffer it is, and lane to absolute address. -/
  core : Nat
  addr : Tab Nat
  reg : Nat
  bank : Bool
  lanes : Word
  vals : Tab Word
  hi : Tab Word
deriving DecidableEq, Repr

/-- R147: a variable-latency arithmetic result on its way: writes, flags, or the trap to take. -/
structure XcOp where
  slot : Nat
  writes : List Flight
  flags : BitVec 7
  counted : Bool
  /-- Trap cause, lanes and PC when an enabled flag was raised. -/
  trap : Option (Nat × Word × Pc)
  /-- The writes in flight before it issued, which a taken trap leaves as they were (R104). -/
  flights : List Flight
  /-- Core cycle by which it lands, where a rule gives one (R119). -/
  due : Option Nat
  /-- The group issues nothing until the flags of this operation are known. -/
  gate : Bool := false
deriving DecidableEq, Repr

/-- One ordered update of a request: address, lane and sequence of its issuer key, operand. -/
structure OrdOp where
  addr : Nat
  lane : Nat
  seq : Nat
  operand : Word
deriving DecidableEq, Repr

/-- What an outbound request asks its home to do. -/
inductive ReqKind where
  /-- A line for L1 (fill) or for its requester only, and the bytes that the access reads (R370). -/
  | fill (install ro : Bool) (want : List Nat)
  | prefetchL2
  | store (bytes : List Host.Cell)
  /-- Atomic or reduction: operation code, 0 to 9 as R218; size; returning; lanes. -/
  | atomic (op size : Nat) (ret : Bool) (ops : List (Nat × Nat × Word × Word))
  | waitcmp (pa size cond : Nat) (value : Word) (arm : Bool)
  | cancel (idx : Nat)
  /-- Ordered update (R223, R224). -/
  | ordered (atom : Bool) (op size : Nat) (ops : List OrdOp)
deriving DecidableEq, Repr

/-- A request of a core (R202, R211). -/
structure Req where
  core : Nat
  slot : Nat
  launch : Nat
  lin : Nat
  gidx : Nat
  line : Nat
  /-- .EF, .MS (R210); an access of a sweep routine (R276). -/
  ef : Bool
  ms : Bool
  eng : Bool
  /-- Counted by L2LHIT and L2LMISS (R375). -/
  counted : Bool
  /-- Key entry of the page (R412), priority (R359). -/
  key : Nat
  pri : Nat
  /-- The load or store it belongs to. -/
  op : Nat
  kind : ReqKind
  /-- A host read whose interface has left TST 2 since: its completion is dropped (R410). -/
  dead : Bool := false
  /-- Further packets of the same instruction and line follow (R358). -/
  more : Bool := false
deriving DecidableEq, Repr

/-- An outstanding fill (R184, R191): the bytes of later stores, and whether it installs. -/
structure Fill where
  req : Req
  /-- The load that waits for it; none for a prefetch. -/
  load : Option Nat
  install : Bool
  overlay : List Host.Cell
  /-- The returned data, when it has returned. -/
  data : Option (BitVec 1024)
  bad : Bool
  /-- An older fill has been installed meanwhile: the copy goes when this one lands (R186). -/
  drop : Bool := false
deriving DecidableEq, Repr

/-- R33: an active message. -/
structure AmMsg where
  launch : Nat
  /-- Target: team (linear index) or core. -/
  toCore : Bool
  idx : Nat
  hidx : Nat
  srcLin : Nat
  srcCore : Nat
  ord : Bool
  key : List Nat
  words : List Lane
  /-- Its number in the order of sending (R34). -/
  num : Nat := 0
deriving DecidableEq, Repr

/-- R331: a supervisor event. -/
structure Event where
  kind : Nat
  slot : Nat
  record : Nat
  cause : Nat
  detail : Word
  /-- Core cycle in which it occurred. -/
  cyc : Nat
deriving DecidableEq, Repr

/-- R32: a mailbox record in use: the caller's slot and first register. -/
structure MailRec where
  slot : Nat
  va : Nat
  /-- The request as SVCALL made it (log 21), and the operation its registers are pending on. -/
  req : List Lane
  op : Nat
deriving DecidableEq, Repr

/-- R234: a copy record as COPYKICK read it. -/
abbrev CopyRec := BitVec 256

/-- R233: a kick: issuer, records still to run, ordered form, and progress. -/
structure Kick where
  launch : Nat
  lin : Nat
  gidx : Nat
  /-- The issuing group's slot; the kick is the supervisor's. -/
  slot : Nat
  sup : Bool
  owner : Nat
  pri : Nat
  recs : List CopyRec
  ord : Bool
  /-- Sequence of the next ordered element (R235). -/
  seq : Nat
  /-- Held at a page fault at an address (R336). -/
  fault : Option Nat
  /-- Rows of the present record written; the operations of its global writes. -/
  row : Nat
  pend : List Nat
  /-- Issuing order number. -/
  num : Nat
  /-- The present record has failed with this code, and earlier writes of it are still to be performed
  (R236). -/
  failed : Nat := 0
deriving DecidableEq, Repr

/-- R348: the margin registers. -/
structure Margin where
  step : Nat
  safe : Bool
  quar : Bool
  tbcnt : Nat
  tbwin : Nat
  tblim : Nat
  tblog : List Word
  tbtot : Nat
  /-- Writes waiting for the next window boundary: (reg, value). -/
  pendW : List (Nat × Word)
  /-- A STEP written while SAFE = 1. -/
  heldStep : Option Nat
  /-- Core cycle at which the takeback window began. -/
  winStart : Nat
deriving DecidableEq, Repr

/-- R246 to R263: one matrix operation: waiting in a rendezvous latch, queued, running or split. -/
structure MxOp where
  launch : Nat
  lin : Nat
  /-- The members: group indices; 64 plus the slot for a handler group, alone in its set. -/
  members : List Nat
  width : Nat
  /-- Its number, which the held registers of its members carry. -/
  num : Nat
  /-- What R248 compares: the word without SCODE, FMT, the shape and address words, MSR. -/
  word : BitVec 32
  fmt : BitVec 32
  m : Nat
  n : Nat
  k : Nat
  ta : Word
  tb : Word
  msr : Word
  /-- First A register, A registers already consumed (R262). -/
  va : Nat
  aoff : Nat
  start : Bool
  keep : Bool
  /-- By member position: live lanes at its issue; and the A registers it read: register, lane. -/
  alive : Tab Word
  amem : Tab Lane
  /-- A comes from the set's reuse latch; the latch it releases at its end (R259). -/
  latched : Bool
  frees : Option Nat
  /-- Slot that issued MXCONT for it, and those that did before its last split (R263). -/
  issuer : Option Nat
  past : List Nat
  /-- By member position: the core's operation number at its issue; its accesses of a typed buffer
  below it come first (R260). -/
  forks : Tab Nat
  /-- A block that it reads holds an uncorrectable error: EINFO of R261. -/
  bad : Option Nat
  /-- Core cycle and slot with which it entered the queue (R257). -/
  enq : Nat
  slot : Nat
  /-- Running: first cycle, cycles beyond 20, blocks written, cycle of the last block write, the
  accumulator cells and scales read at the start; and the B elements of the blocks read and not yet
  written (256 × k + j to the element), with the number of blocks read. -/
  t0 : Nat
  extra : Nat
  done : Nat
  lastW : Nat
  cells : Tab Cell40
  rows : Tab Nat
  cols : Tab Nat
  belem : Tab Nat
  fetched : Nat
  /-- Core cycle in which its rendezvous completed (R257). -/
  comp : Nat := 0
  /-- The block that the error of `bad` spoils (R261). -/
  badAt : Nat := 0
  /-- The core's operation number at the issue of MXCONT: the issuer's accesses of a typed buffer below it
  come first (R196). -/
  fork : Nat := 0
deriving DecidableEq, Repr

/-- R248: an open rendezvous: the first member's operation and the members that have arrived. -/
structure Rendezvous where
  op : MxOp
  arrived : List Nat
deriving DecidableEq, Repr

/-- R258: a reuse latch. `held` is false once an operation that releases it has launched. -/
structure ReuseLatch where
  launch : Nat
  lin : Nat
  members : List Nat
  m : Nat
  k : Nat
  afmt : Nat
  alive : Tab Word
  amem : Tab Lane
  held : Bool
deriving DecidableEq, Repr

/-- R202: the replies of one slice that have arrived: all below `low`, and those beyond. -/
structure SeqRec where
  low : Nat
  extra : List Nat
deriving DecidableEq, Repr

/-- A monitor wake at its core: slot, slice key, sequence number, sector, sweep cell. -/
structure WakeIn where
  slot : Nat
  home : Nat
  seq : Nat
  sector : Nat
  op : Nat
  cell : Option (Nat × Nat)
deriving DecidableEq, Repr

/-- A signature at its core (R188): source, the release's number there, scope. -/
structure SigIn where
  src : Nat
  token : Nat
  scope : Nat
  bits : BitVec 2048
deriving DecidableEq, Repr

/-- An external wake at its core: its issuer key, none for CWAKE.ANY (R296). -/
structure XWake where
  tensor : Nat
  seg : Nat
  cell : Nat
  key : List Nat
deriving DecidableEq, Repr

/-- What the network has brought to a core and no event has taken yet: acknowledgments (operation
numbers), wakes, signatures, acknowledgments of signatures (their numbers), active messages, cross-segment
wakes. -/
structure Inbox where
  acks : List Nat
  wakes : List WakeIn
  sigs : List SigIn
  sigAcks : List Nat
  ams : List AmMsg
  xwakes : List XWake
deriving DecidableEq, Repr

/-- The matrix engine of a core (R248, R257, R258). -/
structure MxEngine where
  open_ : List Rendezvous
  queue : List MxOp
  running : Option MxOp
  latches : Tab ReuseLatch
  /-- Completed by retirement, waiting for a latch or a queue entry (R259). -/
  waiting : List MxOp
  /-- Split, and not yet continued or abandoned (R261). -/
  split : List MxOp
  /-- Occupied until this core cycle. -/
  busy : Nat
  /-- Operations that have ended in this core cycle: what they hold is held to its end (R256). -/
  ended : List Nat := []
deriving DecidableEq, Repr

/-- R32, R184, R188, R202 and the rest: a core. -/
structure Core where
  groups : Tab Group
  /-- Core cycles since reset, the cycle until which takebacks withhold issue (log 10), and the
  next cycle that R318 has not served. -/
  cycle : Nat
  blocked : Nat
  paAt : Nat
  /-- Quarters taken and instructions issued in this core cycle (R17). -/
  usedQ : Nat
  issued : List Nat
  /-- Slots whose event has returned, in order (R18). -/
  returned : List Nat
  promoSeq : Nat
  /-- The clock in force, in edges per 48-slot window (R319), and whether the distributor mask
  holds this core (R313). -/
  edges : Nat
  good : Bool
  l1 : Tab L1Line
  l1rec : Tab (List Nat)
  sigTeam : BitVec 2048
  sigGang : BitVec 2048
  sigDev : BitVec 2048
  inb : BitVec 2048
  loads : Tab Load
  stores : Tab StoreOp
  /-- R200, R203: ordered updates that their units have acknowledged and, as far as a release of the
  core knows, not yet applied. -/
  ordHeld : Tab StoreOp := []
  /-- R190: publications still to be acknowledged, by token: scope and acknowledgments to come. -/
  sigOut : Tab (Nat × Nat) := []
  taccs : List (Nat × TAccess)
  xcs : Tab XcOp
  fills : Tab Fill
  opSeq : Nat
  /-- The core cycle of the last acquire or INVL1 and the filter it used: a fill whose request is
  sent in that cycle is not installed either (R191, R227). -/
  acqMark : Option (Nat × BitVec 2048)
  /-- Acknowledged requests, wakes and messages that have reached the core. -/
  wbuf : Tab Byte
  abuf : Tab Byte
  cbuf : Tab Cell40
  sbuf : Tab Byte
  mail : Tab MailRec
  mailq : List Nat
  evq : List Event
  /-- Events held because the queue was full (R331). -/
  evHeld : List Event
  arrivals : List AmMsg
  amOver : List AmMsg
  tlb : List (Nat × TlbEnt)
  /-- Copy engine. -/
  kicks : List Kick
  copying : Option Kick
  kickSeq : Nat
  mx : MxEngine
  mgn : Margin
  /-- R318: rotation base, order number of parkings, last rotation cycle. -/
  rb : Nat
  pparkSeq : Nat
  lastParked : Nat
  rotAt : Nat
  /-- A safe-mode or repeat takeback is expected (R342). -/
  repeating : Option Nat
  /-- By engine, matrix 0, copy 1, sweep 2: the core cycle in which a caught cycle of it is repeated (R342). -/
  engRep : Tab Nat := []
  /-- Replies received from each slice (key die*24+slice): every number below, and those beyond
  (R202). -/
  seqSeen : Tab SeqRec
  inbox : Inbox
  /-- R53, R375: TEMPO and the two counts of L2 lookups at the edges that began this core cycle and
  the two before it, newest first. -/
  began : List (Nat × Word × Word)
  /-- Events addressed to the core while a takeback withholds issue, in arrival order (R342). -/
  heldEv : List Instr
  /-- The core cycle until which a takeback withholds issue and the core's events (R342). -/
  caughtTo : Nat
  /-- Core cycles until which a takeback delays the copy engine and the sweep engine (R342). -/
  copyHold : Nat
  sweepHold : Nat
  /-- R98: the lines that the fetch path holds, by 1024 × line number + key entry. -/
  ifetch : Tab (BitVec 1024)
  /-- Faults that walks for the core's engines have ended in: 2^36 × owner + 64 KiB page number to
  1 page fault, 2 access fault (R333). -/
  walkRes : Tab Nat
  /-- R425: pages that an engine has checked ahead of use: 2^36 × owner + 64 KiB page number to their
  physical address and key entry. -/
  engPages : Tab (Nat × Nat)
  /-- R61: the place in the fixed order of units that accesses of this core cycle have reached. -/
  unitRank : Nat
  /-- R62: rows of the core's arrays that hold an uncorrectable error: unit code of R415, and byte,
  cell, way of the L1, or 32 × slot + depth of the mask stack (log 32). -/
  upset : List (Nat × Nat)
deriving DecidableEq, Repr

/-! ## Network and homes -/

/-- R407: a write from outside to one line: key entry, the bytes it writes, and for an
atomic, whose operand they are, its code, whether it returns the old value, and what it compares. -/
structure HeldWrite where
  key : Nat
  atom : Option (Nat × Bool × Word)
  cells : List Host.Cell
deriving DecidableEq, Repr

/-- What an arrival at an I/O port asks of the home slice of a line (R359, R405, R407). -/
inductive InReq where
  /-- A peer reads bytes. -/
  | read (bytes : List Nat)
  | write (h : HeldWrite)
  | get
  | put (data : List Byte)
  | recall
deriving DecidableEq, Repr

/-- What a packet carries. -/
inductive Msg where
  | req (r : Req)
  | inb (line : Nat) (x : InReq)
  /-- A line, or the values of an atomic by lane, for an operation of the core. -/
  | line (core op : Nat) (data : BitVec 1024) (bad : Bool)
  | vals (core op : Nat) (vals : Tab (BitVec 128))
  | ack (core op : Nat)
  /-- Answer to a WAITCMP with its request number: 0 condition holds (in a sector), 1 armed,
  2 MONFULL, 3 fails and nothing is armed, 4 the line holds an uncorrectable error. -/
  | cmp (core slot result op sector : Nat)
  /-- A monitor wake: waiting core and slot, or sweep cell (tensor, cell). -/
  | wake (core slot : Nat) (home sector op : Nat) (cell : Option (Nat × Nat))
  /-- A signature of a scope, from a core to a core, and its acknowledgment. -/
  | sig (src dst token scope : Nat) (bits : BitVec 2048)
  | sigAck (dst token : Nat)
  | am (core : Nat) (m : AmMsg)
  /-- An external wake: core, tensor, segment, cell, issuer key of CWAKE.ORD. -/
  | xwake (core tensor seg cell : Nat) (key : List Nat)
deriving DecidableEq, Repr

/-- R359: a packet, with where it stands. -/
structure Packet where
  cls : Nat
  pri : Nat
  age : Nat
  esc : Bool
  ndata : Nat
  sdie : Nat
  sport : Nat
  ddie : Nat
  dport : Nat
  seq : Nat
  msg : Msg
  /-- The input port it waits at, and network cycles without go (R362). -/
  at_ : Nat
  stuck : Nat
  /-- Not yet in its port's channel: the core and the TEMPO that order its entry (R358, R363). -/
  outside : Bool := false
  from_ : Nat := 0
  t0 : Nat := 0
  /-- The output it was last seen to wait for, which R362 counts. -/
  dir : Nat := 0
deriving DecidableEq, Repr

/-- R365: one way of a slice set. -/
structure L2Line where
  line : Nat
  dirty : Bool
  ef : Bool
deriving DecidableEq, Repr

/-- R367: a monitor entry. -/
structure Monitor where
  pa : Nat
  size : Nat
  cond : Nat
  value : Word
  core : Nat
  slot : Nat
  op : Nat
  cell : Option (Nat × Nat)
deriving DecidableEq, Repr

/-- R365: a slice. -/
structure Slice where
  ways : Tab L2Line
  recency : Tab (List Nat)
  mons : Tab Monitor
  inq : List Packet
  /-- Reply sequence numbers by core, and the network cycle of the next acceptance. -/
  seq : Tab Nat
  busy : Nat
  /-- Packets of an atomic whose last packet is still to come (R220, R358). -/
  parts : List Req := []
  /-- R407: accepted packets that wait until a line is no longer shared out, in order. -/
  held : List Packet := []
deriving DecidableEq, Repr

/-- R366: a retention window. -/
structure Rtw where
  launch : Nat
  n : Nat
  ways : List Nat
  base : Nat
  len : Nat
deriving DecidableEq, Repr

/-- R222, R371: one ordered update: issuer key (team, group, lane, sequence) and operand; for
ATOM.ORD its operation, and the core it came from. -/
structure OrdUpd where
  key : List Nat
  operand : Word
  op : Nat
  core : Nat
deriving DecidableEq, Repr

/-- R371: what the unit holds for one address. -/
structure Held where
  addr : Nat
  launch : Nat
  /-- Element: 0 I32, 1 F32, 2 I64, 3 F64, 4 BF16. -/
  ety : Nat
  /-- Key entry of the page. -/
  pk : Nat
  upds : List OrdUpd
  /-- The address is in exact accumulation. -/
  exact : Bool
  /-- Held-entry index, pool indices, or spill record. -/
  entry : Nat
  pool : List Nat
  spill : Option Nat
deriving DecidableEq, Repr

/-- R224, R372: one held ATOM.ORD update. -/
structure AtomUpd where
  launch : Nat
  addr : Nat
  size : Nat
  pk : Nat
  upd : OrdUpd
  spill : Option Nat
deriving DecidableEq, Repr

/-- R369: a memory-side unit and its stack foot. -/
structure Unit where
  held : List Held
  atoms : List AtomUpd
  inbox : List Req
  ordbox : List Req
  /-- Watch entries: slice and monitor index (R368). -/
  watch : List (Nat × Nat)
  /-- Addresses whose flush has been triggered and is still to be done (R373). -/
  flushq : List Nat
  /-- Spill records in use, by offset in units of 16 bytes: length in units (R372). -/
  spill : Tab Nat
  /-- R369: the refresh timer: TEMPO at which it last expired. -/
  refresh : Nat
deriving DecidableEq, Repr

/-- R333, R334: a translation walk. -/
structure Walk where
  core : Nat
  owner : Nat
  va : Nat
  /-- An engine of the core asked for it; TEMPO of the request. -/
  eng : Bool := false
  at_ : Nat := 0
  cancelled : Bool
deriving DecidableEq, Repr

/-- A die: slices, memory-side units, crossbar, translation engine, slew limiter. -/
structure Die where
  slices : Tab Slice
  units : Tab Unit
  net : List Packet
  stopped : List Nat
  outBusy : Tab Nat
  lrg : Tab (List Nat)
  /-- Occupancy counts last received from the neighbours, by direction port (R362). -/
  nbr : Tab Nat
  walks : List Walk
  walkq : List Walk
  rtw : Tab Rtw
  l2hit : Word
  l2miss : Word
  /-- R321: queued requests (16 × TEMPO + key, cluster), the window of the last admission and how
  many clusters it has admitted. -/
  slewq : List (Nat × Nat)
  slewWin : Nat
  slewN : Nat
  /-- The clusters it has admitted (R323). -/
  slewIn : List Nat := []
deriving DecidableEq, Repr

/-- R316, R320: a cluster's power state. -/
structure Cluster where
  pacnt : Nat
  pabud : Nat
  pathr : Nat
  pahys : Nat
  ratio : Nat
  target : Option Nat
  rampEnd : Nat
  pendReq : Option Nat
  lastUser : Option Nat
  tlb2 : List (Nat × TlbEnt)
  degrees : Nat
  /-- R320: TEMPO of the supervisor's last write of CRREQ; and TEMPO of the management port's, with
  what it found: target, end of the ramp, pending request. -/
  crSup : Option Nat := none
  crPort : Option (Nat × Option Nat × Nat × Option Nat) := none
deriving DecidableEq, Repr

/-! ## Launches -/

/-- R242: a team barrier. -/
structure Barrier where
  phase : Bool
  arr : Nat
  rm : Nat
deriving DecidableEq, Repr

/-! ## Sweeps -/

/-- R277: where a segment's engine stands. -/
inductive SegPhase where
  | closed
  /-- Waiting for its run group's slot and quarter-rows (R274). -/
  | placing
  | opening
  /-- Between runs. -/
  | sweeping
  /-- A run is in the run group. -/
  | running
  /-- The run is written back; its wakes and those of the run boundary apply. -/
  | boundary
  /-- At a sweep boundary: arrived (R280), applying wakes, done, or waiting for a firing (R279). -/
  | arrived
  | atEnd
  | applied
  | quiet
  | closing
  /-- Past its closing boundary: its writes are still to be performed. -/
  | ending
deriving DecidableEq, Repr

/-- R282, R283: a wake held for a boundary: 1 of the segment's own run, 2 cross-segment, 3 CWAKE.ANY,
4 CWAKE.ORD, 5 monitor; its order key; its cell; for a monitor its request. A monitor that a restore
could not arm again has the key [0xFF, continuation point] (R286, R299). -/
structure HeldWake where
  kind : Nat
  key : List Nat
  cell : Nat
  op : Nat
  /-- An engine fault has left it for the next opening boundary (R425). -/
  atOpen : Bool := false
deriving DecidableEq, Repr

/-- R299: an armed monitor of a cell, with the continuation point of its CWAITM. -/
structure Arm where
  op : Nat
  cpc : Nat
  pa : Nat
  key : Nat
  cond : Nat
  value : Nat
deriving DecidableEq, Repr

/-- R269, R277: a segment and its engine. -/
structure Seg where
  core : Nat
  slot : Option Nat
  phase : SegPhase
  cursor : Nat
  /-- Sweep boundaries reached. -/
  sweeps : Nat
  /-- Cells by state, 0 to 4. -/
  counts : Tab Nat
  held : List HeldWake
  /-- Operations of engine writes still to be performed. -/
  pend : List Nat
  /-- Held at a page fault at an address (R425); an engine fault to be taken. -/
  fault : Option Nat
  efault : Bool
  /-- R286: where a save found it, while it has to go on from there. -/
  resume : Option SegPhase
  /-- Fields of the descriptor still to be written: address, bytes, value. -/
  todo : List (Nat × Nat × Nat) := []
  /-- Wakes of the last run for other segments (key and cell), and the sectors its write-back wrote:
  they are sent when it has been performed (R198). -/
  out : List (List Nat × Nat) := []
  secs : List Nat := []
  /-- The release with which it arrives at a sweep boundary (R280). -/
  rel : Option Release := none
deriving DecidableEq, Repr

/-- R268, R290 to R294: a declared tensor. -/
structure Tensor where
  launch : Nat
  lin : Nat
  owner : Nat
  pri : Nat
  cluster : Nat
  desc : Nat
  args : Word
  ebase : Nat
  esz : Nat
  rwid : Nat
  sync : Bool
  cbase : Nat
  kbase : Nat
  rbase : Nat
  rvq : Nat
  count : Nat
  seglen : Nat
  segs : Tab Seg
  /-- 0 idle, 1 running, 2 halted, 3 saved. -/
  state : Nat
  scur : Tab Nat
  /-- Sweeps asked for; SBUF offset of the completion record, and its word 0 fields. -/
  n : Nat
  recAt : Nat
  fin : Bool
  halt : Bool
  wasQuiet : Bool
  eflt : Bool
  flags : BitVec 7
  /-- Every segment stops at its next run boundary; the stop is a save (R286, R293). -/
  halting : Bool
  saving : Bool
  /-- Armed monitors by cell. -/
  armed : Tab Arm
  /-- SWDECL still holds its group (R290): the group's key in its team, and the operations of writes
  still to be performed. -/
  decl : Option (Nat × List Nat) := none
  /-- The last segment has closed: STATE is being written. -/
  final : Bool := false
  /-- SWSTARTs so far, by which a CWAKE.ORD knows the one whose opening boundary it waits for (R282). -/
  starts : Nat := 0
deriving DecidableEq, Repr

/-- R288: one of a team's four tensor handles. -/
structure Handle where
  tensor : Nat
deriving DecidableEq, Repr

/-- R19 to R22, R57: a team. -/
structure Team where
  launch : Nat
  lin : Nat
  home : Nat
  twin : Bool
  /-- Allotment bases: SBUF on the home core; WBUF, ABUF, CBUF by core. -/
  sb : Nat
  wb : Tab Nat
  ab : Tab Nat
  cb : Tab Nat
  tent : Pc
  /-- Retired groups, by index. -/
  retired : Nat
  bars : Tab Barrier
  ringRel : Tab Nat
  gang : Nat
  gangPos : Nat
  gangSz : Nat
  /-- Groups that have executed the current GANGBAR or GRIDBAR, by index. -/
  gangArr : Nat
  gridArr : Nat
  handles : Tab Handle
  heldAm : List AmMsg
  /-- Results of ATOM.ORD for groups that are saved: issuer key and value (R224, R225). -/
  late : List (List Nat × Word)
  /-- Stopped under R329 with its cause; being saved; resident. -/
  stop : Option Nat
  saving : Bool
  resident : Bool
  /-- While saved: image address, addresses of the group records, and per core of the team the
  matrix operations, latches and kicks of its image (R341). -/
  image : Nat
  recs : Tab Nat
  savedMx : Tab MxEngine
  savedKicks : Tab (List Kick)
  /-- The bytes of its image that hold those (R341). -/
  savedEngine : List (BitVec 8) := []
  /-- While saved: the distributor is to restore it (R39, R341, R350). -/
  waitingRestore : Bool
  /-- R339, R341: the supervisors have been asked to save it; its groups have been loaded and wait
  for their release. -/
  asked : Bool := false
  loaded : Bool := false
deriving DecidableEq, Repr

/-- R23, R304, R306, R312: an admitted launch. -/
structure Launch where
  record : BitVec 1024
  addr : Nat
  pri : Nat
  owner : Nat
  /-- How many teams have been placed. -/
  placed : Nat
  retired : Nat
  complete : Bool
  gangp : Nat
  gangf : Nat
  dropped : Nat
  rflags : BitVec 5
  /-- Grid-barrier generation. -/
  gen : Nat
  /-- R38: capacity fell, treat as SWAPB. -/
  swap : Bool
  /-- Waits to start fully resident. -/
  waitFull : Bool
  heldAm : List AmMsg
  /-- Opening book: gangs followed or written so far (R392). -/
  bookPos : Nat
  /-- Cores that have run groups of the grid (R35). -/
  cores : List Nat
  /-- Linear indices of teams retired. -/
  gone : List Nat
  /-- R35: the signatures of its cores have been published at its end. -/
  published : Bool := false
deriving DecidableEq, Repr

/-- R303: a launch queue. -/
structure Queue where
  base : Nat
  ctl : Word
  head : Nat
  tail : Nat
  /-- R307: its head waits for dependences that were read with DONE = 0: their sectors. -/
  waits : List Nat := []
deriving DecidableEq, Repr

/-! ## The package -/

/-- R338: pre-emption in progress. -/
structure Preempt where
  owner : Nat
  t0 : Nat
  /-- 0 idle, 1 drain, 2 forced save, 3 resuming. -/
  stage : Nat
  /-- The barrier grace has expired. -/
  grace : Bool
  result : Nat
  /-- The command written at `t0`, which reads back until the next master edge: 1 GO, 2 RESUME. -/
  cmd : Nat := 0
deriving DecidableEq, Repr

/-- R417, R419: where the machine stands between resets. -/
inductive Phase where
  | inReset | booting | ready | failed
deriving DecidableEq, Repr

/-- One turn of the package by itself (log 1). -/
inductive Turn where
  /-- A group's issue: core and slot. -/
  | issue (core slot : Nat)
  /-- An event of the opcode table that is no arrival. -/
  | event (i : Instr)
  /-- A master edge. -/
  | edge
deriving DecidableEq, Repr

/-- What comes from outside the package, and when: between the turns of the package (log 1). -/
inductive Outside where
  /-- An arrival is received, or the management port acts. -/
  | act (i : Instr)
  /-- The package takes one turn of its own. -/
  | pass
  /-- An uncorrectable error appears in a row of an array of a core (R62, log 32). -/
  | upset (core unit row : Nat)
  /-- An uncorrectable error appears in a line of near memory (R62, R209, log 32). -/
  | upsetLine (line : Nat)
deriving DecidableEq, Repr

/-- R413: a key-table entry. -/
structure KeyEnt where
  valid : Bool
  dbg : Bool
  key1 : BitVec 256
  key2 : BitVec 256
deriving DecidableEq, Repr

/-- R408: a TDISP interface: TST 0 unlocked, 1 locked, 2 running, 3 error. -/
structure Tdi where
  own : Nat
  tst : Nat
  sess : Bool
  hbase : Nat
  hlen : Nat
deriving DecidableEq, Repr

/-- Everything replay reproduces (R376), but for near memory. -/
structure Pkg where
  tempo : Nat
  phase : Phase
  cores : Tab Core
  clusters : Tab Cluster
  dies : Tab Die
  launches : Tab Launch
  teams : Tab Team
  queues : Tab Queue
  /-- Declared tensors by number; groups that QSAVE has recorded, by the number that their record
  carries (log 14). -/
  tensors : Tab Tensor
  shadow : Tab Group
  launchSeq : Nat
  gangSeq : Nat
  lastServed : Tab Nat
  lastCluster : Nat
  /-- First TEMPO at which the distributor may admit, and place, again (R305, R312). -/
  admitAt : Nat
  placeAt : Nat
  preempt : Preempt
  /-- Owners pre-empted and not yet resumed: nothing of theirs is admitted or placed (R339). -/
  suspended : List Nat
  pretime : Word
  rootbase : Nat
  nmsplit : Nat
  tlbinv : Word
  tlbinvOwn : Nat
  tlbBusy : Bool
  msgSeq : Nat
  /-- Requests waiting at the I/O ports, by the port numbers of R378. -/
  io : Tab (List Req)
  /-- Key table (R413), and for each 32 B sector written under a key the two keys it was encrypted
  with (R412, R414). -/
  keys : Tab KeyEnt
  keyed : Tab (BitVec 512)
  tdis : Tab Tdi
  sesslife : Word
  /-- TEMPO of the last admitted key update (R409). -/
  sessAt : Nat
  fabexp : Tab Word
  fabshr : Tab Word
  /-- Lines supplied to processors and not yet taken back (R407). -/
  sharedOut : List Nat
  /-- R410: owners whose key is to be retired, with the operation number of each core at edge T. -/
  retiring : Tab (Tab Nat)
  /-- R62, R209, R369: lines of near memory that hold an uncorrectable error (log 32). -/
  upsetMem : List Nat
  /-- R62: lines whose copy in the L2 holds one. -/
  upsetL2 : List Nat := []
  /-- R329: what the management port reports of supervisor groups that have trapped: core to cause. -/
  supFault : Tab Nat := []
  /-- R415, R420, R423: the error log, what the last boots came to, and the viral state. -/
  errlog : Tab (BitVec 192)
  errNext : Nat
  errCount : Nat
  bootwhy : Word
  virst : Word
  fwready : Bool
  /-- TEMPO of reset release (R419). -/
  bootAt : Nat
  everLaunched : Bool
  /-- R376, R384: the turns that the timers, command queues and latencies of the parts will bring,
  where the spec gives no time for them (log 1). -/
  plan : List Turn
  /-- How many free values the package has taken (log 3). -/
  fresh : Nat
deriving DecidableEq, Repr

/-- R380: a scoresheet entry: its stamp and its arrival. A CXL read
completion logged without its data keeps the check value (R382). -/
structure SheetEnt where
  stamp : Nat
  /-- The end marker. -/
  last : Bool := false
  ev : Option Instr
  check : Option (BitVec 64)
deriving DecidableEq, Repr

/-- R386: what an adjournment image holds: the replayed state, and the lines that the L2 holds. -/
structure Image where
  pkg : Pkg
  lines : Tab (BitVec 1024)
deriving DecidableEq, Repr

/-- What lies outside the replayed state (R376): the observation registers (R377, R383, R388, R403),
the gates' buffers, the recording and the images. -/
structure Obs where
  stopat : Word
  arm : Bool
  frozen : Bool
  slotSel : Nat
  adjErr : Nat
  armErr : Bool
  repctl : Word
  scsbase : Word
  scssize : Word
  scshead : Nat
  scstail : Nat
  talign : Word
  divlog : Tab (Word × Word)
  divNext : Nat
  rbsel : Word
  rbdata : Word
  mraddr : Word
  mrdata : Word
  /-- The entries that the writer has put into the ring, with their bytes (R380), the stash of R381
  and the edge of the last admission with its place (R378): 1024 × port + core of a takeback. -/
  sheet : List (List Byte × SheetEnt)
  stash : List SheetEnt
  admitted : Option (Nat × Nat)
  /-- R378: arrivals that wait at the gates, by port, in order. -/
  gates : Tab (List Instr) := []
  /-- The package freezes before the next edge (R391, R416). -/
  freezeDue : Bool
  /-- R378: nothing but admissions has happened at this master edge. -/
  edgeNew : Bool := false
  /-- R416: the device has become viral since the last reset. -/
  viral : Bool := false
  /-- The images that this package has scanned out (R386). -/
  images : List Image
  /-- R313: the distributor mask as self-test last found it. -/
  mask : Option (List Nat)
  /-- How many free values the observation registers have taken (log 3). -/
  freshObs : Nat := 0
deriving DecidableEq, Repr

/-- What DRAM holds of a line: its bytes, and the keys of its four sectors (R412). -/
structure DramLine where
  data : BitVec 1024
  keys : List (Option (BitVec 512))
deriving DecidableEq, Repr

/-- The machine without near memory. -/
structure Mach extends Pkg where
  obs : Obs
  /-- R365, R399: what DRAM still holds of lines that the L2 holds changed and has not written back. -/
  under : Tab DramLine
  agenda : List Outside
  cur : Nat × Nat
deriving DecidableEq, Repr

/-- The state: the machine and near memory, a list of (physical address, byte) pairs with
addresses strictly rising and no byte equal to what an unlisted address reads as (log 4). -/
structure State extends Mach where
  mem : List Host.Cell
deriving DecidableEq, Repr

/-! ## Reset -/

/-- A group slot's contents before anything is written: the fields no rule gives are 0 (log 5). -/
def Group.blank : Group :=
  { kind := .user, launch := 0, lin := 0, gidx := 0, role := 0, born := 0, owner := 0, width := 16
    qbase := 0, nv := 4, pri := 0, live := 0, exec := 0, pc := 0
    sreg := [], hsreg := [], vreg := [], mreg := [], hmreg := [], sfl := 0, fmt := 0, hfmt := 0
    flg := 0, chk := false, stack := [], epc := 0, ecause := 0, eexec := 0, elanes := 0
    einfo := 0, inHandler := false, hdepth := 0, iset := 0, msr := 0, cont := [], lc := 0
    sc := 0, tc := 0, mc := 0, xc := 0, flights := [], savedFlights := [], pend := []
    locked := [], covers := [], deferred := [], poison := [], cursor := 0, acquired := false, phases := 0
    ordSeq := 0, entry := true, parked := false, held := false, wait := .none, wstep := 0, readyAt := 0
    since := none, opps := 0, promo := none, powered := none, slewed := false, haltDue := none
    haltAt := none, stopped := false, trapStop := false, hpc := 0, skid := 0, stopInfo := 0, lastPc := 0
    rel := none, half := 0, walked := [], raise := none, run := none }

/-- R15, R27, R31: the supervisor group: 16 lanes on quarter 0, 64 quarter-rows, role 5. -/
def Group.supervisor : Group :=
  { Group.blank with
    kind := .supervisor, role := 5, width := 16, nv := 64, pri := 3
    live := 0xFFFF, exec := 0xFFFF }

/-- R348: the margin registers at reset. -/
def Margin.init : Margin :=
  { step := 0, safe := false, quar := false, tbcnt := 0, tbwin := 1048576, tblim := 16
    tblog := List.replicate 8 0, tbtot := 0, pendW := [], heldStep := none, winStart := 0 }

/-- A core at reset. The distributor mask bit is set by RESET_RELEASE (R313). -/
def Core.init : Core :=
  { groups := [(0, Group.supervisor)], cycle := 0, blocked := 0, paAt := 0, usedQ := 0, issued := []
    returned := [], promoSeq := 0, edges := 12, good := false, l1 := [], l1rec := []
    sigTeam := 0, sigGang := 0, sigDev := 0, inb := 0, loads := [], stores := [], taccs := []
    xcs := [], fills := [], opSeq := 0, acqMark := none, wbuf := [], abuf := [], cbuf := []
    sbuf := [], mail := [], mailq := [], evq := [], evHeld := [], arrivals := [], amOver := []
    tlb := [], kicks := [], copying := none, kickSeq := 0
    mx := { open_ := [], queue := [], running := none, latches := [], waiting := [], split := [], busy := 0 }
    mgn := Margin.init, rb := 47, pparkSeq := 0, lastParked := 0, rotAt := 0
    repeating := none, seqSeen := []
    inbox := { acks := [], wakes := [], sigs := [], sigAcks := [], ams := [], xwakes := [] }
    began := [], heldEv := [], caughtTo := 0, copyHold := 0, sweepHold := 0, ifetch := [], walkRes := []
    engPages := [], unitRank := 0, upset := [] }

def Slice.init : Slice := { ways := [], recency := [], mons := [], inq := [], seq := [], busy := 0 }

def Unit.init : Unit :=
  { held := [], atoms := [], inbox := [], ordbox := [], watch := [], flushq := [], spill := [], refresh := 0 }

def Die.init : Die :=
  { slices := [], units := [], net := [], stopped := [], outBusy := [], lrg := [], nbr := [], walks := []
    walkq := [], rtw := [], l2hit := 0, l2miss := 0, slewq := [], slewWin := 0, slewN := 0 }

def Cluster.init : Cluster :=
  { pacnt := 0xFFFFFF, pabud := 0, pathr := 0, pahys := 0, ratio := 1, target := none
    rampEnd := 0, pendReq := none, lastUser := none, tlb2 := [], degrees := 0 }

def Barrier.init : Barrier := { phase := false, arr := 0, rm := 0 }

/-- R303: LOG2N 6, everything else 0. -/
def Queue.init : Queue := { base := 0, ctl := 6, head := 0, tail := 0 }

def Pkg.reset : Pkg :=
  { tempo := 0, phase := .inReset, cores := [], clusters := [], dies := [], launches := []
    teams := [], queues := [], tensors := [], shadow := [], launchSeq := 0, gangSeq := 0, lastServed := [], lastCluster := 95
    admitAt := 0, placeAt := 0
    preempt := { owner := 0, t0 := 0, stage := 0, grace := false, result := 0 }, suspended := []
    pretime := 0x00004E20_006407D0, rootbase := 0, nmsplit := 32, tlbinv := 0, tlbinvOwn := 0
    tlbBusy := false, msgSeq := 0, io := [], keys := [], keyed := [], tdis := []
    sesslife := 0x100_0000_0000, sessAt := 0, fabexp := [], fabshr := [], sharedOut := [], retiring := []
    upsetMem := [], errlog := [], errNext := 0, errCount := 0, bootwhy := 0, virst := 0
    fwready := false, bootAt := 0, everLaunched := false, plan := [], fresh := 0 }

def KeyEnt.init : KeyEnt := { valid := false, dbg := false, key1 := 0, key2 := 0 }

def Tdi.init : Tdi := { own := 0, tst := 0, sess := false, hbase := 0, hlen := 0 }

def Obs.reset : Obs :=
  { stopat := 0, arm := false
    frozen := false, slotSel := 0, adjErr := 0, armErr := false, repctl := 0, scsbase := 0
    scssize := 0, scshead := 0, scstail := 0, talign := 0, divlog := [], divNext := 0, rbsel := 0
    rbdata := 0, mraddr := 0, mrdata := 0, sheet := [], stash := [], admitted := none, freezeDue := false
    images := [], mask := none }

/-- The machine in reset, before RESET_RELEASE: every field at the value the spec states for
reset, or the value the assumption log names. -/
def State.reset : State :=
  { Pkg.reset with obs := Obs.reset, under := [], agenda := [], cur := (0, 0), mem := [] }

end Sys2Proof.Machine
end

