-- ==== Sys2Proof/Machine/Work.lean ====
section
/-!
DEFINITION. The working copy an instruction or event acts on: the machine, near memory as it stood
when the turn began, and the bytes the turn has written. Near memory itself changes only where
`commit` applies those bytes.
-/

namespace Sys2Proof.Machine

/-- The machine during one turn. `log` holds the bytes performed at their homes, newest first. -/
structure Work extends Mach where
  home : List Host.Cell
  log : List Host.Cell

/-- What an unlisted address of near memory reads as (log 4). -/
def Mem.blank : Byte := 0

/-- Read one byte of a memory. -/
def memRead (m : List Host.Cell) (a : Nat) : Byte := tget Mem.blank a m

/-- Write one byte of a memory, keeping the canonical form. -/
def memWrite (m : List Host.Cell) (a : Nat) (b : Byte) : List Host.Cell := tput Mem.blank a b m

/-- The canonical form: addresses strictly rising, no byte equal to what an unlisted address reads
as. -/
def Memory.wf (m : List Host.Cell) : Bool := tsorted m && m.all fun c => decide (c.2 ≠ Mem.blank)

/-- Apply logged bytes, oldest first. -/
def applyLog (m : List Host.Cell) (log : List Host.Cell) : List Host.Cell :=
  log.foldr (fun c m => memWrite m c.1 c.2) m

/-- Begin a turn. -/
def State.work (s : State) : Work := { s.toMach with home := s.mem, log := [] }

/-- End a turn. -/
def commit (s : State) (w : Work) : State := { w.toMach with mem := applyLog s.mem w.log }

/-- The byte at a physical address, as its home holds it. -/
def Work.byte (w : Work) (a : Nat) : Byte := (tfind a w.log).getD (memRead w.home a)

/-- Perform one byte at its home. -/
def Work.poke (w : Work) (a : Nat) (b : Byte) : Work := { w with log := (a, b) :: w.log }

/-- Perform bytes in order. -/
def Work.pokes (w : Work) (l : List Host.Cell) : Work := l.foldl (fun w c => w.poke c.1 c.2) w

/-- `n` bytes from `a`, little-endian. -/
def Work.bytes (w : Work) (a n : Nat) : List Byte := (upto n a).map w.byte

/-- A little-endian number from bytes. -/
def leNat : List Byte → Nat
  | [] => 0
  | b :: t => b.toNat + 256 * leNat t

/-- The low `n` bytes of a number, little-endian. -/
def leBytes (n v : Nat) : List Byte := (upto n).map fun i => BitVec.ofNat 8 (v / 256 ^ i)

/-- A little-endian number of `n` bytes at a physical address. -/
def Work.num (w : Work) (a n : Nat) : Nat := leNat (w.bytes a n)

/-- Bytes of a number placed from an address. -/
def cellsAt (a n v : Nat) : List Host.Cell := (leBytes n v).mapIdx fun i b => (a + i, b)

/-- Perform a number of `n` bytes. -/
def Work.pokeNum (w : Work) (a n v : Nat) : Work := w.pokes (cellsAt a n v)

/-- The 128-byte line with number `line`. -/
def Work.line (w : Work) (line : Nat) : BitVec 1024 := BitVec.ofNat 1024 (w.num (128 * line) 128)

/-- A meaning of an event: always a next state (log 15). -/
def event (s : State) (f : Work → Work) : Host.Outcome State Fault Refusal :=
  .next (commit s (f s.work))

/-! ## Fields of a register word -/

/-- A field of a register word. -/
def field (v : Word) (hi lo : Nat) : Nat := v.toNat / 2 ^ lo % 2 ^ (hi - lo + 1)

/-- A number as a word. -/
def natWord (n : Nat) : Word := BitVec.ofNat 64 n

/-- Keep the bits [hi:lo] of a word in place. -/
def keepBits (v : Word) (hi lo : Nat) : Nat := field v hi lo * 2 ^ lo

/-! ## Tables of the package -/

def Work.core (w : Work) (c : Nat) : Core := tget Core.init c w.cores
def Work.setCore (w : Work) (c : Nat) (k : Core) : Work :=
  { w with cores := tput Core.init c k w.cores }
def Work.modCore (w : Work) (c : Nat) (f : Core → Core) : Work := w.setCore c (f (w.core c))

def Work.cluster (w : Work) (c : Nat) : Cluster := tget Cluster.init c w.clusters
def Work.setCluster (w : Work) (c : Nat) (k : Cluster) : Work :=
  { w with clusters := tput Cluster.init c k w.clusters }
def Work.modCluster (w : Work) (c : Nat) (f : Cluster → Cluster) : Work :=
  w.setCluster c (f (w.cluster c))

def Work.die (w : Work) (d : Nat) : Die := tget Die.init d w.dies
def Work.setDie (w : Work) (d : Nat) (k : Die) : Work :=
  { w with dies := tput Die.init d k w.dies }
def Work.modDie (w : Work) (d : Nat) (f : Die → Die) : Work := w.setDie d (f (w.die d))

def Die.slice (d : Die) (s : Nat) : Slice := tget Slice.init s d.slices
def Die.setSlice (d : Die) (s : Nat) (k : Slice) : Die :=
  { d with slices := tput Slice.init s k d.slices }
def Die.unit (d : Die) (u : Nat) : Unit := tget Unit.init u d.units
def Die.setUnit (d : Die) (u : Nat) (k : Unit) : Die :=
  { d with units := tput Unit.init u k d.units }
def Work.slice (w : Work) (d s : Nat) : Slice := (w.die d).slice s
def Work.setSlice (w : Work) (d s : Nat) (k : Slice) : Work := w.modDie d (·.setSlice s k)
def Work.unit (w : Work) (d u : Nat) : Unit := (w.die d).unit u
def Work.setUnit (w : Work) (d u : Nat) (k : Unit) : Work := w.modDie d (·.setUnit u k)

/-- The group in a slot of a core. -/
def Work.grp (w : Work) (c s : Nat) : Option Group := tfind s (w.core c).groups
def Work.setGrp (w : Work) (c s : Nat) (g : Group) : Work :=
  w.modCore c fun k => { k with groups := tins s g k.groups }
def Work.delGrp (w : Work) (c s : Nat) : Work :=
  w.modCore c fun k => { k with groups := tdel s k.groups }
def Work.modGrp (w : Work) (c s : Nat) (f : Group → Group) : Work :=
  match w.grp c s with
  | some g => w.setGrp c s (f g)
  | none => w

/-- Change every group of a core. -/
def Work.mapGrps (w : Work) (c : Nat) (f : Nat → Group → Group) : Work :=
  w.modCore c fun k => { k with groups := tmap f k.groups }

/-- The key of a team: launch and linear index (at most 2^32 teams, R21). -/
def teamKey (launch lin : Nat) : Nat := launch * 2 ^ 32 + lin

def Work.team (w : Work) (launch lin : Nat) : Option Team := tfind (teamKey launch lin) w.teams
def Work.setTeam (w : Work) (t : Team) : Work :=
  { w with teams := tins (teamKey t.launch t.lin) t w.teams }
def Work.delTeam (w : Work) (launch lin : Nat) : Work :=
  { w with teams := tdel (teamKey launch lin) w.teams }
def Work.modTeam (w : Work) (launch lin : Nat) (f : Team → Team) : Work :=
  match w.team launch lin with
  | some t => w.setTeam (f t)
  | none => w

def Work.launch? (w : Work) (l : Nat) : Option Launch := tfind l w.launches
def Work.modLaunch (w : Work) (l : Nat) (f : Launch → Launch) : Work :=
  { w with launches := tmod l f w.launches }

/-- The team of a group, if it has one (R34: a handler addressed to a core has none). -/
def Work.teamOf (w : Work) (g : Group) : Option Team :=
  match g.kind with
  | .user | .handlerTeam | .run => w.team g.launch g.lin
  | _ => none

/-- The launch record of a group; zero for the supervisor. -/
def Work.recOf (w : Work) (g : Group) : BitVec 1024 :=
  if g.kind = .supervisor then 0 else ((w.launch? g.launch).map (·.record)).getD 0

/-- A new number for a message, an operation or an ordered update. -/
def Work.tick (w : Work) : Nat × Work := (w.msgSeq, { w with msgSeq := w.msgSeq + 1 })

/-- A fresh free value (log 3). -/
def Work.draw (w : Work) : Word × Work := (Config.freeWord w.fresh, { w with fresh := w.fresh + 1 })

/-- A fresh free value of the observation block, which lies outside the replayed state (log 3). -/
def Work.drawObs (w : Work) : Word × Work :=
  (Config.freeObs w.obs.freshObs, { w with obs := { w.obs with freshObs := w.obs.freshObs + 1 } })

/-- Bytes of them. -/
def Work.obsBytes (w : Work) (n : Nat) : List Byte × Work :=
  (upto n).foldl (fun q _ =>
    let d := q.2.drawObs
    (q.1 ++ [d.1.truncate 8], d.2)) ([], w)

/-- Bytes that are free values: data that the far tier gives in replay (R382), and what else the
spec leaves open (log 3). -/
def Work.farData (w : Work) (n : Nat) : List Byte × Work :=
  (upto n).foldl (fun q _ =>
    let d := q.2.draw
    (q.1 ++ [d.1.truncate 8], d.2)) ([], w)

/-- Groups of a core that satisfy a test, in ascending slot. -/
def Core.slotsOf (k : Core) (f : Group → Bool) : List Nat :=
  (k.groups.filter fun p => f p.2).map Prod.fst

/-- The cores a team occupies: its home core and, for a twin team, its partner (R19). -/
def Team.cores (t : Team) : List Nat :=
  if t.twin then [t.home, Config.partner t.home] else [t.home]

/-- Every (core, slot) that holds a group of a team with a given test; a sweep's run group belongs
to no team (R274). -/
def Work.members (w : Work) (t : Team) (f : Group → Bool) : List (Nat × Nat) :=
  t.cores.flatMap fun c =>
    ((w.core c).slotsOf fun g => decide (g.kind ≠ .run) && decide (g.launch = t.launch) &&
        decide (g.lin = t.lin) && f g).map fun s => (c, s)

/-! ## Launch record (R23) -/

/-- Bits [hi:lo] of a record, as a number. -/
def recBits (r : BitVec 1024) (hi lo : Nat) : Nat := r.toNat / 2 ^ lo % 2 ^ (hi - lo + 1)

def lrCode (r : BitVec 1024) : Nat := recBits r 51 0
def lrGridb (r : BitVec 1024) : Bool := recBits r 52 52 = 1
def lrSwapb (r : BitVec 1024) : Bool := recBits r 53 53 = 1
def lrTwin (r : BitVec 1024) : Bool := recBits r 54 54 = 1
def lrWidthCode (r : BitVec 1024) : Nat := recBits r 56 55
def lrWidth (r : BitVec 1024) : Nat := 16 * 2 ^ lrWidthCode r
def lrGpref (r : BitVec 1024) : Nat := recBits r 59 57
def lrGfall (r : BitVec 1024) : Nat := recBits r 62 60
def lrPromise (r : BitVec 1024) : Nat := recBits r 63 63
def lrArgs (r : BitVec 1024) : Nat := recBits r 115 64
def lrOwner (r : BitVec 1024) : Nat := recBits r 125 116
def lrBook (r : BitVec 1024) : Nat := recBits r 127 126
def lrGx (r : BitVec 1024) : Nat := recBits r 159 128
def lrGy (r : BitVec 1024) : Nat := recBits r 191 160
def lrGz (r : BitVec 1024) : Nat := recBits r 223 192
def lrTeams (r : BitVec 1024) : Nat := lrGx r * lrGy r * lrGz r
def lrHcount (r : BitVec 1024) : Nat := recBits r 228 224
def lrHvq (r : BitVec 1024) : Nat := recBits r 232 229
def lrRingn (r : BitVec 1024) : Nat := recBits r 237 233
def lrRingsz (r : BitVec 1024) : Nat := recBits r 245 238
def lrRorder (r : BitVec 1024) (i : Nat) : Nat := recBits r (2 * i + 247) (2 * i + 246)
def lrRlen (r : BitVec 1024) : Nat := recBits r 255 254
def lrSbq (r : BitVec 1024) : Nat := recBits r 264 256
def lrWbq (r : BitVec 1024) : Nat := recBits r 274 265
def lrAbq (r : BitVec 1024) : Nat := recBits r 283 275
def lrCbq (r : BitVec 1024) : Nat := recBits r 294 284
def lrCpl (r : BitVec 1024) : Nat := recBits r 371 320
def lrDep (r : BitVec 1024) (k : Nat) : Nat := recBits r (64 * k + 435) (64 * k + 384)
def lrDepv (r : BitVec 1024) (k : Nat) : Bool := recBits r (64 * k + 447) (64 * k + 447) = 1
def lrEnt (r : BitVec 1024) (k : Nat) : Nat := recBits r (64 * k + 535) (64 * k + 512)
def lrVq (r : BitVec 1024) (k : Nat) : Nat := recBits r (64 * k + 540) (64 * k + 536)
def lrGcnt (r : BitVec 1024) (k : Nat) : Nat := recBits r (64 * k + 546) (64 * k + 541)
def lrLast (r : BitVec 1024) (k : Nat) : Nat := recBits r (64 * k + 552) (64 * k + 547)
def lrUser0 (r : BitVec 1024) : Nat := recBits r 831 768
def lrUser1 (r : BitVec 1024) : Nat := recBits r 895 832

/-- ΣGCNT: NGRP (R25, R52). -/
def lrNgrp (r : BitVec 1024) : Nat := (upto 4).foldl (fun n k => n + lrGcnt r k) 0

/-- R25: the role of group index `i`. -/
def lrRoleOf (r : BitVec 1024) (i : Nat) : Nat :=
  let c0 := lrGcnt r 0
  let c1 := c0 + lrGcnt r 1
  let c2 := c1 + lrGcnt r 2
  if i < c0 then 0 else if i < c1 then 1 else if i < c2 then 2 else 3

/-- First group index of a role. -/
def lrFirst (r : BitVec 1024) (k : Nat) : Nat := (upto k).foldl (fun n j => n + lrGcnt r j) 0

/-- R25: the lanes that group `i` launches. -/
def lrLanes (r : BitVec 1024) (i : Nat) : Nat :=
  let k := lrRoleOf r i
  if i + 1 = lrFirst r k + lrGcnt r k ∧ lrLast r k ≠ 0 then lrLast r k else lrWidth r

/-- R29, R30: the ring position of a role. -/
def lrRingPos (r : BitVec 1024) (role : Nat) : Option Nat :=
  if lrRingn r = 0 then none
  else (upto (lrRlen r + 1)).find? fun p => lrRorder r p = role

end Sys2Proof.Machine
end

