-- ==== Sys2Proof/Machine/Crypto.lean ====
section
/-!
DEFINITION. The two algorithms that rules name and leave to their own standards: SHA-384 (R382,
R386; FIPS 180-4) and AES-XTS-256 (R412; FIPS 197, IEEE 1619), taken from those standards (PRESUMED,
log 19).
-/

namespace Sys2Proof.Machine

/-! ## SHA-384 -/

/-- Round constants 0 to 19. -/
def shaK0 : List Nat :=
  [0x428A2F98D728AE22, 0x7137449123EF65CD, 0xB5C0FBCFEC4D3B2F, 0xE9B5DBA58189DBBC,
    0x3956C25BF348B538, 0x59F111F1B605D019, 0x923F82A4AF194F9B, 0xAB1C5ED5DA6D8118,
    0xD807AA98A3030242, 0x12835B0145706FBE, 0x243185BE4EE4B28C, 0x550C7DC3D5FFB4E2,
    0x72BE5D74F27B896F, 0x80DEB1FE3B1696B1, 0x9BDC06A725C71235, 0xC19BF174CF692694,
    0xE49B69C19EF14AD2, 0xEFBE4786384F25E3, 0x0FC19DC68B8CD5B5, 0x240CA1CC77AC9C65]

/-- Round constants 20 to 39. -/
def shaK1 : List Nat :=
  [0x2DE92C6F592B0275, 0x4A7484AA6EA6E483, 0x5CB0A9DCBD41FBD4, 0x76F988DA831153B5,
    0x983E5152EE66DFAB, 0xA831C66D2DB43210, 0xB00327C898FB213F, 0xBF597FC7BEEF0EE4,
    0xC6E00BF33DA88FC2, 0xD5A79147930AA725, 0x06CA6351E003826F, 0x142929670A0E6E70,
    0x27B70A8546D22FFC, 0x2E1B21385C26C926, 0x4D2C6DFC5AC42AED, 0x53380D139D95B3DF,
    0x650A73548BAF63DE, 0x766A0ABB3C77B2A8, 0x81C2C92E47EDAEE6, 0x92722C851482353B]

/-- Round constants 40 to 59. -/
def shaK2 : List Nat :=
  [0xA2BFE8A14CF10364, 0xA81A664BBC423001, 0xC24B8B70D0F89791, 0xC76C51A30654BE30,
    0xD192E819D6EF5218, 0xD69906245565A910, 0xF40E35855771202A, 0x106AA07032BBD1B8,
    0x19A4C116B8D2D0C8, 0x1E376C085141AB53, 0x2748774CDF8EEB99, 0x34B0BCB5E19B48A8,
    0x391C0CB3C5C95A63, 0x4ED8AA4AE3418ACB, 0x5B9CCA4F7763E373, 0x682E6FF3D6B2B8A3,
    0x748F82EE5DEFB2FC, 0x78A5636F43172F60, 0x84C87814A1F0AB72, 0x8CC702081A6439EC]

/-- Round constants 60 to 79. -/
def shaK3 : List Nat :=
  [0x90BEFFFA23631E28, 0xA4506CEBDE82BDE9, 0xBEF9A3F7B2C67915, 0xC67178F2E372532B,
    0xCA273ECEEA26619C, 0xD186B8C721C0C207, 0xEADA7DD6CDE0EB1E, 0xF57D4F7FEE6ED178,
    0x06F067AA72176FBA, 0x0A637DC5A2C898A6, 0x113F9804BEF90DAE, 0x1B710B35131C471B,
    0x28DB77F523047D84, 0x32CAAB7B40C72493, 0x3C9EBE0A15C9BEBC, 0x431D67C49C100D4C,
    0x4CC5D4BECB3E42B6, 0x597F299CFC657E2A, 0x5FCB6FAB3AD6FAEC, 0x6C44198C4A475817]

/-- The round constants. -/
def shaK : List Nat := shaK0 ++ shaK1 ++ shaK2 ++ shaK3

/-- The initial digest. -/
def shaH : List Nat :=
  [0xCBBB9D5DC1059ED8, 0x629A292A367CD507, 0x9159015A3070DD17, 0x152FECD8F70E5939,
    0x67332667FFC00B31, 0x8EB44A8768581511, 0xDB0C2E0D64F98FA7, 0x47B5481DBEFA4FA4]

def rotr (x : Word) (n : Nat) : Word := x.rotateRight n

/-- One more word of the message schedule; the newest word stands first. -/
def shaExpand (l : List Word) : List Word :=
  let at_ := fun i => l.getD i 0
  let s0 := rotr (at_ 14) 1 ^^^ rotr (at_ 14) 8 ^^^ (at_ 14 >>> 7)
  let s1 := rotr (at_ 1) 19 ^^^ rotr (at_ 1) 61 ^^^ (at_ 1 >>> 6)
  (at_ 15 + s0 + at_ 6 + s1) :: l

/-- One round on the eight working words. -/
def shaRound (v : List Word) (x : Word × Word) : List Word :=
  match v with
  | [a, b, c, d, e, f, g, h] =>
    let s1 := rotr e 14 ^^^ rotr e 18 ^^^ rotr e 41
    let t1 := h + s1 + ((e &&& f) ^^^ (~~~e &&& g)) + x.1 + x.2
    let s0 := rotr a 28 ^^^ rotr a 34 ^^^ rotr a 39
    [t1 + s0 + ((a &&& b) ^^^ (a &&& c) ^^^ (b &&& c)), a, b, c, d + t1, e, f, g]
  | _ => v

/-- A block of 16 words, in order. -/
def shaBlock (h : List Word) (m : List Word) : List Word :=
  let w := ((upto 64).foldl (fun l _ => shaExpand l) m.reverse).reverse
  let v := ((shaK.map natWord).zip w).foldl shaRound h
  (h.zip v).map fun p => p.1 + p.2

/-- A big-endian word of 8 bytes. -/
def beWord (l : List Byte) : Word := natWord (leNat l.reverse)

/-- The message padded to blocks of 128 bytes. -/
def shaPad (l : List Byte) : List Byte :=
  let n := l.length
  l ++ [0x80] ++ List.replicate ((239 - n % 128) % 128) 0 ++ (leBytes 16 (8 * n)).reverse

/-- SHA-384 of some bytes: byte 0 of the digest in its low bits. -/
def sha384 (l : List Byte) : BitVec 384 :=
  let p := shaPad l
  let h := (upto (p.length / 128)).foldl (fun h i =>
    shaBlock h ((upto 16).map fun j => beWord ((p.drop (128 * i + 8 * j)).take 8)))
    (shaH.map natWord)
  BitVec.ofNat 384 (leNat ((h.take 6).flatMap fun x => (leBytes 8 x.toNat).reverse))

/-! ## AES-256 -/

/-- Multiplication by x in the field of 256 elements. -/
def xtime (b : Byte) : Byte := (b <<< 1) ^^^ if b.msb then 0x1B else 0

/-- Multiplication in the field. -/
def gmul (a b : Byte) : Byte :=
  ((upto 8).foldl (fun (q : Byte × Byte) i =>
    (if b.getLsbD i then q.1 ^^^ q.2 else q.1, xtime q.2)) (0, a)).1

/-- The inverse in the field, 0 for 0: the 254th power. -/
def ginv (a : Byte) : Byte :=
  ((upto 7).foldl (fun (q : Byte × Byte) _ =>
    let s := gmul q.2 q.2
    (gmul q.1 s, s)) (1, a)).1

def aesSub (a : Byte) : Byte :=
  let x := ginv a
  x ^^^ x.rotateLeft 1 ^^^ x.rotateLeft 2 ^^^ x.rotateLeft 3 ^^^ x.rotateLeft 4 ^^^ 0x63

def aesUnsub (a : Byte) : Byte :=
  ginv (a.rotateLeft 1 ^^^ a.rotateLeft 3 ^^^ a.rotateLeft 6 ^^^ 0x05)

def xorBytes (a b : List Byte) : List Byte := (a.zip b).map fun p => p.1 ^^^ p.2

/-- The round constant of the i-th eighth word. -/
def aesRcon (i : Nat) : Byte := (upto i).foldl (fun b _ => xtime b) 1

/-- Word i of the key schedule; the newest word stands first. -/
def aesNextWord (l : List (List Byte)) (i : Nat) : List (List Byte) :=
  let prev := l.getD 0 []
  let t :=
    if i % 8 = 0 then
      xorBytes ((prev.drop 1 ++ prev.take 1).map aesSub) [aesRcon (i / 8 - 1), 0, 0, 0]
    else if i % 8 = 4 then prev.map aesSub
    else prev
  xorBytes (l.getD 7 []) t :: l

/-- The 15 round keys of a key of 32 bytes. -/
def aesKeys (key : BitVec 256) : List (List Byte) :=
  let b := leBytes 32 key.toNat
  let w := ((upto 52 8).foldl aesNextWord
    ((upto 8).map fun i => (b.drop (4 * i)).take 4).reverse).reverse
  (upto 15).map fun i => ((w.drop (4 * i)).take 4).flatten

/-- Row r of column c moves left by r columns, or back. -/
def aesShift (l : List Byte) (n : Nat) : List Byte :=
  (upto 16).map fun i => l.getD ((i / 4 + n * (i % 4)) % 4 * 4 + i % 4) 0

/-- Each column times a circulant matrix. -/
def aesMix (row : List Byte) (l : List Byte) : List Byte :=
  (upto 16).map fun i =>
    (upto 4).foldl (fun b j => b ^^^ gmul (row.getD ((j + 4 - i % 4) % 4) 0) (l.getD (i / 4 * 4 + j) 0)) 0

/-- The cipher on 16 bytes. -/
def aesEnc (key : BitVec 256) (l : List Byte) : List Byte :=
  let ks := aesKeys key
  let l := (upto 13 1).foldl (fun l i =>
    xorBytes (aesMix [2, 3, 1, 1] (aesShift (l.map aesSub) 1)) (ks.getD i []))
    (xorBytes l (ks.getD 0 []))
  xorBytes (aesShift (l.map aesSub) 1) (ks.getD 14 [])

/-- The inverse cipher. -/
def aesDec (key : BitVec 256) (l : List Byte) : List Byte :=
  let ks := aesKeys key
  let l := (upto 13).foldl (fun l i =>
    aesMix [14, 11, 13, 9] (xorBytes ((aesShift l 3).map aesUnsub) (ks.getD (13 - i) [])))
    (xorBytes l (ks.getD 14 []))
  xorBytes ((aesShift l 3).map aesUnsub) (ks.getD 0 [])

/-! ## AES-XTS-256 on a 32 B sector (R412) -/

/-- The tweak times x in the field of 2^128 elements. -/
def xtsDouble (t : BitVec 128) : BitVec 128 := (t <<< 1) ^^^ if t.msb then 0x87 else 0

/-- R412: the tweak of a sector's first block: its physical address under the tweak key. -/
def xtsTweak (pair : BitVec 512) (sec : Nat) : BitVec 128 :=
  BitVec.ofNat 128 (leNat (aesEnc (pair.truncate 256) (leBytes 16 (32 * sec))))

/-- A sector through a cipher, block by block. `pair` is KEY1 above KEY2. -/
def xtsSector (f : BitVec 256 → List Byte → List Byte) (pair : BitVec 512) (sec : Nat)
    (l : List Byte) : List Byte :=
  let t := xtsTweak pair sec
  [(t, l.take 16), (xtsDouble t, l.drop 16)].flatMap fun p =>
    let m := leBytes 16 p.1.toNat
    xorBytes (f (pair.extractLsb' 256 256) (xorBytes p.2 m)) m

def xtsEnc (pair : BitVec 512) (sec : Nat) (l : List Byte) : List Byte := xtsSector aesEnc pair sec l

def xtsDec (pair : BitVec 512) (sec : Nat) (l : List Byte) : List Byte := xtsSector aesDec pair sec l

end Sys2Proof.Machine
end

