-- ==== Sys2Proof/Machine/Operands.lean ====
section
/-!
DEFINITION. Operand forms: reading and writing a group's registers, the write in flight and the
pending register, the lanes an operand reads, and the register checks of an instruction word.
-/

namespace Sys2Proof.Machine

/-! ## Registers of a group -/

/-- R54: whether a register number names a banked register while the group is in its handler. -/
def Group.banked (g : Group) (k : RegKind) (r : Nat) : Bool :=
  g.inHandler &&
    match k with
    | .scalar => decide (56 ≤ r)
    | .mask => decide (6 ≤ r)
    | _ => false

/-- A scalar register as it stands (R42, R54). -/
def Group.s (g : Group) (r : Nat) : Word :=
  if g.banked .scalar r then tget 0 r g.hsreg else tget 0 r g.sreg

/-- A mask register as it stands (R46, R54). -/
def Group.m (g : Group) (r : Nat) : Word :=
  if g.banked .mask r then tget 0 r g.hmreg else tget 0 r g.mreg

/-- R89: a mask field names m0 to m7, or EXEC. -/
def Group.mf (g : Group) (r : Nat) : Word := if r = 8 then g.exec else g.m r

/-- One lane of a vector register as it stands (R44). -/
def Group.v (g : Group) (r l : Nat) : Lane := tget 0 (64 * r + l) g.vreg

/-- R44: a 64-bit lane value of a pair. -/
def Group.v64 (g : Group) (r l : Nat) : Word := g.v (r + 1) l ++ g.v r l

/-- FMT of the bank in use (R54). -/
def Group.format (g : Group) : BitVec 32 := if g.inHandler then g.hfmt else g.fmt

/-- Write FMT of the bank in use. -/
def Group.setFormat (g : Group) (f : BitVec 32) : Group :=
  if g.inHandler then { g with hfmt := f } else { g with fmt := f }

/-- Bit `l` of a mask. -/
def bit (x : Word) (l : Nat) : Bool := x.getLsbD l

/-- The set lanes of a mask, ascending. -/
def lanesOf (x : Word) : List Nat := (upto 64).filter (bit x)

/-- A mask from a lane test. -/
def maskOf (f : Nat → Bool) : Word :=
  BitVec.ofNat 64 ((upto 64).foldl (fun n l => if f l then n + 2 ^ l else n) 0)

/-- The lowest `n` lanes. -/
def lowLanes (n : Nat) : Word := BitVec.ofNat 64 (2 ^ n - 1)

/-- R46: what a mask write keeps. -/
def Group.clip (g : Group) (x : Word) : Word := x &&& g.live

/-- The poison key of a scalar register. -/
def scalKey (bank : Bool) (r : Nat) : Nat := (if bank then 4160 else 4096) + r

/-- Write bits of a scalar register; it is no longer poisoned. -/
def Group.setS (g : Group) (bank : Bool) (r : Nat) (lanes val : Word) : Group :=
  let old := if bank then tget 0 r g.hsreg else tget 0 r g.sreg
  let new := (old &&& ~~~lanes) ||| (val &&& lanes)
  let g := { g with poison := tdel (scalKey bank r) g.poison }
  if bank then { g with hsreg := tput 0 r new g.hsreg } else { g with sreg := tput 0 r new g.sreg }

/-- Write bits of a mask register, cleared under R46. -/
def Group.setM (g : Group) (bank : Bool) (r : Nat) (lanes val : Word) : Group :=
  let old := if bank then tget 0 r g.hmreg else tget 0 r g.mreg
  let new := g.clip ((old &&& ~~~lanes) ||| (val &&& lanes))
  if bank then { g with hmreg := tput 0 r new g.hmreg } else { g with mreg := tput 0 r new g.mreg }

/-- Write one lane of a vector register; a written lane is no longer poisoned (R209). -/
def Group.setV1 (g : Group) (r l : Nat) (x : Lane) : Group :=
  { g with vreg := tput 0 (64 * r + l) x g.vreg, poison := tdel (64 * r + l) g.poison }

/-- Write the chosen lanes of a vector register. -/
def Group.setV (g : Group) (r : Nat) (lanes : Word) (x : Nat → Lane) : Group :=
  (lanesOf lanes).foldl (fun g l => g.setV1 r l (x l)) g

/-- R35, R135: lanes leave LIVE, EXEC, every mask and every mask-stack entry. -/
def Group.dropLanes (g : Group) (x : Word) : Group :=
  { g with
    live := g.live &&& ~~~x, exec := g.exec &&& ~~~x
    mreg := g.mreg.filterMap fun p =>
      if p.2 &&& ~~~x = 0 then none else some (p.1, p.2 &&& ~~~x)
    hmreg := g.hmreg.filterMap fun p =>
      if p.2 &&& ~~~x = 0 then none else some (p.1, p.2 &&& ~~~x)
    stack := g.stack.map fun e => { e with sexec := e.sexec &&& ~~~x, pend := e.pend &&& ~~~x } }

/-- Let a fixed-latency write take its register (R101, R104). -/
def Group.land1 (g : Group) (f : Flight) : Group :=
  match f.kind with
  | .scalar => g.setS f.bank f.reg f.lanes f.val
  | .mask => g.setM f.bank f.reg f.lanes f.val
  | .vector => g.setV f.reg f.lanes fun l => tget 0 l f.vec
  | .flags =>
    { g with
      sfl := (g.sfl &&& ~~~(f.lanes.truncate 4)) ||| (f.val.truncate 4 &&& f.lanes.truncate 4) }

/-- R101: a write in flight is cancelled, lane by lane, by a later write to the same register. -/
def Group.cancel (g : Group) (k : RegKind) (r : Nat) (bank : Bool) (lanes : Word) : Group :=
  { g with
    flights := (g.flights.map fun f =>
      if f.kind = k ∧ f.reg = r ∧ f.bank = bank then { f with lanes := f.lanes &&& ~~~lanes }
      else f).filter fun f => decide (f.lanes ≠ 0) }

/-- Put a fixed-latency write in flight with latency `L`. -/
def Group.fly (g : Group) (L : Nat) (k : RegKind) (r : Nat) (lanes val : Word) (vec : Tab Lane) :
    Group :=
  let bank := g.banked k r
  let g := g.cancel k r bank lanes
  if lanes = 0 then g
  else { g with flights := g.flights ++ [{ kind := k, reg := r, bank, lanes, left := L, val, vec }] }

/-- A fixed-latency write of a whole scalar register. -/
def Group.flyS (g : Group) (L r : Nat) (val : Word) : Group :=
  g.fly L .scalar r (BitVec.allOnes 64) val []

/-- A fixed-latency write of chosen bits of a mask register. -/
def Group.flyM (g : Group) (L r : Nat) (lanes val : Word) : Group := g.fly L .mask r lanes val []

/-- A fixed-latency write of all four SFL fields (R121). -/
def Group.flyF (g : Group) (L : Nat) (val : BitVec 4) : Group :=
  g.fly L .flags 0 15 (val.zeroExtend 64) []

/-- A fixed-latency write of chosen lanes of a vector register. -/
def Group.flyV (g : Group) (L r : Nat) (lanes : Word) (x : Nat → Lane) : Group :=
  g.fly L .vector r lanes 0 ((lanesOf lanes).map fun l => (l, x l))

/-- A fixed-latency write of chosen lanes of a pair. -/
def Group.flyV64 (g : Group) (L r : Nat) (lanes : Word) (x : Nat → Word) : Group :=
  (g.flyV L r lanes fun l => (x l).truncate 32).flyV L (r + 1) lanes fun l =>
    (x l).extractLsb' 32 32

/-- R101: age the writes in flight by one instruction's step; those that become visible take
their registers, oldest first. -/
def Group.age (g : Group) (step : Nat) : Group :=
  let fl := g.flights.map fun f => { f with left := f.left - step }
  (fl.filter fun f => f.left = 0).foldl Group.land1
    { g with flights := fl.filter fun f => decide (f.left ≠ 0) }

/-- R106: mark a register pending on an operation. An earlier write in flight to the same lanes is
cancelled by this later write (R101). -/
def Group.await (g : Group) (k : RegKind) (r : Nat) (lanes : Word) (op : Nat) : Group :=
  let bank := g.banked k r
  let g := g.cancel k r bank lanes
  { g with pend := g.pend ++ [{ kind := k, reg := r, bank, lanes, op }] }

/-- The registers of an operation are no longer pending. -/
def Group.unpend (g : Group) (op : Nat) : Group :=
  { g with pend := g.pend.filter fun p => decide (p.op ≠ op) }

/-! ## What an instruction reads and writes -/

/-- One register an instruction reads or writes, with the lanes it reads (R103). -/
structure Use where
  kind : RegKind
  reg : Nat
  lanes : Word

/-- The requirements of an instruction that are checked before it acts (R96, R103, R106). -/
structure Need where
  /-- Reason 3: every code field is defined. -/
  codes : Bool := true
  /-- Reason 5: registers below V, pairs, mask codes and runs. -/
  regs : Bool := true
  /-- Reason 6: admitted in the group's context, by the word and the group alone. -/
  ctx : Bool := true
  reads : List Use := []
  writes : List Use := []

def allLanes : Word := BitVec.allOnes 64

def useS (r : Nat) : Use := { kind := .scalar, reg := r, lanes := allLanes }
def useM (r : Nat) : Use := { kind := .mask, reg := r, lanes := allLanes }
def useF : Use := { kind := .flags, reg := 0, lanes := allLanes }
/-- A vector source of an elementwise instruction: the active lanes (R103). -/
def useV (g : Group) (r : Nat) : Use := { kind := .vector, reg := r, lanes := g.exec }
/-- A vector source read in every live lane (R103). -/
def useVL (g : Group) (r : Nat) : Use := { kind := .vector, reg := r, lanes := g.live }
def useV64 (g : Group) (r : Nat) : List Use := [useV g r, useV g (r + 1)]
/-- A mask field read as a whole: EXEC is read at issue (R138). -/
def useMf (r : Nat) : List Use := if r = 8 then [] else [useM r]

/-- R26, R44, R55: a vector register the group can name. In a routine, numbers 61 to 63 name c0 to
c2. -/
def Group.hasV (g : Group) (r : Nat) : Bool :=
  decide (r < g.nv) || (decide (g.kind = .run) && decide (61 ≤ r) && decide (r ≤ 63))

/-- R44: an even-odd pair below V. -/
def Group.hasPair (g : Group) (r : Nat) : Bool := decide (r % 2 = 0) && decide (r + 1 < g.nv)

/-- R207: a quad: a multiple of 4, with its last register below V. -/
def Group.hasQuad (g : Group) (r : Nat) : Bool := decide (r % 4 = 0) && decide (r + 3 < g.nv)

/-- R89: a mask field code. -/
def maskCode (r : Nat) : Bool := decide (r ≤ 8)

/-- R89: a run of `n` scalars from `r`. -/
def scalarRun (r n : Nat) : Bool := decide (r + n ≤ 64)

/-- The writes in flight that a use reads. -/
def Group.flightOn (g : Group) (u : Use) : Bool :=
  g.flights.any fun f =>
    decide (f.kind = u.kind) && decide (f.reg = u.reg) &&
      decide (f.bank = g.banked u.kind u.reg) && decide (f.lanes &&& u.lanes ≠ 0)

/-- The pending operation that a use touches, if any. -/
def Group.pendOn (g : Group) (u : Use) : Option Nat :=
  (g.pend.find? fun p =>
    decide (p.kind = u.kind) && decide (p.reg = u.reg) &&
      decide (p.bank = g.banked u.kind u.reg)).map (·.op)

/-- R103: EINFO of a stall-check trap: field code and kind. -/
def Use.info (u : Use) : Word :=
  BitVec.ofNat 64 (u.reg % 64 + 64 * (match u.kind with
    | .scalar => 0 | .vector => 1 | .mask => 2 | .flags => 3))

/-- R224: the deferred destination that a use touches. -/
def Group.deferOn (g : Group) (u : Use) : Bool :=
  decide (u.kind = .vector) && g.deferred.any fun d =>
    decide (d.reg = u.reg) || (d.wide && decide (d.reg + 1 = u.reg))

/-- R256: a register that the matrix engine still reads. -/
def Group.lockedOn (g : Group) (u : Use) : Bool :=
  decide (u.kind = .vector) && g.locked.any fun d => decide (d.1 = u.reg)

/-- R209: the poisoned lanes that a use reads. -/
def Group.poisonOn (g : Group) (u : Use) : Word :=
  if u.kind = .vector then
    maskOf fun l => bit u.lanes l && (tfind (64 * u.reg + l) g.poison).isSome
  else 0

/-- The load address of poisoned data that a use reads, and the lanes that ELANES names. -/
def Group.poisoned (g : Group) (u : Use) : Option (Nat × Word) :=
  match u.kind with
  | .scalar =>
    (tfind (scalKey (g.banked .scalar u.reg) u.reg) g.poison).map fun a => (a, 0)
  | .vector =>
    let bad := g.poisonOn u
    match lanesOf bad with
    | l :: _ => (tfind (64 * u.reg + l) g.poison).map fun a => (a, bad)
    | [] => none
  | _ => none

/-- Sign extension and zero extension to 64 bits. -/
def sext64 {n : Nat} (x : BitVec n) : Word := x.signExtend 64
def zext64 {n : Nat} (x : BitVec n) : Word := x.zeroExtend 64

end Sys2Proof.Machine
end

