-- ==== Sys2Proof/Machine/Flags.lean ====
section
/-!
DEFINITION. The flag computations: SFL of adds, subtracts and compares (R121), the branch tests
over it (R95), and the sticky flags FLG with their trap enables (R50, R74).
-/

namespace Sys2Proof.Machine

/-- SFL from its four fields: Z is bit 0, N bit 1, C bit 2, V bit 3 (R43). -/
def mkSfl (z n c v : Bool) : BitVec 4 :=
  BitVec.ofNat 4 ((if z then 1 else 0) + (if n then 2 else 0) + (if c then 4 else 0) +
    (if v then 8 else 0))

def sflZ (f : BitVec 4) : Bool := f.getLsbD 0
def sflN (f : BitVec 4) : Bool := f.getLsbD 1
def sflC (f : BitVec 4) : Bool := f.getLsbD 2
def sflV (f : BitVec 4) : Bool := f.getLsbD 3

/-- R121: the flags of x + y + carry, where a subtract passes NOT b and carry 1. -/
def sumFlags (x y : Word) (cin : Bool) : BitVec 4 :=
  let s := x.toNat + y.toNat + (if cin then 1 else 0)
  let res : Word := BitVec.ofNat 64 s
  mkSfl (res = 0) res.msb (2 ^ 64 ≤ s) (x.msb == y.msb && res.msb != x.msb)

def addFlags (a b : Word) : BitVec 4 := sumFlags a b false
def subFlags (a b : Word) : BitVec 4 := sumFlags a (~~~b) true

/-- R95: the tests of BR. -/
def condHolds (c : Nat) (g : Group) : Bool :=
  let f := g.sfl
  match c with
  | 0 => true
  | 1 => sflZ f
  | 2 => !sflZ f
  | 3 => sflN f != sflV f
  | 4 => sflN f == sflV f
  | 5 => sflZ f || sflN f != sflV f
  | 6 => !sflZ f && sflN f == sflV f
  | 7 => !sflC f
  | 8 => sflC f
  | 9 => !sflC f || sflZ f
  | 10 => sflC f && !sflZ f
  | 11 => sflN f
  | 12 => !sflN f
  | 13 => sflV f
  | 14 => !sflV f
  | 16 => g.exec = 0
  | 17 => g.exec ≠ 0
  | 18 => g.exec = g.live
  | _ => g.m (c - 24) = 0

/-- What a condition reads (R101, R102). -/
def condReads (c : Nat) : List Use :=
  if c = 0 then [] else if c ≤ 14 then [useF] else if c ≤ 18 then [] else [useM (c - 24)]

/-- Sticky flag bits of FLG (R50). -/
def flNV : BitVec 7 := 1
def flDZ : BitVec 7 := 2
def flOF : BitVec 7 := 4
def flUF : BitVec 7 := 8
def flNX : BitVec 7 := 16
def flIDZ : BitVec 7 := 32
def flIOV : BitVec 7 := 64

/-- R48: the trap enables, in the order of the FLG bits. -/
def fmtEnables (f : BitVec 32) : BitVec 7 := f.extractLsb' 5 7

/-- R48: vector rounding and conversion rounding. Modes: 0 RNE, 1 RTZ, 2 RUP, 3 RDN, 4 RNA. -/
def fmtRM (f : BitVec 32) : Nat := (f.extractLsb' 0 2).toNat

def fmtCRM (f : BitVec 32) : Nat :=
  match (f.extractLsb' 2 3).toNat with
  | 0 => fmtRM f
  | 1 => 0
  | 2 => 1
  | 3 => 2
  | 4 => 3
  | _ => 4

def fmtAFMT (f : BitVec 32) : Nat := (f.extractLsb' 12 3).toNat
def fmtBFMT (f : BitVec 32) : Nat := (f.extractLsb' 15 3).toNat
def fmtACC (f : BitVec 32) : Bool := f.getLsbD 18
def fmtSCM (f : BitVec 32) : Nat := (f.extractLsb' 19 2).toNat

/-- R49: a value that a write to FMT refuses. -/
def fmtRefused (f : BitVec 32) : Bool :=
  decide (5 < (f.extractLsb' 2 3).toNat) || decide (5 < fmtAFMT f) || decide (5 < fmtBFMT f) ||
    decide (f.extractLsb' 21 11 ≠ 0)

/-- The lowest set bit of a flag set. -/
def lowFlag (f : BitVec 7) : Nat := ((upto 7).find? fun i => f.getLsbD i).getD 0

end Sys2Proof.Machine
end

