-- ==== Sys2Proof/Machine/Ops.lean ====
section
/-!
DEFINITION. The shared operations of every instruction: power debits, parking and return, the
supervisor event queue, stopping a team, taking a trap and returning from one, and the issue
pipeline with its three stages of checks (R96).
-/

namespace Sys2Proof.Machine

/-! ## Power (R316, R317) -/

/-- R320: the target of a ramp in progress; it begins in the master cycle after its request. -/
def Cluster.ramp (k : Cluster) (tempo : Nat) : Option Nat :=
  if k.rampEnd ≤ tempo + 2400 then k.target else none

/-- R317: a weight at the ratio in force; during a ramp the higher of the two. -/
def ratioWeight (k : Cluster) (tempo w : Nat) : Nat :=
  match max k.ratio ((k.ramp tempo).getD k.ratio) with
  | 0 => w * 25 / 36
  | 1 => w
  | _ => w * 51 / 36

/-- R316, R317: debit a weight from the power allowance of a core's cluster. -/
def Work.debit (w : Work) (c wt : Nat) : Work :=
  if wt = 0 then w
  else w.modCluster (Config.clusterOf c) fun k => { k with pacnt := k.pacnt - ratioWeight k w.tempo wt }

/-- R317: debit a weight for each of `n` items. -/
def Work.debits (w : Work) (c n wt : Nat) : Work :=
  if n = 0 then w
  else w.modCluster (Config.clusterOf c) fun k => { k with pacnt := k.pacnt - n * ratioWeight k w.tempo wt }

/-! ## Idle clusters (R321, R323) -/

/-- R321: no core of the cluster has issued a user instruction in the last 2 400 master cycles. -/
def Work.idle (w : Work) (cl : Nat) : Bool :=
  match (w.cluster cl).lastUser with
  | none => true
  | some t => decide (2400 ≤ w.tempo - t)

/-- R321: a request for admission joins the die's queue in ascending key among the requests of one
cycle; a cluster already queued joins once. -/
def Work.slewRequest (w : Work) (cl key : Nat) : Work :=
  w.modDie (cl / 12) fun d =>
    if d.slewq.any fun e => decide (e.2 = cl) then d
    else { d with
      slewq := insBy (fun a b => decide (a.1 ≤ b.1)) (16 * w.tempo + key, cl) d.slewq }

/-- An event makes a group able to run: in an idle cluster it first asks for admission. -/
def Work.gate (w : Work) (c slot key : Nat) : Work :=
  let cl := Config.clusterOf c
  if w.idle cl then (w.modGrp c slot fun g => { g with slewed := true }).slewRequest cl key else w

/-! ## Parking and return (R18) -/

/-- A group leaves the ready state (R36, R314). -/
def Group.unready (g : Group) : Group := { g with since := none, opps := 0, promo := none }

/-- Park a group: it gives up its issue entry; the supervisor keeps its own (R17, R18). -/
def Group.park (g : Group) (wt : Wait) : Group :=
  { g.unready with
    wait := wt, parked := decide (g.kind ≠ .supervisor)
    entry := decide (g.kind = .supervisor) }

/-- The event that a parked group waits for returns: it joins the order for free entries. In an
idle cluster the request for admission has a key (R321). It issues from core cycle `from_` on. -/
def Work.returnAt (w : Work) (c slot key from_ : Nat) (f : Group → Group) : Work :=
  match w.grp c slot with
  | none => w
  | some g =>
    let g' := f g
    let w := w.setGrp c slot { g' with wait := .none, readyAt := max g'.readyAt from_ }
    let w :=
      if g.parked then
        w.modCore c fun k =>
          if k.returned.contains slot then k else { k with returned := k.returned ++ [slot] }
      else w
    w.gate c slot key

/-- An event from outside the group returns: it issues from this core cycle on, for which a turn two core
cycles later stands (log 10). What a takeback holds takes effect when issue resumes (R342). -/
def Work.returnKey (w : Work) (c slot key : Nat) (f : Group → Group) : Work :=
  w.returnAt c slot key (max (w.core c).cycle (w.core c).caughtTo + 2) f

/-- The same, for a return that is no grid-barrier release. -/
def Work.return_ (w : Work) (c slot : Nat) (f : Group → Group) : Work :=
  w.returnKey c slot (Config.clusterOf c % 12) f

/-- R134: the named counters are at or below the threshold. -/
def waitMet (gr : Group) (c : BitVec 5) (n : Nat) : Bool :=
  (!c.getLsbD 0 || decide (gr.lc ≤ n)) && (!c.getLsbD 1 || decide (gr.sc ≤ n)) &&
    (!c.getLsbD 2 || decide (gr.tc ≤ n)) && (!c.getLsbD 3 || decide (gr.mc ≤ n)) &&
    (!c.getLsbD 4 || decide (gr.xc ≤ n))

/-- Issue entries in use. -/
def Core.entriesUsed (k : Core) : Nat := (k.groups.filter fun p => p.2.entry).length

/-! ## Supervisor events (R331) -/

/-- R331: an event goes before another: earlier core cycle, then ascending kind, then slot. -/
def Event.before (a b : Event) : Bool :=
  decide (a.cyc < b.cyc) ||
    (decide (a.cyc = b.cyc) &&
      (decide (a.kind < b.kind) || (decide (a.kind = b.kind) && decide (a.slot < b.slot))))

/-- R331: an event enters the queue, or is held while the queue is full. -/
def Work.supEvent (w : Work) (c kind slot record cause : Nat) (detail : Word) : Work :=
  w.modCore c fun k =>
    let e : Event := { kind, slot, record, cause, detail, cyc := k.cycle }
    if k.evq.length < 64 then { k with evq := insBy (fun a b => !b.before a) e k.evq }
    else { k with evHeld := k.evHeld ++ [e] }

/-- R331: a removed event makes room for the oldest held one. -/
def Core.refillEvents (k : Core) : Core :=
  match k.evHeld with
  | e :: t => if k.evq.length < 64 then { k with evq := k.evq ++ [e], evHeld := t } else k
  | [] => k

/-- The event word of MBPOP. -/
def Event.word (e : Event) : Word :=
  BitVec.ofNat 64 (e.kind % 256 + e.slot % 64 * 2 ^ 8 + e.record % 16 * 2 ^ 14 +
    e.cause % 256 * 2 ^ 18)

/-! ## Uncorrectable errors (R62, R391, R415, log 32) -/

/-- R388: REPCTL.MODE: 0 record, 1 replay, 2 unlogged. -/
def Work.repMode (w : Work) : Nat := field w.obs.repctl 1 0

/-- R391: a divergence event; its location is a free value. DIVACT may freeze after this edge. -/
def Work.diverge (w : Work) (kind : Nat) : Work :=
  let q := w.drawObs
  let w := q.2
  let o := w.obs
  { w with obs := { o with
    divlog := tput (0, 0) o.divNext
      (natWord w.tempo, natWord (kind % 256 + q.1.toNat % 2 ^ 56 * 256)) o.divlog
    divNext := (o.divNext + 1) % 8, freezeDue := o.freezeDue || o.repctl.getLsbD 2 } }

/-- R415: an entry of ERRLOG; in replay an uncorrectable error is a divergence (R391). -/
def Work.logError (w : Work) (unit : Nat) (unc : Bool) (where_ addr bit : Nat) : Work :=
  let e : BitVec 192 := BitVec.ofNat 192 (w.tempo % 2 ^ 64 + unit % 256 * 2 ^ 64 +
    (if unc then 2 ^ 72 else 0) + where_ % 1024 * 2 ^ 73 + addr % 2 ^ 52 * 2 ^ 128 +
    bit % 4096 * 2 ^ 180)
  let w := if unc && decide (w.repMode = 1) then w.diverge 4 else w
  { w with
    errlog := tins w.errNext e w.errlog, errNext := (w.errNext + 1) % 256
    errCount := w.errCount + 1 }

/-- R62: the first of some rows of an array that holds an uncorrectable error. -/
def Core.upsetRow (k : Core) (unit : Nat) (rows : List Nat) : Option Nat :=
  rows.find? fun a => k.upset.contains (unit, a)

/-- R62: a row of an array holds an uncorrectable error from now on. -/
def Core.spoil (k : Core) (unit a : Nat) : Core :=
  { k with upset := (unit, a) :: k.upset.filter fun x => decide (x ≠ (unit, a)) }

/-- R62: a row of the register pool: 64 × slot + register. Every lane of the register is lost until it is
written (log 32). -/
def Core.spoilRow (k : Core) (row : Nat) : Core :=
  { k with
    groups := tmod (row / 64) (fun g =>
      { g with
        poison := (upto g.width).foldl (fun t l => tins (64 * (row % 64) + l) (2 ^ 52 + row) t) g.poison })
      k.groups }

/-- R62, log 32: an uncorrectable error appears in an array of a core. -/
def Core.upsetAt (k : Core) (unit row : Nat) : Core :=
  if unit = 1 then k.spoilRow row else k.spoil unit row

/-- R62: a row of an array is written: its error is gone. -/
def Core.mend (k : Core) (unit a : Nat) : Core :=
  { k with upset := k.upset.filter fun x => decide (x ≠ (unit, a)) }

/-! ## Stopping a team (R329, R330), quarantine (R350) -/

/-- R330, R352: a halt broadcast from core `c` reaches the groups of a team: 2 core cycles later on
the same core, 8 on the twin partner. A group already stopped, or reached, is not affected; of two
broadcasts under way the earlier arrives first. -/
def Work.haltTeam (w : Work) (t : Team) (c : Nat) (skip : Option (Nat × Nat)) : Work :=
  (w.members t fun _ => true).foldl (fun w m =>
    if skip = some m then w
    else
      w.modGrp m.1 m.2 fun g =>
        if g.stopped || g.haltAt.isSome then g
        else
          let t := (w.core m.1).cycle + if m.1 = c then 2 else 8
          { g with haltDue := some ((g.haltDue.map (min t)).getD t) }) w

/-- R350: quarantine a core. -/
def Work.quarantine (w : Work) (c : Nat) : Work :=
  let w := w.modCore c fun k =>
    { k with mgn := { k.mgn with quar := true, safe := true }, good := false }
  w.supEvent (Config.partner c) 8 0 0 0 (BitVec.ofNat 64 c)

/-- R329: the team of the group stops with a cause. The group itself is already stopped. -/
def Work.stopTeam (w : Work) (c slot : Nat) (g : Group) (cause : Nat) (detail : Word) : Work :=
  match g.kind with
  | .supervisor => { w.quarantine c with supFault := tins c cause w.supFault }
  | .handlerCore => w.supEvent c 3 slot 0 cause detail
  | _ =>
    let w := w.modTeam g.launch g.lin fun t => { t with stop := some cause }
    let w :=
      match w.team g.launch g.lin with
      | some t => w.haltTeam t c (some (c, slot))
      | none => w
    w.supEvent c 3 slot 0 cause detail

/-! ## Traps (R325 to R328) -/

/-- The trap entry of a group's team; 0 when none is registered (R326). -/
def Work.tent (w : Work) (g : Group) : Pc :=
  match g.kind with
  | .user | .handlerTeam => ((w.team g.launch g.lin).map (·.tent)).getD 0
  | _ => 0

/-- The E-registers of a trap (R326); in-flight writes are recorded with the interrupted state
(R104). -/
def Group.saveTrap (g : Group) (cause : Nat) (info lanes : Word) : Group :=
  { g with
    epc := zext64 g.pc
    ecause := BitVec.ofNat 64 (cause % 256 + g.sfl.toNat * 256)
    eexec := g.exec, elanes := lanes, einfo := info
    savedFlights := g.flights, flights := [] }

/-- R326: enter the team's trap handler. -/
def Group.enterHandler (g : Group) (tent : Pc) (cycle : Nat) : Group :=
  { g.unready with
    inHandler := true, hfmt := 0, exec := g.live, hdepth := g.stack.length, pc := tent
    readyAt := cycle + 2, held := false, rel := none, half := 0, walked := [], raise := none
    wait := .none, left := none }

/-- A group stops where it stands (R328, R329). -/
def Group.stopAt (g : Group) (info : Word) : Group :=
  { g.unready with
    stopped := true, trapStop := true, hpc := g.pc, stopInfo := info, wait := .none, left := none
    held := false, rel := none, half := 0, walked := [], raise := none }

/-- R284, R298: lanes of a run leave their class: their context as it now stands. -/
def RunCtx.leave (r : RunCtx) (lanes : Word) (cpc : Nat) (st ref : Nat → Option Nat) : RunCtx :=
  let set := fun (t : Tab Nat) (f : Nat → Option Nat) =>
    (lanesOf lanes).foldl (fun t l =>
      match f l with
      | some v => tins l v t
      | none => t) t
  { r with
    cpc := set r.cpc fun _ => some cpc
    st := set r.st st, ref := set r.ref ref
    done := r.done ||| lanes }

/-- R270: the continuation point of an address. -/
def RunCtx.cpcOf (r : RunCtx) (pc : Pc) : Nat := (pc - BitVec.ofNat 52 (r.rbase + 4)).toNat / 2 % 2 ^ 16

/-- R284, R285: a trap in a sweep routine stops no group. The lanes it names, or the active lanes
when it names none, leave as faulted with the cause, at the trapping instruction. -/
def Group.routineFault (g : Group) (cause : Nat) (lanes : Word) : Group :=
  let bad := if lanes = 0 then g.exec else lanes &&& g.exec
  { (g.unready.dropLanes bad) with
    raise := none
    run := g.run.map fun r =>
      { (r.leave bad (r.cpcOf g.pc) (fun _ => some 4) fun _ => some cause) with
        budget := r.budget + 1 } }

/-- R326, R328, R329: a trap other than a replayable page fault, raised by the group in a slot at
its PC. -/
def Work.takeTrap (w : Work) (c slot : Nat) (g : Group) (cause : Nat) (info lanes : Word) : Work :=
  let cycle := (w.core c).cycle
  if g.kind = .run then w.setGrp c slot (g.routineFault cause lanes)
  else if g.inHandler then
    let g' := g.stopAt (BitVec.ofNat 64 cause)
    (w.setGrp c slot g').stopTeam c slot g' 0x1F (BitVec.ofNat 64 cause)
  else
    let g1 := g.saveTrap cause info lanes
    let tent := w.tent g
    if tent = 0 then
      let g' := g1.stopAt info
      (w.setGrp c slot g').stopTeam c slot g' cause info
    else w.setGrp c slot (g1.enterHandler tent cycle)

/-- R345, R347: the group stops its team, whatever its trap entry. What its trap handler interrupted
keeps its recorded writes. -/
def Work.stopNow (w : Work) (c slot : Nat) (g : Group) (cause : Nat) : Work :=
  let h := g.saveTrap cause 0 0
  let h := if g.inHandler then { h with savedFlights := g.savedFlights, flights := g.flights } else h
  let h := h.stopAt 0
  (w.setGrp c slot h).stopTeam c slot h cause 0

/-- R327, R104: what RTE restores. The recorded writes are reinstated after its own step; those of
the handler stay in flight. -/
def Group.returnFromTrap (g : Group) (step : Nat) : Group :=
  let h := g.cancel .flags 0 false allLanes
  { h with
    exec := g.clip g.eexec, sfl := g.ecause.extractLsb' 8 4, inHandler := false
    flights := (g.savedFlights.map fun f => { f with left := f.left + step }) ++ h.flights
    savedFlights := [] }

/-! ## The issue pipeline -/

/-- What the pipeline knows of an instruction: its word, its length, its step (R99), its debit
weight (R317). A parcel's word is zero-extended (R96). -/
structure Form where
  word : BitVec 32
  len : Nat
  step : Nat
  weight : Nat

/-- R99: the step of a 32-bit word; `L` is its class latency, if it has one. -/
def scodeStep (g : BitVec 2) (L : Option Nat) : Nat := if g = 3#2 then L.getD 3 else g.toNat + 1

/-- The form of a 32-bit word. -/
def wordForm (x : BitVec 32) (g : BitVec 2) (L : Option Nat) (weight : Nat) : Form :=
  { word := x, len := 4, step := scodeStep g L, weight }

/-- The form of a parcel (R91, R99). -/
def parcelForm (x : BitVec 16) (t : BitVec 1) (L : Nat) (weight : Nat) : Form :=
  { word := x.zeroExtend 32, len := 2, step := if t = 1#1 then L else 1, weight }

/-- What an instruction's own part answers. -/
inductive Res where
  /-- It issues; the next PC follows it. -/
  | done (w : Work) (g : Group)
  /-- It issues and transfers control. -/
  | jump (w : Work) (g : Group) (pc : Pc)
  /-- It raises a trap: cause, EINFO, ELANES. -/
  | trap (cause : Nat) (info lanes : Word)
  /-- It raises a trap and leaves a mark of its own, such as flags in FLG (R74). -/
  | trapWith (w : Work) (g : Group) (cause : Nat) (info lanes : Word)
  /-- R96: an illegal-instruction trap with a reason found from operand values. -/
  | illegal (reason : Nat)
  /-- It is held at issue, or parked: it executes again later. -/
  | hold (w : Work) (g : Group) (park : Option Wait)
  /-- It issues and waits, parked, for an event that completes it. -/
  | wait (w : Work) (g : Group) (wt : Wait)
  /-- It takes its issue slot and is held until an event completes it, parked if R18 names that
  event (R134). -/
  | await (w : Work) (g : Group) (wt : Wait) (park : Bool)
  /-- It issues and stops its team with a cause, no handler being entered (R345, R347). -/
  | halt (g : Group) (cause : Nat)

/-- R96: EINFO of an illegal-instruction trap. -/
def illegalInfo (x : BitVec 32) (reason : Nat) : Word :=
  BitVec.ofNat 64 (x.toNat + reason * 2 ^ 32)

/-- R330: an instruction issued after a halt broadcast arrived counts as skid. -/
def Group.countSkid (g : Group) : Group :=
  { g with
    skid := if g.haltAt.isSome then g.skid + 1 else g.skid
    hpc := if g.haltAt.isSome || g.stopped then g.pc else g.hpc }

/-- R17, R317, R321: what an issue uses: the quarters, an issue slot, power. -/
def Work.account (w : Work) (c slot : Nat) (g : Group) (wt : Nat) : Work :=
  let w := w.modCore c fun k =>
    { k with
      usedQ := k.usedQ ||| (2 ^ (g.width / 16) - 1) * 2 ^ g.qbase
      issued := k.issued ++ [slot] }
  let w :=
    if g.kind = .supervisor then w
    else w.modCluster (Config.clusterOf c) fun k => { k with lastUser := some w.tempo }
  w.debit c wt

/-- The group after an instruction of a step has issued: writes age, the step counts down, the
ready stretch and the promotion end (R36, R99, R101, R314). -/
def Group.after (g : Group) (step cycle : Nat) (pc : Pc) : Group :=
  ({ (g.age step).unready with
    pc := pc, lastPc := g.pc, readyAt := cycle + step, held := false, rel := none, half := 0
    walked := []
    wait := .none, left := none, run := g.run.map fun (r : RunCtx) => { r with budget := r.budget + 1 } }).countSkid

/-- Complete an instruction. -/
def finish (f : Form) (w : Work) (c slot : Nat) (g : Group) (pc : Pc) : Work :=
  (w.setGrp c slot (g.after f.step (w.core c).cycle pc)).account c slot g f.weight

/-- The PC after an instruction (R86). -/
def Group.nextPc (g : Group) (len : Nat) : Pc := g.pc + BitVec.ofNat 52 len

/-- A group held at issue tries again in the next core cycle; one that R18 names parks. -/
def holdGroup (w : Work) (c slot : Nat) (g : Group) (park : Option Wait) : Work :=
  let g := { g.unready with readyAt := (w.core c).cycle + 1, held := true }
  match park with
  | some wt => w.setGrp c slot (g.park wt)
  | none => w.setGrp c slot g

/-- Stage 2 of R96: operands. -/
inductive OpStage where
  | ok
  | trap (cause : Nat) (info lanes : Word)
  /-- R62: a row of the register pool that is read holds an uncorrectable error. -/
  | upset (row : Nat) (lanes : Word)
  | hold (park : Option Wait)

/-- R18: a hold on a load that missed in L1 parks the group. -/
def Work.missed (w : Work) (c op : Nat) : Bool :=
  match tfind op (w.core c).loads with
  | some l => l.missed
  | none => false

/-- R103, R106, R209, R224, R256: the checks on the registers an instruction reads and writes. Where
several fail alike, the trap names the first in operand order, a register read before one only
written: the rules give no order (DESIGN CHOICE, log 21). -/
def operandStage (w : Work) (c : Nat) (g : Group) (n : Need) : OpStage :=
  let both := n.reads ++ n.writes
  match both.find? g.deferOn with
  | some u => .trap 0x0C (BitVec.ofNat 64 (u.reg % 64)) 0
  | none =>
    let stall :=
      if g.chk then
        match n.reads.find? fun u => g.flightOn u || (g.pendOn u).isSome with
        | some u => some u
        | none => n.writes.find? fun u => (g.pendOn u).isSome || g.lockedOn u
      else none
    match stall with
    | some u => .trap 0x02 u.info 0
    | none =>
      let ops := both.filterMap g.pendOn
      if ops ≠ [] then .hold (if ops.any (w.missed c) then some (.load ops) else none)
      else if n.writes.any g.lockedOn then .hold none
      else
        match n.reads.findSome? g.poisoned with
        | some (a, bad) =>
          if a < 2 ^ 52 then .trap 0x0B (BitVec.ofNat 64 a) bad else .upset (a - 2 ^ 52) bad
        | none => .ok

/-- R102: flags of an earlier instruction not yet set: its flags land with it (R147). -/
def Work.flagsPending (w : Work) (c slot : Nat) : Bool :=
  (w.core c).xcs.any fun p => decide (p.2.slot = slot) && p.2.counted

/-- R147: a trap takes effect only after XC work already issued has landed; until then the group
is held at the trapping instruction, the trap to be raised. An instruction that traps takes its
quarters and one of the four issues of its cycle (R17), and debits nothing (log 21). -/
def raiseTrap (w : Work) (c slot : Nat) (g : Group) (cause : Nat) (info lanes : Word) : Work :=
  if w.flagsPending c slot then
    holdGroup w c slot { g with raise := some (cause, info, lanes) } none
  else (w.account c slot g 0).takeTrap c slot g cause info lanes

/-- R96: the three stages of checks, then the instruction's own part. -/
def issueGroup (f : Form) (need : Work → Group → Need) (body : Work → Nat → Nat → Group → Res)
    (w : Work) (c slot : Nat) (g : Group) : Work :=
  let n := need w g
  let ill := fun reason => raiseTrap w c slot g 0x01 (illegalInfo f.word reason) 0
  if !n.codes then ill 3
  else if !n.regs then ill 5
  else if !n.ctx then ill 6
  else
    match operandStage w c g n with
    | .trap cause info lanes => raiseTrap w c slot g cause info lanes
    | .upset row bad =>
      raiseTrap (w.logError 1 true c row 0) c slot g 0x0B (BitVec.ofNat 64 row) bad
    | .hold park => holdGroup w c slot g park
    | .ok =>
      match body w c slot g with
      | .done w g => finish f w c slot g (g.nextPc f.len)
      | .jump w g pc => finish f w c slot g pc
      | .trap cause info lanes => raiseTrap w c slot g cause info lanes
      | .trapWith w g cause info lanes => raiseTrap w c slot g cause info lanes
      | .illegal reason => ill reason
      | .hold w g park => holdGroup w c slot g park
      | .wait w g wt =>
        (w.setGrp c slot { g.park wt with
          wstep := f.step, lastPc := g.pc
          skid := if g.haltAt.isSome then g.skid + 1 else g.skid }).account c slot g f.weight
      | .await w g wt park =>
        let g' := if park then g.park wt else { g.unready with wait := wt }
        (w.setGrp c slot { g' with
          wstep := f.step, lastPc := g.pc, held := true
          readyAt := (w.core c).cycle + f.step }).account c slot g f.weight
      | .halt g' cause =>
        if w.flagsPending c slot then holdGroup w c slot g none
        else (w.account c slot g f.weight).stopNow c slot g' cause

/-- R62: a group reads rows of an array: with an uncorrectable error there, a precise data-error trap
that names the row. EINFO is the number of the row, byte or cell in the core's array, for the mask stack
32 × slot + depth, with no code of the unit: R62 says no more than the location (DESIGN CHOICE, log 36). -/
def Work.readRows (w : Work) (c : Nat) (g : Group) (unit : Nat) (rows : List Nat) (k : Res) : Res :=
  match (w.core c).upsetRow unit rows with
  | none => k
  | some a => .trapWith (w.logError unit true c a 0) g 0x0B (BitVec.ofNat 64 a) 0

/-- Issue an instruction for the group that `cur` names. -/
def issue (f : Form) (need : Work → Group → Need) (body : Work → Nat → Nat → Group → Res)
    (s : State) : Host.Outcome State Fault Refusal :=
  let w := s.work
  match w.grp s.cur.1 s.cur.2 with
  | none => .refused .noGroup
  | some g => .next (commit s (issueGroup f need body w s.cur.1 s.cur.2 g))

/-- An instruction whose effect lies in the group's own registers. -/
def issueLocal (f : Form) (need : Group → Need) (body : Group → Group) (s : State) :
    Host.Outcome State Fault Refusal :=
  issue f (fun _ g => need g) (fun w _ _ g => .done w (body g)) s

/-- The wait of an issued instruction ends: the group goes on after it (R18). -/
def Work.completeWait (w : Work) (c slot : Nat) (pc : Group → Pc) (f : Group → Group) : Work :=
  w.return_ c slot fun g =>
    let g := f g
    g.after g.wstep (w.core c).cycle (pc g)

/-- The completed instruction is a 32-bit word: the group goes on after it. -/
def Work.completeNext (w : Work) (c slot : Nat) (f : Group → Group) : Work :=
  w.completeWait c slot (fun g => g.nextPc 4) f

/-- R18, R134: a register of the group has landed, or a counter has fallen: a park on loads ends when
every operation it waited for has landed, and a WAIT in the cycle in which its condition holds. -/
def Work.settleWait (w : Work) (c slot : Nat) : Work :=
  match w.grp c slot with
  | none => w
  | some g =>
    match g.wait with
    | .load ops =>
      if g.pend.any fun p => ops.contains p.op then w
      else w.returnAt c slot (Config.clusterOf c % 12) 0 id
    | .counters mask n =>
      if waitMet g mask n then
        w.returnAt c slot (Config.clusterOf c % 12) ((w.core c).cycle + 1) fun g =>
          { g.after g.wstep (w.core c).cycle (g.nextPc 4) with readyAt := g.readyAt }
      else w
    | _ => w

/-- R134: the WAITs of a core whose condition holds are over. -/
def Work.settleCounters (w : Work) (c : Nat) : Work :=
  ((w.core c).slotsOf fun g => match g.wait with
    | .counters _ _ => true
    | _ => false).foldl (fun w slot => w.settleWait c slot) w

/-! ## The fixed order of units (R61) -/

/-- R61: the place of a group in the order: 0 the supervisor, 1 the copy engine, 2 the sweep engine, 3 the
matrix engine, and from 4 on the vector unit by slot. -/
def unitPlace (slot : Nat) : Nat := if slot = 0 then 0 else 4 + slot

/-- A unit has been at the buffers of a core in this core cycle. -/
def Work.atRank (w : Work) (c rank : Nat) : Work :=
  w.modCore c fun k => { k with unitRank := max k.unitRank rank }

/-- R61: an access at issue takes its place in the order: where a later unit has been at the buffer in
this core cycle, it is made in the next. -/
def Work.ranked (w : Work) (c rank : Nat) (g : Group) (k : Work → Res) : Res :=
  if rank < (w.core c).unitRank then .hold w g none else k (w.atRank c rank)

/-! ## Contexts -/

/-- User and handler groups, in a trap handler or not. -/
def Group.isTeamCode (g : Group) : Bool :=
  match g.kind with
  | .user | .handlerTeam | .handlerCore => true
  | _ => false

/-- R183, R34: the group belongs to a team. -/
def Group.hasTeam (g : Group) : Bool :=
  match g.kind with
  | .user | .handlerTeam | .run => true
  | _ => false

end Sys2Proof.Machine
end

