-- ==== Sys2Proof/Machine/Home.lean ====
section
/-!
DEFINITION. Where a location lives (R355 to R357, R402), owner keys (R412, R414), signatures
(R188, R189), the L1 data cache (R424) and translation (R332 to R334).
-/

namespace Sys2Proof.Machine

/-! ## Physical address map -/

/-- What a physical address names. -/
inductive Place where
  /-- Near memory: die, stack, offset in the stack. -/
  | near (die stack so : Nat)
  /-- CXL far tier: port, offset. -/
  | far (port off : Nat)
  | host (off : Nat)
  | window (off : Nat)
  | fabric (endpoint off : Nat)
  | nowhere
deriving DecidableEq, Repr

def gib : Nat := 2 ^ 30

/-- R355: GiB of each stack in the interleaved window. -/
def Work.ilv (w : Work) : Nat := min 92 (w.nmsplit % 128)

/-- R356, R402. -/
def Work.place (w : Work) (pa : Nat) : Place :=
  let ilv := w.ilv
  if pa < 24 * ilv * gib then
    let u := pa / 4096
    .near (u % 8) (u / 8 % 3) (u / 24 * 4096 + pa % 4096)
  else if 2 ^ 42 ≤ pa ∧ pa < 2 ^ 42 + 8 * 2 ^ 39 then
    let d := (pa - 2 ^ 42) / 2 ^ 39
    let o := (pa - 2 ^ 42) % 2 ^ 39
    let u := o / 4096
    if o < 3 * (96 - ilv) * gib - 768 * 2 ^ 20 then
      .near d (u % 3) (ilv * gib + u / 3 * 4096 + o % 4096)
    else .nowhere
  else if 2 ^ 44 ≤ pa ∧ pa < 2 ^ 45 then
    let p := (pa - 2 ^ 44) / 2 ^ 41
    let o := (pa - 2 ^ 44) % 2 ^ 41
    if o < min (Config.cxlCapacity p) (3 * 2 ^ 39) then .far p o else .nowhere
  else if 2 ^ 48 ≤ pa ∧ pa < 2 ^ 49 then .host (pa - 2 ^ 48)
  else if 2 ^ 49 ≤ pa ∧ pa < 2 ^ 49 + 2 ^ 24 then .window (pa - 2 ^ 49)
  else if 2 ^ 50 ≤ pa ∧ pa < 2 ^ 51 then .fabric ((pa - 2 ^ 50) / 2 ^ 40) ((pa - 2 ^ 50) % 2 ^ 40)
  else .nowhere

def Place.isNear : Place → Bool
  | .near _ _ _ => true
  | _ => false

/-- R191, R212: cached in L1 only: far-tier, host or fabric memory. -/
def Place.isRemote : Place → Bool
  | .far _ _ => true
  | .host _ => true
  | .fabric _ _ => true
  | _ => false

/-- A home slice: die, slice, set (R357). -/
structure Home where
  die : Nat
  slice : Nat
  set : Nat
deriving DecidableEq, Repr

/-- R357. -/
def homeAt (die stack so : Nat) : Home :=
  let l := so / 128
  { die, slice := 8 * stack + (l % 8 ^^^ (l / 32 % 8))
    set := (l / 8 % 2048) ^^^ (l / 2 ^ 14 % 2048) }

/-- The home of a near-memory address. -/
def Work.home? (w : Work) (pa : Nat) : Option Home :=
  match w.place pa with
  | .near d s so => some (homeAt d s so)
  | _ => none

/-! ## Owner keys -/

def Work.keyEnt (w : Work) (k : Nat) : KeyEnt := tget KeyEnt.init k w.keys

/-- R412: the two keys of an entry. -/
def KeyEnt.pair (k : KeyEnt) : BitVec 512 := k.key1 ++ k.key2

/-- R412, R414: the sector reads under this key entry as it was written. -/
def Work.sectorOk (w : Work) (key sec : Nat) : Bool :=
  match tfind sec w.keyed with
  | none => true
  | some k => decide (k = (w.keyEnt key).pair)

/-- R412: a sector as it is encrypted. One that nothing has been encrypted into reads as it stands
under every key (log 19). -/
def Work.cipher (w : Work) (sec : Nat) : List Byte :=
  let l := w.bytes (32 * sec) 32
  match tfind sec w.keyed with
  | none => l
  | some k => xtsEnc k sec l

/-- R412, R414: what a byte decrypts to under the key of an entry. -/
def Work.readByte (w : Work) (key a : Nat) : Byte :=
  let k := (w.keyEnt key).pair
  match tfind (a / 32) w.keyed with
  | none => w.byte a
  | some k' => if k' = k then w.byte a else (xtsDec k (a / 32) (w.cipher (a / 32))).getD (a % 32) 0

def Work.readNum (w : Work) (key a n : Nat) : Nat := leNat ((upto n a).map (w.readByte key))

/-- R412: a sector written in part under another key is decrypted, merged and encrypted anew. -/
def Work.rekey (w : Work) (key sec : Nat) : Work :=
  let w' := { w with keyed := tins sec (w.keyEnt key).pair w.keyed }
  if w.sectorOk key sec then w'
  else w'.pokes ((upto 32 (32 * sec)).map fun a => (a, w.readByte key a))

/-- R369: a line whose every byte is written has no uncorrectable error any more. -/
def Work.mendLines (w : Work) (l : List Host.Cell) : Work :=
  let keep := fun n => !(upto 128 (128 * n)).all fun a => l.any fun c => decide (c.1 = a)
  { w with upsetMem := w.upsetMem.filter keep, upsetL2 := w.upsetL2.filter keep }

/-- R62, R415: the unit in which a line of near memory holds an uncorrectable error: 3 the L2, 0 DRAM. -/
def Work.lineUnit (w : Work) (line : Nat) : Option Nat :=
  if w.upsetL2.contains line then some 3 else if w.upsetMem.contains line then some 0 else none

/-- R62: a line of near memory holds an uncorrectable error. -/
def Work.lineUpset (w : Work) (line : Nat) : Bool := (w.lineUnit line).isSome

/-- R415: it has been read: an entry with its die and stack (log 32). -/
def Work.logLine (w : Work) (line : Nat) : Work :=
  match w.lineUnit line, w.place (128 * line) with
  | some u, .near d st _ => w.logError u true (3 * d + st) (128 * line) 0
  | _, _ => w

/-- R415: the errors of the lines of some bytes are logged as they are read. -/
def Work.logLines (w : Work) (l : List Nat) : Work :=
  (((l.map fun a => a / 128).eraseDups).filter w.lineUpset).foldl (fun w n => w.logLine n) w

/-- Write bytes at their homes under a key entry. -/
def Work.writeCells (w : Work) (key : Nat) (l : List Host.Cell) : Work :=
  (((l.map fun c => c.1 / 32).eraseDups.foldl (fun w s => w.rekey key s) w).pokes l).mendLines l

/-! ## Signatures (R188, R189) -/

def sigMul : List Nat :=
  [0x9E3779B97F4A7C15, 0xC2B2AE3D27D4EB4F, 0x165667B19E3779F9, 0xD6E8FEB86659FD93]

/-- R189: the four hashes of a sector. -/
def sigHashes (n : Nat) : List Nat := sigMul.map fun m => n * m % 2 ^ 64 / 2 ^ 53

def sigInsert (f : BitVec 2048) (n : Nat) : BitVec 2048 :=
  (sigHashes n).foldl (fun f h => f ||| (1#2048 <<< h)) f

def sigHit (f : BitVec 2048) (n : Nat) : Bool := (sigHashes n).all fun h => f.getLsbD h

/-- R189: a line matches when any of its four sectors hits. -/
def sigLine (f : BitVec 2048) (line : Nat) : Bool := (upto 4).any fun i => sigHit f (4 * line + i)

/-- R188: sectors written on a core enter its three SIG filters. -/
def Core.sigWrite (k : Core) (secs : List Nat) : Core :=
  { k with
    sigTeam := secs.foldl sigInsert k.sigTeam
    sigGang := secs.foldl sigInsert k.sigGang
    sigDev := secs.foldl sigInsert k.sigDev }

/-- R191, R196: sectors published to a core. -/
def Core.inbWrite (k : Core) (secs : List Nat) : Core := { k with inb := secs.foldl sigInsert k.inb }

/-- The sectors of a list of bytes. -/
def sectorsOf (l : List Host.Cell) : List Nat := (l.map fun c => c.1 / 32).eraseDups

/-! ## The L1 data cache (R424). Way w of set s has the number 8s + w. -/

/-- Put a byte into a line. -/
def setByte (d : BitVec 1024) (i : Nat) (b : Byte) : BitVec 1024 :=
  (d &&& ~~~(255#1024 <<< (8 * i))) ||| (b.zeroExtend 1024 <<< (8 * i))

def getByte (d : BitVec 1024) (i : Nat) : Byte := d.extractLsb' (8 * i) 8

/-- Apply the bytes of a list that lie in a line. -/
def overlayLine (line : Nat) (d : BitVec 1024) (l : List Host.Cell) : BitVec 1024 :=
  l.foldl (fun d c => if c.1 / 128 = line then setByte d (c.1 % 128) c.2 else d) d

/-- The way that holds a line. -/
def Core.l1Way (k : Core) (line : Nat) : Option Nat :=
  (upto 8 (8 * (line % 256))).find? fun n =>
    match tfind n k.l1 with
    | some l => decide (l.line = line)
    | none => false

def Core.l1Get (k : Core) (line : Nat) : Option L1Line := (k.l1Way line).bind fun n => tfind n k.l1

/-- A way becomes the most recent of its set. -/
def Core.l1Touch (k : Core) (n : Nat) : Core :=
  { k with l1rec := tput [] (n / 8) (n :: (tget [] (n / 8) k.l1rec).filter (· ≠ n)) k.l1rec }

/-- A way becomes invalid; the order of the rest stays. -/
def Core.l1Drop (k : Core) (n : Nat) : Core :=
  { k with
    l1 := tdel n k.l1
    l1rec := tput [] (n / 8) ((tget [] (n / 8) k.l1rec).filter (· ≠ n)) k.l1rec }

/-- The victim of a fill: the lowest invalid way, or the least recent. -/
def Core.l1Victim (k : Core) (set : Nat) : Nat :=
  match (upto 8 (8 * set)).find? fun n => (tfind n k.l1).isNone with
  | some n => n
  | none => ((tget [] set k.l1rec).getLast?).getD (8 * set)

def Core.l1Install (k : Core) (l : L1Line) : Core :=
  let n := (k.l1Way l.line).getD (k.l1Victim (l.line % 256))
  ({ k.mend 2 n with l1 := tins n l k.l1 }).l1Touch n

/-- Invalidate every line with a property, and let fills in flight of such lines deliver without
installing. -/
def Core.l1Invalidate (k : Core) (p : Nat → L1Line → Bool) (f : Fill → Bool) : Core :=
  let k := (k.l1.filter fun x => p x.2.line x.2).foldl (fun k x => k.l1Drop x.1) k
  { k with fills := tmap (fun _ x => if f x then { x with install := false } else x) k.fills }

/-- Remember the filter of an acquire for the fills sent in its cycle. -/
def Core.markAcquire (k : Core) (bits : BitVec 2048) : Core :=
  { k with
    acqMark := match k.acqMark with
      | some (t, b) => if t = k.cycle then some (t, b ||| bits) else some (k.cycle, bits)
      | none => some (k.cycle, bits) }

/-- R191, R227: an acquire or INVL1 of this core cycle covers a line. -/
def Core.marked (k : Core) (line : Nat) : Bool :=
  match k.acqMark with
  | some (t, b) => decide (t = k.cycle) && sigLine b line
  | none => false

/-- R191: the invalidation of FENCE.ACQ at TEAM, GANG or DEVICE; `sys` adds SYSTEM's. -/
def Work.acquire (w : Work) (c : Nat) (sys : Bool) : Work :=
  let k := (w.core c).markAcquire (w.core c).inb
  let snap := k.inb
  let remote := fun line => (w.place (128 * line)).isRemote
  w.setCore c
    ({ k with inb := 0 }.l1Invalidate
      (fun line l => !l.ro && (sigLine snap line || (sys && remote line)))
      fun f => sigLine snap f.req.line)

/-- R245: before the first group of a team starts on a core. Lines that match INB go even if they
are read-only. -/
def Work.startAcquire (w : Work) (c : Nat) : Work :=
  let k := (w.core c).markAcquire (w.core c).inb
  let snap := k.inb
  let remote := fun line => (w.place (128 * line)).isRemote
  w.setCore c
    ({ k with inb := 0 }.l1Invalidate
      (fun line l => sigLine snap line || (!l.ro && remote line))
      fun f => sigLine snap f.req.line)

/-- R184: a store accepted by a core: L1 copies, fills in flight, filters. -/
def Work.acceptStore (w : Work) (c : Nat) (l : List Host.Cell) : Work :=
  w.modCore c fun k =>
    { (k.sigWrite (sectorsOf l)) with
      l1 := tmap (fun _ x => { x with data := overlayLine x.line x.data l }) k.l1
      fills := tmap (fun _ f =>
        if l.any fun c => decide (c.1 / 128 = f.req.line) then { f with overlay := f.overlay ++ l }
        else f) k.fills }

/-- R184, R199: an atomic accepted by a core: its L1 copy goes, and fills of its line deliver
without installing (log 17). -/
def Work.acceptAtomic (w : Work) (c : Nat) (secs : List Nat) : Work :=
  let lines := (secs.map (· / 4)).eraseDups
  w.modCore c fun k =>
    (k.sigWrite secs).l1Invalidate (fun line _ => lines.contains line)
      fun f => lines.contains f.req.line

/-! ## Translation (R332 to R337) -/

/-- Page bits by size code. -/
def pageBits (size : Nat) : Nat :=
  match size with
  | 0 => 16
  | 1 => 21
  | 2 => 26
  | _ => 30

def TlbEnt.hits (e : TlbEnt) (owner va : Nat) : Bool :=
  decide (e.owner = owner) && decide (e.vpn = va / 2 ^ pageBits e.size)

def TlbEnt.phys (e : TlbEnt) (va : Nat) : Nat :=
  e.ppn * 2 ^ pageBits e.size + va % 2 ^ pageBits e.size

/-- Put an entry first in a TLB of `sets` sets of `ways`; the least recent of its set leaves when
the set is full (R334, log 12). -/
def tlbInsert (sets ways : Nat) (e : TlbEnt) (t : List (Nat × TlbEnt)) : List (Nat × TlbEnt) :=
  let set := Config.tlbSet e.owner e.vpn sets
  let same := t.filter fun x => decide (x.1 = set)
  let t :=
    if same.length < ways then t
    else
      match same.getLast? with
      | some old => t.erase old
      | none => t
  (set, e) :: t

/-- Look an address up, making the entry most recent. -/
def tlbLook (owner va : Nat) (t : List (Nat × TlbEnt)) :
    Option (TlbEnt × List (Nat × TlbEnt)) :=
  match t.find? fun x => x.2.hits owner va with
  | some x => some (x.2, x :: t.filter (· ≠ x))
  | none => none

/-- The result of a translation. -/
inductive Trans where
  | page (e : TlbEnt)
  | miss
  | pageFault
  | accessFault
deriving DecidableEq, Repr

/-- R334: translate for a core; a hit in the cluster's TLB fills the core's. `walked` holds the
faults of walks for the instruction being tried. -/
def Work.translate (w : Work) (c owner va : Nat) (walked : Tab Nat) : Trans × Work :=
  let k := w.core c
  match tlbLook owner va k.tlb with
  | some (e, t) => (.page e, w.setCore c { k with tlb := t })
  | none =>
    let cl := Config.clusterOf c
    match tlbLook owner va (w.cluster cl).tlb2 with
    | some (e, t) =>
      (.page e, (w.modCluster cl fun x => { x with tlb2 := t }).setCore c
        { k with tlb := tlbInsert 64 4 e k.tlb })
    | none =>
      match tfind (va / 65536) walked with
      | some 1 => (.pageFault, w)
      | some _ => (.accessFault, w)
      | none => (.miss, w)

/-- What an access does with a page. -/
inductive Acc where
  | load | store | atomic | fetch
deriving DecidableEq, Repr

/-- R333: the leaf permits the access. The supervisor's KEY is not compared (log 11). -/
def Work.permits (w : Work) (g : Group) (e : TlbEnt) (a : Acc) : Bool :=
  (match a with
    | .load => e.r
    | .store => e.w
    | .atomic => e.r && e.w
    | .fetch => e.x) &&
  (decide (g.kind = .supervisor) || (!e.sup && (e.ro || decide (e.key = g.owner)))) &&
  (w.keyEnt e.key).valid

/-- R334: a walk is due before another: earlier master cycle, then ascending core. -/
def Walk.before (a b : Walk) : Bool :=
  decide (a.at_ < b.at_) || (decide (a.at_ = b.at_) && decide (a.core ≤ b.core))

/-- Two requests for one walk. -/
def Walk.same (a b : Walk) : Bool :=
  !a.cancelled && decide (a.core = b.core) && decide (a.owner = b.owner) && decide (a.va = b.va) &&
    a.eng == b.eng

/-- Queue a walk at the core's die, for its groups or for its engines (R334). -/
def Work.requestWalk (w : Work) (c owner va : Nat) (eng : Bool := false) : Work :=
  w.modDie (Config.dieOf c) fun d =>
    let x : Walk :=
      { core := c, owner, va := va / 65536 * 65536, eng, at_ := w.tempo, cancelled := false }
    if d.walks.any (·.same x) || d.walkq.any (·.same x) then d
    else { d with walkq := insBy Walk.before x d.walkq }

/-- R334: a translation engine takes up walks of its queue, up to 64 at once. -/
def Die.startWalks (d : Die) : Die :=
  let n := 64 - d.walks.length
  { d with walks := d.walks ++ d.walkq.take n, walkq := d.walkq.drop n }

/-- R408: a launch of an owner reaches host memory only in the range of a running interface. -/
def Work.hostOpen (w : Work) (owner off n : Nat) : Bool :=
  w.tdis.any fun p =>
    decide (p.2.own = owner) && decide (p.2.tst = 2) && decide (65536 * p.2.hbase ≤ off) &&
      decide (off + n ≤ 65536 * (p.2.hbase + p.2.hlen))

/-- R408: only launches reach host memory. -/
def Work.hostMay (w : Work) (g : Group) (off n : Nat) : Bool :=
  decide (g.kind ≠ .supervisor) && w.hostOpen g.owner off n

end Sys2Proof.Machine
end

