-- ==== Sys2Proof/Machine/Float.lean ====
section
/-!
DEFINITION. Number formats and exact arithmetic: the floating-point formats, rounding, overflow,
underflow, zero signs, correctly rounded operations, special functions and conversions
(R63 to R78).
-/

namespace Sys2Proof.Machine

/-! ## Formats (R63 to R65) -/

/-- A floating-point format: fraction bits, exponent bits, bias; `ieee` is false for E4M3. -/
structure FFmt where
  p : Nat
  e : Nat
  bias : Nat
  ieee : Bool := true
deriving DecidableEq, Repr

def F64 : FFmt := { p := 52, e := 11, bias := 1023 }
def F32 : FFmt := { p := 23, e := 8, bias := 127 }
def FH : FFmt := { p := 10, e := 5, bias := 15 }
def FBF : FFmt := { p := 7, e := 8, bias := 127 }
def FE5 : FFmt := { p := 2, e := 5, bias := 15 }
def FE4 : FFmt := { p := 3, e := 4, bias := 7, ieee := false }

/-- The sign bit of a format, as a number. -/
def FFmt.signBit (f : FFmt) : Nat := 2 ^ (f.p + f.e)

/-- The encoding of +infinity. -/
def FFmt.inf (f : FFmt) : Nat := (2 ^ f.e - 1) * 2 ^ f.p

/-- The encoding of the largest finite value. -/
def FFmt.maxFin (f : FFmt) : Nat := if f.ieee then f.inf - 1 else 2 ^ (f.p + f.e) - 2

/-- R65: the canonical NaN. -/
def FFmt.nan (f : FFmt) : Nat := if f.ieee then f.inf + 2 ^ (f.p - 1) else 2 ^ (f.p + f.e) - 1

/-- The exponent of the unit of a subnormal. -/
def FFmt.unit (f : FFmt) : Int := 1 - (f.bias : Int) - (f.p : Int)

/-- R64: what an encoding stands for. A finite value is (-1)^neg * m * 2^x; m = 0 is a signed
zero. -/
inductive Fp where
  | nan (signalling : Bool)
  | inf (neg : Bool)
  | fin (neg : Bool) (m : Nat) (x : Int)
deriving DecidableEq, Repr

/-- R64, R65: classify and read an encoding. -/
def FFmt.read (f : FFmt) (bits : Nat) : Fp :=
  let neg := decide (bits / f.signBit % 2 = 1)
  let ex := bits / 2 ^ f.p % 2 ^ f.e
  let fr := bits % 2 ^ f.p
  if ex = 2 ^ f.e - 1 ∧ f.ieee then
    if fr = 0 then .inf neg else .nan (decide (fr < 2 ^ (f.p - 1)))
  else if ¬ f.ieee ∧ bits % f.signBit = f.signBit - 1 then .nan false
  else if ex = 0 then .fin neg fr f.unit
  else .fin neg (2 ^ f.p + fr) (f.unit + (ex : Int) - 1)

/-- A sign applied to the encoding of a magnitude. -/
def FFmt.signed (f : FFmt) (neg : Bool) (bits : Nat) : Nat :=
  if neg then f.signBit + bits else bits

/-- A result with its flags. -/
structure Fr where
  bits : Nat
  fl : BitVec 7
deriving DecidableEq, Repr

def FFmt.nanR (f : FFmt) (fl : BitVec 7) : Fr := { bits := f.nan, fl }
def FFmt.infR (f : FFmt) (neg : Bool) (fl : BitVec 7) : Fr := { bits := f.signed neg f.inf, fl }
def FFmt.zeroR (f : FFmt) (neg : Bool) : Fr := { bits := f.signed neg 0, fl := 0 }

/-! ## Rounding (R70 to R72) -/

/-- R70: `m` divided by 2^k, rounded by a mode for a value of the given sign. -/
def roundShift (mode : Nat) (neg : Bool) (m k : Nat) : Nat :=
  let q := m / 2 ^ k
  let rest := m % 2 ^ k
  let up :=
    match mode with
    | 0 => decide (2 ^ k < 2 * rest) || (decide (2 * rest = 2 ^ k) && decide (q % 2 = 1))
    | 1 => false
    | 2 => decide (rest ≠ 0) && !neg
    | 3 => decide (rest ≠ 0) && neg
    | _ => decide (rest ≠ 0) && decide (2 ^ k ≤ 2 * rest)
  if up then q + 1 else q

/-- R70: a value m * 2^x rounded to a multiple of 2^q. -/
def roundAt (mode : Nat) (neg : Bool) (m : Nat) (x q : Int) : Nat :=
  if q ≤ x then m * 2 ^ (x - q).toNat else roundShift mode neg m (q - x).toNat

/-- Whether m * 2^x is a multiple of 2^q. -/
def exactAt (m : Nat) (x q : Int) : Bool :=
  decide (q ≤ x) || decide (m % 2 ^ (q - x).toNat = 0)

/-- R71: what an overflow delivers. E4M3 has no infinity. -/
def FFmt.overflow (f : FFmt) (mode : Nat) (neg sat : Bool) : Nat :=
  let big :=
    match mode with
    | 1 => false
    | 2 => !neg
    | 3 => neg
    | _ => true
  if big && !sat then (if f.ieee then f.signed neg f.inf else f.nan)
  else f.signed neg f.maxFin

/-- R70 to R73: the exact value (-1)^neg * m * 2^x rounded once into the format. `sat` is the
saturating conversion of R168. A zero keeps its sign. -/
def FFmt.round (f : FFmt) (mode : Nat) (neg : Bool) (m : Nat) (x : Int) (sat : Bool := false) :
    Fr :=
  if m = 0 then f.zeroR neg
  else
    let top : Int := (m.log2 : Int) + x
    let emin : Int := 1 - (f.bias : Int)
    let q : Int := max top emin - (f.p : Int)
    let r := roundAt mode neg m x q
    let bits := r + (q - f.unit).toNat * 2 ^ f.p
    if f.maxFin < bits then { bits := f.overflow mode neg sat, fl := flOF ||| flNX }
    else
      let exact := exactAt m x q
      let tiny :=
        decide (top < emin) &&
          (decide (top + 1 ≠ emin) || decide (roundAt mode neg m x (top - f.p) < 2 ^ (f.p + 1)))
      let fl : BitVec 7 := if exact then 0 else if tiny then flUF ||| flNX else flNX
      { bits := f.signed neg bits, fl }

/-- A signed exact value n * 2^x, with the sign that an exact zero takes. -/
def FFmt.roundInt (f : FFmt) (mode : Nat) (zneg : Bool) (n : Int) (x : Int) : Fr :=
  if n = 0 then f.zeroR zneg else f.round mode (decide (n < 0)) n.natAbs x

/-! ## Exact operations on finite values -/

/-- The integer a value is in units of 2^u, for u at most its exponent. -/
def scaled (neg : Bool) (m : Nat) (x u : Int) : Int :=
  let n : Int := (m * 2 ^ (x - u).toNat : Nat)
  if neg then -n else n

/-- R76, R77: the sum of two terms, rounded once. NaN and infinity operands follow R73. -/
def FFmt.sum (f : FFmt) (mode : Nat) (a b : Fp) (fl : BitVec 7) : Fr :=
  match a, b with
  | .nan s, .nan t => f.nanR (fl ||| if s || t then flNV else 0)
  | .nan s, _ => f.nanR (fl ||| if s then flNV else 0)
  | _, .nan t => f.nanR (fl ||| if t then flNV else 0)
  | .inf s, .inf t => if s = t then f.infR s fl else f.nanR (fl ||| flNV)
  | .inf s, .fin _ _ _ => f.infR s fl
  | .fin _ _ _, .inf t => f.infR t fl
  | .fin s m x, .fin t n y =>
    let u := min x y
    let r := f.roundInt mode (s && t && decide (m = 0) && decide (n = 0))
      (scaled s m x u + scaled t n y u) u
    { r with fl := r.fl ||| fl }

/-- A value with its sign inverted. -/
def Fp.neg : Fp → Fp
  | .nan s => .nan s
  | .inf s => .inf (!s)
  | .fin s m x => .fin (!s) m x

/-- The exact product of two values; Invalid for 0 times infinity and for a signalling NaN (R73).
-/
def Fp.mul (a b : Fp) : Fp × BitVec 7 :=
  match a, b with
  | .nan s, .nan t => (.nan false, if s || t then flNV else 0)
  | .nan s, _ => (.nan false, if s then flNV else 0)
  | _, .nan t => (.nan false, if t then flNV else 0)
  | .inf s, .inf t => (.inf (s != t), 0)
  | .inf s, .fin t m _ => if m = 0 then (.nan false, flNV) else (.inf (s != t), 0)
  | .fin s m _, .inf t => if m = 0 then (.nan false, flNV) else (.inf (s != t), 0)
  | .fin s m x, .fin t n y => (.fin (s != t) (m * n) (x + y), 0)

/-- Deliver one value in a format, rounded once. -/
def FFmt.deliver (f : FFmt) (mode : Nat) (a : Fp) (fl : BitVec 7) : Fr :=
  match a with
  | .nan s => f.nanR (fl ||| if s then flNV else 0)
  | .inf s => f.infR s fl
  | .fin s m x => let r := f.round mode s m x; { r with fl := r.fl ||| fl }

/-! ## Correctly rounded operations (R77) -/

def FFmt.add (f : FFmt) (mode a b : Nat) : Fr := f.sum mode (f.read a) (f.read b) 0
def FFmt.sub (f : FFmt) (mode a b : Nat) : Fr := f.sum mode (f.read a) (f.read b).neg 0

def FFmt.mul (f : FFmt) (mode a b : Nat) : Fr :=
  let p := (f.read a).mul (f.read b)
  f.deliver mode p.1 p.2

/-- R77: fused multiply-add, the product not rounded. -/
def FFmt.fma (f : FFmt) (mode a b d : Nat) : Fr :=
  let p := (f.read a).mul (f.read b)
  f.sum mode p.1 (f.read d) p.2

/-- R158: the product term is -(a * b). -/
def FFmt.fms (f : FFmt) (mode a b d : Nat) : Fr :=
  let p := (f.read a).mul (f.read b)
  f.sum mode p.1.neg (f.read d) p.2

/-- A quotient of positive numbers to `p + 4` bits or more, with a sticky last bit: (m, x). -/
def quotient (p m : Nat) (x : Int) (n : Nat) (y : Int) : Nat × Int :=
  let k := p + 4 + n.log2
  let q := m * 2 ^ k / n
  let s := if m * 2 ^ k % n = 0 then 0 else 1
  (2 * q + s, x - y - (k : Int) - 1)

def FFmt.div (f : FFmt) (mode a b : Nat) : Fr :=
  match f.read a, f.read b with
  | .nan s, .nan t => f.nanR (if s || t then flNV else 0)
  | .nan s, _ => f.nanR (if s then flNV else 0)
  | _, .nan t => f.nanR (if t then flNV else 0)
  | .inf _, .inf _ => f.nanR flNV
  | .inf s, .fin t _ _ => f.infR (s != t) 0
  | .fin s _ _, .inf t => f.zeroR (s != t)
  | .fin s m x, .fin t n y =>
    if n = 0 then (if m = 0 then f.nanR flNV else f.infR (s != t) flDZ)
    else if m = 0 then f.zeroR (s != t)
    else
      let q := quotient f.p m x n y
      f.round mode (s != t) q.1 q.2

/-- Integer square root by bits: the greatest r below 2^k with r * r at most n. -/
def isqrtGo (n : Nat) : Nat → Nat → Nat
  | 0, r => r
  | k + 1, r => isqrtGo n k (if (r + 2 ^ k) * (r + 2 ^ k) ≤ n then r + 2 ^ k else r)

def isqrt (n : Nat) : Nat := isqrtGo n (n.log2 / 2 + 1) 0

/-- A square root to `p + 4` bits or more, with a sticky last bit. -/
def squareRoot (p m : Nat) (x : Int) : Nat × Int :=
  let m0 := if x % 2 = 0 then m else 2 * m
  let x0 := if x % 2 = 0 then x else x - 1
  let k := p + 4
  let n := m0 * 4 ^ k
  let r := isqrt n
  (2 * r + (if r * r = n then 0 else 1), x0 / 2 - (k : Int) - 1)

def FFmt.sqrt (f : FFmt) (mode a : Nat) : Fr :=
  match f.read a with
  | .nan s => f.nanR (if s then flNV else 0)
  | .inf s => if s then f.nanR flNV else f.infR false 0
  | .fin s m x =>
    if m = 0 then f.zeroR s
    else if s then f.nanR flNV
    else
      let q := squareRoot f.p m x
      f.round mode false q.1 q.2

/-! ## Comparison, minimum, classification (R156, R160, R161) -/

/-- A total key of a non-NaN value: -0 below +0. -/
def FFmt.key (f : FFmt) (bits : Nat) : Int :=
  let mag : Int := (bits % f.signBit : Nat)
  if bits / f.signBit % 2 = 1 then -mag - 1 else mag

def Fp.isNan : Fp → Bool
  | .nan _ => true
  | _ => false

def Fp.isSig : Fp → Bool
  | .nan s => s
  | _ => false

/-- R160: minimum (or maximum) of two operands. -/
def FFmt.pick (f : FFmt) (big : Bool) (a b : Nat) : Fr :=
  let x := f.read a
  let y := f.read b
  let fl := if x.isSig || y.isSig then flNV else 0
  if x.isNan && y.isNan then f.nanR fl
  else if x.isNan then { bits := b, fl }
  else if y.isNan then { bits := a, fl }
  else
    let aLess := decide (f.key a < f.key b)
    { bits := if aLess == big then b else a, fl }

/-- R156: a condition (0 EQ, 1 NE, 2 LT, 3 LE, 4 GT, 5 GE, 6 UN) and the flags it raises. -/
def FFmt.test (f : FFmt) (cond a b : Nat) : Bool × BitVec 7 :=
  let x := f.read a
  let y := f.read b
  let nan := x.isNan || y.isNan
  let fl : BitVec 7 :=
    if x.isSig || y.isSig || (nan && decide (2 ≤ cond) && decide (cond ≤ 5)) then flNV else 0
  let za := decide (a % f.signBit = 0)
  let zb := decide (b % f.signBit = 0)
  let eq := decide (a = b) || (za && zb)
  let lt := decide (f.key a < f.key b) && !(za && zb)
  (match cond with
    | 0 => !nan && eq
    | 1 => nan || !eq
    | 2 => !nan && lt
    | 3 => !nan && (lt || eq)
    | 4 => !nan && !(lt || eq)
    | 5 => !nan && !lt
    | _ => nan, fl)

/-- R161: the class word. -/
def FFmt.classOf (f : FFmt) (a : Nat) : Nat :=
  match f.read a with
  | .inf s => if s then 1 else 128
  | .nan s => if s then 256 else 512
  | .fin s m _ =>
    if m = 0 then (if s then 8 else 16)
    else if m < 2 ^ f.p then (if s then 4 else 32)
    else if s then 2 else 64

/-! ## Special functions (R78), by fixed-point evaluation far beyond the format's precision
(log 13) -/

/-- Fixed-point scale of the special functions. -/
def sfBits : Nat := 400
def sfOne : Nat := 2 ^ sfBits

/-- 2 * atanh(1/n) and atan(1/n) at the scale: n terms of the series. -/
def atanSeries (alt : Bool) (n2 : Nat) : Nat → Nat → Nat → Int
  | 0, _, _ => 0
  | k + 1, pw, d =>
    let rest := atanSeries alt n2 k (pw / n2) (d + 2)
    (pw / d : Nat) + (if alt then -rest else rest)

/-- ln 2 = 2 * atanh(1/3). -/
def sfLn2 : Nat := (2 * atanSeries false 9 140 (sfOne / 3) 1).toNat

/-- pi / 2 = 8 * atan(1/5) - 2 * atan(1/239). -/
def sfHalfPi : Nat :=
  (8 * atanSeries true 25 100 (sfOne / 5) 1 - 2 * atanSeries true 57121 30 (sfOne / 239) 1).toNat

/-- Sum of y^k / k! at the scale. -/
def expSeries (y : Nat) : Nat → Nat → Nat → Nat
  | 0, _, _ => 0
  | n + 1, term, k => term + expSeries y n (term * y / sfOne / (k + 1)) (k + 1)

/-- Alternating sum of y^(2j + k) / (2j + k)!, from a first term. -/
def trigSeries (y2 : Nat) : Nat → Nat → Nat → Int
  | 0, _, _ => 0
  | n + 1, term, k => term - trigSeries y2 n (term * y2 / sfOne / ((k + 1) * (k + 2))) (k + 2)

/-- Sum of z^(2j+1) / (2j+1). -/
def atanhSeries (z2 : Nat) : Nat → Nat → Nat → Nat
  | 0, _, _ => 0
  | n + 1, pw, d => pw / d + atanhSeries z2 n (pw * z2 / sfOne) (d + 2)

/-- Round a positive irrational value that a fixed-point number approximates: never exact. -/
def FFmt.roundSf (f : FFmt) (neg : Bool) (v : Nat) (x : Int) : Fr :=
  f.round 0 neg (2 * v + 1) (x - (sfBits : Int) - 1)

def FFmt.rcp (f : FFmt) (a : Nat) : Fr := f.div 0 (f.bias * 2 ^ f.p) a

def FFmt.rsq (f : FFmt) (a : Nat) : Fr :=
  match f.read a with
  | .nan s => f.nanR (if s then flNV else 0)
  | .inf s => if s then f.nanR flNV else f.zeroR false
  | .fin s m x =>
    if m = 0 then f.infR s flDZ
    else if s then f.nanR flNV
    else
      let m0 := if x % 2 = 0 then m else 2 * m
      let x0 := if x % 2 = 0 then x else x - 1
      let k := f.p + 4 + m0.log2
      let r := isqrt (4 ^ k / m0)
      f.round 0 false (2 * r + (if r * r * m0 = 4 ^ k then 0 else 1)) (-(x0 / 2) - (k : Int) - 1)

/-- 2^x. -/
def FFmt.exp2 (f : FFmt) (a : Nat) : Fr :=
  match f.read a with
  | .nan s => f.nanR (if s then flNV else 0)
  | .inf s => if s then f.zeroR false else f.infR false 0
  | .fin s m x =>
    -- the magnitude's integer part, and whether it has a fraction
    let whole := if 0 ≤ x then m * 2 ^ x.toNat else m / 2 ^ (-x).toNat
    if 128 ≤ whole ∧ ¬ s then { bits := f.inf, fl := flOF ||| flNX }
    else if 200 ≤ whole then { bits := 0, fl := flUF ||| flNX }
    else
      let frac := if 0 ≤ x then 0 else m % 2 ^ (-x).toNat * 2 ^ (sfBits - (-x).toNat)
      if frac = 0 then f.round 0 false 1 (if s then -(whole : Int) else whole)
      else
        let fr := if s then sfOne - frac else frac
        let ex : Int := if s then -(whole : Int) - 1 else whole
        f.roundSf false (expSeries (fr * sfLn2 / sfOne) 90 sfOne 0) ex

/-- log2 x. -/
def FFmt.log2 (f : FFmt) (a : Nat) : Fr :=
  match f.read a with
  | .nan s => f.nanR (if s then flNV else 0)
  | .inf s => if s then f.nanR flNV else f.infR false 0
  | .fin s m x =>
    if m = 0 then f.infR true flDZ
    else if s then f.nanR flNV
    else
      let n := m.log2
      let ex : Int := (n : Int) + x
      let g := m - 2 ^ n
      if g = 0 then f.roundInt 0 false ex 0
      else
        let z := g * sfOne / (2 ^ (n + 1) + g)
        let lg := 2 * atanhSeries (z * z / sfOne) 140 z 1 * sfOne / sfLn2
        let v : Int := ex * (sfOne : Int) + (lg : Int)
        f.roundSf (decide (v < 0)) v.natAbs 0

/-- sin x, or cos x. -/
def FFmt.trig (f : FFmt) (cosine : Bool) (a : Nat) : Fr :=
  match f.read a with
  | .nan s => f.nanR (if s then flNV else 0)
  | .inf _ => f.nanR flNV
  | .fin s m x =>
    if m = 0 then (if cosine then { bits := f.bias * 2 ^ f.p, fl := 0 } else f.zeroR s)
    else
      let v := m * 2 ^ ((sfBits : Int) + x).toNat
      let quad := (v / sfHalfPi + if cosine then 1 else 0) % 4
      let r := v % sfHalfPi
      let y2 := r * r / sfOne
      let val :=
        if quad % 2 = 0 then trigSeries y2 60 r 1 else trigSeries y2 60 sfOne 0
      let neg := decide (2 ≤ quad) != (s && !cosine)
      f.roundSf neg val.toNat 0

/-! ## Conversions (R166 to R168) -/

/-- R166, R168: one floating format into another. -/
def convert (src dst : FFmt) (mode : Nat) (sat : Bool) (a : Nat) : Fr :=
  match src.read a with
  | .nan s => dst.nanR (if s then flNV else 0)
  | .inf s =>
    if sat then { bits := dst.signed s dst.maxFin, fl := 0 }
    else if dst.ieee then dst.infR s 0
    else dst.nanR flNV
  | .fin s m x => dst.round mode s m x sat

/-- R166: an integer into a floating format. -/
def fromInt (dst : FFmt) (mode : Nat) (n : Int) : Fr := dst.roundInt mode false n 0

/-- R167: a floating value into an integer format with bounds lo and hi; `bad` is what VCVT delivers
for an invalid source. -/
def toInt (src : FFmt) (mode : Nat) (sat : Bool) (lo hi bad : Int) (a : Nat) : Int × BitVec 7 :=
  match src.read a with
  | .nan _ => (if sat then 0 else bad, flNV)
  | .inf s => (if sat then (if s then lo else hi) else bad, flNV)
  | .fin s m x =>
    let n : Int := roundAt mode s m x 0
    let v := if s then -n else n
    if v < lo then (if sat then lo else bad, flNV)
    else if hi < v then (if sat then hi else bad, flNV)
    else (v, if exactAt m x 0 then 0 else flNX)

/-- R166, codes 22 and 23: round to an integral value. -/
def FFmt.integral (f : FFmt) (mode a : Nat) : Fr :=
  match f.read a with
  | .nan s => f.nanR (if s then flNV else 0)
  | .inf _ => { bits := a, fl := 0 }
  | .fin s m x =>
    if exactAt m x 0 then { bits := a, fl := 0 }
    else { bits := (f.round mode s (roundAt mode s m x 0) 0).bits, fl := flNX }

end Sys2Proof.Machine
end

