-- ==== Sys2Proof/Machine/Scalar.lean ====
section
/-!
DEFINITION. Scalar arithmetic: majors 0x05 to 0x09 (R117 to R124).
-/

namespace Sys2Proof.Machine

/-- Latency of the scalar ALU class (R100) and its debit weight (R317). -/
def Lsalu : Nat := 2
def wtScalar : Nat := 10

/-- R120: sd := f a b. -/
def scalar3 (x : BitVec 32) (g : BitVec 2) (d a b : BitVec 6) (f : Word → Word → Word) (s : State) :
    Host.Outcome State Fault Refusal :=
  issueLocal (wordForm x g (some Lsalu) wtScalar)
    (fun _ => { reads := [useS a.toNat, useS b.toNat], writes := [useS d.toNat] })
    (fun gr => gr.flyS Lsalu d.toNat (f (gr.s a.toNat) (gr.s b.toNat))) s

/-- R122: sd := f a i. -/
def scalarImm (x : BitVec 32) (g : BitVec 2) (d a : BitVec 6) (i : Word) (f : Word → Word → Word)
    (s : State) : Host.Outcome State Fault Refusal :=
  issueLocal (wordForm x g (some Lsalu) wtScalar)
    (fun _ => { reads := [useS a.toNat], writes := [useS d.toNat] })
    (fun gr => gr.flyS Lsalu d.toNat (f (gr.s a.toNat) i)) s

/-- R120: the high half of the product. -/
def mulHigh (signed : Bool) (a b : Word) : Word :=
  if signed then BitVec.ofInt 64 (a.toInt * b.toInt / 2 ^ 64)
  else BitVec.ofNat 64 (a.toNat * b.toNat / 2 ^ 64)

/-- R120: shift amounts are bits [5:0]. -/
def shAmt (b : Word) : Nat := b.toNat % 64

def minS {n : Nat} (a b : BitVec n) : BitVec n := if a.slt b then a else b
def minU {n : Nat} (a b : BitVec n) : BitVec n := if a.ult b then a else b
def maxS {n : Nat} (a b : BitVec n) : BitVec n := if a.slt b then b else a
def maxU {n : Nat} (a b : BitVec n) : BitVec n := if a.ult b then b else a

def execSadd (g : BitVec 2) (d a b : BitVec 6) (s : State) : Host.Outcome State Fault Refusal :=
  scalar3 (wSadd g d a b) g d a b (· + ·) s

def execSsub (g : BitVec 2) (d a b : BitVec 6) (s : State) : Host.Outcome State Fault Refusal :=
  scalar3 (wSsub g d a b) g d a b (· - ·) s

def execSmul (g : BitVec 2) (d a b : BitVec 6) (s : State) : Host.Outcome State Fault Refusal :=
  scalar3 (wSmul g d a b) g d a b (· * ·) s

def execSmulhI64 (g : BitVec 2) (d a b : BitVec 6) (s : State) :
    Host.Outcome State Fault Refusal :=
  scalar3 (wSmulhI64 g d a b) g d a b (mulHigh true) s

def execSmulhN64 (g : BitVec 2) (d a b : BitVec 6) (s : State) :
    Host.Outcome State Fault Refusal :=
  scalar3 (wSmulhN64 g d a b) g d a b (mulHigh false) s

def execSand (g : BitVec 2) (d a b : BitVec 6) (s : State) : Host.Outcome State Fault Refusal :=
  scalar3 (wSand g d a b) g d a b (· &&& ·) s

def execSor (g : BitVec 2) (d a b : BitVec 6) (s : State) : Host.Outcome State Fault Refusal :=
  scalar3 (wSor g d a b) g d a b (· ||| ·) s

def execSxor (g : BitVec 2) (d a b : BitVec 6) (s : State) : Host.Outcome State Fault Refusal :=
  scalar3 (wSxor g d a b) g d a b (· ^^^ ·) s

def execSshl (g : BitVec 2) (d a b : BitVec 6) (s : State) : Host.Outcome State Fault Refusal :=
  scalar3 (wSshl g d a b) g d a b (fun a b => a <<< shAmt b) s

def execSshr (g : BitVec 2) (d a b : BitVec 6) (s : State) : Host.Outcome State Fault Refusal :=
  scalar3 (wSshr g d a b) g d a b (fun a b => a >>> shAmt b) s

def execSsra (g : BitVec 2) (d a b : BitVec 6) (s : State) : Host.Outcome State Fault Refusal :=
  scalar3 (wSsra g d a b) g d a b (fun a b => a.sshiftRight (shAmt b)) s

def execSminI64 (g : BitVec 2) (d a b : BitVec 6) (s : State) :
    Host.Outcome State Fault Refusal :=
  scalar3 (wSminI64 g d a b) g d a b minS s

def execSminN64 (g : BitVec 2) (d a b : BitVec 6) (s : State) :
    Host.Outcome State Fault Refusal :=
  scalar3 (wSminN64 g d a b) g d a b minU s

def execSmaxI64 (g : BitVec 2) (d a b : BitVec 6) (s : State) :
    Host.Outcome State Fault Refusal :=
  scalar3 (wSmaxI64 g d a b) g d a b maxS s

def execSmaxN64 (g : BitVec 2) (d a b : BitVec 6) (s : State) :
    Host.Outcome State Fault Refusal :=
  scalar3 (wSmaxN64 g d a b) g d a b maxU s

/-- R120: a if SFL.Z = 1, otherwise b; SFL is read under R101. -/
def execSsel (g : BitVec 2) (d a b : BitVec 6) (s : State) : Host.Outcome State Fault Refusal :=
  issueLocal (wordForm (wSsel g d a b) g (some Lsalu) wtScalar)
    (fun _ => { reads := [useS a.toNat, useS b.toNat, useF], writes := [useS d.toNat] })
    (fun gr => gr.flyS Lsalu d.toNat (if sflZ gr.sfl then gr.s a.toNat else gr.s b.toNat)) s

/-- R121: an add or subtract that also writes SFL. -/
def scalarFl (x : BitVec 32) (g : BitVec 2) (d a b : BitVec 6) (f : Word → Word → Word)
    (fl : Word → Word → BitVec 4) (s : State) : Host.Outcome State Fault Refusal :=
  issueLocal (wordForm x g (some Lsalu) wtScalar)
    (fun _ => { reads := [useS a.toNat, useS b.toNat], writes := [useS d.toNat, useF] })
    (fun gr =>
      (gr.flyS Lsalu d.toNat (f (gr.s a.toNat) (gr.s b.toNat))).flyF Lsalu
        (fl (gr.s a.toNat) (gr.s b.toNat))) s

def execSaddFl (g : BitVec 2) (d a b : BitVec 6) (s : State) : Host.Outcome State Fault Refusal :=
  scalarFl (wSaddFl g d a b) g d a b (· + ·) addFlags s

def execSsubFl (g : BitVec 2) (d a b : BitVec 6) (s : State) : Host.Outcome State Fault Refusal :=
  scalarFl (wSsubFl g d a b) g d a b (· - ·) subFlags s

def execSaddi (g : BitVec 2) (d a : BitVec 6) (i : BitVec 8) (s : State) :
    Host.Outcome State Fault Refusal :=
  scalarImm (wSaddi g d a i) g d a (sext64 i) (· + ·) s

def execSmuli (g : BitVec 2) (d a : BitVec 6) (i : BitVec 8) (s : State) :
    Host.Outcome State Fault Refusal :=
  scalarImm (wSmuli g d a i) g d a (sext64 i) (· * ·) s

def execSandi (g : BitVec 2) (d a : BitVec 6) (i : BitVec 8) (s : State) :
    Host.Outcome State Fault Refusal :=
  scalarImm (wSandi g d a i) g d a (zext64 i) (· &&& ·) s

def execSori (g : BitVec 2) (d a : BitVec 6) (i : BitVec 8) (s : State) :
    Host.Outcome State Fault Refusal :=
  scalarImm (wSori g d a i) g d a (zext64 i) (· ||| ·) s

def execSxori (g : BitVec 2) (d a : BitVec 6) (i : BitVec 8) (s : State) :
    Host.Outcome State Fault Refusal :=
  scalarImm (wSxori g d a i) g d a (zext64 i) (· ^^^ ·) s

def execSshli (g : BitVec 2) (d a : BitVec 6) (i : BitVec 6) (s : State) :
    Host.Outcome State Fault Refusal :=
  scalarImm (wSshli g d a i) g d a (zext64 i) (fun a i => a <<< shAmt i) s

def execSshri (g : BitVec 2) (d a : BitVec 6) (i : BitVec 6) (s : State) :
    Host.Outcome State Fault Refusal :=
  scalarImm (wSshri g d a i) g d a (zext64 i) (fun a i => a >>> shAmt i) s

def execSsrai (g : BitVec 2) (d a : BitVec 6) (i : BitVec 6) (s : State) :
    Host.Outcome State Fault Refusal :=
  scalarImm (wSsrai g d a i) g d a (zext64 i) (fun a i => a.sshiftRight (shAmt i)) s

/-- R123: sd := sext(imm17). -/
def execSmovl (g : BitVec 2) (d : BitVec 6) (i : BitVec 17) (s : State) :
    Host.Outcome State Fault Refusal :=
  issueLocal (wordForm (wSmovl g d i) g (some Lsalu) wtScalar)
    (fun _ => { writes := [useS d.toNat] })
    (fun gr => gr.flyS Lsalu d.toNat (sext64 i)) s

/-- R123: sd := (sd << 17) OR imm17. -/
def execSshin (g : BitVec 2) (d : BitVec 6) (i : BitVec 17) (s : State) :
    Host.Outcome State Fault Refusal :=
  issueLocal (wordForm (wSshin g d i) g (some Lsalu) wtScalar)
    (fun _ => { reads := [useS d.toNat], writes := [useS d.toNat] })
    (fun gr => gr.flyS Lsalu d.toNat ((gr.s d.toNat <<< 17) ||| zext64 i)) s

/-- R124: SFL as the subtract of a and b. -/
def scalarCmp (x : BitVec 32) (g : BitVec 2) (reads : List Use) (a b : Group → Word) (s : State) :
    Host.Outcome State Fault Refusal :=
  issueLocal (wordForm x g (some Lsalu) wtScalar)
    (fun _ => { reads := reads, writes := [useF] })
    (fun gr => gr.flyF Lsalu (subFlags (a gr) (b gr))) s

def execScmp (g : BitVec 2) (a b : BitVec 6) (s : State) : Host.Outcome State Fault Refusal :=
  scalarCmp (wScmp g a b) g [useS a.toNat, useS b.toNat] (·.s a.toNat) (·.s b.toNat) s

/-- R124: imm12 lies in [19:14] (high half) and [31:26]. -/
def execScmpi (g : BitVec 2) (i : BitVec 6) (a : BitVec 6) (j : BitVec 6) (s : State) :
    Host.Outcome State Fault Refusal :=
  scalarCmp (wScmpi g i a j) g [useS a.toNat] (·.s a.toNat) (fun _ => sext64 (i ++ j)) s

end Sys2Proof.Machine
end

