-- ==== Sys2Proof/Machine/Control.lean ====
section
/-!
DEFINITION. Transfers and the SCTL major: BR, JMP, CALL, RET, JMPR, SMOV, special registers, FMT,
FLG, WAIT, NOP, EXIT (R127 to R136, R52).
-/

namespace Sys2Proof.Machine

/-! ## Transfers -/

/-- R90: the target of a branch or jump. -/
def branchTarget {n : Nat} (pc : Pc) (off : BitVec n) : Pc := pc + off.signExtend 52 * 2

/-- R127. -/
def execBr (g : BitVec 2) (c : BitVec 5) (o : BitVec 18) (s : State) :
    Host.Outcome State Fault Refusal :=
  issue (wordForm (wBr g c o) g none wtScalar)
    (fun _ _ => { codes := condDefined c, reads := condReads c.toNat })
    (fun w _ _ gr =>
      if condHolds c.toNat gr then .jump w gr (branchTarget gr.pc o) else .done w gr) s

/-- R128. -/
def execJmp (g : BitVec 2) (o : BitVec 23) (s : State) : Host.Outcome State Fault Refusal :=
  issue (wordForm (wJmp g o) g none wtScalar) (fun _ _ => {})
    (fun w _ _ gr => .jump w gr (branchTarget gr.pc o)) s

/-- R128: s63 := PC + 4, of the scalar ALU class. -/
def execCall (g : BitVec 2) (o : BitVec 23) (s : State) : Host.Outcome State Fault Refusal :=
  issue (wordForm (wCall g o) g (some Lsalu) wtScalar) (fun _ _ => { writes := [useS 63] })
    (fun w _ _ gr =>
      .jump w (gr.flyS Lsalu 63 (zext64 (gr.pc + 4))) (branchTarget gr.pc o)) s

/-- R128, R129: PC := bits [51:0] of a register; an odd target traps. -/
def jumpReg (x : BitVec 32) (g : BitVec 2) (a : BitVec 6) (s : State) :
    Host.Outcome State Fault Refusal :=
  issue (wordForm x g none wtScalar) (fun _ _ => { reads := [useS a.toNat] })
    (fun w _ _ gr =>
      let t : Pc := (gr.s a.toNat).truncate 52
      if t.getLsbD 0 then .trap 0x05 (zext64 t) 0 else .jump w gr t) s

def execRet (g : BitVec 2) (a : BitVec 6) (s : State) : Host.Outcome State Fault Refusal :=
  jumpReg (wRet g a) g a s

def execJmpr (g : BitVec 2) (a : BitVec 6) (s : State) : Host.Outcome State Fault Refusal :=
  jumpReg (wJmpr g a) g a s

/-! ## Special registers (R52, R53, R131) -/

/-- R52: the E-registers, admitted only in a trap handler. -/
def isEreg (x : Nat) : Bool := decide (0x18 ≤ x) && decide (x ≤ 0x1C)

/-- R52: the indices that exist. -/
def specialDefined (x : Nat) : Bool := decide (x ≤ 0x15) || isEreg x || decide (x = 0x20) || decide (x = 0x21)

/-- R52: the indices that SMOVW writes. -/
def specialWritable (x : Nat) : Bool := decide (x = 0x13) || decide (x = 0x18) || decide (x = 0x1A)

/-- R53, R375: TEMPO and the counts of L2 lookups at the edge that begins the core cycle in which an
instruction issues: it takes effect two core cycles later, when its detection window closes
(log 10). -/
def Core.sampled (k : Core) : Nat × Word × Word := k.began.getD 2 (k.began.getLastD (0, 0, 0))

/-- R52: a special register as a number. Team, grid and gang fields read 0 in the supervisor and in
a handler group addressed to a core; GIDX reads 0 in every handler group. In a sweep run group, of
which R52 says nothing, they read as in the team that started the sweep, with GIDX and ROLE 0
(DESIGN CHOICE, log 21). -/
def specialNat (w : Work) (c slot : Nat) (g : Group) (x : Nat) : Nat :=
  let r := if g.hasTeam then w.recOf g else 0
  let team := if g.hasTeam then w.team g.launch g.lin else none
  let lin := if g.hasTeam then g.lin else 0
  let gx := lrGx r
  let gy := lrGy r
  match x with
  | 0x00 => Config.wmax
  | 0x01 => g.width
  | 0x02 => g.live.toNat
  | 0x03 => slot
  | 0x04 => g.qbase
  | 0x05 => if g.kind = .user ∨ g.kind = .run then g.gidx else 0
  | 0x06 =>
    match g.kind with
    | .handlerTeam | .handlerCore => 4
    | _ => g.role
  | 0x07 => lrNgrp r
  | 0x08 => lin
  | 0x09 => lin % gx
  | 0x0A => lin / gx % gy
  | 0x0B => lin / (gx * gy)
  | 0x0C => gx
  | 0x0D => gy
  | 0x0E => lrGz r
  | 0x0F => (team.map (·.gangSz)).getD 0
  | 0x10 => (team.map (·.gangPos)).getD 0
  | 0x11 => c
  | 0x12 => (w.core c).sampled.1
  | 0x13 => if g.chk then 1 else 0
  | 0x14 => g.stack.length
  | 0x15 => g.flg.toNat
  | 0x18 => g.epc.toNat
  | 0x19 => g.ecause.toNat
  | 0x1A => g.eexec.toNat
  | 0x1B => g.elanes.toNat
  | 0x1C => g.einfo.toNat
  | 0x20 => (w.core c).sampled.2.1.toNat
  | 0x21 => (w.core c).sampled.2.2.toNat
  | _ => 0

/-- R52, R131: the checks of an access to a special register. -/
def specialCtx (g : Group) (x : Nat) (write : Bool) : Bool :=
  specialDefined x && (!isEreg x || g.inHandler) && (!write || specialWritable x)

/-- R131: SMOVS sd, name. A read of FLG waits for the flags of earlier instructions (R102). -/
def execSmovs (g : BitVec 2) (d : BitVec 6) (x : BitVec 6) (y : BitVec 2) (s : State) :
    Host.Outcome State Fault Refusal :=
  let n := (y ++ x).toNat
  issue (wordForm (wSmovs g d x y) g (some Lsalu) wtScalar)
    (fun _ gr => { ctx := specialCtx gr n false, writes := [useS d.toNat] })
    (fun w c slot gr =>
      if n = 0x15 ∧ w.flagsPending c slot then .hold w gr none
      else .done w (gr.flyS Lsalu d.toNat (BitVec.ofNat 64 (specialNat w c slot gr n)))) s

/-- R131: SMOVW name, sa. -/
def execSmovw (g : BitVec 2) (x : BitVec 6) (a : BitVec 6) (y : BitVec 2) (s : State) :
    Host.Outcome State Fault Refusal :=
  let n := (y ++ x).toNat
  issue (wordForm (wSmovw g x a y) g none wtScalar)
    (fun _ gr => { ctx := specialCtx gr n true, reads := [useS a.toNat] })
    (fun w _ _ gr =>
      let v := gr.s a.toNat
      if n = 0x18 then
        if v.getLsbD 0 then .illegal 6 else .done w { gr with epc := v }
      else if n = 0x1A then .done w { gr with eexec := gr.clip v }
      else if v.toNat < 2 then .done w { gr with chk := v.getLsbD 0 }
      else .illegal 7) s

/-! ## Moves, FMT and FLG -/

def execSmov (g : BitVec 2) (d a : BitVec 6) (s : State) : Host.Outcome State Fault Refusal :=
  issueLocal (wordForm (wSmov g d a) g (some Lsalu) wtScalar)
    (fun _ => { reads := [useS a.toNat], writes := [useS d.toNat] })
    (fun gr => gr.flyS Lsalu d.toNat (gr.s a.toNat)) s

/-- R132: write FMT at issue, unless R49 refuses the value. -/
def writeFmt (w : Work) (gr : Group) (new : BitVec 32) : Res :=
  if fmtRefused new then .illegal 7 else .done w (gr.setFormat new)

def execFmtset (g : BitVec 2) (a : BitVec 6) (s : State) : Host.Outcome State Fault Refusal :=
  issue (wordForm (wFmtset g a) g none wtScalar) (fun _ _ => { reads := [useS a.toNat] })
    (fun w _ _ gr => writeFmt w gr ((gr.s a.toNat).truncate 32)) s

def execFmtsetMask (g : BitVec 2) (a b : BitVec 6) (s : State) :
    Host.Outcome State Fault Refusal :=
  issue (wordForm (wFmtsetMask g a b) g none wtScalar)
    (fun _ _ => { reads := [useS a.toNat, useS b.toNat] })
    (fun w _ _ gr =>
      let k : BitVec 32 := (gr.s b.toNat).truncate 32
      writeFmt w gr ((gr.format &&& ~~~k) ||| ((gr.s a.toNat).truncate 32 &&& k))) s

def execFmtget (g : BitVec 2) (d : BitVec 6) (s : State) : Host.Outcome State Fault Refusal :=
  issueLocal (wordForm (wFmtget g d) g (some Lsalu) wtScalar)
    (fun _ => { writes := [useS d.toNat] })
    (fun gr => gr.flyS Lsalu d.toNat (zext64 gr.format)) s

/-- R133. -/
def execFlgget (g : BitVec 2) (d : BitVec 6) (s : State) : Host.Outcome State Fault Refusal :=
  issue (wordForm (wFlgget g d) g (some Lsalu) wtScalar) (fun _ _ => { writes := [useS d.toNat] })
    (fun w c slot gr =>
      if w.flagsPending c slot then .hold w gr none
      else .done w (gr.flyS Lsalu d.toNat (zext64 gr.flg))) s

/-- R133: FLG := FLG AND NOT sa[31:0]. -/
def execFlgclr (g : BitVec 2) (a : BitVec 6) (s : State) : Host.Outcome State Fault Refusal :=
  issue (wordForm (wFlgclr g a) g none wtScalar) (fun _ _ => { reads := [useS a.toNat] })
    (fun w c slot gr =>
      if w.flagsPending c slot then .hold w gr none
      else .done w { gr with flg := gr.flg &&& ~~~((gr.s a.toNat).truncate 7) }) s

/-! ## WAIT, NOP, EXIT -/


/-- R18: some load of the group that is still outstanding missed in L1. -/
def Work.groupMissed (w : Work) (c slot : Nat) : Bool :=
  (w.core c).loads.any fun p => decide (p.2.slot = slot) && p.2.missed

/-- R134: WAIT takes its issue slot once; the event that brings the counters down completes it. -/
def execWait (g : BitVec 2) (c : BitVec 5) (n : BitVec 6) (s : State) :
    Host.Outcome State Fault Refusal :=
  issue (wordForm (wWait g c n) g none wtScalar) (fun _ _ => { codes := c ≠ 0#5 })
    (fun w co slot gr =>
      if waitMet gr c n.toNat then .done w gr
      else
        .await w gr (.counters c n.toNat)
          (c.getLsbD 0 && decide (n.toNat < gr.lc) && w.groupMissed co slot)) s

def execNop (g : BitVec 2) (s : State) : Host.Outcome State Fault Refusal :=
  issueLocal (wordForm (wNop g) g none wtScalar) (fun _ => {}) id s

/-- R135, R136. In a sweep routine reason 6 (R276). -/
def execExit (g : BitVec 2) (s : State) : Host.Outcome State Fault Refusal :=
  issueLocal (wordForm (wExit g) g none wtScalar)
    (fun gr =>
      { ctx := decide (gr.kind ≠ .supervisor) && decide (gr.kind ≠ .run) && !gr.inHandler })
    (fun gr => gr.dropLanes gr.exec) s

end Sys2Proof.Machine
end

