-- ==== Sys2Proof/Machine/Mask.lean ====
section
/-!
DEFINITION. Mask instructions and the mask stack: major 0x0B (R137 to R143).
-/

namespace Sys2Proof.Machine

/-- R138: a mask result goes to m0 to m7 as a scalar ALU write, or to EXEC at issue. -/
def Group.putMask (g : Group) (d : Nat) (v : Word) : Group :=
  if d = 8 then { g with exec := g.clip v } else g.flyM Lsalu d allLanes (g.clip v)

/-- R138: the class of a mask result. -/
def maskClass (d : BitVec 6) : Option Nat := if d = 8#6 then none else some Lsalu

def maskWrites (d : Nat) : List Use := if d = 8 then [] else [useM d]

/-- R137: md := f ma mb. -/
def mask3 (x : BitVec 32) (g : BitVec 2) (d a b : BitVec 6) (f : Word → Word → Word) (s : State) :
    Host.Outcome State Fault Refusal :=
  issueLocal (wordForm x g (maskClass d) wtScalar)
    (fun _ =>
      { regs := maskCode d.toNat && maskCode a.toNat && maskCode b.toNat
        reads := useMf a.toNat ++ useMf b.toNat, writes := maskWrites d.toNat })
    (fun gr => gr.putMask d.toNat (f (gr.mf a.toNat) (gr.mf b.toNat))) s

/-- R137: md := f ma. -/
def mask2 (x : BitVec 32) (g : BitVec 2) (d a : BitVec 6) (f : Word → Word) (s : State) :
    Host.Outcome State Fault Refusal :=
  issueLocal (wordForm x g (maskClass d) wtScalar)
    (fun _ =>
      { regs := maskCode d.toNat && maskCode a.toNat
        reads := useMf a.toNat, writes := maskWrites d.toNat })
    (fun gr => gr.putMask d.toNat (f (gr.mf a.toNat))) s

def execMand (g : BitVec 2) (d a b : BitVec 6) (s : State) : Host.Outcome State Fault Refusal :=
  mask3 (wMand g d a b) g d a b (· &&& ·) s

def execMor (g : BitVec 2) (d a b : BitVec 6) (s : State) : Host.Outcome State Fault Refusal :=
  mask3 (wMor g d a b) g d a b (· ||| ·) s

def execMxor (g : BitVec 2) (d a b : BitVec 6) (s : State) : Host.Outcome State Fault Refusal :=
  mask3 (wMxor g d a b) g d a b (· ^^^ ·) s

def execMnot (g : BitVec 2) (d a : BitVec 6) (s : State) : Host.Outcome State Fault Refusal :=
  mask2 (wMnot g d a) g d a (~~~ ·) s

def execMmov (g : BitVec 2) (d a : BitVec 6) (s : State) : Host.Outcome State Fault Refusal :=
  mask2 (wMmov g d a) g d a id s

def execMmovFromScalar (g : BitVec 2) (d a : BitVec 6) (s : State) :
    Host.Outcome State Fault Refusal :=
  issueLocal (wordForm (wMmovFromScalar g d a) g (maskClass d) wtScalar)
    (fun _ =>
      { regs := maskCode d.toNat, reads := [useS a.toNat], writes := maskWrites d.toNat })
    (fun gr => gr.putMask d.toNat (gr.s a.toNat)) s

/-- R119: a scalar result of variable latency without a counter: its destination is pending until
XC_RESULT_LAND, at the latest when the second core cycle after its issue begins. -/
def maskToScalar (x : BitVec 32) (g : BitVec 2) (d a : BitVec 6) (f : Word → Word) (s : State) :
    Host.Outcome State Fault Refusal :=
  issue (wordForm x g none wtScalar)
    (fun _ _ =>
      { regs := maskCode a.toNat, reads := useMf a.toNat, writes := [useS d.toNat] })
    (fun w c slot gr =>
      let k := w.core c
      let op := k.opSeq
      let land : Flight :=
        { kind := .scalar, reg := d.toNat, bank := gr.banked .scalar d.toNat, lanes := allLanes
          left := 0, val := f (gr.mf a.toNat), vec := [] }
      let w := w.setCore c
        { k with
          opSeq := op + 1
          xcs := tins op
            { slot, writes := [land], flags := 0, counted := false, trap := none
              flights := [], due := some (k.cycle + 2) } k.xcs }
      .done w (gr.await .scalar d.toNat allLanes op)) s

def execMmovToScalar (g : BitVec 2) (d a : BitVec 6) (s : State) :
    Host.Outcome State Fault Refusal :=
  maskToScalar (wMmovToScalar g d a) g d a id s

/-- Number of set bits. -/
def popc {n : Nat} (x : BitVec n) : Nat := ((upto n).filter fun i => x.getLsbD i).length

def execMpopc (g : BitVec 2) (d a : BitVec 6) (s : State) : Host.Outcome State Fault Refusal :=
  maskToScalar (wMpopc g d a) g d a (fun x => BitVec.ofNat 64 (popc x)) s

/-- R137: index of the lowest set bit; 64 when there is none. -/
def firstBit (x : Word) : Nat := ((upto 64).find? (bit x)).getD 64

def execMfirst (g : BitVec 2) (d a : BitVec 6) (s : State) : Host.Outcome State Fault Refusal :=
  maskToScalar (wMfirst g d a) g d a (fun x => BitVec.ofNat 64 (firstBit x)) s

/-! ## The mask stack (R47). Its top is the head of the list. -/

/-- R62: the rows of the mask-stack array that hold a slot's entries from a depth up. -/
def stackRows (slot from_ n : Nat) : List Nat := upto n (32 * slot + from_)

/-- A new entry is written into its row. -/
def Work.pushRow (w : Work) (c slot : Nat) (g : Group) : Work :=
  w.modCore c fun k => k.mend 8 (32 * slot + g.stack.length)

/-- R139. R96 places the overflow trap in none of its stages: with the mask operand in flight under
CHK = 1 the stall check comes first (DESIGN CHOICE, log 21). -/
def execIfm (g : BitVec 2) (a : BitVec 6) (s : State) : Host.Outcome State Fault Refusal :=
  issue (wordForm (wIfm g a) g none wtScalar)
    (fun _ _ => { regs := maskCode a.toNat, reads := useMf a.toNat })
    (fun w c slot gr =>
      if gr.stack.length = 32 then .trap 0x03 0 0
      else
        let m := gr.mf a.toNat
        .done (w.pushRow c slot gr)
          { gr with
            stack := { sexec := gr.exec, pend := gr.exec &&& ~~~m, sfmt := gr.format, kind := 0 } ::
              gr.stack
            exec := gr.exec &&& m }) s

/-- R140. -/
def execElsem (g : BitVec 2) (s : State) : Host.Outcome State Fault Refusal :=
  issue (wordForm (wElsem g) g none wtScalar) (fun _ _ => {})
    (fun w c slot gr =>
      match gr.stack with
      | [] => .trap 0x04 0 0
      | e :: t =>
        w.readRows c gr 8 (stackRows slot t.length 1) <|
          if e.kind ≠ 0 then .illegal 6
          else
            .done w
              (({ gr with exec := e.pend, stack := { e with pend := 0, kind := 1 } :: t }
                : Group).setFormat e.sfmt)) s

/-- R141. -/
def execEndm (g : BitVec 2) (s : State) : Host.Outcome State Fault Refusal :=
  issue (wordForm (wEndm g) g none wtScalar) (fun _ _ => {})
    (fun w c slot gr =>
      match gr.stack with
      | [] => .trap 0x04 0 0
      | e :: t =>
        w.readRows c gr 8 (stackRows slot t.length 1)
          (.done w (({ gr with exec := e.sexec, stack := t } : Group).setFormat e.sfmt))) s

/-- R142: lanes `b` leave every entry above the topmost loop entry, and join its PEND. None when
there is no loop entry. -/
def breakOut (b : Word) : List StackEnt → Option (List StackEnt)
  | [] => none
  | e :: t =>
    if e.kind = 2 then some ({ e with pend := e.pend ||| b } :: t)
    else
      (breakOut b t).map fun t' =>
        { e with sexec := e.sexec &&& ~~~b, pend := e.pend &&& ~~~b } :: t'

/-- R142. R62's check takes in the rows of the whole stack, also those below the loop's entry: R142 does not
say which BRKM reads (DESIGN CHOICE, log 36). -/
def execBrkm (g : BitVec 2) (a : BitVec 6) (s : State) : Host.Outcome State Fault Refusal :=
  issue (wordForm (wBrkm g a) g none wtScalar)
    (fun _ gr =>
      { regs := maskCode a.toNat, ctx := gr.stack.any fun e => decide (e.kind = 2)
        reads := useMf a.toNat })
    (fun w c slot gr =>
      let b := gr.exec &&& gr.mf a.toNat
      match breakOut b gr.stack with
      | none => .illegal 6
      | some st =>
        w.readRows c gr 8 (stackRows slot 0 gr.stack.length)
          (.done w { gr with stack := st, exec := gr.exec &&& ~~~b })) s

/-- R142: BRKM.LOOP opens a loop. -/
def execBrkmLoop (g : BitVec 2) (s : State) : Host.Outcome State Fault Refusal :=
  issue (wordForm (wBrkmLoop g) g none wtScalar) (fun _ _ => {})
    (fun w c slot gr =>
      if gr.stack.length = 32 then .trap 0x03 0 0
      else
        .done (w.pushRow c slot gr)
          { gr with
            stack := { sexec := gr.exec, pend := 0, sfmt := gr.format, kind := 2 } :: gr.stack }) s

end Sys2Proof.Machine
end

