-- ==== Sys2Proof/Machine/Vector.lean ====
section
/-!
DEFINITION. The common lane rule of vector instructions (R144 to R147): operands, flags, enabled
flags that trap, and variable-latency results with their landing.
-/

namespace Sys2Proof.Machine

/-! ## Latencies and debit weights (R100, R317) -/

def Lint : Nat := 4
def Lf32 : Nat := 6
def Lf16 : Nat := 6
def Lcvt : Nat := 6
def Lf64 : Nat := 8
def Lxl : Nat := 6
def wtInt : Nat := 60
def wtF32 : Nat := 120
def wtF16 : Nat := 100
def wtCvt : Nat := 80
def wtF64 : Nat := 200
def wtXl : Nat := 90
def wtXc : Nat := 150

/-! ## Operands -/

/-- A lane operand: none, a vector register, a pair, a scalar the same in every lane, or a
constant. -/
inductive Src where
  | none
  | vec (r : Nat)
  | pair (r : Nat)
  | scal (r : Nat)
  | imm (v : Lane)
deriving DecidableEq, Repr

/-- Reason 5: the register exists. -/
def Src.ok (x : Src) (g : Group) : Bool :=
  match x with
  | .vec r => g.hasV r
  | .pair r => g.hasPair r
  | _ => true

/-- R103: what it reads. -/
def Src.uses (x : Src) (g : Group) : List Use :=
  match x with
  | .vec r => [useV g r]
  | .pair r => useV64 g r
  | .scal r => [useS r]
  | _ => []

/-- Its value in a lane, zero-extended to 64 bits. -/
def Src.val (x : Src) (g : Group) (l : Nat) : Word :=
  match x with
  | .none => 0
  | .vec r => zext64 (g.v r l)
  | .pair r => g.v64 r l
  | .scal r => g.s r
  | .imm v => zext64 v

/-- The requirements of an elementwise instruction. -/
def vNeed (g : Group) (d a b : Src) (acc : Bool) (codes : Bool) : Need :=
  { codes, regs := d.ok g && a.ok g && b.ok g
    reads := a.uses g ++ b.uses g ++ if acc then d.uses g else []
    writes := d.uses g }

/-- Put the lane results of an elementwise instruction in flight. -/
def Group.flyD (g : Group) (L : Nat) (d : Src) (lanes : Word) (x : Nat → Word) : Group :=
  match d with
  | .vec r => g.flyV L r lanes fun l => (x l).truncate 32
  | .pair r => g.flyV64 L r lanes x
  | _ => g

/-! ## Elementwise instructions without flags -/

/-- R144 for an instruction that raises no flag. -/
def vPlain (fm : Form) (L : Nat) (d a b : Src) (acc codes : Bool)
    (f : Word → Word → Word → Word) (s : State) : Host.Outcome State Fault Refusal :=
  issueLocal fm (fun g => vNeed g d a b acc codes)
    (fun g => g.flyD L d g.exec fun l => f (a.val g l) (b.val g l) (d.val g l)) s

/-! ## Flags (R144, R50, R74) -/

/-- The flags raised in any active lane. -/
def raisedIn (exec : Word) (fl : Nat → BitVec 7) : BitVec 7 :=
  (lanesOf exec).foldl (fun x l => x ||| fl l) 0

/-- The active lanes that raise an enabled flag. -/
def trapLanes (exec : Word) (en : BitVec 7) (fl : Nat → BitVec 7) : Word :=
  maskOf fun l => bit exec l && decide (fl l &&& en ≠ 0)

/-- R74: the cause of a trap on an enabled flag. -/
def flagCause (x : BitVec 7) : Nat := 0x10 + lowFlag x

/-- R144: set FLG; then write, or trap and write nothing. -/
def withFlags (w : Work) (g : Group) (raised : BitVec 7) (lanes : Word) (write : Group → Group) :
    Res :=
  let en := raised &&& fmtEnables g.format
  let g := { g with flg := g.flg ||| raised }
  if en = 0 then .done w (write g) else .trapWith w g (flagCause en) 0 lanes

/-- A lane computation with flags: FMT, then the operand values a, b and the old d. -/
abbrev LaneFn := BitVec 32 → Word → Word → Word → Word × BitVec 7

/-- The result of each active lane. -/
def laneResults (g : Group) (d a b : Src) (f : LaneFn) : Tab (Word × BitVec 7) :=
  (lanesOf g.exec).map fun l => (l, f g.format (a.val g l) (b.val g l) (d.val g l))

/-- R144 for an instruction of fixed latency that raises flags. -/
def vFlagged (fm : Form) (L : Nat) (d a b : Src) (acc codes : Bool) (f : LaneFn) (s : State) :
    Host.Outcome State Fault Refusal :=
  issue fm (fun _ g => vNeed g d a b acc codes)
    (fun w _ _ g =>
      let res := laneResults g d a b f
      let fl := fun l => (tget (0, 0) l res).2
      withFlags w g (raisedIn g.exec fl) (trapLanes g.exec (fmtEnables g.format) fl)
        fun g => g.flyD L d g.exec fun l => (tget (0, 0) l res).1) s

/-! ## Variable latency: counter XC (R105, R106, R147) -/

/-- The register writes that a result lands with. -/
def landWrites (d : Src) (lanes : Word) (x : Nat → Word) : List Flight :=
  let one := fun (r : Nat) (v : Nat → Lane) =>
    ({ kind := .vector, reg := r, bank := false, lanes, left := 0, val := 0
       vec := (lanesOf lanes).map fun l => (l, v l) } : Flight)
  match d with
  | .vec r => [one r fun l => (x l).truncate 32]
  | .pair r =>
    [one r fun l => (x l).truncate 32, one (r + 1) fun l => (x l).extractLsb' 32 32]
  | _ => []

/-- The registers a result is pending on. -/
def Group.awaitD (g : Group) (d : Src) (lanes : Word) (op : Nat) : Group :=
  match d with
  | .vec r => g.await .vector r lanes op
  | .pair r => (g.await .vector r lanes op).await .vector (r + 1) lanes op
  | _ => g

/-- R147: issue a variable-latency operation; `can` are the flags that it can raise. -/
def vXc (fm : Form) (can : BitVec 7) (d a b : Src) (f : LaneFn) (s : State) :
    Host.Outcome State Fault Refusal :=
  issue fm (fun _ g => vNeed g d a b false true)
    (fun w c slot g =>
      if 63 ≤ g.xc then .hold w g none
      else
        let res := laneResults g d a b f
        let fl := fun l => (tget (0, 0) l res).2
        let raised := raisedIn g.exec fl
        let en := fmtEnables g.format
        let k := w.core c
        let op := k.opSeq
        let hit := raised &&& en
        let x : XcOp :=
          { slot
            writes := if hit = 0 then landWrites d g.exec fun l => (tget (0, 0) l res).1 else []
            flags := raised, counted := true
            trap := if hit = 0 then none else some (flagCause hit, trapLanes g.exec en fl, g.pc)
            flights := g.flights, due := none
            gate := decide (can &&& en ≠ 0) }
        -- the writes in flight of an instruction that will trap wait, with their distances, for its trap
        let g := if hit = 0 then g else { g with flights := [] }
        .done (w.setCore c { k with opSeq := op + 1, xcs := tins op x k.xcs })
          ({ g with xc := g.xc + 1 }.awaitD d g.exec op)) s

/-- R147, R119: the result of a variable-latency operation lands, or its trap is taken. A write
that lands acts as one of latency 0 at its program position (R106). A trap waits for the earlier XC work
of the group, and finds the writes in flight as they were before the instruction, which writes nothing
(R101, R104, R326). -/
def Work.xcLand (w : Work) (core id : Nat) : Work :=
  let k := w.core core
  match tfind id k.xcs with
  | none => w
  | some x =>
    if x.trap.isSome && k.xcs.any fun y => decide (y.1 < id) && decide (y.2.slot = x.slot) && y.2.counted then w
    else
    let w := w.setCore core { k with xcs := tdel id k.xcs }
    match w.grp core x.slot with
    | none => w
    | some g =>
      let g := g.unpend id
      let g := { g with flg := g.flg ||| x.flags, xc := if x.counted then g.xc - 1 else g.xc }
      match x.trap with
      | none => (w.setGrp core x.slot (x.writes.foldl Group.land1 g)).settleWait core x.slot
      | some (cause, lanes, pc) =>
        w.takeTrap core x.slot { g with pc, flights := x.flights } cause 0 lanes

def execXcResultLand (core id : Nat) (s : State) : Host.Outcome State Fault Refusal :=
  event s fun w => w.xcLand core id

end Sys2Proof.Machine
end

