-- ==== Sys2Proof/Machine/VecInt.lean ====
section
/-!
DEFINITION. Vector integer arithmetic, compare and select: majors 0x0C to 0x0F and the integer
parcels (R148 to R157, R92).
-/

namespace Sys2Proof.Machine

/-- A 32-bit lane operation on zero-extended operands. -/
def i32 (f : Lane → Lane → Lane → Lane) (a b d : Word) : Word :=
  zext64 (f (a.truncate 32) (b.truncate 32) (d.truncate 32))

/-- R148: VV format. -/
def vInt (x : BitVec 32) (g : BitVec 2) (d a b : BitVec 6) (acc : Bool)
    (f : Lane → Lane → Lane → Lane) (s : State) : Host.Outcome State Fault Refusal :=
  vPlain (wordForm x g (some Lint) wtInt) Lint (.vec d.toNat) (.vec a.toNat) (.vec b.toNat) acc true
    (i32 f) s

/-- R148: one source. -/
def vInt1 (x : BitVec 32) (g : BitVec 2) (d a : BitVec 6) (f : Lane → Lane) (s : State) :
    Host.Outcome State Fault Refusal :=
  vPlain (wordForm x g (some Lint) wtInt) Lint (.vec d.toNat) (.vec a.toNat) .none false true
    (i32 fun a _ _ => f a) s

/-- R153: VS format: b is the low 32 bits of a scalar. -/
def vIntS (x : BitVec 32) (g : BitVec 2) (d a b : BitVec 6) (acc : Bool)
    (f : Lane → Lane → Lane → Lane) (s : State) : Host.Outcome State Fault Refusal :=
  vPlain (wordForm x g (some Lint) wtInt) Lint (.vec d.toNat) (.vec a.toNat) (.scal b.toNat) acc
    true (i32 f) s

/-- R154: VI format. -/
def vIntI (x : BitVec 32) (g : BitVec 2) (d a : BitVec 6) (i : Lane)
    (f : Lane → Lane → Lane → Lane) (s : State) : Host.Outcome State Fault Refusal :=
  vPlain (wordForm x g (some Lint) wtInt) Lint (.vec d.toNat) (.vec a.toNat) (.imm i) false true
    (i32 f) s

/-- R149: a parcel denotes its row with va = vd and vb = vs. -/
def vIntP (x : BitVec 16) (t : BitVec 1) (d b : BitVec 5) (f : Lane → Lane → Lane → Lane)
    (s : State) : Host.Outcome State Fault Refusal :=
  vPlain (parcelForm x t Lint wtInt) Lint (.vec d.toNat) (.vec d.toNat) (.vec b.toNat) false true
    (i32 f) s

/-! ## Lane operations (R148, R151) -/

def addL (a b _ : Lane) : Lane := a + b
def subL (a b _ : Lane) : Lane := a - b
def mulL (a b _ : Lane) : Lane := a * b
def mulhS (a b _ : Lane) : Lane := BitVec.ofInt 32 (a.toInt * b.toInt / 2 ^ 32)
def mulhU (a b _ : Lane) : Lane := BitVec.ofNat 32 (a.toNat * b.toNat / 2 ^ 32)
def madL (a b d : Lane) : Lane := a * b + d
def andL (a b _ : Lane) : Lane := a &&& b
def orL (a b _ : Lane) : Lane := a ||| b
def xorL (a b _ : Lane) : Lane := a ^^^ b
def minSL (a b _ : Lane) : Lane := minS a b
def minUL (a b _ : Lane) : Lane := minU a b
def maxSL (a b _ : Lane) : Lane := maxS a b
def maxUL (a b _ : Lane) : Lane := maxU a b
/-- Bits [31:5] of a shift amount are ignored. -/
def shlL (a b _ : Lane) : Lane := a <<< (b.toNat % 32)
def shrL (a b _ : Lane) : Lane := a >>> (b.toNat % 32)
def sraL (a b _ : Lane) : Lane := a.sshiftRight (b.toNat % 32)
def movB (_ b _ : Lane) : Lane := b
def absL (a : Lane) : Lane := if a.msb then -a else a
/-- Leading zero bits. -/
def clzL (a : Lane) : Lane :=
  BitVec.ofNat 32 (((upto 32).find? fun i => a.getLsbD (31 - i)).getD 32)
/-- Bit i moved to bit 31 - i. -/
def brevL (a : Lane) : Lane :=
  BitVec.ofNat 32 ((upto 32).foldl (fun n i => if a.getLsbD i then n + 2 ^ (31 - i) else n) 0)
def popL (a : Lane) : Lane := BitVec.ofNat 32 (popc a)

/-- R151: position and length of a field. -/
def bfPos (b : Lane) : Nat := b.toNat % 32
def bfLen (b : Lane) : Nat := min (b.toNat / 256 % 64) (32 - bfPos b)

def bfeU (a b _ : Lane) : Lane := BitVec.ofNat 32 (a.toNat / 2 ^ bfPos b % 2 ^ bfLen b)

def bfeS (a b d : Lane) : Lane :=
  ((bfeU a b d) <<< (32 - bfLen b)).sshiftRight (32 - bfLen b)

def bfiL (a b d : Lane) : Lane :=
  let m : Lane := BitVec.ofNat 32 (2 ^ bfLen b - 1)
  (d &&& ~~~(m <<< bfPos b)) ||| ((a &&& m) <<< bfPos b)

/-! ## Division (R75, R152) -/

/-- R75: signed division of 32 bits, quotient or remainder, with its flag. -/
def divS (rem : Bool) (a b : Lane) : Lane × BitVec 7 :=
  if b = 0 then (if rem then a else if a.msb then 0x80000000 else 0x7FFFFFFF, flIDZ)
  else if a = 0x80000000 ∧ b = 0xFFFFFFFF then (if rem then 0 else a, if rem then 0 else flIOV)
  else (if rem then a.srem b else a.sdiv b, 0)

/-- R75: unsigned division. -/
def divU (rem : Bool) (a b : Lane) : Lane × BitVec 7 :=
  if b = 0 then (if rem then a else 0xFFFFFFFF, flIDZ)
  else (if rem then a % b else a / b, 0)

/-- A division as a lane function. -/
def divFn (f : Lane → Lane → Lane × BitVec 7) : LaneFn := fun _ a b _ =>
  let r := f (a.truncate 32) (b.truncate 32)
  (zext64 r.1, r.2)

/-- R147, R152: a division: XC. -/
def vDiv (x : BitVec 32) (g : BitVec 2) (d a : BitVec 6) (b : Src)
    (f : Lane → Lane → Lane × BitVec 7) (s : State) : Host.Outcome State Fault Refusal :=
  vXc (wordForm x g none wtXc) (flIDZ ||| flIOV) (.vec d.toNat) (.vec a.toNat) b (divFn f) s

/-! ## Major 0x0C: VINT -/

def execVaddI32 (g : BitVec 2) (d a b : BitVec 6) (s : State) : Host.Outcome State Fault Refusal :=
  vInt (wVaddI32 g d a b) g d a b false addL s

def execVsubI32 (g : BitVec 2) (d a b : BitVec 6) (s : State) : Host.Outcome State Fault Refusal :=
  vInt (wVsubI32 g d a b) g d a b false subL s

def execVmulI32 (g : BitVec 2) (d a b : BitVec 6) (s : State) : Host.Outcome State Fault Refusal :=
  vInt (wVmulI32 g d a b) g d a b false mulL s

def execVmulhI32 (g : BitVec 2) (d a b : BitVec 6) (s : State) : Host.Outcome State Fault Refusal :=
  vInt (wVmulhI32 g d a b) g d a b false mulhS s

def execVmulhN32 (g : BitVec 2) (d a b : BitVec 6) (s : State) : Host.Outcome State Fault Refusal :=
  vInt (wVmulhN32 g d a b) g d a b false mulhU s

def execVmadI32 (g : BitVec 2) (d a b : BitVec 6) (s : State) : Host.Outcome State Fault Refusal :=
  vInt (wVmadI32 g d a b) g d a b true madL s

def execVdivI32 (g : BitVec 2) (d a b : BitVec 6) (s : State) : Host.Outcome State Fault Refusal :=
  vDiv (wVdivI32 g d a b) g d a (.vec b.toNat) (divS false) s

def execVdivN32 (g : BitVec 2) (d a b : BitVec 6) (s : State) : Host.Outcome State Fault Refusal :=
  vDiv (wVdivN32 g d a b) g d a (.vec b.toNat) (divU false) s

def execVremI32 (g : BitVec 2) (d a b : BitVec 6) (s : State) : Host.Outcome State Fault Refusal :=
  vDiv (wVremI32 g d a b) g d a (.vec b.toNat) (divS true) s

def execVremN32 (g : BitVec 2) (d a b : BitVec 6) (s : State) : Host.Outcome State Fault Refusal :=
  vDiv (wVremN32 g d a b) g d a (.vec b.toNat) (divU true) s

def execVminI32 (g : BitVec 2) (d a b : BitVec 6) (s : State) : Host.Outcome State Fault Refusal :=
  vInt (wVminI32 g d a b) g d a b false minSL s

def execVminN32 (g : BitVec 2) (d a b : BitVec 6) (s : State) : Host.Outcome State Fault Refusal :=
  vInt (wVminN32 g d a b) g d a b false minUL s

def execVmaxI32 (g : BitVec 2) (d a b : BitVec 6) (s : State) : Host.Outcome State Fault Refusal :=
  vInt (wVmaxI32 g d a b) g d a b false maxSL s

def execVmaxN32 (g : BitVec 2) (d a b : BitVec 6) (s : State) : Host.Outcome State Fault Refusal :=
  vInt (wVmaxN32 g d a b) g d a b false maxUL s

def execVand (g : BitVec 2) (d a b : BitVec 6) (s : State) : Host.Outcome State Fault Refusal :=
  vInt (wVand g d a b) g d a b false andL s

def execVor (g : BitVec 2) (d a b : BitVec 6) (s : State) : Host.Outcome State Fault Refusal :=
  vInt (wVor g d a b) g d a b false orL s

def execVxor (g : BitVec 2) (d a b : BitVec 6) (s : State) : Host.Outcome State Fault Refusal :=
  vInt (wVxor g d a b) g d a b false xorL s

def execVshl (g : BitVec 2) (d a b : BitVec 6) (s : State) : Host.Outcome State Fault Refusal :=
  vInt (wVshl g d a b) g d a b false shlL s

def execVshr (g : BitVec 2) (d a b : BitVec 6) (s : State) : Host.Outcome State Fault Refusal :=
  vInt (wVshr g d a b) g d a b false shrL s

def execVsra (g : BitVec 2) (d a b : BitVec 6) (s : State) : Host.Outcome State Fault Refusal :=
  vInt (wVsra g d a b) g d a b false sraL s

def execVabsI32 (g : BitVec 2) (d a : BitVec 6) (s : State) : Host.Outcome State Fault Refusal :=
  vInt1 (wVabsI32 g d a) g d a absL s

def execVnegI32 (g : BitVec 2) (d a : BitVec 6) (s : State) : Host.Outcome State Fault Refusal :=
  vInt1 (wVnegI32 g d a) g d a (fun a => -a) s

def execVnot (g : BitVec 2) (d a : BitVec 6) (s : State) : Host.Outcome State Fault Refusal :=
  vInt1 (wVnot g d a) g d a (fun a => ~~~a) s

def execVpopc (g : BitVec 2) (d a : BitVec 6) (s : State) : Host.Outcome State Fault Refusal :=
  vInt1 (wVpopc g d a) g d a popL s

def execVclz (g : BitVec 2) (d a : BitVec 6) (s : State) : Host.Outcome State Fault Refusal :=
  vInt1 (wVclz g d a) g d a clzL s

def execVbrev (g : BitVec 2) (d a : BitVec 6) (s : State) : Host.Outcome State Fault Refusal :=
  vInt1 (wVbrev g d a) g d a brevL s

def execVbfeI32 (g : BitVec 2) (d a b : BitVec 6) (s : State) : Host.Outcome State Fault Refusal :=
  vInt (wVbfeI32 g d a b) g d a b false bfeS s

def execVbfeN32 (g : BitVec 2) (d a b : BitVec 6) (s : State) : Host.Outcome State Fault Refusal :=
  vInt (wVbfeN32 g d a b) g d a b false bfeU s

def execVbfi (g : BitVec 2) (d a b : BitVec 6) (s : State) : Host.Outcome State Fault Refusal :=
  vInt (wVbfi g d a b) g d a b true bfiL s

def execVmov (g : BitVec 2) (d a : BitVec 6) (s : State) : Host.Outcome State Fault Refusal :=
  vInt1 (wVmov g d a) g d a id s

/-- R150: m0 as a carry, one bit per lane. -/
def carryChain (x : BitVec 32) (g : BitVec 2) (d a : BitVec 6) (b : Src)
    (f : Nat → Nat → Nat → Lane × Bool) (s : State) : Host.Outcome State Fault Refusal :=
  issueLocal (wordForm x g (some Lint) wtInt)
    (fun gr =>
      let n := vNeed gr (.vec d.toNat) (.vec a.toNat) b false true
      let m : Use := { kind := .mask, reg := 0, lanes := gr.exec }
      { n with reads := n.reads ++ [m], writes := n.writes ++ [m] })
    (fun gr =>
      let r := fun l =>
        f ((Src.vec a.toNat).val gr l).toNat ((b.val gr l).toNat % 2 ^ 32)
          (if bit (gr.m 0) l then 1 else 0)
      (gr.flyV Lint d.toNat gr.exec fun l => (r l).1).flyM Lint 0 gr.exec
        (maskOf fun l => (r l).2)) s

def addCarry (a b c : Nat) : Lane × Bool :=
  (BitVec.ofNat 32 (a + b + c), decide (2 ^ 32 ≤ a + b + c))
def subBorrow (a b c : Nat) : Lane × Bool :=
  (BitVec.ofNat 32 (a + 2 ^ 33 - b - c), decide (a < b + c))

def execVaddc (g : BitVec 2) (d a b : BitVec 6) (s : State) : Host.Outcome State Fault Refusal :=
  carryChain (wVaddc g d a b) g d a (.vec b.toNat) addCarry s

def execVsubb (g : BitVec 2) (d a b : BitVec 6) (s : State) : Host.Outcome State Fault Refusal :=
  carryChain (wVsubb g d a b) g d a (.vec b.toNat) subBorrow s

/-! ## Major 0x0D: VINTS -/

def execVaddI32Vs (g : BitVec 2) (d a b : BitVec 6) (s : State) :
    Host.Outcome State Fault Refusal :=
  vIntS (wVaddI32Vs g d a b) g d a b false addL s

def execVsubI32Vs (g : BitVec 2) (d a b : BitVec 6) (s : State) :
    Host.Outcome State Fault Refusal :=
  vIntS (wVsubI32Vs g d a b) g d a b false subL s

def execVmulI32Vs (g : BitVec 2) (d a b : BitVec 6) (s : State) :
    Host.Outcome State Fault Refusal :=
  vIntS (wVmulI32Vs g d a b) g d a b false mulL s

def execVmulhI32Vs (g : BitVec 2) (d a b : BitVec 6) (s : State) :
    Host.Outcome State Fault Refusal :=
  vIntS (wVmulhI32Vs g d a b) g d a b false mulhS s

def execVmulhN32Vs (g : BitVec 2) (d a b : BitVec 6) (s : State) :
    Host.Outcome State Fault Refusal :=
  vIntS (wVmulhN32Vs g d a b) g d a b false mulhU s

def execVmadI32Vs (g : BitVec 2) (d a b : BitVec 6) (s : State) :
    Host.Outcome State Fault Refusal :=
  vIntS (wVmadI32Vs g d a b) g d a b true madL s

def execVminI32Vs (g : BitVec 2) (d a b : BitVec 6) (s : State) :
    Host.Outcome State Fault Refusal :=
  vIntS (wVminI32Vs g d a b) g d a b false minSL s

def execVminN32Vs (g : BitVec 2) (d a b : BitVec 6) (s : State) :
    Host.Outcome State Fault Refusal :=
  vIntS (wVminN32Vs g d a b) g d a b false minUL s

def execVmaxI32Vs (g : BitVec 2) (d a b : BitVec 6) (s : State) :
    Host.Outcome State Fault Refusal :=
  vIntS (wVmaxI32Vs g d a b) g d a b false maxSL s

def execVmaxN32Vs (g : BitVec 2) (d a b : BitVec 6) (s : State) :
    Host.Outcome State Fault Refusal :=
  vIntS (wVmaxN32Vs g d a b) g d a b false maxUL s

def execVandVs (g : BitVec 2) (d a b : BitVec 6) (s : State) : Host.Outcome State Fault Refusal :=
  vIntS (wVandVs g d a b) g d a b false andL s

def execVorVs (g : BitVec 2) (d a b : BitVec 6) (s : State) : Host.Outcome State Fault Refusal :=
  vIntS (wVorVs g d a b) g d a b false orL s

def execVxorVs (g : BitVec 2) (d a b : BitVec 6) (s : State) : Host.Outcome State Fault Refusal :=
  vIntS (wVxorVs g d a b) g d a b false xorL s

def execVshlVs (g : BitVec 2) (d a b : BitVec 6) (s : State) : Host.Outcome State Fault Refusal :=
  vIntS (wVshlVs g d a b) g d a b false shlL s

def execVshrVs (g : BitVec 2) (d a b : BitVec 6) (s : State) : Host.Outcome State Fault Refusal :=
  vIntS (wVshrVs g d a b) g d a b false shrL s

def execVsraVs (g : BitVec 2) (d a b : BitVec 6) (s : State) : Host.Outcome State Fault Refusal :=
  vIntS (wVsraVs g d a b) g d a b false sraL s

def execVbfeI32Vs (g : BitVec 2) (d a b : BitVec 6) (s : State) :
    Host.Outcome State Fault Refusal :=
  vIntS (wVbfeI32Vs g d a b) g d a b false bfeS s

def execVbfeN32Vs (g : BitVec 2) (d a b : BitVec 6) (s : State) :
    Host.Outcome State Fault Refusal :=
  vIntS (wVbfeN32Vs g d a b) g d a b false bfeU s

def execVbfiVs (g : BitVec 2) (d a b : BitVec 6) (s : State) : Host.Outcome State Fault Refusal :=
  vIntS (wVbfiVs g d a b) g d a b true bfiL s

def execVdivI32Vs (g : BitVec 2) (d a b : BitVec 6) (s : State) :
    Host.Outcome State Fault Refusal :=
  vDiv (wVdivI32Vs g d a b) g d a (.scal b.toNat) (divS false) s

def execVdivN32Vs (g : BitVec 2) (d a b : BitVec 6) (s : State) :
    Host.Outcome State Fault Refusal :=
  vDiv (wVdivN32Vs g d a b) g d a (.scal b.toNat) (divU false) s

def execVremI32Vs (g : BitVec 2) (d a b : BitVec 6) (s : State) :
    Host.Outcome State Fault Refusal :=
  vDiv (wVremI32Vs g d a b) g d a (.scal b.toNat) (divS true) s

def execVremN32Vs (g : BitVec 2) (d a b : BitVec 6) (s : State) :
    Host.Outcome State Fault Refusal :=
  vDiv (wVremN32Vs g d a b) g d a (.scal b.toNat) (divU true) s

def execVaddcVs (g : BitVec 2) (d a b : BitVec 6) (s : State) : Host.Outcome State Fault Refusal :=
  carryChain (wVaddcVs g d a b) g d a (.scal b.toNat) addCarry s

def execVsubbVs (g : BitVec 2) (d a b : BitVec 6) (s : State) : Host.Outcome State Fault Refusal :=
  carryChain (wVsubbVs g d a b) g d a (.scal b.toNat) subBorrow s

def execVmovVs (g : BitVec 2) (d b : BitVec 6) (s : State) : Host.Outcome State Fault Refusal :=
  vPlain (wordForm (wVmovVs g d b) g (some Lint) wtInt) Lint (.vec d.toNat) .none (.scal b.toNat)
    false true (i32 movB) s

/-! ## Major 0x0E: VINTI -/

def execVaddI32Vi (g : BitVec 2) (d a : BitVec 6) (i : BitVec 8) (s : State) :
    Host.Outcome State Fault Refusal :=
  vIntI (wVaddI32Vi g d a i) g d a (i.signExtend 32) addL s

def execVmulI32Vi (g : BitVec 2) (d a : BitVec 6) (i : BitVec 8) (s : State) :
    Host.Outcome State Fault Refusal :=
  vIntI (wVmulI32Vi g d a i) g d a (i.signExtend 32) mulL s

def execVandVi (g : BitVec 2) (d a : BitVec 6) (i : BitVec 8) (s : State) :
    Host.Outcome State Fault Refusal :=
  vIntI (wVandVi g d a i) g d a (i.zeroExtend 32) andL s

def execVorVi (g : BitVec 2) (d a : BitVec 6) (i : BitVec 8) (s : State) :
    Host.Outcome State Fault Refusal :=
  vIntI (wVorVi g d a i) g d a (i.zeroExtend 32) orL s

def execVxorVi (g : BitVec 2) (d a : BitVec 6) (i : BitVec 8) (s : State) :
    Host.Outcome State Fault Refusal :=
  vIntI (wVxorVi g d a i) g d a (i.zeroExtend 32) xorL s

def execVshlVi (g : BitVec 2) (d a : BitVec 6) (i : BitVec 5) (s : State) :
    Host.Outcome State Fault Refusal :=
  vIntI (wVshlVi g d a i) g d a (i.zeroExtend 32) shlL s

def execVshrVi (g : BitVec 2) (d a : BitVec 6) (i : BitVec 5) (s : State) :
    Host.Outcome State Fault Refusal :=
  vIntI (wVshrVi g d a i) g d a (i.zeroExtend 32) shrL s

def execVsraVi (g : BitVec 2) (d a : BitVec 6) (i : BitVec 5) (s : State) :
    Host.Outcome State Fault Refusal :=
  vIntI (wVsraVi g d a i) g d a (i.zeroExtend 32) sraL s

/-! ## Integer parcels (R92) -/

def execVaddI32Parcel (t : BitVec 1) (d b : BitVec 5) (s : State) :
    Host.Outcome State Fault Refusal :=
  vIntP (wVaddI32Parcel t d b) t d b addL s

def execVsubI32Parcel (t : BitVec 1) (d b : BitVec 5) (s : State) :
    Host.Outcome State Fault Refusal :=
  vIntP (wVsubI32Parcel t d b) t d b subL s

def execVmulI32Parcel (t : BitVec 1) (d b : BitVec 5) (s : State) :
    Host.Outcome State Fault Refusal :=
  vIntP (wVmulI32Parcel t d b) t d b mulL s

def execVminI32Parcel (t : BitVec 1) (d b : BitVec 5) (s : State) :
    Host.Outcome State Fault Refusal :=
  vIntP (wVminI32Parcel t d b) t d b minSL s

def execVmaxI32Parcel (t : BitVec 1) (d b : BitVec 5) (s : State) :
    Host.Outcome State Fault Refusal :=
  vIntP (wVmaxI32Parcel t d b) t d b maxSL s

def execVandParcel (t : BitVec 1) (d b : BitVec 5) (s : State) : Host.Outcome State Fault Refusal :=
  vIntP (wVandParcel t d b) t d b andL s

def execVorParcel (t : BitVec 1) (d b : BitVec 5) (s : State) : Host.Outcome State Fault Refusal :=
  vIntP (wVorParcel t d b) t d b orL s

def execVxorParcel (t : BitVec 1) (d b : BitVec 5) (s : State) : Host.Outcome State Fault Refusal :=
  vIntP (wVxorParcel t d b) t d b xorL s

def execVshlParcel (t : BitVec 1) (d b : BitVec 5) (s : State) : Host.Outcome State Fault Refusal :=
  vIntP (wVshlParcel t d b) t d b shlL s

def execVshrParcel (t : BitVec 1) (d b : BitVec 5) (s : State) : Host.Outcome State Fault Refusal :=
  vIntP (wVshrParcel t d b) t d b shrL s

def execVmovParcel (t : BitVec 1) (d b : BitVec 5) (s : State) : Host.Outcome State Fault Refusal :=
  vPlain (parcelForm (wVmovParcel t d b) t Lint wtInt) Lint (.vec d.toNat) .none (.vec b.toNat)
    false true (i32 movB) s

/-- R93: the parcel 0x0000 raises the illegal-instruction trap with reason 1. -/
def execNullParcel (s : State) : Host.Outcome State Fault Refusal :=
  issue (parcelForm 0#16 0 Lint wtInt) (fun _ _ => {}) (fun _ _ _ _ => .illegal 1) s

/-! ## Major 0x0F: VCMP -/

/-- R156: a compare of two operands in each active lane, into a mask. -/
def vCompare (x : BitVec 32) (g : BitVec 2) (d : BitVec 6) (a b : Src) (codes : Bool)
    (f : Word → Word → Bool × BitVec 7) (s : State) : Host.Outcome State Fault Refusal :=
  issue (wordForm x g (some Lint) wtInt)
    (fun _ gr =>
      { codes, regs := maskCode d.toNat && a.ok gr && b.ok gr, ctx := decide (d ≠ 8#6)
        reads := a.uses gr ++ b.uses gr
        writes := [{ kind := .mask, reg := d.toNat, lanes := gr.exec }] })
    (fun w _ _ gr =>
      let r := fun l => f (a.val gr l) (b.val gr l)
      let fl := fun l => (r l).2
      withFlags w gr (raisedIn gr.exec fl) (trapLanes gr.exec (fmtEnables gr.format) fl)
        fun gr => gr.flyM Lint d.toNat gr.exec (maskOf fun l => bit gr.exec l && (r l).1)) s

/-- R155: an integer condition. -/
def intTest (signed : Bool) (c : Nat) (a b : Word) : Bool × BitVec 7 :=
  let x : Lane := a.truncate 32
  let y : Lane := b.truncate 32
  let lt := if signed then x.slt y else x.ult y
  (match c with
    | 0 => decide (x = y)
    | 1 => decide (x ≠ y)
    | 2 => lt
    | 3 => lt || decide (x = y)
    | 4 => !(lt || decide (x = y))
    | _ => !lt, 0)

def execVcmpI32 (g : BitVec 2) (c : BitVec 3) (d a b : BitVec 6) (s : State) :
    Host.Outcome State Fault Refusal :=
  vCompare (wVcmpI32 g c d a b) g d (.vec a.toNat) (.vec b.toNat) (decide (c.toNat ≤ 5))
    (intTest true c.toNat) s

def execVcmpN32 (g : BitVec 2) (c : BitVec 3) (d a b : BitVec 6) (s : State) :
    Host.Outcome State Fault Refusal :=
  vCompare (wVcmpN32 g c d a b) g d (.vec a.toNat) (.vec b.toNat) (decide (c.toNat ≤ 5))
    (intTest false c.toNat) s

def execVcmpF32 (g : BitVec 2) (c : BitVec 3) (d a b : BitVec 6) (s : State) :
    Host.Outcome State Fault Refusal :=
  vCompare (wVcmpF32 g c d a b) g d (.vec a.toNat) (.vec b.toNat) (decide (c.toNat ≤ 6))
    (fun x y => F32.test c.toNat x.toNat y.toNat) s

def execVcmpF64 (g : BitVec 2) (c : BitVec 3) (d a b : BitVec 6) (s : State) :
    Host.Outcome State Fault Refusal :=
  vCompare (wVcmpF64 g c d a b) g d (.pair a.toNat) (.pair b.toNat) (decide (c.toNat ≤ 6))
    (fun x y => F64.test c.toNat x.toNat y.toNat) s

/-- R157. -/
def execVsel (g : BitVec 2) (d a b : BitVec 6) (s : State) : Host.Outcome State Fault Refusal :=
  issueLocal (wordForm (wVsel g d a b) g (some Lint) wtInt)
    (fun gr =>
      let n := vNeed gr (.vec d.toNat) (.vec a.toNat) (.vec b.toNat) false true
      { n with reads := n.reads ++ [{ kind := .mask, reg := 0, lanes := gr.exec }] })
    (fun gr =>
      gr.flyV Lint d.toNat gr.exec fun l =>
        if bit (gr.m 0) l then gr.v a.toNat l else gr.v b.toNat l) s

end Sys2Proof.Machine
end

