-- ==== Sys2Proof/Machine/VecFloat.lean ====
section
/-!
DEFINITION. Floating vector arithmetic and special functions: majors 0x10 to 0x13, 0x15 and the
FP32 parcels (R158 to R163, R171, R181).
-/

namespace Sys2Proof.Machine

/-- A result as a lane value with flags. -/
def Fr.lane (r : Fr) : Word × BitVec 7 := (BitVec.ofNat 64 r.bits, r.fl)

/-- A lane function from an operation on encodings: the rounding mode, then a, b, d. -/
def fn (f : Nat → Nat → Nat → Nat → Fr) : LaneFn := fun fmt a b d =>
  (f (fmtRM fmt) a.toNat b.toNat d.toNat).lane

/-- Operands of 32-bit scalars are the low 32 bits (R162). -/
def fnLow (f : Nat → Nat → Nat → Nat → Fr) : LaneFn := fun fmt a b d =>
  (f (fmtRM fmt) a.toNat (b.toNat % 2 ^ 32) d.toNat).lane

/-! ## Operations (R158 to R161) -/

def opAdd (f : FFmt) (m a b _ : Nat) : Fr := f.add m a b
def opSub (f : FFmt) (m a b _ : Nat) : Fr := f.sub m a b
def opMul (f : FFmt) (m a b _ : Nat) : Fr := f.mul m a b
def opFma (f : FFmt) (m a b d : Nat) : Fr := f.fma m a b d
def opFms (f : FFmt) (m a b d : Nat) : Fr := f.fms m a b d
def opMin (f : FFmt) (_ a b _ : Nat) : Fr := f.pick false a b
def opMax (f : FFmt) (_ a b _ : Nat) : Fr := f.pick true a b
def opDiv (f : FFmt) (m a b _ : Nat) : Fr := f.div m a b
def opSqrt (f : FFmt) (m a _ _ : Nat) : Fr := f.sqrt m a

/-- Sign manipulation (R161). -/
def fabs (f : FFmt) (a : Word) : Word := BitVec.ofNat 64 (a.toNat % f.signBit)
def fneg (f : FFmt) (a : Word) : Word := a ^^^ BitVec.ofNat 64 f.signBit

/-- The floating flags that an operation can raise (R147). -/
def flFloat : BitVec 7 := flNV ||| flDZ ||| flOF ||| flUF ||| flNX

/-- VF32 with flags. -/
def vF32 (x : BitVec 32) (g : BitVec 2) (d a : BitVec 6) (b : Src) (acc : Bool)
    (f : Nat → Nat → Nat → Nat → Fr) (s : State) : Host.Outcome State Fault Refusal :=
  vFlagged (wordForm x g (some Lf32) wtF32) Lf32 (.vec d.toNat) (.vec a.toNat) b acc true
    (fnLow f) s

/-- VF64 with flags. -/
def vF64 (x : BitVec 32) (g : BitVec 2) (d a : BitVec 6) (b : Src) (acc : Bool)
    (f : Nat → Nat → Nat → Nat → Fr) (s : State) : Host.Outcome State Fault Refusal :=
  vFlagged (wordForm x g (some Lf64) wtF64) Lf64 (.pair d.toNat) (.pair a.toNat) b acc true (fn f) s

/-- FP32 parcels (R92, R149). -/
def vF32P (x : BitVec 16) (t : BitVec 1) (d b : BitVec 5) (f : Nat → Nat → Nat → Nat → Fr)
    (s : State) : Host.Outcome State Fault Refusal :=
  vFlagged (parcelForm x t Lf32 wtF32) Lf32 (.vec d.toNat) (.vec d.toNat) (.vec b.toNat) false true
    (fn f) s

/-- Divide, square root and special functions of FP32: XC. -/
def vF32X (x : BitVec 32) (g : BitVec 2) (d a : BitVec 6) (b : Src)
    (f : Nat → Nat → Nat → Nat → Fr) (s : State) : Host.Outcome State Fault Refusal :=
  vXc (wordForm x g none wtXc) flFloat (.vec d.toNat) (.vec a.toNat) b (fnLow f) s

def vF64X (x : BitVec 32) (g : BitVec 2) (d a : BitVec 6) (b : Src)
    (f : Nat → Nat → Nat → Nat → Fr) (s : State) : Host.Outcome State Fault Refusal :=
  vXc (wordForm x g none wtXc) flFloat (.pair d.toNat) (.pair a.toNat) b (fn f) s

/-! ## Majors 0x10, 0x11 and 0x12 -/

def execVfaddF32 (g : BitVec 2) (d a b : BitVec 6) (s : State) : Host.Outcome State Fault Refusal :=
  vF32 (wVfaddF32 g d a b) g d a (.vec b.toNat) false (opAdd F32) s

def execVfsubF32 (g : BitVec 2) (d a b : BitVec 6) (s : State) : Host.Outcome State Fault Refusal :=
  vF32 (wVfsubF32 g d a b) g d a (.vec b.toNat) false (opSub F32) s

def execVfmulF32 (g : BitVec 2) (d a b : BitVec 6) (s : State) : Host.Outcome State Fault Refusal :=
  vF32 (wVfmulF32 g d a b) g d a (.vec b.toNat) false (opMul F32) s

def execVfmaF32 (g : BitVec 2) (d a b : BitVec 6) (s : State) : Host.Outcome State Fault Refusal :=
  vF32 (wVfmaF32 g d a b) g d a (.vec b.toNat) true (opFma F32) s

def execVfmsF32 (g : BitVec 2) (d a b : BitVec 6) (s : State) : Host.Outcome State Fault Refusal :=
  vF32 (wVfmsF32 g d a b) g d a (.vec b.toNat) true (opFms F32) s

def execVfminF32 (g : BitVec 2) (d a b : BitVec 6) (s : State) : Host.Outcome State Fault Refusal :=
  vF32 (wVfminF32 g d a b) g d a (.vec b.toNat) false (opMin F32) s

def execVfmaxF32 (g : BitVec 2) (d a b : BitVec 6) (s : State) : Host.Outcome State Fault Refusal :=
  vF32 (wVfmaxF32 g d a b) g d a (.vec b.toNat) false (opMax F32) s

def execVfabsF32 (g : BitVec 2) (d a : BitVec 6) (s : State) : Host.Outcome State Fault Refusal :=
  vPlain (wordForm (wVfabsF32 g d a) g (some Lf32) wtF32) Lf32 (.vec d.toNat) (.vec a.toNat) .none
    false true (fun a _ _ => fabs F32 a) s

def execVfnegF32 (g : BitVec 2) (d a : BitVec 6) (s : State) : Host.Outcome State Fault Refusal :=
  vPlain (wordForm (wVfnegF32 g d a) g (some Lf32) wtF32) Lf32 (.vec d.toNat) (.vec a.toNat) .none
    false true (fun a _ _ => fneg F32 a) s

def execVfdivF32 (g : BitVec 2) (d a b : BitVec 6) (s : State) : Host.Outcome State Fault Refusal :=
  vF32X (wVfdivF32 g d a b) g d a (.vec b.toNat) (opDiv F32) s

def execVfsqrtF32 (g : BitVec 2) (d a : BitVec 6) (s : State) : Host.Outcome State Fault Refusal :=
  vF32X (wVfsqrtF32 g d a) g d a .none (opSqrt F32) s

def execVfclassF32 (g : BitVec 2) (d a : BitVec 6) (s : State) : Host.Outcome State Fault Refusal :=
  vPlain (wordForm (wVfclassF32 g d a) g (some Lf32) wtF32) Lf32 (.vec d.toNat) (.vec a.toNat) .none
    false true (fun a _ _ => BitVec.ofNat 64 (F32.classOf a.toNat)) s

def execVfaddF32Vs (g : BitVec 2) (d a b : BitVec 6) (s : State) :
    Host.Outcome State Fault Refusal :=
  vF32 (wVfaddF32Vs g d a b) g d a (.scal b.toNat) false (opAdd F32) s

def execVfsubF32Vs (g : BitVec 2) (d a b : BitVec 6) (s : State) :
    Host.Outcome State Fault Refusal :=
  vF32 (wVfsubF32Vs g d a b) g d a (.scal b.toNat) false (opSub F32) s

def execVfmulF32Vs (g : BitVec 2) (d a b : BitVec 6) (s : State) :
    Host.Outcome State Fault Refusal :=
  vF32 (wVfmulF32Vs g d a b) g d a (.scal b.toNat) false (opMul F32) s

def execVfmaF32Vs (g : BitVec 2) (d a b : BitVec 6) (s : State) :
    Host.Outcome State Fault Refusal :=
  vF32 (wVfmaF32Vs g d a b) g d a (.scal b.toNat) true (opFma F32) s

def execVfmsF32Vs (g : BitVec 2) (d a b : BitVec 6) (s : State) :
    Host.Outcome State Fault Refusal :=
  vF32 (wVfmsF32Vs g d a b) g d a (.scal b.toNat) true (opFms F32) s

def execVfminF32Vs (g : BitVec 2) (d a b : BitVec 6) (s : State) :
    Host.Outcome State Fault Refusal :=
  vF32 (wVfminF32Vs g d a b) g d a (.scal b.toNat) false (opMin F32) s

def execVfmaxF32Vs (g : BitVec 2) (d a b : BitVec 6) (s : State) :
    Host.Outcome State Fault Refusal :=
  vF32 (wVfmaxF32Vs g d a b) g d a (.scal b.toNat) false (opMax F32) s

def execVfdivF32Vs (g : BitVec 2) (d a b : BitVec 6) (s : State) :
    Host.Outcome State Fault Refusal :=
  vF32X (wVfdivF32Vs g d a b) g d a (.scal b.toNat) (opDiv F32) s

def execVfaddF64 (g : BitVec 2) (d a b : BitVec 6) (s : State) : Host.Outcome State Fault Refusal :=
  vF64 (wVfaddF64 g d a b) g d a (.pair b.toNat) false (opAdd F64) s

def execVfsubF64 (g : BitVec 2) (d a b : BitVec 6) (s : State) : Host.Outcome State Fault Refusal :=
  vF64 (wVfsubF64 g d a b) g d a (.pair b.toNat) false (opSub F64) s

def execVfmulF64 (g : BitVec 2) (d a b : BitVec 6) (s : State) : Host.Outcome State Fault Refusal :=
  vF64 (wVfmulF64 g d a b) g d a (.pair b.toNat) false (opMul F64) s

def execVfmaF64 (g : BitVec 2) (d a b : BitVec 6) (s : State) : Host.Outcome State Fault Refusal :=
  vF64 (wVfmaF64 g d a b) g d a (.pair b.toNat) true (opFma F64) s

def execVfmsF64 (g : BitVec 2) (d a b : BitVec 6) (s : State) : Host.Outcome State Fault Refusal :=
  vF64 (wVfmsF64 g d a b) g d a (.pair b.toNat) true (opFms F64) s

def execVfminF64 (g : BitVec 2) (d a b : BitVec 6) (s : State) : Host.Outcome State Fault Refusal :=
  vF64 (wVfminF64 g d a b) g d a (.pair b.toNat) false (opMin F64) s

def execVfmaxF64 (g : BitVec 2) (d a b : BitVec 6) (s : State) : Host.Outcome State Fault Refusal :=
  vF64 (wVfmaxF64 g d a b) g d a (.pair b.toNat) false (opMax F64) s

def execVfabsF64 (g : BitVec 2) (d a : BitVec 6) (s : State) : Host.Outcome State Fault Refusal :=
  vPlain (wordForm (wVfabsF64 g d a) g (some Lf64) wtF64) Lf64 (.pair d.toNat) (.pair a.toNat) .none
    false true (fun a _ _ => fabs F64 a) s

def execVfnegF64 (g : BitVec 2) (d a : BitVec 6) (s : State) : Host.Outcome State Fault Refusal :=
  vPlain (wordForm (wVfnegF64 g d a) g (some Lf64) wtF64) Lf64 (.pair d.toNat) (.pair a.toNat) .none
    false true (fun a _ _ => fneg F64 a) s

def execVfdivF64 (g : BitVec 2) (d a b : BitVec 6) (s : State) : Host.Outcome State Fault Refusal :=
  vF64X (wVfdivF64 g d a b) g d a (.pair b.toNat) (opDiv F64) s

def execVfsqrtF64 (g : BitVec 2) (d a : BitVec 6) (s : State) : Host.Outcome State Fault Refusal :=
  vF64X (wVfsqrtF64 g d a) g d a .none (opSqrt F64) s

/-- R161: vd is one 32-bit register. -/
def execVfclassF64 (g : BitVec 2) (d a : BitVec 6) (s : State) : Host.Outcome State Fault Refusal :=
  vPlain (wordForm (wVfclassF64 g d a) g (some Lf64) wtF64) Lf64 (.vec d.toNat) (.pair a.toNat)
    .none false true (fun a _ _ => BitVec.ofNat 64 (F64.classOf a.toNat)) s

/-- R181: the FP64 accumulator d plus the integer a times 2^k; a zero term counts as +0. An exponent
beyond 3000 either way gives the same result as 3000: the term is above every finite value, or below
a quarter of the least subnormal. -/
def recon (mode d : Nat) (a : Word) (k : Lane) : Fr :=
  let n := a.toInt
  F64.sum mode (F64.read d)
    (.fin (decide (n < 0)) n.natAbs (max (-3000) (min 3000 k.toInt))) 0

/-- R181. -/
def execVrecon (g : BitVec 2) (d a b : BitVec 6) (s : State) : Host.Outcome State Fault Refusal :=
  vFlagged (wordForm (wVrecon g d a b) g (some Lf64) wtF64) Lf64 (.pair d.toNat) (.pair a.toNat)
    (.vec b.toNat) true true
    (fun fmt a b d => (recon (fmtRM fmt) d.toNat a (b.truncate 32)).lane) s

/-! ## Major 0x13: VF16 -/

/-- R163: each half independently; the flags are the union. -/
def halves (f : Nat → Nat → Nat → Nat → Fr) : LaneFn := fun fmt a b d =>
  let m := fmtRM fmt
  let lo := f m (a.toNat % 65536) (b.toNat % 65536) (d.toNat % 65536)
  let hi := f m (a.toNat / 65536) (b.toNat / 65536) (d.toNat / 65536)
  (BitVec.ofNat 64 (lo.bits + 65536 * hi.bits), lo.fl ||| hi.fl)

def vF16 (x : BitVec 32) (g : BitVec 2) (d a b : BitVec 6) (acc : Bool)
    (f : Nat → Nat → Nat → Nat → Fr) (s : State) : Host.Outcome State Fault Refusal :=
  vFlagged (wordForm x g (some Lf16) wtF16) Lf16 (.vec d.toNat) (.vec a.toNat) (.vec b.toNat) acc
    true (halves f) s

def execVhaddH (g : BitVec 2) (d a b : BitVec 6) (s : State) : Host.Outcome State Fault Refusal :=
  vF16 (wVhaddH g d a b) g d a b false (opAdd FH) s

def execVhmulH (g : BitVec 2) (d a b : BitVec 6) (s : State) : Host.Outcome State Fault Refusal :=
  vF16 (wVhmulH g d a b) g d a b false (opMul FH) s

def execVhfmaH (g : BitVec 2) (d a b : BitVec 6) (s : State) : Host.Outcome State Fault Refusal :=
  vF16 (wVhfmaH g d a b) g d a b true (opFma FH) s

def execVhaddBf (g : BitVec 2) (d a b : BitVec 6) (s : State) : Host.Outcome State Fault Refusal :=
  vF16 (wVhaddBf g d a b) g d a b false (opAdd FBF) s

def execVhmulBf (g : BitVec 2) (d a b : BitVec 6) (s : State) : Host.Outcome State Fault Refusal :=
  vF16 (wVhmulBf g d a b) g d a b false (opMul FBF) s

def execVhfmaBf (g : BitVec 2) (d a b : BitVec 6) (s : State) : Host.Outcome State Fault Refusal :=
  vF16 (wVhfmaBf g d a b) g d a b true (opFma FBF) s

/-! ## Major 0x15: VSFU (R78, R171) -/

def execVrcpF32 (g : BitVec 2) (d a : BitVec 6) (s : State) : Host.Outcome State Fault Refusal :=
  vF32X (wVrcpF32 g d a) g d a .none (fun _ a _ _ => F32.rcp a) s

def execVrsqF32 (g : BitVec 2) (d a : BitVec 6) (s : State) : Host.Outcome State Fault Refusal :=
  vF32X (wVrsqF32 g d a) g d a .none (fun _ a _ _ => F32.rsq a) s

def execVexp2F32 (g : BitVec 2) (d a : BitVec 6) (s : State) : Host.Outcome State Fault Refusal :=
  vF32X (wVexp2F32 g d a) g d a .none (fun _ a _ _ => F32.exp2 a) s

def execVlog2F32 (g : BitVec 2) (d a : BitVec 6) (s : State) : Host.Outcome State Fault Refusal :=
  vF32X (wVlog2F32 g d a) g d a .none (fun _ a _ _ => F32.log2 a) s

def execVsinF32 (g : BitVec 2) (d a : BitVec 6) (s : State) : Host.Outcome State Fault Refusal :=
  vF32X (wVsinF32 g d a) g d a .none (fun _ a _ _ => F32.trig false a) s

def execVcosF32 (g : BitVec 2) (d a : BitVec 6) (s : State) : Host.Outcome State Fault Refusal :=
  vF32X (wVcosF32 g d a) g d a .none (fun _ a _ _ => F32.trig true a) s

/-! ## FP32 parcels (R92) -/

def execVfaddF32Parcel (t : BitVec 1) (d b : BitVec 5) (s : State) :
    Host.Outcome State Fault Refusal :=
  vF32P (wVfaddF32Parcel t d b) t d b (opAdd F32) s

def execVfsubF32Parcel (t : BitVec 1) (d b : BitVec 5) (s : State) :
    Host.Outcome State Fault Refusal :=
  vF32P (wVfsubF32Parcel t d b) t d b (opSub F32) s

def execVfmulF32Parcel (t : BitVec 1) (d b : BitVec 5) (s : State) :
    Host.Outcome State Fault Refusal :=
  vF32P (wVfmulF32Parcel t d b) t d b (opMul F32) s

def execVfminF32Parcel (t : BitVec 1) (d b : BitVec 5) (s : State) :
    Host.Outcome State Fault Refusal :=
  vF32P (wVfminF32Parcel t d b) t d b (opMin F32) s

def execVfmaxF32Parcel (t : BitVec 1) (d b : BitVec 5) (s : State) :
    Host.Outcome State Fault Refusal :=
  vF32P (wVfmaxF32Parcel t d b) t d b (opMax F32) s

end Sys2Proof.Machine
end

