-- ==== Sys2Proof/Machine/Unit.lean ====
section
/-!
DEFINITION. Homes: packets (R358, R359), performed writes with condition monitors (R201, R367),
and the memory-side units with their held updates (R221 to R225, R369 to R373).
-/

namespace Sys2Proof.Machine

/-! ## Packets -/

/-- R358: crossbar ports. -/
def clusterPort (core : Nat) : Nat := Config.clusterOf core % 12
def slicePort (slice : Nat) : Nat := 12 + slice

/-- R359: a packet of a core (or of a slice or link) waits outside an input port of a die. Requests
travel on their escape channel (R362). -/
def Work.send (w : Work) (cls pri ndata sdie sport ddie dport seq : Nat) (m : Msg)
    (core : Nat := 0) : Work :=
  w.modDie sdie fun d =>
    { d with
      net := d.net ++
        [{ cls, pri, age := 0, esc := decide (cls = 0), ndata, sdie, sport, ddie, dport, seq
           msg := m, at_ := sport, stuck := 0, outside := true, from_ := core, t0 := w.tempo }] }

/-- A reply of a slice to a core carries the next number of its sequence (R202). -/
def Work.reply (w : Work) (die slice core pri ndata : Nat) (m : Msg) : Work :=
  let s := w.slice die slice
  let n := tget 0 core s.seq + 1
  (w.setSlice die slice { s with seq := tput 0 core n s.seq }).send 1 pri ndata die
    (slicePort slice) (Config.dieOf core) (clusterPort core) n m

/-! ## Condition monitors (R201, R228, R367) -/

/-- R228: M cond value. -/
def monCond (cond size : Nat) (m v : Word) : Bool :=
  let s := fun (x : Word) => if size = 4 then sext64 (x.truncate 32 : BitVec 32) else x
  let u := fun (x : Word) => if size = 4 then zext64 (x.truncate 32 : BitVec 32) else x
  match cond with
  | 0 => decide (u m = u v)
  | 1 => decide (u m ≠ u v)
  | 2 => (s m).slt (s v)
  | 3 => !(s m).slt (s v)
  | 4 => (u m).ult (u v)
  | _ => !(u m).ult (u v)

/-- R367: an entry is freed; the unit's watch entry goes with it (R368). -/
def Work.freeMonitor (w : Work) (die slice idx : Nat) : Work :=
  let s := w.slice die slice
  let u := w.unit die (slice / 8)
  (w.setSlice die slice { s with mons := tdel idx s.mons }).setUnit die (slice / 8)
    { u with watch := u.watch.filter (· ≠ (slice, idx)) }

/-- R367: a monitor fires: it sends its wake with the slice's reply sequence and is freed. -/
def Work.fire (w : Work) (die slice idx : Nat) (m : Monitor) : Work :=
  let n := tget 0 m.core (w.slice die slice).seq
  (w.freeMonitor die slice idx).send 2 3 0 die (slicePort slice) (Config.dieOf m.core)
    (clusterPort m.core) n (.wake m.core m.slot (24 * die + slice) (m.pa / 32) m.op m.cell)

/-- R201: evaluate the monitors of a slice after a performed write, in ascending index. -/
def Work.evalMonitors (w : Work) (die slice : Nat) (l : List Host.Cell) : Work :=
  (w.slice die slice).mons.foldl (fun w p =>
    let m := p.2
    if (l.any fun c => decide (m.pa ≤ c.1) && decide (c.1 < m.pa + m.size)) &&
        monCond m.cond m.size (BitVec.ofNat 64 (w.num m.pa m.size)) m.value
    then w.fire die slice p.1 m else w) w

/-- The home slices of some bytes, each once. -/
def Work.homesOf (w : Work) (l : List Host.Cell) : List (Nat × Nat) :=
  ((l.filterMap fun c => w.home? c.1).map fun h => (h.die, h.slice)).eraseDups

/-- A write performed at its home: bytes, then monitors. -/
def Work.performed (w : Work) (key : Nat) (l : List Host.Cell) : Work :=
  (w.homesOf l).foldl (fun w h => w.evalMonitors h.1 h.2 l) (w.writeCells key l)

/-- The monitors of some bytes, which have just been written. -/
def Work.noticed (w : Work) (l : List Host.Cell) : Work :=
  (w.homesOf l).foldl (fun w h => w.evalMonitors h.1 h.2 l) w

/-- R196, R198: sectors that an engine thread of a team has written at DEVICE enter INB and every
SIG filter of each core that holds groups of the team. -/
def Work.mergeSectors (w : Work) (launch lin : Nat) (secs : List Nat) : Work :=
  match w.team launch lin with
  | some t => t.cores.foldl (fun w c => w.modCore c fun k => (k.sigWrite secs).inbWrite secs) w
  | none => w

/-! ## Element arithmetic -/

/-- R220: an integer operation on a location of `size` bytes. -/
def atomInt (size op : Nat) (old v : Word) : Word :=
  let cut := fun (x : Word) => if size = 4 then zext64 (x.truncate 32 : BitVec 32) else x
  let sx := fun (x : Word) => if size = 4 then sext64 (x.truncate 32 : BitVec 32) else x
  match op with
  | 0 => cut (old + v)
  | 1 => if (sx v).slt (sx old) then cut v else cut old
  | 2 => if (sx old).slt (sx v) then cut v else cut old
  | 3 => if (cut v).ult (cut old) then cut v else cut old
  | 4 => if (cut old).ult (cut v) then cut v else cut old
  | 5 => cut (old &&& v)
  | 6 => cut (old ||| v)
  | 7 => cut (old ^^^ v)
  | _ => cut v

/-- Element types of ordered updates: 0 I32, 1 F32, 2 I64, 3 F64, 4 BF16. -/
def etySize (e : Nat) : Nat :=
  match e with
  | 0 => 4
  | 1 => 4
  | 2 => 8
  | 3 => 8
  | _ => 2

def etyFmt (e : Nat) : Option FFmt :=
  match e with
  | 1 => some F32
  | 3 => some F64
  | 4 => some FBF
  | _ => none

/-- R220, R221: add an element: integers wrap, floats round by RNE. -/
def etyAdd (e : Nat) (old v : Word) : Word × BitVec 7 :=
  match etyFmt e with
  | some f => (f.add 0 old.toNat v.toNat).lane
  | none => (atomInt (etySize e) 0 old v, 0)

/-- R371: the exact sum of terms, rounded once. -/
def FFmt.exactSum (f : FFmt) (terms : List Nat) : Fr :=
  let t := terms.map f.read
  let sig := if t.any Fp.isSig then flNV else 0
  let pinf := t.any fun x => decide (x = .inf false)
  let ninf := t.any fun x => decide (x = .inf true)
  if t.any Fp.isNan then f.nanR sig
  else if pinf && ninf then f.nanR flNV
  else if pinf then f.infR false 0
  else if ninf then f.infR true 0
  else
    let u : Int := t.foldl (fun u x =>
      match x with
      | .fin _ _ e => min u e
      | _ => u) 1024
    let s : Int := t.foldl (fun s x =>
      match x with
      | .fin n m e => s + scaled n m e u
      | _ => s) 0
    let negz := t.all fun x =>
      match x with
      | .fin n m _ => n && decide (m = 0)
      | _ => false
    f.roundInt 0 negz s u

/-- R371: the sum of a location and its updates in exact accumulation. -/
def etyExact (e : Nat) (old : Word) (vs : List Word) : Word × BitVec 7 :=
  match etyFmt e with
  | some f => (f.exactSum (old.toNat :: vs.map (·.toNat))).lane
  | none => (vs.foldl (fun s v => atomInt (etySize e) 0 s v) old, 0)

/-! ## Held updates (R222, R371, R372) -/

/-- R222: issuer keys in order. -/
def keyLt : List Nat → List Nat → Bool
  | a :: s, b :: t => decide (a < b) || (decide (a = b) && keyLt s t)
  | [], _ :: _ => true
  | _, [] => false

def OrdUpd.before (a b : OrdUpd) : Bool := keyLt a.key b.key

/-- R221: reduction flags of a grid. -/
def Work.addRflags (w : Work) (l : Nat) (fl : BitVec 7) : Work :=
  w.modLaunch l fun x => { x with rflags := x.rflags ||| fl.truncate 5 }

/-- R371: the flush of one held address. -/
def Work.flushHeld (w : Work) (die stack : Nat) (h : Held) : Work :=
  let n := etySize h.ety
  let old : Word := BitVec.ofNat 64 (w.readNum h.pk h.addr n)
  let r :=
    if h.exact then etyExact h.ety old (h.upds.map (·.operand))
    else
      (sortBy OrdUpd.before h.upds).foldl (fun (r : Word × BitVec 7) u =>
        let q := etyAdd h.ety r.1 u.operand
        (q.1, r.2 ||| q.2)) (old, 0)
  let u := w.unit die stack
  let w := w.setUnit die stack
    { u with
      held := u.held.filter fun x => decide (x.addr ≠ h.addr)
      flushq := u.flushq.filter (· ≠ h.addr)
      spill := match h.spill with
        | some o => tdel o u.spill
        | none => u.spill }
  (w.performed h.pk (cellsAt h.addr n r.1.toNat)).addRflags h.launch r.2

/-- Flush every held address of a unit that a test picks. -/
def Work.flushUnit (w : Work) (die stack : Nat) (p : Held → Bool) : Work :=
  ((w.unit die stack).held.filter p).foldl (fun w h => w.flushHeld die stack h) w

/-- Every memory-side unit of the package. -/
def allUnits : List (Nat × Nat) := (upto 8).flatMap fun d => (upto 3).map fun s => (d, s)

/-- R373: every address a grid holds, at every unit. -/
def Work.flushGrid (w : Work) (l : Nat) : Work :=
  allUnits.foldl (fun w u => w.flushUnit u.1 u.2 fun h => decide (h.launch = l)) w


/-- R370: flush what a list of bytes overlaps. -/
def Work.flushCells (w : Work) (l : List Nat) : Work :=
  (l.map fun a => a / 128).eraseDups.foldl (fun w line =>
    match w.place (128 * line) with
    | .near d s _ =>
      w.flushUnit d s fun h =>
        l.any fun a => decide (h.addr ≤ a) && decide (a < h.addr + etySize h.ety)
    | _ => w) w

/-- The lowest free run of `n` units of the spill region, whose end is `lim` (R372). -/
def lowestFit (n lim : Nat) (used : Tab Nat) : Option Nat :=
  let o := used.foldl (fun o p => if o + n ≤ p.1 then o else max o (p.1 + p.2)) 0
  if o + n ≤ lim then some o else none

/-- R372: 256 MiB in units of 16 bytes. -/
def spillUnits : Nat := 2 ^ 24

/-- R372: an accumulator: the lowest free pool indices, or a spill record. -/
def Unit.allocAcc (u : Unit) (ety : Nat) : Option (List Nat × Option Nat × Unit) :=
  let need := if ety = 3 then 7 else 1
  let used := u.held.flatMap (·.pool)
  let free := ((upto 64).filter fun i => !used.contains i).take need
  if free.length = need then some (free, none, u)
  else
    match lowestFit 18 spillUnits u.spill with
    | some o => some ([], some o, { u with spill := tins o 18 u.spill })
    | none => none

/-- R371: an ordered update reaches the unit; none when the unit has no room for it. -/
def Work.acceptOrd (w : Work) (die stack launch ety pk addr : Nat) (u : OrdUpd) : Option Work :=
  -- R370: another type, size or grid at overlapping bytes flushes first; R369: so does a trigger
  -- that has reached the unit
  let n := etySize ety
  let q := (w.unit die stack).flushq
  let w := w.flushUnit die stack fun h =>
    decide (h.addr < addr + n) && decide (addr < h.addr + etySize h.ety) &&
      (q.contains h.addr ||
        !(decide (h.addr = addr) && decide (h.ety = ety) && decide (h.launch = launch)))
  let x := w.unit die stack
  let put := fun (x : Unit) (h : Held) =>
    w.setUnit die stack
      { x with held := (x.held.filter fun y => decide (y.addr ≠ addr)) ++ [h] }
  match x.held.find? fun h => decide (h.addr = addr) with
  | some h =>
    let h' := { h with upds := h.upds ++ [u] }
    if h.exact then
      let w := put x h'
      some (if 2 ^ 40 ≤ h'.upds.length then w.flushUnit die stack (·.addr = addr) else w)
    else if h.upds.length < 16 then some (put x h')
    else
      match x.allocAcc ety with
      | some (pool, spill, x) => some (put x { h' with exact := true, entry := 0, pool, spill })
      | none => none
  | none =>
    let used := (x.held.filter fun h => !h.exact).map (·.entry)
    let h : Held :=
      { addr, launch, ety, pk, upds := [u], exact := false, entry := 0, pool := [], spill := none }
    if used.length < 1024 then
      some (put x { h with entry := ((upto 1024).find? fun i => !used.contains i).getD 0 })
    else
      match x.allocAcc ety with
      | some (pool, spill, x) => some (put x { h with exact := true, pool, spill })
      | none => none

/-! ## Held ATOM.ORD updates (R224, R372) -/

/-- The group of a team with an index; a handler group counts as 32 + slot - 44 (R222). -/
def Group.keyIdx (g : Group) (slot : Nat) : Nat :=
  if g.kind = .handlerTeam then slot - 12 else g.gidx

/-- R225: the group has a destination deferred under an issuer key; it may have been restored to
another slot since. -/
def Group.defers (g : Group) (gi seq : Nat) : Bool :=
  g.deferred.any fun d => decide (d.idx = gi) && decide (d.seq = seq)

/-- Where the group of an issuer key stands. -/
def Work.findKey (w : Work) (launch : Nat) (key : List Nat) : Option (Nat × Nat) :=
  match key with
  | [lin, gi, _, seq] =>
    match w.team launch lin with
    | some t => (w.members t fun g => g.defers gi seq).head?
    | none => none
  | _ => none

/-- R372: the unit refuses an update; its deferred destination is marked. -/
def Work.refuseAtom (w : Work) (launch : Nat) (u : OrdUpd) : Work :=
  match w.findKey launch u.key with
  | some m =>
    w.modGrp m.1 m.2 fun g =>
      { g with
        deferred := g.deferred.map fun d =>
          if some d.seq = u.key[3]? ∧ some d.idx = u.key[1]? then { d with refused := true } else d }
  | none => w

/-- R224: an ATOM.ORD update reaches the unit and is held, or refused (R372). Ordered reductions held
at its bytes are flushed (R370). -/
def Work.acceptAtom (w : Work) (die stack launch size pk addr : Nat) (u : OrdUpd) : Work :=
  let w := w.flushUnit die stack fun h =>
    decide (h.addr < addr + size) && decide (addr < h.addr + etySize h.ety)
  let x := w.unit die stack
  let a : AtomUpd := { launch, addr, size, pk, upd := u, spill := none }
  if (x.atoms.filter fun y => y.spill.isNone).length < 4096 then
    w.setUnit die stack { x with atoms := x.atoms ++ [a] }
  else
    match lowestFit 1 spillUnits x.spill with
    | some o =>
      w.setUnit die stack
        { x with atoms := x.atoms ++ [{ a with spill := some o }], spill := tins o 1 x.spill }
    | none => w.refuseAtom launch u

/-- R224: write a result to a lane of its deferred destination, if the lane is live. -/
def Group.deliver (g : Group) (gi lane seq : Nat) (old : Word) : Group :=
  match g.deferred.find? fun d => decide (d.idx = gi) && decide (d.seq = seq) with
  | some d =>
    let g := { g with
      deferred := g.deferred.map fun x => if x = d then { d with lanes := d.lanes &&& ~~~(1#64 <<< lane) } else x }
    if d.refused || !bit g.live lane then g
    else
      let g := g.setV1 d.reg lane (old.truncate 32)
      if d.wide then g.setV1 (d.reg + 1) lane (old.extractLsb' 32 32) else g
  | none => g

/-- R224, R372: the ordered-result trap of a refused destination, at the next instruction. -/
def Group.refusal (g : Group) : Group :=
  { g with
    raise := match g.deferred.find? (·.refused) with
      | some d => some (0x0C, natWord (d.reg % 64 + 2 ^ 8), 0)
      | none => g.raise }

/-- R224: a handler group of a team executes no GRIDBAR: its destinations are delivered, and no longer
deferred, when the grid's barrier completes; those whose update is still on its way stay (DEDUCED,
log 35). -/
def Group.gridOver (g : Group) : Group :=
  { g.refusal with ordSeq := 0, deferred := g.deferred.filter fun d => decide (d.lanes ≠ 0) && !d.refused }

/-- R224: deliver a result to the issuing lane; for a saved group it is kept with its team. -/
def Work.deliverAtom (w : Work) (launch : Nat) (u : OrdUpd) (old : Word) : Work :=
  match u.key with
  | [lin, gi, lane, seq] =>
    match w.findKey launch u.key with
    | some m => w.modGrp m.1 m.2 fun g => g.deliver gi lane seq old
    | none => w.modTeam launch lin fun t => { t with late := t.late ++ [(u.key, old)] }
  | _ => w

/-- R224: apply a grid's ATOM.ORD updates at one unit, in ascending address, then issuer key; the
results are delivered at a grid barrier and discarded at grid end. -/
def Work.applyAtoms (w : Work) (die stack launch : Nat) (deliver : Bool) : Work :=
  let x := w.unit die stack
  let mine := x.atoms.filter fun a => decide (a.launch = launch)
  let w := w.setUnit die stack
    { x with
      atoms := x.atoms.filter fun a => decide (a.launch ≠ launch)
      spill := mine.foldl (fun t a => match a.spill with
        | some o => tdel o t
        | none => t) x.spill }
  let one := fun (w : Work) (a : AtomUpd) =>
    let w := w.flushCells (upto a.size a.addr)
    let old : Word := BitVec.ofNat 64 (w.readNum a.pk a.addr a.size)
    let new := atomInt a.size a.upd.op old a.upd.operand
    let w := w.writeCells a.pk (cellsAt a.addr a.size new.toNat)
    if deliver then w.deliverAtom launch a.upd old else w
  (sortBy (fun a b => decide (a < b)) (mine.map (·.addr)).eraseDups).foldl (fun w addr =>
    let l := sortBy (fun (a b : AtomUpd) => a.upd.before b.upd) (mine.filter fun a => decide (a.addr = addr))
    let z := l.foldl (fun z a => max z a.size) 0
    -- one store at the address: only what it leaves is seen by monitors
    (l.foldl one w).noticed ((upto z addr).map fun b => (b, w.byte b))) w

/-- R373: a grid barrier or grid end: held updates, then the ATOM.ORD lists, at every unit. -/
def Work.flushAll (w : Work) (launch : Nat) (deliver : Bool) : Work :=
  allUnits.foldl (fun w u => w.applyAtoms u.1 u.2 launch deliver) (w.flushGrid launch)

/-! ## Events -/

/-- R371: an ordered update arrives at the unit. Those that find no room stay at its input (R372).
-/
def execOrderedUpdateArrive (die stack : Nat) (s : State) : Host.Outcome State Fault Refusal :=
  event s fun w =>
    let x := w.unit die stack
    match x.ordbox with
    | [] => w
    | r :: rest =>
      -- R407: a write to a line that is shared out waits
      if w.sharedOut.contains r.line then w
      else
      match r.kind with
      | .ordered atom op size ops =>
        let w := w.setUnit die stack { x with ordbox := rest }
        let step := fun (q : Work × List OrdOp) (o : OrdOp) =>
          if q.2 ≠ [] then (q.1, q.2 ++ [o])
          else
            let u : OrdUpd :=
              { key := [r.lin, r.gidx, o.lane, o.seq], operand := o.operand, op, core := r.core }
            if atom then (q.1.acceptAtom die stack r.launch size r.key o.addr u, [])
            else
              match q.1.acceptOrd die stack r.launch op r.key o.addr u with
              | some w => (w, [])
              | none => (q.1, [o])
        let q := ops.foldl step (w, [])
        if q.2 = [] then
          -- R196, R235: an engine's sectors are merged
          let q := if r.eng then (q.1.mergeSectors r.launch r.lin (ops.map (·.addr / 32)).eraseDups, q.2) else q
          match w.home? (128 * r.line) with
          | some h => q.1.reply h.die h.slice r.core r.pri 0 (.ack r.core r.op)
          | none => q.1
        else
          let y := q.1.unit die stack
          q.1.setUnit die stack
            { y with ordbox := { r with kind := .ordered atom op size q.2 } :: y.ordbox }
      | _ => w.setUnit die stack { x with ordbox := rest }

/-- R371: a triggered flush of one address is done. -/
def execOrderedFlush (die stack addr : Nat) (s : State) : Host.Outcome State Fault Refusal :=
  event s fun w =>
    let x := w.unit die stack
    if x.flushq.contains addr then
      (w.setUnit die stack { x with flushq := x.flushq.filter (· ≠ addr) }).flushUnit die stack
        fun h => decide (h.addr = addr)
    else w

/-- R369: the refresh timer of a stack has run out. -/
def Work.refreshDue (w : Work) (die stack : Nat) : Bool :=
  decide ((w.unit die stack).refresh + Config.refreshCycles ≤ w.tempo)

/-- R369: a refresh timer expires, refresh is issued, and the timer starts again. -/
def execDramRefresh (die stack : Nat) (s : State) : Host.Outcome State Fault Refusal :=
  event s fun w =>
    if w.refreshDue die stack then
      w.setUnit die stack { w.unit die stack with refresh := w.tempo }
    else w

end Sys2Proof.Machine
end

