-- ==== Sys2Proof/Machine/Slice.lean ====
section
/-!
DEFINITION. Home slices: replacement and retention windows (R365, R366), requests performed at a
slice or a memory-side unit (R199 to R201, R218 to R221), monitors armed (R229).
-/

namespace Sys2Proof.Machine

/-! ## Ways of a slice set. Way w of set s has the number 16s + w. -/

def Slice.find (s : Slice) (set line : Nat) : Option Nat :=
  (upto 16 (16 * set)).find? fun n =>
    match tfind n s.ways with
    | some l => decide (l.line = line)
    | none => false

/-- Recency of a set, most recent first. -/
def Slice.order (s : Slice) (set : Nat) : List Nat := tget [] set s.recency

def Slice.touch (s : Slice) (set n : Nat) : Slice :=
  { s with recency := tput [] set (n :: (s.order set).filter (· ≠ n)) s.recency }

def Slice.sink (s : Slice) (set n : Nat) : Slice :=
  { s with recency := tput [] set ((s.order set).filter (· ≠ n) ++ [n]) s.recency }

def Slice.drop (s : Slice) (set n : Nat) : Slice :=
  { s with
    ways := tdel n s.ways
    recency := tput [] set ((s.order set).filter (· ≠ n)) s.recency }

/-- R366: the window a line belongs to: the lowest-numbered. -/
def Die.windowOf (d : Die) (line : Nat) : Option Nat :=
  (d.rtw.find? fun p =>
    decide (p.2.base ≤ 128 * line) && decide (128 * line < p.2.base + p.2.len)).map Prod.fst

/-- R366: the victim of a fill. -/
def Slice.victim (s : Slice) (d : Die) (set line : Nat) : Nat :=
  let all := upto 16
  let reserved := d.rtw.flatMap fun p => p.2.ways
  let u := all.filter fun x => !reserved.contains x
  let own : List Nat :=
    match d.windowOf line with
    | none => []
    | some k =>
      ((tfind k d.rtw).map (·.ways)).getD [] |>.filter fun x =>
        match tfind (16 * set + x) s.ways with
        | some l => decide (d.windowOf l.line ≠ some k)
        | none => true
  let c := (if own = [] then u else own).map fun x => 16 * set + x
  match c.find? fun n => (tfind n s.ways).isNone with
  | some n => n
  | none =>
    let old := (s.order set).reverse.filter fun n => c.contains n
    match old.find? fun n => ((tfind n s.ways).map (·.ef)).getD false with
    | some n => n
    | none => old.head?.getD (16 * set)

/-- R365: an access to a set: hit or fill. Answers whether it hit. -/
def Slice.access (s : Slice) (d : Die) (set line : Nat) (ef write : Bool) : Bool × Slice :=
  match s.find set line with
  | some n =>
    let s := { s with ways := tmod n (fun l =>
      { l with dirty := l.dirty || write, ef := if ef then l.ef else false }) s.ways }
    (true, if ef then s else s.touch set n)
  | none =>
    let n := s.victim d set line
    let s := { s with ways := tins n { line, dirty := write, ef } s.ways }
    (false, if ef then s.sink set n else s.touch set n)

/-- The line that an access pushes out of its set. -/
def Slice.leaves (s : Slice) (d : Die) (set line : Nat) : Option Nat :=
  if (s.find set line).isSome then none else (tfind (s.victim d set line) s.ways).map (·.line)

/-- R200, R407: a slice writes a line back and invalidates it. -/
def Slice.evict (s : Slice) (set line : Nat) : Slice :=
  match s.find set line with
  | some n => s.drop set n
  | none => s

/-! ## What DRAM holds (R399, R417, R418) -/

/-- The L2 changes a line: DRAM keeps what it holds until the line is written back. -/
def Work.keepDram (w : Work) (line : Nat) : Work :=
  if (tfind line w.under).isSome then w
  else
    let x : DramLine :=
      { data := w.line line, keys := (upto 4 (4 * line)).map fun n => tfind n w.keyed }
    { w with under := tins line x w.under }

/-- A line leaves the L2: what has changed is written back, an uncorrectable error with it. -/
def Work.wroteBack (w : Work) (line : Nat) : Work :=
  let bad := w.upsetL2.contains line && (tfind line w.under).isSome
  { w with
    under := tdel line w.under, upsetL2 := w.upsetL2.filter fun n => decide (n ≠ line)
    upsetMem := if bad then ninsert line w.upsetMem else w.upsetMem }

/-- Log 32: an uncorrectable error appears in a line: in the L2 where that holds it, else in DRAM. -/
def Work.upsetLine (w : Work) (line : Nat) : Work :=
  let held :=
    match w.home? (128 * line) with
    | some h => ((w.slice h.die h.slice).find h.set line).isSome
    | none => false
  if held then { w with upsetL2 := ninsert line w.upsetL2 }
  else { w with upsetMem := ninsert line w.upsetMem }

/-- R200, R407: the home slice writes a line back and invalidates it. -/
def Work.l2Evict (w : Work) (h : Home) (line : Nat) : Work :=
  (w.setSlice h.die h.slice ((w.slice h.die h.slice).evict h.set line)).wroteBack line

/-- Near memory as DRAM holds it, what the L2 has not written back being lost. -/
def Work.dram (w : Work) : Work :=
  let w' := w.under.foldl (fun (w : Work) p =>
    { w.pokeNum (128 * p.1) 128 p.2.data.toNat with
      keyed := (p.2.keys.mapIdx fun i k => (4 * p.1 + i, k)).foldl (fun t x =>
        match x.2 with
        | some k => tins x.1 k t
        | none => tdel x.1 t) w.keyed }) w
  { w' with under := [], upsetL2 := [] }

/-- R386: the changed lines that the L2 holds. -/
def Work.l2Lines (w : Work) : Tab (BitVec 1024) := w.under.map fun p => (p.1, w.line p.1)

/-- R387: the L2 holds changed lines again. -/
def Work.l2Restore (w : Work) (l : Tab (BitVec 1024)) : Work :=
  l.foldl (fun w p => (w.keepDram p.1).pokeNum (128 * p.1) 128 p.2.toNat) w

/-- A slice access of a request, with the counters of R375. -/
def Work.l2 (w : Work) (h : Home) (line : Nat) (ef write counted : Bool) : Work :=
  let w :=
    match (w.slice h.die h.slice).leaves (w.die h.die) h.set line with
    | some x => w.wroteBack x
    | none => w
  let w := if write then w.keepDram line else w
  let d := w.die h.die
  let r := (d.slice h.slice).access d h.set line ef write
  let d := d.setSlice h.slice r.2
  w.setDie h.die
    (if !counted then d
     else if r.1 then { d with l2hit := d.l2hit + 1 } else { d with l2miss := d.l2miss + 1 })

/-! ## Requests performed -/

/-- R220, R221: one element of an atomic or reduction: new value, flags. 8 is XCHG or floating add;
9 is CAS or BF16 add. -/
def atomNew (op size : Nat) (ret : Bool) (old v cmp : Word) : Word × BitVec 7 :=
  if op < 8 then (atomInt size op old v, 0)
  else if ret then
    (if op = 8 then v else if old = cmp then v else old, 0)
  else etyAdd (if op = 9 then 4 else if size = 4 then 1 else 3) old v

/-- Low bytes of an operand. -/
def cutTo (size : Nat) (v : Word) : Word := BitVec.ofNat 64 (v.toNat % 2 ^ (8 * size))

/-- R220: the lanes of an atomic or reduction at their home, ascending. -/
def Work.atomics (w : Work) (r : Req) (op size : Nat) (ret : Bool)
    (ops : List (Nat × Nat × Word × Word)) : Work × Tab (BitVec 128) :=
  ops.foldl (fun (q : Work × Tab (BitVec 128)) o =>
    let old : Word := BitVec.ofNat 64 (q.1.readNum r.key o.2.1 size)
    let n := atomNew op size ret old (cutTo size o.2.2.1) (cutTo size o.2.2.2)
    ((q.1.performed r.key (cellsAt o.2.1 size n.1.toNat)).addRflags r.launch n.2,
      tins o.1 (old.zeroExtend 128) q.2)) (w, [])

/-- The bytes a request reads or writes: of a fill, the line that it brings, or those that its access
reads where the line is not kept (R200, R370). -/
def Req.touched (r : Req) : List Nat :=
  match r.kind with
  | .waitcmp pa size _ _ _ => upto size pa
  | .store l => l.map Prod.fst
  | .atomic _ size _ ops => ops.flatMap fun o => upto size o.2.1
  | .fill install _ want => if install then upto 128 (128 * r.line) else want
  | .ordered _ _ size ops => ops.flatMap fun o => upto size o.addr
  | _ => []

/-- Whether a request writes its line. -/
def Req.writes (r : Req) : Bool :=
  match r.kind with
  | .store _ => true
  | .atomic _ _ _ _ => true
  | .ordered _ _ _ _ => true
  | _ => false

/-- Who waits for the answer to a compare: a group in WAITCMP, or the cell of a run (R299). -/
def Work.asker (w : Work) (c slot op : Nat) : Option (Option (Nat × Nat)) :=
  match w.grp c slot with
  | some g =>
    match g.wait, g.run with
    | .monitor _ _ _ _ _ _ o, _ => if o = op then some none else none
    | _, some r => (r.asks.find? fun a => decide (a.2.op = op)).map fun a => some (r.tensor, r.base + a.1)
    | _, none => none
  | none => none

/-- R209, R410: lanes of a load whose data is lost are poisoned when they land. -/
def Work.spoilLanes (w : Work) (r : Req) (lanes : List Nat) : Work :=
  w.modCore r.core fun k =>
    { k with loads := tmod r.op (fun l =>
        { l with bad := lanes.foldl (fun m i => m ||| 1#64 <<< i) l.bad }) k.loads }

/-- A request performed at its home (slice or unit): bytes, monitors, and the reply through the
slice. -/
def Work.serve (w : Work) (h : Home) (r : Req) : Work :=
  let back := fun (w : Work) (n : Nat) (m : Msg) =>
    (if r.eng && r.writes then
      w.mergeSectors r.launch r.lin (r.touched.map (· / 32)).eraseDups
     else w).reply h.die h.slice r.core r.pri n m
  match r.kind with
  | .fill _ _ _ =>
    let bad := w.lineUpset r.line
    back (w.logLine r.line) 2 (.line r.core r.op (BitVec.ofNat 1024 (w.readNum r.key (128 * r.line) 128)) bad)
  | .prefetchL2 => w
  | .store bytes => back (w.performed r.key bytes) 0 (.ack r.core r.op)
  | .atomic op size ret ops =>
    -- nothing is known of the old value: the location stays as it is (log 32)
    let bad := w.lineUpset r.line
    let q := if bad then (w.logLine r.line, []) else w.atomics r op size ret ops
    if ret then back (if bad then q.1.spoilLanes r (ops.map Prod.fst) else q.1) 2 (.vals r.core r.op q.2)
    else back q.1 0 (.ack r.core r.op)
  | .waitcmp pa size cond value arm =>
    let cur : Word := BitVec.ofNat 64 (w.readNum r.key pa size)
    if w.lineUpset r.line then back (w.logLine r.line) 0 (.cmp r.core r.slot 4 r.op (pa / 32))
    else if monCond cond size cur value then back w 0 (.cmp r.core r.slot 0 r.op (pa / 32))
    else if !arm then back w 0 (.cmp r.core r.slot 3 r.op 0)
    else
      let s := w.slice h.die h.slice
      -- a wait that has ended meanwhile arms nothing
      match w.asker r.core r.slot r.op with
      | none => w
      | some cell =>
        match (upto 64).find? fun i => (tfind i s.mons).isNone with
        | none => back w 0 (.cmp r.core r.slot 2 r.op 0)
        | some i =>
          let m : Monitor := { pa, size, cond, value, core := r.core, slot := r.slot, op := r.op, cell }
          let u := w.unit h.die (h.slice / 8)
          back ((w.setSlice h.die h.slice { s with mons := tins i m s.mons }).setUnit h.die
              (h.slice / 8) { u with watch := u.watch ++ [(h.slice, i)] }) 0
            (.cmp r.core r.slot 1 r.op i)
  | .cancel idx => w.freeMonitor h.die h.slice idx
  | .ordered _ _ _ _ => w

/-- A request is performed at its slice. -/
def Work.slicePerform (w : Work) (h : Home) (r : Req) : Work :=
  let w := w.flushCells r.touched
  let w :=
    match r.kind with
    | .waitcmp _ _ _ _ _ => w
    | .cancel _ => w
    | _ => w.l2 h r.line r.ef r.writes r.counted
  w.serve h r

/-- R220, R358: the packets of one instruction for one line. -/
def Req.partOf (a b : Req) : Bool :=
  decide (a.core = b.core) && decide (a.op = b.op) && decide (a.line = b.line)

/-- A request of the slice's queue is performed, or handed to the unit beneath. The packets of one
atomic are performed together with the last, with no other access between them (R220). -/
def Work.sliceTake (w : Work) (h : Home) (r : Req) : Work :=
  let stack := h.slice / 8
  let u := w.unit h.die stack
  match r.kind with
  | .ordered _ _ _ _ => w.setUnit h.die stack { u with ordbox := u.ordbox ++ [r] }
  | _ =>
    if r.ms then w.setUnit h.die stack { u with inbox := u.inbox ++ [r] }
    else
      let s := w.slice h.die h.slice
      if r.more then w.setSlice h.die h.slice { s with parts := s.parts ++ [r] }
      else
        let mine := s.parts.filter (·.partOf r)
        let w :=
          if mine = [] then w
          else w.setSlice h.die h.slice { s with parts := s.parts.filter fun p => !p.partOf r }
        (mine ++ [r]).foldl (fun w r => w.slicePerform h r) w

/-! ## Flow control (R363) -/

def Packet.flits (p : Packet) : Nat := 1 + p.ndata

/-- The number of a virtual channel at an input port. -/
def chan (port cls : Nat) (esc : Bool) : Nat := port * 8 + cls * 2 + if esc then 1 else 0

def Slice.flits (s : Slice) : Nat := s.inq.foldl (fun n p => n + p.flits) 0

/-- R363: stop below 4 free of 16, go at 8 or more; between them the last signal stands. -/
def Die.signal (x : Die) (c flits : Nat) : Die :=
  if 12 < flits then (if x.stopped.contains c then x else { x with stopped := ninsert c x.stopped })
  else if flits ≤ 8 then { x with stopped := x.stopped.filter (· ≠ c) }
  else x

/-- The head of a slice's queue goes. -/
def Work.popSlice (w : Work) (die slice : Nat) (rest : List Packet) : Work :=
  w.modDie die fun d =>
    let s := { d.slice slice with inq := rest, busy := w.tempo / 2 + 1 }
    (d.setSlice slice s).signal (chan (64 + slicePort slice) 0 false) s.flits

/-- R186, R202: an earlier request of the same core for the same line still waits at the unit. -/
def Work.behind (w : Work) (die slice : Nat) (r : Req) : Bool :=
  let u := w.unit die (slice / 8)
  (u.inbox ++ u.ordbox).any fun q => decide (q.core = r.core) && decide (q.line = r.line)

/-- R200: a .MS access is performed at the unit, after the home slice has written back and
invalidated its copy. -/
def execMsUnitAccess (die stack : Nat) (s : State) : Host.Outcome State Fault Refusal :=
  event s fun w =>
    let u := w.unit die stack
    match u.inbox with
    | [] => w
    | r :: rest =>
      -- R407: a write to a line that is shared out waits
      if r.writes && w.sharedOut.contains r.line then w
      else
      let w := w.setUnit die stack { u with inbox := rest }
      match w.home? (128 * r.line) with
      | none => w
      | some h =>
        ((w.l2Evict h r.line).flushCells r.touched).serve h r

/-! ## Engines and stamped writes act at the home (R196, R191) -/

/-- R365, R370: an access of an engine, a walk or a fetch reaches its slices: held updates that it
overlaps are flushed, and its lines hit or are filled. -/
def Work.homeTouch (w : Work) (ef write : Bool) (l : List Nat) : Work :=
  (l.map fun a => a / 128).eraseDups.foldl (fun w line =>
    match w.home? (128 * line) with
    | some h => w.l2 h line ef write false
    | none => w) (w.flushCells l)

/-- A write of an engine or a peer, performed at its home slice at DEVICE. -/
def Work.homeWrite (w : Work) (key : Nat) (ef : Bool) (l : List Host.Cell) : Work :=
  (w.homeTouch ef true (l.map Prod.fst)).performed key l

/-- A read of an engine at the home slice. -/
def Work.homeRead (w : Work) (key : Nat) (ef : Bool) (a n : Nat) : List Byte × Work :=
  let w := w.homeTouch ef false (upto n a)
  ((upto n a).map (w.readByte key), w)

/-- A number of the system's own tables at a physical address, under whichever key it was written.
Outside near memory it is the outside's: a free value (log 3). None where no memory lies. A line
that holds an uncorrectable error reads as ones, which no table entry admits (log 32). -/
def Work.tableRead (w : Work) (a n : Nat) : Option (Nat × Work) :=
  match w.place a with
  | .near _ _ _ =>
    let w := (w.homeTouch false false (upto n a)).logLines (upto n a)
    some (if w.lineUpset (a / 128) then 2 ^ (8 * n) - 1 else w.num a n, w)
  | .nowhere => none
  | .window _ => none
  | _ =>
    let d := w.farData n
    some (leNat d.1, d.2)

/-- Sectors published to every core (R191, R405). -/
def Work.inbAll (w : Work) (secs : List Nat) : Work :=
  (upto Config.cores).foldl (fun w c => w.modCore c (·.inbWrite secs)) w

end Sys2Proof.Machine
end

