-- ==== Sys2Proof/Machine/Net.lean ====
section
/-!
DEFINITION. The network: routes, flow control, arbitration (R358 to R363), and what a packet does
when it reaches a core, a slice or an I/O port (R202).
-/

namespace Sys2Proof.Machine

/-! ## Routes (R361, R362) -/

/-- Columns and rows of the mesh. -/
def dieCol (d : Nat) : Nat := d % 4
def dieRow (d : Nat) : Nat := d / 4

/-- The next die through a link port, and the port at which a packet arrives there: 36 E, 37 W,
38 N, 39 S. -/
def linkTo (d port : Nat) : Nat × Nat :=
  match port with
  | 36 => (d + 1, 37)
  | 37 => (d - 1, 36)
  | 38 => (d + 4, 39)
  | _ => (d - 4, 38)

/-- The productive directions toward a die: column first. -/
def towards (d dst : Nat) : List Nat :=
  (if dieCol d < dieCol dst then [36] else if dieCol dst < dieCol d then [37] else []) ++
    if dieRow d < dieRow dst then [38] else if dieRow dst < dieRow d then [39] else []

/-- The direction of a packet that has no choice. -/
def Packet.fixedDir (p : Packet) (d : Nat) : Option Nat :=
  match towards d p.ddie with
  | [x] => some x
  | x :: _ => if p.esc then some x else none
  | [] => none

/-- R362: the flits buffered toward a direction; a packet that may choose counts where it was last
seen to wait (log 18). -/
def Die.toward (x : Die) (d dir : Nat) : Nat :=
  x.net.foldl (fun n p =>
    if !p.outside &&
        (decide (p.fixedDir d = some dir) ||
          (!p.esc && decide (p.dir = dir) && decide ((towards d p.ddie).length = 2) &&
            (towards d p.ddie).contains dir))
    then n + p.flits else n) 0

/-- R362: the occupancy count of a direction. -/
def Die.occupancy (x : Die) (d dir : Nat) : Nat := x.toward d dir + tget 0 dir x.nbr / 2

/-- The output port a packet takes at a die. -/
def Packet.out (p : Packet) (x : Die) (d : Nat) : Nat :=
  match towards d p.ddie with
  | [] => p.dport
  | [a] => a
  | a :: b :: _ => if p.esc then a else if x.occupancy d b < x.occupancy d a then b else a

/-! ## Flow control (R363) -/

/-- Flits held in a channel: of an input port, or of a slice behind its output port. -/
def Die.chanFlits (x : Die) (port cls : Nat) (esc : Bool) : Nat :=
  x.net.foldl (fun n p =>
    if p.at_ = port ∧ p.cls = cls ∧ p.esc = esc ∧ !p.outside then n + p.flits else n) 0

/-- R363: the signal of an input channel as its contents now stand. -/
def Die.resignal (x : Die) (port cls : Nat) (esc : Bool) : Die :=
  x.signal (chan port cls esc) (x.chanFlits port cls esc)

/-- The channel a packet enters next shows go. A cluster takes what reaches it at once: its channels
never fill (log 18). -/
def Work.goes (w : Work) (d : Nat) (p : Packet) (out : Nat) : Bool :=
  if 36 ≤ out ∧ out < 40 then
    let n := linkTo d out
    !((w.die n.1).stopped.contains (chan n.2 p.cls p.esc))
  else if 12 ≤ out then
    -- R416: the outbound gate of a viral device is closed
    !((w.die d).stopped.contains (chan (64 + out) 0 false)) &&
      !(decide (40 ≤ out) && w.obs.freezeDue && w.obs.viral)
  else true

/-! ## Arbitration (R360) -/

/-- The heads of an input's virtual channels, in the order of R360: control, reply, request. -/
def Die.heads (x : Die) (port : Nat) : List Packet :=
  [(2, false), (2, true), (1, false), (1, true), (0, true)].filterMap fun v =>
    x.net.find? fun p =>
      decide (p.at_ = port) && decide (p.cls = v.1) && decide (p.esc = v.2) && !p.outside

/-- What an input offers, and to which output. -/
def Work.offer (w : Work) (d port : Nat) : Option (Packet × Nat) :=
  let x := w.die d
  if w.tempo / 2 < tget 0 (100 + port) x.outBusy then none
  else
    ((x.heads port).map fun p => (p, p.out x d)).find? fun q => w.goes d q.1 q.2

/-- The inputs that offer a packet to an output. -/
def Work.offers (w : Work) (d out : Nat) : List (Nat × Packet) :=
  (((w.die d).net.filter fun p => !p.outside).map (·.at_)).eraseDups.filterMap fun i =>
    match w.offer d i with
    | some (p, o) => if o = out then some (i, p) else none
    | none => none

/-- R360: inputs of an output, least recently granted first. -/
def Die.lrgOrder (x : Die) (out : Nat) : List Nat := (tfind out x.lrg).getD (upto 48)

/-- R360: the winner. -/
def Die.winner (x : Die) (out : Nat) (l : List (Nat × Packet)) : Option (Nat × Packet) :=
  let old := l.filter fun q => decide (q.2.age = 15)
  let pri : Nat := l.foldl (fun m q => max m q.2.pri) 0
  let cand := if old = [] then l.filter fun q => decide (q.2.pri = pri) else old
  (x.lrgOrder out).findSome? fun i => cand.find? fun q => decide (q.1 = i)

/-! ## Arrival at a core -/

/-- R202: a reply of a slice has arrived. -/
def SeqRec.note (r : SeqRec) (n : Nat) : SeqRec :=
  let all := ninsert n r.extra
  let low := all.foldl (fun low x => if x = low + 1 then x else low) r.low
  { low, extra := all.filter fun x => decide (low < x) }

/-- Write SFL as a landed result (R106). -/
def Group.putSfl (g : Group) (f : BitVec 4) : Group :=
  let g := g.cancel .flags 0 false allLanes
  { g with sfl := f }

/-- R201: the core invalidates its copy of a monitored sector; a fill in flight is not installed
(R205). -/
def Work.dropSector (w : Work) (c sector : Nat) : Work :=
  w.modCore c fun k =>
    k.l1Invalidate (fun line _ => decide (line = sector / 4)) fun f =>
      decide (f.req.line = sector / 4)

/-- R229: a WAITCMP completes. -/
def Work.endWaitcmp (w : Work) (c slot : Nat) (f : BitVec 4) : Work :=
  w.completeNext c slot (·.putSfl f)

/-- A group waits in the WAITCMP with a request number. -/
def Work.inWaitcmp (w : Work) (c slot op : Nat) : Bool :=
  match w.grp c slot with
  | some g =>
    match g.wait with
    | .monitor _ _ _ _ _ _ o => decide (o = op)
    | _ => false
  | none => false

/-- R299: the answer of the slice to a lane's CWAITM. -/
def RunCtx.answer (r : RunCtx) (result op entry : Nat) : RunCtx :=
  match r.asks.find? fun a => decide (a.2.op = op) with
  | none => r
  | some (l, a) =>
    let r := { r with asks := tins l { a with result := some (result, entry) } r.asks }
    match result with
    | 1 => { r with st := tins l 2 r.st, ref := tins l entry r.ref }
    | 4 => { r with st := tins l 4 r.st, ref := tins l 0x0B r.ref }
    | 2 => { r with st := tins l 0 r.st, ref := tins l 0xFF r.ref, cpc := tins l a.cpc r.cpc }
    | _ => { r with st := tins l 0 r.st, ref := tins l 5 r.ref }

/-- R229: the answer of the slice to a WAITCMP, or to a lane of a run. -/
def Work.cmpAnswer (w : Work) (c slot result op sector : Nat) : Work :=
  if !w.inWaitcmp c slot op then
    w.modGrp c slot fun g => { g with run := g.run.map fun r => r.answer result op sector }
  else
    match result with
    | 0 => (w.dropSector c sector).endWaitcmp c slot (mkSfl true false false false)
    | 1 => w
    | 4 =>
      -- R62: the data-error trap, precise at the WAITCMP
      w.return_ c slot fun g => { g with raise := some (0x0B, natWord (32 * sector), 0) }
    | 2 =>
      w.modGrp c slot fun g =>
        let t := (w.core c).cycle
        { ((g.putSfl (mkSfl false false false true)).after g.wstep t (g.nextPc 4)) with
          wait := .monfull (t + 1024) }
    | _ => w.endWaitcmp c slot (mkSfl false false true false)

/-- What a packet does when it leaves a cluster port. -/
def Work.deliver (w : Work) (p : Packet) : Work :=
  let inbox := fun (w : Work) (c : Nat) (f : Inbox → Inbox) =>
    w.modCore c fun k => { k with inbox := f k.inbox }
  let note := fun (w : Work) (c : Nat) =>
    if p.cls = 1 ∧ p.sport < 36 then
      w.modCore c fun k =>
        let key := 24 * p.sdie + (p.sport - 12)
        { k with
          seqSeen := tins key ((tget { low := 0, extra := [] } key k.seqSeen).note p.seq)
            k.seqSeen }
    else w
  match p.msg with
  | .req _ => w
  | .inb _ _ => w
  | .line c op data bad =>
    note (w.modCore c fun k =>
      { k with fills := tmod op (fun f => { f with data := some data, bad }) k.fills }) c
  | .vals c op vals =>
    note (w.modCore c fun k =>
      { k with
        loads := tmod op (fun l =>
          { l with
            got := vals.foldl (fun t v => tins v.1 v.2 t) l.got, left := l.left - 1, at_ := k.cycle })
          k.loads }) c
  | .ack c op => note (inbox w c fun x => { x with acks := x.acks ++ [op] }) c
  | .cmp c slot result op sector => (note w c).cmpAnswer c slot result op sector
  | .wake c slot home sector op cell =>
    inbox w c fun x =>
      { x with wakes := x.wakes ++ [{ slot, home, seq := p.seq, sector, op, cell }] }
  | .sig src dst token scope bits =>
    inbox w dst fun x => { x with sigs := x.sigs ++ [{ src, token, scope, bits }] }
  | .sigAck dst token => inbox w dst fun x => { x with sigAcks := x.sigAcks ++ [token] }
  | .am c m => inbox w c fun x => { x with ams := x.ams ++ [m] }
  | .xwake c tensor seg cell key =>
    inbox w c fun x => { x with xwakes := x.xwakes ++ [{ tensor, seg, cell, key }] }

/-- R402, R358: the die and port a line is reached at; the ports of host, CXL and fabric links are
the model's choice (log 18). -/
def Work.route (w : Work) (line : Nat) : Nat × Nat :=
  match w.home? (128 * line) with
  | some h => (h.die, slicePort h.slice)
  | none =>
    match w.place (128 * line) with
    | .far p _ => (p, 41)
    | .fabric e _ => (e % 8, 42)
    | _ => (0, 40)

/-- The answer to a request that left through an I/O port: back to its core from that port. -/
def Work.ioBack (w : Work) (r : Req) (n : Nat) (m : Msg) : Work :=
  let w :=
    if r.eng && r.writes then
      w.mergeSectors r.launch r.lin (r.touched.map (· / 32)).eraseDups
    else w
  let t := w.route r.line
  w.send 1 r.pri n t.1 t.2 (Config.dieOf r.core) (clusterPort r.core) 0 m

/-- The I/O gate of a request: 0 host, 1 to 8 CXL, 9 to 24 fabric (R378). -/
def Work.ioGate (w : Work) (line : Nat) : Nat :=
  match w.place (128 * line) with
  | .far p _ => 1 + p
  | .fabric e _ => 9 + e % 16
  | _ => 0

/-- R360: the packet leaves a die through an output. A host write counts as completed by its target,
for SC and for SYSTEM (R105, R184), when it passes the outbound gate: the spec does not say when a
posted write is (DESIGN CHOICE, log 18). -/
def Work.leave (w : Work) (d out : Nat) (p : Packet) : Work :=
  if 36 ≤ out ∧ out < 40 then
    let n := linkTo d out
    w.modDie n.1 fun x =>
      let x := { x with net := x.net ++ [{ p with age := 0, at_ := n.2, stuck := 0 }] }
      x.resignal n.2 p.cls p.esc
  else if 12 ≤ out ∧ out < 36 then
    w.modDie d fun x =>
      let s := x.slice (out - 12)
      let s := { s with inq := s.inq ++ [p] }
      (x.setSlice (out - 12) s).signal (chan (64 + out) 0 false) s.flits
  else if out < 12 then w.deliver p
  else
    match p.msg with
    | .req r =>
      let g := w.ioGate r.line
      -- a host write has passed the outbound gate, or is discarded there (R410): performed
      if g = 0 ∧ r.writes then w.ioBack r 0 (.ack r.core r.op)
      else { w with io := tins g (tget [] g w.io ++ [r]) w.io }
    | _ => w

/-- Remove the first packet equal to one. -/
def Die.take (x : Die) (p : Packet) : Die := { x with net := x.net.erase p }

/-- R360: a free output grants one offered packet. -/
def execCrossbarGrant (die port : Nat) (s : State) : Host.Outcome State Fault Refusal :=
  event s fun w =>
    let x := w.die die
    let now := w.tempo / 2
    if now < tget 0 port x.outBusy then w
    else
      let l := w.offers die port
      match x.winner port l with
      | none => w
      | some (i, p) =>
        let losers := (l.filter fun q => decide (q.1 ≠ i)).map (·.2)
        let x := x.take p
        let x :=
          { x with
            net := x.net.map fun q =>
              if losers.contains q then { q with age := min (q.age + 1) 15 } else q
            lrg := tins port ((x.lrgOrder port).filter (· ≠ i) ++ [i]) x.lrg
            outBusy := tins (100 + i) (now + p.flits) (tins port (now + p.flits) x.outBusy) }
        (w.setDie die (x.resignal i p.cls p.esc)).leave die port p

/-- R362: a packet that found no go on its adaptive channel for 64 network cycles takes the escape
channel of its class. -/
def execEscapeChannelMove (die index : Nat) (s : State) : Host.Outcome State Fault Refusal :=
  event s fun w =>
    w.modDie die fun x =>
      match x.net[index]? with
      | some p =>
        if p.esc = false ∧ 64 ≤ p.stuck ∧ !p.outside then
          (({ x with
            net := x.net.mapIdx fun i p => if i = index then { p with esc := true } else p }
            : Die).resignal p.at_ p.cls false).resignal p.at_ p.cls true
        else x
      | none => x

/-- R358, R363: the first packet outside a port that may enter: its channel shows go; earlier master
cycle first, then ascending core, then the order in which it was sent. -/
def Die.entrant (x : Die) (port : Nat) : Option Packet :=
  let l := x.net.filter fun p => p.outside && decide (p.at_ = port)
  (sortBy (fun (a b : Packet) => decide (a.t0 < b.t0) || (decide (a.t0 = b.t0) && decide (a.from_ < b.from_)))
    l).find? fun p =>
      !x.stopped.contains (chan port p.cls p.esc) &&
        (l.find? fun q => decide (q.cls = p.cls) && decide (q.from_ = p.from_)) == some p

/-- R358: a port takes one flit per network cycle: a packet enters when the one before it is in. -/
def Die.enter (x : Die) (now port : Nat) : Die :=
  if now < tget 0 (200 + port) x.outBusy then x
  else
    match x.entrant port with
    | none => x
    | some p =>
      let q := { p with outside := false }
      ({ x with
        net := x.net.erase p ++ [q]
        outBusy := tins (200 + port) (now + p.flits) x.outBusy } : Die).resignal port p.cls p.esc

/-- R358: data flits of a request: of a store, the bytes that it writes. -/
def Req.flits (r : Req) : Nat :=
  match r.kind with
  | .store l => ((l.map Prod.fst).eraseDups.length + 63) / 64
  | .atomic op size ret ops =>
    (ops.length * size * (if op = 9 ∧ ret then 2 else 1) + 63) / 64
  | .ordered atom op size ops => (ops.length * (if op = 4 ∧ !atom then 2 else size) + 63) / 64
  | _ => 0

/-- R363: the flits behind the I/O outputs: of the requests that wait at their gates. -/
def Work.ioFlits (w : Work) (d port : Nat) : Nat :=
  let gates := if port = 40 then (if d = 0 then [0] else []) else if port = 41 then [1 + d] else [9 + d, 17 + d]
  gates.foldl (fun n g => (tget [] g w.io).foldl (fun n r => n + 1 + r.flits) n) 0

/-- At a network cycle: packets enter their ports (R358), waits on the adaptive channels, and the
occupancy counts that neighbours exchange (R362). -/
def Work.netCycle (w : Work) : Work :=
  { w with
    dies := w.dies.map fun q =>
      let d := q.1
      let x := q.2
      let now := w.tempo / 2
      let y : Die := { x with
        net := x.net.map fun p =>
          if p.esc || p.outside then p
          else
            let p := { p with dir := p.out x d }
            if w.goes d p p.dir then { p with stuck := 0 } else { p with stuck := p.stuck + 1 }
        nbr := [36, 37, 38, 39].foldl (fun t dir =>
          let ok := (dir = 36 ∧ dieCol d < 3) ∨ (dir = 37 ∧ 0 < dieCol d) ∨
            (dir = 38 ∧ dieRow d < 1) ∨ (dir = 39 ∧ 0 < dieRow d)
          if ok then tput 0 dir ((w.die (linkTo d dir).1).occupancy (linkTo d dir).1 dir) t else t)
          x.nbr }
      let y := [40, 41, 42].foldl (fun y port => y.signal (chan (64 + port) 0 false) (w.ioFlits d port)) y
      (d, ((y.net.filter (·.outside)).map (·.at_)).eraseDups.foldl (fun y port => y.enter now port) y) }

/-! ## Sending from a core -/

/-- A request leaves its core. -/
def Work.request (w : Work) (r : Req) : Work :=
  let t := w.route r.line
  w.send 0 r.pri r.flits (Config.dieOf r.core) (clusterPort r.core) t.1 t.2 0 (.req r) r.core

/-- A control packet from a core to a core. -/
def Work.control (w : Work) (src dst : Nat) (m : Msg) : Work :=
  w.send 2 3 0 (Config.dieOf src) (clusterPort src) (Config.dieOf dst) (clusterPort dst) 0 m src

/-- R359: the priority of a group's traffic. -/
def Group.prio (g : Group) : Nat := if g.kind = .supervisor then 3 else g.pri

/-! ## Signatures (R188, R190) -/

/-- R188: a signature arrives, enters INB and the wider filters, and is acknowledged. -/
def execSignatureReceive (core : Nat) (s : State) : Host.Outcome State Fault Refusal :=
  event s fun w =>
    let k := w.core core
    match k.inbox.sigs with
    | [] => w
    | x :: rest =>
      (w.setCore core
        { k with
          inbox := { k.inbox with sigs := rest }
          inb := k.inb ||| x.bits
          sigGang := if x.scope < 2 then k.sigGang ||| x.bits else k.sigGang
          sigDev := if x.scope < 3 then k.sigDev ||| x.bits else k.sigDev }).control core x.src
        (.sigAck x.src x.token)

/-- R190: an acknowledgment of a signature returns. -/
def execSignatureAckReceive (core : Nat) (s : State) : Host.Outcome State Fault Refusal :=
  event s fun w =>
    let k := w.core core
    match k.inbox.sigAcks with
    | [] => w
    | token :: rest =>
      let one := fun (r : Release) =>
        if r.phase = 2 ∧ r.token = token then { r with acks := r.acks - 1 } else r
      let out := match tfind token k.sigOut with
        | some (s, n + 2) => tins token (s, n + 1) k.sigOut
        | _ => tdel token k.sigOut
      let w := (w.setCore core { k with inbox := { k.inbox with sigAcks := rest }, sigOut := out }).mapGrps core
        fun _ g => { g with rel := g.rel.map one }
      -- R280: the release of a segment's engine
      { w with
        tensors := tmap (fun _ t =>
          { t with
            segs := tmap (fun _ s => if s.core = core then { s with rel := s.rel.map one } else s)
              t.segs }) w.tensors }

end Sys2Proof.Machine
end

