-- ==== Sys2Proof/Machine/Power.lean ====
section
/-!
DEFINITION. Power and clocks: the allowance and power-parking (R316, R318, R324), converter ratios
and clocks (R319, R320, R322), the slew limiter (R321, R323), TEMPOW's target (R347).
-/

namespace Sys2Proof.Machine

/-- The cores of a cluster. -/
def coresOf (cl : Nat) : List Nat := upto 8 (8 * cl)

/-! ## Power-parking -/

/-- R318: the cyclic order of slots from a first one: downwards, 1 followed by 47. -/
def parkOrder (from_ : Nat) : List Nat :=
  (upto 47).map fun i => (from_ - 1 + 47 - i) % 47 + 1

/-- R324: a group that may be power-parked. -/
def Group.canPowerPark (g : Group) : Bool := decide (g.kind ≠ .supervisor) && g.powered.isNone

/-- R318: park the first group of the order that may be parked. -/
def Core.powerPark (k : Core) (from_ : Nat) : Option (Nat × Core) :=
  ((parkOrder from_).find? fun s => ((tfind s k.groups).map Group.canPowerPark).getD false).map
    fun s => (s,
      { k with
        groups := tmod s (fun g => { g with powered := some k.pparkSeq, since := none }) k.groups
        pparkSeq := k.pparkSeq + 1, lastParked := s })

/-- The slots of the power-parked groups of a core. -/
def Core.parkedSlots (k : Core) : List Nat := k.slotsOf fun g => g.powered.isSome

/-- R318: release the most recently power-parked group. -/
def Core.powerRelease (k : Core) : Core :=
  let last : Nat := k.groups.foldl (fun m p => max m (p.2.powered.getD 0)) 0
  { k with
    groups := tmap (fun _ g => if g.powered = some last then { g with powered := none } else g)
      k.groups }

/-- R321: groups of a core that a change has released from power-parking ask for admission. -/
def Work.gateReleased (w : Work) (c : Nat) (f : Core → Core) : Work :=
  let was := (w.core c).parkedSlots
  let w := w.modCore c f
  (was.filter fun s => ((w.grp c s).map fun g => g.powered.isNone && g.entry).getD false).foldl
    (fun w s => w.gate c s (Config.clusterOf c % 12)) w

/-- R318: the cores of a cluster whose present core cycle has not been served. -/
def Work.paDue (w : Work) (cl : Nat) : List Nat :=
  (coresOf cl).filter fun c =>
    decide ((w.core c).paAt ≤ (w.core c).cycle) && (w.cores.any fun p => decide (p.1 = c))

/-- R318: with CNT below THR each core parks one more user group. -/
def execPaPark (cluster : Nat) (s : State) : Host.Outcome State Fault Refusal :=
  event s fun w =>
    let x := w.cluster cluster
    if x.pacnt < x.pathr then
      (w.paDue cluster).foldl (fun w c => w.modCore c fun k =>
        { ((k.powerPark k.rb).map Prod.snd).getD k with paAt := k.cycle + 1 }) w
    else w

/-- R318: with CNT at or above THR + HYS each core releases its most recently parked group. -/
def execPaRelease (cluster : Nat) (s : State) : Host.Outcome State Fault Refusal :=
  event s fun w =>
    let x := w.cluster cluster
    if x.pathr + x.pahys ≤ x.pacnt then
      (w.paDue cluster).foldl (fun w c => w.gateReleased c fun k =>
        { k.powerRelease with paAt := k.cycle + 1 }) w
    else w

/-- R318: the rotation: all released, the same number parked again after the last one parked. -/
def Core.powerRotate (k : Core) : Core :=
  let n := k.parkedSlots.length
  let k := { k with rotAt := k.rotAt + 8192 }
  if n = 0 then k
  else
    let k0 := { k with groups := tmap (fun _ g => { g with powered := none }) k.groups }
    let next := fun (k : Core) => if k.lastParked ≤ 1 then 47 else k.lastParked - 1
    (upto n).foldl (fun k i =>
      match k.powerPark (next k) with
      | some (s, k) => if i = 0 then { k with rb := s } else k
      | none => k) k0

/-- R318: every 8 192 core cycles. -/
def execPaRotate (core : Nat) (s : State) : Host.Outcome State Fault Refusal :=
  event s fun w =>
    w.gateReleased core fun k => if k.rotAt + 8192 ≤ k.cycle then k.powerRotate else k

/-! ## Ratios and clocks -/

/-- R320: a request as it arrives with no ramp in progress. -/
def Cluster.request (k : Cluster) (tempo r : Nat) : Cluster :=
  if r = k.ratio then k else { k with target := some r, rampEnd := tempo + 1 + 2400 }

/-- R320: a request for a ratio arrives. -/
def Cluster.crreq (k : Cluster) (tempo r : Nat) : Cluster :=
  match k.target with
  | none => k.request tempo r
  | some t => if r = t then k else { k with pendReq := some r }

/-- R320: a write of CRREQ; 3 is ignored. Of a supervisor's and the management port's in one master
cycle the supervisor's applies first and stands, so that the port's has no effect (DEDUCED, log 21). -/
def Work.crreq (w : Work) (cl : Nat) (value : Word) (sup : Bool) : Work :=
  let r := value.toNat % 4
  if r = 3 then w
  else w.modCluster cl fun k =>
    if sup then
      let k := match k.crPort with
        | some (t, x) =>
          if t = w.tempo then { k with target := x.1, rampEnd := x.2.1, pendReq := x.2.2 } else k
        | none => k
      { k.crreq w.tempo r with crSup := some w.tempo }
    else if k.crSup = some w.tempo then k
    else { k.crreq w.tempo r with crPort := some (w.tempo, k.target, k.rampEnd, k.pendReq) }

/-- R320: the supervisor and the management port may write CRREQ (R404). -/
def execCrreqWrite (path : Path) (cluster : Nat) (value : Word) (s : State) :
    Host.Outcome State Fault Refusal :=
  event s fun w =>
    if path = .host then w else w.crreq cluster value (decide (path = .supervisor))

/-- R320: a ramp ends; a pending request is taken as though it had just arrived. -/
def execRampEnd (cluster : Nat) (s : State) : Host.Outcome State Fault Refusal :=
  event s fun w =>
    let k := w.cluster cluster
    match k.target with
    | none => w
    | some t =>
      if w.tempo < k.rampEnd then w
      else
        let k' := { k with ratio := t, target := none, pendReq := none }
        w.setCluster cluster
          (match k.pendReq with
            | some r => k'.request w.tempo r
            | none => k')

/-- R3: edges per window of a ratio's guaranteed clock. -/
def ratioEdges (r : Nat) : Nat :=
  match r with
  | 0 => 8
  | 1 => 12
  | _ => 16

/-- R319, R320, R349: the clock that a core is given: its ratio's, the lower during a ramp, with
one edge more per step unless it is in safe mode or quarantined. -/
def Work.clockOf (w : Work) (c : Nat) : Nat :=
  let k := w.cluster (Config.clusterOf c)
  let m := (w.core c).mgn
  min (ratioEdges k.ratio) (ratioEdges ((k.ramp w.tempo).getD k.ratio)) +
    if m.safe || m.quar then 0 else m.step

/-- R348, R349, R354: a write to a margin register takes effect. SAFE does not move while the core is
quarantined. A STEP written while SAFE is 1 is held, and the core runs at it when SAFE is cleared. -/
def Margin.write (m : Margin) (reg : Nat) (v : Word) : Margin :=
  let n := v.toNat
  match reg with
  | 0 =>
    let safe := if m.quar then m.safe else v.getLsbD 2
    if m.safe then
      if safe then { m with heldStep := some (n % 4) }
      else { m with safe := false, step := m.heldStep.getD m.step, heldStep := none }
    else
      { m with safe, step := n % 4, tbcnt := if safe then 0 else m.tbcnt, heldStep := none }
  | 1 => { m with tbcnt := n % 2 ^ 32 }
  | 2 => { m with tbwin := max 1024 (n % 2 ^ 32) }
  | _ => { m with tblim := n % 2 ^ 16 }

/-- R319, R322, R348: at a 48-slot window boundary a core takes its clock and the margin writes
made before it. -/
def execClockWindowBoundary (core : Nat) (s : State) : Host.Outcome State Fault Refusal :=
  event s fun w =>
    if w.tempo % 48 ≠ 0 then w
    else
      let w := w.modCore core fun k =>
        { k with
          mgn := { k.mgn.pendW.foldl (fun m p => m.write p.1 p.2) k.mgn with pendW := [] } }
      w.modCore core fun k => { k with edges := w.clockOf core }

/-- R319: a core clock has an edge at a slot of the master clock. -/
def hasEdge (edges tempo : Nat) : Bool :=
  let i := tempo % 48
  decide (i * edges / 48 < (i + 1) * edges / 48)

/-! ## The slew limiter -/

/-- R321, R323: the request of a die's queue that may be admitted now: the head, when the present
window has room. -/
def Die.slewNext (d : Die) (win : Nat) : Option (Nat × Nat) :=
  if d.slewWin ≠ win ∨ d.slewN < 2 then d.slewq.head? else none

/-- R321, R323: the head of the die's queue is admitted when the present window has room. -/
def execSlewAdmit (die : Nat) (s : State) : Host.Outcome State Fault Refusal :=
  event s fun w =>
    let d := w.die die
    let win := w.tempo / 256
    let used := if d.slewWin = win then d.slewN else 0
    let inn := if d.slewWin = win then d.slewIn else []
    match d.slewNext win with
    | none => w
    | some e =>
      (coresOf e.2).foldl (fun w c =>
        if w.cores.any fun p => decide (p.1 = c) then
          w.mapGrps c fun _ g => { g with slewed := false }
        else w)
        (w.setDie die { d with
          slewq := d.slewq.erase e, slewWin := win
          slewN := if inn.contains e.2 then used else used + 1, slewIn := ninsert e.2 inn })

/-! ## TEMPOW -/

/-- R347: a core cycle begins at a master edge with TEMPO at or above the target: the group is no
longer held. -/
def execTempowTargetReached (core slot : Nat) (s : State) : Host.Outcome State Fault Refusal :=
  event s fun w =>
    match w.grp core slot with
    | some g =>
      match g.wait with
      | .tempow t =>
        if t.toNat ≤ w.tempo ∧ hasEdge (w.core core).edges w.tempo then
          (w.setGrp core slot { g with wait := .none, readyAt := (w.core core).cycle }).gate core slot
            (Config.clusterOf core % 12)
        else w
      | _ => w
    | none => w

end Sys2Proof.Machine
end

