-- ==== Sys2Proof/Machine/Window.lean ====
section
/-!
DEFINITION. The register window (R403, R404): reads and writes of device registers, TLB
invalidation (R335), firmware ready (R419).
-/

namespace Sys2Proof.Machine

/-! ## Halves -/

/-- R403: the mask of a write: the whole register, or one half. -/
def halfMask (half : Option Bool) : Word :=
  match half with
  | none => BitVec.allOnes 64
  | some false => 0xFFFFFFFF
  | some true => 0xFFFFFFFF_00000000

/-! ## Reads -/

/-- R338: PRECTL. GO and RESUME read 1 until the next master edge. -/
def Work.prectl (w : Work) : Nat :=
  let p := w.preempt
  let now := decide (p.t0 = w.tempo)
  p.owner % 1024 +
    (if p.cmd = 1 ∧ now then 2 ^ 10 else 0) +
    (if p.cmd = 2 ∧ now then 2 ^ 11 else 0) +
    (if p.stage ≠ 0 then 2 ^ 12 else 0) + p.result % 4 * 2 ^ 13

/-- R383: ADJCTL. -/
def Work.adjctl (w : Work) : Nat :=
  let o := w.obs
  (if o.arm then 1 else 0) + (if o.frozen then 2 else 0) + o.slotSel % 16 * 2 ^ 5 +
    o.adjErr % 8 * 2 ^ 10 + if o.armErr then 2 ^ 13 else 0

/-- R335: TLBINV, its two words. -/
def Work.tlbinvWord (w : Work) (i : Nat) : Nat :=
  if i = 0 then w.tlbinv.toNat + if w.tlbBusy then 2 ^ 55 else 0 else w.tlbinvOwn

/-- R303: a launch queue's registers. -/
def Work.queue (w : Work) (q : Nat) : Queue := tget Queue.init q w.queues

def Queue.read (q : Queue) (i : Nat) : Nat :=
  match i with
  | 0 => q.base
  | 1 => q.ctl.toNat
  | 2 => q.head
  | _ => q.tail

/-- R316, R320: a cluster's registers. CRREQ reads the ratio requested last. -/
def Cluster.read (k : Cluster) (i : Nat) : Nat :=
  match i with
  | 0 => k.pacnt
  | 1 => k.pabud
  | 2 => k.pathr
  | 3 => k.pahys
  | 4 => k.pendReq.getD (k.target.getD k.ratio)
  | _ => 0

def Work.tdi (w : Work) (i : Nat) : Tdi := tget Tdi.init i w.tdis

/-- R408: the words of an interface. -/
def Tdi.read (t : Tdi) (i : Nat) : Nat :=
  if i = 0 then t.own % 1024 + t.tst % 4 * 2 ^ 10 + (if t.sess then 2 ^ 12 else 0)
  else t.hbase % 2 ^ 32 + t.hlen % 2 ^ 32 * 2 ^ 32

/-- R413: the control word of a key-table entry; keys cannot be read. -/
def KeyEnt.control (k : KeyEnt) : Nat := (if k.valid then 1 else 0) + if k.dbg then 2 else 0

/-- R404: a register of the observation block. -/
def Work.obsRead (w : Work) (o : Nat) : Nat :=
  let x := w.obs
  if 0x80 ≤ o ∧ o < 0x100 then
    let d := tget (0, 0) ((o - 0x80) / 16) x.divlog
    if o % 16 = 0 then d.1.toNat else d.2.toNat
  else
    match o with
    | 0x00 => x.scsbase.toNat
    | 0x08 => x.scssize.toNat
    | 0x10 => x.scshead
    | 0x18 => x.scstail
    | 0x40 => x.stopat.toNat
    | 0x48 => w.adjctl
    | 0x50 => x.repctl.toNat
    | 0x60 => x.talign.toNat
    | 0x100 => x.rbsel.toNat
    | 0x108 => x.rbdata.toNat
    | 0x110 => x.mraddr.toNat
    | 0x118 => x.mrdata.toNat
    | _ => 0

/-- R404: the value of the register at an aligned offset. -/
def Work.regRead (w : Work) (path : Path) (off : Nat) : Word :=
  let o := off / 8 * 8
  natWord <|
    if 0x800000 ≤ o then (if path = .management then w.obsRead (o - 0x800000) else 0)
    else if 0x10000 ≤ o ∧ o < 0x30000 then
      (if (o - 0x10000) % 128 = 0 then (w.keyEnt ((o - 0x10000) / 128)).control else 0)
    else if 0x6000 ≤ o ∧ o < 0x8000 then
      (tget 0 ((o - 0x6000) / 32) w.errlog).toNat / 2 ^ (64 * (o / 8 % 4)) % 2 ^ 64
    else if 0x4500 ≤ o ∧ o < 0x4600 then (tget 0 ((o - 0x4500) / 8) w.fabshr).toNat
    else if 0x4400 ≤ o ∧ o < 0x4500 then (tget 0 ((o - 0x4400) / 8) w.fabexp).toNat
    else if 0x4000 ≤ o ∧ o < 0x4400 then (w.tdi ((o - 0x4000) / 16)).read (o / 8 % 2)
    else if 0x2000 ≤ o ∧ o < 0x3800 then
      (w.cluster ((o - 0x2000) / 64)).read (o % 64 / 8)
    else if 0x1000 ≤ o ∧ o < 0x1200 then (w.queue ((o - 0x1000) / 32)).read (o / 8 % 4)
    else
      match o with
      | 0x00 => w.rootbase
      | 0x10 => w.tlbinvWord 0
      | 0x18 => w.tlbinvWord 1
      | 0x20 => w.prectl
      | 0x28 => w.pretime.toNat
      | 0x30 => w.nmsplit
      | 0x38 => w.sesslife.toNat
      | 0x48 => if w.fwready then 1 else 0
      | 0x50 => w.virst.toNat
      | 0x58 => w.bootwhy.toNat
      | 0x60 => w.errNext % 256 + min w.errCount (2 ^ 56 - 1) * 256
      | _ => 0

/-! ## TLB invalidation (R335) -/

/-- The page that TLBINV names: its first address and its size. -/
def tlbinvPage (v : Word) : Nat × Nat :=
  let n := 2 ^ pageBits (field v 53 52)
  (field v 51 0 / n * n, n)

/-- Whether an entry matches an invalidation. -/
def TlbEnt.dropped (e : TlbEnt) (v : Word) (own : Nat) : Bool :=
  let p := tlbinvPage v
  let base := e.vpn * 2 ^ pageBits e.size
  decide (e.owner = own) &&
    (v.getLsbD 54 ||
      (decide (base < p.1 + p.2) && decide (p.1 < base + 2 ^ pageBits e.size)))

/-- R335: the write of the word that holds OWN starts the invalidation; the walks in progress are
those it waits for. -/
def Work.tlbStart (w : Work) (v : Word) : Work :=
  { w with
    tlbinvOwn := field v 9 0, tlbBusy := true
    dies := tmap (fun _ d =>
      { d with walks := d.walks.map fun x => { x with cancelled := true } }) w.dies }

/-- R335. -/
def execTlbinv (path : Path) (value : Word) (s : State) : Host.Outcome State Fault Refusal :=
  event s fun w =>
    match path with
    | .host => w.tlbStart value
    | .management => w.tlbStart value
    | .supervisor => w.tlbStart value

/-- R335: every TLB has dropped every matching entry, and the walks that came before have finished.
-/
def execTlbinvDone (s : State) : Host.Outcome State Fault Refusal :=
  event s fun w =>
    if !w.tlbBusy || w.dies.any (fun d => d.2.walks.any (·.cancelled)) then w
    else
      let keep := fun (t : List (Nat × TlbEnt)) =>
        t.filter fun x => !x.2.dropped w.tlbinv w.tlbinvOwn
      { w with
        tlbBusy := false
        cores := w.cores.map fun p => (p.1, { p.2 with tlb := keep p.2.tlb })
        clusters := w.clusters.map fun p => (p.1, { p.2 with tlb2 := keep p.2.tlb2 }) }

/-! ## Writes -/

/-- R303: a write of a launch queue's register; QERR clears where a 1 is written, in the half the
access writes. -/
def Queue.write (q : Queue) (i : Nat) (v clear : Word) : Queue :=
  match i with
  | 0 => { q with base := keepBits v 51 6, waits := [] }
  | 1 =>
    let qerr := field q.ctl 17 17 * (1 - field clear 17 17)
    { q with ctl := natWord (field v 16 0 + qerr * 2 ^ 17), waits := [] }
  | 2 => q
  | _ => { q with tail := field v 15 0 }

/-- R419: firmware ready: boot completes and FAILS clears. -/
def Work.firmwareReady (w : Work) : Work :=
  { w with
    fwready := true
    phase := if w.phase = .booting then .ready else w.phase
    bootwhy := w.bootwhy &&& ~~~0x300#64 }

/-- R404: a write of a register, from a path, under a mask of the bytes written. A write from a
path that may not write the register changes nothing. -/
def Work.regWrite (w : Work) (path : Path) (off : Nat) (value mask : Word) : Work :=
  let o := off / 8 * 8
  let new := (w.regRead path o &&& ~~~mask) ||| (value &&& mask)
  if 0x800000 ≤ o then
    if path ≠ .management then w
    else
      match o - 0x800000 with
      | 0x00 => { w with obs := { w.obs with scsbase := natWord (keepBits new 51 12) } }
      | 0x08 => { w with obs := { w.obs with scssize := natWord (field new 31 0) } }
      | 0x40 => { w with obs := { w.obs with stopat := new } }
      | _ => w
  else if 0x4500 ≤ o ∧ o < 0x4600 then
    if path = .supervisor then w
    else
      let x := if o % 16 = 0 then natWord (keepBits new 52 16) else new
      { w with fabshr := tput 0 ((o - 0x4500) / 8) x w.fabshr }
  else if 0x4400 ≤ o ∧ o < 0x4500 then
    if path = .supervisor then w
    else
      let x := if o % 16 = 0 then natWord (keepBits new 53 16) else natWord (field new 52 0)
      { w with fabexp := tput 0 ((o - 0x4400) / 8) x w.fabexp }
  else if 0x2000 ≤ o ∧ o < 0x3800 then
    let c := (o - 0x2000) / 64
    let n := field new 23 0
    match o % 64 / 8 with
    | 1 => if path = .supervisor then w.modCluster c fun k => { k with pabud := n } else w
    | 2 => if path = .supervisor then w.modCluster c fun k => { k with pathr := n } else w
    | 3 => if path = .supervisor then w.modCluster c fun k => { k with pahys := n } else w
    | 4 => if path = .host then w else if mask.getLsbD 0 then w.crreq c value (decide (path = .supervisor)) else w
    | _ => w
  else if 0x1000 ≤ o ∧ o < 0x1200 then
    let q := (o - 0x1000) / 32
    { w with
      queues := tput Queue.init q ((w.queue q).write (o / 8 % 4) new (value &&& mask)) w.queues }
  else
    match o with
    | 0x00 => { w with rootbase := keepBits new 51 15 }
    | 0x10 => { w with tlbinv := natWord (keepBits new 54 16) }
    | 0x18 => w.tlbStart new
    | 0x20 =>
      if path = .supervisor ∨ w.preempt.stage ≠ 0 then w
      else { w with preempt := { w.preempt with owner := field new 9 0 } }
    | 0x28 => if path = .supervisor then w else { w with pretime := natWord (field new 47 0) }
    | 0x30 => if path = .host ∨ w.fwready then w else { w with nmsplit := field new 6 0 }
    | 0x38 => if path = .supervisor then w else { w with sesslife := new }
    | 0x48 =>
      if path = .supervisor ∧ (value &&& mask).getLsbD 0 then w.firmwareReady else w
    | _ => w

/-- R403: a write to a window register. Registers whose writes start an action of their own
(PRECTL, RSTCTL, BOOTWHY, ADJCTL, REPCTL, SCSTAIL, RBSEL, MRADDR) have events of their own. An access
that is not aligned has no effect. -/
def execRegisterWrite (path : Path) (offset : Nat) (value : Word) (half : Option Bool) (s : State) :
    Host.Outcome State Fault Refusal :=
  event s fun w =>
    let v := if half = some true then value <<< 32 else value
    if offset % 8 = 0 then w.regWrite path offset v (halfMask half) else w

/-- R419: firmware writes FWREADY. -/
def execFwready (path : Path) (s : State) : Host.Outcome State Fault Refusal :=
  event s fun w => if path = .supervisor then w.firmwareReady else w

/-- R420: BOOTWHY.CLR, through the management port. -/
def execBootwhyClr (path : Path) (s : State) : Host.Outcome State Fault Refusal :=
  event s fun w =>
    if path = .management then
      { w with bootwhy := w.bootwhy ||| 0x800#64 }
    else w

end Sys2Proof.Machine
end

