-- ==== Sys2Proof/Machine/MemAccess.lean ====
section
/-!
DEFINITION. Global loads and stores (R125, R126, R207 to R213), the checks of R209, walks (R332 to
R336), the landing of loads, stores and fills (R184, R209, R424), typed-buffer access (R214 to
R217).
-/

namespace Sys2Proof.Machine

/-! ## Walks (R332, R333) -/

/-- R333: what a walk ends with. -/
inductive WalkEnd where
  | leaf (e : TlbEnt)
  | pageFault
  | accessFault
deriving DecidableEq, Repr

/-- R333: index shift and index bits of a level. -/
def levelShift (l : Nat) : Nat × Nat :=
  match l with
  | 4 => (39, 13)
  | 3 => (30, 9)
  | 2 => (26, 4)
  | 1 => (21, 5)
  | _ => (16, 5)

/-- Alignment bits of a level's table. -/
def tableBits (l : Nat) : Nat :=
  match l with
  | 4 => 16
  | 3 => 12
  | 2 => 7
  | 1 => 8
  | _ => 8

/-- R333: size code of a leaf at a level below 4. -/
def leafSize (l : Nat) : Nat := l

/-- R333: what one entry of a level says: the walk ends, or goes on at the next table. -/
def levelEntry (owner va n : Nat) (e : Word) : WalkEnd ⊕ Nat :=
  let sh := levelShift n
  let addr := field e 51 8 * 256
  if !e.getLsbD 0 then .inl .pageFault
  else if field e 7 7 ≠ 0 ∨ field e 63 62 ≠ 0 then .inl .accessFault
  else if e.getLsbD 1 then
    if n = 4 ∨ addr % 2 ^ sh.1 ≠ 0 then .inl .accessFault
    else
      .inl (.leaf
        { owner, size := leafSize n, vpn := va / 2 ^ sh.1, ppn := addr / 2 ^ sh.1
          r := e.getLsbD 2, w := e.getLsbD 3, x := e.getLsbD 4, sup := e.getLsbD 5
          ro := e.getLsbD 6, key := field e 61 52 })
  else if n = 0 ∨ addr % 2 ^ tableBits (n - 1) ≠ 0 then .inl .accessFault
  else .inr addr

/-- R333: the levels below `n`, from the table at `tab`. -/
def Work.walkFrom (owner va : Nat) : Nat → Nat → Work → WalkEnd × Work
  | 0, _, w => (.accessFault, w)
  | n + 1, tab, w =>
    match w.tableRead (tab + 8 * (va / 2 ^ (levelShift n).1 % 2 ^ (levelShift n).2)) 8 with
    | none => (.accessFault, w)
    | some (e, w) =>
      match levelEntry owner va n (BitVec.ofNat 64 e) with
      | .inl r => (r, w)
      | .inr addr => Work.walkFrom owner va n addr w

/-- R332: the root-table entry of an owner, a table entry of the system. -/
def Work.rootEntry (w : Work) (owner : Nat) : Option (BitVec 256 × Work) :=
  (w.tableRead (w.rootbase + 32 * owner) 32).map fun x => (BitVec.ofNat 256 x.1, x.2)

/-- R332, R333: the entry is valid, its reserved bits and TROOT[15:0] are 0. -/
def rootOk (e : BitVec 256) : Bool :=
  e.getLsbD 52 && decide (e.extractLsb' 53 11 = 0) && decide (e.extractLsb' 0 16 = 0) &&
    decide (e.extractLsb' 116 12 = 0) && decide (e.extractLsb' 160 96 = 0)

/-- R332, R333: a walk under an owner's tables, as they stand in memory; its reads reach the slices
(R365, R370). -/
def Work.walk (w : Work) (owner va : Nat) : WalkEnd × Work :=
  match w.rootEntry owner with
  | none => (.accessFault, w)
  | some (e, w) =>
    if rootOk e then Work.walkFrom owner va 5 (e.extractLsb' 0 52).toNat w else (.accessFault, w)

/-- Put a translation into the TLBs of a core and its cluster (R334). -/
def Work.tlbFill (w : Work) (c : Nat) (e : TlbEnt) : Work :=
  (w.modCluster (Config.clusterOf c) fun x => { x with tlb2 := tlbInsert 1024 8 e x.tlb2 }).modCore c
    fun k => { k with tlb := tlbInsert 64 4 e k.tlb }

/-- What a walk's fault leaves for the access that asked for it: 1 page fault, 2 access fault. -/
def WalkEnd.mark (r : WalkEnd) (k : Nat) (t : Tab Nat) : Tab Nat :=
  match r with
  | .leaf _ => t
  | .pageFault => tins k 1 t
  | .accessFault => tins k 2 t

/-- R334: a walk of the die completes; the groups or the engine that wait for the page run again
(R18). -/
def execWalkComplete (die : Nat) (s : State) : Host.Outcome State Fault Refusal :=
  event s fun w =>
    match (w.die die).walks with
    | [] => w
    | x :: rest =>
      let q := (w.modDie die fun d => { d with walks := rest }.startWalks).walk x.owner x.va
      let w := match q.1 with
        | .leaf e => q.2.tlbFill x.core e
        | _ => q.2
      let page := x.va / 65536
      if x.eng then
        w.modCore x.core fun k =>
          { k with walkRes := q.1.mark (x.owner * 2 ^ 36 + page) k.walkRes }
      else
        ((w.core x.core).slotsOf fun g => decide (g.owner = x.owner)).foldl (fun w slot =>
          match w.grp x.core slot with
          | some g =>
            match g.wait with
            | .walk o p =>
              let w := w.setGrp x.core slot { g with walked := q.1.mark page g.walked }
              if o = x.owner ∧ p = page then w.return_ x.core slot (fun g => g) else w
            | _ => w
          | none => w) w

/-! ## The checks of R209 -/

/-- The result of the checks: a stop, or each lane's physical address and key entry. -/
inductive Resolved where
  | stop (r : Res)
  | ok (w : Work) (l : List (Nat × Nat × Nat))

/-- ELANES of a list of lanes; a scalar access names none (R325). -/
def lanesMask (scalar : Bool) (l : List Nat) : Word :=
  if scalar then 0 else maskOf fun i => l.contains i

/-- A fault named by its failing lanes, lowest first. -/
def laneFault (scalar : Bool) (cause : Nat) (bad : List (Nat × Nat)) : Res :=
  .trap cause (natWord ((bad.head?.map Prod.snd).getD 0)) (lanesMask scalar (bad.map Prod.fst))

/-- R209, R402, R408: the place admits the access. `window` admits the register window, through a leaf
with SUP = 1 (R403). -/
def Work.placeOk (w : Work) (g : Group) (e : TlbEnt) (pa z : Nat) (near far window : Bool) : Bool :=
  match w.place pa with
  | .near _ _ _ => true
  | .far _ _ => far && !near
  | .host off => far && !near && w.hostMay g off z
  | .fabric _ _ => far && !near
  | .window _ => window && e.sup
  | .nowhere => false

/-- Translate every lane. -/
def Work.translateAll (w : Work) (c : Nat) (g : Group) (lanes : List (Nat × Nat)) :
    Work × List (Nat × Nat × Trans) :=
  lanes.foldl (fun (q : Work × List (Nat × Nat × Trans)) l =>
    let t := q.1.translate c g.owner l.2 g.walked
    (t.2, q.2 ++ [(l.1, l.2, t.1)])) (w, [])

/-- R336: a replayable page fault: the group parks and the supervisor is told. -/
def pageFaultRes (w : Work) (c slot : Nat) (g : Group) (va : Nat) (write : Bool) (lanes : Word) :
    Res :=
  .hold (w.supEvent c 2 slot 0 0 (natWord (va + if write then 2 ^ 63 else 0))) g
    (some (.fault va write lanes))

/-- R209: alignment, mapping, permission, in that order, over all lanes. -/
def Work.resolve (w : Work) (c slot : Nat) (g : Group) (acc : Acc) (z : Nat) (scalar : Bool)
    (placeOk : TlbEnt → Nat → Bool) (lanes : List (Nat × Nat)) : Resolved :=
  match lanes.filter fun l => decide (l.2 % z ≠ 0) with
  | b :: bs => .stop (laneFault scalar 0x07 (b :: bs))
  | [] =>
    let r := w.translateAll c g lanes
    let w := r.1
    let miss := r.2.filter fun l => decide (l.2.2 = .miss)
    let flt := r.2.filter fun l => decide (l.2.2 = .pageFault)
    match miss with
    | m :: _ =>
      let w := miss.foldl (fun w l => w.requestWalk c g.owner l.2.1) w
      .stop (.hold w g (some (.walk g.owner (m.2.1 / 65536))))
    | [] =>
      match flt with
      | f :: _ =>
        .stop (pageFaultRes w c slot { g with walked := [] } f.2.1
          (decide (acc = .store) || decide (acc = .atomic)) (lanesMask scalar (flt.map (·.1))))
      | [] =>
        let phys := fun (l : Nat × Nat × Trans) =>
          match l.2.2 with
          | .page e =>
            some (l.1, e.phys l.2.1, e.key, w.permits g e acc && placeOk e (e.phys l.2.1))
          | _ => none
        let bad := r.2.filter fun l =>
          match phys l with
          | some p => !p.2.2.2
          | none => true
        match bad with
        | b :: bs => .stop (laneFault scalar 0x08 ((b :: bs).map fun l => (l.1, l.2.1)))
        | [] => .ok w ((r.2.filterMap phys).map fun p => (p.1, p.2.1, p.2.2.1))

/-! ## Starting loads and stores -/

/-- The distinct lines of a list of lane addresses, ascending in the lowest lane (R211). -/
def linesOf (l : List (Nat × Nat × Nat)) : List Nat := (l.map fun x => x.2.1 / 128).eraseDups

/-- The key entry of a line. -/
def lineKey (l : List (Nat × Nat × Nat)) (line : Nat) : Nat :=
  ((l.find? fun x => decide (x.2.1 / 128 = line)).map (·.2.2)).getD 0

/-- A request of a group. -/
def mkReq (c slot : Nat) (g : Group) (line key op : Nat) (ef ms counted : Bool) (k : ReqKind) :
    Req :=
  { core := c, slot, launch := g.launch, lin := g.lin, gidx := g.keyIdx slot, line, ef, ms
    eng := decide (g.kind = .run), counted, key, pri := g.prio, op, kind := k }

/-- A new operation number of a core. -/
def Work.newOp (w : Work) (c : Nat) : Nat × Work :=
  let k := w.core c
  (k.opSeq, w.setCore c { k with opSeq := k.opSeq + 1 })

/-- R186: the group has a load of this line still to return. -/
def Core.loadingLine (k : Core) (slot line : Nat) : Bool :=
  k.fills.any fun f =>
    decide (f.2.req.line = line) && decide (f.2.req.slot = slot) && f.2.load.isSome

/-- The values of the lanes of a line that its data gives. -/
def lineValues (data : BitVec 1024) (line : Nat) (l : List (Nat × Nat)) : Tab (BitVec 128) :=
  (l.filter fun x => decide (x.2 / 128 = line)).map fun x => (x.1, data.extractLsb' (8 * (x.2 % 128)) 128)

/-- How a load uses the caches. -/
structure LoadHint where
  ro : Bool := false
  ef : Bool := false
  ms : Bool := false
  counted : Bool := false

/-- One line of a load: a hit in L1, with whether the line is poisoned (R209), or a request (R184,
R210, R211, R276). A .MS load may return a later value than a copy in L1 or a fill in flight: the
copy goes, and the fill is not installed, so that later loads return nothing older (R186;
log 17). -/
def Work.loadLine (w : Work) (c slot : Nat) (g : Group) (h : LoadHint) (ld line key size : Nat)
    (lanes : List (Nat × Nat)) : Work × Option (Tab (BitVec 128) × Bool) :=
  let w :=
    if h.ms then
      w.modCore c fun k => k.l1Invalidate (fun n _ => n = line) fun f => f.req.line = line
    else w
  let k := w.core c
  let eng := decide (g.kind = .run)
  let hit := if eng || h.ms || k.loadingLine slot line then none else k.l1Way line
  match hit with
  | some n =>
    let k' := if h.ef then k else k.l1Touch n
    let lost := (k.upsetRow 2 [n]).isSome
    let w := w.setCore c k'
    (if lost then w.logError 2 true c n 0 else w,
      (tfind n k.l1).map fun x => (lineValues x.data line lanes, x.poisoned || lost))
  | none =>
    let o := w.newOp c
    let install := !(eng || h.ef || h.ms || k.marked line)
    let want := (lanes.filter fun x => decide (x.2 / 128 = line)).flatMap fun x => upto size x.2
    let r := mkReq c slot g line key o.1 h.ef h.ms h.counted (.fill install h.ro want)
    let f : Fill := { req := r, load := some ld, install, overlay := [], data := none, bad := false }
    ((o.2.modCore c fun k => { k with fills := tins o.1 f k.fills }).request r, none)

/-- What a load writes when it lands. -/
structure LoadDest where
  kind : RegKind
  reg : Nat
  size : Nat
  signed : Bool := false

/-- Start a load of lanes at physical addresses: its operation, its requests. -/
def Work.startLoad (w : Work) (c slot : Nat) (g : Group) (h : LoadHint) (d : LoadDest)
    (bank : Bool) (lanes : List (Nat × Nat × Nat)) : Nat × Work :=
  let o := w.newOp c
  let at_ := lanes.map fun l => (l.1, l.2.1)
  let ls := linesOf lanes
  let q := ls.foldl (fun (q : Work × Tab (BitVec 128) × Nat × Word) line =>
    let r := q.1.loadLine c slot g h o.1 line (lineKey lanes line) d.size at_
    match r.2 with
    | some v =>
      (r.1, v.1.foldl (fun t x => tins x.1 x.2 t) q.2.1, q.2.2.1,
        if v.2 then q.2.2.2 ||| maskOf fun i => v.1.any (·.1 = i) else q.2.2.2)
    | none => (r.1, q.2.1, q.2.2.1 + 1, q.2.2.2)) (o.2, [], 0, 0)
  let ld : Load :=
    { slot, kind := d.kind, reg := d.reg, bank, lanes := maskOf fun l => lanes.any (·.1 = l)
      size := d.size, signed := d.signed, atomic := false, addr := at_, got := q.2.1
      bad := q.2.2.2, left := q.2.2.1, missed := decide (q.2.2.1 ≠ 0) }
  (o.1, (q.1.modCore c fun k => { k with loads := tins o.1 ld k.loads }).debits c ls.length 150)

/-- R184, R190: register a store, reduction or ordered update of `n` requests to some sectors. -/
def Work.startStore (w : Work) (c slot : Nat) (g : Group) (n : Nat) (secs : List Nat) (ord : Nat := 0) :
    Nat × Work :=
  let k := w.core c
  let op := k.opSeq
  let so : StoreOp :=
    { slot, launch := g.launch, lin := g.lin, gidx := g.gidx, left := n, secs, ord }
  (op, w.setCore c
    { k with opSeq := op + 1, stores := tins op so k.stores })

/-- Accept a store and send its requests, one per line. -/
def Work.storeLines (w : Work) (c slot : Nat) (g : Group) (ef ms : Bool)
    (lanes : List (Nat × Nat × Nat)) (cells : List Host.Cell) : Work :=
  let ls := linesOf lanes
  let o := w.startStore c slot g ls.length (if g.kind = .run then [] else sectorsOf cells)
  let w := if g.kind = .run then o.2 else o.2.acceptStore c cells
  (ls.foldl (fun w line =>
    w.request (mkReq c slot g line (lineKey lanes line) o.1 ef ms false
      (.store (cells.filter fun x => decide (x.1 / 128 = line))))) w).debits c ls.length 150

/-! ## SLD and SST (R125, R126) -/

/-- R125: the address of a scalar access. -/
def scalarAddr (g : Group) (a z : Nat) (imm : BitVec 8) : Nat :=
  ((g.s a).truncate 52 + imm.signExtend 52 * BitVec.ofNat 52 (2 ^ z) : BitVec 52).toNat

def execSld (g : BitVec 2) (z : BitVec 2) (d a : BitVec 6) (i : BitVec 8) (s : State) :
    Host.Outcome State Fault Refusal :=
  issue (wordForm (wSld g z d a i) g none 0)
    (fun _ _ => { reads := [useS a.toNat], writes := [useS d.toNat] })
    (fun w c slot gr =>
      let n := 2 ^ z.toNat
      let va := scalarAddr gr a.toNat z.toNat i
      let sup := decide (gr.kind = .supervisor) && decide (n = 8)
      if 63 ≤ gr.lc then .hold w gr none
      else
        match w.resolve c slot gr .load n true (fun e pa => w.placeOk gr e pa n false true sup)
            [(0, va)] with
        | .stop r => r
        | .ok w l =>
          let bank := gr.banked .scalar d.toNat
          let dst : LoadDest := { kind := .scalar, reg := d.toNat, size := n }
          let q :=
            match l with
            | (_, pa, _) :: _ =>
              match w.place pa with
              | .window off =>
                let o := w.newOp c
                let ld : Load :=
                  { slot, kind := .scalar, reg := d.toNat, bank, lanes := 1, size := 8
                    signed := false, atomic := false, addr := [(0, pa)]
                    got := [(0, (w.regRead .supervisor off).zeroExtend 128)], bad := 0, left := 0
                    missed := false }
                (o.1, o.2.modCore c fun k => { k with loads := tins o.1 ld k.loads })
              | _ => w.startLoad c slot gr {} dst bank l
            | [] => w.startLoad c slot gr {} dst bank l
          .done q.2 ({ gr with lc := gr.lc + 1 }.await .scalar d.toNat allLanes q.1)) s

def execSst (g : BitVec 2) (z : BitVec 2) (d a : BitVec 6) (i : BitVec 8) (s : State) :
    Host.Outcome State Fault Refusal :=
  issue (wordForm (wSst g z d a i) g none 0)
    (fun _ _ => { reads := [useS a.toNat, useS d.toNat] })
    (fun w c slot gr =>
      let n := 2 ^ z.toNat
      let va := scalarAddr gr a.toNat z.toNat i
      let sup := decide (gr.kind = .supervisor) && decide (n = 8)
      if 63 ≤ gr.sc then .hold w gr none
      else
        match w.resolve c slot gr .store n true (fun e pa => w.placeOk gr e pa n false true sup)
            [(0, va)] with
        | .stop r => r
        | .ok w l =>
          let v := gr.s d.toNat
          let w :=
            match l with
            | (_, pa, _) :: _ =>
              match w.place pa with
              | .window off =>
                let o := w.startStore c slot gr 1 []
                (o.2.regWrite .supervisor off v allLanes).modCore c fun k =>
                  { k with inbox := { k.inbox with acks := k.inbox.acks ++ [o.1] } }
              | _ => w.storeLines c slot gr false false l (cellsAt pa n v.toNat)
            | [] => w
          .done w { gr with sc := gr.sc + 1 }) s

/-! ## VLD, VST, PREFETCH (R207 to R213) -/

/-- R207: bytes of a width code. -/
def widthBytes (w : Nat) : Nat :=
  match w with
  | 0 => 1
  | 1 => 1
  | 2 => 2
  | 3 => 2
  | 4 => 4
  | 5 => 8
  | _ => 16

/-- R207: registers of a width code: one, a pair, a quad. -/
def widthRegs (w : Nat) : Nat := if w = 5 then 2 else if w = 6 then 4 else 1

/-- Reason 5 of a width's register operand. -/
def widthOk (g : Group) (w r : Nat) : Bool :=
  if w = 5 then g.hasPair r else if w = 6 then g.hasQuad r else g.hasV r

/-- The vector registers of a width's operand. -/
def widthUses (g : Group) (w r : Nat) : List Use := (upto (widthRegs w) r).map fun x => useV g x

/-- R208: the effective address of each active lane. -/
def laneAddrs (g : Group) (b o : Nat) : List (Nat × Nat) :=
  (lanesOf g.exec).map fun l => (l, ((g.s b).toNat % 2 ^ 52 + (g.v o l).toNat) % 2 ^ 52)

/-- Mark the registers of a load pending. -/
def Group.awaitRegs (g : Group) (r n : Nat) (lanes : Word) (op : Nat) : Group :=
  (upto n r).foldl (fun g x => g.await .vector x lanes op) g

/-- The low bytes of a lane's value as a store of a width takes them. -/
def laneData (g : Group) (w r l : Nat) : Nat :=
  (upto (widthRegs w)).foldl (fun n i => n + (g.v (r + i) l).toNat * 2 ^ (32 * i)) 0

/-- R210: the hint of a VLD. -/
def vldHint (h : Nat) (g : Group) : LoadHint :=
  { ro := decide (h = 1), ef := decide (h = 2), ms := decide (h = 3)
    counted := decide (h ≠ 3) && decide (g.kind ≠ .supervisor) }

def execVld (g : BitVec 2) (w : BitVec 3) (d b o : BitVec 6) (h : BitVec 2) (s : State) :
    Host.Outcome State Fault Refusal :=
  let wc := w.toNat
  issue (wordForm (wVld g w d b o h) g none 0)
    (fun _ gr =>
      { regs := widthOk gr wc d.toNat && gr.hasV o.toNat
        reads := [useS b.toNat, useV gr o.toNat], writes := widthUses gr wc d.toNat })
    (fun k c slot gr =>
      let z := widthBytes wc
      if gr.exec = 0 then .done k gr
      else if 63 ≤ gr.lc then .hold k gr none
      else
        match k.resolve c slot gr .load z false
            (fun e pa => k.placeOk gr e pa z (h = 3#2) true false) (laneAddrs gr b.toNat o.toNat) with
        | .stop r => r
        | .ok k l =>
          let q := k.startLoad c slot gr (vldHint h.toNat gr)
            { kind := .vector, reg := d.toNat, size := z, signed := wc = 1 ∨ wc = 3 } false l
          .done q.2 ({ gr with lc := gr.lc + 1 }.awaitRegs d.toNat (widthRegs wc) gr.exec q.1)) s

def execVst (g : BitVec 2) (w : BitVec 3) (d b o : BitVec 6) (h : BitVec 2) (s : State) :
    Host.Outcome State Fault Refusal :=
  let wc := w.toNat
  issue (wordForm (wVst g w d b o h) g none 0)
    (fun _ gr =>
      { codes := storeWidthDefined w && h ≠ 1#2
        regs := widthOk gr wc d.toNat && gr.hasV o.toNat
        reads := [useS b.toNat, useV gr o.toNat] ++ widthUses gr wc d.toNat })
    (fun k c slot gr =>
      let z := widthBytes wc
      if gr.exec = 0 then .done k gr
      else if 63 ≤ gr.sc then .hold k gr none
      else
        match k.resolve c slot gr .store z false
            (fun e pa => k.placeOk gr e pa z (h = 3#2) true false) (laneAddrs gr b.toNat o.toNat) with
        | .stop r => r
        | .ok k l =>
          let cells := l.flatMap fun x => cellsAt x.2.1 z (laneData gr wc d.toNat x.1)
          .done (k.storeLines c slot gr (h = 2#2) (h = 3#2) l cells)
            { gr with sc := gr.sc + 1 }) s

/-- R213: the lines a PREFETCH asks for: lanes that translate and may read. -/
def Work.prefetchLanes (w : Work) (c : Nat) (g : Group) (lanes : List (Nat × Nat)) :
    Work × List (Nat × Nat × Nat) :=
  let r := w.translateAll c { g with walked := [] } lanes
  (r.1, r.2.filterMap fun l =>
    match l.2.2 with
    | .page e =>
      if r.1.permits g e .load && r.1.placeOk g e (e.phys l.2.1) 1 false true false
      then some (l.1, e.phys l.2.1, e.key) else none
    | _ => none)

/-- R213. A PREFETCH.L1 with the .EF hint that hits a line leaves its order unchanged: of R424's two
bullets the one on .EF hits is taken (DESIGN CHOICE, log 17). -/
def execPrefetch (g : BitVec 2) (l : BitVec 1) (b o : BitVec 6) (h : BitVec 2) (s : State) :
    Host.Outcome State Fault Refusal :=
  issue (wordForm (wPrefetch g l b o h) g none 0)
    (fun _ gr =>
      { codes := prefetchDefined l h, regs := gr.hasV o.toNat
        reads := [useS b.toNat, useV gr o.toNat] })
    (fun k c slot gr =>
      let q := k.prefetchLanes c gr (laneAddrs gr b.toNat o.toNat)
      let k := (linesOf q.2).foldl (fun (k : Work) line =>
        let key := lineKey q.2 line
        if l = 1#1 ∧ gr.kind ≠ .run then
          match (k.core c).l1Way line with
          | some n => if h = 2#2 then k else k.modCore c (·.l1Touch n)
          | none =>
            let op := k.newOp c
            let r := mkReq c slot gr line key op.1 (h = 2#2) false false (.fill true (h = 1#2) [])
            let f : Fill :=
              { req := r, load := none, install := !(k.core c).marked line, overlay := [], data := none, bad := false }
            (op.2.modCore c fun x => { x with fills := tins op.1 f x.fills }).request r
        else if (k.place (128 * line)).isNear then
          k.request (mkReq c slot gr line key 0 (h = 2#2) false false .prefetchL2)
        else k) q.1
      .done (k.debits c (linesOf q.2).length 150) gr) s

/-! ## Landing -/

/-- R184, R209: the data of a fill has come: its load takes it, and it is installed unless an event
meanwhile forbade it. Data that an engine asked for is the engine's to take. Older fills of the line in flight are not installed, and a copy that an
older fill has brought since the request goes (R186). -/
def execFillReturn (core id : Nat) (s : State) : Host.Outcome State Fault Refusal :=
  event s fun w =>
    let k := w.core core
    match tfind id k.fills with
    | none => w
    | some f =>
      match if f.req.eng && f.load.isNone then none else f.data with
      | none => w
      | some data =>
        let line := f.req.line
        let k := { k with fills := tdel id k.fills }
        let k :=
          { k with
            fills := tmap (fun i x =>
              if x.req.line ≠ line then x
              else if i < id then { x with install := false, drop := x.drop && !f.install }
              else { x with drop := x.drop || f.install }) k.fills }
        let k :=
          match f.load with
          | none => k
          | some ld =>
            { k with
              loads := tmod ld (fun l =>
                let mine := l.addr.filter fun a => decide (a.2 / 128 = line)
                { l with
                  got := (lineValues data line mine).foldl (fun t v => tins v.1 v.2 t) l.got
                  bad := if f.bad then l.bad ||| maskOf fun i => mine.any (·.1 = i) else l.bad
                  left := l.left - 1, at_ := k.cycle }) k.loads }
        let ro :=
          match f.req.kind with
          | .fill _ ro _ => ro
          | _ => false
        let k :=
          if f.install then
            k.l1Install
              { line, data := overlayLine line data f.overlay, ro, roLaunch := f.req.launch
                roLin := f.req.lin, poisoned := f.bad }
          -- a copy that an older fill brought is older than what has landed now
          else if f.drop then k.l1Invalidate (fun n _ => n = line) fun _ => false
          else k
        w.setCore core k

/-- R207: a landed lane value extended to 128 bits. -/
def Load.extend (l : Load) (v : BitVec 128) : BitVec 128 :=
  let n := 8 * l.size
  let x := v.toNat % 2 ^ n
  if l.signed && decide (2 ^ (n - 1) ≤ x) then BitVec.ofNat 128 (2 ^ 128 - 2 ^ n + x)
  else BitVec.ofNat 128 x

/-- The registers of a load: 32 bits each. -/
def Load.regs (l : Load) : Nat := if l.size = 8 then 2 else if l.size = 16 then 4 else 1

/-- Write one lane of a landed load: its value, or poison (R209, R410). -/
def Load.putLane (l : Load) (g : Group) (lane : Nat) : Group :=
  let at_ := tget 0 lane l.addr
  let v := l.extend (tget 0 lane l.got)
  if l.kind = .scalar then
    if bit l.bad lane then { g with poison := tins (scalKey l.bank l.reg) at_ g.poison }
    else g.setS l.bank l.reg allLanes (v.truncate 64)
  else
    (upto l.regs).foldl (fun g i =>
      if bit l.bad lane then { g with poison := tins (64 * (l.reg + i) + lane) at_ g.poison }
      else g.setV1 (l.reg + i) lane (v.extractLsb' (32 * i) 32)) g

/-- R105, R106: a load or returning atomic writes its registers; a wait that it ends goes on (R18,
R134). As a turn stands for the issue of two core cycles before, so does a landing (log 10): data that
has come lands two core cycles later. -/
def execLoadLand (core id : Nat) (s : State) : Host.Outcome State Fault Refusal :=
  event s fun w =>
    let k := w.core core
    match tfind id k.loads with
    | none => w
    | some l =>
      if l.left ≠ 0 ∨ k.cycle < l.at_ + 2 ∧ l.missed then w
      else
        let k := { k with loads := tdel id k.loads }
        -- R203: an atomic that was published before it was performed
        let w := w.setCore core
          (if l.early then k.sigWrite (l.addr.map fun a => a.2 / 32).eraseDups else k)
        match w.grp core l.slot with
        | none => w
        | some g =>
          let g := (lanesOf l.lanes).foldl l.putLane (g.unpend id)
          (w.setGrp core l.slot { g with lc := g.lc - 1 }).settleWait core l.slot

/-- R188, R203: a store has been performed, or an ordered update is held at its unit. -/
def Core.storeDone (k : Core) (id : Nat) (o : StoreOp) : Core :=
  let k := { k with stores := tdel id k.stores }
  if o.ord ≠ 0 ∧ o.secs ≠ [] then { k with ordHeld := tins id o k.ordHeld }
  else if o.early then k.sigWrite o.secs
  else k

/-- R105: an acknowledgment of a store, reduction or ordered update reaches the core; SC falls with
the last. -/
def execStoreAck (core id : Nat) (s : State) : Host.Outcome State Fault Refusal :=
  event s fun w =>
    let k := w.core core
    if !k.inbox.acks.contains id then w
    else
      let k := { k with inbox := { k.inbox with acks := k.inbox.acks.erase id } }
      match tfind id k.stores with
      | none => w.setCore core k
      | some o =>
        if 1 < o.left then
          w.setCore core { k with stores := tins id { o with left := o.left - 1 } k.stores }
        else
          let w := w.setCore core (k.storeDone id o)
          match w.grp core o.slot with
          | some g =>
            if g.born ≤ id then
              (w.setGrp core o.slot { g with sc := g.sc - 1 }).settleWait core o.slot
            else w
          | none => w

/-! ## Typed buffers (R56 to R61, R214 to R217) -/

/-- R56: units of a whole buffer. -/
def bufSize (buf : Nat) : Nat :=
  match buf with
  | 0 => 0x80000
  | 1 => 0x40000
  | 2 => 0x10000
  | _ => 0x40000

/-- R57: units of a team's allotment. -/
def allotSize (r : BitVec 1024) (buf : Nat) : Nat :=
  match buf with
  | 0 => 1024 * lrWbq r
  | 1 => 1024 * lrAbq r
  | 2 => 64 * lrCbq r
  | _ => 1024 * lrSbq r

/-- R20, R57: where an allotment lies for a core: the core that holds it, and its base. -/
def Team.allot (t : Team) (c buf : Nat) : Nat × Nat :=
  match buf with
  | 0 => (c, tget 0 c t.wb)
  | 1 => (c, tget 0 c t.ab)
  | 2 => (c, tget 0 c t.cb)
  | _ => (t.home, t.sb)

/-- The buffer space a group addresses: core, base, size; none where it has no allotment. -/
def Work.space (w : Work) (c : Nat) (g : Group) (buf : Nat) : Option (Nat × Nat × Nat) :=
  match g.kind with
  | .supervisor => some (c, 0, bufSize buf)
  | .user | .handlerTeam =>
    (w.team g.launch g.lin).map fun t =>
      let a := t.allot c buf
      (a.1, a.2, allotSize (w.recOf g) buf)
  | _ => none

/-- Units a TLD or TST of a width code accesses. -/
def bufUnits (buf w : Nat) : Nat := if buf = 2 then 1 else widthBytes w

/-- R215: the offset of each active lane. -/
def laneOffs (g : Group) (b o : Nat) : List (Nat × Nat) :=
  (lanesOf g.exec).map fun l => (l, (g.s b).toNat % 2 ^ 32 + (g.v o l).toNat)

/-- R217: registers of a CBUF code. -/
def cbufRegs (w : Nat) : Nat := if w = 2 ∨ w = 3 ∨ w = 4 then 2 else 1

/-- Registers of a typed-buffer access. -/
def bufRegs (buf w : Nat) : Nat := if buf = 2 then cbufRegs w else widthRegs w

def bufRegsOk (g : Group) (buf w r : Nat) : Bool :=
  if buf = 2 then (if cbufRegs w = 2 then g.hasPair r else g.hasV r) else widthOk g w r

/-- R216: TLD and TST: check every lane, then start the access. -/
def bufAccess (x : BitVec 32) (g : BitVec 2) (store : Bool) (w : Nat) (d b o buf : Nat)
    (codes : Bool) (s : State) : Host.Outcome State Fault Refusal :=
  let n := bufRegs buf w
  issue (wordForm x g none 100)
    (fun _ gr =>
      let regs := (upto n d).map fun r => useV gr r
      { codes, regs := bufRegsOk gr buf w d && gr.hasV o
        reads := [useS b, useV gr o] ++ (if store then regs else [])
        writes := if store then [] else regs })
    (fun k c slot gr =>
      if gr.exec = 0 then .done k gr
      else if 63 ≤ gr.tc then .hold k gr none
      else
        let lanes := laneOffs gr b o
        let u := bufUnits buf w
        match k.space c gr buf with
        | none => laneFault true 0x09 lanes
        | some (hc, base, size) =>
          match lanes.filter fun l =>
              decide (size < l.2 + u) || (decide (buf ≠ 2) && decide (l.2 % u ≠ 0)) with
          | y :: ys => laneFault true 0x09 (y :: ys)
          | [] =>
            let a := k.newOp c
            let t : TAccess :=
              { slot, store, buf, code := w, core := hc
                addr := lanes.map fun l => (l.1, base + l.2), reg := d, bank := false
                lanes := gr.exec
                vals := if store then (lanesOf gr.exec).map fun l =>
                  (l, natWord (laneData gr (if n = 1 then 4 else 5) d l % 2 ^ 64)) else []
                hi := if store && n = 4 then (lanesOf gr.exec).map fun l =>
                  (l, natWord (laneData gr 5 (d + 2) l)) else [] }
            let rows := if store then [] else lanes.flatMap fun l => upto u (base + l.2)
            match (k.core hc).upsetRow (4 + buf) rows with
            | some row => .trapWith (k.logError (4 + buf) true hc row 0) gr 0x0B (natWord row) 0
            | none =>
              let gr := { gr with tc := gr.tc + 1 }
              .done (a.2.modCore c fun z => { z with taccs := z.taccs ++ [(a.1, t)] })
                (if store then gr else gr.awaitRegs d n gr.exec a.1)) s

def execTld (g : BitVec 2) (w : BitVec 3) (d b : BitVec 6) (o : BitVec 5) (h : BitVec 2)
    (s : State) : Host.Outcome State Fault Refusal :=
  bufAccess (wTld g w d b o h) g false w.toNat d.toNat b.toNat o.toNat h.toNat (tldDefined w h) s

def execTst (g : BitVec 2) (w : BitVec 3) (d b : BitVec 6) (o : BitVec 5) (h : BitVec 2)
    (s : State) : Host.Outcome State Fault Refusal :=
  bufAccess (wTst g w d b o h) g true w.toNat d.toNat b.toNat o.toNat h.toNat (tstDefined w h) s

/-- Read a byte of a byte-addressed buffer of a core. -/
def Core.bufByte (k : Core) (buf a : Nat) : Byte :=
  match buf with
  | 0 => tget 0 a k.wbuf
  | 1 => tget 0 a k.abuf
  | _ => tget 0 a k.sbuf

def Core.setBufByte (k : Core) (buf a : Nat) (b : Byte) : Core :=
  let k := k.mend (4 + buf) a
  match buf with
  | 0 => { k with wbuf := tput 0 a b k.wbuf }
  | 1 => { k with abuf := tput 0 a b k.abuf }
  | _ => { k with sbuf := tput 0 a b k.sbuf }

def Core.cell (k : Core) (a : Nat) : Cell40 := tget 0 a k.cbuf
def Core.setCell (k : Core) (a : Nat) (x : Cell40) : Core :=
  { k.mend 6 a with cbuf := tput 0 a x k.cbuf }

/-- `n` bytes of a buffer, little-endian. -/
def Core.bufNum (k : Core) (buf a n : Nat) : Nat := leNat ((upto n a).map (k.bufByte buf))

/-- Write the low `n` bytes of a number, but for the bytes that a test excludes. -/
def Core.setBufNum (k : Core) (buf a n v : Nat) (skip : Nat → Bool) : Core :=
  ((leBytes n v).mapIdx fun i b => (a + i, b)).foldl (fun k c =>
    if skip c.1 then k else k.setBufByte buf c.1 c.2) k

/-- R59: VAL as INT36. -/
def cellInt (x : Cell40) : Int := (x.truncate 36 : BitVec 36).toInt

/-- R217: what a TLD delivers from a cell. -/
def cellRead (code : Nat) (x : Cell40) : Word :=
  match code with
  | 0 => natWord (x.toNat % 2 ^ 32)
  | 1 =>
    let v := cellInt x
    let v := if v < -(2 ^ 31) then -(2 ^ 31) else if 2 ^ 31 ≤ v then 2 ^ 31 - 1 else v
    natWord (BitVec.ofInt 32 v).toNat
  | 2 => BitVec.ofInt 64 (cellInt x)
  | 3 => x.zeroExtend 64
  | _ => natWord (fromInt F64 0 (cellInt x)).bits

/-- R217: what a TST writes to a cell. -/
def cellWrite (code : Nat) (v : Word) : Cell40 :=
  match code with
  | 0 => (v.truncate 32 : BitVec 32).zeroExtend 40
  | 1 => ((v.truncate 32 : BitVec 32).signExtend 36 : BitVec 36).zeroExtend 40
  | 2 =>
    let x : BitVec 36 := v.truncate 36
    x.zeroExtend 40 ||| if x.signExtend 64 = v then 0#40 else 1#40 <<< 37
  | _ => v.truncate 40

/-- The value a typed load extends, as `Load.extend`. -/
def TAccess.extend (t : TAccess) (v : Nat) : BitVec 128 :=
  ({ slot := 0, kind := .vector, reg := 0, bank := false, lanes := 0, size := widthBytes t.code
     signed := decide (t.code = 1) || decide (t.code = 3), atomic := false, addr := [], got := []
     bad := 0, left := 0, missed := false } : Load).extend (BitVec.ofNat 128 v)

/-- R29: a byte of a core's SBUF lies in the control area of the stage ring of a team there. -/
def Work.ringByte (w : Work) (hc a : Nat) : Bool :=
  w.teams.any fun p =>
    let t := p.2
    t.resident && decide (t.home = hc) && decide (t.sb ≤ a) && decide (a < t.sb + 128) &&
      decide (lrRingn (((w.launch? t.launch).map (·.record)).getD 0) ≠ 0)

/-- R216: perform one lane of a typed store. Bytes of SBUF that a test picks are discarded (R29). -/
def TAccess.storeLane (t : TAccess) (ring : Nat → Bool) (k : Core) (l : Nat) : Core :=
  let a := tget 0 l t.addr
  if t.buf = 2 then k.setCell a (cellWrite t.code (tget 0 l t.vals))
  else
    k.setBufNum t.buf a (widthBytes t.code)
      ((tget 0 l t.vals).toNat + (tget 0 l t.hi).toNat * 2 ^ 64)
      fun x => decide (t.buf = 3) && ring x

/-- R216: the value of one lane of a typed load. -/
def TAccess.loadLane (t : TAccess) (k : Core) (l : Nat) : BitVec 128 :=
  let a := tget 0 l t.addr
  if t.buf = 2 then (cellRead t.code (k.cell a)).zeroExtend 128
  else t.extend (k.bufNum t.buf a (widthBytes t.code))

/-- The bytes or the cell that one lane reads. -/
def TAccess.rows (t : TAccess) (l : Nat) : List Nat := upto (bufUnits t.buf t.code) (tget 0 l t.addr)

/-! ## Count-down objects (R236, R238) -/

/-- REMAIN of the object at an SBUF address. -/
def Core.remain (k : Core) (a : Nat) : Nat := k.bufNum 3 a 8 % 2 ^ 40

/-- R238: the groups of a core's SBUF teams whose YIELDC object shows REMAIN = 0 go on at their
continuation. -/
def Work.yieldTest (w : Work) (hc : Nat) : Work :=
  [hc, Config.partner hc].foldl (fun w c =>
    ((w.core c).slotsOf fun g => match g.wait with
      | .yieldc _ _ => true
      | _ => false).foldl (fun w slot =>
        match w.grp c slot with
        | some g =>
          match g.wait, w.space c g 3 with
          | .yieldc off target, some (h, base, _) =>
            if h = hc ∧ (w.core hc).remain (base + off) = 0 then
              w.completeWait c slot (fun _ => target) fun g => g
            else w
          | _, _ => w
        | none => w) w) w

/-- R216: a typed-buffer access is performed; those of one group keep program order. -/
def execTbufAccessComplete (core id : Nat) (s : State) : Host.Outcome State Fault Refusal :=
  event s fun w =>
    let k := w.core core
    match k.taccs.find? fun x => decide (x.1 = id) with
    | none => w
    | some (_, t) =>
      if k.taccs.any fun x => decide (x.1 < id) && decide (x.2.slot = t.slot) then w
      else
        let w := w.setCore core
          { k with taccs := k.taccs.filter fun x => decide (x.1 ≠ id) }
        let w :=
          if t.store then
            w.modCore t.core fun k => (lanesOf t.lanes).foldl (t.storeLane (w.ringByte t.core)) k
          else w
        let w := if t.store ∧ t.buf = 3 then w.yieldTest t.core else w
        let lost := if t.store then [] else (lanesOf t.lanes).flatMap t.rows
        let w := match (w.core t.core).upsetRow (4 + t.buf) lost with
          | some row => w.logError (4 + t.buf) true t.core row 0
          | none => w
        let w := w.modGrp core t.slot fun g =>
          let g := { g.unpend id with tc := g.tc - 1 }
          if t.store then g
          else
            (lanesOf t.lanes).foldl (fun g l =>
              let v := t.loadLane (w.core t.core) l
              (upto (bufRegs t.buf t.code)).foldl (fun g i =>
                -- R62: a row that has lost its data since the issue poisons the lane
                match (w.core t.core).upsetRow (4 + t.buf) (t.rows l) with
                | some row => { g with poison := tins (64 * (t.reg + i) + l) row g.poison }
                | none => g.setV1 (t.reg + i) l (v.extractLsb' (32 * i) 32)) g) g
        w.settleWait core t.slot

end Sys2Proof.Machine
end

