-- ==== Sys2Proof/Machine/Atomics.lean ====
section
/-!
DEFINITION. Atomics and reductions: ATOM, ATOMD, CAS, RED, REDD (R218 to R225).
-/

namespace Sys2Proof.Machine

/-- R219: the address of each active lane: bits [51:0] of a pair. -/
def pairAddrs (g : Group) (a : Nat) : List (Nat × Nat) :=
  (lanesOf g.exec).map fun l => (l, (g.v64 a l).toNat % 2 ^ 52)

/-- R219: near memory, or the far tier for a form that is not ordered. -/
def Work.atomPlace (w : Work) (ord : Bool) (pa : Nat) : Bool :=
  match w.place pa with
  | .near _ _ _ => true
  | .far _ _ => !ord
  | _ => false

/-- The value of a register operand of a location of `size` bytes. -/
def atomOperand (g : Group) (size r l : Nat) : Word :=
  if size = 8 then g.v64 r l else zext64 (g.v r l)

def atomReg (g : Group) (size r : Nat) : Bool := if size = 8 then g.hasPair r else g.hasV r

def atomUse (g : Group) (size r : Nat) : List Use :=
  if size = 8 then useV64 g r else [useV g r]

/-- Registers of a result. -/
def atomRegs (size : Nat) : Nat := if size = 8 then 2 else 1

/-- R358: the lanes that a packet of four data flits carries, of `bytes` operand bytes each. -/
def packetLanes (bytes : Nat) : Nat := 256 / bytes

/-- A list in runs of `n`. -/
def runsOf {α : Type} (n : Nat) (l : List α) : List (List α) :=
  (upto ((l.length + n - 1) / n)).map fun i => (l.drop (n * i)).take n

/-- R211, R358: the lanes of an atomic or reduction by packet: lines in the order of R211, the lanes
of a line in ascending runs of `n`. -/
def atomPackets (n : Nat) (lanes : List (Nat × Nat × Nat)) :
    List (Nat × List (Nat × Nat × Nat) × Bool) :=
  (linesOf lanes).flatMap fun line =>
    let l := runsOf n (lanes.filter fun l => decide (l.2.1 / 128 = line))
    l.mapIdx fun i r => (line, r, decide (i + 1 < l.length))

/-- The requests of an atomic or reduction. -/
def Work.atomLines (w : Work) (c slot : Nat) (g : Group) (op n : Nat)
    (lanes : List (Nat × Nat × Nat)) (k : List (Nat × Nat × Nat) → ReqKind) : Work :=
  let secs := (lanes.map fun l => l.2.1 / 32).eraseDups
  let w := if g.kind = .run then w else w.acceptAtomic c secs
  ((atomPackets n lanes).foldl (fun w p =>
    w.request { mkReq c slot g p.1 (lineKey lanes p.1) op false false false (k p.2.1) with
      more := p.2.2 }) w).debits c (linesOf lanes).length 150

/-- Lanes in the form a home takes them: lane, address, operand, comparand. -/
def lineOps (g : Group) (size b d : Nat) (lanes : List (Nat × Nat × Nat)) :
    List (Nat × Nat × Word × Word) :=
  lanes.map fun l => (l.1, l.2.1, atomOperand g size b l.1, atomOperand g size d l.1)

/-- R218: a returning atomic that is performed at the home (.ANY). -/
def atomAny (w : Work) (c slot : Nat) (g : Group) (op size d b : Nat)
    (lanes : List (Nat × Nat × Nat)) : Res :=
  let o := w.newOp c
  let n := packetLanes (if op = 9 then 2 * size else size)
  let ld : Load :=
    { slot, kind := .vector, reg := d, bank := false, lanes := g.exec, size, signed := false
      atomic := true, addr := lanes.map fun l => (l.1, l.2.1), got := [], bad := 0
      left := (atomPackets n lanes).length, missed := true }
  let w := o.2.modCore c fun k => { k with loads := tins o.1 ld k.loads }
  .done (w.atomLines c slot g o.1 n lanes fun l => .atomic op size true (lineOps g size b d l))
    ({ g with lc := g.lc + 1 }.awaitRegs d (atomRegs size) g.exec o.1)

/-- R221, R223, R225: the ordered updates of some lanes. -/
def ordOps (g : Group) (size b : Nat) (lanes : List (Nat × Nat × Nat)) : List OrdOp :=
  lanes.map fun l =>
    { addr := l.2.1, lane := l.1, seq := g.ordSeq, operand := cutTo size (atomOperand g size b l.1) }

/-- The sectors of some lanes, which the filters of R188 take but for a sweep routine's (R276). -/
def atomSecs (g : Group) (lanes : List (Nat × Nat × Nat)) : List Nat :=
  if g.kind = .run then [] else (lanes.map fun l => l.2.1 / 32).eraseDups

/-- R101, R224, R225: an ordered atomic: earlier writes in flight to its destination are cancelled,
and it is deferred; SC counts it. -/
def atomOrd (w : Work) (c slot : Nat) (g : Group) (op size d b : Nat)
    (lanes : List (Nat × Nat × Nat)) : Res :=
  let n := packetLanes size
  let o := w.startStore c slot g (atomPackets n lanes).length (atomSecs g lanes) 2
  let g := (upto (atomRegs size) d).foldl (fun g r => g.cancel .vector r false g.exec) g
  .done (o.2.atomLines c slot g o.1 n lanes fun l => .ordered true op size (ordOps g size b l))
    { g with
      sc := g.sc + 1, ordSeq := g.ordSeq + 1
      deferred := g.deferred ++
        [{ reg := d, wide := decide (size = 8), lanes := g.exec, seq := g.ordSeq, refused := false
           idx := g.keyIdx slot }] }

/-- R222, R276: the groups that may issue an ordered form. -/
def ordCtx (g : Group) : Bool :=
  match g.kind with
  | .user | .handlerTeam => true
  | _ => false

/-- ATOM, ATOMD and CAS. `ord` is the O bit; `cas` makes vd a source. -/
def atomic (x : BitVec 32) (g : BitVec 2) (op size : Nat) (ord cas : Bool) (d a b : Nat)
    (s : State) : Host.Outcome State Fault Refusal :=
  issue (wordForm x g none 0)
    (fun w gr =>
      { regs := atomReg gr size d && gr.hasPair a && atomReg gr size b
        ctx := !ord || (ordCtx gr && lrGridb (w.recOf gr))
        reads := useV64 gr a ++ atomUse gr size b ++ if cas then atomUse gr size d else []
        writes := atomUse gr size d })
    (fun w c slot gr =>
      if gr.exec = 0 then .done w gr
      else if ord && decide (16 ≤ gr.deferred.length) then .trap 0x0C (natWord (d % 64)) 0
      else if (if ord then decide (63 ≤ gr.sc) else decide (63 ≤ gr.lc)) then .hold w gr none
      else
        match w.resolve c slot gr .atomic size false (fun _ => w.atomPlace ord) (pairAddrs gr a) with
        | .stop r => r
        | .ok w l => if ord then atomOrd w c slot gr op size d b l else atomAny w c slot gr op size d b l) s

/-- RED and REDD. `ety` is the element type of a floating form, which `ord` may order. -/
def reduce (x : BitVec 32) (g : BitVec 2) (op size ety : Nat) (ord : Bool) (a b : Nat)
    (s : State) : Host.Outcome State Fault Refusal :=
  issue (wordForm x g none 0)
    (fun _ gr =>
      { regs := gr.hasPair a && atomReg gr size b, ctx := !ord || ordCtx gr
        reads := useV64 gr a ++ atomUse gr size b })
    (fun w c slot gr =>
      if gr.exec = 0 then .done w gr
      else if 63 ≤ gr.sc then .hold w gr none
      else
        match w.resolve c slot gr .atomic size false (fun _ => w.atomPlace ord) (pairAddrs gr a) with
        | .stop r => r
        | .ok w l =>
          let n := packetLanes size
          let o := w.startStore c slot gr (atomPackets n l).length (atomSecs gr l)
            (if ord then 1 else 0)
          .done (o.2.atomLines c slot gr o.1 n l fun l =>
              if ord then .ordered false ety size (ordOps gr size b l)
              else .atomic op size false (lineOps gr size b b l))
            { gr with sc := gr.sc + 1, ordSeq := if ord then gr.ordSeq + 1 else gr.ordSeq }) s

/-! ## ATOM and CAS: 4 bytes -/

def execAtomAdd (g : BitVec 2) (o : BitVec 1) (d a b : BitVec 6) (s : State) :
    Host.Outcome State Fault Refusal :=
  atomic (wAtomAdd g o d a b) g 0 4 (o = 1#1) false d.toNat a.toNat b.toNat s

def execAtomMin (g : BitVec 2) (o : BitVec 1) (d a b : BitVec 6) (s : State) :
    Host.Outcome State Fault Refusal :=
  atomic (wAtomMin g o d a b) g 1 4 (o = 1#1) false d.toNat a.toNat b.toNat s

def execAtomMax (g : BitVec 2) (o : BitVec 1) (d a b : BitVec 6) (s : State) :
    Host.Outcome State Fault Refusal :=
  atomic (wAtomMax g o d a b) g 2 4 (o = 1#1) false d.toNat a.toNat b.toNat s

def execAtomMinu (g : BitVec 2) (o : BitVec 1) (d a b : BitVec 6) (s : State) :
    Host.Outcome State Fault Refusal :=
  atomic (wAtomMinu g o d a b) g 3 4 (o = 1#1) false d.toNat a.toNat b.toNat s

def execAtomMaxu (g : BitVec 2) (o : BitVec 1) (d a b : BitVec 6) (s : State) :
    Host.Outcome State Fault Refusal :=
  atomic (wAtomMaxu g o d a b) g 4 4 (o = 1#1) false d.toNat a.toNat b.toNat s

def execAtomAnd (g : BitVec 2) (o : BitVec 1) (d a b : BitVec 6) (s : State) :
    Host.Outcome State Fault Refusal :=
  atomic (wAtomAnd g o d a b) g 5 4 (o = 1#1) false d.toNat a.toNat b.toNat s

def execAtomOr (g : BitVec 2) (o : BitVec 1) (d a b : BitVec 6) (s : State) :
    Host.Outcome State Fault Refusal :=
  atomic (wAtomOr g o d a b) g 6 4 (o = 1#1) false d.toNat a.toNat b.toNat s

def execAtomXor (g : BitVec 2) (o : BitVec 1) (d a b : BitVec 6) (s : State) :
    Host.Outcome State Fault Refusal :=
  atomic (wAtomXor g o d a b) g 7 4 (o = 1#1) false d.toNat a.toNat b.toNat s

def execAtomXchg (g : BitVec 2) (d a b : BitVec 6) (s : State) : Host.Outcome State Fault Refusal :=
  atomic (wAtomXchg g d a b) g 8 4 false false d.toNat a.toNat b.toNat s

def execCas (g : BitVec 2) (d a b : BitVec 6) (s : State) : Host.Outcome State Fault Refusal :=
  atomic (wCas g d a b) g 9 4 false true d.toNat a.toNat b.toNat s

/-! ## ATOMD and CASD: 8 bytes -/

def execAtomdAdd (g : BitVec 2) (o : BitVec 1) (d a b : BitVec 6) (s : State) :
    Host.Outcome State Fault Refusal :=
  atomic (wAtomdAdd g o d a b) g 0 8 (o = 1#1) false d.toNat a.toNat b.toNat s

def execAtomdMin (g : BitVec 2) (o : BitVec 1) (d a b : BitVec 6) (s : State) :
    Host.Outcome State Fault Refusal :=
  atomic (wAtomdMin g o d a b) g 1 8 (o = 1#1) false d.toNat a.toNat b.toNat s

def execAtomdMax (g : BitVec 2) (o : BitVec 1) (d a b : BitVec 6) (s : State) :
    Host.Outcome State Fault Refusal :=
  atomic (wAtomdMax g o d a b) g 2 8 (o = 1#1) false d.toNat a.toNat b.toNat s

def execAtomdMinu (g : BitVec 2) (o : BitVec 1) (d a b : BitVec 6) (s : State) :
    Host.Outcome State Fault Refusal :=
  atomic (wAtomdMinu g o d a b) g 3 8 (o = 1#1) false d.toNat a.toNat b.toNat s

def execAtomdMaxu (g : BitVec 2) (o : BitVec 1) (d a b : BitVec 6) (s : State) :
    Host.Outcome State Fault Refusal :=
  atomic (wAtomdMaxu g o d a b) g 4 8 (o = 1#1) false d.toNat a.toNat b.toNat s

def execAtomdAnd (g : BitVec 2) (o : BitVec 1) (d a b : BitVec 6) (s : State) :
    Host.Outcome State Fault Refusal :=
  atomic (wAtomdAnd g o d a b) g 5 8 (o = 1#1) false d.toNat a.toNat b.toNat s

def execAtomdOr (g : BitVec 2) (o : BitVec 1) (d a b : BitVec 6) (s : State) :
    Host.Outcome State Fault Refusal :=
  atomic (wAtomdOr g o d a b) g 6 8 (o = 1#1) false d.toNat a.toNat b.toNat s

def execAtomdXor (g : BitVec 2) (o : BitVec 1) (d a b : BitVec 6) (s : State) :
    Host.Outcome State Fault Refusal :=
  atomic (wAtomdXor g o d a b) g 7 8 (o = 1#1) false d.toNat a.toNat b.toNat s

def execAtomdXchg (g : BitVec 2) (d a b : BitVec 6) (s : State) : Host.Outcome State Fault Refusal :=
  atomic (wAtomdXchg g d a b) g 8 8 false false d.toNat a.toNat b.toNat s

def execCasd (g : BitVec 2) (d a b : BitVec 6) (s : State) : Host.Outcome State Fault Refusal :=
  atomic (wCasd g d a b) g 9 8 false true d.toNat a.toNat b.toNat s

/-! ## RED: 4 bytes -/

def execRedAdd (g : BitVec 2) (a b : BitVec 6) (s : State) : Host.Outcome State Fault Refusal :=
  reduce (wRedAdd g a b) g 0 4 0 false a.toNat b.toNat s

def execRedMin (g : BitVec 2) (a b : BitVec 6) (s : State) : Host.Outcome State Fault Refusal :=
  reduce (wRedMin g a b) g 1 4 0 false a.toNat b.toNat s

def execRedMax (g : BitVec 2) (a b : BitVec 6) (s : State) : Host.Outcome State Fault Refusal :=
  reduce (wRedMax g a b) g 2 4 0 false a.toNat b.toNat s

def execRedMinu (g : BitVec 2) (a b : BitVec 6) (s : State) : Host.Outcome State Fault Refusal :=
  reduce (wRedMinu g a b) g 3 4 0 false a.toNat b.toNat s

def execRedMaxu (g : BitVec 2) (a b : BitVec 6) (s : State) : Host.Outcome State Fault Refusal :=
  reduce (wRedMaxu g a b) g 4 4 0 false a.toNat b.toNat s

def execRedAnd (g : BitVec 2) (a b : BitVec 6) (s : State) : Host.Outcome State Fault Refusal :=
  reduce (wRedAnd g a b) g 5 4 0 false a.toNat b.toNat s

def execRedOr (g : BitVec 2) (a b : BitVec 6) (s : State) : Host.Outcome State Fault Refusal :=
  reduce (wRedOr g a b) g 6 4 0 false a.toNat b.toNat s

def execRedXor (g : BitVec 2) (a b : BitVec 6) (s : State) : Host.Outcome State Fault Refusal :=
  reduce (wRedXor g a b) g 7 4 0 false a.toNat b.toNat s

def execRedAddF32 (g : BitVec 2) (o : BitVec 1) (a b : BitVec 6) (s : State) :
    Host.Outcome State Fault Refusal :=
  reduce (wRedAddF32 g o a b) g 8 4 1 (o = 1#1) a.toNat b.toNat s

def execRedAddBf (g : BitVec 2) (o : BitVec 1) (a b : BitVec 6) (s : State) :
    Host.Outcome State Fault Refusal :=
  reduce (wRedAddBf g o a b) g 9 2 4 (o = 1#1) a.toNat b.toNat s

/-! ## REDD: 8 bytes -/

def execReddAdd (g : BitVec 2) (a b : BitVec 6) (s : State) : Host.Outcome State Fault Refusal :=
  reduce (wReddAdd g a b) g 0 8 0 false a.toNat b.toNat s

def execReddMin (g : BitVec 2) (a b : BitVec 6) (s : State) : Host.Outcome State Fault Refusal :=
  reduce (wReddMin g a b) g 1 8 0 false a.toNat b.toNat s

def execReddMax (g : BitVec 2) (a b : BitVec 6) (s : State) : Host.Outcome State Fault Refusal :=
  reduce (wReddMax g a b) g 2 8 0 false a.toNat b.toNat s

def execReddMinu (g : BitVec 2) (a b : BitVec 6) (s : State) : Host.Outcome State Fault Refusal :=
  reduce (wReddMinu g a b) g 3 8 0 false a.toNat b.toNat s

def execReddMaxu (g : BitVec 2) (a b : BitVec 6) (s : State) : Host.Outcome State Fault Refusal :=
  reduce (wReddMaxu g a b) g 4 8 0 false a.toNat b.toNat s

def execReddAnd (g : BitVec 2) (a b : BitVec 6) (s : State) : Host.Outcome State Fault Refusal :=
  reduce (wReddAnd g a b) g 5 8 0 false a.toNat b.toNat s

def execReddOr (g : BitVec 2) (a b : BitVec 6) (s : State) : Host.Outcome State Fault Refusal :=
  reduce (wReddOr g a b) g 6 8 0 false a.toNat b.toNat s

def execReddXor (g : BitVec 2) (a b : BitVec 6) (s : State) : Host.Outcome State Fault Refusal :=
  reduce (wReddXor g a b) g 7 8 0 false a.toNat b.toNat s

def execReddAddF64 (g : BitVec 2) (o : BitVec 1) (a b : BitVec 6) (s : State) :
    Host.Outcome State Fault Refusal :=
  reduce (wReddAddF64 g o a b) g 8 8 3 (o = 1#1) a.toNat b.toNat s

end Sys2Proof.Machine
end

