-- ==== Sys2Proof/Machine/Convert.lean ====
section
/-!
DEFINITION. Conversion, packing, unpacking and FP64 splitting: majors 0x14 and 0x18 (R164 to R170,
R180).
-/

namespace Sys2Proof.Machine

/-- An integer result in n bits. -/
def intLane (n : Nat) (r : Int × BitVec 7) : Word × BitVec 7 := (zext64 (BitVec.ofInt n r.1), r.2)

/-- R167: a floating source into a signed or unsigned integer of n bits. -/
def toIntN (src : FFmt) (n : Nat) (signed : Bool) (mode : Nat) (sat : Bool) (a : Nat) :
    Word × BitVec 7 :=
  if signed then
    intLane n (toInt src mode sat (-(2 ^ (n - 1) : Nat)) ((2 ^ (n - 1) - 1 : Nat) : Int)
      (-(2 ^ (n - 1) : Nat)) a)
  else
    intLane n (toInt src mode sat 0 ((2 ^ n - 1 : Nat) : Int) ((2 ^ n - 1 : Nat) : Int) a)

/-- R165: the code's source is a pair; its destination is a pair. -/
def cvtWideSrc (k : Nat) : Bool := [0, 16, 17, 18, 19, 20, 21, 23].contains k
def cvtWideDst (k : Nat) : Bool := [1, 14, 15, 18, 19, 20, 21, 23, 24, 25].contains k

/-- R165 to R168: the conversion of a code; `sat` is VCVTS. -/
def cvtFn (k : Nat) (sat : Bool) : LaneFn := fun fmt w _ _ =>
  let m := fmtCRM fmt
  let a := w.toNat
  let a32 := a % 2 ^ 32
  let s32 : Int := (BitVec.ofNat 32 a).toInt
  match k with
  | 0 => (convert F64 F32 m sat a).lane
  | 1 => (convert F32 F64 m sat a32).lane
  | 2 => (convert FH F32 m sat (a % 65536)).lane
  | 3 => (convert F32 FH m sat a32).lane
  | 4 => (convert FBF F32 m sat (a % 65536)).lane
  | 5 => (convert F32 FBF m sat a32).lane
  | 6 => (convert FE4 F32 m sat (a % 256)).lane
  | 7 => (convert F32 FE4 m sat a32).lane
  | 8 => (convert FE5 F32 m sat (a % 256)).lane
  | 9 => (convert F32 FE5 m sat a32).lane
  | 10 => (fromInt F32 m s32).lane
  | 11 => (fromInt F32 m a32).lane
  | 12 => toIntN F32 32 true m sat a32
  | 13 => toIntN F32 32 false m sat a32
  | 14 => (fromInt F64 m s32).lane
  | 15 => (fromInt F64 m a32).lane
  | 16 => toIntN F64 32 true m sat a
  | 17 => toIntN F64 32 false m sat a
  | 18 => (fromInt F64 m w.toInt).lane
  | 19 => (fromInt F64 m a).lane
  | 20 => toIntN F64 64 true m sat a
  | 21 => toIntN F64 64 false m sat a
  | 22 => (F32.integral m a32).lane
  | 23 => (F64.integral m a).lane
  | 24 => (sext64 (BitVec.ofNat 32 a), 0)
  | _ => (BitVec.ofNat 64 a32, 0)

/-- An instruction of major 0x14. -/
def vCvt (x : BitVec 32) (g : BitVec 2) (d a b : Src) (codes : Bool) (f : LaneFn) (s : State) :
    Host.Outcome State Fault Refusal :=
  vFlagged (wordForm x g (some Lcvt) wtCvt) Lcvt d a b false codes f s

def side (wide : Bool) (r : Nat) : Src := if wide then .pair r else .vec r

def execVcvt (g : BitVec 2) (d a k : BitVec 6) (s : State) : Host.Outcome State Fault Refusal :=
  vCvt (wVcvt g d a k) g (side (cvtWideDst k.toNat) d.toNat)
    (side (cvtWideSrc k.toNat) a.toNat) .none (cvtDefined k) (cvtFn k.toNat false) s

def execVcvts (g : BitVec 2) (d a k : BitVec 6) (s : State) : Host.Outcome State Fault Refusal :=
  vCvt (wVcvts g d a k) g (side (cvtWideDst k.toNat) d.toNat)
    (side (cvtWideSrc k.toNat) a.toNat) .none (cvtsDefined k) (cvtFn k.toNat true) s

/-! ## VPACK (R169) -/

/-- Two converted parts. -/
def pack2 (f : Nat → Nat → Fr) : LaneFn := fun fmt a b _ =>
  let m := fmtCRM fmt
  let x := f m a.toNat
  let y := f m b.toNat
  (BitVec.ofNat 64 (x.bits + 65536 * y.bits), x.fl ||| y.fl)

/-- Four converted parts. -/
def pack4 (f : Nat → Nat → Fr) : LaneFn := fun fmt a b _ =>
  let m := fmtCRM fmt
  let p := f m (a.toNat % 65536)
  let q := f m (a.toNat / 65536)
  let r := f m (b.toNat % 65536)
  let t := f m (b.toNat / 65536)
  (BitVec.ofNat 64 (p.bits + 256 * q.bits + 65536 * r.bits + 16777216 * t.bits),
    p.fl ||| q.fl ||| r.fl ||| t.fl)

/-- R169: a signed n-bit source clamped into m bits. -/
def clampTo (signed : Bool) (m : Nat) (x : Int) : Nat :=
  let lo : Int := if signed then -(2 ^ (m - 1) : Nat) else 0
  let hi : Int := if signed then ((2 ^ (m - 1) - 1 : Nat) : Int) else ((2 ^ m - 1 : Nat) : Int)
  (BitVec.ofInt m (max lo (min hi x))).toNat

def packI2 (signed : Bool) : LaneFn := fun _ a b _ =>
  (BitVec.ofNat 64 (clampTo signed 16 (a.truncate 32).toInt +
    65536 * clampTo signed 16 (b.truncate 32).toInt), 0)

def packI4 (signed : Bool) : LaneFn := fun _ a b _ =>
  let h := fun (x : Word) (i : Nat) => clampTo signed 8 (x.extractLsb' (16 * i) 16).toInt
  (BitVec.ofNat 64 (h a 0 + 256 * h a 1 + 65536 * h b 0 + 16777216 * h b 1), 0)

def execVpackHF32 (g : BitVec 2) (d a b : BitVec 6) (s : State) :
    Host.Outcome State Fault Refusal :=
  vCvt (wVpackHF32 g d a b) g (.vec d.toNat) (.vec a.toNat) (.vec b.toNat) true
    (pack2 fun m x => convert F32 FH m false x) s

def execVpackBfF32 (g : BitVec 2) (d a b : BitVec 6) (s : State) :
    Host.Outcome State Fault Refusal :=
  vCvt (wVpackBfF32 g d a b) g (.vec d.toNat) (.vec a.toNat) (.vec b.toNat) true
    (pack2 fun m x => convert F32 FBF m false x) s

def execVpackE4H (g : BitVec 2) (d a b : BitVec 6) (s : State) : Host.Outcome State Fault Refusal :=
  vCvt (wVpackE4H g d a b) g (.vec d.toNat) (.vec a.toNat) (.vec b.toNat) true
    (pack4 fun m x => convert FH FE4 m false x) s

def execVpackE5H (g : BitVec 2) (d a b : BitVec 6) (s : State) : Host.Outcome State Fault Refusal :=
  vCvt (wVpackE5H g d a b) g (.vec d.toNat) (.vec a.toNat) (.vec b.toNat) true
    (pack4 fun m x => convert FH FE5 m false x) s

def execVpackHF32Sat (g : BitVec 2) (d a b : BitVec 6) (s : State) :
    Host.Outcome State Fault Refusal :=
  vCvt (wVpackHF32Sat g d a b) g (.vec d.toNat) (.vec a.toNat) (.vec b.toNat) true
    (pack2 fun m x => convert F32 FH m true x) s

def execVpackBfF32Sat (g : BitVec 2) (d a b : BitVec 6) (s : State) :
    Host.Outcome State Fault Refusal :=
  vCvt (wVpackBfF32Sat g d a b) g (.vec d.toNat) (.vec a.toNat) (.vec b.toNat) true
    (pack2 fun m x => convert F32 FBF m true x) s

def execVpackE4HSat (g : BitVec 2) (d a b : BitVec 6) (s : State) :
    Host.Outcome State Fault Refusal :=
  vCvt (wVpackE4HSat g d a b) g (.vec d.toNat) (.vec a.toNat) (.vec b.toNat) true
    (pack4 fun m x => convert FH FE4 m true x) s

def execVpackE5HSat (g : BitVec 2) (d a b : BitVec 6) (s : State) :
    Host.Outcome State Fault Refusal :=
  vCvt (wVpackE5HSat g d a b) g (.vec d.toNat) (.vec a.toNat) (.vec b.toNat) true
    (pack4 fun m x => convert FH FE5 m true x) s

def execVpackI16I32 (g : BitVec 2) (d a b : BitVec 6) (s : State) :
    Host.Outcome State Fault Refusal :=
  vCvt (wVpackI16I32 g d a b) g (.vec d.toNat) (.vec a.toNat) (.vec b.toNat) true
    (packI2 true) s

def execVpackN16I32 (g : BitVec 2) (d a b : BitVec 6) (s : State) :
    Host.Outcome State Fault Refusal :=
  vCvt (wVpackN16I32 g d a b) g (.vec d.toNat) (.vec a.toNat) (.vec b.toNat) true
    (packI2 false) s

def execVpackI8I16 (g : BitVec 2) (d a b : BitVec 6) (s : State) :
    Host.Outcome State Fault Refusal :=
  vCvt (wVpackI8I16 g d a b) g (.vec d.toNat) (.vec a.toNat) (.vec b.toNat) true
    (packI4 true) s

def execVpackN8I16 (g : BitVec 2) (d a b : BitVec 6) (s : State) :
    Host.Outcome State Fault Refusal :=
  vCvt (wVpackN8I16 g d a b) g (.vec d.toNat) (.vec a.toNat) (.vec b.toNat) true
    (packI4 false) s

/-! ## VUNPACK (R170) -/

/-- Part i of w bits. -/
def part (w i : Nat) (a : Word) : Nat := a.toNat / 2 ^ (w * i) % 2 ^ w

/-- One exact floating part. -/
def unpackF (src dst : FFmt) (w i : Nat) : LaneFn := fun _ a _ _ =>
  (convert src dst 0 false (part w i a)).lane

/-- Two exact FP16 halves from bytes 2i and 2i + 1. -/
def unpackF2 (src : FFmt) (i : Nat) : LaneFn := fun _ a _ _ =>
  let x := convert src FH 0 false (part 8 (2 * i) a)
  let y := convert src FH 0 false (part 8 (2 * i + 1) a)
  (BitVec.ofNat 64 (x.bits + 65536 * y.bits), x.fl ||| y.fl)

/-- One integer part, extended to 32 bits. -/
def unpackI (signed : Bool) (w i : Nat) : LaneFn := fun _ a _ _ =>
  let x := BitVec.ofNat w (part w i a)
  (if signed then zext64 (x.signExtend 32) else zext64 x, 0)

/-- Two sign-extended I16 halves. -/
def unpackI2 (i : Nat) : LaneFn := fun _ a _ _ =>
  let h := fun (j : Nat) => ((BitVec.ofNat 8 (part 8 j a)).signExtend 16).toNat
  (BitVec.ofNat 64 (h (2 * i) + 65536 * h (2 * i + 1)), 0)

def execVunpackF32H (g : BitVec 2) (d a i : BitVec 6) (s : State) :
    Host.Outcome State Fault Refusal :=
  vCvt (wVunpackF32H g d a i) g (.vec d.toNat) (.vec a.toNat) .none (decide (i.toNat ≤ 1))
    (unpackF FH F32 16 i.toNat) s

def execVunpackF32Bf (g : BitVec 2) (d a i : BitVec 6) (s : State) :
    Host.Outcome State Fault Refusal :=
  vCvt (wVunpackF32Bf g d a i) g (.vec d.toNat) (.vec a.toNat) .none (decide (i.toNat ≤ 1))
    (unpackF FBF F32 16 i.toNat) s

def execVunpackHE4 (g : BitVec 2) (d a i : BitVec 6) (s : State) :
    Host.Outcome State Fault Refusal :=
  vCvt (wVunpackHE4 g d a i) g (.vec d.toNat) (.vec a.toNat) .none (decide (i.toNat ≤ 1))
    (unpackF2 FE4 i.toNat) s

def execVunpackHE5 (g : BitVec 2) (d a i : BitVec 6) (s : State) :
    Host.Outcome State Fault Refusal :=
  vCvt (wVunpackHE5 g d a i) g (.vec d.toNat) (.vec a.toNat) .none (decide (i.toNat ≤ 1))
    (unpackF2 FE5 i.toNat) s

def execVunpackI32I16 (g : BitVec 2) (d a i : BitVec 6) (s : State) :
    Host.Outcome State Fault Refusal :=
  vCvt (wVunpackI32I16 g d a i) g (.vec d.toNat) (.vec a.toNat) .none (decide (i.toNat ≤ 1))
    (unpackI true 16 i.toNat) s

def execVunpackI32N16 (g : BitVec 2) (d a i : BitVec 6) (s : State) :
    Host.Outcome State Fault Refusal :=
  vCvt (wVunpackI32N16 g d a i) g (.vec d.toNat) (.vec a.toNat) .none (decide (i.toNat ≤ 1))
    (unpackI false 16 i.toNat) s

def execVunpackI16I8 (g : BitVec 2) (d a i : BitVec 6) (s : State) :
    Host.Outcome State Fault Refusal :=
  vCvt (wVunpackI16I8 g d a i) g (.vec d.toNat) (.vec a.toNat) .none (decide (i.toNat ≤ 1))
    (unpackI2 i.toNat) s

def execVunpackI32I8 (g : BitVec 2) (d a i : BitVec 6) (s : State) :
    Host.Outcome State Fault Refusal :=
  vCvt (wVunpackI32I8 g d a i) g (.vec d.toNat) (.vec a.toNat) .none (decide (i.toNat ≤ 3))
    (unpackI true 8 i.toNat) s

def execVunpackI32N8 (g : BitVec 2) (d a i : BitVec 6) (s : State) :
    Host.Outcome State Fault Refusal :=
  vCvt (wVunpackI32N8 g d a i) g (.vec d.toNat) (.vec a.toNat) .none (decide (i.toNat ≤ 3))
    (unpackI false 8 i.toNat) s

/-! ## VSPLIT (R180) -/

/-- R180: the digit of slice s, as a byte, and Invalid. -/
def splitDigit (s : Nat) (x : Nat) (e : Int) : Nat × BitVec 7 :=
  match F64.read x with
  | .fin neg m k =>
    -- |x| >= 2^e
    if m ≠ 0 ∧ e ≤ (m.log2 : Int) + k then (0, flNV)
    else
      let sh : Int := k + 7 * ((s : Int) + 1) - e
      let t :=
        if m = 0 then 0 else if 0 ≤ sh then m * 2 ^ sh.toNat
        else if sh < -64 then 0 else m / 2 ^ (-sh).toNat
      let d := t % 128
      (if neg then (256 - d) % 256 else d, 0)
  | _ => (0, flNV)

/-- R180: x is the slice s, y the byte b of vd. -/
def splitFn (sl by_ : Nat) : LaneFn := fun _ a b d =>
  let r := splitDigit sl a.toNat (b.truncate 32).toInt
  let m : Word := 255#64 <<< (8 * by_)
  ((d &&& ~~~m) ||| (BitVec.ofNat 64 r.1 <<< (8 * by_)), r.2)

def execVsplit (g : BitVec 2) (x : BitVec 3) (y : BitVec 2) (d a b : BitVec 6) (s : State) :
    Host.Outcome State Fault Refusal :=
  vFlagged (wordForm (wVsplit g x y d a b) g (some Lcvt) wtCvt) Lcvt (.vec d.toNat)
    (.pair a.toNat) (.vec b.toNat) true true (splitFn x.toNat y.toNat) s

end Sys2Proof.Machine
end

