-- ==== Sys2Proof/Machine/Sync.lean ====
section
/-!
DEFINITION. Fences (R190, R191, R226), INVL1 (R227), condition monitors (R228 to R231), barriers and
the stage ring (R241 to R244, R29, R30, R41).
-/

namespace Sys2Proof.Machine

/-! ## Releases (R190) -/

/-- Progress of a release: still under way, or complete. -/
inductive Rel where
  | busy (w : Work) (g : Group)
  | done (w : Work) (g : Group)

/-- R183, R190: what a scope asks of a release: 0 nothing, 1 the twin partner, 2 the cluster, 3 the
package, 4 the package and outside memory. A group without a team is alone in TEAM and GANG. -/
def Work.relScope (w : Work) (g : Group) (scope : Nat) : Nat :=
  match scope with
  | 0 => 0
  | 1 =>
    match w.teamOf g with
    | some t => if t.twin then 1 else 0
    | none => 0
  | 2 => if (w.teamOf g).isSome then 2 else 0
  | n => n

/-- R190: the cores a signature goes to. -/
def relTargets (c k : Nat) : List Nat :=
  match k with
  | 1 => [Config.partner c]
  | 2 => (coresOf (Config.clusterOf c)).filter (· ≠ c)
  | _ => (upto Config.cores).filter (· ≠ c)

/-- R190 step 1: an operation older than the release has not been performed. -/
def Core.undrained (k : Core) (stamp : Nat) : Bool :=
  (k.stores.any fun s => decide (s.1 < stamp)) ||
    k.loads.any fun l => l.2.atomic && decide (l.1 < stamp)

/-- R200, R373: trigger the flush of every address a grid holds. -/
def Work.triggerFlush (w : Work) (launch : Nat) : Work :=
  allUnits.foldl (fun w u =>
    let x := w.unit u.1 u.2
    let mine := (x.held.filter fun h => decide (h.launch = launch)).map (·.addr)
    if mine = [] then w
    else w.setUnit u.1 u.2 { x with flushq := (x.flushq ++ mine).eraseDups }) w

/-- A triggered flush of a grid is still to be done. -/
def Work.flushing (w : Work) (launch : Nat) : Bool :=
  w.dies.any fun d => d.2.units.any fun u =>
    u.2.held.any fun h => decide (h.launch = launch) && u.2.flushq.contains h.addr

/-- R188: the SIG filters are cleared. What has been accepted and not yet performed is inserted again
once it has been, because a later release must publish it (R203; DEDUCED, log 35). -/
def Core.clearSig (k : Core) (team gang dev : Bool) : Core :=
  { k with
    sigTeam := if team then 0 else k.sigTeam
    sigGang := if gang then 0 else k.sigGang
    sigDev := if dev then 0 else k.sigDev
    stores := tmap (fun _ s => { s with early := true }) k.stores
    loads := tmap (fun _ l => { l with early := l.atomic }) k.loads }

/-- R200, R203: sectors of the RED.ORD updates of a grid that were accepted before a release began,
which has flushed them. -/
def Core.flushedSecs (k : Core) (launch stamp : Nat) : List Nat :=
  (k.ordHeld.filter fun o => decide (o.2.ord = 1) && decide (o.2.launch = launch) && decide (o.1 < stamp)).flatMap
    (·.2.secs)

/-- R190 step 2: snapshot and clear the filters, send the signature to its recipients. `flush` names the
grid whose updates the release has flushed, and its stamp. Answers how many acknowledgments will
come, and which earlier publications are still to be acknowledged. -/
def Work.publish (w : Work) (c : Nat) (k token : Nat) (flush : Option (Nat × Nat) := none) :
    Nat × List Nat × Work :=
  let x := w.core c
  let own :=
    match k with
    | 1 => x.sigTeam
    | 2 => x.sigGang
    | _ => x.sigDev
  let bits :=
    match flush with
    | some (l, stamp) => (x.flushedSecs l stamp).foldl sigInsert own
    | none => own
  let dst := relTargets c k
  let after := (x.sigOut.filter fun o => decide (min k 3 ≤ o.2.1)).map Prod.fst
  let x := x.clearSig true (decide (2 ≤ k)) (decide (3 ≤ k))
  let w := w.setCore c
    { x with
      sigOut := if dst = [] then x.sigOut else tins token (min k 3, dst.length) x.sigOut
      ordHeld := match flush with
        | some (l, stamp) =>
          tfilter (fun op o => !(decide (o.ord = 1) && decide (o.launch = l) && decide (op < stamp))) x.ordHeld
        | none => x.ordHeld }
  (dst.length, after, dst.foldl (fun w d => w.control c d (.sig c d token k bits)) w)

/-- R190, R203: the signature of a release has been acknowledged, and those that its core published
before it. -/
def Core.relOver (k : Core) (r : Release) : Bool :=
  decide (r.acks = 0) && r.after.all fun t => (tfind t k.sigOut).isNone

/-- R190: carry a release on as far as it goes in one turn. `flush` says that it is a flush point of
its grid's ordered updates (R200). -/
def Work.release (w : Work) (c : Nat) (g : Group) (scope : Nat) (flush : Bool := true) : Rel :=
  let k := w.relScope g scope
  if k = 0 then .done w { g with rel := none }
  else
    let q : Release × Work :=
      match g.rel with
      | some r => (r, w)
      | none =>
        let o := w.newOp c
        ({ scope := k, stamp := o.1, token := o.1, phase := 0, acks := 0 }, o.2)
    let r := q.1
    let w := q.2
    let publish := fun (w : Work) (flushed : Option (Nat × Nat)) =>
      let p := w.publish c k r.token flushed
      Rel.busy p.2.2 { g with rel := some { r with phase := 2, acks := p.1, after := p.2.1 } }
    match r.phase with
    | 0 =>
      if (w.core c).undrained r.stamp then .busy w { g with rel := some r }
      else if k < 3 ∨ g.kind = .supervisor ∨ !flush then publish w none
      else .busy (w.triggerFlush g.launch) { g with rel := some { r with phase := 1 } }
    | 1 =>
      if w.flushing g.launch then .busy w { g with rel := some r }
      else publish w (some (g.launch, r.stamp))
    | _ =>
      if (w.core c).relOver r then .done w { g with rel := none } else .busy w { g with rel := some r }

/-! ## Acquires (R191) -/

/-- A load of the group has not landed. -/
def Core.loading (k : Core) (slot : Nat) (g : Group) : Bool :=
  k.loads.any fun l => decide (l.2.slot = slot) && decide (g.born ≤ l.1)

/-- R191: wait for the group's loads, then act. R18 names no such wait: the group keeps its entry. -/
def acquireThen (w : Work) (c slot : Nat) (g : Group) (scope : Nat)
    (next : Work → Group → Res) : Res :=
  if (w.core c).loading slot g then .hold w g none
  else next (if scope = 0 then w else w.acquire c (decide (scope = 4))) g

/-! ## FENCE, INVL1 (R226, R227) -/

/-- R276: MSYNC in a sweep routine. -/
def notRoutine (g : Group) : Bool := decide (g.kind ≠ .run)

def fenceNeed (p : BitVec 3) (g : Group) : Need :=
  { codes := decide (p.toNat ≤ 4), ctx := notRoutine g }

def execFenceRel (g : BitVec 2) (p : BitVec 3) (s : State) : Host.Outcome State Fault Refusal :=
  issue (wordForm (wFenceRel g p) g none wtScalar) (fun _ gr => fenceNeed p gr)
    (fun w c _ gr =>
      match w.release c gr p.toNat with
      | .busy w gr => .hold w gr none
      | .done w gr => .done w gr) s

def execFenceAcq (g : BitVec 2) (p : BitVec 3) (s : State) : Host.Outcome State Fault Refusal :=
  issue (wordForm (wFenceAcq g p) g none wtScalar) (fun _ gr => fenceNeed p gr)
    (fun w c slot gr => acquireThen w c slot gr p.toNat .done) s

/-- R226: the release, then the acquire. -/
def execFenceAr (g : BitVec 2) (p : BitVec 3) (s : State) : Host.Outcome State Fault Refusal :=
  issue (wordForm (wFenceAr g p) g none wtScalar) (fun _ gr => fenceNeed p gr)
    (fun w c slot gr =>
      let acq := fun (w : Work) (gr : Group) => acquireThen w c slot gr p.toNat .done
      if gr.half = 1 then acq w gr
      else
        match w.release c gr p.toNat with
        | .busy w gr => .hold w gr none
        | .done w gr => acq w { gr with half := 1 }) s

/-- R227. -/
def execInvl1 (g : BitVec 2) (l : BitVec 1) (s : State) : Host.Outcome State Fault Refusal :=
  issue (wordForm (wInvl1 g l) g none wtScalar) (fun _ gr => { ctx := notRoutine gr })
    (fun w c slot gr =>
      if (w.core c).loading slot gr then .hold w gr none
      else
        .done (w.modCore c fun k =>
          (k.markAcquire (BitVec.allOnes 2048)).l1Invalidate
            (fun _ x => l = 1#1 || !x.ro) fun _ => true) gr) s

/-! ## WAITCMP, MONCANCEL (R228 to R231) -/

/-- R228, R229: compare at the home slice, and arm a monitor where needed; the group parks. A timeout
of 0 compares once: the answer of the slice, not the clock, ends it. -/
def execWaitcmp (g : BitVec 2) (a v : BitVec 6) (cond : BitVec 3) (z t : BitVec 1) (s : State) :
    Host.Outcome State Fault Refusal :=
  issue (wordForm (wWaitcmp g a v cond z t) g none wtScalar)
    (fun _ gr =>
      { codes := decide (cond.toNat ≤ 5), regs := t = 0#1 || decide (v.toNat + 1 < 64)
        ctx := notRoutine gr
        reads := [useS a.toNat, useS v.toNat] ++ if t = 1#1 then [useS (v.toNat + 1)] else []
        writes := [useF] })
    (fun w c slot gr =>
      let size := if z = 1#1 then 8 else 4
      let va := (gr.s a.toNat).toNat % 2 ^ 52
      match w.resolve c slot gr .load size true (fun _ pa => (w.place pa).isNear) [(0, va)] with
      | .stop r => r
      | .ok w l =>
        let pa := (l.head?.map (·.2.1)).getD 0
        let key := (l.head?.map (·.2.2)).getD 0
        let value := if size = 4 then cutTo 4 (gr.s v.toNat) else gr.s v.toNat
        -- R231: after a restore, what remained
        let limit := gr.left.getD (gr.s (v.toNat + 1)).toNat
        let o := w.newOp c
        let arm := !(t = 1#1 && decide (limit = 0))
        let deadline := if t = 1#1 && arm then some ((w.core c).cycle + limit) else none
        .wait
          (o.2.request (mkReq c slot gr (pa / 128) key o.1 false false false
            (.waitcmp pa size cond.toNat value arm)))
          gr (.monitor va pa size cond.toNat value deadline o.1)) s

/-- Where the monitor of a WAITCMP is armed, if it is. -/
def Work.armed (w : Work) (c slot op pa : Nat) : Option (Nat × Nat × Nat) :=
  match w.home? pa with
  | none => none
  | some h =>
    ((w.slice h.die h.slice).mons.find? fun m =>
      decide (m.2.core = c) && decide (m.2.slot = slot) && decide (m.2.op = op) &&
        m.2.cell.isNone).map fun m => (h.die, h.slice, m.1)

/-- R230: cancel the armed monitor of a group, if it is on an address; its WAITCMP ends with N. -/
def Work.monCancel (w : Work) (c slot : Nat) (va : Option Nat) : Work :=
  match w.grp c slot with
  | some g =>
    match g.wait with
    | .monitor v pa _ _ _ _ op =>
      if va.isSome && va ≠ some v then w
      else
        match w.armed c slot op pa with
        | some m =>
          (w.freeMonitor m.1 m.2.1 m.2.2).endWaitcmp c slot (mkSfl false true false false)
        | none => w
    | _ => w
  | none => w

/-- R230: for the issuing team; without a team, the group's own monitor. -/
def execMoncancel (g : BitVec 2) (a : BitVec 6) (l : BitVec 1) (s : State) :
    Host.Outcome State Fault Refusal :=
  issue (wordForm (wMoncancel g a l) g none wtScalar)
    (fun _ gr => { ctx := notRoutine gr, reads := if l = 1#1 then [] else [useS a.toNat] })
    (fun w c slot gr =>
      let va := if l = 1#1 then none else some ((gr.s a.toNat).toNat % 2 ^ 52)
      let who : List (Nat × Nat) :=
        match w.teamOf gr with
        | some t => w.members t fun x => decide (x.kind ≠ GroupKind.run)
        | none => [(c, slot)]
      .done (who.foldl (fun w m => w.monCancel m.1 m.2 va) w) gr) s

/-- R202: the first wake whose replies have all arrived. -/
def Core.arrivedWake (k : Core) : Option WakeIn :=
  k.inbox.wakes.find? fun x =>
    decide (x.seq ≤ (tget { low := 0, extra := [] } x.home k.seqSeen).low)

/-- A reply has arrived that has yet to land. -/
def Core.landing (k : Core) : Bool :=
  k.inbox.acks ≠ [] || (k.loads.any fun l => decide (l.2.left = 0)) ||
    k.fills.any fun f => f.2.data.isSome && !(f.2.req.eng && f.2.load.isNone)

/-- R202: the first wake whose replies have all landed. -/
def Core.readyWake (k : Core) : Option WakeIn := if k.landing then none else k.arrivedWake

/-- R201, R229: a wake for a waiting group completes its WAITCMP. -/
def Work.wakeGroup (w : Work) (c : Nat) (x : WakeIn) : Work :=
  if w.inWaitcmp c x.slot x.op then
    (w.dropSector c x.sector).endWaitcmp c x.slot (mkSfl true false false false)
  else w

/-- R229: a WAITCMP completes by its timeout, which ran out in a core cycle. -/
def Work.expireWaitcmp (w : Work) (c slot cycle : Nat) : Work :=
  w.returnAt c slot (Config.clusterOf c % 12) (cycle + 2) fun g =>
    (g.putSfl (mkSfl false false true false)).after g.wstep cycle (g.nextPc 4)

/-- R229: a timeout expires first: the entry at the slice goes and C is set. A wake that reaches the core by
the end of the same core cycle is taken before it; so the turn comes with the next core cycle. -/
def execWaitcmpTimeout (core slot : Nat) (s : State) : Host.Outcome State Fault Refusal :=
  event s fun w =>
    match w.grp core slot with
    | some g =>
      match g.wait with
      | .monitor _ pa _ _ _ (some d) op =>
        let k := w.core core
        let woken := k.inbox.wakes.any fun x => decide (x.slot = slot) && decide (x.op = op)
        if k.cycle ≤ d || woken then w
        else
          let w := match w.armed core slot op pa with
            | some m => w.freeMonitor m.1 m.2.1 m.2.2
            | none => w
          w.expireWaitcmp core slot d
      | _ => w
    | none => w

/-- R229: the back-off of a MONFULL completion ends. -/
def execMonfullBackoffEnd (core slot : Nat) (s : State) : Host.Outcome State Fault Refusal :=
  event s fun w =>
    match w.grp core slot with
    | some g =>
      match g.wait with
      | .monfull t =>
        if t ≤ (w.core core).cycle then w.return_ core slot fun g => g else w
      | _ => w
    | none => w

/-! ## Team barriers (R241, R242) -/

/-- R241: the groups that may execute SYNC. -/
def syncCtx (g : Group) : Bool := decide (g.kind = .user)

/-- The bit of a group index. -/
def has (set i : Nat) : Bool := set.testBit i
def with_ (set i : Nat) : Nat := set ||| 2 ^ i

/-- R242: the unretired groups of a team whose role is in a mask; all of them when it is 0. -/
def Work.participants (w : Work) (t : Team) (rm : Nat) : List Nat :=
  let r := ((w.launch? t.launch).map (·.record)).getD 0
  (upto (lrNgrp r)).filter fun i =>
    !has t.retired i && (rm = 0 || has rm (lrRoleOf r i))

def Team.bar (t : Team) (b : Nat) : Barrier := tget Barrier.init b t.bars
def Team.setBar (t : Team) (b : Nat) (x : Barrier) : Team :=
  { t with bars := tput Barrier.init b x t.bars }

/-- Every group of a team with a test on its wait returns. -/
def Work.wakeTeam (w : Work) (t : Team) (p : Group → Bool) : Work :=
  (w.members t p).foldl (fun w m => w.return_ m.1 m.2 fun g => g) w

/-- R33, R34: a message enters the arrival queue of a core, or firmware storage when it is full. -/
def Core.amArrive (k : Core) (m : AmMsg) : Core :=
  if k.arrivals.length < 16 ∧ k.amOver = [] then { k with arrivals := k.arrivals ++ [m] }
  else { k with amOver := k.amOver ++ [m] }

/-- R311: the messages a team holds are released, in ascending issuer key. -/
def Work.releaseAms (w : Work) (t : Team) : Work :=
  let l := sortBy (fun (a b : AmMsg) => keyLt a.key b.key) t.heldAm
  (w.modTeam t.launch t.lin fun t => { t with heldAm := [] }).modCore t.home fun k =>
    l.foldl Core.amArrive k

/-- R242: a phase completes: PHASE changes, the waiters go on, held messages are released. -/
def Work.phaseChange (w : Work) (t : Team) (b : Nat) : Work :=
  let x := t.bar b
  let t' := t.setBar b { x with phase := !x.phase, arr := 0 }
  let w := (w.setTeam t').wakeTeam t' fun g => decide (g.wait = .barrier b)
  if t.resident then w.releaseAms t' else w

/-- R242: the completion test of a barrier. -/
def Work.barTest (w : Work) (launch lin b : Nat) : Work :=
  match w.team launch lin with
  | some t =>
    let x := t.bar b
    if x.arr ≠ 0 ∧ (w.participants t x.rm).all (has x.arr) then w.phaseChange t b else w
  | none => w

/-- R242: BARA, then what follows it. -/
def barArrive (w : Work) (c : Nat) (g : Group) (b rmask : Nat) (next : Work → Group → Res) : Res :=
  match w.teamOf g with
  | none => .illegal 6
  | some t =>
    let x := t.bar b
    if has x.arr g.gidx then .illegal 6
    else if x.arr ≠ 0 ∧ x.rm ≠ rmask then .illegal 6
    else if rmask ≠ 0 ∧ !has rmask g.role then .illegal 6
    else
      match w.release c g 1 with
      | .busy w g => .hold w g none
      | .done w g =>
        let y : Barrier := { x with arr := with_ x.arr g.gidx, rm := rmask }
        let ph : BitVec 16 := g.phases &&& ~~~(1#16 <<< b)
        let g := { g with phases := if x.phase then ph ||| (1#16 <<< b) else ph }
        next ((w.setTeam (t.setBar b y)).barTest t.launch t.lin b) g

/-- R242: BARW. -/
def barWait (w : Work) (c slot : Nat) (g : Group) (b : Nat) : Res :=
  match w.teamOf g with
  | none => .illegal 6
  | some t =>
    let x := t.bar b
    if g.phases.getLsbD b = x.phase && has x.arr g.gidx then .hold w g (some (.barrier b))
    else acquireThen w c slot g 1 .done

def execBar (g : BitVec 2) (b m : BitVec 4) (s : State) : Host.Outcome State Fault Refusal :=
  issue (wordForm (wBar g b m) g none wtScalar) (fun _ gr => { ctx := syncCtx gr })
    (fun w c slot gr =>
      if gr.half = 1 then barWait w c slot gr b.toNat
      else barArrive w c gr b.toNat m.toNat fun w gr =>
        barWait w c slot { gr with half := 1 } b.toNat) s

def execBara (g : BitVec 2) (b m : BitVec 4) (s : State) : Host.Outcome State Fault Refusal :=
  issue (wordForm (wBara g b m) g none wtScalar) (fun _ gr => { ctx := syncCtx gr })
    (fun w c _ gr => barArrive w c gr b.toNat m.toNat .done) s

def execBarw (g : BitVec 2) (b : BitVec 4) (s : State) : Host.Outcome State Fault Refusal :=
  issue (wordForm (wBarw g b) g none wtScalar) (fun _ gr => { ctx := syncCtx gr })
    (fun w c slot gr => barWait w c slot gr b.toNat) s

/-! ## Gang and grid barriers (R243) -/

/-- R243: each unretired group of a team has arrived. -/
def Work.allArrived (w : Work) (t : Team) (arr : Nat) : Bool := (w.participants t 0).all (has arr)

/-- The teams of a gang. -/
def Work.gangTeams (w : Work) (launch gang : Nat) : List Team :=
  (w.teams.map Prod.snd).filter fun t => decide (t.launch = launch) && decide (t.gang = gang)

/-- R243: the gang's barrier completes when every team of it has arrived. -/
def Work.gangTest (w : Work) (launch gang : Nat) : Work :=
  let l := w.gangTeams launch gang
  if (l.any fun t => decide (t.gangArr ≠ 0)) && l.all fun t => w.allArrived t t.gangArr then
    l.foldl (fun w t =>
      (w.modTeam t.launch t.lin fun t => { t with gangArr := 0 }).wakeTeam t fun g =>
        decide (g.wait = .gangbar)) w
  else w

/-- R243. -/
def execGangbar (g : BitVec 2) (s : State) : Host.Outcome State Fault Refusal :=
  issue (wordForm (wGangbar g) g none wtScalar) (fun _ gr => { ctx := syncCtx gr })
    (fun w c slot gr =>
      let wait := fun (w : Work) (gr : Group) =>
        match w.teamOf gr with
        | none => Res.illegal 6
        | some t =>
          if has t.gangArr gr.gidx then .hold w gr (some .gangbar)
          else acquireThen w c slot gr 2 .done
      if gr.half = 1 then wait w gr
      else
        match w.teamOf gr with
        | none => .illegal 6
        | some t =>
          if has t.gangArr gr.gidx then .illegal 6
          else
            match w.release c gr 2 with
            | .busy w gr => .hold w gr none
            | .done w gr =>
              wait ((w.modTeam t.launch t.lin fun t =>
                { t with gangArr := with_ t.gangArr gr.gidx }).gangTest t.launch t.gang)
                { gr with half := 1 }) s

/-- R224: what a group does when its grid barrier is over. -/
def Group.endGridbar (g : Group) : Group := { g.refusal with ordSeq := 0, deferred := [] }

/-- R243, R37. -/
def execGridbar (g : BitVec 2) (s : State) : Host.Outcome State Fault Refusal :=
  issue (wordForm (wGridbar g) g none wtScalar)
    (fun w gr => { ctx := syncCtx gr && lrGridb (w.recOf gr) })
    (fun w c slot gr =>
      let wait := fun (w : Work) (gr : Group) =>
        match w.teamOf gr with
        | none => Res.illegal 6
        | some t =>
          if has t.gridArr gr.gidx then .hold w gr (some .gridbar)
          else acquireThen w c slot gr 3 fun w gr => .done w gr.endGridbar
      if gr.half = 1 then wait w gr
      else
        match w.teamOf gr with
        | none => .illegal 6
        | some t =>
          if has t.gridArr gr.gidx then .illegal 6
          else
            match w.release c gr 3 with
            | .busy w gr => .hold w gr none
            | .done w gr =>
              wait (w.modTeam t.launch t.lin fun t =>
                { t with gridArr := with_ t.gridArr gr.gidx }) { gr with half := 1 }) s

/-- R243: every team of a grid has arrived; retired teams count. -/
def Work.gridArrived (w : Work) (l : Nat) (x : Launch) : Bool :=
  let ts := (w.teams.map Prod.snd).filter fun t => decide (t.launch = l)
  (ts.any fun t => decide (t.gridArr ≠ 0)) &&
    decide ((ts.filter fun t => w.allArrived t t.gridArr).length + x.retired = lrTeams x.record)

/-- R193 edge 3: what the barrier has applied is published to every core that acquires after it (DEDUCED,
log 35). -/
def Work.atomsPublished (w : Work) (launch : Nat) : Work :=
  let secs := w.cores.flatMap fun p =>
    (p.2.ordHeld.filter fun o => decide (o.2.launch = launch)).flatMap (·.2.secs)
  { w with
    cores := tmap (fun _ k =>
      { k.inbWrite secs with ordHeld := tfilter (fun _ o => decide (o.launch ≠ launch)) k.ordHeld }) w.cores }

/-- R243, R321, R373: the grid barrier completes: flush, ATOM.ORD results, generation, release. -/
def execGridbarComplete (launch : Nat) (s : State) : Host.Outcome State Fault Refusal :=
  event s fun w =>
    match w.launch? launch with
    | none => w
    | some x =>
      if !w.gridArrived launch x then w
      else
        let w := (w.flushAll launch true).atomsPublished launch
        let w := w.modLaunch launch fun x => { x with gen := x.gen + 1 }
        let ts := (w.teams.map Prod.snd).filter fun t => decide (t.launch = launch)
        ts.foldl (fun w t =>
          (w.members t fun g => decide (g.wait = .gridbar)).foldl (fun w m =>
            w.returnKey m.1 m.2 ((Config.clusterOf m.1 % 12 + 12 - x.gen % 12) % 12) fun g => g)
            ((w.members t fun g => decide (g.kind = .handlerTeam)).foldl
              (fun w m => w.modGrp m.1 m.2 Group.gridOver)
              (w.modTeam t.launch t.lin fun t => { t with gridArr := 0 }))) w

/-! ## The stage ring (R29, R30, R41, R244) -/

/-- The control word of a slot: FULL and OWNER. -/
def Work.ringWord (w : Work) (t : Team) (i : Nat) : Bool × Nat :=
  let n := (w.core t.home).bufNum 3 (t.sb + 8 * i) 8
  (n % 2 = 1, n / 2 % 4)

def Work.setRingWord (w : Work) (t : Team) (i : Nat) (full : Bool) (owner : Nat) : Work :=
  w.modCore t.home fun k =>
    k.setBufNum 3 (t.sb + 8 * i) 8 ((if full then 1 else 0) + 2 * (owner % 4)) fun _ => false

/-- R30: slot `i` is ready for a role. -/
def Work.ringReady (w : Work) (t : Team) (r : BitVec 1024) (i role : Nat) : Bool :=
  let x := w.ringWord t i
  match lrRingPos r role with
  | none => false
  | some p => decide (x.2 = role) && (x.1 == decide (p ≠ 0))

/-- The unretired groups of a role. -/
def roleGroups (t : Team) (r : BitVec 1024) (role : Nat) : List Nat :=
  (upto (lrNgrp r)).filter fun i => decide (lrRoleOf r i = role) && !has t.retired i

/-- R30: a slot passes to the role at the next ring position. -/
def Work.ringPass (w : Work) (t : Team) (r : BitVec 1024) (i : Nat) : Work :=
  let pos := ((lrRingPos r (w.ringWord t i).2).getD 0 + 1) % (lrRlen r + 1)
  (w.setRingWord t i (decide (pos ≠ 0)) (lrRorder r pos)).modTeam t.launch t.lin fun t =>
    { t with ringRel := tdel i t.ringRel }

/-- R30, R41: pass a slot on for as long as every unretired group of its owner has released it; a
role all of whose groups have retired passes at once. Where no role of the ring has groups left, once
round the ring (DESIGN CHOICE, log 35: R41 gives no end). -/
def Work.ringSettle (w : Work) (launch lin i : Nat) : Nat → Work
  | 0 => w
  | n + 1 =>
    match w.team launch lin with
    | none => w
    | some t =>
      let r := ((w.launch? launch).map (·.record)).getD 0
      let owner := (w.ringWord t i).2
      if (roleGroups t r owner).all (has (tget 0 i t.ringRel)) then
        (w.ringPass t r i).ringSettle launch lin i n
      else w

/-- Groups that wait for a slot now ready return. -/
def Work.ringWake (w : Work) (launch lin : Nat) : Work :=
  match w.team launch lin with
  | none => w
  | some t =>
    let r := ((w.launch? launch).map (·.record)).getD 0
    w.wakeTeam t fun g => decide (g.wait = .stage) && w.ringReady t r g.cursor g.role

/-- R41: after a retirement, every slot in ascending index. -/
def Work.ringRetire (w : Work) (launch lin : Nat) : Work :=
  let r := ((w.launch? launch).map (·.record)).getD 0
  ((upto (lrRingn r)).foldl (fun w i => w.ringSettle launch lin i (lrRlen r + 1)) w).ringWake launch lin

/-- R244: the group's role is at a ring position. -/
def ringCtx (w : Work) (g : Group) : Bool :=
  syncCtx g && (lrRingPos (w.recOf g) g.role).isSome

def execStageacq (g : BitVec 2) (s : State) : Host.Outcome State Fault Refusal :=
  issue (wordForm (wStageacq g) g none wtScalar)
    (fun w gr => { ctx := ringCtx w gr && (!gr.acquired || decide (gr.half = 1)) })
    (fun w c slot gr =>
      match w.teamOf gr with
      | none => .illegal 6
      | some t =>
        if gr.half = 1 then acquireThen w c slot gr 1 .done
        else if w.ringReady t (w.recOf gr) gr.cursor gr.role then
          acquireThen w c slot { gr with acquired := true, half := 1 } 1 .done
        else .hold w gr (some .stage)) s

def execStagerel (g : BitVec 2) (s : State) : Host.Outcome State Fault Refusal :=
  issue (wordForm (wStagerel g) g none wtScalar)
    (fun w gr => { ctx := ringCtx w gr && gr.acquired })
    (fun w c _ gr =>
      match w.teamOf gr with
      | none => .illegal 6
      | some t =>
        match w.release c gr 1 with
        | .busy w gr => .hold w gr none
        | .done w gr =>
          let i := gr.cursor
          let n := lrRingn (w.recOf gr)
          let w := w.modTeam t.launch t.lin fun t =>
            { t with ringRel := tins i (with_ (tget 0 i t.ringRel) gr.gidx) t.ringRel }
          .done ((w.ringSettle t.launch t.lin i (lrRlen (w.recOf gr) + 1)).ringWake t.launch t.lin)
            { gr with acquired := false, cursor := (i + 1) % max n 1 }) s

end Sys2Proof.Machine
end

