-- ==== Sys2Proof/Machine/Copy.lean ====
section
/-!
DEFINITION. The COPY major: copies and their engine (R232 to R236), count-down objects (R237, R238),
retention windows (R239, R240).
-/

namespace Sys2Proof.Machine

/-! ## Engine accesses to global memory (R196) -/

/-- The issuer of an engine access, for the checks of R333. -/
def engineGroup (sup : Bool) (owner : Nat) : Group :=
  { Group.blank with kind := if sup then .supervisor else .user, owner }

/-- R334, R336: translate for an engine: the TLBs, else a walk in the die's queue, for which the
engine waits. None while the walk is under way. A fault that a walk has ended in is taken once: the
engine walks again when it is resumed. -/
def Work.engTranslate (w : Work) (c owner va : Nat) : Option WalkEnd × Work :=
  let page := owner * 2 ^ 36 + va / 65536
  let t := w.translate c owner va []
  match t.1 with
  | .page e => (some (.leaf e), t.2)
  | _ =>
    match tfind page (w.core c).walkRes with
    | some r =>
      (some (if r = 1 then .pageFault else .accessFault),
        w.modCore c fun k => { k with walkRes := tdel page k.walkRes })
    | none => (none, w.requestWalk c owner va true)

/-- One span of an engine access: physical address, length, key entry. -/
structure Span where
  pa : Nat
  len : Nat
  key : Nat
deriving DecidableEq, Repr

/-- What the translation of a range answers. -/
inductive Spans where
  | ok (w : Work) (l : List Span)
  /-- A walk is under way. -/
  | wait (w : Work)
  | fault (w : Work) (va : Nat)
  | access (w : Work)

/-- Translate a virtual range for an engine, page by page. -/
def Work.spans (w : Work) (c : Nat) (g : Group) (acc : Acc) (ord : Bool) (va n : Nat) :
    Nat → List Span → Spans
  | 0, l => .ok w l
  | fuel + 1, l =>
    if n = 0 then .ok w l
    else
      let va := va % 2 ^ 52
      let t := w.engTranslate c g.owner va
      match t.1 with
      | none => .wait t.2
      | some .pageFault => .fault t.2 va
      | some .accessFault => .access t.2
      | some (.leaf e) =>
        let len := min n (65536 - va % 65536)
        let pa := e.phys va
        let ok := match w.place pa with
          | .near _ _ _ => true
          | .far _ _ => !ord
          | .host off => decide (acc ≠ .atomic) && w.hostMay g off len
          | .fabric _ _ => decide (acc ≠ .atomic)
          | _ => false
        if t.2.permits g e acc && ok then
          t.2.spans c g acc ord (va + len) (n - len) fuel (l ++ [{ pa, len, key := e.key }])
        else .access t.2

/-- All spans of a range. -/
def Work.spansOf (w : Work) (c : Nat) (g : Group) (acc : Acc) (ord : Bool) (va n : Nat) : Spans :=
  w.spans c g acc ord va n (n / 65536 + 2) []

/-- The lines of a span. -/
def Span.lines (s : Span) : List Nat :=
  upto ((s.pa + s.len + 127) / 128 - s.pa / 128) (s.pa / 128)

/-- A line that an engine of a core has asked for: unit 64 is the copy engine, 65 the sweep engine, whose
fills carry the tag of their tensor. -/
def Fill.ofEngine (f : Fill) (u tag : Nat) : Bool :=
  f.req.eng && f.load.isNone && decide (f.req.slot = u) && decide (f.req.gidx = tag)

/-- R212: the data of a line that an engine of a core has asked for. -/
def Core.engineLine (k : Core) (u line : Nat) (tag : Nat := 0) : Option (Nat × Fill) :=
  k.fills.find? fun f => f.2.ofEngine u tag && decide (f.2.req.line = line)

/-- The fills of an engine that a property picks are used up. -/
def Core.engineDrop (k : Core) (u tag : Nat) (p : Nat → Bool) : Core :=
  { k with fills := k.fills.filter fun f => !(f.2.ofEngine u tag && p f.2.req.line) }

/-- R209, R62: the first line of some spans in near memory that holds an uncorrectable error. -/
def Work.badLine (w : Work) (l : List Span) : Option Nat :=
  (l.flatMap Span.lines).find? w.lineUpset

/-- The engines proper, 64 and 65, reach all memory through packets (R359); the distributor and what
saves teams, for which R358 names no port, reach near memory at its home (log 18). -/
def packeted (u : Nat) : Bool := decide (u < 66)

/-- An engine reads a span at its home, through no packet. -/
def Work.readsHome (w : Work) (u : Nat) (s : Span) : Bool := !packeted u && (w.place s.pa).isNear

/-- Read spans for an engine through requests, or near memory at its home. None while data is still to
come; the flag tells of a data error, which is logged (R415). The lines that have come stay the engine's. -/
def Work.engineLook (w : Work) (c u launch lin pri : Nat) (ef : Bool) (l : List Span)
    (tag : Nat := 0) : Work × Option (List Byte × Bool) :=
  let home := fun (w : Work) (s : Span) => w.readsHome u s
  let far := (l.filter fun s => !home w s).flatMap fun s => s.lines.map fun n =>
    (n, s.key, (upto s.len s.pa).filter fun a => decide (a / 128 = n))
  let ask := far.filter fun n => ((w.core c).engineLine u n.1 tag).isNone
  let w := ask.foldl (fun w n =>
    let o := w.newOp c
    let r : Req :=
      { core := c, slot := u, launch, lin, gidx := tag, line := n.1, ef, ms := false, eng := true
        counted := false, key := n.2.1, pri, op := o.1, kind := .fill false false n.2.2 }
    let f : Fill := { req := r, load := none, install := false, overlay := [], data := none, bad := false }
    (o.2.modCore c fun k => { k with fills := tins o.1 f k.fills }).request r) w
  let have_ := far.all fun n =>
    match (w.core c).engineLine u n.1 tag with
    | some f => f.2.data.isSome
    | none => false
  if !have_ then (w, none)
  else
    let r := l.foldl (fun (q : Work × List Byte × Bool) s =>
      if home q.1 s then
        let x := q.1.homeRead s.key ef s.pa s.len
        (x.2, q.2.1 ++ x.1, q.2.2)
      else
        let k := q.1.core c
        let byte := fun a =>
          match k.engineLine u (a / 128) tag with
          | some f => getByte (f.2.data.getD 0) (a % 128)
          | none => 0
        let bad := s.lines.any fun n =>
          match k.engineLine u n tag with
          | some f => f.2.bad
          | none => false
        (q.1, q.2.1 ++ (upto s.len s.pa).map byte, q.2.2 || bad)) (w, [], false)
    let w := r.1
    match w.badLine (l.filter (home w)) with
    | some n => (w.logLine n, some (r.2.1, true))
    | none => (w, some (r.2.1, r.2.2))

/-- The same, the lines being used up by the read. -/
def Work.engineRead (w : Work) (c u launch lin pri : Nat) (ef : Bool) (l : List Span) :
    Work × Option (List Byte × Bool) :=
  match w.engineLook c u launch lin pri ef l with
  | (w, some r) =>
    (w.modCore c fun k => k.engineDrop u 0 ((l.filter fun s => !w.readsHome u s).flatMap Span.lines).contains,
      some r)
  | r => r

/-- Bytes laid over spans. -/
def spanCells : List Span → List Byte → List (Nat × List Host.Cell)
  | [], _ => []
  | s :: t, l =>
    (s.key, (l.take s.len).mapIdx fun i b => (s.pa + i, b)) :: spanCells t (l.drop s.len)

/-- R407: a line of some bytes is shared out, so that a device write to it is held at its slice. -/
def Work.anyShared (w : Work) (l : List Host.Cell) : Bool :=
  l.any fun c => w.sharedOut.contains (c.1 / 128)

/-- Write spans for an engine of a team through requests, whose operation numbers are returned; their
sectors are merged when they have been performed (R196). -/
def Work.engineWrite (w : Work) (c u launch lin pri : Nat) (ef : Bool) (l : List Span)
    (data : List Byte) : Work × List Nat :=
  (spanCells l data).foldl (fun (q : Work × List Nat) x =>
    match x.2 with
    | [] => q
    | b :: _ =>
      if !packeted u && (q.1.place b.1).isNear && !q.1.anyShared x.2 then
        ((q.1.homeWrite x.1 ef x.2).mergeSectors launch lin (sectorsOf x.2), q.2)
      else
        (x.2.map fun y => y.1 / 128).eraseDups.foldl (fun (q : Work × List Nat) line =>
          let g := { Group.blank with launch, lin, pri }
          let o := q.1.startStore c u g 1 []
          let r : Req :=
            { core := c, slot := u, launch, lin, gidx := 0, line, ef, ms := false, eng := true
              counted := false, key := x.1, pri, op := o.1
              kind := .store (x.2.filter fun y => decide (y.1 / 128 = line)) }
          (o.2.request r, q.2 ++ [o.1])) q) (w, [])

/-! ## COPYKICK (R233) -/

/-- R276: COPY in a sweep routine. -/
def copyNeed (g : Group) (l : List Use) : Need := { ctx := notRoutine g, reads := l }

/-- R222: an ordered form in a handler group addressed to a core raises reason 6. -/
def kickNeed (g : Group) (ord : Bool) (l : List Use) : Need :=
  { copyNeed g l with ctx := notRoutine g && (!ord || decide (g.kind ≠ .handlerCore)) }

/-- A record in SBUF. -/
def Core.copyRec (k : Core) (a : Nat) : CopyRec := BitVec.ofNat 256 (k.bufNum 3 a 32)

/-- R234: fields of a copy record. -/
def crBits (r : CopyRec) (hi lo : Nat) : Nat := r.toNat / 2 ^ lo % 2 ^ (hi - lo + 1)

/-- A typed-buffer access of the group is still to be performed. -/
def Core.bufBusy (k : Core) (slot : Nat) : Bool := k.taccs.any fun t => decide (t.2.slot = slot)

/-- R233: the checks, a place in the queue, and the records, four of which SBUF gives in a core
cycle (R56): the group is held at issue until they are read. -/
def copyKick (x : BitVec 32) (g : BitVec 2) (a b : BitVec 6) (ord : Bool) (s : State) :
    Host.Outcome State Fault Refusal :=
  issue (wordForm x g none wtScalar) (fun _ gr => kickNeed gr ord [useS a.toNat, useS b.toNat])
    (fun w c slot gr =>
      let n := (gr.s b.toNat).toNat
      let off := (gr.s a.toNat).toNat
      if n < 1 ∨ 256 < n then .illegal 6
      else if off % 32 ≠ 0 then .trap 0x09 (natWord off) 0
      else
        match w.space c gr 3 with
        | none => .trap 0x09 (natWord off) 0
        | some (hc, base, size) =>
          if size < off + 32 * n then .trap 0x09 (natWord off) 0
          else if (w.core c).bufBusy slot then .hold w gr none
          else
            w.ranked hc 1 gr fun w =>
            w.readRows hc gr 7 (upto (32 * n) (base + off)) <|
            let recs := (upto n).map fun i => (w.core hc).copyRec (base + off + 32 * i)
            match recs.find? fun r => decide (size < 8 * crBits r 238 224 + 8) with
            | some r => .trap 0x09 (natWord (8 * crBits r 238 224)) 0
            | none =>
              let k := w.core c
              if 64 ≤ k.kicks.length then .hold w gr none
              else if 4 * (gr.half + 1) < n then .hold w { gr with half := gr.half + 1 } none
              else
                let kick : Kick :=
                  { launch := gr.launch, lin := gr.lin, gidx := gr.keyIdx slot, slot
                    sup := decide (gr.kind = .supervisor), owner := gr.owner, pri := gr.prio
                    recs, ord, seq := w.msgSeq * 2 ^ 48, fault := none, row := 0
                    pend := [], num := k.kickSeq }
                .done (w.tick.2.setCore c { k with kicks := k.kicks ++ [kick], kickSeq := k.kickSeq + 1 })
                  gr) s

def execCopykickOrd (g : BitVec 2) (a b : BitVec 6) (s : State) :
    Host.Outcome State Fault Refusal :=
  copyKick (wCopykickOrd g a b) g a b true s

def execCopykickAny (g : BitVec 2) (a b : BitVec 6) (s : State) :
    Host.Outcome State Fault Refusal :=
  copyKick (wCopykickAny g a b) g a b false s

/-! ## CDINIT, YIELDC (R237, R238) -/

/-- The absolute SBUF address of an 8-byte object of the team, if it lies in the allotment. -/
def Work.cdObject (w : Work) (c : Nat) (g : Group) (off : Nat) : Option (Nat × Nat) :=
  match w.space c g 3 with
  | some (hc, base, size) =>
    if off % 8 = 0 ∧ off + 8 ≤ size then some (hc, base + off) else none
  | none => none

def execCdinit (g : BitVec 2) (a b : BitVec 6) (s : State) : Host.Outcome State Fault Refusal :=
  issue (wordForm (wCdinit g a b) g none 100)
    (fun _ gr => copyNeed gr [useS a.toNat, useS b.toNat])
    (fun w c slot gr =>
      let off := (gr.s a.toNat).toNat
      if 63 ≤ gr.tc then .hold w gr none
      else
        match w.cdObject c gr off with
        | none => .trap 0x09 (natWord off) 0
        | some (hc, at_) =>
          let o := w.newOp c
          let t : TAccess :=
            { slot, store := true, buf := 3, code := 5, core := hc, addr := [(0, at_)], reg := 0
              bank := false, lanes := 1
              vals := [(0, natWord ((gr.s b.toNat).toNat % 2 ^ 40))], hi := [] }
          .done (o.2.modCore c fun z => { z with taccs := z.taccs ++ [(o.1, t)] })
            { gr with tc := gr.tc + 1 }) s

/-- R238. Where both the continuation is odd and the offset is bad, the instruction-alignment trap
is raised: the rules give no order (DESIGN CHOICE, log 21). -/
def execYieldc (g : BitVec 2) (a b : BitVec 6) (s : State) : Host.Outcome State Fault Refusal :=
  issue (wordForm (wYieldc g a b) g none wtScalar)
    (fun _ gr => copyNeed gr [useS a.toNat, useS b.toNat])
    (fun w c slot gr =>
      let off := (gr.s a.toNat).toNat
      let target : Pc := (gr.s b.toNat).truncate 52
      if target.getLsbD 0 then .trap 0x05 (zext64 target) 0
      else
        match w.cdObject c gr off with
        | none => .trap 0x09 (natWord off) 0
        | some (hc, at_) =>
          if (w.core c).bufBusy slot then .hold w gr none
          else
            w.ranked hc (unitPlace slot) gr fun w =>
            w.readRows hc gr 7 (upto 8 at_) <|
            if (w.core hc).remain at_ = 0 then .jump w gr target
            else .wait w gr (.yieldc off target)) s

/-! ## The copy engine (R233 to R236) -/

/-- R234: the two sides of a record: kind, address, stride. -/
structure Side where
  kind : Nat
  addr : Nat
  stride : Int

def srcSide (r : CopyRec) : Side :=
  { kind := crBits r 54 52, addr := crBits r 51 0, stride := (r.extractLsb' 160 32).toInt }

def dstSide (r : CopyRec) : Side :=
  { kind := crBits r 110 108, addr := crBits r 107 56, stride := (r.extractLsb' 192 32).toInt }

def crLen (r : CopyRec) : Nat := crBits r 143 112
def crRows (r : CopyRec) : Nat := crBits r 159 144 + 1
def crBytes (r : CopyRec) : Nat := crLen r * crRows r
def crOp (r : CopyRec) : Nat := crBits r 241 240
def crEty (r : CopyRec) : Nat := crBits r 243 242
def crOrd (r : CopyRec) : Bool := crBits r 244 244 = 1
def crEf (r : CopyRec) : Bool := crBits r 245 245 = 1
def crObj (r : CopyRec) : Nat := 8 * crBits r 238 224

/-- The buffer number of a side's kind: 0 WBUF, 1 ABUF, 2 CBUF, 3 SBUF. -/
def Side.buf (s : Side) : Nat := s.kind - 1

/-- R234 to R236: what makes a record malformed. -/
def crMalformed (r : CopyRec) (ord : Bool) : Bool :=
  let s := srcSide r
  let d := dstSide r
  let len := crLen r
  let z := etySize (crEty r)
  crBits r 55 55 ≠ 0 || crBits r 111 111 ≠ 0 || crBits r 239 239 ≠ 0 || crBits r 255 246 ≠ 0 ||
    decide (5 ≤ s.kind) || decide (5 ≤ d.kind) || decide (2 ≤ crOp r) || len = 0 ||
    ((s.kind = 3 || d.kind = 3) && decide (len % 8 ≠ 0)) ||
    (crOp r = 1 &&
      (decide (d.kind ≠ 0) || decide (len % z ≠ 0) || decide (d.addr % z ≠ 0) ||
        decide (d.stride % (z : Int) ≠ 0) || (ord && !crOrd r)))

/-- The address of a side in a row; below 0 it lies outside every allotment. -/
def Side.rowAt (s : Side) (row : Nat) : Int := s.addr + s.stride * row

/-- R57: the offset of a row of a buffer side, if it lies in the allotment of `size` units. -/
def Side.inAllot (s : Side) (row len size : Nat) : Option Nat :=
  let a := s.rowAt row
  let n := if s.kind = 3 then len / 8 else len
  if 0 ≤ a ∧ a.toNat + n ≤ size then some a.toNat else none

/-- Where a kick's team has a buffer. -/
def Work.kickSpace (w : Work) (c : Nat) (x : Kick) (buf : Nat) : Option (Nat × Nat × Nat) :=
  w.space c { engineGroup x.sup x.owner with launch := x.launch, lin := x.lin } buf

/-- Outcome of one row. -/
inductive RowEnd where
  | ok (w : Work) (x : Kick)
  | wait (w : Work) (x : Kick)
  /-- A page fault: the detail word of R331. -/
  | fault (w : Work) (x : Kick) (va : Nat) (write : Bool)
  | error (w : Work) (x : Kick) (code : Nat)

/-- The bytes of a row of the source. -/
def Work.rowRead (w : Work) (c : Nat) (x : Kick) (r : CopyRec) (k : List Byte → Work → RowEnd) :
    RowEnd :=
  let s := srcSide r
  let len := crLen r
  if s.kind = 0 then
    match w.spansOf c (engineGroup x.sup x.owner) .load false (s.rowAt x.row % 2 ^ 52).toNat len with
    | .fault w va => .fault w x va false
    | .wait w => .wait w x
    | .access w => .error w x 1
    | .ok w l =>
      match w.engineRead c 64 x.launch x.lin x.pri (crEf r) l with
      | (w, none) => .wait w x
      | (w, some (b, bad)) => if bad then .error w x 5 else k b w
  else
    match w.kickSpace c x s.buf with
    | none => .error w x 3
    | some (hc, base, size) =>
      match s.inAllot x.row len size with
      | none => .error w x 3
      | some off =>
        let m := w.core hc
        let n := if s.kind = 3 then len / 8 else len
        match m.upsetRow (4 + s.buf) (upto n (base + off)) with
        | some row => .error (w.logError (4 + s.buf) true hc row 0) x 5
        | none =>
        if s.kind = 3 then
          k ((upto (len / 8) (base + off)).flatMap fun a => leBytes 8 (m.cell a).toNat) w
        else k ((upto len (base + off)).map (m.bufByte s.buf)) w

/-- The elements of a row, with their offsets. -/
def elements (z : Nat) (l : List Byte) : List (Nat × Nat) :=
  (upto (l.length / z)).map fun i => (z * i, leNat ((l.drop (z * i)).take z))

/-- R235: the request that adds an element, as RED would make it: in arrival order at its home, or to
the updates that the memory-side unit holds. -/
def Work.elementAdd (w : Work) (c : Nat) (x : Kick) (r : CopyRec) (key a v seq : Nat) : Nat × Work :=
  let e := crEty r
  let z := etySize e
  let o := w.startStore c 64 { Group.blank with launch := x.launch, lin := x.lin } 1 []
  let q : Req :=
    { core := c, slot := 64, launch := x.launch, lin := x.lin, gidx := x.gidx, line := a / 128
      ef := crEf r, ms := false, eng := true, counted := false, key, pri := x.pri, op := o.1
      kind :=
        if crOrd r then .ordered false e z [{ addr := a, lane := 64, seq, operand := natWord v }]
        else .atomic (if e = 1 ∨ e = 3 then 8 else 0) z false [(0, a, natWord v, 0)] }
  (o.1, o.2.request q)

/-- R235: accumulate a row into global memory. -/
def Work.rowAdd (w : Work) (c : Nat) (x : Kick) (r : CopyRec) (data : List Byte) (l : List Span) :
    RowEnd :=
  let els := ((spanCells l data).flatMap fun s => (elements (etySize (crEty r)) (s.2.map Prod.snd)).map
    fun e => (s.1, (s.2.head?.map Prod.fst).getD 0 + e.1, e.2))
  let q := els.foldl (fun (q : Work × Nat × List Nat) e =>
    let n := q.1.elementAdd c x r e.1 e.2.1 e.2.2 q.2.1
    (n.2, q.2.1 + 1, q.2.2 ++ [n.1])) (w, x.seq, [])
  .ok q.1 { x with seq := q.2.1, pend := x.pend ++ q.2.2 }

/-- Write a row of the destination. Bytes in the control area of a ring are discarded (R29). -/
def Work.rowWrite (w : Work) (c : Nat) (x : Kick) (r : CopyRec) (data : List Byte) : RowEnd :=
  let d := dstSide r
  let len := crLen r
  let add := decide (crOp r = 1)
  if d.kind = 0 then
    match w.spansOf c (engineGroup x.sup x.owner) (if add then .atomic else .store)
        (add && crOrd r) (d.rowAt x.row % 2 ^ 52).toNat len with
    | .fault w va => .fault w x va true
    | .wait w => .wait w x
    | .access w => .error w x 1
    | .ok w l =>
      if add then w.rowAdd c x r data l
      else
        let q := w.engineWrite c 64 x.launch x.lin x.pri (crEf r) l data
        .ok q.1 { x with pend := x.pend ++ q.2 }
  else
    match w.kickSpace c x d.buf with
    | none => .error w x 3
    | some (hc, base, size) =>
      match d.inAllot x.row len size with
      | none => .error w x 3
      | some off =>
        if d.kind = 3 then
          .ok (w.modCore hc fun m =>
            (elements 8 data).foldl (fun m e =>
              m.setCell (base + off + e.1 / 8) (BitVec.ofNat 40 e.2)) m) x
        else
          .ok (w.modCore hc fun m =>
            (data.mapIdx fun i b => (base + off + i, b)).foldl (fun m e =>
              if decide (d.kind = 4) && w.ringByte hc e.1 then m
              else m.setBufByte d.buf e.1 e.2) m) x

/-- One row of the present record. -/
def Work.copyRow (w : Work) (c : Nat) (x : Kick) (r : CopyRec) : RowEnd :=
  match w.rowRead c x r fun data w => w.rowWrite c x r data with
  | .ok w x =>
    let moved := fun n => (n * crLen r + 127) / 128
    .ok (w.debits c (moved (x.row + 1) - moved x.row) 200) { x with row := x.row + 1 }
  | e => e

/-- Rows of the present record until its end or a stop. -/
def Work.copyRows (w : Work) (c : Nat) (x : Kick) (r : CopyRec) : Nat → RowEnd
  | 0 => .ok w x
  | n + 1 =>
    match w.copyRow c x r with
    | .ok w x => w.copyRows c x r n
    | e => e

/-- R236: counting the bytes of a record would take REMAIN below 0. -/
def Work.countShort (w : Work) (c : Nat) (x : Kick) (r : CopyRec) : Bool :=
  match w.kickSpace c x 3 with
  | none => false
  | some (hc, base, _) => decide ((w.core hc).remain (base + crObj r) < crBytes r)

/-- R236: the object of a record: bytes counted, or an error recorded. -/
def Work.countDown (w : Work) (c : Nat) (x : Kick) (r : CopyRec) (code : Nat) : Work :=
  match w.kickSpace c x 3 with
  | none => w
  | some (hc, base, _) =>
    let a := base + crObj r
    let v := (w.core hc).bufNum 3 a 8
    let remain := v % 2 ^ 40
    let err := v / 2 ^ 40 % 256
    let rest := if code = 0 then remain - crBytes r else 0
    let err := if err = 0 then code else err
    (w.modCore hc fun m =>
      m.setBufNum 3 a 8 (rest + err * 2 ^ 40 + v / 2 ^ 48 * 2 ^ 48) (w.ringByte hc)).yieldTest hc

/-- R236: a record ends with an error; the later records of the kick are abandoned. -/
def Work.copyFail (w : Work) (c : Nat) (x : Kick) (code : Nat) : Work :=
  match x.recs with
  | [] => w
  | r :: rest =>
    let w := rest.foldl (fun w r => w.countDown c x r 6) (w.countDown c x r code)
    w.modCore c fun k => { k with copying := none }

/-- R339: the team of a kick is being saved: none of its records starts any more. -/
def Work.kickHeld (w : Work) (x : Kick) : Bool :=
  !x.sup && ((w.team x.launch x.lin).map (·.saving)).getD false

/-- The kick goes on to its next record, or ends. A save of its team takes it off the engine. -/
def Work.copyNext (w : Work) (c : Nat) (x : Kick) : Work :=
  let next : Option Kick :=
    match x.recs with
    | _ :: r :: rest => some { x with recs := r :: rest, row := 0, pend := [] }
    | _ => none
  w.modCore c fun k =>
    if w.kickHeld x then { k with copying := none, kicks := next.toList ++ k.kicks }
    else { k with copying := next }

/-- R342: a takeback delays the copy engine. -/
def Core.copyDelayed (k : Core) : Bool := decide (k.cycle < k.copyHold)

/-- R233: the engine takes the next kick. -/
def execCopyKickStart (core : Nat) (s : State) : Host.Outcome State Fault Refusal :=
  event s fun w =>
    if (w.core core).copyDelayed then w
    else
      w.modCore core fun k =>
        match k.copying, k.kicks.find? fun x => !w.kickHeld x with
        | none, some x => { k with copying := some x, kicks := k.kicks.erase x }
        | _, _ => k

/-- R234 to R236: the present record runs as far as it can, and completes. -/
def execCopyRecordDone (core : Nat) (s : State) : Host.Outcome State Fault Refusal :=
  event s fun w =>
    match (w.core core).copying with
    | none => w
    | some x =>
      match x.recs with
      | [] => w.modCore core fun k => { k with copying := none }
      | r :: _ =>
        let open_ := fun (w : Work) (x : Kick) =>
          x.pend.any fun op => (w.core core).stores.any fun p => decide (p.1 = op)
        if x.fault.isSome || (w.core core).copyDelayed then w
        else if x.failed ≠ 0 then (if open_ w x then w else w.copyFail core x x.failed)
        else if crMalformed r x.ord then w.copyFail core x 4
        else
          let keep := fun (w : Work) (x : Kick) =>
            w.modCore core fun k => { k with copying := some x }
          match w.copyRows core x r (crRows r - x.row) with
          | .wait w x => keep w x
          | .fault w x va write =>
            keep (w.supEvent core 2 x.slot 0 0 (natWord (va + if write then 2 ^ 63 else 0)))
              { x with fault := some va }
          | .error w x code =>
            -- R196, R236: what the record has written is performed first
            if open_ w x then keep w { x with failed := code } else w.copyFail core x code
          | .ok w x =>
            if open_ w x then keep w x
            else if w.countShort core x r then w.copyFail core x 2
            else (w.countDown core x r 0).copyNext core x

/-! ## Retention windows (R239, R240, R366) -/

/-- R240, R366: release a window of a die. -/
def Die.unpin (d : Die) (k : Nat) : Die := { d with rtw := tdel k d.rtw }

/-- R366: the `n` highest-numbered ways that no window holds, in ascending order. -/
def Die.freeWays (d : Die) (n : Nat) : List Nat :=
  let held := d.rtw.flatMap fun p => p.2.ways
  (((upto 16).reverse.filter fun x => !held.contains x).take n).reverse

/-- The outcome of PIN and UNPIN in SFL, at issue. -/
def Group.sflNow (g : Group) (f : BitVec 4) : Group := g.putSfl f

def execPin (g : BitVec 2) (k : BitVec 2) (n : BitVec 3) (a b : BitVec 6) (s : State) :
    Host.Outcome State Fault Refusal :=
  issue (wordForm (wPin g k n a b) g none wtScalar)
    (fun _ gr => { copyNeed gr [useS a.toNat, useS b.toNat] with writes := [useF] })
    (fun w c slot gr =>
      let va := (gr.s a.toNat).toNat
      let len := (gr.s b.toNat).toNat
      let bad := Res.trap 0x08 (natWord (va % 2 ^ 52)) 0
      if va % 4096 ≠ 0 ∨ len % 4096 ≠ 0 ∨ len < 4096 ∨ 2 ^ 30 < len then bad
      else
        let va := va % 2 ^ 52
        let t := w.translate c gr.owner va gr.walked
        let w := t.2
        match t.1 with
        | .miss => .hold (w.requestWalk c gr.owner va) gr (some (.walk gr.owner (va / 65536)))
        | .pageFault => pageFaultRes w c slot { gr with walked := [] } va false 0
        | .accessFault => bad
        | .page e =>
          let size := 2 ^ pageBits e.size
          if !w.permits gr e .load || decide (size < va % size + len) then bad
          else
            let d := w.die (Config.dieOf c)
            let ki := k.toNat
            let ways := n.toNat + 1
            let other := match tfind ki d.rtw with
              | some x => decide (x.launch ≠ gr.launch)
              | none => false
            let d' := d.unpin ki
            let used := d'.rtw.foldl (fun m p => m + p.2.n) 0
            if other then .done w (gr.sflNow (mkSfl false false true false))
            else if 12 < used + ways then .done w (gr.sflNow 0)
            else
              let x : Rtw :=
                { launch := gr.launch, n := ways, ways := d'.freeWays ways, base := e.phys va, len }
              .done (w.setDie (Config.dieOf c) { d' with rtw := tins ki x d'.rtw })
                (gr.sflNow (mkSfl true false false false))) s

def execUnpin (g : BitVec 2) (k : BitVec 2) (s : State) : Host.Outcome State Fault Refusal :=
  issue (wordForm (wUnpin g k) g none wtScalar)
    (fun _ gr => { copyNeed gr [] with writes := [useF] })
    (fun w c _ gr =>
      let dn := Config.dieOf c
      let mine := match tfind k.toNat (w.die dn).rtw with
        | some x => decide (x.launch = gr.launch)
        | none => false
      .done (if mine then w.modDie dn (·.unpin k.toNat) else w)
        (gr.sflNow (mkSfl mine false false false))) s

end Sys2Proof.Machine
end

