-- ==== Sys2Proof/Machine/CrossLane.lean ====
section
/-!
DEFINITION. Cross-lane instructions and lane moves: majors 0x16 and 0x17 (R172 to R179).
-/

namespace Sys2Proof.Machine

/-! ## Permutes (R173, R174) -/

/-- R173: active lane l receives va from lane `j l`, or the fill: 0, or the old vd when `keep`. -/
def permute (x : BitVec 32) (g : BitVec 2) (d a : BitVec 6) (b : Src) (codes : Bool)
    (ctx : Group → Bool) (keep : Bool) (j : Group → Nat → Nat) (s : State) :
    Host.Outcome State Fault Refusal :=
  issueLocal (wordForm x g (some Lxl) wtXl)
    (fun gr =>
      { codes, ctx := ctx gr, regs := gr.hasV d.toNat && gr.hasV a.toNat && b.ok gr
        reads := useVL gr a.toNat :: b.uses gr ++ if keep then [useV gr d.toNat] else []
        writes := [useV gr d.toNat] })
    (fun gr =>
      gr.flyV Lxl d.toNat gr.exec fun l =>
        let q := j gr l
        if q < gr.width ∧ bit gr.live q then gr.v a.toNat q
        else if keep then gr.v d.toNat l else 0) s

/-- R146: a literal below W. -/
def litOk (n : Nat) (g : Group) : Bool := decide (n < g.width)

/-- R174: W >> k. -/
def offW (k : BitVec 3) (g : Group) : Nat := g.width / 2 ^ k.toNat

def execVperm (g : BitVec 2) (d a b : BitVec 6) (s : State) : Host.Outcome State Fault Refusal :=
  permute (wVperm g d a b) g d a (.vec b.toNat) true (fun _ => true) false
    (fun gr l => (gr.v b.toNat l).toNat) s

def execVshfl (g : BitVec 2) (d a n : BitVec 6) (s : State) : Host.Outcome State Fault Refusal :=
  permute (wVshfl g d a n) g d a .none true (litOk n.toNat) false
    (fun _ l => l ^^^ n.toNat) s

def execVshflW (g : BitVec 2) (d a : BitVec 6) (k : BitVec 3) (s : State) :
    Host.Outcome State Fault Refusal :=
  permute (wVshflW g d a k) g d a .none (decide (k.toNat ≤ 5)) (fun _ => true) false
    (fun gr l => l ^^^ offW k gr) s

def execVrot (g : BitVec 2) (d a n : BitVec 6) (s : State) : Host.Outcome State Fault Refusal :=
  permute (wVrot g d a n) g d a .none true (litOk n.toNat) false
    (fun gr l => (l + n.toNat) % gr.width) s

def execVrotW (g : BitVec 2) (d a : BitVec 6) (k : BitVec 3) (s : State) :
    Host.Outcome State Fault Refusal :=
  permute (wVrotW g d a k) g d a .none (decide (k.toNat ≤ 5)) (fun _ => true) false
    (fun gr l => (l + offW k gr) % gr.width) s

def execVbcast (g : BitVec 2) (d a n : BitVec 6) (s : State) : Host.Outcome State Fault Refusal :=
  permute (wVbcast g d a n) g d a .none true (litOk n.toNat) false
    (fun _ _ => n.toNat) s

def execVpermK (g : BitVec 2) (d a b : BitVec 6) (s : State) : Host.Outcome State Fault Refusal :=
  permute (wVpermK g d a b) g d a (.vec b.toNat) true (fun _ => true) true
    (fun gr l => (gr.v b.toNat l).toNat) s

def execVshflK (g : BitVec 2) (d a n : BitVec 6) (s : State) : Host.Outcome State Fault Refusal :=
  permute (wVshflK g d a n) g d a .none true (litOk n.toNat) true
    (fun _ l => l ^^^ n.toNat) s

def execVshflKW (g : BitVec 2) (d a : BitVec 6) (k : BitVec 3) (s : State) :
    Host.Outcome State Fault Refusal :=
  permute (wVshflKW g d a k) g d a .none (decide (k.toNat ≤ 5)) (fun _ => true) true
    (fun gr l => l ^^^ offW k gr) s

def execVrotK (g : BitVec 2) (d a n : BitVec 6) (s : State) : Host.Outcome State Fault Refusal :=
  permute (wVrotK g d a n) g d a .none true (litOk n.toNat) true
    (fun gr l => (l + n.toNat) % gr.width) s

def execVrotKW (g : BitVec 2) (d a : BitVec 6) (k : BitVec 3) (s : State) :
    Host.Outcome State Fault Refusal :=
  permute (wVrotKW g d a k) g d a .none (decide (k.toNat ≤ 5)) (fun _ => true) true
    (fun gr l => (l + offW k gr) % gr.width) s

def execVbcastK (g : BitVec 2) (d a n : BitVec 6) (s : State) : Host.Outcome State Fault Refusal :=
  permute (wVbcastK g d a n) g d a .none true (litOk n.toNat) true
    (fun _ _ => n.toNat) s

/-! ## Reductions and scans (R175 to R177) -/

/-- R177: the operands are pairs. -/
def redWide (p : Nat) : Bool := decide (12 ≤ p)

/-- R177: the floating format of an operation code, if it has one. -/
def redFmt (p : Nat) : Option FFmt :=
  if 12 ≤ p then some F64 else if 8 ≤ p then some F32 else none

/-- R177: comb of two present terms. -/
def comb (p mode : Nat) (x y : Word) : Word × BitVec 7 :=
  let a : Lane := x.truncate 32
  let b : Lane := y.truncate 32
  let f := (redFmt p).getD F32
  match p with
  | 0 => (zext64 (a + b), 0)
  | 1 => (zext64 (minS a b), 0)
  | 2 => (zext64 (maxS a b), 0)
  | 3 => (zext64 (minU a b), 0)
  | 4 => (zext64 (maxU a b), 0)
  | 5 => (x &&& y, 0)
  | 6 => (x ||| y, 0)
  | 7 => (x ^^^ y, 0)
  | 8 => (f.add mode x.toNat y.toNat).lane
  | 9 => (f.pick false x.toNat y.toNat).lane
  | 10 => (f.pick true x.toNat y.toNat).lane
  | 12 => (f.add mode x.toNat y.toNat).lane
  | 13 => (f.pick false x.toNat y.toNat).lane
  | _ => (f.pick true x.toNat y.toNat).lane

/-- R177: the empty result. -/
def redEmpty (p : Nat) : Word :=
  match p with
  | 1 => 0x7FFFFFFF
  | 2 => 0x80000000
  | 3 => 0xFFFFFFFF
  | 5 => 0xFFFFFFFF
  | 9 => BitVec.ofNat 64 F32.inf
  | 10 => BitVec.ofNat 64 (F32.signed true F32.inf)
  | 13 => BitVec.ofNat 64 F64.inf
  | 14 => BitVec.ofNat 64 (F64.signed true F64.inf)
  | _ => 0

/-- R177: comb with absent terms. -/
def combO (p mode : Nat) (x y : Option Word) : Option Word × BitVec 7 :=
  match x, y with
  | some a, some b => (some (comb p mode a b).1, (comb p mode a b).2)
  | some a, none => (some a, 0)
  | none, y => (y, 0)

/-- One level of the tree of R175: neighbours combine, the lower position first. -/
def pairUp (p mode : Nat) : List (Option Word) → List (Option Word) × BitVec 7
  | x :: y :: t =>
    let r := combO p mode x y
    let q := pairUp p mode t
    (r.1 :: q.1, r.2 ||| q.2)
  | l => (l, 0)

/-- R175: the tree; six levels serve every width. -/
def redTree (p mode : Nat) (t : List (Option Word)) : Option Word × BitVec 7 :=
  let r := (upto 6).foldl (fun (r : List (Option Word) × BitVec 7) _ =>
    let q := pairUp p mode r.1
    (q.1, r.2 ||| q.2)) (t, 0)
  (r.1.head?.getD none, r.2)

/-- R176: one step of the scan: every position from s takes in the one s below. -/
def scanStep (p mode s : Nat) (u : List (Option Word)) : List (Option Word) × BitVec 7 :=
  let r := List.zipWith (combO p mode) (List.replicate s none ++ u) u
  (r.map Prod.fst, r.foldl (fun f x => f ||| x.2) 0)

/-- R176. -/
def scanAll (p mode : Nat) (t : List (Option Word)) : List (Option Word) × BitVec 7 :=
  (upto 6).foldl (fun (r : List (Option Word) × BitVec 7) i =>
    let q := scanStep p mode (2 ^ i) r.1
    (q.1, r.2 ||| q.2)) (t, 0)

/-- R177: what is delivered: the empty result for an absent term, a canonical NaN for a NaN. -/
def redOut (p : Nat) (x : Option Word) : Word :=
  match x with
  | none => redEmpty p
  | some v =>
    match redFmt p with
    | some f => if (f.read v.toNat).isNan then BitVec.ofNat 64 f.nan else v
    | none => v

/-- R177: Invalid for a present signalling NaN. -/
def redSig (p : Nat) (t : List (Option Word)) : BitVec 7 :=
  match redFmt p with
  | some f => if t.any fun x => (x.map fun v => (f.read v.toNat).isSig).getD false then flNV else 0
  | none => 0

/-- The terms of a reduction: active lanes only. -/
def redTerms (gr : Group) (a : Src) : List (Option Word) :=
  (upto gr.width).map fun l => if bit gr.exec l then some (a.val gr l) else none

/-- VRED and VSCAN: `f` gives the delivered term of each lane, and the flags. When an enabled flag
is raised, ELANES names every active lane. -/
def reduceLanes (x : BitVec 32) (g : BitVec 2) (d a p : BitVec 6)
    (f : Nat → List (Option Word) → (Nat → Option Word) × BitVec 7) (s : State) :
    Host.Outcome State Fault Refusal :=
  let dd := side (redWide p.toNat) d.toNat
  let aa := side (redWide p.toNat) a.toNat
  issue (wordForm x g (some Lxl) wtXl)
    (fun _ gr => vNeed gr dd aa .none false (redDefined p))
    (fun w _ _ gr =>
      let t := redTerms gr aa
      let r := f (fmtRM gr.format) t
      withFlags w gr (r.2 ||| redSig p.toNat t) gr.exec fun gr =>
        gr.flyD Lxl dd gr.exec fun l => redOut p.toNat (r.1 l)) s

def execVred (g : BitVec 2) (d a p : BitVec 6) (s : State) : Host.Outcome State Fault Refusal :=
  reduceLanes (wVred g d a p) g d a p
    (fun m t => let r := redTree p.toNat m t; (fun _ => r.1, r.2)) s

def execVscan (g : BitVec 2) (d a p : BitVec 6) (s : State) : Host.Outcome State Fault Refusal :=
  reduceLanes (wVscan g d a p) g d a p
    (fun m t => let r := scanAll p.toNat m t; (fun l => (r.1[l]?).getD none, r.2)) s

/-! ## Ballot and vote (R178) -/

def execVballot (g : BitVec 2) (d a : BitVec 6) (s : State) : Host.Outcome State Fault Refusal :=
  issueLocal (wordForm (wVballot g d a) g (some Lxl) wtXl)
    (fun gr =>
      { regs := maskCode d.toNat && gr.hasV a.toNat, ctx := decide (d ≠ 8#6)
        reads := [useV gr a.toNat], writes := [useM d.toNat] })
    (fun gr =>
      gr.flyM Lxl d.toNat allLanes
        (maskOf fun l => bit gr.exec l && decide (gr.v a.toNat l ≠ 0))) s

/-- R178: 0 ALL, 1 SOME, 2 UNI. -/
def vote (mode : Nat) (vals : List Lane) : Bool :=
  match mode with
  | 0 => vals.all fun x => decide (x ≠ 0)
  | 1 => vals.any fun x => decide (x ≠ 0)
  | _ => vals.all fun x => decide (some x = vals.head?)

def execVvote (g : BitVec 2) (d a m : BitVec 6) (s : State) : Host.Outcome State Fault Refusal :=
  issueLocal (wordForm (wVvote g d a m) g (some Lxl) wtXl)
    (fun gr => vNeed gr (.vec d.toNat) (.vec a.toNat) .none false (decide (m.toNat ≤ 2)))
    (fun gr =>
      let r := vote m.toNat ((lanesOf gr.exec).map (gr.v a.toNat))
      gr.flyV Lxl d.toNat gr.exec fun _ => if r then 1 else 0) s

/-! ## Lane moves: major 0x17 (R179) -/

/-- One lane of a register (R103: the va of VMOVS). -/
def useLane (r n : Nat) : Use := { kind := .vector, reg := r, lanes := 1#64 <<< n }

/-- R179: a scalar from lane n of a register or pair; 0 when the lane is not live. -/
def vMovs (x : BitVec 32) (g : BitVec 2) (d a n : BitVec 6) (wide : Bool) (f : Word → Word)
    (s : State) : Host.Outcome State Fault Refusal :=
  let aa := side wide a.toNat
  issueLocal (wordForm x g (some Lint) wtInt)
    (fun gr =>
      { regs := aa.ok gr, ctx := litOk n.toNat gr
        reads := useLane a.toNat n.toNat :: if wide then [useLane (a.toNat + 1) n.toNat] else []
        writes := [useS d.toNat] })
    (fun gr =>
      gr.flyS Lint d.toNat (if bit gr.live n.toNat then f (aa.val gr n.toNat) else 0)) s

/-- R179: lane n of a register or pair takes a scalar, if it is live. -/
def vIns (x : BitVec 32) (g : BitVec 2) (d n b : BitVec 6) (wide : Bool) (s : State) :
    Host.Outcome State Fault Refusal :=
  let dd := side wide d.toNat
  issueLocal (wordForm x g (some Lint) wtInt)
    (fun gr =>
      { regs := dd.ok gr, ctx := litOk n.toNat gr, reads := [useS b.toNat]
        writes := useLane d.toNat n.toNat ::
          if wide then [useLane (d.toNat + 1) n.toNat] else [] })
    (fun gr => gr.flyD Lint dd ((1#64 <<< n.toNat) &&& gr.live) fun _ => gr.s b.toNat) s

def execVmovsN32 (g : BitVec 2) (d a n : BitVec 6) (s : State) : Host.Outcome State Fault Refusal :=
  vMovs (wVmovsN32 g d a n) g d a n false id s

def execVmovsI32 (g : BitVec 2) (d a n : BitVec 6) (s : State) : Host.Outcome State Fault Refusal :=
  vMovs (wVmovsI32 g d a n) g d a n false (fun x => sext64 (x.truncate 32 : Lane)) s

def execVmovsN64 (g : BitVec 2) (d a n : BitVec 6) (s : State) : Host.Outcome State Fault Refusal :=
  vMovs (wVmovsN64 g d a n) g d a n true id s

/-- R179: imm[5:0] lies in the va field, imm[11:6] in the vb field. -/
def execVmovl (g : BitVec 2) (d i j : BitVec 6) (s : State) : Host.Outcome State Fault Refusal :=
  vPlain (wordForm (wVmovl g d i j) g (some Lint) wtInt) Lint (.vec d.toNat) .none .none false true
    (fun _ _ _ => zext64 ((j ++ i).signExtend 32)) s

def execVinsN32 (g : BitVec 2) (d n b : BitVec 6) (s : State) : Host.Outcome State Fault Refusal :=
  vIns (wVinsN32 g d n b) g d n b false s

def execVinsN64 (g : BitVec 2) (d n b : BitVec 6) (s : State) : Host.Outcome State Fault Refusal :=
  vIns (wVinsN64 g d n b) g d n b true s

def execVlane (g : BitVec 2) (d : BitVec 6) (s : State) : Host.Outcome State Fault Refusal :=
  issueLocal (wordForm (wVlane g d) g (some Lint) wtInt)
    (fun gr => { regs := gr.hasV d.toNat, writes := [useV gr d.toNat] })
    (fun gr => gr.flyV Lint d.toNat gr.exec fun l => BitVec.ofNat 32 l) s

end Sys2Proof.Machine
end

