-- ==== Sys2Proof/Machine/Matrix.lean ====
section
/-!
DEFINITION. The MX and MXCTL majors and the matrix engine (R79 to R83, R246 to R267).
-/

namespace Sys2Proof.Machine

/-! ## Element formats and shapes (R48, R249 to R251) -/

/-- Bytes of an operand element of an AFMT or BFMT code. -/
def elemBytes (code : Nat) : Nat := if code < 4 then 1 else 2

/-- R79: the K-block size of an AFMT code. -/
def blockSize (code : Nat) : Nat := if code < 4 then 16 else 8

/-- R249: the K limit. -/
def kLimit (code : Nat) : Nat := if code < 4 then 128 else 64

/-- R251: vector registers that K elements of A span. -/
def spanRegs (code k : Nat) : Nat := if elemBytes code = 1 then (k + 3) / 4 else (k + 1) / 2

/-- R249: the legal pairings. -/
def pairingOk (f : BitVec 32) : Bool :=
  let a := fmtAFMT f
  let b := fmtBFMT f
  match a, b with
  | 0, 0 => !fmtACC f
  | 0, 1 => !fmtACC f
  | 1, 0 => !fmtACC f
  | 1, 1 => !fmtACC f
  | 2, 2 => fmtACC f && decide (fmtSCM f = 0)
  | 3, 2 => fmtACC f && decide (fmtSCM f = 0)
  | 2, 3 => fmtACC f && decide (fmtSCM f = 0)
  | 4, 4 => !fmtACC f
  | 5, 5 => !fmtACC f
  | _, _ => false

/-- R249: the peak MAC rate. -/
def macRate (f : BitVec 32) : Nat :=
  if fmtAFMT f = 3 ∨ fmtBFMT f = 3 then 16384 else if fmtAFMT f < 4 then 8192 else 4096

/-- R317: the debit of an occupied cycle. -/
def mxWeight (f : BitVec 32) : Nat :=
  if fmtAFMT f = 3 ∨ fmtBFMT f = 3 then 5000 else if fmtAFMT f < 4 then 4500 else 4200

/-- R68: a DS8 value times 128. -/
def ds8 (x : Nat) : Int :=
  let term := fun (n : Nat) =>
    let v : Int := ((2 ^ (7 - n % 8) : Nat) : Int)
    if n / 8 % 2 = 1 then -v else v
  term (x / 16) + term (x % 16)

/-- R83: an integer element; a DS8 element carries 7 fraction bits. -/
def intElem (code x : Nat) : Int := if code = 3 then ds8 (x % 256) else (BitVec.ofNat 8 x).toInt

/-- R64: a floating element. -/
def floatElem (code x : Nat) : Fp :=
  match code with
  | 0 => FE4.read x
  | 1 => FE5.read x
  | 4 => FH.read x
  | _ => FBF.read x

/-- R251: the zero element of a row that is not supplied. -/
def zeroElem (code : Nat) : Nat := if code = 3 then 0x08 else 0

/-! ## Blocks (R79 to R83) -/

/-- R80: a product of a block, with its Invalid. -/
abbrev Product := Fp × BitVec 7

/-- R81: F of the alignment adder. -/
def adderF (code : Nat) : Int := if code < 4 then 19 else 45

/-- R81: the block sum of finite products. -/
def alignSum (F : Int) (ps : List Fp) : Fp :=
  let tops := ps.filterMap fun p =>
    match p with
    | .fin _ m x => if m = 0 then none else some ((m.log2 : Int) + x)
    | _ => none
  match tops with
  | [] => .fin (ps.all fun p => match p with
      | .fin neg _ _ => neg
      | _ => false) 0 0
  | t :: ts =>
    let u := ts.foldl max t - F
    let sum : Int := ps.foldl (fun s p =>
      match p with
      | .fin neg m x =>
        let n : Int := ((if u ≤ x then m * 2 ^ (x - u).toNat else m / 2 ^ (u - x).toNat : Nat) : Int)
        if neg then s - n else s + n
      | _ => s) 0
    .fin (decide (sum < 0)) sum.natAbs u

/-- R80: the block sum. -/
def blockSum (F : Int) (ps : List Product) : Product :=
  let inf := fun (s : Bool) => ps.any fun p => decide (p.1 = .inf s)
  if ps.any fun p => p.1.isNan then (.nan false, ps.foldl (fun x p => x ||| p.2) 0)
  else if inf true && inf false then (.nan false, flNV)
  else if inf true then (.inf true, 0)
  else if inf false then (.inf false, 0)
  else (alignSum F (ps.map Prod.fst), 0)

/-- R82: a block sum scaled by a power of two; a NaN scale makes it a NaN with Invalid. -/
def scaleSum (p : Product) (scale : Option Int) : Product :=
  match scale with
  | none => (.nan false, p.2 ||| flNV)
  | some k =>
    match p.1 with
    | .fin s m x => (.fin s m (x + k), p.2)
    | _ => p

/-- R59: the cell of an FP32 value with flags gathered. -/
def fpCell (old : Cell40) (r : Fr) : Cell40 :=
  let fl := r.fl.toNat
  let f := fl % 2 + fl / 4 % 8 * 2
  BitVec.ofNat 40 (r.bits % 2 ^ 32) ||| (old &&& (15#40 <<< 36)) ||| (BitVec.ofNat 40 f <<< 36)

/-- R82: add a scaled block sum into an FP32 cell. -/
def accFloat (rm : Nat) (old : Cell40) (p : Product) : Cell40 :=
  fpCell old (F32.sum rm (F32.read (old.toNat % 2 ^ 32)) p.1 p.2)

/-- R83: add an exact block sum into an INT36 cell. -/
def accInt (old : Cell40) (sum : Int) : Cell40 :=
  let v := cellInt old + sum
  let wrapped := decide (v < -(2 ^ 35)) || decide (2 ^ 35 ≤ v)
  (BitVec.ofInt 36 v).zeroExtend 40 ||| (old &&& (15#40 <<< 36)) |||
    if wrapped then 1#40 <<< 37 else 0

/-! ## The fields of an operation (R250, R253) -/

def MxOp.afmt (o : MxOp) : Nat := fmtAFMT o.fmt
def MxOp.bfmt (o : MxOp) : Nat := fmtBFMT o.fmt
def MxOp.esz (o : MxOp) : Nat := elemBytes o.bfmt
def MxOp.kb (o : MxOp) : Nat := blockSize o.afmt
def MxOp.cb (o : MxOp) : Nat := o.ta.toNat % 2 ^ 16
def MxOp.cs (o : MxOp) : Nat := let x := o.ta.toNat / 2 ^ 16 % 2 ^ 16; if x = 0 then o.n else x
def MxOp.wb (o : MxOp) : Nat := o.tb.toNat % 2 ^ 19
def MxOp.bs (o : MxOp) : Nat :=
  let x := o.tb.toNat / 2 ^ 32 % 2 ^ 16
  if x = 0 then o.n * o.esz else x
def MxOp.rowa (o : MxOp) : Nat := 8 * (o.msr.toNat % 2 ^ 16)
def MxOp.cola (o : MxOp) : Nat := 8 * (o.msr.toNat / 2 ^ 16 % 2 ^ 16)
def MxOp.scm (o : MxOp) : Nat := if fmtACC o.fmt then 0 else fmtSCM o.fmt
def MxOp.byRow (o : MxOp) : Bool := decide (o.scm % 2 = 1)
def MxOp.byCol (o : MxOp) : Bool := decide (o.scm / 2 = 1)
/-- K-blocks that the operation forms. -/
def MxOp.blocks (o : MxOp) : Nat := (o.k + o.kb - 1) / o.kb
/-- R262: the set's ISET.MEM; a single group has 0. -/
def MxOp.mem (o : MxOp) : Nat :=
  match o.members with
  | [_] => 0
  | l => l.foldl (fun n i => n ||| 2 ^ i) 0

/-- R251: element k of row i of A. -/
def MxOp.aElem (o : MxOp) (i k : Nat) : Nat :=
  let p := i / o.width
  let l := i % o.width
  if !(tget 0 p o.alive).getLsbD l then zeroElem o.afmt
  else
    let per := 4 / elemBytes o.afmt
    let x := (tget (0 : Lane) ((64 * p + o.aoff + k / per) * 64 + l) o.amem).toNat
    if per = 4 then x / 256 ^ (k % 4) % 256 else x / 65536 ^ (k % 2) % 65536

/-- R255, R252: the first offset that lies outside an allotment: cells, B bytes, scales. -/
def MxOp.outOf (o : MxOp) (csize wsize : Nat) : Option Nat :=
  let far := fun (size : Nat) (l : List (Nat × Nat)) =>
    (l.find? fun x => decide (size < x.1 + x.2)).map fun x => max x.1 size
  match far csize ((upto o.m).map fun i => (o.cb + i * o.cs, o.n)) with
  | some a => some a
  | none =>
    match far wsize ((upto o.k).map fun k => (o.wb + k * o.bs, o.n * o.esz)) with
    | some a => some a
    | none =>
      match (if o.byRow then far wsize [(o.rowa, 2 * o.m)] else none) with
      | some a => some a
      | none => if o.byCol then far wsize [(o.cola, 2 * o.n)] else none

/-- R255, check 2, but for the issuer and the reuse latch. -/
def MxOp.fieldsOk (o : MxOp) : Bool :=
  pairingOk o.fmt && decide (1 ≤ o.m) && decide (o.m ≤ o.members.length * o.width) &&
    decide (1 ≤ o.n) && decide (o.n ≤ 256) && decide (1 ≤ o.k) && decide (o.k ≤ kLimit o.afmt) &&
    decide (o.ta.toNat / 2 ^ 32 = 0) && decide (o.tb.toNat / 2 ^ 19 % 2 ^ 13 = 0) &&
    decide (o.tb.toNat / 2 ^ 48 = 0) && decide (o.wb % o.esz = 0) && decide (o.bs % o.esz = 0) &&
    (decide (o.m ≤ 1) || decide (o.n ≤ o.cs))

/-! ## Sets, latches and held registers (R246 to R248, R256, R258) -/

/-- The identity of a group within its set: its index; a handler group stands alone. -/
def Group.memberId (g : Group) (slot : Nat) : Nat := if g.kind = .user then g.gidx else 64 + slot

/-- The members of a group's set, in ascending index. -/
def Group.mxSet (g : Group) (slot : Nat) : List Nat :=
  let m := g.iset.toNat % 2 ^ 32
  if m = 0 then [g.memberId slot] else (upto 32).filter fun i => m.testBit i

/-- The same set of the same team. -/
def MxOp.ofSet (o : MxOp) (launch lin : Nat) (members : List Nat) : Bool :=
  decide (o.launch = launch) && decide (o.lin = lin) && decide (o.members = members)

/-- Every operation of an engine that has not ended. -/
def MxEngine.ops (e : MxEngine) : List MxOp :=
  e.open_.map (·.op) ++ e.waiting ++ e.queue ++ e.running.toList ++ e.split

/-- Operations in rendezvous latches that a group has issued: opened, or complete and waiting. -/
def MxEngine.latchedFor (e : MxEngine) (launch lin id : Nat) : Bool :=
  (e.open_.any fun r => decide (r.op.launch = launch) && decide (r.op.lin = lin) &&
      r.arrived.contains id) ||
    e.waiting.any fun o => decide (o.launch = launch) && decide (o.lin = lin) &&
      o.members.contains id

/-- R258: the latch that a set holds. -/
def MxEngine.latchOf (e : MxEngine) (launch lin : Nat) (members : List Nat) :
    Option (Nat × ReuseLatch) :=
  e.latches.find? fun x =>
    x.2.held && decide (x.2.launch = launch) && decide (x.2.lin = lin) &&
      decide (x.2.members = members)

/-- Registers held for an operation are held no longer. -/
def Group.unlock (g : Group) (num : Nat) : Group :=
  { g with locked := g.locked.filter fun x => decide (x.2 ≠ num) }

def Core.unlock (k : Core) (num : Nat) : Core :=
  { k with groups := tmap (fun _ g => g.unlock num) k.groups }

/-- R256: a core cycle has ended, and with it what the operations that ended in it held. -/
def Core.unlockEnded (k : Core) : Core :=
  match k.mx.ended with
  | [] => k
  | l =>
    let k := l.foldl Core.unlock k
    { k with mx := { k.mx with ended := [] } }

/-- R257: operations in the queue; the one that runs keeps its entry. -/
def MxEngine.occupancy (e : MxEngine) : Nat := e.queue.length + e.running.toList.length

/-- R257: the order of the queue: by cycle of entry, then of completion, then by completing slot. -/
def MxOp.noLater (a b : MxOp) : Bool :=
  decide (a.enq < b.enq) || (decide (a.enq = b.enq) &&
    (decide (a.comp < b.comp) || (decide (a.comp = b.comp) && decide (a.slot ≤ b.slot))))

/-- R259: an operation whose rendezvous is complete takes A and enters the queue, if it can. -/
def Core.mxLaunch (k : Core) (o : MxOp) : Option Core :=
  let e := k.mx
  if 8 ≤ e.occupancy then none
  else
    let enter := fun (o : MxOp) (e : MxEngine) =>
      { e with
        queue := insBy MxOp.noLater { o with enq := k.cycle } e.queue }
    match e.latchOf o.launch o.lin o.members with
    | some (i, l) =>
      let o := { o with
        alive := l.alive, amem := l.amem, latched := true
        frees := if o.keep then none else some i }
      let e := if o.keep then e else { e with latches := tins i { l with held := false } e.latches }
      some ({ k with mx := enter o e }.unlock o.num)
    | none =>
      if !o.keep then some { k with mx := enter o e }
      else
        match (upto 8).find? fun i => (tfind i e.latches).isNone with
        | none => none
        | some i =>
          let l : ReuseLatch :=
            { launch := o.launch, lin := o.lin, members := o.members, m := o.m, k := o.k
              afmt := o.afmt, alive := o.alive, amem := o.amem, held := true }
          some { k with mx := enter o { e with latches := tins i l e.latches } }

/-- R259: operations completed by retirement take what has been released, in order; one that still
lacks a latch or a queue entry keeps waiting. -/
def Core.mxAdmit (k : Core) : List MxOp → Core
  | [] => k
  | o :: rest =>
    match k.mxLaunch o with
    | some k => ({ k with mx := { k.mx with waiting := k.mx.waiting.erase o } } : Core).mxAdmit rest
    | none => k.mxAdmit rest

/-- What waits may now enter. -/
def Core.mxSettle (k : Core) : Core := k.mxAdmit k.mx.waiting

/-- R248, R259: a group of a team retires. -/
def Core.mxRetire (k : Core) (launch lin id slot : Nat) (gone : Nat → Bool) : Core :=
  let mine := fun (r : Rendezvous) =>
    decide (r.op.launch = launch) && decide (r.op.lin = lin) && r.op.members.contains id
  let step := fun (k : Core) (r : Rendezvous) =>
    if !mine r then { k with mx := { k.mx with open_ := k.mx.open_ ++ [r] } }
    else if r.op.members.all fun i => r.arrived.contains i || gone i then
      { k with mx := { k.mx with waiting := k.mx.waiting ++ [{ r.op with slot, comp := k.cycle }] } }
    else { k with mx := { k.mx with open_ := k.mx.open_ ++ [r] } }
  let l := k.mx.open_
  let k := l.foldl step { k with mx := { k.mx with open_ := [] } }
  let drop := fun (x : ReuseLatch) =>
    decide (x.launch = launch) && decide (x.lin = lin) && x.held && x.members.all gone
  ({ k with mx := { k.mx with latches := tfilter (fun _ x => !drop x) k.mx.latches } } : Core).mxSettle

/-! ## MMA and MMAS (R248, R254, R255) -/

/-- The operation a member describes; its number is still to come. -/
def mmaOp (x : BitVec 32) (slot : Nat) (g : Group) (va s tr : Nat) (start keep : Bool) : MxOp :=
  { launch := g.launch, lin := g.lin, members := g.mxSet slot, width := g.width, num := 0
    word := x &&& ~~~0x6#32, fmt := g.format, m := (g.s s).toNat, n := (g.s (s + 1)).toNat
    k := (g.s (s + 2)).toNat, ta := g.s tr, tb := g.s (tr + 1), msr := g.msr, va, aoff := 0
    start, keep, alive := [], amem := [], latched := false, frees := none, issuer := none, past := []
    forks := [], bad := none, enq := 0, slot, t0 := 0, extra := 0, done := 0, lastW := 0, cells := []
    rows := [], cols := [], belem := [], fetched := 0 }

/-- R248: the parameters that every member must give alike. RM is not compared. -/
def MxOp.matches (a b : MxOp) : Bool :=
  decide (a.word = b.word) && decide (a.fmt >>> 12 = b.fmt >>> 12) && decide (a.m = b.m) &&
    decide (a.n = b.n) && decide (a.k = b.k) && decide (a.ta = b.ta) && decide (a.tb = b.tb) &&
    decide (a.msr = b.msr) && decide (a.members = b.members)

/-- R251: a member's A registers as it reads them. -/
def MxOp.supply (o : MxOp) (g : Group) (id : Nat) : MxOp :=
  let p := (o.members.idxOf? id).getD 0
  let n := spanRegs o.afmt o.k
  { o with
    alive := tins p g.live o.alive
    amem := (upto n).foldl (fun t r =>
      (lanesOf g.live).foldl (fun t l => tput 0 ((64 * p + r) * 64 + l) (g.v (o.va + r) l) t) t)
      o.amem }

/-- R255: MMA, MMA.R, MMAS, MMAS.R. What needs no register value is judged first (R96): va itself, the
issuer, the pairing of R249, the routine of R276. The rest of checks 1 and 2 needs K and the other
scalars (DEDUCED, log 21). R317's table names no MMA form: it is debited nothing at issue; COPYKICK and AMSEND, which it does not
name either, as control instructions, and CDINIT as a TST (DESIGN CHOICE, log 36). A member held by R248 is judged against the reuse latch as it stands once the hold is over. -/
def mma (x : BitVec 32) (gs : BitVec 2) (va s tr : Nat) (start keep : Bool) (st : State) :
    Host.Outcome State Fault Refusal :=
  issue (wordForm x gs none 0)
    (fun _ g =>
      let k := (g.s (s + 2)).toNat
      let n := min 64 (spanRegs (fmtAFMT g.format) k)
      { regs := scalarRun s 3 && scalarRun tr 2 && g.hasV va
        ctx := notRoutine g && decide (g.kind ≠ .supervisor) && pairingOk g.format
        reads := (upto 3 s).map useS ++ (upto 2 tr).map useS ++
          ((upto n va).filter fun r => decide (r < g.nv)).map (useVL g) })
    (fun w c slot g =>
      let o := mmaOp x slot g va s tr start keep
      let id := g.memberId slot
      let e := (w.core c).mx
      let latch := e.latchOf o.launch o.lin o.members
      let fits := match latch with
        | some (_, l) => decide (o.m ≤ l.m) && decide (o.k ≤ l.k) && decide (o.afmt = l.afmt)
        | none => true
      if g.nv < va + spanRegs o.afmt o.k then .illegal 5
      else if !o.fieldsOk then .illegal 6
      else if e.latchedFor o.launch o.lin id then .hold w g none
      else if !fits then .illegal 6
      else
        match w.space c g 2, w.space c g 0 with
        | some (_, _, csize), some (_, _, wsize) =>
          match o.outOf csize wsize with
          | some a => .trap 0x09 (natWord a) 0
          | none =>
            if 63 ≤ g.mc then .hold w g none
            else
              match e.open_.find? fun r => r.op.ofSet o.launch o.lin o.members with
              | some r => if !r.op.matches o then .trap 0x0D 0 0 else arrive w c slot g r id o
              | none =>
                let q := w.tick
                arrive q.2 c slot g { op := { o with num := q.1 }, arrived := [] } id o
        | _, _ => .trap 0x09 (natWord o.cb) 0) st
where
  /-- A member joins the rendezvous; the last one launches the operation or is held. -/
  arrive (w : Work) (c slot : Nat) (g : Group) (r : Rendezvous) (id : Nat) (o : MxOp) : Res :=
    let k := w.core c
    let gone := fun i =>
      match w.team o.launch o.lin with
      | some t => has t.retired i && decide (i < 64)
      | none => false
    let p := (o.members.idxOf? id).getD 0
    let r' : Rendezvous :=
      { op := { r.op.supply g id with forks := tins p k.opSeq r.op.forks }
        arrived := ninsert id r.arrived }
    let rest := k.mx.open_.filter fun y => !y.op.ofSet o.launch o.lin o.members
    let g' := { g with
      mc := g.mc + 1
      locked := g.locked ++ (upto (spanRegs o.afmt o.k) o.va).map fun v => (v, r.op.num) }
    if o.members.all fun i => r'.arrived.contains i || gone i then
      match ({ k with mx := { k.mx with open_ := rest } } : Core).mxLaunch
          { r'.op with slot, comp := k.cycle } with
      | some k' =>
        .done (w.setCore c k')
          (if (k.mx.latchOf o.launch o.lin o.members).isSome then g'.unlock r.op.num else g')
      | none => .hold w g none
    else .done (w.setCore c { k with mx := { k.mx with open_ := rest ++ [r'] } }) g'

def execMma (g : BitVec 2) (a s tr : BitVec 6) (st : State) : Host.Outcome State Fault Refusal :=
  mma (wMma g a s tr) g a.toNat s.toNat tr.toNat false false st

def execMmaR (g : BitVec 2) (a s tr : BitVec 6) (st : State) : Host.Outcome State Fault Refusal :=
  mma (wMmaR g a s tr) g a.toNat s.toNat tr.toNat false true st

def execMmas (g : BitVec 2) (a s tr : BitVec 6) (st : State) : Host.Outcome State Fault Refusal :=
  mma (wMmas g a s tr) g a.toNat s.toNat tr.toNat true false st

def execMmasR (g : BitVec 2) (a s tr : BitVec 6) (st : State) : Host.Outcome State Fault Refusal :=
  mma (wMmasR g a s tr) g a.toNat s.toNat tr.toNat true true st

/-! ## MXSET and MSCALE (R247, R253) -/

/-- R19: groups of a twin team below half sit on the even core. -/
def Work.coreOfMember (w : Work) (g : Group) (c i : Nat) : Nat :=
  match w.teamOf g with
  | some t => if t.twin && decide ((lrNgrp (w.recOf g) + 1) / 2 ≤ i) then Config.partner t.home
              else t.home
  | none => c

/-- R247. -/
def execMxset (g : BitVec 2) (a : BitVec 6) (s : State) : Host.Outcome State Fault Refusal :=
  issue (wordForm (wMxset g a) g none wtScalar)
    (fun _ gr => { ctx := decide (gr.kind = .user), reads := [useS a.toNat] })
    (fun w c slot gr =>
      let v := (gr.s a.toNat).toNat
      let set := (upto 32).filter fun i => v.testBit i
      if decide (2 ^ 32 ≤ v) || decide (set.length = 1) || decide (6 < set.length) ||
          (decide (v ≠ 0) && !set.contains gr.gidx) ||
          set.any (fun i => decide (lrNgrp (w.recOf gr) ≤ i)) ||
          set.any fun i => decide (w.coreOfMember gr c i ≠ c) then .illegal 6
      else
        let k := w.core c
        if k.mx.latchedFor gr.launch gr.lin gr.gidx then .hold w gr none
        else
          let old := gr.mxSet slot
          let drop := fun (x : ReuseLatch) =>
            x.held && decide (x.launch = gr.launch) && decide (x.lin = gr.lin) &&
              decide (x.members = old)
          let k := { k with
            mx := { k.mx with latches := tfilter (fun _ x => !drop x) k.mx.latches } }
          .done (w.setCore c (Core.mxSettle k)) { gr with iset := natWord v }) s

/-- R253. -/
def execMscale (g : BitVec 2) (a b : BitVec 6) (s : State) : Host.Outcome State Fault Refusal :=
  issue (wordForm (wMscale g a b) g none wtScalar)
    (fun _ gr => { ctx := notRoutine gr, reads := [useS a.toNat, useS b.toNat] })
    (fun w _ _ gr =>
      let x := (gr.s a.toNat).toNat
      let y := (gr.s b.toNat).toNat
      if x % 8 ≠ 0 ∨ y % 8 ≠ 0 ∨ 2 ^ 19 ≤ x ∨ 2 ^ 19 ≤ y then .illegal 6
      else .done w { gr with msr := natWord (x / 8 + y / 8 * 2 ^ 16) }) s

/-! ## The engine (R257) -/

/-- The bases of an operation's CBUF and WBUF allotments on its core. -/
def Work.mxBases (w : Work) (c : Nat) (o : MxOp) : Nat × Nat :=
  match w.team o.launch o.lin with
  | some t => ((t.allot c 2).2, (t.allot c 0).2)
  | none => (0, 0)

/-- The groups of a core that are members of an operation. -/
def MxOp.isMember (o : MxOp) (slot : Nat) (g : Group) : Bool :=
  decide (g.kind ≠ .run) && decide (g.launch = o.launch) && decide (g.lin = o.lin) &&
    o.members.contains (g.memberId slot)

/-- R260, R196: a typed-buffer access that a member made before its MMA, or the issuer before its MXCONT,
is still to be performed. -/
def MxOp.behind (o : MxOp) (k : Core) : Bool :=
  k.taccs.any fun x =>
    (decide (o.issuer = some x.2.slot) && decide (x.1 < o.fork)) ||
    match tfind x.2.slot k.groups with
    | some g =>
      o.isMember x.2.slot g &&
        decide (x.1 < tget 0 ((o.members.idxOf? (g.memberId x.2.slot)).getD 0) o.forks)
    | none => false

/-- R261: EINFO of a matrix data error in a row of WBUF (0) or CBUF (2), by its place in the
allotment. -/
def mxBad (buf base row : Nat) : Nat := (row - base) % 2 ^ 16 + buf * 2 ^ 16

/-- R257: a queued operation starts when the engine is free: its starting cells and its scales are
read. Those of a team that is being saved stay in the queue (R261). -/
def execMatrixOpStart (core : Nat) (s : State) : Host.Outcome State Fault Refusal :=
  event s fun w =>
    let k := w.core core
    let held := fun (o : MxOp) => ((w.team o.launch o.lin).map (·.saving)).getD false
    match k.mx.running, k.mx.queue.find? fun o => !held o with
    | none, some o =>
      let rest := k.mx.queue.erase o
      if k.cycle ≤ o.enq ∨ k.cycle < k.mx.busy ∨ o.behind k then w
      else
        let b := w.mxBases core o
        let cells : Tab Cell40 :=
          if o.start then []
          else
            (upto o.m).flatMap fun i => (upto o.n).map fun j =>
              let x := k.cell (b.1 + o.cb + i * o.cs + j)
              (256 * i + j, if fmtACC o.fmt then x else x &&& ~~~(15#40 <<< 32))
        let scales := fun (on : Bool) (at_ n : Nat) =>
          if on then (upto n).map fun i => (i, k.bufNum 0 (b.2 + at_ + 2 * i) 2) else []
        let rows := fun (on : Bool) (at_ n : Nat) => if on then upto (2 * n) (b.2 + at_) else []
        let bad :=
          match k.upsetRow 4 (rows o.byRow o.rowa o.m ++ rows o.byCol o.cola o.n) with
          | some r => some (mxBad 0 b.2 r)
          | none =>
            if o.start then none
            else
              (k.upsetRow 6 ((upto o.m).flatMap fun i => upto o.n (b.1 + o.cb + i * o.cs))).map
                (mxBad 2 b.1)
        let work := (o.m + 15) / 16 * 16 * ((o.n + 31) / 32 * 32) * o.blocks * o.kb
        let rate := macRate o.fmt
        let o := { o with
          t0 := k.cycle, extra := (work + rate - 1) / rate, done := 0, cells, bad, badAt := 0
          rows := scales o.byRow o.rowa o.m, cols := scales o.byCol o.cola o.n, belem := [], fetched := 0 }
        w.setCore core { k with mx := { k.mx with queue := rest, running := some o } }
    | _, _ => w

/-- R257: the cycle in which the elements of block `b` are read. -/
def MxOp.readAt (o : MxOp) (b : Nat) : Nat := o.t0 + 20 + b * o.extra / max o.blocks 1

/-- R261: the next block to be written reads a word that holds an uncorrectable error. -/
def MxOp.spoilt (o : MxOp) : Bool := o.bad.isSome && decide (o.badAt ≤ o.done)

/-- R257: the cycle in which the cells of block `b` are written. -/
def MxOp.writeAt (o : MxOp) (b : Nat) : Nat :=
  o.t0 + 20 + ((b + 1) * o.extra + o.blocks - 1) / max o.blocks 1 - 1

/-- R257: at a core cycle, the B elements of the blocks whose cycle it is are read. -/
def Work.mxRead (w : Work) (c : Nat) : Work :=
  let k := w.core c
  match k.mx.running with
  | some o =>
    let n := ((upto o.blocks).filter fun b => decide (o.readAt b ≤ k.cycle)).length
    if n ≤ o.fetched then w
    else
      let b := w.mxBases c o
      let ks := upto (min (n * o.kb) o.k - o.fetched * o.kb) (o.fetched * o.kb)
      let el := ks.flatMap fun kk => (upto o.n).map fun j =>
        (256 * kk + j, k.bufNum 0 (b.2 + o.wb + kk * o.bs + j * o.esz) o.esz)
      let row := fun kk => upto (o.n * o.esz) (b.2 + o.wb + kk * o.bs)
      let first := ks.find? fun kk => (k.upsetRow 4 (row kk)).isSome
      let o := { o with belem := o.belem ++ el, fetched := n }
      let o := match o.bad, first with
        | none, some kk =>
          { o with bad := (k.upsetRow 4 (row kk)).map (mxBad 0 b.2), badAt := kk / max o.kb 1 }
        | _, _ => o
      w.setCore c { k with mx := { k.mx with running := some o } }
  | none => w

/-- R69, R82: the exponent that scales block sums of a cell; none for a NaN scale. -/
def MxOp.scale (o : MxOp) (i j : Nat) : Option Int :=
  let one := fun (on : Bool) (t : Tab Nat) (x : Nat) =>
    if on then
      let v := tget 0 x t
      if v = 0x8000 then none else some (BitVec.ofNat 16 v).toInt
    else some 0
  match one o.byRow o.rows i, one o.byCol o.cols j with
  | some a, some b => some (a + b)
  | _, _ => none

/-- R254: cell (i, j) after the present block. -/
def MxOp.cellAfter (o : MxOp) (el : Tab Nat) (i j : Nat) : Cell40 :=
  let old := tget 0 (256 * i + j) o.cells
  let ks := upto (min o.kb (o.k - o.done * o.kb)) (o.done * o.kb)
  if fmtACC o.fmt then
    accInt old (ks.foldl (fun (t : Int) k =>
      t + intElem o.afmt (o.aElem i k) * intElem o.bfmt (tget 0 (256 * k + j) el)) 0)
  else
    let ps := ks.map fun k =>
      (floatElem o.afmt (o.aElem i k)).mul (floatElem o.bfmt (tget 0 (256 * k + j) el))
    accFloat (fmtRM o.fmt) old (scaleSum (blockSum (adderF o.afmt) ps) (o.scale i j))

/-- R257, R61: the cells of a block are written. -/
def execMatrixBlockWrite (core : Nat) (s : State) : Host.Outcome State Fault Refusal :=
  event s fun w =>
    let k := w.core core
    match k.mx.running with
    | some o =>
      if o.fetched ≤ o.done ∨ k.cycle < o.writeAt o.done ∨ o.spoilt then w
      else
        let cells := (upto o.m).flatMap fun i => (upto o.n).map fun j =>
          (256 * i + j, o.cellAfter o.belem i j)
        let base := (w.mxBases core o).1 + o.cb
        let k := cells.foldl (fun k x =>
          k.setCell (base + x.1 / 256 * o.cs + x.1 % 256) x.2) k
        let o := { o with
          cells, done := o.done + 1, lastW := k.cycle
          belem := o.belem.filter fun p => decide (256 * ((o.done + 1) * o.kb) ≤ p.1) }
        w.setCore core { k with mx := { k.mx with running := some o } }
    | none => w

/-- R248, R263: an operation ends: MC falls in every member and in each issuer of an MXCONT for it, and the
held registers are released: at once, or with the end of the core cycle (R256). -/
def Core.mxEnd (k : Core) (o : MxOp) (now : Bool) : Core :=
  let k := { k with
    groups := tmap (fun slot g =>
      let g := if o.isMember slot g then { g with mc := g.mc - 1 } else g
      let g := if o.issuer = some slot then { g with mc := g.mc - 1 } else g
      let g := { g with mc := g.mc - (o.past.filter (· = slot)).length }
      if now then g.unlock o.num else g) k.groups
    mx := { k.mx with
      ended := if now then k.mx.ended else k.mx.ended ++ [o.num]
      latches := match o.frees with
        | some i => tdel i k.mx.latches
        | none => k.mx.latches } }
  Core.mxSettle k

/-- R263: the last cell of the running operation has been written. -/
def execMatrixOpEnd (core : Nat) (s : State) : Host.Outcome State Fault Refusal :=
  event s fun w =>
    let k := w.core core
    match k.mx.running with
    | some o =>
      if o.done < o.blocks then w
      else
        let k := { k with mx := { k.mx with running := none, busy := o.t0 + 20 + o.extra } }
        (w.setCore core (Core.mxEnd k o false)).settleCounters core
    | none => w

/-! ## Splits and continuation (R261 to R263) -/

/-- What remains of an operation of which `done` blocks are written. -/
def MxOp.remainder (o : MxOp) : MxOp :=
  let n := o.done * o.kb
  { o with
    k := o.k - n, aoff := o.aoff + n * elemBytes o.afmt / 4
    ta := natWord (o.cb + o.cs * 2 ^ 16)
    tb := natWord (o.wb + n * o.bs + o.bs * 2 ^ 32)
    start := o.start && decide (o.done = 0), done := 0, cells := [], rows := [], cols := []
    belem := [], fetched := 0, issuer := none, past := o.past ++ o.issuer.toList, bad := none
    badAt := 0, fork := 0, t0 := 0, extra := 0 }

/-- R262: the continuation block of what remains of an operation. -/
def MxOp.block (o : MxOp) : List Word :=
  let b := fun (x : Bool) => if x then 1 else 0
  [ natWord (o.k + (o.m - 1) * 2 ^ 8 + (o.n - 1) * 2 ^ 17 + o.afmt * 2 ^ 25 + o.bfmt * 2 ^ 28 +
      b (fmtACC o.fmt) * 2 ^ 31 + fmtSCM o.fmt * 2 ^ 32 + b o.latched * 2 ^ 34 +
      b o.keep * 2 ^ 35 + b o.start * 2 ^ 36 + o.aoff * 2 ^ 37 + o.va * 2 ^ 42 +
      fmtRM o.fmt * 2 ^ 48 + 2 ^ 63),
    natWord (o.cb + o.cs * 2 ^ 16 + o.wb * 2 ^ 32),
    natWord (o.bs + o.rowa / 8 * 2 ^ 16 + o.cola / 8 * 2 ^ 32),
    natWord o.mem ]

/-- The slot of the leader: the member of lowest index (R261). Where that member has retired, R261 names
no other: it is the lowest that is still on the core (DESIGN CHOICE, log 36). -/
def Core.leaderSlot (k : Core) (o : MxOp) : Option Nat :=
  let l := k.groups.filter fun p => o.isMember p.1 p.2
  (leastBy (fun p => p.2.memberId p.1) l).map Prod.fst

/-- R261: the running operation splits at a block boundary: cause 0 for a save of its team; else
1 plus the EINFO of a data error in the block that comes next. R261 does not say what becomes of a block
that the leader has not yet taken: a second one replaces it, with its trap (DESIGN CHOICE, log 36). -/
def execMatrixSplit (core cause : Nat) (s : State) : Host.Outcome State Fault Refusal :=
  event s fun w =>
    let k := w.core core
    match k.mx.running with
    | none => w
    | some o =>
      if o.blocks ≤ o.done then w
      else
        let r := o.remainder
        let k' := Core.mxSettle { k with
          mx := { k.mx with running := none, split := k.mx.split ++ [r], busy := k.cycle + 1 } }
        if cause = 0 then
          let saving := ((w.team o.launch o.lin).map (·.saving)).getD false
          let edge := decide (o.fetched ≤ o.done) || decide (o.lastW = k.cycle)
          if saving && edge then w.setCore core k' else w
        else if !o.spoilt || decide (o.bad ≠ some (cause - 1)) then w
        else
          match k.leaderSlot o with
          | none => w.setCore core k'
          | some slot =>
            (w.setCore core k').modGrp core slot fun g =>
              { g with
                cont := r.block
                raise := some (0x0E, natWord ((cause - 1) % 2 ^ 18), 0) }

/-- R262: an operation from a continuation block, made for the team of its leader; none if the
block is not valid. -/
def contOp (slot : Nat) (g : Group) (words : List Word) : Option MxOp :=
  match words with
  | [w0, w1, w2, w3] =>
    let f := fun (x : Word) hi lo => field x hi lo
    if w0.getLsbD 63 = false ∨ f w0 62 50 ≠ 0 ∨ f w1 63 51 ≠ 0 ∨ f w2 63 48 ≠ 0 ∨ f w3 63 32 ≠ 0
    then none
    else
      let mem := w3.toNat
      some
        { launch := g.launch, lin := g.lin
          members := if mem = 0 then [g.memberId slot] else (upto 32).filter fun i => mem.testBit i
          width := g.width, num := 0, word := 0
          fmt := BitVec.ofNat 32 (f w0 49 48 + f w0 27 25 * 2 ^ 12 + f w0 30 28 * 2 ^ 15 +
            f w0 31 31 * 2 ^ 18 + f w0 33 32 * 2 ^ 19)
          m := f w0 16 8 + 1, n := f w0 24 17 + 1, k := f w0 7 0
          ta := natWord (f w1 31 0)
          tb := natWord (f w1 50 32 + f w2 15 0 * 2 ^ 32)
          msr := natWord (f w2 47 16)
          va := f w0 47 42, aoff := f w0 41 37, start := w0.getLsbD 36, keep := w0.getLsbD 35
          alive := [], amem := [], latched := w0.getLsbD 34, frees := none, issuer := none, past := []
          forks := [], bad := none, enq := 0, slot, t0 := 0, extra := 0, done := 0, lastW := 0, cells := [], rows := []
          cols := [], belem := [], fetched := 0 }
  | _ => none

/-- The group of a core that is a member of an operation, by its identity. -/
def Core.memberSlot (k : Core) (o : MxOp) (id : Nat) : Option (Nat × Group) :=
  k.groups.find? fun p => o.isMember p.1 p.2 && decide (p.2.memberId p.1 = id)

/-- R261: the recorded split that a block continues. -/
def Core.contOld (k : Core) (o : MxOp) : Option MxOp :=
  k.mx.split.find? fun r => r.ofSet o.launch o.lin o.members && decide (r.block = o.block)

/-- R263: A of a continued operation: as the split recorded it, else from the latch or from the
members' registers. -/
def Core.contA (k : Core) (o : MxOp) : Option MxOp :=
  match k.contOld o with
  | some r =>
    some { o with alive := r.alive, amem := r.amem, num := r.num, frees := r.frees, past := r.past }
  | none =>
    if o.latched then
      match k.mx.latchOf o.launch o.lin o.members with
      | none => none
      | some x =>
        -- R255, R259: M, K with what has been consumed, and AFMT fit the latch
        if o.m ≤ x.2.m ∧ o.k + o.aoff * 4 / elemBytes o.afmt ≤ x.2.k ∧ o.afmt = x.2.afmt then
          some { o with
            alive := x.2.alive, amem := x.2.amem, frees := if o.keep then none else some x.1 }
        else none
    else
      some (o.members.foldl (fun a id =>
        match k.memberSlot a id with
        | some (_, g) =>
          let p := (a.members.idxOf? id).getD 0
          let n := a.aoff + spanRegs a.afmt a.k
          { a with
            alive := tins p g.live a.alive
            amem := (upto n).foldl (fun t r =>
              (lanesOf g.live).foldl (fun t l => tput 0 ((64 * p + r) * 64 + l) (g.v (a.va + r) l) t)
                t) a.amem }
        | none => a) o)

/-- R263: the operation of a block, made for the team of the group in the leader's slot; none where a
check fails (reason 6). A member that has retired counts as resident, with rows of zero, as in R248: R263
does not say (DESIGN CHOICE, log 36). -/
def Work.contCheck (w : Work) (c ls : Nat) (lg : Group) (words : List Word) : Option MxOp :=
  (contOp ls lg words).bind fun o =>
    let k := w.core c
    let gone := fun i =>
      match w.teamOf lg with
      | some t => has t.retired i && decide (i < 64)
      | none => false
    let here := o.members.all fun i => (k.memberSlot o i).isSome || gone i
    let lead := decide (k.leaderSlot o = some ls)
    let sizes := match w.space c lg 2, w.space c lg 0 with
      | some x, some y => (o.outOf x.2.2 y.2.2).isNone
      | _, _ => false
    if here && lead && o.fieldsOk && sizes && decide (o.va + o.aoff + spanRegs o.afmt o.k ≤ lg.nv) &&
      (decide (lg.kind = .user) || decide (lg.kind = .handlerTeam)) then some o else none

/-- R263: an operation that a block continues enters the queue, issued by a slot; the leader's
continuation register is cleared. -/
def Work.contQueue (w : Work) (c slot ls : Nat) (o : MxOp) : Work :=
  let k := w.core c
  let num := (k.contOld o).map (·.num)
  let q := if num.isSome then (o.num, w) else w.tick
  let o := { o with
    num := q.1, issuer := some slot, enq := k.cycle, comp := k.cycle, fork := k.opSeq, slot }
  (q.2.setCore c { k with mx := { k.mx with
    split := k.mx.split.filter fun r => decide (some r.num ≠ num), queue := k.mx.queue ++ [o] } }).modGrp c ls
      fun x => { x with cont := [] }

/-- R263: ABANDON: the operation ends, the cells keep what was applied. -/
def Work.contAbandon (w : Work) (c ls : Nat) (o : MxOp) : Work :=
  let k := w.core c
  let old := k.contOld o
  let num := old.map (·.num)
  let e : MxOp :=
    { o with
      num := num.getD 0, past := (old.map (·.past)).getD []
      frees := match old with
        | some r => r.frees
        | none =>
          if o.latched && !o.keep then (k.mx.latchOf o.launch o.lin o.members).map Prod.fst else none }
  let rest := k.mx.split.filter fun r => decide (some r.num ≠ num)
  ((w.setCore c (Core.mxEnd { k with mx := { k.mx with split := rest } } e true)).modGrp c ls fun x =>
    { x with cont := [] }).settleCounters c

/-- R263. -/
def execMxcont (g : BitVec 2) (a b : BitVec 6) (s : State) : Host.Outcome State Fault Refusal :=
  issue (wordForm (wMxcont g a b) g none wtScalar)
    (fun _ gr =>
      { regs := scalarRun a.toNat 4, ctx := decide (gr.kind = .supervisor) || gr.inHandler
        reads := (upto 4 a.toNat).map useS ++ [useS b.toNat] })
    (fun w c slot gr =>
      let sb := gr.s b.toNat
      let ls := if gr.kind = .supervisor then field sb 13 8 else slot
      let own := fun (x : Group) => if ls = slot then [] else x.cont
      match (if ls = slot then some gr else w.grp c ls) with
      | none => .illegal 6
      | some lg =>
        match w.contCheck c ls lg ((upto 4 a.toNat).map gr.s) with
        | none => .illegal 6
        | some o =>
          if field sb 7 1 ≠ 0 ∨ field sb 63 14 ≠ 0 then .illegal 6
          else if sb.getLsbD 0 then
            let w := w.contAbandon c ls o
            .done w (match w.grp c slot with
              | some x => { gr with mc := x.mc, locked := x.locked, cont := own gr }
              | none => gr)
          else
            match (w.core c).contA o with
            | none => .illegal 6
            | some o =>
              if 63 ≤ gr.mc ∨ 8 ≤ (w.core c).mx.occupancy then .hold w gr none
              else .done (w.contQueue c slot ls o) { gr with mc := gr.mc + 1, cont := own gr }) s

/-! ## MXWAIT, MXCLR, MXFLAG, MXRD (R264 to R267) -/

/-- The numbers of the operations that groups of a team, or MXCONTs of a slot, have counted. -/
def Core.mxCounted (k : Core) (launch lin : Nat) (ids : List Nat) (issuer : Option Nat) :
    List Nat :=
  let mine := fun (o : MxOp) (arrived : List Nat) =>
    (decide (o.launch = launch) && decide (o.lin = lin) && arrived.any ids.contains) ||
      (issuer.isSome && (decide (o.issuer = issuer) || issuer.any o.past.contains))
  ((k.mx.open_.filter fun r => mine r.op r.arrived).map fun r => r.op.num) ++
    ((k.mx.waiting ++ k.mx.queue ++ k.mx.running.toList ++ k.mx.split).filter fun o =>
      mine o o.members).map (·.num)

/-- R264: the group is held until the operations counted when MXWAIT was first tried have ended. -/
def execMxwait (g : BitVec 2) (a : BitVec 6) (s : State) : Host.Outcome State Fault Refusal :=
  issue (wordForm (wMxwait g a) g none wtScalar)
    (fun _ gr => { ctx := notRoutine gr, reads := [useS a.toNat] })
    (fun w c slot gr =>
      let v := (gr.s a.toNat).toNat % 2 ^ 32
      let named := (upto 32).filter fun i => v.testBit i
      if named.any fun i => decide (lrNgrp (if gr.hasTeam then w.recOf gr else 0) ≤ i) then .illegal 6
      else
        let cores := match w.teamOf gr with
          | some t => t.cores
          | none => [c]
        let ids := if v = 0 then [gr.memberId slot] else named
        let covers :=
          if gr.half = 1 then gr.covers
          else cores.flatMap fun x => (w.core x).mxCounted gr.launch gr.lin ids
            (if v = 0 ∧ x = c then some slot else none)
        let live := cores.flatMap fun x => (w.core x).mx.ops.map (·.num)
        if covers.any live.contains then .hold w { gr with covers, half := 1 } none
        else .done w { gr with covers := [] }) s

/-- R265: the checks of a cell range of the team's allotment: none when it is in range. -/
def Work.cellRange (w : Work) (c : Nat) (g : Group) (a n : Nat) : Option Res :=
  if n = 0 ∨ 65536 < n then some (.illegal 6)
  else
    match w.space c g 2 with
    | none => some (.trap 0x09 (natWord a) 0)
    | some (_, _, size) => if size < a + n then some (.trap 0x09 (natWord (max a size)) 0) else none

/-- R265: an operation counted by a group of the team, or by the group itself, writes a cell of a
range that starts at an absolute cell. -/
def Work.mxWrites (w : Work) (c slot : Nat) (g : Group) (at_ n : Nat) : Bool :=
  (w.core c).mx.ops.any fun o =>
    ((decide (o.launch = g.launch) && decide (o.lin = g.lin)) || decide (o.issuer = some slot) ||
        o.past.contains slot) &&
      (upto o.m).any fun i =>
        let x := (w.mxBases c o).1 + o.cb + i * o.cs
        decide (x < at_ + n) && decide (at_ < x + o.n)

/-- R265: 64 cells are cleared in each cycle. An operation that a sibling issues while the MXCLR is held
counts among those it waits for: R265 does not say whether it has issued by then (DESIGN CHOICE,
log 36). -/
def execMxclr (g : BitVec 2) (a b : BitVec 6) (s : State) : Host.Outcome State Fault Refusal :=
  issue (wordForm (wMxclr g a b) g none wtScalar)
    (fun _ gr => { ctx := notRoutine gr, reads := [useS a.toNat, useS b.toNat] })
    (fun w c slot gr =>
      let n := (gr.s b.toNat).toNat
      match w.cellRange c gr (gr.s a.toNat).toNat n with
      | some r => r
      | none =>
        let base := ((w.space c gr 2).map (·.2.1)).getD 0 + (gr.s a.toNat).toNat
        if gr.half = 0 ∧ w.mxWrites c slot gr base n then .hold w gr none
        else
          w.ranked c 3 gr fun w =>
          let from_ := 64 * gr.half
          let w := w.modCore c fun k =>
            (upto (min 64 (n - from_)) (base + from_)).foldl (fun k i => k.setCell i 0) k
          if from_ + 64 < n then .hold w { gr with half := gr.half + 1 } none else .done w gr) s

/-- R266: the four flags of a cell, in the places of FLG. -/
def cellFlags (x : Cell40) : BitVec 7 :=
  let f := x.toNat / 2 ^ 36
  BitVec.ofNat 7 (f % 2 + f / 2 * 4)

/-- R266: MXFLAG and MXFLAG.C. The group is held for one cycle for each 64 cells. R266 does not say in which
of them the flags are read: they are read, and cleared, in the last (DESIGN CHOICE, log 36). -/
def mxFlag (x : BitVec 32) (gs : BitVec 2) (d a b : Nat) (clear : Bool) (s : State) :
    Host.Outcome State Fault Refusal :=
  issue (wordForm x gs (some 2) wtScalar)
    (fun _ gr => { ctx := notRoutine gr, reads := [useS a, useS b], writes := [useS d] })
    (fun w c _ gr =>
      let at_ := (gr.s a).toNat
      let n := (gr.s b).toNat
      match w.cellRange c gr at_ n with
      | some r => r
      | none =>
        if 64 * (gr.half + 1) < n then .hold w { gr with half := gr.half + 1 } none
        else
          w.ranked c 3 gr fun w =>
          w.readRows c gr 6 (upto n (((w.space c gr 2).map (·.2.1)).getD 0 + at_)) <|
          let base := ((w.space c gr 2).map (·.2.1)).getD 0
          let k := w.core c
          let cells := upto n at_
          let f := cells.foldl (fun f i => f ||| cellFlags (k.cell (base + i))) 0
          let en := f &&& fmtEnables gr.format
          let gr := { gr with flg := gr.flg ||| f }
          if en ≠ 0 then
            let first := (cells.find? fun i =>
              decide (cellFlags (k.cell (base + i)) &&& fmtEnables gr.format ≠ 0)).getD at_
            .trapWith w gr (flagCause en) (natWord first) 0
          else
            let w := if clear then
                w.setCore c (cells.foldl (fun k i =>
                  k.setCell (base + i) (k.cell (base + i) &&& ~~~(15#40 <<< 36))) k)
              else w
            .done w (gr.flyS 2 d (f.zeroExtend 64))) s

def execMxflag (g : BitVec 2) (d a b : BitVec 6) (s : State) : Host.Outcome State Fault Refusal :=
  mxFlag (wMxflag g d a b) g d.toNat a.toNat b.toNat false s

def execMxflagC (g : BitVec 2) (d a b : BitVec 6) (s : State) : Host.Outcome State Fault Refusal :=
  mxFlag (wMxflagC g d a b) g d.toNat a.toNat b.toNat true s

/-- R267: the matrix state words. The leader is that of the issuing group's set. -/
def Work.mxWord (w : Work) (c slot : Nat) (g : Group) (n : Nat) : Word :=
  let k := w.core c
  let own := g.memberId slot
  let lead := (k.groups.filter fun p =>
    decide (p.2.kind = g.kind) && decide (p.2.launch = g.launch) && decide (p.2.lin = g.lin) &&
      (g.mxSet slot).contains (p.2.memberId p.1) && decide (p.2.memberId p.1 ≠ own))
  let cont :=
    match leastBy (fun (p : Nat × Group) => p.2.memberId p.1) lead with
    | some p => if p.2.memberId p.1 < own then p.2.cont else g.cont
    | none => g.cont
  match n with
  | 0 => g.iset
  | 1 => g.msr
  | 6 =>
    natWord (k.mx.occupancy + 16 * k.mx.latches.length +
      (if k.mx.latchedFor g.launch g.lin own then 256 else 0) +
      if cont ≠ [] then 512 else 0)
  | i => cont.getD (i - 2) 0

/-- R267. -/
def execMxrd (g : BitVec 2) (d n : BitVec 6) (s : State) : Host.Outcome State Fault Refusal :=
  issue (wordForm (wMxrd g d n) g (some 2) wtScalar)
    (fun _ gr => { ctx := notRoutine gr && decide (n.toNat ≤ 6), writes := [useS d.toNat] })
    (fun w c slot gr => .done w (gr.flyS 2 d.toNat (w.mxWord c slot gr n.toNat))) s

end Sys2Proof.Machine
end

