-- ==== Sys2Proof/Machine/Place.lean ====
section
/-!
DEFINITION. Placing groups on a core (R16, R26, R27, R40, R315), active messages and their handler
groups (R33, R34, R197, R308 to R311).
-/

namespace Sys2Proof.Machine

/-! ## Room on a core -/

/-- R27: quarter-rows a group takes from the teams' share; a run group has four more per quarter
for its cell registers (R274). -/
def Group.rows (g : Group) : Nat :=
  match g.kind with
  | .user => g.nv * g.width / 16
  | .run => (g.nv + 4) * g.width / 16
  | _ => 0

def Core.rowsUsed (k : Core) : Nat := k.groups.foldl (fun n p => n + p.2.rows) 0

/-- R40: the load of a quarter. -/
def Core.quarterLoad (k : Core) (q : Nat) : Nat :=
  (k.groups.filter fun p =>
    decide (p.2.qbase ≤ q) && decide (q < p.2.qbase + p.2.width / 16)).length

/-- R16: the lowest quarter of the set that a group of a width binds to. -/
def Core.bind (k : Core) (width : Nat) : Nat :=
  let n := width / 16
  let sets := (upto (4 / n)).map fun i => i * n
  (leastBy (fun b => (upto n b).foldl (fun m q => max m (k.quarterLoad q)) 0) sets).getD 0

/-- The lowest free user slot (R315). -/
def Core.freeSlot (k : Core) : Option Nat :=
  (upto 43 1).find? fun s => (tfind s k.groups).isNone

/-- R315: a new group takes a free issue entry, or joins the order for one; in an idle cluster it
asks for admission (R321). It issues from this core cycle on: a turn stands for the issue of two core
cycles before (log 10). Results on their way to a group that has left the slot are lost with it. -/
def Work.placeGroup (w : Work) (c slot : Nat) (g : Group) : Work :=
  let k := w.core c
  let now := decide (k.entriesUsed < Config.entries) && k.returned.isEmpty
  let g := { g with
    qbase := k.bind g.width, entry := now, parked := !now, born := k.opSeq, readyAt := k.cycle + 2 }
  let w := (w.modCore c fun k => { k with xcs := k.xcs.filter fun x => decide (x.2.slot ≠ slot) }).setGrp c slot g
  let w := if now then w else w.modCore c fun k => { k with returned := k.returned ++ [slot] }
  w.gate c slot (Config.clusterOf c % 12)

/-- R18: parked groups whose event has returned take free issue entries, in the order of return. -/
def execParkedGroupReclaim (core : Nat) (s : State) : Host.Outcome State Fault Refusal :=
  event s fun w =>
    let k := w.core core
    match k.returned with
    | [] => w
    | slot :: rest =>
      if Config.entries ≤ k.entriesUsed then w
      else
        (w.setCore core { k with returned := rest }).modGrp core slot fun g =>
          { g with entry := true, parked := false, readyAt := max g.readyAt k.cycle }

/-- R36: a group that has had 32 consecutive issue opportunities is promoted. -/
def execGroupPromote (core slot : Nat) (s : State) : Host.Outcome State Fault Refusal :=
  event s fun w =>
    let k := w.core core
    match w.grp core slot with
    | some g =>
      if g.opps < 32 ∨ g.promo.isSome ∨ g.kind = .supervisor then w
      else
        (w.setCore core { k with promoSeq := k.promoSeq + 1 }).setGrp core slot
          { g with promo := some k.promoSeq }
    | none => w

/-- Clear an allotment of a core: bytes, or CBUF cells (R58). -/
def Core.zero (k : Core) (buf a n : Nat) : Core :=
  let out := fun (j : Nat) => !(decide (a ≤ j) && decide (j < a + n))
  let k := { k with upset := k.upset.filter fun x => decide (x.1 ≠ 4 + buf) || out x.2 }
  match buf with
  | 0 => { k with wbuf := tfilter (fun j _ => out j) k.wbuf }
  | 1 => { k with abuf := tfilter (fun j _ => out j) k.abuf }
  | 2 => { k with cbuf := tfilter (fun j _ => out j) k.cbuf }
  | _ => { k with sbuf := tfilter (fun j _ => out j) k.sbuf }

/-! ## Active messages (R33, R34, R310, R311) -/

/-- R33: the handler entry of an index, from the table at CODE, read under the launch's owner;
outside near memory it is the outside's: a free value (log 3). Where the page no longer maps, of which
the spec says nothing, the entry is 0 (DESIGN CHOICE, log 35). -/
def Work.handlerEntry (w : Work) (r : BitVec 1024) (h : Nat) : Nat × Work :=
  let va := lrCode r + 4 * h
  let q := w.walk (lrOwner r) va
  match q.1 with
  | .leaf e =>
    let d :=
      if (q.2.place (e.phys va)).isNear then q.2.homeRead e.key false (e.phys va) 4
      else q.2.farData 4
    (leNat d.1 % 2 ^ 24, d.2)
  | _ => (0, q.2)

/-- R33: the handler group of a message. -/
def handlerGroup (r : BitVec 1024) (ent : Nat) (m : AmMsg) : Group :=
  { Group.blank with
    kind := if m.toCore then .handlerCore else .handlerTeam
    launch := m.launch, lin := if m.toCore then 2 ^ 32 else m.idx
    owner := lrOwner r, width := 16, nv := 4 * (lrHvq r + 1)
    live := 0xFFFF, exec := 0xFFFF
    pc := BitVec.ofNat 52 (lrCode r + 2 * ent)
    sreg := tput 0 0 (natWord (lrArgs r)) (tput 0 1 (natWord m.srcLin)
      (tput 0 2 (natWord m.srcCore) []))
    vreg := (upto 16).foldl (fun t i => tput 0 (64 * (i % 4) + i / 4) (m.words.getD i 0) t) [] }

/-- R33: the lowest free handler slot. -/
def Core.handlerSlot (k : Core) : Option Nat :=
  (upto 4 44).find? fun s => (tfind s k.groups).isNone

/-- R33, R310: a message whose receiver is known: held until the team runs, dropped when it has
retired, else an arrival at its core. None when it stays where it is. -/
def Work.amRoute (w : Work) (c : Nat) (m : AmMsg) : Work :=
  let store := fun (w : Work) (c : Nat) => w.modCore c fun k => k.amArrive m
  if m.toCore then store w c
  else
    match w.launch? m.launch with
    | none => w
    | some x =>
      if x.gone.contains m.idx then
        w.modLaunch m.launch fun x => { x with dropped := min (x.dropped + 1) 0xFFFFFFFF }
      else
        match w.team m.launch m.idx with
        | none => w.modLaunch m.launch fun x => { x with heldAm := x.heldAm ++ [m] }
        | some t =>
          if m.ord ∨ !t.resident ∨ t.loaded then w.modTeam m.launch m.idx fun t => { t with heldAm := t.heldAm ++ [m] }
          else store w t.home

/-- R34: two messages of one sender to one receiver, the first sent earlier. -/
def AmMsg.ahead (a b : AmMsg) : Bool :=
  decide (a.num < b.num) && decide (a.launch = b.launch) && decide (a.srcCore = b.srcCore) &&
    decide (a.key.take 2 = b.key.take 2) && a.toCore == b.toCore && decide (a.idx = b.idx)

/-- R34: an earlier message of the same sender to the same receiver is still on its way. -/
def Work.amBehind (w : Work) (m : AmMsg) : Bool :=
  (w.cores.any fun p => p.2.inbox.ams.any (·.ahead m)) ||
    w.dies.any fun d => d.2.net.any fun p =>
      match p.msg with
      | .am _ x => x.ahead m
      | _ => false

/-- R33: a message that has crossed the network reaches its core; not before those that its sender
sent to the same receiver earlier (R34). -/
def execAmArrival (core : Nat) (s : State) : Host.Outcome State Fault Refusal :=
  event s fun w =>
    match (w.core core).inbox.ams.find? fun m => !w.amBehind m with
    | none => w
    | some m =>
      (w.modCore core fun k =>
        { k with inbox := { k.inbox with ams := k.inbox.ams.erase m } }).amRoute core m

/-- R330, R352: a handler of a team that is stopped, or that a save is stopping, spawns stopped. -/
def Work.spawnAs (w : Work) (m : AmMsg) (g : Group) : Group :=
  let off := !m.toCore && ((w.team m.launch m.idx).map fun t => t.saving || t.stop.isSome).getD false
  if off then { g with stopped := true, hpc := g.pc } else g

/-- R34: the oldest message of a core's arrival queue spawns its handler group. -/
def execHandlerSpawn (core : Nat) (s : State) : Host.Outcome State Fault Refusal :=
  event s fun w =>
    let k := w.core core
    match k.arrivals, k.handlerSlot with
    | m :: rest, some slot =>
      let more := k.amOver
      let w := w.setCore core
        { k with arrivals := rest ++ more.take 1, amOver := more.drop 1 }
      match w.launch? m.launch with
      | none => w
      | some x =>
        let e := w.handlerEntry x.record m.hidx
        -- R35: the core has run the grid
        let w := e.2.modLaunch m.launch fun x => { x with cores := ninsert core x.cores }
        (w.acquire core false).placeGroup core slot (w.spawnAs m (handlerGroup x.record e.1 m))
    | _, _ => w

/-- R183, R197: the smallest scope that contains a sender and a receiving core. A sender without a
team has no other core in TEAM or GANG; of a team that is not resident the core is not known. -/
def Work.amScope (w : Work) (g : Group) (c dst : Nat) (known : Bool) : Nat :=
  if !known then 3
  else if c = dst ∨ ((w.teamOf g).map fun t => t.cores.contains dst) = some true then 1
  else if Config.clusterOf c = Config.clusterOf dst ∧ g.hasTeam then 2 else 3

/-- R310: the core that a message to a team travels to: its home, or the sender's own core while
the team has none. -/
def Work.amHome (w : Work) (c launch idx : Nat) : Nat :=
  match w.team launch idx with
  | some t => if t.resident then t.home else c
  | none => c

/-- The 16 words of a four-register payload, lanes 0 to 3; a lane that is not live gives zero
(R310, R345). -/
def Group.payload (g : Group) (va : Nat) : List Lane :=
  (upto 16).map fun i => if bit g.live (i / 4) then g.v (va + i % 4) (i / 4) else 0

/-- The core that a message to a team travels to is that of its handler. -/
def Work.amKnown (w : Work) (launch idx : Nat) : Bool :=
  ((w.team launch idx).map (·.resident)).getD false

/-- R310, R311. R197's hold drains and publishes as a release does, and flushes nothing (R200). For
s1 of the handler (R33) a sender without a team gives 0 (DESIGN CHOICE, log 35). -/
def amSend (x : BitVec 32) (gs : BitVec 2) (va sa h : Nat) (ord : Bool) (s : State) :
    Host.Outcome State Fault Refusal :=
  issue (wordForm x gs none wtScalar)
    (fun w g =>
      { regs := g.hasQuad va
        ctx := notRoutine g && decide (g.kind ≠ .supervisor) &&
          (!ord || decide (g.kind ≠ .handlerCore)) && decide (h < lrHcount (w.recOf g))
        reads := useS sa :: (upto 4 va).map (useVL g), writes := [useF] })
    (fun w c slot g =>
      let r := w.recOf g
      let t := (g.s sa).toNat
      let idx := t % 2 ^ 32
      let toCore := (g.s sa).getLsbD 32
      if 2 ^ 33 ≤ t ∨ (!toCore ∧ lrTeams r ≤ idx) ∨ (toCore ∧ Config.cores ≤ idx) ∨ (toCore ∧ ord) then
        .illegal 6
      else
        let dst := if toCore then idx else w.amHome c g.launch idx
        match w.release c g (w.amScope g c dst (toCore || w.amKnown g.launch idx)) false with
        | .busy w g => .hold w g none
        | .done w g =>
          if toCore && !(w.core dst).good then
            .done w (g.sflNow (mkSfl false false false true))
          else
            let m : AmMsg :=
              { launch := g.launch, toCore, idx, hidx := h
                srcLin := if g.kind = .handlerCore then 0 else g.lin, srcCore := c, ord
                key := [g.lin, g.keyIdx slot, 0, g.ordSeq], words := g.payload va, num := w.msgSeq }
            -- one route from a sender to a receiver, so that send order is kept (R34)
            let w := w.tick.2.send 0 g.prio 1 (Config.dieOf c) (clusterPort c) (Config.dieOf dst)
              (clusterPort dst) 0 (.am dst m) c
            let g := { g with ordSeq := if ord then g.ordSeq + 1 else g.ordSeq }
            .done w (g.sflNow (mkSfl true false false false))) s

def execAmsendAny (g : BitVec 2) (v a : BitVec 6) (h : BitVec 4) (s : State) :
    Host.Outcome State Fault Refusal :=
  amSend (wAmsendAny g v a h) g v.toNat a.toNat h.toNat false s

def execAmsendOrd (g : BitVec 2) (v a : BitVec 6) (h : BitVec 4) (s : State) :
    Host.Outcome State Fault Refusal :=
  amSend (wAmsendOrd g v a h) g v.toNat a.toNat h.toNat true s

end Sys2Proof.Machine
end

