-- ==== Sys2Proof/Machine/Sweep.lean ====
section
/-!
DEFINITION. Declared tensors and the sweep engine: the SWP and CTX majors, run groups, cursors,
wakes, boundaries and engine faults (R268 to R302, R425).
-/

namespace Sys2Proof.Machine

/-! ## Tables -/

def Work.tensor? (w : Work) (id : Nat) : Option Tensor := tfind id w.tensors
def Work.setTensor (w : Work) (id : Nat) (t : Tensor) : Work := { w with tensors := tins id t w.tensors }
def Work.modTensor (w : Work) (id : Nat) (f : Tensor → Tensor) : Work :=
  { w with tensors := tmod id f w.tensors }
def Work.modSeg (w : Work) (id k : Nat) (f : Seg → Seg) : Work :=
  w.modTensor id fun t => { t with segs := tmod k f t.segs }

/-- R268: the run width. -/
def Tensor.rw (t : Tensor) : Nat := 16 * 2 ^ t.rwid
/-- Bytes of an element. -/
def Tensor.eb (t : Tensor) : Nat := 2 ^ t.esz
/-- R272: the summary map. -/
def Tensor.smap (t : Tensor) : Nat := t.kbase + 8 * ((t.count + 63) / 64)
/-- R269: the first cell of segment k, and the end of it. -/
def Tensor.segBase (t : Tensor) (k : Nat) : Nat := 64 * t.seglen * k
def Tensor.segEnd (t : Tensor) (k : Nat) : Nat :=
  if k + 1 < t.segs.length then t.segBase (k + 1) else t.count
/-- R269: the segment of a cell. -/
def Tensor.segOf (t : Tensor) (j : Nat) : Nat := min (j / (64 * max t.seglen 1)) (t.segs.length - 1)

/-- R292: cells in a state, over the tensor. -/
def Tensor.cells (t : Tensor) (st : Nat) : Nat :=
  t.segs.foldl (fun n s => n + tget 0 st s.2.counts) 0

/-- R286: a segment closes; a save notes where it goes on. -/
def Seg.close (s : Seg) (t : Tensor) (p : SegPhase) : Seg :=
  { s with phase := .closing, resume := if t.saving then some p else none }

/-- A cell of a segment changes its state. -/
def Seg.move (s : Seg) (a b : Nat) : Seg :=
  let c := if a ≤ 4 then tput 0 a (tget 0 a s.counts - 1) s.counts else s.counts
  { s with counts := tput 0 b (tget 0 b c + 1) c }

/-- R292: word 0 of the completion record. -/
def Tensor.word0 (t : Tensor) : Nat :=
  let b := fun (x : Bool) => if x then 1 else 0
  b t.fin + 2 * b t.halt + 4 * b t.wasQuiet + 8 * b t.eflt + t.flags.toNat * 2 ^ 8 +
    t.segs.foldl (fun m s => max m s.2.sweeps) 0 % 2 ^ 32 * 2 ^ 32

/-- R292: the completion record as it stands. -/
def Tensor.record (t : Tensor) : Nat :=
  t.word0 + t.cells 0 * 2 ^ 64 + t.cells 1 * 2 ^ 97 + t.cells 2 * 2 ^ 130 + t.cells 3 * 2 ^ 163 +
    t.cells 4 * 2 ^ 196

/-- R292: write the completion record through the engine's SBUF port. A record that SWSTART has placed
within the ring control area of R29 overwrites the control words: R29 discards writes there of TST and the
copy engine, and does not name the sweep engine (DESIGN CHOICE, log 36). -/
def Work.writeRecord (w : Work) (t : Tensor) : Work :=
  match w.team t.launch t.lin with
  | some m => w.modCore m.home fun k => k.setBufNum 3 (m.sb + t.recAt) 32 t.record fun _ => false
  | none => w

/-! ## The engine's accesses (R425) -/

/-- What an engine access answers. -/
inductive Got (α : Type) where
  | ok (w : Work) (x : α)
  | wait (w : Work)
  | fault (w : Work) (va : Nat)
  | access (w : Work)

/-- The pages of a translated range. -/
def pageTab (owner : Nat) : Nat → List Span → Tab (Nat × Nat) → Tab (Nat × Nat)
  | _, [], t => t
  | va, s :: l, t =>
    let va := va % 2 ^ 52
    pageTab owner (va + s.len) l
      (tins (owner * 2 ^ 36 + va / 65536) (s.pa - va % 65536, s.key) t)

/-- Translate and check ranges for reading, and for writing too where asked; the engine keeps the
translations of pages it is to write (R425). -/
def Work.engSpans (w : Work) (t : Tensor) (c : Nat) (write : Bool) :
    List (Nat × Nat) → List Span → Got (List Span)
  | [], l => .ok w l
  | (va, n) :: rest, l =>
    let g := engineGroup false t.owner
    match w.spansOf c g .load false va n with
    | .fault w va => .fault w va
    | .wait w => .wait w
    | .access w => .access w
    | .ok w x =>
      if !write then w.engSpans t c write rest (l ++ x)
      else
        match w.spansOf c g .store false va n with
        | .fault w va => .fault w va
        | .wait w => .wait w
        | .access w => .access w
        | .ok w _ =>
          (w.modCore c fun k => { k with engPages := pageTab t.owner va x k.engPages }).engSpans t c
            write rest (l ++ x)

/-- The tag of a tensor's fills: its team and its descriptor. -/
def Tensor.tag (t : Tensor) : Nat := teamKey t.launch t.lin * 2 ^ 52 + t.desc

/-- Read ranges, one after another, as one list of bytes. The lines read stay the engine's until its step
is over: a later read of the step may need them again. -/
def Work.engGet (w : Work) (t : Tensor) (c : Nat) (write : Bool) (l : List (Nat × Nat)) :
    Got (List Byte) :=
  match w.engSpans t c write l [] with
  | .ok w x =>
    match w.engineLook c 65 t.launch t.lin t.pri false x t.tag with
    | (w, some r) => .ok w r.1
    | (w, none) => .wait w
  | .wait w => .wait w
  | .fault w va => .fault w va
  | .access w => .access w

/-- What a step of the engine has read for a tensor is used up. -/
def Work.engForget (w : Work) (t : Tensor) (c : Nat) : Work :=
  w.modCore c fun k => k.engineDrop 65 t.tag fun _ => true

/-- A range in pages that the engine has checked ahead of use. -/
def Core.checkedSpans (k : Core) (owner : Nat) : Nat → Nat → Nat → List Span
  | 0, _, _ => []
  | fuel + 1, va, n =>
    if n = 0 then []
    else
      let va := va % 2 ^ 52
      let len := min n (65536 - va % 65536)
      match tfind (owner * 2 ^ 36 + va / 65536) k.engPages with
      | some p =>
        { pa := p.1 + va % 65536, len, key := p.2 } :: k.checkedSpans owner fuel (va + len) (n - len)
      | none => []

/-- The spans of a range whose pages have been checked. -/
def Work.checked (w : Work) (t : Tensor) (c va n : Nat) : List Span :=
  (w.core c).checkedSpans t.owner (n / 65536 + 2) va n

/-- R425: read ranges whose pages have been checked; none while data is still to come. -/
def Work.engGetChecked (w : Work) (t : Tensor) (c : Nat) (l : List (Nat × Nat)) :
    Work × Option (List Byte) :=
  match w.engineLook c 65 t.launch t.lin t.pri false (l.flatMap fun x => w.checked t c x.1 x.2) t.tag with
  | (w, some r) => (w.engForget t c, some r.1)
  | (w, none) => (w, none)

/-- R272: set or clear one bit of a byte of the summary map. Segments share bytes there, so that the
other bits are left as they stand at the home: an atomic AND or OR of the aligned word, where its I/O
target admits one (R402). `v` is the bit, 8 times its value, and 16 times the byte to be written elsewhere. -/
def Work.engPutBit (w : Work) (t : Tensor) (c va v : Nat) : Work × List Nat :=
  match w.checked t c va 1 with
  | [s] =>
    if (w.place s.pa).isNear || (w.place s.pa).isRemote then
      let mask := 2 ^ (8 * (s.pa % 4) + v % 8)
      let op := if v / 8 % 2 = 1 then (6, mask) else (5, 2 ^ 32 - 1 - mask)
      let o := w.startStore c 65 { Group.blank with launch := t.launch, lin := t.lin, pri := t.pri } 1 []
      (o.2.request
        { core := c, slot := 65, launch := t.launch, lin := t.lin, gidx := 0, line := s.pa / 128
          ef := false, ms := false, eng := true, counted := false, key := s.key, pri := t.pri, op := o.1
          kind := .atomic op.1 4 false [(0, s.pa / 4 * 4, natWord op.2, 0)] }, [o.1])
    else w.engineWrite c 65 t.launch t.lin t.pri false [s] (leBytes 1 (v / 16))
  | _ => (w, [])

/-- Write a number of `n` bytes, or a bit where `n` is 0; the pages have been checked. The operations
still to be performed are returned. -/
def Work.engPut (w : Work) (t : Tensor) (c va n v : Nat) : Work × List Nat :=
  if n = 0 then w.engPutBit t c va v
  else w.engineWrite c 65 t.launch t.lin t.pri false (w.checked t c va n) (leBytes n v)

/-- Several writes. -/
def Work.engPuts (w : Work) (t : Tensor) (c : Nat) (l : List (Nat × Nat × Nat)) : Work × List Nat :=
  l.foldl (fun q x =>
    let r := q.1.engPut t c x.1 x.2.1 x.2.2
    (r.1, q.2 ++ r.2)) (w, [])

/-- Part of a list of bytes as a number. -/
def numAt (l : List Byte) (i n : Nat) : Nat := leNat ((l.drop i).take n)

/-- Set or clear bit `i` of a number. -/
def withBit (x i : Nat) (b : Bool) : Nat :=
  if b then (if x.testBit i then x else x + 2 ^ i) else (if x.testBit i then x - 2 ^ i else x)

/-- R272: the write of a summary bit into a byte that held `sum`. -/
def Tensor.summaryPut (t : Tensor) (u sum : Nat) (b : Bool) : Nat × Nat × Nat :=
  (t.smap + u / 8, 0, u % 8 + (if b then 8 else 0) + 16 * withBit sum (u % 8) b)

/-- R272: the summary bit of a chunk, from its 64 skip bits; cells beyond COUNT count as 1. -/
def Tensor.summary (t : Tensor) (u skip : Nat) : Bool :=
  (upto 64).all fun i => decide (t.count ≤ 64 * u + i) || skip.testBit i

/-- The engine of a segment is held at a page fault (R336), or stops with an engine fault. -/
def Work.engStop (w : Work) (id k : Nat) (s : Seg) (va : Option Nat) (write : Bool := false) : Work :=
  match va with
  | some va =>
    (w.supEvent s.core 2 (s.slot.getD 0) 0 0 (natWord (va + if write then 2 ^ 63 else 0))).modSeg id k
      fun s => { s with fault := some va }
  | none => w.modSeg id k fun s => { s with efault := true }

/-- Operations of a core have all been performed. -/
def Work.opsDone (w : Work) (c : Nat) (l : List Nat) : Bool :=
  l.all fun op => (w.core c).stores.all fun p => decide (p.1 ≠ op)

/-- A segment has no page fault to wait for, and no takeback delays its engine (R342). -/
def Work.engAble (w : Work) (s : Seg) : Bool :=
  s.fault.isNone && decide ((w.core s.core).sweepHold ≤ (w.core s.core).cycle)

/-- Every write of a segment's engine has been performed. -/
def Work.engDone (w : Work) (s : Seg) : Bool := s.todo.isEmpty && w.opsDone s.core s.pend

/-- The segment's engine may act: no page fault, no engine fault, no write of its own under way. -/
def Work.engFree (w : Work) (s : Seg) : Bool := w.engAble s && !s.efault && w.engDone s

/-- The writes to the descriptor that a segment's engine has still to make. A page fault holds it
(R336). A page that no longer admits the write, of which the rules say nothing, loses it (DESIGN
CHOICE, log 28). -/
def Work.engDrain (w : Work) (id k : Nat) (t : Tensor) (s : Seg) : List (Nat × Nat × Nat) → Work
  | [] => w
  | x :: rest =>
    let next := fun (w : Work) (ops : List Nat) =>
      (w.modSeg id k fun s => { s with todo := rest, pend := s.pend ++ ops })
    match w.spansOf s.core (engineGroup false t.owner) .store false x.1 x.2.1 with
    | .ok w l =>
      let q := w.engineWrite s.core 65 t.launch t.lin t.pri false l (leBytes x.2.1 x.2.2)
      (next q.1 q.2).engDrain id k t s rest
    | .wait w => w
    | .fault w va => w.engStop id k s (some va) true
    | .access w => (next w []).engDrain id k t s rest

/-- A segment's engine goes on with its writes to the descriptor. -/
def Work.drain (w : Work) (id k : Nat) : Work :=
  match w.tensor? id with
  | some t =>
    match tfind k t.segs with
    | some s => if w.engAble s then w.engDrain id k t s s.todo else w
    | none => w
  | none => w

/-! ## Wakes (R281 to R283) -/

/-- R282: the SWSTART for whose opening boundary a CWAKE.ORD waits, which its key tells last: the first
after its issue. -/
def wakeStart (key : List Nat) : Nat := key.getD 4 0

/-- R282: a boundary admits a wake: by its kind, a CWAKE.ORD only once its SWSTART has come; and at an
opening boundary, which alone admits kind 4, those that an engine fault has left (R425). -/
def HeldWake.admitted (h : HeldWake) (starts : Nat) (kinds : List Nat) : Bool :=
  (kinds.contains h.kind && (decide (h.kind ≠ 4) || decide (wakeStart h.key ≤ starts))) ||
    (h.atOpen && kinds.contains 4)

/-- R283: the next wake of a boundary among those it admits. -/
def nextWake (starts : Nat) (kinds : List Nat) (l : List HeldWake) : Option HeldWake :=
  let l := l.filter (·.admitted starts kinds)
  let pick := fun (n : Nat) =>
    let x := l.filter fun h => decide (h.kind = n)
    if n = 2 ∨ n = 4 then (sortBy (fun (a b : HeldWake) => keyLt a.key b.key) x).head? else x.head?
  match pick 1 with
  | some h => some h
  | none =>
    match pick 2 with
    | some h => some h
    | none =>
      match pick 4 with
      | some h => some h
      | none => l.find? fun h => decide (h.kind = 3) || decide (h.kind = 5)

/-- The monitor of a cell goes from its slice. -/
def Work.freeCell (w : Work) (id j : Nat) (a : Arm) : Work :=
  match w.home? a.pa with
  | none => w
  | some h =>
    ((w.slice h.die h.slice).mons.filter fun m =>
      decide (m.2.cell = some (id, j)) && decide (m.2.op = a.op)).foldl
        (fun w m => w.freeMonitor h.die h.slice m.1) w

/-- Cell `j` becomes awake with a reference: context, skip bit, summary bit, counts. `cpc` replaces
the continuation point where given. -/
def Work.awaken (w : Work) (id k : Nat) (t : Tensor) (s : Seg) (j old ref : Nat) (cpc : Option Nat)
    (skip sum : Nat) : Work :=
  let u := j / 64
  let q := w.engPuts t s.core
    ((match cpc with
      | some p => [(t.cbase + 16 * j, 2, p)]
      | none => []) ++
      [(t.cbase + 16 * j + 2, 2, 256 * ref), (t.kbase + 8 * u, 8, withBit skip (j % 64) false),
       t.summaryPut u sum false])
  q.1.modSeg id k fun s => { s.move old 0 with pend := s.pend ++ q.2 }

/-- The ranges that a wake of cell `j` reads and writes. -/
def Tensor.wakeRanges (t : Tensor) (j : Nat) : List (Nat × Nat) :=
  [(t.cbase + 16 * j, 16), (t.kbase + 8 * (j / 64), 8), (t.smap + j / 64 / 8, 1)]

/-- A wake that gives the cell its reference and its continuation: MONFULL (R299), or a monitor that an
engine fault has kept from being cancelled (R425). -/
def HeldWake.given (h : HeldWake) : Option (Nat × Nat) :=
  match h.key with
  | [ref, cpc] => some (ref, cpc)
  | _ => none

/-- R281: apply one wake. -/
def Work.applyWake (w : Work) (id k : Nat) (t : Tensor) (s : Seg) (h : HeldWake) : Got PUnit :=
  match w.engGet t s.core true (t.wakeRanges h.cell) with
  | .wait w => .wait w
  | .fault w va => .fault w va
  | .access w => .access w
  | .ok w l =>
    let w := w.engForget t s.core
    let st := numAt l 2 1
    let own := h.given
    let wake := fun (w : Work) =>
      Got.ok (w.awaken id k t s h.cell st ((own.map Prod.fst).getD h.kind) (own.map Prod.snd)
        (numAt l 16 8) (numAt l 24 1)) PUnit.unit
    match st with
    | 1 => wake w
    | 2 =>
      let w := match tfind h.cell t.armed with
        | some a => w.freeCell id h.cell a
        | none => w
      wake (w.modTensor id fun t => { t with armed := tdel h.cell t.armed })
    | _ => .ok w PUnit.unit

/-- R283: apply the wakes of a boundary; true when none remains. -/
def Work.boundaryWakes (w : Work) (id k : Nat) (kinds : List Nat) : Nat → Work × Bool
  | 0 => (w, true)
  | n + 1 =>
    match w.tensor? id with
    | none => (w, false)
    | some t =>
      match tfind k t.segs with
      | none => (w, false)
      | some s =>
        if !w.engFree s then (w, false)
        else
          match nextWake t.starts kinds s.held with
          | none => (w, true)
          | some h =>
            match w.applyWake id k t s h with
            | .ok w _ =>
              (w.modSeg id k fun s => { s with held := s.held.erase h }).boundaryWakes id k kinds n
            | .wait w => (w, false)
            | .fault w va => (w.engStop id k s (some va), false)
            | .access w => (w.engStop id k s none, false)

/-- Apply the wakes of a boundary of a segment. -/
def Work.wakesAt (w : Work) (id k : Nat) (kinds : List Nat) : Work × Bool :=
  match (w.tensor? id).bind fun t => tfind k t.segs with
  | some s => w.boundaryWakes id k kinds (s.held.length + 1)
  | none => (w, false)

/-! ## Run groups (R274, R275) -/

/-- R274: the run group takes the highest free user slot and its quarter-rows. -/
def execRunGroupPlace (tensor seg : Nat) (s : State) : Host.Outcome State Fault Refusal :=
  event s fun w =>
    match w.tensor? tensor with
    | none => w
    | some t =>
      match tfind seg t.segs with
      | none => w
      | some x =>
        if x.phase ≠ .placing ∨ !w.engAble x then w
        else if t.halting then w.modSeg tensor seg fun x => x.close t (x.resume.getD .opening)
        else
          let k := w.core x.core
          match (upto 43 1).reverse.find? fun s => (tfind s k.groups).isNone with
          | none => w
          | some slot =>
            if Config.teamRows < k.rowsUsed + (4 * t.rvq + 4) * t.rw / 16 then w
            else
              let g : Group :=
                { Group.blank with
                  kind := .run, launch := t.launch, lin := t.lin, owner := t.owner
                  width := t.rw, nv := 4 * t.rvq, pri := t.pri }
              (w.placeGroup x.core slot g).modSeg tensor seg fun x =>
                { x with slot := some slot, phase := .opening }

/-- R277: the class of a run is over. -/
def RunCtx.classOver (r : RunCtx) : Bool := decide (r.lanes &&& ~~~r.done = 0)

/-- R275: the state at the start of the next class: the lanes with the lowest continuation point. -/
def Group.startClass (g : Group) (r : RunCtx) (cycle : Nat) : Group :=
  let p := ((lanesOf r.todo).map fun l => tget 0 l r.cpc).foldl min (2 ^ 16)
  let lanes := maskOf fun l => bit r.todo l && decide (tget 0 l r.cpc = p)
  { g with
    pc := BitVec.ofNat 52 (r.rbase + 4 + 2 * p), exec := lanes
    sreg := tput 0 0 r.args (tput 0 1 (natWord r.base) (tput 0 2 (natWord r.desc)
      (tput 0 3 (natWord p) [])))
    mreg := [], sfl := 0, fmt := 0, flg := 0, chk := false, stack := [], readyAt := cycle
    run := some { r with cls := p, lanes, todo := r.todo &&& ~~~lanes, budget := 0 } }

/-- R277, R321: the run group becomes ready with the next class; in an idle cluster it asks for
admission. -/
def Work.enterClass (w : Work) (c slot : Nat) (g : Group) (r : RunCtx) : Work :=
  (w.setGrp c slot (g.startClass r (w.core c).cycle)).gate c slot (Config.clusterOf c % 12)

/-- R278: the end of a class: every write in flight takes effect. -/
def Group.endClass (g : Group) : Group := { g.flights.foldl Group.land1 g with flights := [] }

/-- R275, R292: at the end of a class its flags enter FLAGS of the completion record. -/
def Work.gatherFlags (w : Work) (id : Nat) (f : BitVec 7) : Work :=
  match (w.modTensor id fun t => { t with flags := t.flags ||| f }).tensor? id with
  | none => w
  | some t =>
    let w := w.setTensor id t
    match w.team t.launch t.lin with
    | some m =>
      w.modCore m.home fun k =>
        k.setBufNum 3 (m.sb + t.recAt + 1) 1 t.flags.toNat fun _ => false
    | none => w

/-- The run group of a segment. -/
def Work.runGroup (w : Work) (s : Seg) : Option (Nat × Group) :=
  match s.slot with
  | some slot => (w.grp s.core slot).map fun g => (slot, g)
  | none => none

/-- Loads and arithmetic of the run have landed. -/
def Group.landed (g : Group) : Bool := decide (g.lc = 0) && decide (g.xc = 0) && g.pend.isEmpty

/-- R275, R277: what the load of a run finds. A lane that faults at load counts as exited. -/
def loadRun (t : Tensor) (k base fin skip : Nat) (l : List Byte) (id : Nat) : RunCtx :=
  let n := fin - base
  let on := maskOf fun i => decide (i < n) && !skip.testBit ((base + i) % 64)
  let st := fun i => numAt l (16 * i + 2) 1
  let run := maskOf fun i => bit on i && decide (st i = 0)
  let bad := maskOf fun i => bit on i && decide (4 < st i)
  let tab := fun (f : Nat → Nat) => (lanesOf on).map fun i => (i, f i)
  { tensor := id, seg := k, base, args := t.args, desc := t.desc, rbase := t.rbase, cls := 0, lanes := 0
    cpc := tab fun i => numAt l (16 * i) 2
    st := tab fun i => if 4 < st i then 4 else st i
    ref := tab fun i => if 4 < st i then 0xF0 else numAt l (16 * i + 3) 1
    ref0 := tab fun i => numAt l (16 * i + 3) 1
    executed := run, repaired := on &&& ~~~run, todo := run, done := bad, asks := [], wakes := []
    budget := 0 }

/-- R273: bytes read for some lanes of a run, `z` a lane, laid out for all of its `n`; a cell whose skip
bit is 1 is not read. -/
def spread (on : Word) (z n : Nat) (l : List Byte) : List Byte :=
  ((upto n).foldl (fun (q : List Byte × List Byte) i =>
    if bit on i then (q.1 ++ q.2.take z, q.2.drop z)
    else (q.1 ++ List.replicate z 0, q.2)) ([], l)).1

/-- R275: registers at run load: v0 holds the element, c0 to c2 the cell's words. -/
def Group.loadCells (g : Group) (t : Tensor) (r : RunCtx) (n : Nat) (l : List Byte) : Group :=
  let on := r.executed ||| r.repaired
  let put := fun (tab : Tab Lane) (reg i v : Nat) =>
    tput 0 (64 * reg + i) (BitVec.ofNat 32 v) tab
  let v := (lanesOf on).foldl (fun tab i =>
    let e := numAt l (16 * n + t.eb * i) t.eb
    let tab := put tab 0 i e
    let tab := if t.esz = 3 then put tab 1 i (e / 2 ^ 32) else tab
    (upto 3).foldl (fun tab c => put tab (61 + c) i (numAt l (16 * i + 4 + 4 * c) 4)) tab) []
  { g with
    vreg := v, poison := [], live := on &&& ~~~r.done, exec := 0, flights := []
    run := some r }

/-- R277: the engine passes a chunk by its summary bit, or loads the next run. -/
def Work.runStep (w : Work) (id k : Nat) (t : Tensor) (s : Seg) : Work :=
  let u := s.cursor / 64
  let stop := fun (w : Work) (va : Option Nat) => (w.engForget t s.core).engStop id k s va
  match w.engGet t s.core true [(t.smap + u / 8, 1)] with
  | .wait w => w
  | .fault w va => stop w (some va)
  | .access w => stop w none
  | .ok w sum =>
    if (numAt sum 0 1).testBit (u % 8) then
      (w.engForget t s.core).modSeg id k fun s => { s with cursor := 64 * (u + 1), phase := .boundary }
    else
      let fin := min (t.segEnd k) (s.cursor + t.rw)
      let n := fin - s.cursor
      match w.engGet t s.core true [(t.kbase + 8 * u, 8)] with
      | .wait w => w
      | .fault w va => stop w (some va)
      | .access w => stop w none
      | .ok w sk =>
        let skip := numAt sk 0 8
        let on := maskOf fun i => decide (i < n) && !skip.testBit ((s.cursor + i) % 64)
        let cells := (lanesOf on).map (s.cursor + ·)
        match w.engGet t s.core true
            ((cells.map fun j => (t.cbase + 16 * j, 16)) ++
              cells.map fun j => (t.ebase + t.eb * j, t.eb)) with
        | .wait w => w
        | .fault w va => stop w (some va)
        | .access w => stop w none
        | .ok w x =>
          let l := spread on 16 n x ++ spread on t.eb n (x.drop (16 * cells.length))
          let r := loadRun t k s.cursor fin skip l id
          let w := (w.engForget t s.core).debit s.core 300
          match w.runGroup s with
          | none => w
          | some (slot, g) =>
            let g := g.loadCells t r n l
            let w := w.modSeg id k fun s =>
              { s with
                cursor := s.cursor + t.rw
                phase := if r.executed ||| r.repaired = 0 then .boundary else .running }
            if r.executed = 0 then
              w.setGrp s.core slot (if r.repaired = 0 then { g with run := none } else g)
            else w.enterClass s.core slot g r

/-- R277: a step of the engine between runs, or to the next class of the run. -/
def execSweepRunStep (tensor seg : Nat) (s : State) : Host.Outcome State Fault Refusal :=
  event s fun w =>
    match w.tensor? tensor with
    | none => w
    | some t =>
      match tfind seg t.segs with
      | none => w
      | some x =>
        if !w.engFree x then w
        else
          match x.phase with
          | .sweeping =>
            if t.halting then w.modSeg tensor seg fun x => x.close t .sweeping
            else if t.segEnd seg ≤ x.cursor then w
            else w.runStep tensor seg t x
          | .running =>
            match w.runGroup x with
            | some (slot, g) =>
              match g.run with
              | some r =>
                if r.classOver && g.landed && decide (r.todo ≠ 0) then
                  let g := g.endClass
                  (w.gatherFlags tensor g.flg).enterClass x.core slot g r
                else w
              | none => w
            | none => w
          | _ => w

/-! ## Write-back (R278) -/

/-- R278: the writes of a run, in order: elements, contexts, maps. -/
def runWrites (t : Tensor) (r : RunCtx) (g : Group) (skip sum : Nat) : List (Nat × Nat × Nat) :=
  let lo := fun (reg i : Nat) => (g.v reg i).toNat
  let on := r.executed ||| r.repaired
  let u := r.base / 64
  let skip' := (lanesOf on).foldl (fun x i =>
    withBit x ((r.base + i) % 64) (decide (tget 0 i r.st ≠ 0))) skip
  ((lanesOf r.executed).map fun i =>
    (t.ebase + t.eb * (r.base + i), t.eb,
      (lo 0 i + (if t.esz = 3 then lo 1 i * 2 ^ 32 else 0)) % 256 ^ t.eb)) ++
  ((lanesOf on).map fun i =>
    (t.cbase + 16 * (r.base + i), 16,
      tget 0 i r.cpc + tget 0 i r.st * 2 ^ 16 + tget 0 i r.ref * 2 ^ 24 + lo 61 i * 2 ^ 32 +
        lo 62 i * 2 ^ 64 + lo 63 i * 2 ^ 96)) ++
  [(t.kbase + 8 * u, 8, skip'), t.summaryPut u sum (t.summary u skip')]

/-- R278: the counts and armed monitors after a run. -/
def Tensor.afterRun (t : Tensor) (k : Nat) (r : RunCtx) (pend : List Nat) : Tensor :=
  let s := fun (s : Seg) =>
    let s := (lanesOf r.executed).foldl (fun s i => s.move 0 (tget 0 i r.st)) s
    let s := (lanesOf r.repaired).foldl (fun s i =>
      if tget 0 i r.ref = 0xF0 ∧ tget 0 i r.st = 4 ∧ tget 0 i r.ref0 ≠ 0xF0 then s.move 5 4 else s) s
    { s with pend := s.pend ++ pend, phase := .boundary }
  let arm := r.asks.foldl (fun a x =>
    match x.2.result with
    | some (1, _) =>
      tins (r.base + x.1)
        { op := x.2.op, cpc := x.2.cpc, pa := x.2.pa, key := x.2.key, cond := x.2.cond
          value := x.2.value } a
    | _ => a) t.armed
  { t with segs := tmod k s t.segs, armed := arm }

/-- Change several segments. -/
def Tensor.modSegs (t : Tensor) (l : List Nat) (f : Nat → Seg → Seg) : Tensor :=
  { t with segs := l.foldl (fun s k => tmod k (f k) s) t.segs }

/-- R198, R282: wakes of the run: of the segment itself, or for another, to be sent when the run's
write-back, of some sectors, has been performed. -/
def Tensor.runWakes (t : Tensor) (k : Nat) (r : RunCtx) (secs : List Nat) : Tensor :=
  let l := sortBy (fun (a b : Nat × Nat) => decide (a.1 < b.1)) r.wakes
  let l := l.mapIdx fun i x => (i, x.2)
  let own := l.filter fun x => decide (t.segOf x.2 = k)
  let out := l.filter fun x => decide (t.segOf x.2 ≠ k)
  t.modSegs [k] fun _ s =>
    { s with
      held := s.held ++ own.map fun x => { kind := 1, key := [], cell := x.2, op := 0 }
      out := s.out ++ out.map fun x => ([k, r.base, x.1], x.2)
      secs := if out = [] then s.secs else (s.secs ++ secs).eraseDups }

/-- R198, R202: the wakes of a run for other segments, once its write-back has been performed: its
sectors enter INB of each target core, whose L1 gives up their lines, and the wakes travel as control
packets. -/
def Work.sendWakes (w : Work) (id k : Nat) : Work :=
  match w.tensor? id with
  | none => w
  | some t =>
    match tfind k t.segs with
    | none => w
    | some s =>
      if s.out = [] then w
      else
        let dst := fun j => ((tfind (t.segOf j) t.segs).map (·.core)).getD s.core
        let lines := (s.secs.map (· / 4)).eraseDups
        let w := (s.out.map fun x => dst x.2).eraseDups.foldl (fun w c =>
          w.modCore c fun m =>
            (m.inbWrite s.secs).l1Invalidate (fun n _ => lines.contains n)
              fun f => lines.contains f.req.line) w
        (s.out.foldl (fun w x =>
          w.control s.core (dst x.2) (.xwake (dst x.2) id (t.segOf x.2) x.2 x.1)) w).modSeg id k
            fun s => { s with out := [], secs := [] }

/-- R282, R283: the run boundary of a segment: the wakes of its last run and of the boundary. -/
def Work.runBoundary (w : Work) (id k : Nat) : Work :=
  match (w.tensor? id).bind fun t => tfind k t.segs with
  | none => w
  | some s =>
    if s.phase ≠ .boundary ∨ !w.engFree s then w
    else
      let q := (w.sendWakes id k).wakesAt id k [1, 3, 5]
      if q.2 then q.1.modSeg id k fun x => { x with phase := .sweeping } else q.1

/-- The sectors of ranges whose pages have been checked. -/
def Work.checkedSecs (w : Work) (t : Tensor) (c : Nat) (l : List (Nat × Nat × Nat)) : List Nat :=
  (l.flatMap fun x => (w.checked t c x.1 (max 1 x.2.1)).flatMap fun (p : Span) =>
    (upto p.len p.pa).map (· / 32)).eraseDups

/-- R278, R283: the run is written back; then its wakes and those of the run boundary apply. -/
def execRunWriteBack (tensor seg : Nat) (s : State) : Host.Outcome State Fault Refusal :=
  event s fun w =>
    match w.tensor? tensor with
    | none => w
    | some t =>
      match tfind seg t.segs with
      | none => w
      | some x =>
        if !w.engFree x then w
        else
          match x.phase with
          | .boundary => w.runBoundary tensor seg
          | .running =>
            match w.runGroup x with
            | some (slot, g) =>
              match g.run with
              | some r =>
                let quiet := g.landed && decide (g.sc = 0) &&
                  r.asks.all fun a => a.2.result.isSome
                if !(r.classOver && decide (r.todo = 0) && quiet) then w
                else
                  let u := r.base / 64
                  match w.engGetChecked t x.core [(t.kbase + 8 * u, 8), (t.smap + u / 8, 1)] with
                  | (w, none) => w
                  | (w, some l) =>
                    let g := if r.executed = 0 then g else g.endClass
                    let puts := runWrites t r g (numAt l 0 8) (numAt l 8 1)
                    let q := w.engPuts t x.core puts
                    let t := (t.afterRun seg r q.2).runWakes seg r (q.1.checkedSecs t x.core puts)
                    let w := ((q.1.setTensor tensor t).gatherFlags tensor g.flg).setGrp x.core slot
                      { g with run := none, exec := 0, flg := 0 }
                    w.runBoundary tensor seg
              | none => w
            | none => w
          | _ => w

/-- R277: a class that has issued 65 536 instructions: its remaining lanes fault. -/
def execClassBudgetExhausted (tensor seg : Nat) (s : State) : Host.Outcome State Fault Refusal :=
  event s fun w =>
    match (w.tensor? tensor).bind fun t => tfind seg t.segs with
    | none => w
    | some x =>
      match w.runGroup x with
      | some (slot, g) =>
        match g.run with
        | some r =>
          let rest := r.lanes &&& ~~~r.done
          if r.budget < 65536 ∨ rest = 0 then w
          else
            w.setGrp x.core slot
              { (g.unready.dropLanes rest) with
                run := some (r.leave rest (r.cpcOf g.pc) (fun _ => some 4) fun _ => some 0xF1) }
        | none => w
      | none => w

/-! ## Boundaries and ends (R279, R280, R302) -/

/-- R202: a wake of a CWAKE or of a run is still on its way. -/
def Work.anyWake (w : Work) (p : (tensor seg : Nat) → List Nat → Bool) : Bool :=
  (w.cores.any fun c => c.2.inbox.xwakes.any fun x => p x.tensor x.seg x.key) ||
    w.dies.any fun d => d.2.net.any fun q =>
      match q.msg with
      | .xwake _ t s _ key => p t s key
      | _ => false

/-- R282: a CWAKE.ORD issued before the SWSTART is still on its way to the segment. -/
def Work.ordFlying (w : Work) (id k starts : Nat) : Bool :=
  w.anyWake fun t s key =>
    decide (t = id) && decide (s = k) && decide (key.length = 5) && decide (wakeStart key ≤ starts)

/-- R277: the opening boundary of a segment. It waits for the wakes that apply there (R282). -/
def execSweepOpeningBoundary (tensor seg : Nat) (s : State) : Host.Outcome State Fault Refusal :=
  event s fun w =>
    let w := w.drain tensor seg
    match w.tensor? tensor with
    | none => w
    | some t =>
      match tfind seg t.segs with
      | none => w
      | some x =>
        if x.phase ≠ .opening ∨ !w.engFree x then w
        else if x.resume.getD .opening ≠ .opening then
          w.modSeg tensor seg fun x => { x with phase := x.resume.getD .sweeping, resume := none }
        else if w.ordFlying tensor seg t.starts then w
        else
          let q := w.wakesAt tensor seg [1, 3, 4, 5]
          if q.2 then q.1.modSeg tensor seg fun x => { x with phase := .sweeping } else q.1

/-- The segments that end or go on together at a sweep boundary (R279, R280). -/
def Tensor.peers (t : Tensor) (k : Nat) : List Nat := if t.sync then tkeys t.segs else [k]

/-- R277, R279: at a sweep boundary, after its wakes, the cursor returns to the segment's base: end,
wait for a firing, or sweep again. Where a SWHALT and the n-th boundary meet, of which the rules say
nothing, the halt wins (DESIGN CHOICE, log 28). -/
def Tensor.decide_ (t : Tensor) (k : Nat) : Tensor :=
  let l := t.peers k
  let t := t.modSegs l fun i s => { s with cursor := t.segBase i }
  let cnt := fun (st : Nat) => l.foldl (fun n i =>
    n + ((tfind i t.segs).map fun s => tget 0 st s.counts).getD 0) 0
  let sweeps := ((tfind k t.segs).map (·.sweeps)).getD 0
  let ends := fun (t : Tensor) => t.modSegs l fun _ s => { s with phase := .closing }
  if t.halting then t.modSegs l fun _ s => s.close t .applied
  else if t.n ≠ 0 ∧ t.n ≤ sweeps then ends t
  else if t.n = 0 ∧ cnt 0 = 0 then
    if cnt 2 = 0 then ends { t with wasQuiet := true }
    else t.modSegs l fun _ s => { s with phase := .quiet }
  else t.modSegs l fun _ s => { s with phase := .sweeping }

/-- R202, R280: a wake for another segment of a tensor is still on its way. -/
def Work.wakesFlying (w : Work) (id : Nat) : Bool :=
  w.anyWake fun t _ key => decide (t = id) && decide (key.length = 3)

/-- R280, R243: the release of a GANGBAR with which a segment's engine arrives; true when it is
complete. -/
def Work.engRelease (w : Work) (id k : Nat) (s : Seg) : Work × Bool :=
  let r : Release × Work :=
    match s.rel with
    | some r => (r, w)
    | none =>
      let o := w.newOp s.core
      ({ scope := 2, stamp := o.1, token := o.1, phase := 0, acks := 0 }, o.2)
  let keep := fun (w : Work) (r : Option Release) => w.modSeg id k fun s => { s with rel := r }
  if r.1.phase = 0 then
    if (r.2.core s.core).undrained r.1.stamp then (keep r.2 (some r.1), false)
    else
      let p := r.2.publish s.core 2 r.1.token
      (keep p.2.2 (some { r.1 with phase := 2, acks := p.1, after := p.2.1 }), false)
  else if (r.2.core s.core).relOver r.1 then (keep r.2 none, true)
  else (r.2, false)

/-- R280: the sweep boundary of a segment. A SWHALT or an engine fault that meets a segment in the
barrier closes it with that boundary counted in SWEEPS and the cursor at its end, so that a RESUME comes to
the boundary again and counts it again: the rules do not say (DESIGN CHOICE, log 36). -/
def execSweepBoundary (tensor seg : Nat) (s : State) : Host.Outcome State Fault Refusal :=
  event s fun w =>
    match w.tensor? tensor with
    | none => w
    | some t =>
      match tfind seg t.segs with
      | none => w
      | some x =>
        let all := fun (t : Tensor) (p : SegPhase) => (t.peers seg).all fun i =>
          ((tfind i t.segs).map fun s => decide (s.phase = p)).getD false
        if !w.engFree x then w
        else
          match x.phase with
          | .sweeping =>
            if x.cursor < t.segEnd seg ∨ t.halting then w
            else
              let q := if t.sync then w.engRelease tensor seg x else (w, true)
              if !q.2 then q.1
              else
                q.1.modTensor tensor fun t =>
                  let t := t.modSegs [seg] fun _ s =>
                    { s with sweeps := s.sweeps + 1, phase := .arrived }
                  if all t .arrived && !w.wakesFlying tensor then
                    t.modSegs (t.peers seg) fun _ s => { s with phase := .atEnd }
                  else t
          | .arrived =>
            if t.halting then w.modSeg tensor seg fun s => s.close t .arrived
            else if all t .arrived && !w.wakesFlying tensor then
              w.modTensor tensor fun t => t.modSegs (t.peers seg) fun _ s => { s with phase := .atEnd }
            else w
          | .atEnd =>
            let q := w.wakesAt tensor seg [1, 2, 3, 5]
            if q.2 then
              -- the acquire of a GANGBAR, which ends the barrier (R243)
              (if t.sync then q.1.acquire x.core false else q.1).modTensor tensor fun t =>
                let t := t.modSegs [seg] fun k s =>
                  { s with phase := .applied, cursor := t.segBase k }
                if all t .applied then t.decide_ seg else t
            else q.1
          | .applied =>
            if t.halting then w.modSeg tensor seg fun s => s.close t .applied
            else if all t .applied then w.modTensor tensor fun t => t.decide_ seg
            else w
          | .quiet =>
            if !all t .quiet then w
            else
              let q := w.wakesAt tensor seg [1, 3, 5]
              if q.2 then q.1.modTensor tensor fun t => t.decide_ seg else q.1
          | _ => w

/-- R425: cancellations that an engine fault has kept from being made: they stay held, as wakes for
the next opening boundary. -/
def Work.cancelLater (w : Work) (id k : Nat) : Work :=
  w.modTensor id fun t =>
    let mine := t.armed.filter fun a => decide (t.segOf a.1 = k)
    { t.modSegs [k] fun _ s =>
        { s with
          held := s.held ++ mine.map fun a =>
            { kind := 5, key := [0, a.2.cpc], cell := a.1, op := a.2.op, atOpen := true } } with
      armed := tfilter (fun j _ => decide (t.segOf j ≠ k)) t.armed }

/-- R279: the monitor-wait cells of a segment become awake. A save keeps those of a segment that it
stops (R286). A monitor-wait
cell for which no CWAITM armed a monitor, so that no CWAITM gives its CPC, stays as it is (DESIGN
CHOICE, log 28). -/
def Work.cancelCells (w : Work) (id k : Nat) (t : Tensor) (s : Seg) : Got PUnit :=
  let mine := t.armed.filter fun a => decide (t.segOf a.1 = k)
  let w := mine.foldl (fun w a => w.freeCell id a.1 a.2) w
  if s.resume.isSome then .ok w PUnit.unit
  else
    mine.foldl (fun (q : Got PUnit) a =>
      match q with
      | .ok w _ =>
        match w.engGet t s.core true (t.wakeRanges a.1) with
        | .wait w => .wait w
        | .fault w va => .fault w va
        | .access w => .access w
        | .ok w l =>
          let w := (w.engForget t s.core).modTensor id fun t => { t with armed := tdel a.1 t.armed }
          if numAt l 2 1 = 2 then
            .ok (w.awaken id k t s a.1 2 0 (some a.2.cpc) (numAt l 16 8) (numAt l 24 1)) PUnit.unit
          else .ok w PUnit.unit
      | q => q) (.ok w PUnit.unit)

/-- R293, R286: STATE after a close. -/
def Tensor.endState (t : Tensor) : Nat := if t.saving then 3 else if t.halt then 2 else 0

/-- R279, R293, R302: every segment has closed, and STATE is written: the run groups go, and the
record is written. -/
def Work.sweepOver (w : Work) (id : Nat) : Work :=
  match w.tensor? id with
  | none => w
  | some t =>
    if !t.segs.all fun s => decide (s.2.phase = .closed) then w
    else
      let t' := { t with
        state := t.endState, fin := t.fin || !t.saving, halting := false, final := false
        segs := t.segs.map fun s => (s.1, { s.2 with slot := none }) }
      let w := t.segs.foldl (fun w s =>
        match s.2.slot with
        | some slot => w.delGrp s.2.core slot
        | none => w) (w.setTensor id t')
      w.writeRecord t'

/-- The last segment of a tensor is about to close, and STATE has not been written. -/
def Tensor.lastOpen (t : Tensor) (k : Nat) : Bool :=
  !t.final && t.segs.all fun x => decide (x.1 = k) || decide (x.2.phase = .closed)

/-- R196, R292, R302: a segment closes when every write of its engine has been performed; the last
one first writes STATE. -/
def Work.endSeg (w : Work) (id k : Nat) : Work :=
  let close := fun (w : Work) =>
    match w.tensor? id with
    | none => w
    | some t =>
      match tfind k t.segs with
      | none => w
      | some s =>
        if !(w.engAble s && w.engDone s) then w
        else
          let t := t.modSegs [k] fun _ s => { s with phase := .closed }
          ((w.setTensor id t).writeRecord t).sweepOver id
  match w.tensor? id with
  | none => w
  | some t =>
    match tfind k t.segs with
    | none => w
    | some s =>
      if s.phase ≠ .ending ∨ !(w.engAble s && w.engDone s) then w
      else if t.lastOpen k then
        close (((w.modTensor id fun t => { t with final := true }).modSeg id k fun s =>
          { s with todo := [(t.desc + 44, 4, t.endState)] }).drain id k)
      else close w

/-- R279, R293: the closing boundary of a segment. SCURk of a segment that had closed by count or quiet
before a SWHALT stays as it was: the rules say nothing of it (DESIGN CHOICE, log 28). -/
def execSweepClosingBoundary (tensor seg : Nat) (s : State) : Host.Outcome State Fault Refusal :=
  event s fun w =>
    let w := w.drain tensor seg
    match w.tensor? tensor with
    | none => w
    | some t =>
      match tfind seg t.segs with
      | none => w
      | some x =>
        if x.phase = .ending then w.endSeg tensor seg
        else if x.phase ≠ .closing ∨ !(w.engAble x && w.engDone x) then w
        else
          let close := fun (w : Work) =>
            let w := w.modTensor tensor fun t =>
              { t.modSegs [seg] fun _ s =>
                  { s with
                    phase := .ending, efault := false, rel := none
                    todo := if t.halting then
                        [(t.desc + 48 + 4 * seg, 4, x.cursor / 16 % 2 ^ 28)]
                      else [] } with
                scur := if t.halting then tput 0 seg (x.cursor / 16) t.scur else t.scur }
            (w.drain tensor seg).endSeg tensor seg
          match w.cancelCells tensor seg t x with
          | .ok w _ => close w
          | .wait w => w
          | .fault w va => w.engStop tensor seg x (some va)
          | .access w => w.engStop tensor seg x none

/-- The wakes that the phase of a segment applies. -/
def SegPhase.kinds : SegPhase → List Nat
  | .opening => [1, 3, 4, 5]
  | .boundary => [1, 3, 5]
  | .atEnd => [1, 2, 3, 5]
  | .quiet => [1, 3, 5]
  | _ => []

/-- R425: the wakes of a boundary that an engine fault has left stay held for the next opening
boundary, and so do the cancellations of a closing one. -/
def Work.keepWakes (w : Work) (id k : Nat) (t : Tensor) (x : Seg) : Work :=
  if x.phase = .closing then w.cancelLater id k
  else
    w.modSeg id k fun s =>
      { s with
        held := s.held.map fun h =>
          if h.admitted t.starts x.phase.kinds then { h with atOpen := true } else h }

/-- R425: an engine fault: this segment stops where it stands, the others at their next run
boundary. -/
def execSweepEngineFault (tensor seg : Nat) (s : State) : Host.Outcome State Fault Refusal :=
  event s fun w =>
    match w.tensor? tensor with
    | none => w
    | some t =>
      match tfind seg t.segs with
      | none => w
      | some x =>
        if !x.efault then w
        else
          (w.keepWakes tensor seg t x).modTensor tensor fun t =>
            { t.modSegs [seg] fun _ s =>
                { s with
                  efault := false
                  phase := if s.phase = .closed ∨ s.phase = .ending then s.phase else .closing } with
              halting := decide (t.state = 1), halt := true, eflt := true }

/-! ## Wakes that arrive (R202, R296) -/

/-- R202, R296: the wake of a CWAKE, or of another segment's run, reaches the engine of its cell's
segment, and is held for its boundary. Its key tells which: none for CWAKE.ANY; source segment, run
and order for another segment's; the issuer key of R222 for CWAKE.ORD. -/
def execExternalWakeArrive (core : Nat) (s : State) : Host.Outcome State Fault Refusal :=
  event s fun w =>
    match (w.core core).inbox.xwakes with
    | [] => w
    | x :: rest =>
      (w.modCore core fun k => { k with inbox := { k.inbox with xwakes := rest } }).modSeg x.tensor
        x.seg fun s =>
          { s with
            held := s.held ++
              [{ kind := if x.key = [] then 3 else if x.key.length = 3 then 2 else 4
                 key := x.key, cell := x.cell, op := 0 }] }

/-- R202, R229, R282: a monitor wake whose replies have arrived completes a WAITCMP, or is held for
a sweep's boundary. -/
def execMonitorWakeArrive (core : Nat) (s : State) : Host.Outcome State Fault Refusal :=
  event s fun w =>
    match (w.core core).readyWake with
    | none => w
    | some x =>
      let w := w.modCore core fun k =>
        { k with inbox := { k.inbox with wakes := k.inbox.wakes.erase x } }
      match x.cell with
      | none => w.wakeGroup core x
      | some (id, j) =>
        w.modTensor id fun t =>
          t.modSegs [t.segOf j] fun _ s =>
            { s with held := s.held ++ [{ kind := 5, key := [], cell := j, op := x.op }] }

/-! ## SWDECL (R290, R301) -/

/-- R287: the contexts that SWP admits. -/
def swpCtx (g : Group) : Bool := decide (g.kind = .user) || decide (g.kind = .handlerTeam)

/-- Bits [hi:lo] of a number. -/
def bitsOf (n hi lo : Nat) : Nat := n / 2 ^ lo % 2 ^ (hi - lo + 1)

/-- R268 to R270: the tensor that a descriptor describes. -/
def tensorOf (g : Group) (cluster desc : Nat) (pri : Nat) (d hdr : Nat) : Tensor :=
  let nseg := bitsOf d 289 288 + 1
  { launch := g.launch, lin := g.lin, owner := g.owner, pri, cluster, desc, args := 0
    ebase := bitsOf d 51 0, esz := bitsOf d 53 52, rwid := bitsOf d 55 54
    sync := decide (bitsOf d 56 56 = 1), cbase := bitsOf d 115 64, kbase := bitsOf d 179 128
    rbase := bitsOf d 243 192, rvq := hdr % 16, count := bitsOf d 287 256 + 1
    seglen := bitsOf d 315 290
    segs := (upto nseg).map fun k =>
      (k, { core := 8 * cluster + bitsOf d (3 * k + 322) (3 * k + 320), slot := none
            phase := .closed, cursor := 0, sweeps := 0, counts := [], held := [], pend := []
            fault := none, efault := false, resume := none })
    state := 0, scur := [], n := 0, recAt := 0, fin := false, halt := false, wasQuiet := false
    eflt := false, flags := 0, halting := false, saving := false, armed := [] }

/-- R290: the reserved bits of a descriptor. -/
def descRes (d : Nat) : Bool :=
  [(63, 57), (127, 116), (191, 180), (255, 244), (319, 316), (351, 332), (383, 354), (415, 412),
   (447, 444), (479, 476), (511, 508)].any fun x => decide (bitsOf d x.1 x.2 ≠ 0)

/-- R290: the lowest failing check, 0 when the descriptor is accepted. -/
def Tensor.check (t : Tensor) (d hdr : Nat) : Nat :=
  let cores := t.segs.map fun s => s.2.core
  if descRes d then 1
  else if t.rwid = 3 then 2
  else if t.ebase % t.eb ≠ 0 ∨ t.cbase % 16 ≠ 0 ∨ t.kbase % 8 ≠ 0 ∨ t.rbase % 4 ≠ 0 then 3
  else if hdr = 0 ∨ 15 < hdr then 4
  else if t.seglen = 0 ∨ (t.segs.any fun s => decide (t.count ≤ t.segBase s.1)) ∨
      cores.eraseDups.length ≠ cores.length then 5
  else 0

/-- R290: what the scan of contexts and skip map writes, and the counts of each segment. -/
def Tensor.scan (t : Tensor) (ctx skips : List Byte) : List (Nat × Nat × Nat) × Tensor :=
  let st := fun j => numAt ctx (16 * j + 2) 1
  let bad := (upto t.count).filter fun j => decide (4 < st j)
  let chunks := (t.count + 63) / 64
  let skip := fun u => (upto 64).foldl (fun x i =>
    let j := 64 * u + i
    if j < t.count then withBit x i (decide (st j ≠ 0)) else x) (numAt skips (8 * u) 8)
  let sums := (upto ((chunks + 7) / 8)).map fun b =>
    (t.smap + b, 1, (upto 8).foldl (fun x i =>
      if 8 * b + i < chunks then withBit x i (t.summary (8 * b + i) (skip (8 * b + i))) else x) 0)
  (((bad.map fun j => (t.cbase + 16 * j + 2, 2, 4 + 256 * 0xF0)) ++
      ((upto chunks).map fun u => (t.kbase + 8 * u, 8, skip u)) ++ sums),
    (upto t.count).foldl (fun t j =>
      t.modSegs [t.segOf j] fun _ s => s.move 5 (if 4 < st j then 4 else st j)) t)

/-- A read of SWDECL that faults raises as a VLD does. -/
def declGet (w : Work) (c slot : Nat) (g : Group) (t : Tensor) (write : Bool)
    (l : List (Nat × Nat)) (next : Work → List Byte → Res) : Res :=
  match w.engGet t c write l with
  | .ok w x => next w x
  | .wait w => .hold w g none
  | .fault w va => pageFaultRes (w.engForget t c) c slot g va write 0
  | .access w => .trapWith (w.engForget t c) g 0x08 (natWord ((l.map Prod.fst).headD 0)) 0

/-- R290: the tensor that a held SWDECL of a group has declared at a descriptor. -/
def Work.declaring (w : Work) (g : Group) (slot va : Nat) : Option (Nat × Tensor) :=
  w.tensors.find? fun p =>
    decide (p.2.launch = g.launch) && decide (p.2.lin = g.lin) && decide (p.2.desc = va) &&
      decide (p.2.decl.map Prod.fst = some (g.keyIdx slot))

/-- R290: SWDECL. The group is held until the engine's writes have been performed. -/
def execSwdecl (g : BitVec 2) (d a : BitVec 6) (s : State) : Host.Outcome State Fault Refusal :=
  issue (wordForm (wSwdecl g d a) g none wtScalar)
    (fun _ gr => { ctx := swpCtx gr, reads := [useS a.toNat], writes := [useS d.toNat, useF] })
    (fun w c slot gr =>
      match w.teamOf gr with
      | none => .illegal 6
      | some tm =>
        let out := fun (w : Work) (v : Nat) (f : BitVec 4) =>
          Res.done w ((gr.flyS 0 d.toNat (natWord v)).sflNow f)
        let va := (gr.s a.toNat).toNat % 2 ^ 52
        match w.declaring gr slot va with
        | some (id, t) =>
          if !w.opsDone c ((t.decl.map Prod.snd).getD []) then .hold w gr none
          else
            out (w.modTensor id fun t => { t with decl := none })
              (((tm.handles.find? fun h => decide (h.2.tensor = id)).map Prod.fst).getD 0)
              (mkSfl true false false false)
        | none =>
        match (upto 4).find? fun h => (tfind h tm.handles).isNone with
        | none => out w 0 (mkSfl false false true false)
        | some h =>
          if va % 64 ≠ 0 then .trap 0x07 (natWord va) 0
          else if gr.lc ≠ 0 ∨ gr.sc ≠ 0 then .hold w gr none
          else
            match w.resolve c slot gr .load 64 true (fun e pa => w.placeOk gr e pa 64 false true false)
                [(0, va)] with
            | .stop r => r
            | .ok w _ =>
              let cl := Config.clusterOf c
              let probe := tensorOf gr cl va gr.pri 0 0
              let out := fun (w : Work) => out (w.engForget probe c)
              declGet w c slot gr probe false [(va, 64)] fun w l =>
                let x := numAt l 0 64
                let t := tensorOf gr cl va gr.pri x 0
                let early := t.check x 1
                if 1 ≤ early ∧ early ≤ 3 then out w early (mkSfl false false false true)
                else
                  declGet w c slot gr t false [(t.rbase, 4)] fun w hl =>
                    let hdr := numAt hl 0 4
                    let t := tensorOf gr cl va gr.pri x hdr
                    let code := t.check x hdr
                    if code ≠ 0 then out w code (mkSfl false false false true)
                    else
                      let chunks := (t.count + 63) / 64
                      declGet w c slot gr t true
                        [(t.cbase, 16 * t.count), (t.kbase, 8 * chunks),
                         (t.smap, (chunks + 7) / 8), (va + 44, 20)] fun w l =>
                        let r := t.scan l (l.drop (16 * t.count))
                        let st := (va + 44, 4, 0) :: (upto 4).map fun k => (va + 48 + 4 * k, 4, 0)
                        let q := w.engPuts t c (r.1 ++ st)
                        let n := q.1.tick
                        let t := { r.2 with
                          args := natWord (lrArgs (w.recOf gr))
                          decl := if q.2 = [] then none else some (gr.keyIdx slot, q.2) }
                        let w := (n.2.setTensor n.1 t).modTeam tm.launch tm.lin fun tm =>
                          { tm with handles := tins h { tensor := n.1 } tm.handles }
                        if q.2 = [] then out w h (mkSfl true false false false)
                        else .hold (w.engForget probe c) gr none) s

/-! ## SWSTART, SWHALT, SWSTAT, SWFREE (R291 to R295) -/

/-- R288: the tensor of a handle of the issuing team. -/
def Work.handle (w : Work) (g : Group) (h : Nat) : Option (Nat × Tensor) :=
  match w.teamOf g with
  | some tm =>
    (tfind h tm.handles).bind fun x =>
      (w.tensor? x.tensor).bind fun t => if t.decl.isNone then some (x.tensor, t) else none
  | none => none

/-- R288: an invalid handle. -/
def badHandle (w : Work) (g : Group) : Res := .done w (g.sflNow (mkSfl false true false false))

/-- R291: SWSTART and SWSTART.R. A bad record offset faults before the outcomes C, N and V: the rules
give no order (DESIGN CHOICE, log 28). The group's earlier typed-buffer accesses come before the
record's word (R196). -/
def swStart (x : BitVec 32) (gs : BitVec 2) (h a b : Nat) (resume : Bool) (s : State) :
    Host.Outcome State Fault Refusal :=
  issue (wordForm x gs none wtScalar)
    (fun _ gr => { ctx := swpCtx gr, reads := [useS a, useS b], writes := [useF] })
    (fun w c slot gr =>
      match w.handle gr h with
      | none => badHandle w gr
      | some (id, t) =>
        let off := (gr.s b).toNat
        let say := fun (w : Work) (gr : Group) (f : BitVec 4) => Res.done w (gr.sflNow f)
        let begin_ := fun (w : Work) (gr : Group) =>
          match w.release c gr 3 with
          | .busy w gr => Res.hold w { gr with half := 1 } none
          | .done w gr =>
            say (w.modTensor id fun t =>
              { t with
                segs := t.segs.map fun s =>
                  (s.1, { s.2 with
                    phase := .placing, sweeps := 0, resume := none
                    cursor := if resume then 16 * tget 0 s.1 t.scur else t.segBase s.1 }) })
              gr (mkSfl true false false false)
        if gr.half = 1 then begin_ w gr
        else
          match w.space c gr 3 with
          | none => .trap 0x09 (natWord off) 0
          | some (hc, base, size) =>
            if off % 32 ≠ 0 ∨ size < off + 32 then .trap 0x09 (natWord off) 0
            else if t.state = 1 then say w gr (mkSfl false false true false)
            else if resume ∧ t.state ≠ 2 then say w gr (mkSfl false true false false)
            else if t.segs.any fun s => !(w.core s.2.core).good then
              say w gr (mkSfl false false false true)
            else if (w.core c).bufBusy slot then .hold w gr none
            else
              let w := t.segs.foldl (fun w q => w.engForget t q.2.core) w
              let w := (w.setTensor id { t.modSegs [0] (fun _ s =>
                  { s with todo := [(t.desc + 44, 4, 1)], pend := [] }) with
                state := 1, n := (gr.s a).toNat % 2 ^ 32, recAt := off, fin := false, halt := false
                wasQuiet := false, eflt := false, flags := 0, halting := false, final := false
                starts := t.starts + 1 }).drain
                  id 0
              begin_ (w.modCore hc fun k => k.setBufNum 3 (base + off) 8 0 fun _ => false) gr) s

def execSwstart (g h : BitVec 2) (a b : BitVec 6) (s : State) : Host.Outcome State Fault Refusal :=
  swStart (wSwstart g h a b) g h.toNat a.toNat b.toNat false s

def execSwstartResume (g h : BitVec 2) (a b : BitVec 6) (s : State) :
    Host.Outcome State Fault Refusal :=
  swStart (wSwstartResume g h a b) g h.toNat a.toNat b.toNat true s

/-- R293: the group is held until every segment has stopped. A SWSTART that has closed, whose STATE is
being written, is halted no more (R302). HALT reads 1 from the issue of SWHALT, while the segments are
still stopping: the rules do not say from when (DESIGN CHOICE, log 36). -/
def execSwhalt (g h : BitVec 2) (s : State) : Host.Outcome State Fault Refusal :=
  issue (wordForm (wSwhalt g h) g none wtScalar)
    (fun _ gr => { ctx := swpCtx gr, writes := [useF] })
    (fun w _ _ gr =>
      match w.handle gr h.toNat with
      | none => badHandle w gr
      | some (id, t) =>
        if t.state = 1 then
          if t.final then .hold w gr none
          else
            .hold (w.modTensor id fun t => { t with halting := true, halt := true })
              { gr with half := 1 } none
        else .done w (gr.sflNow (mkSfl (decide (gr.half = 1) && decide (t.state = 2)) false false false)))
    s

/-- R294: a live status word. -/
def Tensor.status (t : Tensor) (sel : Nat) : Nat :=
  if sel = 0 then t.word0
  else if sel ≤ 5 then t.cells (sel - 1)
  else ((tfind (sel - 6) t.segs).map (·.cursor)).getD 0

/-- R292, R294: the FLAGS field of the completion record, where a SWSTART has named one. -/
def Work.clearRecordFlags (w : Work) (t : Tensor) : Work :=
  match w.team t.launch t.lin with
  | some m =>
    if t.fin || decide (t.state = 1) then
      w.modCore m.home fun k => k.setBufNum 3 (m.sb + t.recAt + 1) 1 0 fun _ => false
    else w
  | none => w

/-- R344: guarded issue costs 2 core cycles. -/
def Work.guarded (w : Work) (c : Nat) : Work :=
  w.modCore c fun k => { k with blocked := max k.blocked (k.cycle + 2) }

/-- R294, R344: SWSTAT and SWSTAT.C; the latter issues under guarded issue. -/
def swStat (x : BitVec 32) (gs : BitVec 2) (d e h : Nat) (clear : Bool) (s : State) :
    Host.Outcome State Fault Refusal :=
  issue (wordForm x gs (some 2) wtScalar)
    (fun _ gr => { ctx := swpCtx gr && decide (e ≤ 9), writes := [useS d] })
    (fun w c _ gr =>
      let w := if clear then w.guarded c else w
      match w.handle gr h with
      | none => badHandle w gr
      | some (id, t) =>
        let w := if clear then (w.modTensor id fun t => { t with flags := 0 }).clearRecordFlags t else w
        .done w (gr.flyS 2 d (natWord (t.status e)))) s

def execSwstat (g : BitVec 2) (d e : BitVec 6) (h : BitVec 2) (s : State) :
    Host.Outcome State Fault Refusal :=
  swStat (wSwstat g d e h) g d.toNat e.toNat h.toNat false s

def execSwstatC (g : BitVec 2) (d e : BitVec 6) (h : BitVec 2) (s : State) :
    Host.Outcome State Fault Refusal :=
  swStat (wSwstatC g d e h) g d.toNat e.toNat h.toNat true s

/-- R295. -/
def execSwfree (g h : BitVec 2) (s : State) : Host.Outcome State Fault Refusal :=
  issue (wordForm (wSwfree g h) g none wtScalar)
    (fun _ gr => { ctx := swpCtx gr, writes := [useF] })
    (fun w _ _ gr =>
      match w.handle gr h.toNat with
      | none => badHandle w gr
      | some (id, t) =>
        if t.state = 1 then .done w (gr.sflNow (mkSfl false false true false))
        else
          .done (({ w with tensors := tdel id w.tensors } : Work).modTeam gr.launch gr.lin fun tm =>
            { tm with handles := tdel h.toNat tm.handles })
            (gr.sflNow (mkSfl true false false false))) s

/-! ## CWAKE.ANY, CWAKE.ORD (R296) -/

def cwakeExt (x : BitVec 32) (gs : BitVec 2) (h a : Nat) (ord : Bool) (s : State) :
    Host.Outcome State Fault Refusal :=
  issue (wordForm x gs none wtScalar)
    (fun _ gr => { ctx := swpCtx gr, regs := gr.hasV a, reads := [useV gr a], writes := [useF] })
    (fun w c slot gr =>
      match w.handle gr h with
      | none => badHandle w gr
      | some (id, t) =>
        let lanes := (lanesOf gr.exec).map fun l => (l, (gr.v a l).toNat)
        let good := lanes.filter fun l => decide (l.2 < t.count)
        let dst := fun (j : Nat) => ((tfind (t.segOf j) t.segs).map (·.core)).getD c
        let scope := good.foldl (fun m l => max m (w.amScope gr c (dst l.2) true)) 0
        let send := fun (w : Work) (gr : Group) =>
          let w := good.foldl (fun w l =>
            w.control c (dst l.2) (.xwake (dst l.2) id (t.segOf l.2) l.2
              (if ord then [gr.lin, gr.keyIdx slot, l.1, gr.ordSeq, t.starts + 1] else []))) w
          let gr := { gr with ordSeq := if ord then gr.ordSeq + 1 else gr.ordSeq }
          let whole := decide (good.length = lanes.length)
          Res.done w (gr.sflNow (mkSfl whole false false !whole))
        if good = [] then send w gr
        else
          match w.release c gr scope false with
          | .busy w gr => .hold w gr none
          | .done w gr => send w gr) s

def execCwakeAny (g h : BitVec 2) (a : BitVec 6) (s : State) : Host.Outcome State Fault Refusal :=
  cwakeExt (wCwakeAny g h a) g h.toNat a.toNat false s

def execCwakeOrd (g h : BitVec 2) (a : BitVec 6) (s : State) : Host.Outcome State Fault Refusal :=
  cwakeExt (wCwakeOrd g h a) g h.toNat a.toNat true s

/-! ## Routine instructions: CTX (R297 to R300) -/

/-- R297: CTX is legal only in a routine. -/
def ctxNeed (g : Group) : Need := { ctx := decide (g.kind = .run) }

/-- R297, R298: the active lanes wait. -/
def Group.waitLanes (g : Group) (cpc : RunCtx → Nat) (st : Nat) : Group :=
  { (g.dropLanes g.exec) with
    run := g.run.map fun r => r.leave g.exec (cpc r) (fun _ => some st) fun _ => none }

def execCyield (g : BitVec 2) (p : BitVec 16) (s : State) : Host.Outcome State Fault Refusal :=
  issueLocal (wordForm (wCyield g p) g none wtScalar) ctxNeed
    (fun gr => gr.waitLanes (fun _ => p.toNat) 0) s

def execCsleep (g : BitVec 2) (p : BitVec 16) (s : State) : Host.Outcome State Fault Refusal :=
  issueLocal (wordForm (wCsleep g p) g none wtScalar) ctxNeed
    (fun gr => gr.waitLanes (fun _ => p.toNat) 1) s

def execCdone (g : BitVec 2) (s : State) : Host.Outcome State Fault Refusal :=
  issueLocal (wordForm (wCdone g) g none wtScalar) ctxNeed
    (fun gr => gr.waitLanes (fun r => r.cpcOf gr.pc) 3) s

/-- R299: each lane's compare is made at the home slice, and the lane waits. -/
def execCwaitm (g : BitVec 2) (c : BitVec 3) (a b : BitVec 6) (s : State) :
    Host.Outcome State Fault Refusal :=
  issue (wordForm (wCwaitm g c a b) g none wtScalar)
    (fun _ gr =>
      { codes := decide (c.toNat ≤ 5), regs := gr.hasPair a.toNat && gr.hasV b.toNat
        ctx := decide (gr.kind = .run), reads := useV64 gr a.toNat ++ [useV gr b.toNat] })
    (fun w core slot gr =>
      let lanes := (lanesOf gr.exec).map fun l => (l, (gr.v64 a.toNat l).toNat % 2 ^ 52)
      match w.resolve core slot gr .load 4 false (fun _ pa => (w.place pa).isNear) lanes with
      | .stop r => r
      | .ok w l =>
        match gr.run with
        | none => .illegal 6
        | some r =>
          let here := r.cpcOf gr.pc
          let q := l.foldl (fun (q : Work × Tab Ask) x =>
            let v := (gr.v b.toNat x.1).toNat
            let o := q.1.newOp core
            (o.2.request (mkReq core slot gr (x.2.1 / 128) x.2.2 o.1 false false false
                (.waitcmp x.2.1 4 c.toNat (natWord v) true)),
              tins x.1 { op := o.1, cpc := here, pa := x.2.1, key := x.2.2, cond := c.toNat, value := v
                         result := none } q.2)) (w, r.asks)
          let gr := gr.waitLanes (fun r => r.cpcOf (gr.nextPc 4)) 0
          .done q.1 { gr with run := gr.run.map fun (r : RunCtx) => { r with asks := q.2 } }) s

/-- R300: wakes of a routine, applied where R282 says; a bad index faults its lane. -/
def execCwake (g : BitVec 2) (a : BitVec 6) (s : State) : Host.Outcome State Fault Refusal :=
  issue (wordForm (wCwake g a) g none wtScalar)
    (fun _ gr => { ctx := decide (gr.kind = .run), regs := gr.hasV a.toNat, reads := [useV gr a.toNat] })
    (fun w _ _ gr =>
      match gr.run with
      | none => .illegal 6
      | some r =>
        match w.tensor? r.tensor with
        | none => .illegal 6
        | some t =>
          let j := fun l => (gr.v a.toNat l).toNat
          let out := maskOf fun l => bit gr.exec l && decide (t.count ≤ j l)
          let other := maskOf fun l =>
            bit gr.exec l && decide (j l < t.count) && decide (t.segOf (j l) ≠ r.seg) && !t.sync
          let bad := out ||| other
          let r := { r with
            wakes := r.wakes ++ (lanesOf (gr.exec &&& ~~~bad)).map fun l => (l, j l) }
          let r := r.leave bad (r.cpcOf gr.pc) (fun _ => some 4) fun l =>
            some (if bit out l then 0xF2 else 0xF3)
          .done w { gr.dropLanes bad with run := some r }) s

/-- R297, R298. -/
def execCidx (g : BitVec 2) (d : BitVec 6) (s : State) : Host.Outcome State Fault Refusal :=
  issueLocal (wordForm (wCidx g d) g (some 4) wtInt)
    (fun gr => { ctxNeed gr with regs := gr.hasV d.toNat, writes := [useV gr d.toNat] })
    (fun gr => gr.flyV 4 d.toNat gr.exec fun l =>
      BitVec.ofNat 32 (((gr.run.map (·.base)).getD 0) + l)) s

/-- R297: the reference as loaded, and the sweep count of this SWSTART. -/
def execCstat (g : BitVec 2) (d : BitVec 6) (s : State) : Host.Outcome State Fault Refusal :=
  issue (wordForm (wCstat g d) g (some 4) wtInt)
    (fun _ gr => { ctxNeed gr with regs := gr.hasV d.toNat, writes := [useV gr d.toNat] })
    (fun w _ _ gr =>
      match gr.run with
      | none => .illegal 6
      | some r =>
        let n := (((w.tensor? r.tensor).bind fun t => tfind r.seg t.segs).map (·.sweeps)).getD 0
        .done w (gr.flyV 4 d.toNat gr.exec fun l =>
          BitVec.ofNat 32 (tget 0 l r.ref0 + n % 2 ^ 16 * 2 ^ 16))) s

end Sys2Proof.Machine
end

