-- ==== Sys2Proof/Machine/System.lean ====
section
/-!
DEFINITION. The SYS major (R345 to R348), halt broadcasts (R330), takebacks and the escalation
ladder (R342 to R344, R348 to R350, R354).
-/

namespace Sys2Proof.Machine

/-! ## TRAP and RTE (R327, R345) -/

def execTrap (g : BitVec 2) (i : BitVec 18) (s : State) : Host.Outcome State Fault Refusal :=
  issue (wordForm (wTrap g i) g none wtScalar)
    (fun _ gr => { ctx := gr.isTeamCode })
    (fun _ _ _ _ => .trap 0x18 (zext64 i) 0) s

def execRte (g : BitVec 2) (s : State) : Host.Outcome State Fault Refusal :=
  issue (wordForm (wRte g) g none wtScalar)
    (fun _ gr =>
      { ctx := gr.isTeamCode && gr.inHandler && decide (gr.stack.length = gr.hdepth) })
    (fun w _ _ gr =>
      .jump w (gr.returnFromTrap (scodeStep g none)) (gr.epc.truncate 52)) s

/-! ## The mailbox (R32, R345, R346) -/

/-- R32: where a record lies in SBUF. -/
def mailAddr (i : Nat) : Nat := 0x3FC00 + 64 * i

/-- Sixteen words as a number. -/
def wordsNat (l : List Lane) : Nat := l.foldr (fun x n => x.toNat + 2 ^ 32 * n) 0

/-- Word `i` of a request. -/
def reqWord (l : List Lane) (i : Nat) : Nat := (l.getD i 0).toNat

/-- R32: the lowest free record. -/
def Core.freeMail (k : Core) : Option Nat := (upto 16).find? fun i => (tfind i k.mail).isNone

/-- R32: a request takes a record, with event kind 1. -/
def Work.postMail (w : Work) (c slot i va op : Nat) (words : List Lane) : Work :=
  (w.modCore c fun k =>
    { k.setBufNum 3 (mailAddr i) 64 (wordsNat words) (fun _ => false) with
      mail := tins i { slot, va, req := words, op } k.mail }).supEvent c 1 slot i 0 0

/-- R345. -/
def execSvcall (g : BitVec 2) (v : BitVec 6) (s : State) : Host.Outcome State Fault Refusal :=
  let va := v.toNat
  issue (wordForm (wSvcall g v) g none wtScalar)
    (fun _ gr =>
      { regs := gr.hasQuad va, ctx := gr.isTeamCode
        reads := (upto 4 va).map (useVL gr), writes := (upto 4 va).map (useV gr) })
    (fun w c slot gr =>
      let words := gr.payload va
      if reqWord words 0 % 2 ^ 16 = 2 then
        -- the abort has issued, so that writes in flight are its step nearer (R101)
        .halt { gr.age (scodeStep g none) with pc := gr.nextPc 4 } 0x19
      else
        let o := w.newOp c
        let w := o.2
        let gr := gr.awaitRegs va 4 0xF o.1
        match (w.core c).freeMail with
        | some i => .wait (w.postMail c slot i va o.1 words) gr (.svcall i va)
        | none =>
          .wait (w.modCore c fun k => { k with mailq := k.mailq ++ [slot] }) gr
            (.svqueue va words o.1)) s

/-- R32: a record that frees is taken by the caller that has waited longest. -/
def Work.nextCaller (w : Work) (c i : Nat) : Work :=
  match (w.core c).mailq with
  | [] => w
  | slot :: rest =>
    let w := w.modCore c fun k => { k with mailq := rest }
    match w.grp c slot with
    | some g =>
      match g.wait with
      | .svqueue va words op =>
        (w.setGrp c slot { g with wait := .svcall i va }).postMail c slot i va op words
      | _ => w
    | none => w

/-- R345: service 0x0001 answered with status 0 sets the team's trap entry; the registration refuses
an odd one (R97). -/
def Work.registerTent (w : Work) (g : Group) (req : List Lane) (status : Nat) : Work :=
  if reqWord req 0 % 2 ^ 16 = 1 ∧ status = 0 ∧ g.hasTeam ∧ reqWord req 2 % 2 = 0 then
    w.modTeam g.launch g.lin fun t =>
      { t with tent := BitVec.ofNat 52 (reqWord req 2 + 2 ^ 32 * reqWord req 3) }
  else w

/-- R346 action 0: the record as it stands goes to its caller, and frees. -/
def Work.replyMail (w : Work) (c i : Nat) : Option Work :=
  match tfind i (w.core c).mail with
  | none => none
  | some m =>
    let k := w.core c
    let word := fun n => k.bufNum 3 (mailAddr i + 4 * n) 4
    let w := w.setCore c { k with mail := tdel i k.mail }
    let w :=
      match w.grp c m.slot with
      | none => w
      | some g =>
        (w.registerTent g m.req (word 0 % 2 ^ 16)).completeNext c m.slot fun g =>
          (upto 16).foldl (fun g n => g.setV1 (m.va + n % 4) (n / 4) (BitVec.ofNat 32 (word n)))
            (g.unpend m.op)
    some (w.nextCaller c i)

/-- R346 actions 1 and 2: the page fault of a slot: of its group, of a kick it issued, or of the
segment engine whose run group it holds (R336). -/
def Work.endFault (w : Work) (c slot : Nat) (resolved : Bool) : Option Work :=
  let group :=
    match w.grp c slot with
    | some g =>
      match g.wait with
      | .fault va _ lanes =>
        some (w.return_ c slot fun g =>
          if resolved then g else { g with raise := some (0x0A, natWord va, lanes) })
      | _ => none
    | none => none
  let kick : Option Work :=
    match (w.core c).copying with
    | some x =>
      if x.slot = slot ∧ x.fault.isSome then
        -- a record that fails ends once what it has written is performed (R196, R236)
        some (w.modCore c fun k =>
          { k with copying := some { x with fault := none, failed := if resolved then x.failed else 1 } })
      else none
    | none => none
  let seg : Option Work :=
    let at_ := w.tensors.findSome? fun t =>
      (t.2.segs.find? fun s =>
        decide (s.2.core = c) && decide (s.2.slot = some slot) && s.2.fault.isSome).map
          fun s => (t.1, s.1)
    at_.map fun p => w.modSeg p.1 p.2 fun s => { s with fault := none, efault := !resolved }
  match group with
  | some w => some w
  | none =>
    match kick with
    | some w => some w
    | none => seg

/-- R346 action 3: a stopped group goes on at its HPC, or at its PC if it had trapped; the writes in
flight that its trap recorded are reinstated (R104). -/
def Group.release (g : Group) (from_ : Nat) : Group :=
  let back := g.trapStop && !g.inHandler
  { g with
    stopped := false, trapStop := false, pc := if g.trapStop then g.pc else g.hpc
    flights := if back then g.savedFlights ++ g.flights else g.flights
    savedFlights := if back then [] else g.savedFlights
    readyAt := max g.readyAt from_, skid := 0 }

/-- R346 action 3: release the stopped team of a slot; the partner's groups 8 cycles later. -/
def Work.releaseTeam (w : Work) (c slot : Nat) : Option Work :=
  match w.grp c slot with
  | none => none
  | some g =>
    if !g.stopped then none
    else if g.kind = .handlerCore then
      some ((w.setGrp c slot (g.release (w.core c).cycle)).gate c slot (Config.clusterOf c % 12))
    else
      match w.team g.launch g.lin with
      | none => none
      | some t =>
        if (w.members t fun x => !x.stopped) ≠ [] then none
        else
          -- messages that a save has held reach a restored team (R34)
          let ams := if t.loaded then t.heldAm.filter fun m => !m.ord else []
          let w := w.setTeam { t with
            stop := none, loaded := false
            heldAm := if t.loaded then t.heldAm.filter (·.ord) else t.heldAm }
          let w := ams.foldl (fun w m => w.modCore t.home fun k => k.amArrive m) w
          some ((w.members t fun _ => true).foldl (fun w m =>
            (w.modGrp m.1 m.2 fun g =>
              g.release ((w.core m.1).cycle + if m.1 = c then 0 else 8)).gate m.1 m.2
                (Config.clusterOf m.1 % 12)) w)

/-- R345: an instruction of the supervisor group. -/
def supCtx (g : Group) : Bool := decide (g.kind = .supervisor)

/-- R345, R331. -/
def execMbpop (g : BitVec 2) (d : BitVec 6) (s : State) : Host.Outcome State Fault Refusal :=
  issue (wordForm (wMbpop g d) g none wtScalar)
    (fun _ gr =>
      { regs := scalarRun d.toNat 2, ctx := supCtx gr
        writes := [useS d.toNat, useS (d.toNat + 1)] })
    (fun w c _ gr =>
      match (w.core c).evq with
      | [] => .hold w gr (some (.mbpop d.toNat))
      | e :: rest =>
        .done ((w.modCore c fun k => { k with evq := rest }.refillEvents).guarded c)
          ((gr.flyS 0 d.toNat e.word).flyS 0 (d.toNat + 1) e.detail)) s

/-- R346. -/
def execMbreply (g : BitVec 2) (a : BitVec 6) (s : State) : Host.Outcome State Fault Refusal :=
  issue (wordForm (wMbreply g a) g none wtScalar)
    (fun _ gr => { ctx := supCtx gr, reads := [useS a.toNat], writes := [useF] })
    (fun w c _ gr =>
      let v := (gr.s a.toNat).toNat
      let slot := v % 64
      let r :=
        match v / 64 % 4 with
        | 0 => w.replyMail c (v % 16)
        | 1 => w.endFault c slot true
        | 2 => w.endFault c slot false
        | _ => w.releaseTeam c slot
      match r with
      | some w => .done w (gr.sflNow (mkSfl true false false false))
      | none => .done w (gr.sflNow (mkSfl false false false true))) s

/-! ## Margin registers (R348) -/

/-- R348: the value of a margin register; `i` picks the entry of TBLOG. -/
def Margin.read (m : Margin) (reg i : Nat) : Word :=
  match reg with
  | 0 =>
    natWord (m.step % 4 + (if m.safe then 4 else 0) + if m.quar then 8 else 0)
  | 1 => natWord (m.tbcnt % 2 ^ 32)
  | 2 => natWord (m.tbwin % 2 ^ 32)
  | 3 => natWord (m.tblim % 2 ^ 16)
  | 4 => m.tblog.getD (i % 8) 0
  | _ => natWord m.tbtot

def mgnset (x : BitVec 32) (g : BitVec 2) (a d : BitVec 6) (r : BitVec 3) (write : Bool)
    (s : State) : Host.Outcome State Fault Refusal :=
  let reg := r.toNat
  issue (wordForm x g none wtScalar)
    (fun _ gr =>
      { ctx := supCtx gr && decide (reg ≤ 5) && !(write && decide (4 ≤ reg))
        reads := [useS a.toNat], writes := [useS d.toNat] })
    (fun w c _ gr =>
      let m := (w.core c).mgn
      let v := gr.s a.toNat
      .done
        (if write then
          w.modCore c fun k => { k with mgn := { k.mgn with pendW := k.mgn.pendW ++ [(reg, v)] } }
        else w)
        (gr.flyS 0 d.toNat (m.read reg v.toNat))) s

def execMgnset (g : BitVec 2) (a d : BitVec 6) (r : BitVec 3) (s : State) :
    Host.Outcome State Fault Refusal :=
  mgnset (wMgnset g a d r) g a d r false s

def execMgnsetW (g : BitVec 2) (a d : BitVec 6) (r : BitVec 3) (s : State) :
    Host.Outcome State Fault Refusal :=
  mgnset (wMgnsetW g a d r) g a d r true s

/-! ## TEMPOW and HALTT (R347) -/

/-- R345: user and handler groups outside their trap handlers. -/
def groupCtx (g : Group) : Bool := g.isTeamCode && !g.inHandler

def execTempow (g : BitVec 2) (a : BitVec 6) (s : State) : Host.Outcome State Fault Refusal :=
  issue (wordForm (wTempow g a) g none wtScalar)
    (fun _ gr => { ctx := groupCtx gr, reads := [useS a.toNat] })
    (fun w c _ gr =>
      let t := gr.s a.toNat
      if t.toNat ≤ (w.core c).sampled.1 then .done w gr
      else .hold w { gr with wait := .tempow t } none) s

def execHaltt (g : BitVec 2) (s : State) : Host.Outcome State Fault Refusal :=
  issue (wordForm (wHaltt g) g none wtScalar) (fun _ gr => { ctx := groupCtx gr })
    (fun _ _ _ gr => .halt gr 0x19) s

/-! ## Halt broadcasts (R330) -/

/-- R330: the group is parked, or held at issue in cycle `a` or since, so that it stops when the
broadcast of cycle `a` arrives. -/
def Group.atRest (g : Group) (a : Nat) : Bool :=
  !g.entry || g.parked || g.powered.isSome || g.slewed || (g.held && decide (a < g.readyAt)) ||
    decide (g.wait ≠ .none)

/-- R330: a group that the broadcast has reached stops: at once when at rest, else after cycle
a + 3, and not before R147 is satisfied. -/
def Work.haltStop (w : Work) (c slot : Nat) : Work :=
  match w.grp c slot with
  | some g =>
    match g.haltAt with
    | some a =>
      if (g.atRest a || decide (a + 4 ≤ (w.core c).cycle)) && !w.flagsPending c slot then
        -- a WAIT in progress is tried again when the group goes on; one that has parked (R18) returns when
        -- the loads that it waits for have landed
        w.setGrp c slot
          { g.unready with
            stopped := true, trapStop := false, hpc := g.pc, haltAt := none
            wait := match g.wait with
              | .counters _ _ =>
                if g.parked then .load ((g.pend.map (·.op)).filter fun op => (tfind op (w.core c).loads).isSome)
                else .none
              | x => x }
      else w
    | none => w
  | none => w

def execHaltArrive (core slot : Nat) (s : State) : Host.Outcome State Fault Refusal :=
  event s fun w =>
    let w := w.modGrp core slot fun g =>
      match g.haltDue with
      | some t =>
        if t ≤ (w.core core).cycle then
          { g with haltDue := none, haltAt := some t, hpc := g.pc, skid := 0 }
        else g
      | none => g
    w.haltStop core slot

/-! ## Takebacks (R342, log 10) -/

/-- R342: the issue timeline of a core moves by 6 cycles. A turn of the model is the close of an
instruction's detection window, when its effects and requests leave (R343): an instruction that is
caught has had none, and issues again (log 10). -/
def Core.shift (k : Core) : Core :=
  { k with
    blocked := max k.blocked k.cycle + 6, caughtTo := max k.blocked k.cycle + 6
    paAt := k.paAt + 6, rotAt := k.rotAt + 6
    xcs := tmap (fun _ x => { x with due := x.due.map (· + 6) }) k.xcs
    groups := tmap (fun _ g =>
      { g with
        readyAt := max g.readyAt k.cycle + 6
        since := g.since.map (· + 6) }) k.groups }

/-- R342, R348: the engine of a caught cycle: for stage 6 the sweep engine where the slot holds a run group,
else the copy engine; for any other the matrix engine: 2, 1, 0. -/
def Core.engineOf (k : Core) (slot stage : Nat) : Nat :=
  if stage = 6 then
    (if ((tfind slot k.groups).map fun g => decide (g.kind = .run)).getD false then 2 else 1)
  else 0

/-- R342: a caught engine cycle delays its engine by 6 cycles, after which it is repeated. -/
def Core.delayEngine (k : Core) (slot stage : Nat) : Core :=
  let e := k.engineOf slot stage
  let k := { k with engRep := tins e (k.cycle + 6) k.engRep }
  match e with
  | 2 => { k with sweepHold := max k.sweepHold k.cycle + 6 }
  | 1 => { k with copyHold := max k.copyHold k.cycle + 6 }
  | _ =>
    { k with
      mx := { k.mx with
        running := k.mx.running.map fun o => { o with t0 := o.t0 + 6 }
        busy := max k.mx.busy k.cycle + 6 } }

/-- R348: one takeback is counted and logged. -/
def Margin.count (m : Margin) (pc : Pc) (stage slot : Nat) : Margin :=
  let e := natWord (pc.toNat + stage % 16 * 2 ^ 52 + slot % 64 * 2 ^ 56)
  { m with
    tbcnt := m.tbcnt + 1, tbtot := (m.tbtot + 1) % 2 ^ 64, tblog := (e :: m.tblog).take 8 }

/-- Address of the instruction that a takeback names: the slot's next, whose window would close now. -/
def Work.caughtPc (w : Work) (c slot : Nat) : Pc := ((w.grp c slot).map (·.pc)).getD 0

/-- R98: the number of a line of the fetch path, as it reads under a key entry. -/
def fetchLine (key pa : Nat) : Nat := 1024 * (pa / 128) + key

/-- The parcel a group would fetch at an address, where a TLB maps it. -/
def Work.peekParcel (w : Work) (c : Nat) (g : Group) (va : Nat) : Nat :=
  let look := fun (t : List (Nat × TlbEnt)) => t.find? fun x => x.2.hits g.owner va
  let e := match look (w.core c).tlb with
    | some x => some x.2
    | none => (look (w.cluster (Config.clusterOf c)).tlb2).map Prod.snd
  match e with
  | none => 0
  | some e =>
    let pa := e.phys va
    leNat ((upto 2 pa).map fun a =>
      match tfind (fetchLine e.key a) (w.core c).ifetch with
      | some l => getByte l (a % 128)
      | none => w.readByte e.key a)

/-- R344: the next instruction of a slot issues under guarded issue: MBPOP or SWSTAT.C. -/
def Work.guardedNext (w : Work) (c slot : Nat) : Bool :=
  match w.grp c slot with
  | none => false
  | some g =>
    let x := w.peekParcel c g g.pc.toNat
    decide (x % 2 = 1) &&
      ((decide (x / 8 % 64 = 0) && decide (x / 512 % 32 = 3)) ||
        (decide (x / 8 % 64 = 0x25) && decide (x / 512 % 32 = 4)))

/-- R349, R354: the core enters safe mode, with event kind 5. -/
def Work.enterSafe (w : Work) (c slot : Nat) : Work :=
  (w.modCore c fun k => { k with mgn := { k.mgn with safe := true, tbcnt := 0 } }).supEvent c 5 slot
    0 0 (zext64 (w.caughtPc c slot))

/-- R349: the ladder after a takeback. -/
def Work.ladder (w : Work) (c slot : Nat) : Work :=
  let m := (w.core c).mgn
  if m.tbcnt ≤ m.tblim then w
  else if m.step = 0 then w.enterSafe c slot
  else
    (w.modCore c fun k => { k with mgn := { k.mgn with step := m.step - 1, tbcnt := 0 } }).supEvent
      c 4 slot 0 0 (natWord (m.step - 1))

/-- R342. A quarantined core issues nothing that could be caught. A transition caught under guarded
issue is a guard failure (R344). -/
def Work.takeback (w : Work) (c slot stage : Nat) (engine : Bool) : Work :=
  let m := (w.core c).mgn
  if m.quar then w
  else if !engine && w.guardedNext c slot then w.quarantine c
  else
    let pc := w.caughtPc c slot
    let w := w.modCore c fun k =>
      let k := { k with mgn := k.mgn.count pc stage slot }
      if engine then k.delayEngine slot stage
      else { k.shift with repeating := some (k.cycle + 6) }
    if m.safe then w.quarantine c else w.ladder c slot


/-- R391: a takeback detected live in replay is a divergence, and acts as in any other run. -/
def Work.liveTakeback (w : Work) : Work := if w.repMode = 1 then w.diverge 1 else w

/-- R342. -/
def execTakeback (core slot stage : Nat) (engine : Bool) (s : State) :
    Host.Outcome State Fault Refusal :=
  event s fun w => w.liveTakeback.takeback core slot stage engine

/-- R342: what is repeated in this core cycle: an engine's cycle, or what the core issues; `stage` tells which,
where both are. -/
def Core.repeats (k : Core) (slot stage : Nat) : Option Bool :=
  let eng := decide (tfind (k.engineOf slot stage) k.engRep = some k.cycle)
  let own := decide (k.repeating = some k.cycle)
  if eng && (decide (stage = 5) || decide (stage = 6) || !own) then some true
  else if own then some false else none

/-- R342, R349: the repetition is caught too: the core enters safe mode. -/
def Work.repeatCaught (w : Work) (core slot stage : Nat) : Work :=
  let k := w.core core
  match (if k.mgn.quar then none else k.repeats slot stage) with
  | none => w
  | some eng =>
    let pc := w.caughtPc core slot
    let k' := { k with mgn := k.mgn.count pc stage slot }
    let w := w.setCore core
      (if eng then
        let k' := k'.delayEngine slot stage
        { k' with engRep := tdel (k.engineOf slot stage) k'.engRep }
      else { k'.shift with repeating := none })
    if k.mgn.safe then w.quarantine core else w.enterSafe core slot

def execTakebackRepeatCaught (core slot stage : Nat) (s : State) :
    Host.Outcome State Fault Refusal :=
  event s fun w => w.liveTakeback.repeatCaught core slot stage

/-- R344, R349: a transition caught under guarded issue; the instruction is not issued. -/
def Work.guardFailed (w : Work) (core slot : Nat) : Work :=
  if (w.core core).mgn.quar || !w.guardedNext core slot then w else w.quarantine core

def execGuardFailure (core slot : Nat) (s : State) : Host.Outcome State Fault Refusal :=
  event s fun w => w.liveTakeback.guardFailed core slot

/-- R348: the takeback window ends. -/
def execTbwinRestart (core : Nat) (s : State) : Host.Outcome State Fault Refusal :=
  event s fun w =>
    w.modCore core fun k =>
      let n := max 1024 k.mgn.tbwin
      if k.mgn.winStart + n ≤ k.cycle then
        { k with mgn := { k.mgn with tbcnt := 0, winStart := k.mgn.winStart + n } }
      else k

/-- R349: system software clears a quarantined core whose self-test has passed. -/
def execQuarantineClear (core : Nat) (selfTest : Bool) (s : State) :
    Host.Outcome State Fault Refusal :=
  event s fun w =>
    if !(w.core core).mgn.quar || !selfTest then w
    else
      w.modCore core fun k =>
        { k with
          good := true
          mgn := { k.mgn with quar := false, safe := false, step := 0, heldStep := none } }

end Sys2Proof.Machine
end

