-- ==== Sys2Proof/Machine/Launch.lean ====
section
/-!
DEFINITION. Launches: queues and admission (R28, R303 to R307, R394), LAUNCH (R309), the distributor
(R19 to R22, R25, R26, R38, R58, R312, R313, R315, R374), the opening book (R392 to R394), and
retirement (R35, R41, R192, R240, R311).
-/

namespace Sys2Proof.Machine

/-! ## What the distributor reads and writes (R303, R306, log 25) -/

/-- The unit number of the distributor's accesses outside near memory; they go through core 0. -/
def distUnit : Nat := 66

/-- What a read of the distributor answers. -/
inductive DistRead where
  /-- Translation or permission fails. -/
  | fail
  /-- Data from outside near memory is still to come. -/
  | wait (w : Work)
  | ok (w : Work) (v : Nat)

/-- The page of an access of the distributor under an owner's tables: physical address, key. -/
def Work.distPage (w : Work) (owner va n : Nat) (acc : Acc) : Option (Nat × Nat) × Work :=
  let va := va % 2 ^ 52
  let q := w.walk owner va
  match q.1 with
  | .leaf e =>
    let g := engineGroup false owner
    if q.2.permits g e acc && q.2.placeOk g e (e.phys va) n false true false then
      (some (e.phys va, e.key), q.2)
    else (none, q.2)
  | _ => (none, q.2)

/-- A number of at most 128 bytes in one line. -/
def Work.distGet (w : Work) (owner va n : Nat) : DistRead :=
  match w.distPage owner va n .load with
  | (none, _) => .fail
  | (some (pa, key), w) =>
    if (w.place pa).isNear then
      let r := w.homeRead key false pa n
      .ok r.2 (leNat r.1)
    else
      match (w.core 0).engineLine distUnit (pa / 128) with
      | some f =>
        match f.2.data with
        | some d =>
          if f.2.bad then .fail
          else .ok w (leNat ((upto n (pa % 128)).map (getByte d)))
        | none => .wait w
      | none =>
        let o := w.newOp 0
        let r : Req :=
          { core := 0, slot := distUnit, launch := 0, lin := 0, gidx := 0, line := pa / 128
            ef := false, ms := false, eng := true, counted := false, key, pri := 3, op := o.1
            kind := .fill false false [] }
        let f : Fill :=
          { req := r, load := none, install := false, overlay := [], data := none, bad := false }
        .wait ((o.2.modCore 0 fun k => { k with fills := tins o.1 f k.fills }).request r)

/-- The lines the distributor has read outside near memory are not kept beyond one use. -/
def Work.distDrop (w : Work) : Work :=
  if (w.core 0).fills.any fun f => f.2.req.eng && decide (f.2.req.slot = distUnit) then
    w.modCore 0 fun k =>
      { k with fills := k.fills.filter fun f =>
          !(f.2.req.eng && decide (f.2.req.slot = distUnit) && f.2.data.isSome) }
  else w

/-- A write of the distributor at DEVICE: its sectors enter INB of every core. -/
def Work.distPut (w : Work) (owner va : Nat) (data : List Byte) : Work :=
  match w.distPage owner va data.length .store with
  | (none, w) => w
  | (some (pa, key), w) =>
    let q := w.engineWrite 0 distUnit 0 0 3 false [{ pa, len := data.length, key }] data
    q.1.inbAll ((upto data.length pa).map (· / 32)).eraseDups

/-! ## Re-reading dependences (R307) -/

/-- R307: dependences that some queues' heads wait for are read again, from their memory; what of some lines
is on its way to the distributor, or has come and not been examined, is asked for again. -/
def Work.reread (w : Work) (p : Queue → Bool) (lines : Nat → Bool) : Work :=
  { w.modCore 0 fun k =>
      { k with fills := k.fills.filter fun f =>
          !(f.2.req.eng && decide (f.2.req.slot = distUnit) && lines f.2.req.line) } with
    queues := tmap (fun _ q => if p q then { q with waits := [] } else q) w.queues }

/-- R307: a stamped write of some sectors has been performed. -/
def Work.rereadAt (w : Work) (secs : List Nat) : Work :=
  w.reread (fun q => q.waits.any secs.contains) fun n => secs.any fun x => decide (x / 4 = n)

/-! ## Completion objects (R306) -/

/-- The words of a completion object. -/
structure Completion where
  status : Nat := 0
  done : Bool := false
  rflags : Nat := 0
  tend : Nat := 0
  gangp : Nat := 0
  gangf : Nat := 0
  dropped : Nat := 0

def Completion.bytes (c : Completion) : List Byte :=
  leBytes 64 (c.status % 256 + (if c.done then 2 ^ 8 else 0) + c.rflags % 32 * 2 ^ 64 +
    c.tend % 2 ^ 64 * 2 ^ 128 + c.gangp % 2 ^ 33 * 2 ^ 192 + c.gangf % 2 ^ 33 * 2 ^ 256 +
    c.dropped % 2 ^ 32 * 2 ^ 320)

/-- R306, R307: the device writes a completion object: every waiting dependence is read again. -/
def Work.putCompletion (w : Work) (owner cpl : Nat) (c : Completion) : Work :=
  (w.distPut owner cpl c.bytes).reread (fun _ => true) fun _ => true

/-- R306: the final object of a launch. -/
def Work.finalOf (w : Work) (x : Launch) (status : Nat) : Completion :=
  { status, done := true, rflags := x.rflags.toNat, tend := w.tempo, gangp := x.gangp
    gangf := x.gangf, dropped := x.dropped }

/-! ## The opening book (R392, R393) -/

def bookHeader (r : BitVec 1024) : Nat := lrCpl r + 64
def bookEntry (r : BitVec 1024) (i : Nat) : Nat := lrCpl r + 128 + 8 * i

/-- R393: USED, TRUNC and NTEAM go into the header, before the completion object. -/
def Work.finishBook (w : Work) (x : Launch) : Work :=
  if lrBook x.record ≠ 1 then w
  else
    let at_ := bookHeader x.record
    let w := w.distPut x.owner (at_ + 8) (leBytes 4 x.bookPos)
    let w := w.distPut x.owner (at_ + 12) (leBytes 4 (if x.bookPos < x.placed then 1 else 0))
    w.distPut x.owner (at_ + 16) (leBytes 8 (lrTeams x.record))

/-- The final write of a launch: book, then completion object; the launch is complete. -/
def Work.finishLaunch (w : Work) (l : Nat) (x : Launch) (status : Nat) : Work :=
  ((w.finishBook x).putCompletion x.owner (lrCpl x.record) (w.finalOf x status)).modLaunch l
    fun x => { x with complete := true }

/-- An entry of the book. -/
structure BookEnt where
  lin : Nat
  core : Nat
  pref : Bool
  pos : Nat

def BookEnt.read (v : Nat) : BookEnt :=
  { lin := v % 2 ^ 32, core := 8 * (v / 2 ^ 32 % 128) + v / 2 ^ 39 % 8
    pref := decide (v / 2 ^ 42 % 2 = 1), pos := v / 2 ^ 43 % 8 }

def BookEnt.word (e : BookEnt) : Nat :=
  e.lin % 2 ^ 32 + e.core / 8 % 128 * 2 ^ 32 + e.core % 8 * 2 ^ 39 +
    (if e.pref then 2 ^ 42 else 0) + e.pos % 8 * 2 ^ 43

/-! ## Room (R27, R38, R57, R313) -/

/-- R19: the groups of a team on its home core and on the partner. -/
def teamSplit (r : BitVec 1024) : List Nat × List Nat :=
  let n := lrNgrp r
  if lrTwin r then (upto ((n + 1) / 2), upto (n / 2) ((n + 1) / 2)) else (upto n, [])

/-- R27: quarter-rows of some groups of a team. -/
def rowsOf (r : BitVec 1024) (l : List Nat) : Nat :=
  l.foldl (fun n i => n + 4 * lrVq r (lrRoleOf r i) * (lrWidth r / 16)) 0

/-- R20: a team has an allotment of a buffer on a core: SBUF on its home core, the others on the
cores that hold groups of it. -/
def Team.holds (t : Team) (c buf : Nat) : Bool :=
  if buf = 3 then decide (c = t.home) else (tfind c t.wb).isSome

/-- Ranges of a core's buffer that resident teams hold. -/
def Work.heldRanges (w : Work) (c buf : Nat) : Tab Nat :=
  w.teams.foldl (fun t p =>
    let x := p.2
    let size := allotSize (((w.launch? x.launch).map (·.record)).getD 0) buf
    if x.resident && decide (size ≠ 0) && x.holds c buf then tins (x.allot c buf).2 size t else t) []

/-- R313: the limit of an allotment: SBUF ends below the mailbox. -/
def allotLimit (buf : Nat) : Nat := if buf = 3 then 0x3FC00 else bufSize buf

/-- R313: the lowest free range for an allotment; a team that needs none has base 0. -/
def Work.findRange (w : Work) (r : BitVec 1024) (c buf : Nat) : Option Nat :=
  let n := allotSize r buf
  if n = 0 then some 0 else lowestFit n (allotLimit buf) (w.heldRanges c buf)

/-- R313: a core has room for some groups of a team: where WBUF, ABUF and CBUF go. -/
def Work.roomOn (w : Work) (r : BitVec 1024) (c : Nat) (l : List Nat) : Option (Nat × Nat × Nat) :=
  let k := w.core c
  let free := ((upto 43 1).filter fun s => (tfind s k.groups).isNone).length
  if !k.good || decide (free < l.length) || decide (Config.teamRows < k.rowsUsed + rowsOf r l) then
    none
  else
    match w.findRange r c 0, w.findRange r c 1, w.findRange r c 2 with
    | some a, some b, some d => some (a, b, d)
    | _, _, _ => none

/-- Where a team goes on a home core: the SBUF base, and by core the other bases. -/
def Work.roomAt (w : Work) (r : BitVec 1024) (home : Nat) :
    Option (Nat × List (Nat × List Nat × Nat × Nat × Nat)) :=
  let s := teamSplit r
  match w.roomOn r home s.1, w.findRange r home 3 with
  | some a, some sb =>
    if s.2 = [] then some (sb, [(home, s.1, a)])
    else
      (w.roomOn r (Config.partner home) s.2).map fun b =>
        (sb, [(home, s.1, a), (Config.partner home, s.2, b)])
  | _, _ => none

/-- R19, R313: the cores of a cluster that may be a home, ascending. -/
def homesIn (r : BitVec 1024) (cl : Nat) : List Nat :=
  if lrTwin r then (coresOf cl).filter (· % 2 = 0) else coresOf cl

/-- R38: how many teams an empty core or twin pair in the mask takes. -/
def Work.coreCapacity (w : Work) (r : BitVec 1024) (home : Nat) : Nat :=
  let s := teamSplit r
  let per := fun (c : Nat) (l : List Nat) (withSb : Bool) =>
    let bound := fun (n : Nat) (q : Nat × Nat) => if q.2 = 0 then n else min n (q.1 / q.2)
    if (w.core c).good then
      [(Config.teamRows, rowsOf r l), (bufSize 0, allotSize r 0), (bufSize 1, allotSize r 1),
        (bufSize 2, allotSize r 2), (allotLimit 3, if withSb then allotSize r 3 else 0)].foldl bound
        (43 / max l.length 1)
    else 0
  if s.2 = [] then per home s.1 true
  else min (per home s.1 true) (per (Config.partner home) s.2 false)

/-- R38: grid-barrier capacity: whole gangs of the fallback size in every cluster. -/
def Work.capacity (w : Work) (r : BitVec 1024) : Nat :=
  let f := lrGfall r + 1
  (upto Config.clusters).foldl (fun t cl =>
    t + (homesIn r cl).foldl (fun n c => n + w.coreCapacity r c) 0 / f * f) 0

/-! ## The checks of R28, R304 and R394 -/

/-- R28: a field of the record that must be zero is not, or an address is not aligned. -/
def lrBad1 (r : BitVec 1024) : Bool :=
  decide (recBits r 319 295 ≠ 0) || decide (recBits r 383 372 ≠ 0) ||
    decide (recBits r 446 436 ≠ 0) || decide (recBits r 510 500 ≠ 0) ||
    ((upto 4).any fun k => decide (recBits r (64 * k + 575) (64 * k + 553) ≠ 0)) ||
    decide (recBits r 1023 896 ≠ 0) || decide (lrCode r % 256 ≠ 0) || decide (lrArgs r % 64 ≠ 0) ||
    decide (lrCpl r % 64 ≠ 0) || decide (lrBook r = 3) || (lrSwapb r && !lrGridb r)

/-- R28, code 0x05. -/
def lrBad5 (r : BitVec 1024) : Bool :=
  let n := lrNgrp r
  decide (n = 0) || decide ((if lrTwin r then 32 else 16) < n) ||
    (upto 4).any fun k =>
      decide (16 < lrVq r k) || (decide (0 < lrGcnt r k) && decide (lrVq r k = 0)) ||
        (decide (0 < lrGcnt r k) && decide (lrEnt r k < 32)) || decide (lrWidth r ≤ lrLast r k)

/-- R28, code 0x07. -/
def lrBad7 (r : BitVec 1024) : Bool :=
  let n := lrRingn r
  let roles := (upto (lrRlen r + 1)).map (lrRorder r)
  if n = 0 then false
  else
    decide (n = 1) || decide (16 < n) || decide (lrRingsz r = 0) ||
      decide (roles.eraseDups.length ≠ roles.length) || (roles.any fun k => decide (lrGcnt r k = 0)) ||
      decide (1024 * lrSbq r < 128 + 128 * n * lrRingsz r)

/-- R28, code 0x08. -/
def lrBad8 (r : BitVec 1024) : Bool :=
  let s := teamSplit r
  decide (Config.teamRows < rowsOf r s.1) || decide (Config.teamRows < rowsOf r s.2) ||
    decide (255 < lrSbq r) || decide (512 < lrWbq r) || decide (256 < lrAbq r) ||
    decide (1024 < lrCbq r)

/-- What a group of checks answers: a refusal code, all passed, or not yet known. -/
inductive Check where
  | refuse (w : Work) (code : Nat)
  | pass (w : Work)
  | wait (w : Work)

/-- R28, code 0x06: the handler table at CODE, under the launch's owner. -/
def Work.checkHandlers (w : Work) (r : BitVec 1024) : Check :=
  let n := lrHcount r
  if n = 0 then .pass w
  else if 16 < n then .refuse w 6
  else
    match w.distGet (lrOwner r) (lrCode r) 64 with
    | .fail => .refuse w 6
    | .wait w => .wait w
    | .ok w v =>
      if (upto n).any fun i =>
          let e := v / 2 ^ (32 * i) % 2 ^ 32
          decide (2 ^ 24 ≤ e) || decide (e < 32)
      then .refuse w 6 else .pass w

/-- What the dependences of a record have shown: data still to come, sectors of those not done, and
whether one is done in error. -/
structure DepsSeen where
  coming : Bool := false
  unmet : List Nat := []
  error : Bool := false

/-- R306, R307: the dependences of a record at the head of a queue: a read that fails counts as done
in error. While one is not done the head waits. -/
def Work.checkDeps (w : Work) (q owner : Nat) (r : BitVec 1024) : Check :=
  let step := fun (x : Work × DepsSeen) (k : Nat) =>
    if !lrDepv r k then x
    else
      let at_ := lrDep r k / 64 * 64
      match x.1.distGet owner at_ 8 with
      | .fail => (x.1, { x.2 with error := true })
      | .wait w => (w, { x.2 with coming := true })
      | .ok w v =>
        if v / 2 ^ 8 % 2 = 0 then
          let p := w.distPage owner at_ 8 .load
          (p.2, { x.2 with unmet := x.2.unmet ++ [((p.1.map Prod.fst).getD 0) / 32] })
        else (w, { x.2 with error := x.2.error || decide (v % 256 ≠ 0) })
  let x := [0, 1].foldl step (w, {})
  if x.2.coming then .wait x.1
  else if x.2.unmet ≠ [] then
    .wait { x.1 with queues := tput Queue.init q { x.1.queue q with waits := x.2.unmet } x.1.queues }
  else if x.2.error then .refuse x.1 0x0B
  else .pass x.1

/-- R394: the entries of a book name cores in the mask. -/
def Work.checkEntries (w : Work) (owner : Nat) (r : BitVec 1024) (i : Nat) : Nat → Check
  | 0 => .pass w
  | n + 1 =>
    match w.distGet owner (bookEntry r i) 8 with
    | .fail => .refuse w 0x0C
    | .wait w => .wait w
    | .ok w v =>
      let c := (BookEnt.read v).core
      if decide (c < Config.cores) && (w.core c).good then w.checkEntries owner r (i + 1) n
      else .refuse w 0x0C

/-- R394: a book to be followed. -/
def Work.checkBook (w : Work) (owner : Nat) (r : BitVec 1024) : Check :=
  if lrBook r ≠ 2 then .pass w
  else
    match w.distGet owner (bookHeader r) 64 with
    | .fail => .refuse w 0x0C
    | .wait w => .wait w
    | .ok w v =>
      if v % 2 ^ 32 ≠ 0x424F4F4B ∨ v / 2 ^ 128 % 2 ^ 33 ≠ lrTeams r then .refuse w 0x0C
      else w.checkEntries owner r 0 (v / 2 ^ 64 % 2 ^ 32)

/-- One check after another. -/
def Check.andThen (c : Check) (f : Work → Check) : Check :=
  match c with
  | .pass w => f w
  | c => c

/-- Refuse with a code when a condition holds. -/
def refuseIf (b : Bool) (code : Nat) (w : Work) : Check := if b then .refuse w code else .pass w

/-- R28, R304, R394: every check of the record at the head of a queue, in ascending code. -/
def Work.checkRecord (w : Work) (q owner : Nat) (r : BitVec 1024) : Check :=
  let teams := lrTeams r
  (((((((((((refuseIf (lrBad1 r) 1 w).andThen
    (refuseIf (decide (lrWidthCode r = 3) || decide (Config.wmax < lrWidth r)) 2)).andThen
    (refuseIf (decide (teams = 0) || decide (2 ^ 32 < teams)) 3)).andThen
    (refuseIf (decide (lrGpref r < lrGfall r)) 4)).andThen
    (refuseIf (lrBad5 r) 5)).andThen
    (fun w => w.checkHandlers r)).andThen
    (refuseIf (lrBad7 r) 7)).andThen
    (refuseIf (lrBad8 r) 8)).andThen
    (fun w => refuseIf (lrGridb r && !lrSwapb r && decide (w.capacity r < teams)) 9 w)).andThen
    (refuseIf (decide (lrOwner r ≠ owner)) 0x0A)).andThen
    (fun w => w.checkDeps q owner r)).andThen fun w => w.checkBook owner r

/-! ## Admission (R303 to R305) -/

/-- R303: the entries of a ring. -/
def Queue.size (q : Queue) : Nat :=
  let n := field q.ctl 3 0
  2 ^ (if 6 ≤ n ∧ n ≤ 15 then n else 6)

def Queue.pri (q : Queue) : Nat := field q.ctl 5 4
def Queue.enabled (q : Queue) : Bool := q.ctl.getLsbD 6
def Queue.owner (q : Queue) : Nat := field q.ctl 16 7

def Work.modQueue (w : Work) (q : Nat) (f : Queue → Queue) : Work :=
  { w with queues := tput Queue.init q (f (w.queue q)) w.queues }

/-- The head entry is consumed; `err` sets QERR. -/
def Work.consume (w : Work) (q : Nat) (err : Bool) : Work :=
  w.modQueue q fun x =>
    { x with
      head := (x.head + 1) % x.size
      ctl := if err then x.ctl ||| 0x20000#64 else x.ctl }

/-- R23, R38: an admitted launch. -/
def newLaunch (r : BitVec 1024) (addr : Nat) (x : Queue) : Launch :=
  { record := r, addr, pri := x.pri, owner := x.owner, placed := 0, retired := 0, complete := false, gangp := 0, gangf := 0, dropped := 0, rflags := 0, gen := 0
    swap := false, waitFull := lrGridb r && !lrSwapb r, heldAm := [], bookPos := 0, cores := []
    gone := [] }

/-- What became of a queue's head. -/
inductive HeadEnd where
  /-- It waits at the head. -/
  | wait (w : Work)
  /-- It has been consumed. -/
  | taken (w : Work)

/-- R303, R304: the record of a queue's head. -/
def Work.admitRecord (w : Work) (q addr : Nat) (r : BitVec 1024) : HeadEnd :=
  let x := w.queue q
  let own := x.owner
  let p := w.distPage own (lrCpl r) 64 .store
  if lrCpl r % 64 ≠ 0 ∨ p.1.isNone then .taken (p.2.consume q true)
  else
    match p.2.checkRecord q own r with
    | .wait w => .wait w
    | .refuse w code =>
      .taken ((w.consume q false).putCompletion own (lrCpl r)
        { status := code, done := true, tend := w.tempo })
    | .pass w =>
      let w := (w.consume q false).putCompletion own (lrCpl r) {}
      let l := w.launchSeq + 1
      .taken { w with
        launches := tins l (newLaunch r addr x) w.launches, launchSeq := l
        lastServed := tins x.pri q w.lastServed, everLaunched := true }

/-- R303, R304: a queue's head entry. -/
def Work.admitHead (w : Work) (q : Nat) : HeadEnd :=
  let x := w.queue q
  match w.distGet x.owner (x.base + 8 * (x.head % x.size)) 8 with
  | .fail => .taken (w.consume q true)
  | .wait w => .wait w
  | .ok w e =>
    if 2 ^ 52 ≤ e ∨ e % 128 ≠ 0 then .taken (w.consume q true)
    else
      match w.distGet x.owner e 128 with
      | .fail => .taken (w.consume q true)
      | .wait w => .wait w
      | .ok w v => w.admitRecord q e (BitVec.ofNat 1024 v)

/-- R303, R307, R339: a queue with a head to examine. -/
def Work.queueReady (w : Work) (q : Nat) : Bool :=
  let x := w.queue q
  x.enabled && decide (x.head % x.size ≠ x.tail % x.size) && decide (x.waits = []) &&
    !w.suspended.contains x.owner

/-- R305: queues in the order in which they are served. -/
def Work.queueOrder (w : Work) : List Nat :=
  let rank := fun (q : Nat) =>
    let p := (w.queue q).pri
    (3 - p) * 16 + (q + 15 - (tfind p w.lastServed).getD 15) % 16
  sortBy (fun a b => decide (rank a < rank b)) ((upto 16).filter w.queueReady)

/-- R305: the first queue of an order whose head can be consumed. A head that is refused or skipped (R303,
R304) uses the distributor's turn of 32 cycles, and its queue does not count as the one last served: R305
does not say (DESIGN CHOICE, log 36). -/
def Work.admitFirst (w : Work) : List Nat → Work
  | [] => w
  | q :: t =>
    match w.admitHead q with
    | .wait w => w.admitFirst t
    | .taken w => { w.distDrop with admitAt := w.tempo + 1 }

/-- R304: launches admitted and not yet complete. -/
def Work.openLaunches (w : Work) : Nat := (w.launches.filter fun p => !p.2.complete).length

/-- R304, R305. -/
def execLaunchAdmit (s : State) : Host.Outcome State Fault Refusal :=
  event s fun w =>
    if w.tempo % 32 ≠ 0 ∨ w.tempo < w.admitAt ∨ 64 ≤ w.openLaunches then w
    else w.admitFirst w.queueOrder

/-! ## LAUNCH (R309) -/

def execLaunch (g : BitVec 2) (a : BitVec 6) (q : BitVec 4) (s : State) :
    Host.Outcome State Fault Refusal :=
  issue (wordForm (wLaunch g a q) g none wtScalar)
    (fun _ gr => { ctx := notRoutine gr, reads := [useS a.toNat], writes := [useF] })
    (fun w c _ gr =>
      let v := gr.s a.toNat
      if v.toNat % 128 ≠ 0 then .trap 0x07 v 0
      else
        match w.release c gr 3 with
        | .busy w gr => .hold w gr none
        | .done w gr =>
          let x := w.queue q.toNat
          if !x.enabled then .done w (gr.sflNow (mkSfl false false false true))
          else if (x.tail + 1) % x.size = x.head % x.size then
            .done w (gr.sflNow (mkSfl false false true false))
          else
            let w := w.distPut x.owner (x.base + 8 * (x.tail % x.size)) (leBytes 8 v.toNat)
            .done (w.modQueue q.toNat fun x => { x with tail := (x.tail + 1) % x.size })
              (gr.sflNow (mkSfl true false false false))) s

/-! ## Placement (R22, R26, R58, R245, R310 to R315) -/

/-- A team of a launch has been placed: it is known, or has retired. -/
def Work.isPlaced (w : Work) (l : Nat) (x : Launch) (lin : Nat) : Bool :=
  (w.team l lin).isSome || x.gone.contains lin

/-- The next `n` unplaced teams, ascending. -/
def Work.unplaced (w : Work) (l : Nat) (x : Launch) (n : Nat) : List Nat :=
  if lrBook x.record ≠ 2 then upto n x.placed
  else ((upto (x.placed + n)).filter fun i => !w.isPlaced l x i).take n

/-- R25, R26: the group of an index. -/
def userGroup (x : Launch) (l lin i : Nat) : Group :=
  let r := x.record
  let k := lrRoleOf r i
  let lanes := lowLanes (lrLanes r i)
  { Group.blank with
    launch := l, lin, gidx := i, role := k, owner := lrOwner r, width := lrWidth r
    nv := 4 * lrVq r k, pri := x.pri, live := lanes, exec := lanes
    pc := BitVec.ofNat 52 (lrCode r + 2 * lrEnt r k)
    sreg := tput 0 0 (natWord (lrArgs r)) (tput 0 1 (natWord lin)
      (tput 0 2 (natWord (lrUser0 r)) (tput 0 3 (natWord (lrUser1 r)) []))) }

/-- R58, R29: zero the allotments of a team; the slots of its ring belong to the role at position
0. -/
def Work.clearAllots (w : Work) (t : Team) (r : BitVec 1024) (cores : List Nat) : Work :=
  let w := cores.foldl (fun w c => w.modCore c fun k =>
    [0, 1, 2].foldl (fun k b => k.zero b (t.allot c b).2 (allotSize r b)) k) w
  let w := w.modCore t.home fun k => k.zero 3 t.sb (allotSize r 3)
  (upto (lrRingn r)).foldl (fun w i => w.setRingWord t i false (lrRorder r 0)) w

/-- R26, R58, R245, R315: place a team on a home core. -/
def Work.placeTeam (w : Work) (l lin home gang pos size : Nat) : Option Work :=
  match w.launch? l with
  | none => none
  | some x =>
    let r := x.record
    (w.roomAt r home).map fun room =>
      let col := fun (f : Nat × Nat × Nat → Nat) => room.2.map fun p => (p.1, f p.2.2)
      let cores := room.2.map Prod.fst
      let t : Team :=
        { launch := l, lin, home, twin := lrTwin r, sb := room.1, wb := col (·.1)
          ab := col (·.2.1), cb := col (·.2.2), tent := 0, retired := 0, bars := [], ringRel := []
          gang, gangPos := pos, gangSz := size, gangArr := 0, gridArr := 0, handles := []
          heldAm := [], late := [], stop := none, saving := false, resident := true, image := 0
          recs := [], savedMx := [], savedKicks := [], waitingRestore := false }
      let w := (w.setTeam t).clearAllots t r cores
      let w := room.2.foldl (fun w p =>
        p.2.1.foldl (fun (w : Work) i =>
          match (w.core p.1).freeSlot with
          | some s => w.placeGroup p.1 s (userGroup x l lin i)
          | none => w)
          -- R98: the fetch path is invalidated
          ((w.startAcquire p.1).modCore p.1 fun k => { k with ifetch := [] })) w
      let mine := x.heldAm.filter fun m => decide (m.idx = lin)
      let w := w.modLaunch l fun x =>
        { x with
          placed := x.placed + 1, heldAm := x.heldAm.filter fun m => decide (m.idx ≠ lin)
          cores := (x.cores ++ cores).eraseDups }
      mine.foldl (fun w m => w.amRoute home m) w

/-- R313: some teams of a gang, each to the lowest-numbered core of a cluster with room. -/
def Work.placeIn (w : Work) (l cl gang size : Nat) : Nat → List Nat → Option (Work × List Nat)
  | _, [] => some (w, [])
  | pos, lin :: t =>
    match w.launch? l with
    | none => none
    | some x =>
      match (homesIn x.record cl).findSome? fun c =>
          (w.placeTeam l lin c gang pos size).map fun w => (w, c) with
      | none => none
      | some (w, c) => (w.placeIn l cl gang size (pos + 1) t).map fun q => (q.1, c :: q.2)

/-- R306, R393: a gang has been placed: counts and book. -/
def Work.gangPlaced (w : Work) (l : Nat) (pref : Bool) (book : List BookEnt) (cl : Nat) : Work :=
  let w := { w with gangSeq := w.gangSeq + 1, lastCluster := cl }
  let w := w.modLaunch l fun x =>
    if pref then { x with gangp := x.gangp + 1 } else { x with gangf := x.gangf + 1 }
  match w.launch? l with
  | some x =>
    if lrBook x.record ≠ 1 then w
    else
      match w.distGet x.owner (bookHeader x.record + 4) 4 with
      | .ok w cap =>
        book.foldl (fun (q : Work) e =>
          match q.launch? l with
          | some x =>
            if x.bookPos < cap then
              (q.distPut x.owner (bookEntry x.record x.bookPos) (leBytes 8 e.word)).modLaunch l
                fun x => { x with bookPos := x.bookPos + 1 }
            else q
          | none => q) w
      | .wait w => w
      | .fail => w
  | none => w

/-- What an attempt to place a gang answers. -/
inductive GangEnd where
  | placed (w : Work)
  | noRoom
  /-- The book's data is still to come. -/
  | wait (w : Work)

/-- R22, R313: the next gang in the order of linear indices. -/
def Work.nextGang (w : Work) (l : Nat) (x : Launch) : GangEnd :=
  let r := x.record
  let left := lrTeams r - x.placed
  let p := lrGpref r + 1
  let f := lrGfall r + 1
  let gang := w.gangSeq + 1
  let tryIn := fun (cl n : Nat) => w.placeIn l cl gang n 0 (w.unplaced l x n)
  let order := (upto Config.clusters).map fun i => (w.lastCluster + 1 + i) % Config.clusters
  match order.findSome? fun cl => (tryIn cl (min f left)).map fun q => (cl, q) with
  | none => .noRoom
  | some (cl, small) =>
    let big := tryIn cl (min p left)
    let n := if big.isSome then min p left else min f left
    let q := big.getD small
    let pref := decide (n = p)
    let book := (((w.unplaced l x n).zip q.2).mapIdx fun i e =>
      ({ lin := e.1, core := e.2, pref, pos := i } : BookEnt))
    .placed (q.1.gangPlaced l pref book cl)

/-- R394: the entries of the next gang of a book. -/
def Work.bookGang (w : Work) (x : Launch) (used : Nat) (i : Nat) (pos : Option (Nat × Nat)) :
    Nat → Option (Work × List BookEnt) × Work
  | 0 => (some (w, []), w)
  | n + 1 =>
    if used ≤ i then (some (w, []), w)
    else
      match w.distGet x.owner (bookEntry x.record i) 8 with
      | .fail => (some (w, []), w)
      | .wait w => (none, w)
      | .ok w v =>
        let e := BookEnt.read v
        let more := match pos with
          | none => true
          | some (p, cl) => decide (e.pos = p + 1) && decide (e.core / 8 = cl)
        if !more then (some (w, []), w)
        else
          let r := w.bookGang x used (i + 1) (some (e.pos, e.core / 8)) n
          (r.1.map fun q => (q.1, e :: q.2), r.2)

/-- R394: the next gang of a followed book. An entry for a team that is placed already, or that the
grid does not have, places nothing. -/
def Work.followGang (w : Work) (l : Nat) (x : Launch) : GangEnd :=
  match w.distGet x.owner (bookHeader x.record) 64 with
  | .fail => w.nextGang l x
  | .wait w => .wait w
  | .ok w v =>
    let used := v / 2 ^ 64 % 2 ^ 32
    if used ≤ x.bookPos then w.nextGang l x
    else
      match w.bookGang x used x.bookPos none 8 with
      | (none, w) => .wait w
      | (some (w, []), _) => w.nextGang l x
      | (some (w, e :: es), _) =>
        let all := e :: es
        let use := all.filter fun e => decide (e.lin < lrTeams x.record) && !w.isPlaced l x e.lin
        let gang := w.gangSeq + 1
        let step := fun (q : Option Work) (e : BookEnt) =>
          q.bind fun w => w.placeTeam l e.lin e.core gang e.pos all.length
        match use.foldl step (some w) with
        | none => .noRoom
        | some w =>
          let w := w.modLaunch l fun x => { x with bookPos := x.bookPos + all.length }
          .placed (if use = [] then w else w.gangPlaced l e.pref [] (e.core / 8))

/-- The next gang of a launch. -/
def Work.placeNext (w : Work) (l : Nat) : GangEnd :=
  match w.launch? l with
  | none => .noRoom
  | some x =>
    if lrTeams x.record ≤ x.placed then .noRoom
    else
      match lrBook x.record with
      | 1 =>
        match w.distGet x.owner (bookHeader x.record + 4) 4 with
        | .wait w => .wait w
        | _ => w.nextGang l x
      | 2 => w.followGang l x
      | _ => w.nextGang l x

/-- R38: every gang of a launch at once. -/
def Work.placeAll (w : Work) (l : Nat) : Nat → GangEnd
  | 0 => .placed w
  | n + 1 =>
    match w.launch? l with
    | none => .noRoom
    | some x =>
      if lrTeams x.record ≤ x.placed then .placed w
      else
        match w.placeNext l with
        | .placed w => w.placeAll l n
        | e => e

/-- R312: launches with teams to place, in the order in which they are considered. -/
def Work.placeOrder (w : Work) : List (Nat × Launch) :=
  sortBy (fun a b => decide (b.2.pri < a.2.pri) || (decide (a.2.pri = b.2.pri) && decide (a.1 < b.1)))
    (w.launches.filter fun p =>
      !p.2.complete && decide (p.2.placed < lrTeams p.2.record) && !w.suspended.contains p.2.owner)

/-- The cores whose supervisors hear of a grid: those that have run it, else the first of the mask. -/
def Work.gridSupervisors (w : Work) (x : Launch) : List Nat :=
  if x.cores ≠ [] then x.cores else ((tkeys w.cores).filter fun c => (w.core c).good).take 1

/-- R38: capacity has fallen below the grid: it is treated as swap-at-barrier, and the supervisors of
the cores that run it are told; of a grid that has no core yet, that of the first core in the mask. R331
lists no kind for that: the event has kind 0 and the launch record's address (DESIGN CHOICE, log 34). -/
def Work.capacityFell (w : Work) : Work :=
  w.launches.foldl (fun w p =>
    let x := p.2
    if !x.complete && lrGridb x.record && !lrSwapb x.record && !x.swap &&
        decide (w.capacity x.record < lrTeams x.record) then
      let w := w.modLaunch p.1 fun x => { x with swap := true, waitFull := false }
      (w.gridSupervisors x).foldl (fun w c => w.supEvent c 0 0 0 0 (natWord x.addr)) w
    else w) w

/-- R312: the first gang that fits. -/
def Work.placeFirst (w : Work) : List (Nat × Launch) → Work
  | [] => w
  | (l, x) :: t =>
    let e := if x.waitFull then w.placeAll l (lrTeams x.record) else w.placeNext l
    match e with
    | .placed w => { w.distDrop with placeAt := w.tempo + 1 }.modLaunch l fun x => { x with waitFull := false }
    | .wait w => if x.waitFull then w else w.placeFirst t
    | .noRoom => if x.waitFull then w else w.placeFirst t

/-- R312. -/
def execGangPlace (s : State) : Host.Outcome State Fault Refusal :=
  event s fun w =>
    if w.tempo % 32 ≠ 0 ∨ w.tempo < w.placeAt then w
    else
      let w := w.capacityFell
      w.placeFirst w.placeOrder

/-! ## Retirement (R35) -/

/-- R35: a group with no lanes left and nothing outstanding that R35 names. -/
def Group.mayRetire (g : Group) : Bool :=
  decide (g.kind ≠ .supervisor) && decide (g.kind ≠ .run) && decide (g.live = 0) &&
    decide (g.lc = 0) && decide (g.tc = 0) && decide (g.mc = 0) && decide (g.xc = 0)

/-- R35, R40, R41, R242, R248. -/
def execGroupRetire (core slot : Nat) (s : State) : Host.Outcome State Fault Refusal :=
  event s fun w =>
    match w.grp core slot with
    | none => w
    | some g =>
      if !g.mayRetire then w
      else
        let w := (w.delGrp core slot).modCore core fun k =>
          { k with returned := k.returned.filter (· ≠ slot) }
        if g.kind = .user then
          let w := w.modTeam g.launch g.lin fun t => { t with retired := with_ t.retired g.gidx }
          let gone := fun (i : Nat) =>
            match w.team g.launch g.lin with
            | some t => has t.retired i
            | none => true
          let gang := ((w.team g.launch g.lin).map (·.gang)).getD 0
          let w := w.modCore core fun k => k.mxRetire g.launch g.lin (g.memberId slot) slot gone
          let w := (upto 16).foldl (fun w b => w.barTest g.launch g.lin b) w
          (w.gangTest g.launch gang).ringRetire g.launch g.lin
        else
          w.modCore core fun k =>
            k.mxRetire g.launch g.lin (g.memberId slot) slot (· = g.memberId slot)

/-- A kick of a team. -/
def Kick.ofTeam (x : Kick) (t : Team) : Bool :=
  !x.sup && decide (x.launch = t.launch) && decide (x.lin = t.lin)

/-- A message queued at a core for a handler of a team. -/
def AmMsg.forTeam (m : AmMsg) (t : Team) : Bool :=
  !m.toCore && decide (m.launch = t.launch) && decide (m.idx = t.lin)

/-- R35: copies, sweeps and handlers of a team still to finish. -/
def Work.teamBusy (w : Work) (t : Team) : Bool :=
  (w.members t fun _ => true) ≠ [] ||
    (t.cores.any fun c =>
      let k := w.core c
      (k.kicks.any (·.ofTeam t)) || (k.copying.any (·.ofTeam t)) ||
        (k.arrivals.any (·.forTeam t)) || k.amOver.any (·.forTeam t)) ||
    w.tensors.any fun p =>
      decide (p.2.launch = t.launch) && decide (p.2.lin = t.lin) && decide (p.2.state = 1)

/-- R339: no resident team of the owner remains: the pre-emption has ended. -/
def Work.preemptSettle (w : Work) : Work :=
  let p := w.preempt
  if (p.stage = 1 ∨ p.stage = 2) && !(w.teams.any fun t =>
      t.2.resident && ((w.launch? t.2.launch).map (·.owner)) == some p.owner) then
    { w with preempt := { p with stage := 0, result := 1 } }
  else w

/-- R192: a fill without the .RO mark. -/
def Req.plain (r : Req) : Req :=
  match r.kind with
  | .fill install _ want => { r with kind := .fill install false want }
  | _ => r

/-- R35, R192, R311: the groups of a team, and what it started, have finished. -/
def execTeamRetire (launch lin : Nat) (s : State) : Host.Outcome State Fault Refusal :=
  event s fun w =>
    match w.team launch lin, w.launch? launch with
    | some t, some x =>
      if !t.resident || t.saving || !(upto (lrNgrp x.record)).all (has t.retired) then w
      else if t.heldAm ≠ [] then w.releaseAms t
      else if w.teamBusy t then w
      else
        let mine := fun (l : L1Line) =>
          l.ro && decide (l.roLaunch = launch) && decide (l.roLin = lin)
        -- R192: also on cores that it ran on before a save
        let w := { w with
          cores := tmap (fun _ k =>
            { k with
              l1 := tmap (fun _ l => if mine l then { l with ro := false } else l) k.l1
              -- a prefetch of the team that is still to come
              fills := tmap (fun _ f =>
                if f.req.launch = launch ∧ f.req.lin = lin then { f with req := f.req.plain } else f) k.fills })
            w.cores }
        let w := { w.delTeam launch lin with
          tensors := tfilter (fun _ p => !(decide (p.launch = launch) && decide (p.lin = lin)))
            w.tensors }
        let w := w.modLaunch launch fun x =>
          { x with retired := x.retired + 1, gone := ninsert lin x.gone }
        w.preemptSettle
    | _, _ => w

/-- A message of a launch for a handler addressed to a core. -/
def AmMsg.forCore (m : AmMsg) (l : Nat) : Bool := m.toCore && decide (m.launch = l)

/-- R35: a handler of a launch that is addressed to a core runs, is queued, or its message is on its way: its
writes are the grid's. -/
def Work.coreHandlers (w : Work) (l : Nat) : Bool :=
  (w.cores.any fun p =>
    let k := p.2
    (k.groups.any fun g => decide (g.2.kind = .handlerCore) && decide (g.2.launch = l)) ||
      (k.arrivals ++ k.amOver ++ k.inbox.ams).any (·.forCore l)) ||
    w.dies.any fun d => d.2.net.any fun q =>
      match q.msg with
      | .am _ m => m.forCore l
      | _ => false

/-- R35: every store, atomic and reduction of a grid has been performed. -/
def Work.gridDrained (w : Work) (l : Nat) : Bool :=
  !(w.cores.any fun c => c.2.stores.any fun o => decide (o.2.launch = l)) &&
    !(w.dies.any fun d => d.2.units.any fun u => u.2.ordbox.any fun r => decide (r.launch = l))

/-- Sectors of the ordered updates of a grid that a core has issued and that may still be held. -/
def Core.heldSecs (k : Core) (launch : Nat) : List Nat :=
  (k.ordHeld.filter fun o => decide (o.2.launch = launch)).flatMap (·.2.secs)

/-- R35: the signatures of every core that ran the grid go to every core: a release at DEVICE scope. -/
def Work.publishGrid (w : Work) (launch : Nat) (x : Launch) : Work :=
  let bits : BitVec 2048 := x.cores.foldl (fun b c =>
    ((w.core c).heldSecs launch).foldl sigInsert (b ||| (w.core c).sigDev)) 0
  ({ w with
    cores := tmap (fun c k =>
      let k := { k with inb := k.inb ||| bits, ordHeld := tfilter (fun _ o => decide (o.launch ≠ launch)) k.ordHeld }
      if x.cores.contains c then k.clearSig true true true else k)
      w.cores } : Work).modLaunch launch fun x => { x with published := true }

/-- R35, R240, R373: the last team of a grid has retired, and its handlers have ended: publish; then, all of
it being performed, flush and write the completion object. -/
def execGridEnd (launch : Nat) (s : State) : Host.Outcome State Fault Refusal :=
  event s fun w =>
    match w.launch? launch with
    | none => w
    | some x =>
      if x.complete || decide (x.retired < lrTeams x.record) || w.coreHandlers launch then w
      else if !x.published then w.publishGrid launch x
      else if !w.gridDrained launch then w
      else
        let w := w.flushAll launch false
        let w := { w with
          dies := tmap (fun _ d => { d with rtw := tfilter (fun _ p => decide (p.launch ≠ launch)) d.rtw })
            w.dies }
        match w.launch? launch with
        | some x => w.finishLaunch launch x 0
        | none => w

end Sys2Proof.Machine
end

