-- ==== Sys2Proof/Machine/Save.lean ====
section
/-!
DEFINITION. Group records (R346), team images, save and restore (R39, R231, R261, R286, R339, R341,
R350 to R353), pre-emption (R338, R339) and the context reset (R340).
-/

namespace Sys2Proof.Machine

/-! ## Group records (R346, log 14) -/

/-- What a group waits for, and its object, at a core cycle: a back-off counts what remains. -/
def Wait.code (cycle : Nat) : Wait → Nat
  | .none => 0
  | .load _ => 1
  | .walk _ vpn => 2 + 256 * (65536 * vpn)
  | .fault va _ _ => 3 + 256 * va
  | .yieldc off _ => 4 + 256 * off
  | .monitor va _ _ _ _ _ _ => 5 + 256 * va
  | .monfull t => 6 + 256 * (t - cycle)
  | .barrier b => 7 + 256 * b
  | .gangbar => 8
  | .gridbar => 9
  | .stage => 10
  | .svcall i _ => 11 + 256 * i
  | .svqueue va _ _ => 12 + 256 * va
  | .mbpop sd => 13 + 256 * sd
  | .tempow _ => 14
  | .counters mask n => 15 + 256 * (mask.toNat + 32 * n)

/-- The wait that a record names, as it is begun again: by the instruction itself, but for a back-off and
TEMPOW, whose target has a word of its own. -/
def waitOf (code target : Nat) : Wait :=
  match code % 256 with
  | 6 => .monfull (code / 256)
  | 14 => .tempow (natWord target)
  | _ => .none

def Wait.target : Wait → Nat
  | .tempow t => t.toNat
  | _ => 0

def boolNat (b : Bool) : Nat := if b then 1 else 0

/-- R103: kind code of a register. -/
def RegKind.code : RegKind → Nat
  | .scalar => 0
  | .vector => 1
  | .mask => 2
  | .flags => 3

def RegKind.ofCode (n : Nat) : RegKind :=
  match n with
  | 0 => .scalar
  | 1 => .vector
  | 2 => .mask
  | _ => .flags

def GroupKind.code : GroupKind → Nat
  | .user => 0
  | .handlerTeam => 1
  | .handlerCore => 2
  | .supervisor => 3
  | .run => 4

def GroupKind.ofCode (n : Nat) : GroupKind :=
  match n with
  | 1 => .handlerTeam
  | 2 => .handlerCore
  | _ => .user

/-- R104, R346: an in-flight write; `saved` where a trap handler has set it aside. -/
def Flight.words (f : Flight) (saved : Bool) : List Byte :=
  leBytes 32 (f.reg + f.kind.code * 2 ^ 8 + boolNat f.bank * 2 ^ 16 + boolNat saved * 2 ^ 17 + 2 ^ 18 +
    f.lanes.toNat * 2 ^ 64 + f.left * 2 ^ 128 + f.val.toNat * 2 ^ 192) ++
  (upto 64).flatMap fun l => leBytes 4 (tget 0 l f.vec).toNat

/-- The in-flight write of an entry of a record, and whether it is set aside. -/
def flightOf (b : List Byte) (at_ : Nat) : Option (Flight × Bool) :=
  let w0 := numAt b at_ 8
  if w0 / 2 ^ 18 % 2 = 0 then none
  else
    let vec := (upto 64).map fun l => (l, (BitVec.ofNat 32 (numAt b (at_ + 32 + 4 * l) 4) : Lane))
    some (
      { kind := RegKind.ofCode (w0 / 2 ^ 8 % 4), reg := w0 % 256, bank := decide (w0 / 2 ^ 16 % 2 = 1)
        lanes := natWord (numAt b (at_ + 8) 8), left := numAt b (at_ + 16) 8
        val := natWord (numAt b (at_ + 24) 8), vec := vec.filter fun p => decide (p.2 ≠ 0) },
      decide (w0 / 2 ^ 17 % 2 = 1))

def StackEnt.words (e : StackEnt) : List Byte :=
  leBytes 24 (e.sexec.toNat + e.pend.toNat * 2 ^ 64 + e.sfmt.toNat * 2 ^ 128 + e.kind * 2 ^ 160)

/-- R224, R346: a deferred destination: register, width, refusal, sequence, group index of its key. -/
def Deferred.words (d : Deferred) : List Byte :=
  leBytes 8 (d.reg % 64 + boolNat d.wide * 2 ^ 6 + boolNat d.refused * 2 ^ 7 + d.seq % 2 ^ 40 * 2 ^ 8 +
    d.idx % 2 ^ 7 * 2 ^ 48 + 2 ^ 55)

/-- The deferred destination of an entry of a record, with the lanes that still await their result, for
which the entry has no room. -/
def deferredOf (n : Nat) (lanes : Word) : Option Deferred :=
  if n / 2 ^ 55 % 2 = 0 then none
  else
    some { reg := n % 64, wide := decide (n / 2 ^ 6 % 2 = 1), refused := decide (n / 2 ^ 7 % 2 = 1)
           lanes, seq := n / 2 ^ 8 % 2 ^ 40, idx := n / 2 ^ 48 % 2 ^ 7 }

/-- Lists of `n` parts of `z` bytes, filled up with zero. -/
def fixedParts {α : Type} (n z : Nat) (f : α → List Byte) (l : List α) : List Byte :=
  let b := (l.take n).flatMap f
  b ++ List.replicate (n * z - b.length) 0

/-- R346: the magic number of a group record. -/
def grpMagic : Nat := 0x47524F55

/-- R346: bytes of a group record. -/
def Group.recSize (g : Group) : Nat := 0x1000 + 4 * g.nv * g.width

/-- The in-flight writes of a group, with those that a trap handler has set aside. -/
def Group.allFlights (g : Group) : List (Flight × Bool) :=
  g.savedFlights.map (fun f => (f, true)) ++ g.flights.map fun f => (f, false)

/-- R346: a group record with what the group waited for. The reserved words and the last 32 bytes below
0x1000 tell whose group it is and what remains of its waits; `id` is the number under which what the record
has no place for is kept (log 14). -/
def Group.record (g : Group) (wt : Wait) (cycle slot tent id : Nat) : List Byte :=
  let word := fun (n : Nat) => leBytes 8 n
  let tab := fun (t : Tab Word) (l : List Nat) => l.flatMap fun i => word (tget 0 i t).toNat
  tab g.sreg (upto 64) ++ tab g.hsreg (upto 8 56) ++ tab g.mreg (upto 8) ++ tab g.hmreg (upto 2 6) ++
  word g.exec.toNat ++ word g.live.toNat ++
  word (grpMagic + slot * 2 ^ 32) ++ word g.pc.toNat ++ word (g.fmt.toNat + g.hfmt.toNat * 2 ^ 32) ++
  word g.flg.toNat ++ word g.sfl.toNat ++ word (boolNat g.chk) ++ word g.iset.toNat ++
  word g.msr.toNat ++
  word (g.lc + g.sc * 2 ^ 8 + g.tc * 2 ^ 16 + g.mc * 2 ^ 24 + g.xc * 2 ^ 32) ++
  word (g.stack.length + g.hdepth * 2 ^ 8) ++
  word (boolNat g.inHandler + boolNat g.trapStop * 2 + tent * 2 ^ 12) ++
  word (wt.code cycle) ++ word g.hpc.toNat ++ word g.skid ++
  word (g.cursor + boolNat g.acquired * 2 ^ 8) ++ word g.phases.toNat ++
  word g.epc.toNat ++ word g.ecause.toNat ++ word g.eexec.toNat ++ word g.elanes.toNat ++
  word g.einfo.toNat ++
  word id ++ word (g.launch % 2 ^ 48 + g.kind.code * 2 ^ 48 + g.role * 2 ^ 56) ++
  word (g.lin % 2 ^ 40 + g.gidx * 2 ^ 40 + g.width * 2 ^ 48 + g.nv % 256 * 2 ^ 56) ++
  fixedParts 8 288 (fun p => p.1.words p.2) g.allFlights ++
  fixedParts 32 24 StackEnt.words g.stack ++ fixedParts 16 8 Deferred.words g.deferred ++
  word wt.target ++ word ((g.left.map (· + 1)).getD 0) ++ word g.ordSeq ++
  word (g.wstep % 2 ^ 16 + g.owner * 2 ^ 16 + g.pri % 256 * 2 ^ 32 + g.half % 2 ^ 16 * 2 ^ 40) ++
  (upto g.nv).flatMap fun x => (upto g.width).flatMap fun l => leBytes 4 (g.v x l).toNat

/-- R46: what a group holds in masks: no bit of a lane that it does not have, or that has exited. -/
def Group.clipAll (g : Group) : Group :=
  let g := { g with live := g.live &&& lowLanes g.width }
  let tab := fun (t : Tab Word) => (tmap (fun _ v => g.clip v) t).filter fun p => decide (p.2 ≠ 0)
  { g with
    exec := g.clip g.exec, mreg := tab g.mreg, hmreg := tab g.hmreg
    stack := g.stack.map fun e => { e with sexec := g.clip e.sexec, pend := g.clip e.pend } }

/-- The group that a record names, without its registers. -/
def recordGroup (b : List Byte) : Group :=
  let w := fun (i : Nat) => numAt b i 8
  { Group.blank with
    launch := w 0x350 % 2 ^ 48, kind := GroupKind.ofCode (w 0x350 / 2 ^ 48 % 256)
    role := w 0x350 / 2 ^ 56, lin := w 0x358 % 2 ^ 40, gidx := w 0x358 / 2 ^ 40 % 256
    width := w 0x358 / 2 ^ 48 % 256, nv := w 0x358 / 2 ^ 56, owner := w 0xFF8 / 2 ^ 16 % 2 ^ 16
    pri := w 0xFF8 / 2 ^ 32 % 256 }

/-- Two groups are of the same place in a launch. -/
def Group.sameAs (a b : Group) : Bool :=
  a.kind == b.kind && decide (a.launch = b.launch) && decide (a.lin = b.lin) && decide (a.gidx = b.gidx) &&
    decide (a.width = b.width) && decide (a.nv = b.nv)

/-- R346: the group that a record describes; `h` holds what the record has no place for. -/
def Group.reload (h : Group) (b : List Byte) : Group :=
  let num := fun (i : Nat) => numAt b i 8
  let word := fun (i : Nat) => natWord (num i)
  let w := fun (i : Nat) => num (0x2A0 + 8 * i)
  let tab := fun (base : Nat) (l : List Nat) =>
    l.mapIdx (fun i r => (r, word (base + 8 * i))) |>.filter fun p => decide (p.2 ≠ 0)
  let lanes := (upto h.nv).flatMap fun x => (upto h.width).map fun l =>
    (64 * x + l, (BitVec.ofNat 32 (numAt b (0x1000 + 4 * (x * h.width + l)) 4) : Lane))
  let flights := ((upto 8).filterMap fun i => flightOf b (0x360 + 288 * i)) ++ h.allFlights.drop 8
  let side := fun (x : Bool) => (flights.filter fun p => p.2 == x).map Prod.fst
  Group.clipAll { h with
    sreg := tab 0 (upto 64), hsreg := tab 0x200 (upto 8 56), mreg := tab 0x240 (upto 8)
    hmreg := tab 0x280 (upto 2 6), exec := word 0x290, live := word 0x298
    pc := BitVec.ofNat 52 (w 1), fmt := BitVec.ofNat 32 (w 2), hfmt := BitVec.ofNat 32 (w 2 / 2 ^ 32)
    flg := BitVec.ofNat 7 (w 3), sfl := BitVec.ofNat 4 (w 4), chk := decide (w 5 % 2 = 1)
    iset := natWord (w 6), msr := natWord (w 7)
    lc := w 8 % 256, sc := w 8 / 2 ^ 8 % 256, tc := w 8 / 2 ^ 16 % 256, mc := w 8 / 2 ^ 24 % 256
    xc := w 8 / 2 ^ 32 % 256, hdepth := w 9 / 2 ^ 8 % 256, inHandler := decide (w 10 % 2 = 1)
    trapStop := decide (w 10 / 2 % 2 = 1), wait := waitOf (w 11) (num 0xFE0)
    hpc := BitVec.ofNat 52 (w 12), skid := w 13, cursor := w 14 % 256
    acquired := decide (w 14 / 2 ^ 8 % 2 = 1), phases := BitVec.ofNat 16 (w 15)
    epc := word 0x320, ecause := word 0x328, eexec := word 0x330, elanes := word 0x338
    einfo := word 0x340, flights := side false, savedFlights := side true
    stack := (upto (min 32 (w 9 % 256))).map fun i =>
      { sexec := word (0xC60 + 24 * i), pend := word (0xC68 + 24 * i)
        sfmt := BitVec.ofNat 32 (num (0xC70 + 24 * i)), kind := numAt b (0xC74 + 24 * i) 4 }
    deferred := ((upto 16).filterMap fun i =>
      deferredOf (num (0xF60 + 8 * i)) (((h.deferred[i]?).map (·.lanes)).getD (word 0x298))) ++
        h.deferred.drop 16
    left := if num 0xFE8 = 0 then none else some (num 0xFE8 - 1)
    ordSeq := num 0xFF0, wstep := num 0xFF8 % 2 ^ 16, half := num 0xFF8 / 2 ^ 40 % 2 ^ 16
    vreg := lanes.filter fun p => decide (p.2 ≠ 0) }

/-- R346: the TENT of a record. -/
def recordTent (b : List Byte) : Pc := BitVec.ofNat 52 (numAt b 0x2F0 8 / 2 ^ 12)

/-! ## Saving a group (R104, R231, R336, R346) -/

/-- Nothing of the group is under way, so that its record is whole (log 14). -/
def Work.atPeace (w : Work) (c slot : Nat) (g : Group) : Bool :=
  g.stopped && decide (g.lc = 0) && decide (g.tc = 0) && decide (g.xc = 0) && decide (g.sc = 0) &&
    !((w.core c).xcs.any fun x => decide (x.2.slot = slot))

/-- R231, R32: the wait of a group that leaves its core: its monitor entry and its mailbox record
go. -/
def Work.endWait (w : Work) (c slot : Nat) (g : Group) : Work :=
  match g.wait with
  | .monitor _ pa _ _ _ _ op =>
    match w.armed c slot op pa with
    | some m => w.freeMonitor m.1 m.2.1 m.2.2
    | none => w
  | .svcall i _ => (w.modCore c fun k => { k with mail := tdel i k.mail }).nextCaller c i
  | .svqueue _ _ _ => w.modCore c fun k => { k with mailq := k.mailq.filter (· ≠ slot) }
  | _ => w

/-- What the group keeps while it is saved: waits are begun again after the restore, by the instruction that
waits; a timeout counts what remained (R231). -/
def Group.forSave (g : Group) (cycle : Nat) : Group :=
  let wait :=
    match g.wait with
    | .monfull t => .monfull (t - cycle)
    | .tempow t => .tempow t
    | _ => .none
  let left := match g.wait with
    | .monitor _ _ _ _ _ d _ => d.map (· - cycle)
    | _ => g.left
  let held := (g.pend.map fun (p : Pending) => p.op)
  let ops : List Nat := match g.wait with
    | .svcall _ _ => held
    | .svqueue _ _ _ => held
    | _ => []
  { (ops.foldl Group.unpend g.unready) with
    wait, left, entry := false, parked := false, powered := none, slewed := false, haltDue := none
    haltAt := none, rel := none, walked := [] }

/-- A group leaves its core: slot, issue entry and quarter-rows are free. -/
def Work.vacate (w : Work) (c slot : Nat) : Work :=
  (w.delGrp c slot).modCore c fun k => { k with returned := k.returned.filter (· ≠ slot) }

/-- Physical addresses that may hold a record. -/
def Work.storable (w : Work) (pa : Nat) : Bool := (w.place pa).isNear || (w.place pa).isRemote

/-- The unit number of save accesses outside near memory. -/
def saveUnit : Nat := 67

/-- Write bytes at a physical address under an owner's key, for a core. -/
def Work.savePut (w : Work) (c owner pa : Nat) (l : List Byte) : Work :=
  (w.engineWrite c saveUnit 0 0 3 false [{ pa, len := l.length, key := owner }] l).1

/-- Read bytes at a physical address under an owner's key; none while they are still to come. What a
restore has read stays until it is over. -/
def Work.saveGet (w : Work) (c owner pa n : Nat) : Work × Option (List Byte) :=
  match w.engineLook c saveUnit 0 0 3 false [{ pa, len := n, key := owner }] with
  | (w, some r) => (w, some r.1)
  | (w, none) => (w, none)

/-- What has been read for a restore is used up. -/
def Work.saveForget (w : Work) (c : Nat) : Work :=
  w.modCore c fun k => k.engineDrop saveUnit 0 fun _ => true

/-- The index, in the team's table of records, of the group in a slot. -/
def Work.recIndex (w : Work) (c slot : Nat) : Nat :=
  match w.grp c slot with
  | some g => if g.kind = .user then g.gidx else slot - 12
  | none => slot - 12

/-- R346: save the group of a slot at a physical address, and free the slot. -/
def Work.saveGroup (w : Work) (c slot : Nat) (g : Group) (pa : Nat) : Work :=
  let w := w.endWait c slot g
  let wt := g.wait
  let ended := (w.core c).mx.ended
  let g := { g.forSave (w.core c).cycle with locked := g.locked.filter fun x => !ended.contains x.2 }
  let q := w.tick
  let w := q.2.savePut c g.owner pa
    (g.record wt (w.core c).cycle slot (w.tent g).toNat (q.1 + 1))
  ({ w with shadow := tins (q.1 + 1) g w.shadow } : Work).vacate c slot

/-- R346: sb of QSAVE and QLOAD. -/
def Work.recordAt (w : Work) (v : Word) : Option Nat :=
  if v.toNat % 4096 = 0 && w.storable v.toNat then some v.toNat else none

def execQsave (g : BitVec 2) (a b : BitVec 6) (s : State) : Host.Outcome State Fault Refusal :=
  issue (wordForm (wQsave g a b) g none wtScalar)
    (fun _ gr =>
      { ctx := supCtx gr, reads := [useS a.toNat, useS b.toNat], writes := [useF] })
    (fun w c _ gr =>
      let slot := (gr.s a.toNat).toNat % 64
      let bad := Res.done w (gr.sflNow (mkSfl false false false true))
      let over_ := fun (w : Work) (gr : Group) =>
        if (w.core c).stores.any fun o => decide (o.2.slot = saveUnit) then
          Res.hold w { gr with half := 1 } none
        else .done w (gr.sflNow (mkSfl true false false false))
      if gr.half = 1 then over_ w gr
      else
        match w.grp c slot, w.recordAt (gr.s b.toNat) with
        | some x, some pa =>
          if !x.isTeamCode || !x.stopped then bad
          else if !w.atPeace c slot x then .hold w gr none
          else
            -- the image of a team that is being saved names this record (R339 step 7)
            let i := w.recIndex c slot
            let w := if x.hasTeam then
                w.modTeam x.launch x.lin fun t => if t.asked then { t with recs := tins i pa t.recs } else t
              else w
            over_ (w.saveGroup c slot x pa) gr
        | _, _ => bad) s

/-! ## Loading a group (R231, R315, R346) -/

/-- A loaded group as it stands on its new core: stopped; its wait begins again. -/
def Group.fresh (g : Group) (cycle : Nat) : Group :=
  { g with
    stopped := true, since := none, opps := 0, promo := none, entry := false, parked := false
    wait := match g.wait with
      | .monfull t => .monfull (cycle + t)
      | .tempow t => .tempow t
      | _ => .none }

/-- R224: results of ATOM.ORD that came while the group was saved. -/
def Group.lateResults (g : Group) (l : List (List Nat × Word)) : Group :=
  let h := l.foldl (fun g e =>
    match e.1 with
    | [_, gi, lane, seq] => g.deliver gi lane seq e.2
    | _ => g) g
  -- a handler group executes no GRIDBAR, with which its destinations would be deferred no longer
  if h.kind = .handlerTeam ∧ l ≠ [] then h.gridOver else h

/-- R225: a result is for a group. -/
def Group.awaits (g : Group) (e : List Nat × Word) : Bool :=
  match e.1 with
  | [_, gi, _, seq] => g.defers gi seq
  | _ => false

/-- R225: results that came while a group was saved go to its registers. -/
def Work.takeLate (w : Work) (g : Group) : Group × Work :=
  match w.teamOf g with
  | none => (g, w)
  | some t =>
    (g.lateResults (t.late.filter g.awaits), w.setTeam { t with late := t.late.filter fun e => !g.awaits e })

/-- Put a loaded group into a slot (R16, R315). -/
def Work.loadGroup (w : Work) (c slot : Nat) (g : Group) : Work :=
  let q := w.takeLate g
  let g := q.1
  let w := q.2.placeGroup c slot (g.fresh (q.2.core c).cycle)
  match g.wait with
  | .monfull _ => w.modGrp c slot fun g => g.park g.wait
  | _ => w

/-- R346: the slot of a group to be loaded is free, and its quarter-rows are. -/
def Work.canLoad (w : Work) (c slot : Nat) (g : Group) : Bool :=
  let k := w.core c
  (tfind slot k.groups).isNone &&
    match g.kind with
    | .user =>
      decide (1 ≤ slot) && decide (slot ≤ 43) && decide (k.rowsUsed + g.rows ≤ Config.teamRows)
    | .handlerTeam => decide (44 ≤ slot) && decide (slot ≤ 47)
    | .handlerCore => decide (44 ≤ slot) && decide (slot ≤ 47)
    | _ => false

/-- What is known of the group of a record: what the model has kept of it, where the record names that
group, else what the record says; none where the magic number is wrong (R346). -/
def Work.recordHead (w : Work) (b : List Byte) : Option Group :=
  if numAt b 0x2A0 4 ≠ grpMagic then none
  else
    match tfind (numAt b 0x348 8) w.shadow with
    | some h => some (if h.sameAs (recordGroup b) then h else recordGroup b)
    | none => some (recordGroup b)

/-- The group that a record's bytes describe. -/
def Work.decodeRecord (w : Work) (b : List Byte) : Option Group := (w.recordHead b).map (·.reload b)

/-- R346: a record at an address, under any owner's key (log 19). The read is a flush point (R370). None
while its data is still to come. -/
def Work.recorded (w : Work) (c pa : Nat) : Work × Option (List Byte) :=
  if (w.place pa).isNear then
    let w := w.homeTouch false false (upto 0x1000 pa)
    let n := ((w.recordHead (w.bytes pa 0x1000)).map Group.recSize).getD 0x1000
    let w := w.homeTouch false false (upto (n - 0x1000) (pa + 0x1000))
    (w, some (w.bytes pa n))
  else
    let q := w.saveGet c 0 pa 0x5000
    (if q.2.isSome then q.1.saveForget c else q.1, q.2)

/-- R346: the TENT of a record is its team's. -/
def Work.loadTent (w : Work) (g : Group) (b : List Byte) : Work :=
  if g.hasTeam then w.modTeam g.launch g.lin fun t => { t with tent := recordTent b } else w

def execQload (g : BitVec 2) (a b : BitVec 6) (s : State) : Host.Outcome State Fault Refusal :=
  issue (wordForm (wQload g a b) g none wtScalar)
    (fun _ gr =>
      { ctx := supCtx gr, reads := [useS a.toNat, useS b.toNat], writes := [useF] })
    (fun w c _ gr =>
      let slot := (gr.s a.toNat).toNat % 64
      let bad := fun (w : Work) => Res.done w (gr.sflNow (mkSfl false false false true))
      match w.recordAt (gr.s b.toNat) with
      | none => bad w
      | some pa =>
        match w.recorded c pa with
        | (w, none) => .hold w gr none
        | (w, some l) =>
          match w.decodeRecord l with
          | none => bad w
          | some x =>
            if !w.canLoad c slot x then bad w
            else
              .done ((w.loadTent x l).loadGroup c slot x) (gr.sflNow (mkSfl true false false false))) s

/-! ## Team images (R341) -/

/-- Bytes of a team image, rounded up to 4 KiB, and the places of its parts. -/
def imageCores (r : BitVec 1024) : Nat := if (teamSplit r).2 = [] then 1 else 2

/-- R341: bytes of the allotments of one core in an image. -/
def coreImage (r : BitVec 1024) : Nat := allotSize r 0 + allotSize r 1 + 8 * allotSize r 2

/-- Offset of the engine state. -/
def engineAt (r : BitVec 1024) : Nat := 0x1000 + allotSize r 3 + imageCores r * coreImage r

def imageSize (r : BitVec 1024) : Nat := (engineAt r + 0x800 + 4095) / 4096 * 4096

/-- The longest group record. -/
def recStride : Nat := 0x5000

/-- Every group of a team that is on a core: its index in the team's table of records (32 + n for
handler slot 44 + n), core, slot. -/
def Work.teamGroups (w : Work) (t : Team) : List (Nat × Nat × Nat × Group) :=
  sortBy (fun a b => decide (a.1 < b.1)) ((w.members t fun _ => true).filterMap fun m =>
    (w.grp m.1 m.2).map fun g => (if g.kind = .user then g.gidx else m.2 - 12, m.1, m.2, g))

/-- R332: the save area of an owner: base and bytes. -/
def Work.saveArea (w : Work) (owner : Nat) : (Nat × Nat) × Work :=
  match w.tableRead (w.rootbase + 32 * owner) 32 with
  | some (n, w) => ((n / 2 ^ 64 % 2 ^ 52, n / 2 ^ 128 % 2 ^ 32 * 2 ^ 20), w)
  | none => ((0, 0), w)

/-- The lowest free block of an owner's save area (log 14). -/
def Work.saveBlock (w : Work) (owner bytes : Nat) : Option Nat × Work :=
  let a := w.saveArea owner
  let used := w.teams.foldl (fun (t : Tab Nat) p =>
    let x := p.2
    match w.launch? x.launch with
    | some l =>
      if (!x.resident || x.asked) && decide (l.owner = owner) then
        tins (x.image - a.1.1) (imageSize l.record + recStride * x.recs.length) t
      else t
    | none => t) []
  ((lowestFit bytes a.1.2 used).map (a.1.1 + ·), a.2)

/-- R341: the header of a team image. -/
def Team.header (t : Team) (x : Launch) (gang grid : Bool) : Nat :=
  (upto 16).foldl (fun n b =>
    let y := t.bar b
    n + (y.arr % 2 ^ 32) * 2 ^ (64 * b + 160) + y.rm % 16 * 2 ^ (64 * b + 192) +
      boolNat y.phase * 2 ^ (64 * b + 196))
    (0x5445414D + t.lin % 2 ^ 32 * 2 ^ 32 + x.addr % 2 ^ 52 * 2 ^ 64 +
      lrNgrp x.record % 64 * 2 ^ 116 + boolNat t.twin * 2 ^ 122 + boolNat gang * 2 ^ 123 +
      boolNat grid * 2 ^ 124)

/-- R341: the barriers that a header records. -/
def headerBars (l : List Byte) : Tab Barrier :=
  (upto 16).foldl (fun t b =>
    let y := numAt l (8 * b + 24) 1
    tput Barrier.init b
      { arr := numAt l (8 * b + 20) 4, rm := y % 16, phase := decide (y / 16 % 2 = 1) } t) []

/-- An allotment of a core as bytes. -/
def Core.allotBytes (k : Core) (buf base size : Nat) : List Byte :=
  if buf = 2 then (upto size base).flatMap fun a => leBytes 8 (k.cell a).toNat
  else (upto size base).map (k.bufByte buf)

/-- R341: the allotments of a team, in the order of its image. -/
def Work.allotImage (w : Work) (t : Team) (r : BitVec 1024) : List Byte :=
  (w.core t.home).allotBytes 3 t.sb (allotSize r 3) ++
    (t.cores.take (imageCores r)).flatMap fun c =>
      [0, 1, 2].flatMap fun b => (w.core c).allotBytes b (t.allot c b).2 (allotSize r b)

/-- Part of an image into an allotment. -/
def Core.loadAllot (k : Core) (buf base size : Nat) (l : List Byte) : Core :=
  if buf = 2 then
    (upto size).foldl (fun k i => k.setCell (base + i) (BitVec.ofNat 40 (numAt l (8 * i) 8))) k
  else (l.take size).mapIdx (fun i b => (base + i, b)) |>.foldl (fun k x => k.setBufByte buf x.1 x.2) k

/-- R341: the allotments of a restored team. -/
def Work.loadAllots (w : Work) (t : Team) (r : BitVec 1024) (l : List Byte) : Work :=
  let w := w.modCore t.home fun k => k.loadAllot 3 t.sb (allotSize r 3) l
  let q := (t.cores.take (imageCores r)).foldl (fun (q : Work × List Byte) c =>
    [0, 1, 2].foldl (fun (q : Work × List Byte) b =>
      let n := allotSize r b
      (q.1.modCore c fun k => k.loadAllot b (t.allot c b).2 n q.2,
        q.2.drop (if b = 2 then 8 * n else n))) q) (w, l.drop (allotSize r 3))
  q.1

/-! ## The matrix engine of a saved team (R261) -/

/-- An operation of a team. -/
def MxOp.ofTeam (o : MxOp) (t : Team) : Bool := decide (o.launch = t.launch) && decide (o.lin = t.lin)

/-- What an engine holds for a team, and what it holds for the rest. An operation continued by the
supervisor is no longer counted for it. -/
def MxEngine.part (e : MxEngine) (mine : Nat → Nat → Bool) (want : Bool) : MxEngine :=
  let op := fun (o : MxOp) => mine o.launch o.lin == want
  { e with
    open_ := e.open_.filter fun r => op r.op
    queue := e.queue.filter op
    running := e.running.filter op
    latches := tfilter (fun _ l => mine l.launch l.lin == want) e.latches
    waiting := e.waiting.filter op
    split := e.split.filter op }

/-- A member on a new core: a handler group is known by its slot. -/
def moveId (slot : Nat → Nat) (i : Nat) : Nat := if i < 64 then i else 64 + slot (i - 64)

/-- An operation on a new core. -/
def MxOp.move (o : MxOp) (slot : Nat → Nat) (latch : Nat → Nat) (cycle : Nat) : MxOp :=
  { o with
    members := o.members.map (moveId slot), forks := [], fork := 0
    issuer := o.issuer.map slot, past := o.past.map slot
    frees := o.frees.map latch, slot := slot o.slot, enq := cycle }

/-- The indices of free reuse latches. -/
def MxEngine.freeLatches (e : MxEngine) : List Nat :=
  (upto 8).filter fun i => (tfind i e.latches).isNone

/-- R261: an operation that a data error has split: its leader holds the block, and its handler
continues or abandons it. -/
def Core.inHands (k : Core) (o : MxOp) : Bool :=
  k.groups.any fun p => o.isMember p.1 p.2 && decide (p.2.cont = o.block)

/-- R261: the continuation blocks of a team in recorded order: the split operation, then the queue. One that a
handler has in its hands travels with its group. -/
def Core.blocksOf (k : Core) (t : Team) : List (List Word) :=
  (((k.mx.split.filter fun o => o.ofTeam t && !k.inHands o) ++ k.mx.queue.filter (·.ofTeam t)).map (·.block)).take 8

/-- R341: what an engine held for a team goes to its new core: rendezvous latches, reuse latches, and the
operations of its continuation blocks, which wait for MXCONT. None without free latches. -/
def Core.mxRestore (k : Core) (e : MxEngine) (slot : Nat → Nat) : Option Core :=
  let free := k.mx.freeLatches
  let idx := e.latches.map Prod.fst
  let latch := fun (i : Nat) => free.getD ((idx.idxOf? i).getD 0) 0
  let mv := fun (o : MxOp) => o.move slot latch k.cycle
  if free.length < e.latches.length then none
  else
    some { k with
      mx := { k.mx with
        open_ := k.mx.open_ ++ e.open_.map fun r =>
          { op := mv r.op, arrived := r.arrived.map (moveId slot) }
        split := k.mx.split ++ (e.split ++ e.queue).map mv
        latches := e.latches.foldl (fun t l =>
          tins (latch l.1) { l.2 with members := l.2.members.map (moveId slot) } t) k.mx.latches
        waiting := k.mx.waiting ++ e.waiting.map mv } }

/-- R341, R353: the MXCONT of the restore firmware for a block, whose members are on a core: issued by its
supervisor for the leader. None where it would be held; a block that fails a check does nothing. -/
def Work.firmwareCont (w : Work) (t : Team) (words : List Word) : Option Work :=
  let mine := fun (g : Group) =>
    (decide (g.kind = .user) || decide (g.kind = .handlerTeam)) && decide (g.launch = t.launch) &&
      decide (g.lin = t.lin)
  let at_ := t.cores.findSome? fun c => ((w.core c).slotsOf mine).findSome? fun ls =>
    (w.grp c ls).bind fun lg => ((w.contCheck c ls lg words).bind (w.core c).contA).map fun o => (c, ls, o)
  match at_ with
  | none => some w
  | some (c, ls, o) =>
    let full := ((w.grp c 0).map fun g => decide (63 ≤ g.mc)).getD true
    if full ∨ 8 ≤ (w.core c).mx.occupancy then none
    else some ((w.contQueue c 0 ls o).modGrp c 0 fun g => { g with mc := g.mc + 1 })

/-! ## Saving a team (R339, R350, R352) -/

/-- R339: a barrier of the team has some participants waiting. -/
def Team.halfArrived (t : Team) : Bool :=
  (t.bars.any fun b => decide (b.2.arr ≠ 0)) || decide (t.gangArr ≠ 0) || decide (t.gridArr ≠ 0)

def Work.ownerOf (w : Work) (t : Team) : Nat := ((w.launch? t.launch).map (·.owner)).getD 0

/-- R339: a forced save of the owner takes this team. -/
def Work.forcedSave (w : Work) (t : Team) : Bool :=
  decide (w.preempt.stage = 2) && decide (w.ownerOf t = w.preempt.owner) &&
    (!t.halfArrived || w.preempt.grace)

/-- R350: a core of the team is quarantined. -/
def Work.onQuarantine (w : Work) (t : Team) : Bool := t.cores.any fun c => (w.core c).mgn.quar

/-- R313: the first home core with room for a team, its handler groups included (R33, R39). -/
def Work.firstHome (w : Work) (r : BitVec 1024) (handlers : Nat) :
    Option (Nat × Nat × List (Nat × List Nat × Nat × Nat × Nat)) :=
  ((upto Config.clusters).flatMap (homesIn r)).findSome? fun c =>
    let free := ((upto 4 44).filter fun s => (tfind s (w.core c).groups).isNone).length
    if free < handlers then none else (w.roomAt r c).map fun x => (c, x)

/-- Handler groups among the records of a saved team. -/
def Team.savedHandlers (t : Team) : Nat := (t.recs.filter fun p => decide (32 ≤ p.1)).length

/-- R39: a team of the launch finds no room: the next one to be placed, or one that was saved, from a
quarantined core say, before it arrived at the barrier. -/
def Work.lacksRoom (w : Work) (l : Nat) (x : Launch) : Bool :=
  (decide (x.placed < lrTeams x.record) &&
    match w.placeNext l with
    | .noRoom => true
    | _ => false) ||
  w.teams.any fun p =>
    decide (p.2.launch = l) && !p.2.resident && p.2.waitingRestore &&
      (w.firstHome x.record p.2.savedHandlers).isNone

/-- R39: a team that waits at the grid barrier makes room for one that has none. -/
def Work.swapSave (w : Work) (t : Team) : Bool :=
  match w.launch? t.launch with
  | none => false
  | some x =>
    (lrSwapb x.record || x.swap) && !w.suspended.contains x.owner && decide (t.gridArr ≠ 0) &&
      w.allArrived t t.gridArr && !(w.teams.any fun p => decide (p.2.launch = t.launch) && p.2.saving) &&
      w.lacksRoom t.launch x

/-- R39, R339: teams are saved in ascending core, then linear index; a swap in ascending linear
index. -/
def Work.firstToSave (w : Work) (t : Team) (p : Team → Bool) (swap : Bool) : Bool :=
  !(w.teams.any fun q =>
    let u := q.2
    u.resident && !u.saving &&
      (if swap then decide (u.launch = t.launch) && decide (u.lin < t.lin)
       else decide (u.home < t.home) || (decide (u.home = t.home) && decide (u.lin < t.lin))) && p u)

/-- R339, R39, R350: the save of a team may start. -/
def Work.mustSave (w : Work) (t : Team) : Bool :=
  t.resident && !t.saving &&
    (w.onQuarantine t || (w.forcedSave t && w.firstToSave t w.forcedSave false) ||
      (w.swapSave t && w.firstToSave t w.swapSave true))

/-- A sweep of a team whose segments are at work. One that SWSTART has still to begin stops with its
group. -/
def Tensor.sweepsFor (x : Tensor) (t : Team) : Bool :=
  decide (x.launch = t.launch) && decide (x.lin = t.lin) && decide (x.state = 1) &&
    x.segs.any fun s => decide (s.2.phase ≠ .closed)

/-- A segment is still to be stopped: it has not come to its end. -/
def Seg.atWork (s : Seg) : Bool :=
  decide (s.phase ≠ .closed) && decide (s.phase ≠ .ending) && decide (s.phase ≠ .closing)

/-- R286, R339 step 3: the sweeps of a team that is being saved stop at their run boundaries. One that
is ending, or that a SWHALT or an engine fault is stopping, ends as it would. -/
def Work.haltSweeps (w : Work) (t : Team) : Work :=
  { w with
    tensors := tmap (fun _ x =>
      if x.sweepsFor t && !x.halting && x.segs.any (·.2.atWork) then
        { x with halting := true, saving := true }
      else x) w.tensors }

/-- R339 steps 1 to 3, R352: the halt broadcast, from each core to the team's groups on it. -/
def Work.startSave (w : Work) (t : Team) : Work :=
  let w := w.setTeam { t with saving := true }
  let w := (w.members t fun _ => true).foldl (fun w m =>
    w.modGrp m.1 m.2 fun g =>
      if g.stopped || g.haltAt.isSome then g
      else
        let at_ := (w.core m.1).cycle + 2
        { g with haltDue := some ((g.haltDue.map (min at_)).getD at_) }) w
  w.haltSweeps t

/-- R339 steps 2 to 6 have been taken. -/
def Work.saveReady (w : Work) (t : Team) : Bool :=
  (w.members t fun g => !g.stopped).isEmpty &&
    ((w.teamGroups t).all fun m => w.atPeace m.2.1 m.2.2.1 m.2.2.2) &&
    (t.cores.all fun c =>
      let k := w.core c
      !(k.mx.running.any fun o => o.ofTeam t) && !(k.copying.any (·.ofTeam t))) &&
    !(w.tensors.any fun x => x.2.sweepsFor t) &&
    w.tensors.all fun x =>
      !(decide (x.2.launch = t.launch) && decide (x.2.lin = t.lin)) ||
        match x.2.decl with
        | some d => t.cores.all fun c => w.opsDone c d.2
        | none => true

/-- A saved operation names groups by their index in the table of records; one that the supervisor
continued has no issuer any more. -/
def Work.savedOp (w : Work) (c : Nat) (o : MxOp) : MxOp :=
  { o with
    members := o.members.map (moveId (w.recIndex c))
    slot := w.recIndex c o.slot
    issuer := match o.issuer with
      | some 0 => none
      | some s => some (w.recIndex c s)
      | none => none
    past := (o.past.filter (· ≠ 0)).map (w.recIndex c) }

/-- What the engines of a core hold for a team is recorded and leaves them. -/
def Work.saveEngines (w : Work) (t : Team) (c : Nat) : MxEngine × List Kick × Work :=
  let k := w.core c
  let mine := fun l n => decide (l = t.launch) && decide (n = t.lin)
  let e := k.mx.part mine true
  let bySup := (e.ops.flatMap fun o => (o.issuer.toList ++ o.past).filter (· = 0)).length
  let fix := w.savedOp c
  let e := { e with
    open_ := e.open_.map fun r =>
      { op := fix r.op, arrived := r.arrived.map (moveId (w.recIndex c)) }
    latches := tmap (fun _ l => { l with members := l.members.map (moveId (w.recIndex c)) }) e.latches
    queue := e.queue.map fix, split := e.split.map fix, waiting := e.waiting.map fix }
  let w := w.setCore c (Core.mxSettle { k with
    mx := k.mx.part mine false
    kicks := k.kicks.filter fun x => !x.ofTeam t })
  (e, k.kicks.filter (·.ofTeam t), w.modGrp c 0 fun g => { g with mc := g.mc - bySup })

/-- R34: messages queued for handlers of a team are held while it is saved. -/
def Work.pullAms (w : Work) (t : Team) : List AmMsg × Work :=
  let k := w.core t.home
  let all := k.arrivals ++ k.amOver
  let mine := (all.filter (·.forTeam t)).map fun m => { m with ord := false }
  let rest := all.filter fun m => !m.forTeam t
  (mine, if mine = [] then w else w.setCore t.home { k with arrivals := rest.take 16, amOver := rest.drop 16 })

/-- R188: at a save and a restore the filters of a core are cleared. Its teams lose nothing: its
writes are published to every core first, and what was published to it is acquired (log 14). -/
def Work.clearFilters (w : Work) (c : Nat) : Work :=
  let bits := (w.core c).sigDev
  let w := { w with cores := tmap (fun _ k => { k with inb := k.inb ||| bits }) w.cores }
  (w.acquire c false).modCore c fun k => k.clearSig true true true

/-- R339 step 7: the supervisor of each core that holds groups of the team is told to save it, and
where the image goes. -/
def Work.askSave (w : Work) (t : Team) (x : Launch) : Work :=
  let r := x.record
  let gs := w.teamGroups t
  match w.saveBlock x.owner (imageSize r + recStride * gs.length) with
  | (none, w) => w
  | (some image, w) =>
    let recs : Tab Nat := gs.mapIdx fun i m => (m.1, image + imageSize r + recStride * i)
    let w := w.setTeam { t with asked := true, image, recs }
    t.cores.foldl (fun w c =>
      if (w.core c).mgn.quar then w
      else
        match gs.find? fun m => decide (m.2.1 = c) with
        | some m => w.supEvent c 6 m.2.2.1 0 0 (natWord image)
        | none => w) w

/-- What the engines of a team hold for it (R341): by core its matrix engine's part and the kicks not
started; its sweeps; the messages held. -/
structure EngineState where
  mx : Tab MxEngine
  kicks : Tab (List Kick)
  sweeps : List Tensor
  ams : List AmMsg
deriving DecidableEq, Repr

/-- R341: the engine state of an image. The continuation blocks stand at its begin; the layout of the rest is
the model's (log 14): words of counts, then each part whole, as far as 2 KiB reach. -/
def EngineState.bytes (e : EngineState) (blocks : List (List Word)) : List Byte :=
  let word := leBytes 8
  let list := fun (l : List Nat) => word l.length ++ l.flatMap word
  let tab := fun (t : Tab Word) => word t.length ++ t.flatMap fun p => word p.1 ++ word p.2.toNat
  let am := fun (m : AmMsg) =>
    list ([m.launch, boolNat m.toCore, m.idx, m.hidx, m.srcLin, m.srcCore, boolNat m.ord, m.num] ++ m.key) ++
      m.words.flatMap fun x => leBytes 4 x.toNat
  let rv := fun (r : Rendezvous) => (r.op.block.flatMap fun b => word b.toNat) ++ list r.arrived
  let latch := fun (p : Nat × ReuseLatch) => list (p.1 :: p.2.m :: p.2.k :: p.2.afmt :: p.2.members) ++ tab p.2.alive
  let kick := fun (k : Kick) =>
    list [k.gidx, k.slot, boolNat k.ord, k.seq, k.row, k.num, k.recs.length] ++ k.recs.flatMap fun r => leBytes 32 r.toNat
  let wake := fun (h : HeldWake) => list ([h.kind, h.cell, h.op, boolNat h.atOpen] ++ h.key)
  let sweep := fun (t : Tensor) =>
    list [t.desc, t.recAt, t.n, t.n - (t.segs.foldl (fun m s => max m s.2.sweeps) 0), t.state] ++
      t.segs.flatMap fun s => word s.2.held.length ++ s.2.held.flatMap wake
  let l := blocks.flatMap fun b => b.flatMap fun x => word x.toNat
  let all := l ++ List.replicate (256 - l.length) 0 ++
    e.mx.flatMap (fun p => word p.2.open_.length ++ p.2.open_.flatMap rv ++ word p.2.latches.length ++ p.2.latches.flatMap latch) ++
    e.kicks.flatMap (fun p => word p.2.length ++ p.2.flatMap kick) ++
    word e.sweeps.length ++ e.sweeps.flatMap sweep ++ word e.ams.length ++ e.ams.flatMap am
  (all ++ List.replicate 0x800 0).take 0x800

/-- R341: the engine state that firmware takes from bytes that are not those it wrote: their layout is not
given, but for the blocks (log 14). -/
opaque Config.engineLoad : List (BitVec 8) → Tab MxEngine × Tab (List Kick)

/-- R341: the continuation blocks of an image's engine state. -/
def imageBlocks (l : List Byte) : List (List Word) :=
  ((upto 8).map fun i => (upto 4).map fun j => natWord (numAt l (32 * i + 8 * j) 8)).filter fun b =>
    (b.headD 0).getLsbD 63

/-- R339 step 7, R341: the image and the records are written; what the team held on its cores is
free. Groups that a supervisor has saved have their records already. -/
def Work.finishSave (w : Work) (t : Team) (x : Launch) : Work :=
  let r := x.record
  let gs := w.teamGroups t
  let gangA := decide (t.gangArr ≠ 0) && w.allArrived t t.gangArr
  let gridA := decide (t.gridArr ≠ 0) && w.allArrived t t.gridArr
  let allot := w.allotImage t r
  let w := t.cores.foldl (fun w c => w.clearFilters c) w
  let am := w.pullAms t
  let blocks := t.cores.flatMap fun c => (w.core c).blocksOf t
  let eng := t.cores.foldl (fun (q : Tab MxEngine × Tab (List Kick) × Work) c =>
    let e := q.2.2.saveEngines t c
    (tins c e.1 q.1, tins c e.2.1 q.2.1, e.2.2)) ([], [], am.2)
  let w := eng.2.2
  let sweeps := (w.tensors.map Prod.snd).filter fun y =>
    decide (y.launch = t.launch) && decide (y.lin = t.lin)
  let c := t.home
  let w := w.savePut c x.owner t.image
    (leBytes 512 (t.header x gangA gridA) ++
      (upto (lrNgrp r)).flatMap fun i => leBytes 8 (tget 0 i t.recs))
  let w := if allot = [] then w else w.savePut c x.owner (t.image + 0x1000) allot
  let state : EngineState := { mx := eng.1, kicks := eng.2.1, sweeps, ams := t.heldAm ++ am.1 }
  let engine := state.bytes blocks
  let w := w.savePut c x.owner (t.image + engineAt r) engine
  let w := gs.foldl (fun w m =>
    match w.grp m.2.1 m.2.2.1 with
    | some g => w.saveGroup m.2.1 m.2.2.1 g (tget 0 m.1 t.recs)
    | none => w) w
  let w := w.modTeam t.launch t.lin fun t =>
    { t with
      resident := false, saving := false, asked := false, stop := none, savedMx := eng.1
      savedKicks := eng.2.1, savedEngine := engine, heldAm := t.heldAm ++ am.1
      waitingRestore := !(decide (t.gridArr ≠ 0) && w.allArrived t t.gridArr) &&
        !w.suspended.contains x.owner }
  w.preemptSettle

/-- R339: a team is saved: it is halted; when steps 2 to 6 have been taken its supervisors are asked;
and what they are asked to do is done. -/
def execTeamSave (launch lin : Nat) (s : State) : Host.Outcome State Fault Refusal :=
  event s fun w =>
    match w.team launch lin, w.launch? launch with
    | some t, some x =>
      if t.saving then
        let w := w.haltSweeps t
        if !w.saveReady t then w
        else if t.asked then w.finishSave t x
        else w.askSave t x
      else if w.mustSave t then w.startSave t
      else w
    | _, _ => w

/-! ## Restoring a team (R39, R286, R341, R353) -/

/-- Read the records of a team; none while their data is still to come. -/
def Work.readRecords (w : Work) (c owner : Nat) :
    List (Nat × Nat) → Work × Option (List (Nat × Group × List Byte))
  | [] => (w, some [])
  | (i, pa) :: rest =>
    match w.readRecords c owner rest with
    | (w, none) => (w, none)
    | (w, some l) =>
      match w.saveGet c owner pa recStride with
      | (w, none) => (w, none)
      | (w, some b) =>
        match w.decodeRecord b with
        | some x => (w, some ((i, x, b) :: l))
        | none => (w, some l)

/-- R286, R299: a cell's monitor is armed again by a fresh compare. -/
def Work.rearmCell (w : Work) (id j : Nat) (a : Arm) (core : Nat) : Work :=
  let wake := fun (w : Work) (key : List Nat) =>
    w.modTensor id fun t => t.modSegs [t.segOf j] fun _ s =>
      { s with held := s.held ++ [{ kind := 5, key, cell := j, op := a.op }] }
  match w.home? a.pa with
  | none => wake w [0xFF, a.cpc]
  | some h =>
    -- the compare is a flush point (R373)
    let w := w.homeTouch false false (upto 4 a.pa)
    if monCond a.cond 4 (natWord (w.readNum a.key a.pa 4)) (natWord a.value) then wake w []
    else
      let s := w.slice h.die h.slice
      match (upto 64).find? fun i => (tfind i s.mons).isNone with
      | none => wake w [0xFF, a.cpc]
      | some i =>
        let m : Monitor :=
          { pa := a.pa, size := 4, cond := a.cond, value := natWord a.value, core, slot := 0
            op := a.op, cell := some (id, j) }
        let u := w.unit h.die (h.slice / 8)
        ((w.setSlice h.die h.slice { s with mons := tins i m s.mons }).setUnit h.die (h.slice / 8)
          { u with watch := u.watch ++ [(h.slice, i)] }).modTensor id fun t =>
            -- R271: REF is the index of the entry, which the engine writes
            t.modSegs [t.segOf j] fun _ s =>
              { s with todo := s.todo ++ [(t.cbase + 16 * j + 3, 1, i)] }

/-- R286: the sweeps of a restored team go on in its new cluster, with STATE at 1 again. -/
def Work.restoreSweeps (w : Work) (t : Team) : Work :=
  let cl := Config.clusterOf t.home
  w.tensors.foldl (fun (w : Work) p =>
    let x := p.2
    if !(decide (x.launch = t.launch) && decide (x.lin = t.lin)) then w
    else
      let go := x.saving
      let x' := { x with
        cluster := cl, state := if go then 1 else x.state, halting := false, saving := false
        segs := tmap (fun k s =>
          { s with
            core := 8 * cl + s.core % 8, pend := [], slot := none
            todo := if go && decide (k = 0) then [(x.desc + 44, 4, 1)] else s.todo
            phase := if go && s.resume.isSome then .placing else s.phase }) x.segs
        decl := x.decl.map fun d => (d.1, []) }
      let w := w.setTensor p.1 x'
      if go then
        x.armed.foldl (fun w a =>
          w.rearmCell p.1 a.1 a.2 (((tfind (x'.segOf a.1) x'.segs).map (·.core)).getD t.home)) w
      else w) w

/-- R341: place the groups of a team, in ascending index: the slots they had and have. -/
def Work.restoreGroups (w : Work) (t : Team) (r : BitVec 1024) (l : List (Nat × Group × List Byte)) :
    Work × List (Nat × Nat × Nat) :=
  l.foldl (fun (q : Work × List (Nat × Nat × Nat)) m =>
    let w := q.1
    let c := if m.1 < 32 ∧ (teamSplit r).2.contains m.1 then Config.partner t.home else t.home
    let slot := if m.1 < 32 then (w.core c).freeSlot else (w.core c).handlerSlot
    match slot with
    | none => q
    | some s => ((w.loadTent m.2.1 m.2.2).loadGroup c s m.2.1, q.2 ++ [(m.1, c, s)])) (w, [])

/-- R341: the firmware's MXCONTs, in recorded order. -/
def Work.firmwareConts (w : Work) (t : Team) (l : List (List Word)) : Option Work :=
  l.foldl (fun a b => a.bind fun w => w.firmwareCont t b) (some w)

/-- R341: the engine state that a restore finds in an image: what was saved, where the bytes are those that
the save wrote. -/
def Team.engineOf (t : Team) (l : List Byte) : Tab MxEngine × Tab (List Kick) :=
  if l = t.savedEngine then (t.savedMx, t.savedKicks) else Config.engineLoad l

/-- R341 step 2, for a team placed on a home core with its image and records at hand: buffers, groups,
barriers, engines and sweeps. Its groups are loaded stopped, and wait for their release. -/
def Work.restoreOn (w : Work) (t : Team) (x : Launch) (home : Nat)
    (room : Nat × List (Nat × List Nat × Nat × Nat × Nat)) (image : List Byte)
    (gs : List (Nat × Group × List Byte)) : Option Work :=
  let r := x.record
  let col := fun (f : Nat × Nat × Nat → Nat) => room.2.map fun p => (p.1, f p.2.2)
  let old := t.cores
  let engine := (image.drop (engineAt r)).take 0x800
  let e := t.engineOf engine
  let t' := { t with
    home, sb := room.1, wb := col (·.1), ab := col (·.2.1), cb := col (·.2.2), resident := true
    waitingRestore := false, loaded := true, stop := none, image := 0, recs := [], savedMx := []
    savedKicks := [], savedEngine := [], bars := headerBars image }
  let cores := t'.cores
  let used := room.2.map Prod.fst
  let w := (w.setTeam t').loadAllots t' r (image.drop 0x1000)
  let w := w.modLaunch t.launch fun x => { x with cores := used.foldl (fun l c => ninsert c l) x.cores }
  let w := used.foldl (fun w c =>
    ((w.startAcquire c).clearFilters c).modCore c fun k => { k with ifetch := [] }) w
  let q := w.restoreGroups t' r gs
  let slotOf := fun (c i : Nat) =>
    ((q.2.find? fun m => decide (m.1 = i) && decide (m.2.1 = c)).map fun m => m.2.2).getD 64
  let step := fun (a : Option Work) (oc : Nat × Nat) =>
    a.bind fun w =>
      match tfind oc.1 e.1 with
      | none => some w
      | some e => ((w.core oc.2).mxRestore e (slotOf oc.2)).map fun k => w.setCore oc.2 k
  (((old.zip cores).foldl step (some q.1)).bind fun w => w.firmwareConts t' (imageBlocks engine)).map fun w =>
    let w := (old.zip cores).foldl (fun w oc =>
      let ks := (tfind oc.1 e.2).getD []
      w.modCore oc.2 fun k =>
        Core.mxSettle { k with
          kicks := k.kicks ++ ks.map fun y =>
            { y with
              slot := ((q.2.find? fun m => decide (m.1 = y.gidx)).map fun m => m.2.2).getD y.slot
              fault := none } }) w
    w.restoreSweeps t'

/-- R341: RESUME has restored every team of the owner. -/
def Work.resumeSettle (w : Work) : Work :=
  let p := w.preempt
  if p.stage = 3 && !(w.teams.any fun t =>
      (t.2.waitingRestore || t.2.loaded) && decide (w.ownerOf t.2 = p.owner))
  then { w with preempt := { p with stage := 0, result := 3 } }
  else w

/-- R39: the grid barrier for which a team was swapped out has been released. -/
def Work.wantsRestore (w : Work) (t : Team) : Bool :=
  !t.resident && !w.suspended.contains (w.ownerOf t) &&
    (t.waitingRestore || !(decide (t.gridArr ≠ 0) && w.allArrived t t.gridArr))

/-- R341 step 3: the release of a restored team, by the operation of MBREPLY. -/
def Work.releaseLoaded (w : Work) (t : Team) : Work :=
  match w.members t fun _ => true with
  | [] => (w.modTeam t.launch t.lin fun t => { t with loaded := false }).resumeSettle
  | m :: _ => ((w.releaseTeam m.1 m.2).getD w).resumeSettle

/-- R341, R353: a saved team is restored, and then released; the saved teams of a launch in ascending
linear index. -/
def execTeamRestore (launch lin : Nat) (s : State) : Host.Outcome State Fault Refusal :=
  event s fun w =>
    match w.team launch lin, w.launch? launch with
    | some t, some x =>
      let first := !(w.teams.any fun p =>
        decide (p.2.launch = launch) && decide (p.2.lin < lin) && w.wantsRestore p.2)
      if t.loaded then w.releaseLoaded t
      else if !w.wantsRestore t || !first then w
      else
        match w.firstHome x.record t.savedHandlers with
        | none => w
        | some (home, room) =>
          let r := x.record
          match w.saveGet home x.owner t.image (engineAt r + 0x800) with
          | (w, none) => w
          | (w, some image) =>
            match w.readRecords home x.owner t.recs with
            | (w, none) => w
            | (w, some gs) =>
              match (w.supEvent home 7 0 0 0 (natWord t.image)).restoreOn t x home room image gs with
              | some w => w.saveForget home
              | none => w
    | _, _ => w

/-! ## Context reset (R340) -/

/-- Everything of a group that is under way on its core is dropped. -/
def Work.dropGroup (w : Work) (c slot : Nat) : Work :=
  match w.grp c slot with
  | none => w
  | some g =>
    ((w.endWait c slot g).vacate c slot).modCore c fun k =>
      { k with
        loads := tfilter (fun _ l => decide (l.slot ≠ slot)) k.loads
        taccs := k.taccs.filter fun t => decide (t.2.slot ≠ slot)
        xcs := tfilter (fun _ x => decide (x.slot ≠ slot)) k.xcs }

/-- R340: a core without the work of some launches. -/
def Work.resetCore (w : Work) (mine : Nat → Bool) (c : Nat) : Work :=
  let ours := fun (g : Group) => decide (g.kind ≠ .supervisor) && mine g.launch
  let w := ((w.core c).slotsOf ours).foldl (fun w s => w.dropGroup c s) w
  w.modCore c fun k =>
    let kick := fun (x : Kick) => !x.sup && mine x.launch
    let ams := (k.arrivals ++ k.amOver).filter fun m => !mine m.launch
    Core.mxSettle { k with
      mx := k.mx.part (fun l _ => mine l) false
      kicks := k.kicks.filter fun x => !kick x
      copying := k.copying.filter fun x => !kick x
      arrivals := ams.take 16, amOver := ams.drop 16 }

/-- R340, R410: the context reset of an owner. -/
def Work.contextReset (w : Work) (owner status : Nat) : Work :=
  let ls := (w.launches.filter fun p => !p.2.complete && decide (p.2.owner = owner)).map Prod.fst
  let mine := ls.contains
  let w := (tkeys w.cores).foldl (fun w c => w.resetCore mine c) w
  let w := w.tensors.foldl (fun w p =>
    if mine p.2.launch then p.2.armed.foldl (fun w a => w.freeCell p.1 a.1 a.2) w else w) w
  let w := { w with
    tensors := tfilter (fun _ t => !mine t.launch) w.tensors
    teams := tfilter (fun _ t => !mine t.launch) w.teams
    shadow := tfilter (fun _ g => !mine g.launch) w.shadow
    queues := tmap (fun _ q => if q.owner = owner then { q with ctl := q.ctl &&& ~~~0x40#64 } else q)
      w.queues
    suspended := w.suspended.filter (· ≠ owner)
    dies := tmap (fun _ d =>
      { d with
        rtw := tfilter (fun _ x => !mine x.launch) d.rtw
        units := tmap (fun _ u =>
          let gone := (u.held.filter fun h => mine h.launch).filterMap (·.spill) ++
            (u.atoms.filter fun a => mine a.launch).filterMap (·.spill)
          { u with
            held := u.held.filter fun h => !mine h.launch
            atoms := u.atoms.filter fun a => !mine a.launch
            ordbox := u.ordbox.filter fun r => !mine r.launch
            spill := gone.foldl (fun t o => tdel o t) u.spill }) d.units }) w.dies }
  ls.foldl (fun w l =>
    match w.launch? l with
    | some x => w.finishLaunch l x status
    | none => w) w

/-! ## Pre-emption (R338, R339) -/

/-- R338: PRECTL.GO. A write while BUSY is ignored (log 21). -/
def execPreemptGo (path : Path) (value : Word) (s : State) : Host.Outcome State Fault Refusal :=
  event s fun w =>
    if path = .supervisor || !value.getLsbD 10 || decide (w.preempt.stage ≠ 0) then w
    else
      let own := field value 9 0
      ({ w with
        preempt := { owner := own, t0 := w.tempo, stage := 1, grace := false, result := 0, cmd := 1 }
        suspended := ninsert own w.suspended } : Work).preemptSettle

/-- R338, R341: PRECTL.RESUME. -/
def execPreemptResume (path : Path) (value : Word) (s : State) : Host.Outcome State Fault Refusal :=
  event s fun w =>
    if path = .supervisor || !value.getLsbD 11 || decide (w.preempt.stage ≠ 0) then w
    else
      let own := field value 9 0
      let w : Work := { w with
        preempt := { owner := own, t0 := w.tempo, stage := 3, grace := false, result := 0, cmd := 2 }
        suspended := w.suspended.filter (· ≠ own) }
      ({ w with
        teams := tmap (fun _ t =>
          if !t.resident ∧ w.ownerOf t = own then { t with waitingRestore := true } else t)
          w.teams } : Work).resumeSettle

/-- R338: a deadline of PRETIME, in master cycles from GO. -/
def Work.deadline (w : Work) (us : Nat) : Nat := w.preempt.t0 + Config.tempoPerUs * us

/-- R339: stage 2 begins. -/
def execDrainDeadline (s : State) : Host.Outcome State Fault Refusal :=
  event s fun w =>
    if w.preempt.stage = 1 ∧ w.deadline (field w.pretime 15 0) ≤ w.tempo then
      ({ w with preempt := { w.preempt with stage := 2 } } : Work).preemptSettle
    else w

/-- R339: half-arrived teams wait for their barriers no longer. -/
def execGraceDeadline (s : State) : Host.Outcome State Fault Refusal :=
  event s fun w =>
    if w.preempt.stage = 2 ∧
        w.deadline (field w.pretime 15 0 + field w.pretime 31 16) ≤ w.tempo then
      { w with preempt := { w.preempt with grace := true } }
    else w

/-- R339, R340: stage 3. -/
def execSaveDeadline (s : State) : Host.Outcome State Fault Refusal :=
  event s fun w =>
    let p := w.preempt
    if (p.stage = 1 ∨ p.stage = 2) ∧ w.deadline (field w.pretime 47 32) ≤ w.tempo then
      let w := w.contextReset p.owner 0x20
      { w with preempt := { w.preempt with stage := 0, result := 2 } }
    else w

end Sys2Proof.Machine
end

