-- ==== Sys2Proof/Machine/HostSec.lean ====
section
/-!
DEFINITION. Resets and boot (R399, R417, R419, R420, R422), the host link, TDISP and SPDM (R408 to
R410, R413), fabric peers and the directory (R405 to R407), far-tier traffic (R411), errors and viral
failure (R415, R416, R421).
-/

namespace Sys2Proof.Machine

/-! ## Resets (R399, R417, R420) -/

/-- R420: BOOTWHY after a reset. -/
def bootwhyReset (v : Word) : Word :=
  if v.getLsbD 11 then natWord (field v 7 0)
  else if field v 9 8 = 3 then v ||| 0x400#64
  else v

/-- R417: what a warm reset keeps. The rail stands as it is (log 21). -/
def Obs.warm (o : Obs) : Obs :=
  { Obs.reset with
    sheet := o.sheet, images := o.images, mask := o.mask, repctl := o.repctl &&& 0x10#64
    freshObs := o.freshObs }

/-- R417: a warm reset. The L2 loses what it has not written back (R399). ERRHEAD names the next entry of the ERRLOG that is kept, and counts from this
reset on (R404). -/
def Work.warmReset (w : Work) : Work :=
  let w := w.dram
  { w with
    toPkg := { Pkg.reset with
      keyed := w.keyed, upsetMem := w.upsetMem, errlog := w.errlog, errNext := w.errNext
      bootwhy := bootwhyReset w.bootwhy, virst := w.virst, plan := w.plan, fresh := w.fresh }
    obs := w.obs.warm }

/-- R417: a cold reset keeps BOOTWHY; near memory has lost its contents (log 4). -/
def Work.coldReset (w : Work) : Work :=
  let w := w.pokes (w.home.map fun c => (c.1, Mem.blank))
  { w with
    toPkg := { Pkg.reset with
      bootwhy := bootwhyReset w.bootwhy, plan := w.plan, fresh := w.fresh }
    under := []
    obs := { Obs.reset with
      mask := w.obs.mask, repctl := w.obs.repctl &&& 0x10#64, freshObs := w.obs.freshObs } }

/-- R404: RSTCTL is written through the management port. -/
def execRstctlWarm (path : Path) (s : State) : Host.Outcome State Fault Refusal :=
  event s fun w => if path = .management then w.warmReset else w

def execRstctlCold (path : Path) (s : State) : Host.Outcome State Fault Refusal :=
  event s fun w => if path = .management then w.coldReset else w

/-! ## Boot (R419, R420, R422) -/

/-- R419, R420: a failed boot: REASON, FAILS, and the device resets. -/
def Work.failBoot (w : Work) (reason : Nat) : Work :=
  let v := w.bootwhy
  ({ w with bootwhy := natWord (reason + min 3 (field v 9 8 + 1) * 2 ^ 8 + keepBits v 11 10) } :
    Work).warmReset

/-- R420: the reason for which a manifest is refused. -/
def manifestReason : Manifest → Nat
  | .good => 0
  | .ecdsaFailed => 1
  | .lmsFailed => 2
  | .bothFailed => 3
  | .belowMinimum => 4
  | .malformed => 5

/-- R420: minimal mode. -/
def Work.minimal (w : Work) : Bool := w.bootwhy.getLsbD 10

/-- R399: the cores as reset releases them, with the mask that self-test set (R313). -/
def bootCores (good : List Nat) : Tab Core :=
  (upto Config.cores).map fun c => (c, { Core.init with good := good.contains c })

/-- R399, R419, R422: reset is released; `good` is what self-test found. -/
def execResetRelease (manifest : Manifest) (good : List Nat) (s : State) :
    Host.Outcome State Fault Refusal :=
  event s fun w =>
    if w.phase ≠ .inReset ∨ w.obs.frozen then w
    else
      let w := { w with obs := { w.obs with mask := some good } }
      if w.minimal then { w with phase := .failed }
      else if manifest ≠ .good then w.failBoot (manifestReason manifest)
      else if good = [] then w.failBoot 6
      else { w with phase := .booting, tempo := 0, bootAt := 0, cores := bootCores good }

/-- R419: firmware has not signalled ready within 2^32 master cycles. -/
def execBootReadyTimeout (s : State) : Host.Outcome State Fault Refusal :=
  event s fun w =>
    if w.phase = .booting ∧ w.fwready = false ∧ w.bootAt + 2 ^ 32 ≤ w.tempo then w.failBoot 7
    else w

/-! ## Errors and viral failure (R415, R416, R421) -/


/-- R415. -/
def execCorrectedError (unit where_ addr bit : Nat) (s : State) :
    Host.Outcome State Fault Refusal :=
  event s fun w => w.logError unit false where_ addr bit

/-- R423: the source that VIRST names: of several at one edge the lowest; one that an earlier reset
has left is replaced. -/
def Work.viralSrc (w : Work) (src : Nat) : Word :=
  natWord (1 + 2 * if w.obs.viral then min src (field w.virst 7 1) else src)

/-- R416, R423: the device becomes viral at this edge. -/
def Work.viral (w : Work) (src : Nat) : Work :=
  if w.obs.frozen then w
  else
    { w with
      virst := w.viralSrc src, obs := { w.obs with freezeDue := true, viral := true } }

/-- R416: a host link-down. -/
def execHostLinkDown (s : State) : Host.Outcome State Fault Refusal := event s fun w => w.viral 1

/-- R416: a viral indication of a CXL port. -/
def execCxlViral (port : Nat) (s : State) : Host.Outcome State Fault Refusal :=
  event s fun w => if port < 8 then w.viral 2 else w

/-- R416: a fatal error on a fabric port. -/
def execFabricFatal (port : Nat) (s : State) : Host.Outcome State Fault Refusal :=
  event s fun w => if port < 16 then w.viral 3 else w

/-- R421: a thermal sample; above 110 °C it is a thermal trip. -/
def execThermalSample (cluster degrees : Nat) (s : State) : Host.Outcome State Fault Refusal :=
  event s fun w =>
    let w := w.modCluster cluster fun k => { k with degrees }
    if 110 < degrees then w.viral 5 else w

/-! ## Interfaces and sessions (R408 to R410, R413) -/

def Work.setTdi (w : Work) (i : Nat) (t : Tdi) : Work := { w with tdis := tput Tdi.init i t w.tdis }

/-- R413: a secured session stands. -/
def Work.session (w : Work) : Bool := w.tdis.any fun t => t.2.sess

/-- R409: the session is established on the interfaces; minimal mode presents none (R420). -/
def execSpdmSessionEstablish (s : State) : Host.Outcome State Fault Refusal :=
  event s fun w =>
    if w.minimal then w
    else
      (upto 64).foldl (fun (w : Work) i => w.setTdi i { w.tdi i with sess := true })
        { w with sessAt := w.tempo }

/-- R410: a read on its way to host memory that no interface in TST = 2 admits any more: it was one of
the interface that has left. Of a read of the distributor only the range is known (log 26). -/
def Work.hostLost (w : Work) (own : Nat) (r : Req) : Bool :=
  match w.place (128 * r.line) with
  | .host off =>
    !r.writes &&
      match w.launch? r.launch with
      | some x => decide (x.owner = own) && !w.hostOpen own off 128
      | none => !(w.tdis.any fun p => w.hostOpen p.2.own off 128)
  | _ => false

/-- R410: an interface of an owner leaves TST = 2. Completions still to come will be dropped; the
owner's key is retired when its earlier accesses have completed. -/
def Work.leaveRunning (w : Work) (own : Nat) : Work :=
  let mark := fun (r : Req) => if w.hostLost own r then { r with dead := true } else r
  { w with
    io := tmod 0 (fun l => l.map mark) w.io
    dies := tmap (fun _ d =>
      { d with net := d.net.map fun p =>
          match p.msg with
          | .req r => { p with msg := .req (mark r) }
          | _ => p }) w.dies
    retiring := tins own (w.cores.map fun p => (p.1, p.2.opSeq)) w.retiring }

/-- R410: a TDISP message changes an interface's state. -/
def execTdispMessage (tdi next : Nat) (s : State) : Host.Outcome State Fault Refusal :=
  event s fun w =>
    let t := w.tdi tdi
    if 64 ≤ tdi ∨ 4 ≤ next ∨ !t.sess then w
    else
      let w := w.setTdi tdi { t with tst := next }
      if t.tst = 2 ∧ next ≠ 2 then w.leaveRunning t.own else w

/-- R409: no key update within SESSLIFE: the session expires. -/
def execSessionExpire (s : State) : Host.Outcome State Fault Refusal :=
  event s fun w =>
    if !w.session ∨ w.tempo < w.sessAt + w.sesslife.toNat then w
    else
      (upto 64).foldl (fun w i =>
        let t := w.tdi i
        if t.sess then
          let w := w.setTdi i { t with sess := false, tst := 3 }
          if t.tst = 2 then w.leaveRunning t.own else w
        else w) w

/-- R410: every access of the owner admitted before T has completed. -/
def Work.drained (w : Work) (own : Nat) (t : Tab Nat) : Bool :=
  let mine := fun l => decide ((w.launch? l).map (·.owner) = some own)
  w.cores.all fun p =>
    let k := p.2
    let lim := tget 0 p.1 t
    !(k.stores.any fun x => decide (x.1 < lim) && mine x.2.launch) &&
      !(k.fills.any fun x => decide (x.1 < lim) && x.2.req.eng && mine x.2.req.launch) &&
      !(k.loads.any fun x => decide (x.1 < lim) &&
        ((tfind x.2.slot k.groups).any fun g => decide (g.kind ≠ .supervisor) && mine g.launch))

/-- R413, R414: an entry is retired. -/
def Work.retireKey (w : Work) (entry : Nat) : Work := { w with keys := tdel entry w.keys }

/-- R410: the key is retired with the context reset of R340, STATUS 0x21. -/
def execKeyRetireReset (owner : Nat) (s : State) : Host.Outcome State Fault Refusal :=
  event s fun w =>
    match tfind owner w.retiring with
    | some t =>
      if w.drained owner t then
        ({ w with retiring := tdel owner w.retiring }.retireKey owner).contextReset owner 0x21
      else w
    | none => w

/-- R408: a write of a TDI register, 0 TDICTL and 1 TDIRNG; TST and SESS are read-only. -/
def Work.tdiWrite (w : Work) (tdi word : Nat) (value : Word) : Work :=
  if word = 0 then w.setTdi tdi { w.tdi tdi with own := field value 9 0 }
  else w.setTdi tdi { w.tdi tdi with hbase := field value 31 0, hlen := field value 63 32 }

/-- R413: one request writes up to 128 bytes from the register on, at one edge. One that names any
other offset performs nothing (log 26). -/
def execSpdmTdiWrite (tdi word : Nat) (values : List Word) (s : State) :
    Host.Outcome State Fault Refusal :=
  event s fun w =>
    let n := 2 * tdi + word
    if !w.session ∨ 1 < word ∨ 16 < values.length ∨ 128 < n + values.length then w
    else
      (values.mapIdx fun i v => (n + i, v)).foldl (fun w p => w.tdiWrite (p.1 / 2) (p.1 % 2) p.2) w

/-- R413: a key is loaded, or replaced (R414): a key update, from which R409 counts. -/
def execSpdmKeyLoad (entry : Nat) (key1 key2 : BitVec 256) (dbg : Bool) (s : State) :
    Host.Outcome State Fault Refusal :=
  event s fun w =>
    if w.session ∧ entry < 1024 then
      { w with keys := tins entry { valid := true, dbg, key1, key2 } w.keys, sessAt := w.tempo }
    else w

/-- R413: an entry is retired. -/
def execSpdmKeyRetire (entry : Nat) (s : State) : Host.Outcome State Fault Refusal :=
  event s fun w => if w.session then w.retireKey entry else w

/-- R413: a write of the control word alone. -/
def execSpdmDbgWrite (entry : Nat) (dbg : Bool) (s : State) : Host.Outcome State Fault Refusal :=
  event s fun w =>
    if w.session ∧ (w.keyEnt entry).valid then
      { w with keys := tmod entry (fun k => { k with dbg }) w.keys }
    else w

/-! ## Inbound writes and peers (R191, R405, R406, R410) -/

/-- Every byte of a range is near memory. -/
def Work.allNear (w : Work) (a n : Nat) : Bool := (upto n a).all fun x => (w.place x).isNear

/-- R191, R405: a write from outside performed at DEVICE, published to every core. -/
def Work.deviceWrite (w : Work) (key : Nat) (l : List Host.Cell) : Work :=
  ((w.homeWrite key false l).inbAll (sectorsOf l)).rereadAt (sectorsOf l)

/-- R405: a write or an atomic from outside is performed. -/
def Work.performIn (w : Work) (h : HeldWrite) : Work :=
  match h.atom, h.cells with
  | some (op, ret, cmp), (a, _) :: _ =>
    let n := h.cells.length
    let w := w.flushCells (upto n a)
    let old := natWord (w.readNum h.key a n)
    let new := atomNew op n ret old (natWord (leNat (h.cells.map Prod.snd))) cmp
    w.deviceWrite h.key (cellsAt a n new.1.toNat)
  | _, l => w.deviceWrite h.key l

/-- R358, R359: a request from an I/O port travels to the home slice of its line: 0 is the host's port,
1 + p the fabric port p (log 18). -/
def Work.inSend (w : Work) (port line : Nat) (n : Nat) (x : InReq) : Work :=
  match w.home? (128 * line) with
  | some h =>
    let at_ := if port = 0 then (0, 40) else ((port - 1) % 8, 42)
    w.send 0 3 ((n + 63) / 64) at_.1 at_.2 h.die (slicePort h.slice) 0 (.inb line x)
  | none => w

/-- A write travels in a packet for each line. -/
def Work.inWrite (w : Work) (port : Nat) (h : HeldWrite) : Work :=
  (h.cells.map fun c => c.1 / 128).eraseDups.foldl (fun w line =>
    let l := h.cells.filter fun c => decide (c.1 / 128 = line)
    w.inSend port line l.length (.write { h with cells := l })) w

/-- Bytes from an address. -/
def cellsFrom (a : Nat) (l : List Byte) : List Host.Cell := l.mapIdx fun i b => (a + i, b)

/-- R191, R410: a host write through an interface, under its owner's key (log 19). -/
def execHostMemoryWrite (tdi addr : Nat) (data : List (BitVec 8)) (s : State) :
    Host.Outcome State Fault Refusal :=
  event s fun w =>
    let t := w.tdi tdi
    let l := cellsFrom addr data
    if t.tst = 2 && (w.keyEnt t.own).valid && w.allNear addr data.length then
      w.inWrite 0 { key := t.own, atom := none, cells := l }
    else w

/-- A word of the export table or of the shared ranges. -/
def Work.fabexpBits (w : Work) (i : Nat) : Nat :=
  (tget 0 (2 * i) w.fabexp).toNat + (tget 0 (2 * i + 1) w.fabexp).toNat * 2 ^ 64

/-- R406: an export range admits a request. -/
def exportOk (x endpoint a n : Nat) (write : Bool) : Bool :=
  let base := x % 2 ^ 52
  let len := x / 2 ^ 64 % 2 ^ 32 * 65536
  x.testBit 52 && decide (base ≤ a) && decide (a + n ≤ base + len) && (!write || x.testBit 53) &&
    (x.testBit 116 || decide (x / 2 ^ 106 % 1024 = endpoint))

/-- R406: the owner under which a peer request is performed; none is a completer abort. -/
def Work.exportOwner (w : Work) (endpoint a n : Nat) (write : Bool) : Option Nat :=
  ((upto 16).find? fun i => exportOk (w.fabexpBits i) endpoint a n write).bind fun i =>
    let own := w.fabexpBits i / 2 ^ 96 % 1024
    if (w.keyEnt own).valid then some own else none

/-- R405: the bytes at their address that a peer's atomic reads and writes, and what a CAS compares:
the operand is followed by it (log 31). -/
def peerAtom (op : Nat) (ret : Bool) (data : List Byte) : List Byte × Word :=
  let n := if op = 9 ∧ ret then data.length / 2 else data.length
  (data.take n, natWord (leNat (data.drop n)))

/-- R405: the sizes of an operation: 4 or 8 bytes; 2 for a BF16 addition. The location is aligned. -/
def peerAtomOk (op : Nat) (ret : Bool) (addr n : Nat) : Bool :=
  decide (op < 10) && decide (addr % n = 0) && (if op = 9 ∧ ret = false then decide (n = 2) else decide (n = 4 ∨ n = 8))

/-- R405, R406: `data` is what a read returns the length of, what a write stores, or the operands of
an atomic. -/
def execFabricPeerRequest (port endpoint : Nat) (op : PeerOp) (addr : Nat) (data : List (BitVec 8))
    (s : State) : Host.Outcome State Fault Refusal :=
  event s fun w =>
    let bytes := match op with
      | .atomic op ret => (peerAtom op ret data).1
      | _ => data
    let n := bytes.length
    if 16 ≤ port ∨ !w.allNear addr n then w
    else
      match w.exportOwner endpoint addr n (op ≠ .read) with
      | none => w
      | some own =>
        let l := cellsFrom addr bytes
        match op with
        | .read =>
          (l.map fun c => c.1 / 128).eraseDups.foldl (fun w line =>
            w.inSend (1 + port) line 0
              (.read ((upto n addr).filter fun a => decide (a / 128 = line)))) w
        | .write => w.inWrite (1 + port) { key := own, atom := none, cells := l }
        | .atomic op ret =>
          if peerAtomOk op ret addr n then
            w.inWrite (1 + port) { key := own, atom := some (op, ret, (peerAtom op ret data).2), cells := l }
          else w

/-! ## The directory (R407) -/

/-- R407: the line of an address lies in a range declared shared. -/
def Work.sharedRange (w : Work) (addr : Nat) : Bool :=
  (upto 16).any fun i =>
    let b := (tget 0 (2 * i) w.fabshr).toNat
    let n := (tget 0 (2 * i + 1) w.fabshr).toNat * 65536
    b.testBit 52 && decide (b % 2 ^ 52 ≤ addr / 128 * 128) &&
      decide (addr / 128 * 128 + 128 ≤ b % 2 ^ 52 + n) && (w.place addr).isNear

/-- The home slice supplies a line. -/
def Work.supply (w : Work) (h : Home) (line : Nat) : Work :=
  let l := upto 128 (128 * line)
  ((w.flushCells l).l2 h line false false false).logLines l

/-- R407: GET. -/
def Work.dirGet (w : Work) (h : Home) (line : Nat) : Work :=
  { w.supply h line with sharedOut := ninsert line w.sharedOut }

/-- R407: PUT: a store of the line at DEVICE. The bytes keep the key of their sectors (log 19). -/
def Work.dirPut (w : Work) (h : Home) (line : Nat) (data : List Byte) : Work :=
  let l := cellsFrom (128 * line) data
  let w := (w.flushCells (l.map Prod.fst)).l2 h line false true false
  let w := ((w.homesOf l).foldl (fun w h => w.evalMonitors h.1 h.2 l) (w.pokes l)).mendLines l
  { (w.inbAll (sectorsOf l)).rereadAt (sectorsOf l) with
    sharedOut := w.sharedOut.filter (· ≠ line) }

/-- R407: RECALL: the line goes to the directory, and no core keeps a copy past its next acquire. -/
def Work.dirRecall (w : Work) (h : Home) (line : Nat) : Work :=
  let w := (w.supply h line).l2Evict h line
  { w.inbAll (upto 4 (4 * line)) with sharedOut := ninsert line w.sharedOut }

/-- A request from an I/O port is performed at its home slice. -/
def Work.inTake (w : Work) (h : Home) (line : Nat) : InReq → Work
  | .read l => ((w.flushCells l).l2 h line false false false).logLines l
  | .write x => w.performIn x
  | .get => w.dirGet h line
  | .put data => w.dirPut h line data
  | .recall => w.dirRecall h line

/-! ## A slice accepts (R365, R407) -/

/-- The line that a request packet is for. -/
def Packet.line (p : Packet) : Nat :=
  match p.msg with
  | .req r => r.line
  | .inb n _ => n
  | _ => 0

/-- R407: a device write, or one from a port, waits while its line is shared out. -/
def Packet.waits (p : Packet) : Bool :=
  match p.msg with
  | .req r => r.writes
  | .inb _ (.write _) => true
  | _ => false

/-- R407: a PUT, with which the directory gives a line back, waits for nothing (log 31). -/
def Packet.passes (p : Packet) : Bool :=
  match p.msg with
  | .inb _ (.put _) => true
  | _ => false

/-- R407: the first of some held packets whose line is free, and for which no other of them waits. -/
def Work.freed (w : Work) : List Nat → List Packet → Option Packet
  | _, [] => none
  | busy, p :: rest =>
    if busy.contains p.line || (p.waits && w.sharedOut.contains p.line) then
      w.freed (p.line :: busy) rest
    else some p

/-- A packet is performed at the slice. -/
def Work.slicePacket (w : Work) (p : Packet) : Work :=
  match w.home? (128 * p.line), p.msg with
  | some h, .req r => w.sliceTake h r
  | some h, .inb n x => w.inTake h n x
  | _, _ => w

/-- An earlier request of the same core for the same line still waits at the unit. -/
def Work.packetBehind (w : Work) (die slice : Nat) (p : Packet) : Bool :=
  match p.msg with
  | .req r => w.behind die slice r
  | _ => false

/-- R365: a slice accepts and performs the request at the head of its queue, one per network cycle.
A write to a shared-out line is held, with what follows it to the line (R407); a request behind one of
its core at the unit waits in the queue. -/
def execSliceRequest (die slice : Nat) (s : State) : Host.Outcome State Fault Refusal :=
  event s fun w =>
    let x := w.slice die slice
    if w.tempo / 2 < x.busy then w
    else
      match w.freed [] x.held with
      | some p =>
        (w.setSlice die slice { x with held := x.held.erase p, busy := w.tempo / 2 + 1 }).slicePacket p
      | none =>
        match x.inq with
        | [] => w
        | p :: rest =>
          if w.packetBehind die slice p then w
          else
            let w := w.popSlice die slice rest
            if !p.passes && ((p.waits && w.sharedOut.contains p.line) ||
                x.held.any fun q => decide (q.line = p.line)) then
              w.setSlice die slice { w.slice die slice with held := x.held ++ [p] }
            else w.slicePacket p

/-! ## Directory requests (R407) -/

/-- A directory request of a fabric port for a line declared shared goes to its home slice. -/
def Work.dirSend (w : Work) (l : DirLine) (n : Nat) (x : InReq) : Work :=
  if l.port < 16 ∧ w.sharedRange l.addr then w.inSend (1 + l.port) (l.addr / 128) n x else w

def execDirectoryGet (l : DirLine) (s : State) : Host.Outcome State Fault Refusal :=
  event s fun w => w.dirSend l 0 .get

def execDirectoryPut (l : DirLine) (data : List (BitVec 8)) (s : State) :
    Host.Outcome State Fault Refusal :=
  event s fun w => if data.length = 128 then w.dirSend l 128 (.put data) else w

def execDirectoryRecall (l : DirLine) (s : State) : Host.Outcome State Fault Refusal :=
  event s fun w => w.dirSend l 0 .recall

/-- R407: the directory has invalidated every processor copy; a held device write proceeds. -/
def execDirectoryInvalAck (l : DirLine) (s : State) : Host.Outcome State Fault Refusal :=
  event s fun w =>
    if l.port < 16 then { w with sharedOut := w.sharedOut.filter (· ≠ l.addr / 128) } else w

/-! ## The far tier and completions (R410, R411) -/

/-- R411: a back-invalidate removes the line from every L1; a fill in flight delivers its data but
is not installed. `addr` is the offset behind the port. -/
def execCxlBackInvalidate (port addr : Nat) (s : State) : Host.Outcome State Fault Refusal :=
  event s fun w =>
    if 8 ≤ port then w
    else
      let line := (2 ^ 44 + port * 2 ^ 41 + addr) / 128
      { w with
        cores := tmap (fun _ k =>
          k.l1Invalidate (fun n _ => decide (n = line)) fun f => decide (f.req.line = line))
          w.cores }

/-- A locked read-modify-write at an I/O port, whose locations held `data` (R402): the old values by
lane, and the flags of a reduction (R221). A lane at a location of an earlier one finds what that left
there (R199); `now` holds those. -/
def farAtomics (op size : Nat) (ret : Bool) :
    List (Nat × Nat × Word × Word) → List Byte → Tab Word → Tab (BitVec 128) × BitVec 7
  | [], _, _ => ([], 0)
  | o :: rest, data, now =>
    let old := (tfind o.2.1 now).getD (natWord (leNat (data.take size)))
    let new := atomNew op size ret old (cutTo size o.2.2.1) (cutTo size o.2.2.2)
    let t := farAtomics op size ret rest (data.drop size) (tins o.2.1 new.1 now)
    (tins o.1 (old.zeroExtend 128) t.1, new.2 ||| t.2)

/-- The lanes of an atomic request. -/
def Req.lanes (r : Req) : List (Nat × Nat × Word × Word) :=
  match r.kind with
  | .atomic _ _ _ ops => ops
  | _ => []

/-- R410, R411: the answer to a request that left the package; `vals` and `flags` are what an atomic
gives. A poisoned or dropped answer poisons the destination lanes of its load. -/
def Work.complete (w : Work) (r : Req) (data : List Byte) (vals : Tab (BitVec 128))
    (flags : BitVec 7) (poison : Bool) : Work :=
  match r.kind with
  | .fill _ _ _ =>
    w.ioBack r 2 (.line r.core r.op (BitVec.ofNat 1024 (leNat (data.take 128))) poison)
  | .atomic _ _ ret ops =>
    if ret then
      let w := if poison then w.spoilLanes r (ops.map Prod.fst) else w
      w.ioBack r 2 (.vals r.core r.op (vals.filter fun v => ops.any fun o => decide (o.1 = v.1)))
    else (w.addRflags r.launch flags).ioBack r 0 (.ack r.core r.op)
  | .store _ => w.ioBack r 0 (.ack r.core r.op)
  | _ => w

/-- The packets of one instruction for one line are performed together (R220), all of `l`. -/
def Work.completeAll (w : Work) (l : List Req) (data : List Byte) (poison : Bool) : Work :=
  let q :=
    match l with
    | { kind := .atomic op size ret _, .. } :: _ => farAtomics op size ret (l.flatMap Req.lanes) data []
    | _ => ([], 0)
  l.foldl (fun w r => w.complete r data q.1 q.2 (poison || r.dead)) w

/-- The oldest request of an I/O gate is answered, once its last packet has come. -/
def Work.completeGate (w : Work) (gate : Nat) (data : List Byte) (poison : Bool) : Work :=
  match tget [] gate w.io with
  | [] => w
  | r :: rest =>
    let mine := if r.more then r :: rest.filter (·.partOf r) else [r]
    if mine.all (·.more) then w
    else
      let left := if r.more then rest.filter fun x => !x.partOf r else rest
      ({ w with io := tput [] gate left w.io } : Work).completeAll mine data poison

/-- R411: ports 0 to 7 are the CXL ports, 8 to 23 the fabric ports (log 18). -/
def execCxlCompletion (port : Nat) (data : List (BitVec 8)) (poison : Bool) (s : State) :
    Host.Outcome State Fault Refusal :=
  event s fun w => if port < 24 then w.completeGate (1 + port) data poison else w

/-- R410: a host read completion lands, or is dropped when its interface has left TST = 2. -/
def execHostCompletion (data : List (BitVec 8)) (s : State) : Host.Outcome State Fault Refusal :=
  event s fun w => w.completeGate 0 data false

end Sys2Proof.Machine
end

