-- ==== Sys2Proof/Machine/Replay.lean ====
section
/-!
DEFINITION. Repeatability, adjournment and replay (R376 to R401), readback (R418).
-/

namespace Sys2Proof

open Machine (Image)

/-- R386, R397: the scan map of this FORMAT: the byte at an offset of a die's body (log 3). -/
opaque Config.scanByte : Nat → Image → Nat → BitVec 8

/-- R387: what the bodies of the dies hold by the scan map, when this package has not scanned them,
and the key their key table is wrapped under (R412, log 3). -/
opaque Config.scanLoad : List (List (BitVec 8)) → Option (Image × BitVec 256)

/-- R380: the arrival that an entry of the ring stands for, where the format is a link's own
(log 24). -/
opaque Config.linkArrival : List (BitVec 8) → Option Instr

end Sys2Proof

namespace Sys2Proof.Machine

/-! ## Stamping gates (R378) -/

/-- The gate of a register write. The supervisor's accesses are no arrivals (R403). -/
def gateOf : Path → Option Nat
  | .host => some 0
  | .management => some 25
  | .supervisor => none

/-- R377, R378: the port of a stamped arrival. -/
def arrivalPort (i : Instr) : Option Nat :=
  match i with
  | .registerWrite path offset _ _ =>
    if path = .management ∧ 0x800000 ≤ offset then none else gateOf path
  | .crreqWrite path _ _ => gateOf path
  | .tlbinv path _ => gateOf path
  | .preemptGo path _ => gateOf path
  | .preemptResume path _ => gateOf path
  | .quarantineClear _ _ => some 25
  | .rstctlWarm path => gateOf path
  | .rstctlCold path => gateOf path
  | .bootwhyClr path => gateOf path
  | .hostMemoryWrite _ _ _ => some 0
  | .hostCompletion _ => some 0
  | .tdispMessage _ _ => some 0
  | .spdmTdiWrite _ _ _ => some 0
  | .spdmKeyLoad _ _ _ _ => some 0
  | .spdmKeyRetire _ => some 0
  | .spdmDbgWrite _ _ => some 0
  | .spdmSessionEstablish => some 0
  | .hostLinkDown => some 0
  | .cxlBackInvalidate port _ => some (1 + port)
  | .cxlCompletion port _ _ => some (1 + port)
  | .cxlViral port => some (1 + port)
  | .fabricPeerRequest port _ _ _ _ => some (9 + port)
  | .fabricFatal port => some (9 + port)
  | .directoryGet x => some (9 + x.port)
  | .directoryPut x _ => some (9 + x.port)
  | .directoryRecall x => some (9 + x.port)
  | .directoryInvalAck x => some (9 + x.port)
  | .tempoAlign _ _ _ _ x => some (9 + x.port)
  | .thermalSample _ _ => some 26
  | .takeback _ _ _ _ => some 27
  | .takebackRepeatCaught _ _ _ => some 27
  | .guardFailure _ _ => some 27
  | .correctedError _ _ _ _ => some 28
  | _ => none

/-! ## The scoresheet (R379 to R382) -/


/-- Payload bytes of an arrival (R380; log 24). -/
def payloadBytes (i : Instr) : Nat :=
  match i with
  | .registerWrite _ _ _ _ => 8
  | .crreqWrite _ _ _ => 8
  | .tlbinv _ _ => 8
  | .preemptGo _ _ => 8
  | .preemptResume _ _ => 8
  | .hostMemoryWrite _ _ data => data.length
  | .hostCompletion data => data.length
  | .cxlCompletion _ data _ => data.length
  | .fabricPeerRequest _ _ _ _ data => data.length
  | .directoryPut _ data => data.length
  | .spdmTdiWrite _ _ values => 8 * values.length
  | .spdmKeyLoad _ _ _ _ => 128
  | .spdmKeyRetire _ => 128
  | .spdmDbgWrite _ _ => 8
  | .tempoAlign _ _ _ _ _ => 32
  | .thermalSample _ _ => 8
  | _ => 0

/-- R380: PLEN. -/
def SheetEnt.plen (e : SheetEnt) : Nat :=
  match e.ev, e.check with
  | some i, none => payloadBytes i
  | some _, some _ => 8
  | none, _ => 0

/-- R380: bytes in the ring of an entry with a payload. -/
def entryBytes (plen : Nat) : Nat := 16 + (plen + 15) / 16 * 16

def SheetEnt.bytes (e : SheetEnt) : Nat := entryBytes e.plen

/-- R379: bytes of the ring; 0 when it is not set up (R400). -/
def Obs.ring (o : Obs) : Nat := field o.scssize 31 0 * 2 ^ 20

/-- R381: an entry fits. -/
def Obs.fits (o : Obs) (e : SheetEnt) : Bool :=
  decide ((o.scshead + o.ring - o.scstail) % o.ring + e.bytes < o.ring)

/-- R380: PORT of an entry; 0xFF in the end marker. -/
def SheetEnt.port (e : SheetEnt) : Nat := (e.ev.bind arrivalPort).getD 0xFF

/-- R380: TAG of an arrival: the core of a takeback, the unit of an error report. -/
def arrivalTag (i : Instr) : Nat :=
  match i with
  | .takeback core _ _ _ => core % 1024
  | .takebackRepeatCaught core _ _ => core % 1024
  | .guardFailure core _ => core % 1024
  | .correctedError unit _ _ _ => unit % 256
  | _ => 0

def SheetEnt.tag (e : SheetEnt) : Nat := (e.ev.map arrivalTag).getD 0

/-- R380: KIND, where it is not the link's own: none is a free value. -/
def SheetEnt.kind (e : SheetEnt) : Option Nat :=
  match e.ev with
  | some (.takeback _ _ _ engine) => some (if engine then 1 else 0)
  | some (.takebackRepeatCaught _ _ _) => some 0
  | some (.guardFailure _ _) => some 0
  | _ => none

/-- R382: the payload of a CXL read completion; what other links carry is their own (log 24). -/
def SheetEnt.payload (e : SheetEnt) : List Byte :=
  match e.ev, e.check with
  | some (.cxlCompletion _ data _), none => data
  | some _, some check => leBytes 8 check.toNat
  | _, _ => []

/-- R380: the bytes of an entry in the ring; `free` gives those the spec leaves open. -/
def SheetEnt.image (e : SheetEnt) (free : List Byte) : List Byte :=
  let kind := (e.kind.map (BitVec.ofNat 8)).getD (free.getD 9 0)
  let head := leBytes 9 (e.stamp % 2 ^ 64 + e.port * 2 ^ 64) ++ [kind] ++
    leBytes 6 (e.plen + e.tag * 2 ^ 16)
  head ++ e.payload ++ free.drop (16 + e.payload.length)

/-- R379: the writer appends an entry to the ring, in near memory. -/
def Work.append (w : Work) (e : SheetEnt) : Work :=
  let o := w.obs
  let base := field o.scsbase 51 0
  let f := w.obsBytes e.bytes
  let raw := e.image f.1
  let cells := (((upto e.bytes).zip raw).map fun p =>
    (base + (o.scshead + p.1) % o.ring, p.2)).filter fun c => (w.place c.1).isNear
  ({ f.2 with obs := { f.2.obs with
    sheet := o.sheet ++ [(raw, e)], scshead := (o.scshead + e.bytes) % o.ring } }.pokes
      cells).mendLines cells

/-- R381: entries that cannot wait enter the stash; beyond 4 096 they are lost. -/
def Obs.stashed (o : Obs) (e : SheetEnt) : Obs :=
  if o.stash.length < 4096 then { o with stash := o.stash ++ [e] }
  else { o with repctl := o.repctl ||| 0x40#64 }

/-- Append an entry, or stash it. -/
def Work.must (w : Work) (e : SheetEnt) : Work :=
  if w.obs.stash = [] ∧ w.obs.fits e then w.append e
  else { w with obs := w.obs.stashed e }

/-- R381: room that has come serves the stash. -/
def Work.unstash (w : Work) : Work :=
  w.obs.stash.foldl (fun w e =>
    match w.obs.stash with
    | x :: rest =>
      if x = e ∧ w.obs.fits e then
        ({ w with obs := { w.obs with stash := rest } } : Work).append e
      else w
    | [] => w) w

/-- R378, R388: record mode with a ring. -/
def Work.recording (w : Work) : Bool := decide (w.repMode = 0) && decide (w.obs.ring ≠ 0)

/-- R382: the check value of a completion's data. -/
def checkOf (data : List Byte) : BitVec 64 := (sha384 data).extractLsb' 0 64

/-- R380, R382: the entry of an arrival admitted now. With a check value, the reader takes no data
from the entry. -/
def Work.sheetEntry (w : Work) (i : Instr) : SheetEnt :=
  match i with
  | .cxlCompletion port data _ =>
    { stamp := w.tempo, ev := some i
      check := if w.obs.repctl.getLsbD 3 || decide (8 ≤ port) then none else some (checkOf data) }
  | _ => { stamp := w.tempo, ev := some i, check := none }

/-- R378: the place of an arrival among those of one edge: by port, takebacks by core. -/
def gatePlace (i : Instr) (port : Nat) : Nat :=
  1024 * port +
    match i with
    | .takeback core _ _ _ => core % 1024
    | .takebackRepeatCaught core _ _ => core % 1024
    | .guardFailure core _ => core % 1024
    | _ => 0

/-- R342, R385: the core of a takeback. -/
def caughtCore (i : Instr) : Option Nat :=
  match i with
  | .takeback core _ _ _ => some core
  | .takebackRepeatCaught core _ _ => some core
  | .guardFailure core _ => some core
  | _ => none

/-- R385, R391: a core has a clock edge at this master edge. -/
def Work.clocked (w : Work) (c : Nat) : Bool :=
  match tfind c w.cores with
  | some k => hasEdge k.edges w.tempo
  | none => false

/-- R378, R381: an arrival at the head of its gate is admitted at this edge, before anything else
happens there, and logged in record mode; none when it has to wait. A takeback is detected at an edge
of its core's clock (log 10). -/
def Work.gateAdmits (w : Work) (i : Instr) (port : Nat) : Option Work :=
  let place := gatePlace i port
  let late :=
    match w.obs.admitted with
    | some (t, p) => decide (t = w.tempo) && decide (place ≤ p)
    | none => false
  let off := match caughtCore i with
    | some c => !w.clocked c
    | none => false
  if !w.obs.edgeNew || late || off then none
  else
    let o := { w.obs with admitted := some (w.tempo, place) }
    if !w.recording then some { w with obs := o }
    else
      let e := w.sheetEntry i
      let v : Work := { w with obs := o }
      if 27 ≤ port then some (v.must e)
      else if o.stash = [] ∧ o.fits e then some (v.append e)
      else none

/-- R378: an arrival whose gate has no earlier one waiting. -/
def Work.enterGate (w : Work) (i : Instr) (port : Nat) : Option Work :=
  if tget [] port w.obs.gates = [] then w.gateAdmits i port else none

/-- R378, R381, R385: an arrival waits at its gate; takebacks in ascending core. -/
def Work.waitGate (w : Work) (i : Instr) (port : Nat) : Work :=
  let l := tget [] port w.obs.gates
  let l := if port = 27 then insBy (fun a b => decide (gatePlace a port < gatePlace b port)) i l
    else l ++ [i]
  { w with obs := { w.obs with gates := tput [] port l w.obs.gates } }

/-- R378: of the arrivals that wait, the first that is admitted at this edge: by ascending port; the
machine with it admitted, and the arrival. -/
def Work.gateNext (w : Work) : Option (Work × Instr) :=
  w.obs.gates.findSome? fun p =>
    (if p.1 = 27 then p.2 else p.2.take 1).findSome? fun i =>
      (({ w with obs := { w.obs with gates := tput [] p.1 (p.2.erase i) w.obs.gates } } : Work).gateAdmits
        i p.1).map fun v => (v, i)

/-- R401: in replay mode the management port writes bytes into the ring, from SCSTAIL on. -/
def Work.ringWrite (w : Work) (data : List Byte) : Work :=
  let o := w.obs
  let cells := (data.mapIdx fun i b =>
    (field o.scsbase 51 0 + (o.scstail + i) % o.ring, b)).filter fun c => (w.place c.1).isNear
  if w.repMode = 1 ∧ o.ring ≠ 0 then (w.pokes cells).mendLines cells else w

/-- R379, R401: SCSTAIL advances, past entries that the management port has drained or, in replay
mode, has written into the ring. -/
def execScstailWrite (x : TailWrite) (s : State) : Host.Outcome State Fault Refusal :=
  event s fun w =>
    let w := w.ringWrite x.data
    let w : Work := { w with obs := { w.obs with scstail := field x.value 39 0 } }
    if w.recording then w.unstash else w

/-! ## Freezing (R383 to R385) -/

/-- R380: the end marker of what has been recorded. -/
def Work.endMark (w : Work) : Work :=
  let e : SheetEnt := { stamp := w.tempo, last := true, ev := none, check := none }
  if w.recording ∧ w.obs.sheet.getLast?.map Prod.snd ≠ some e then w.must e else w

/-- R384: the package freezes after the present edge. -/
def Work.freeze (w : Work) : Work :=
  let w := w.endMark
  { w with obs := { w.obs with frozen := true, freezeDue := false } }

/-- The package runs: reset is released and nothing has frozen it. -/
def Work.running (w : Work) : Bool :=
  !w.obs.frozen && (decide (w.phase = .booting) || decide (w.phase = .ready))

/-- R384: TEMPO = STOPAT with ARM = 1. -/
def Work.stopDue (w : Work) : Bool :=
  w.running && w.obs.arm && decide (w.obs.stopat.toNat = w.tempo)

def execStopatFreeze (s : State) : Host.Outcome State Fault Refusal :=
  event s fun w =>
    if w.stopDue then ({ w with obs := { w.obs with arm := false } } : Work).freeze else w

/-! ## ADJCTL (R383, R386, R387) -/

/-- R383: ARM. -/
def Work.armStop (w : Work) : Work :=
  let ok := decide (w.tempo < w.obs.stopat.toNat)
  { w with obs := { w.obs with arm := ok, armErr := !ok } }

/-- R386: the adjournment slot of a die: in the top 4 GiB of its die-local window. -/
def Work.slotBase (w : Work) (die slot : Nat) : Nat :=
  2 ^ 42 + die * 2 ^ 39 + (3 * (96 - w.ilv) * gib - 768 * 2 ^ 20) - 4 * gib + slot * 2 ^ 28

/-- R386: MAGIC. -/
def adjMagic : Nat := 0x41444A49

/-- R386: the header of a die segment. -/
def segHeader (die tempo : Nat) (check : BitVec 384) : Nat :=
  adjMagic + (Config.scanBytes die).toNat * 2 ^ 32 + tempo % 2 ^ 64 * 2 ^ 64 + die * 2 ^ 128 +
    Config.scanFormat.toNat * 2 ^ 136 + check.toNat * 2 ^ 256

/-- R386: the body of a die segment, in the order of FORMAT. -/
def scanBody (die : Nat) (x : Image) : List Byte :=
  (upto (Config.scanBytes die).toNat).map (Config.scanByte die x)

/-- R386: what SCAN writes out. -/
def Work.image (w : Work) : Image := { pkg := w.toPkg, lines := w.l2Lines }

/-- R386: a die segment as it lies in its slot. -/
def Work.segment (w : Work) (die slot : Nat) (x : Image) : List Host.Cell :=
  let body := scanBody die x
  let a := w.slotBase die slot
  cellsAt a 128 (segHeader die w.tempo (sha384 body)) ++ cellsFrom (a + 128) body

/-- R386: SCAN. -/
def Work.scan (w : Work) (slot : Nat) : Work :=
  if !w.obs.frozen then w
  else
    let x := w.image
    let w := (upto 8).foldl (fun (w : Work) d =>
      (w.pokes (w.segment d slot x)).mendLines (w.segment d slot x)) w
    { w with obs := { w.obs with images := x :: w.obs.images.filter (· ≠ x) } }

/-- R387: a core of an image holds state of a launch. -/
def Core.holds (k : Core) : Bool := k.groups.any fun g => decide (g.2.kind ≠ .supervisor)

/-- The header and the body of a die segment that a slot holds. -/
def Work.slotHeader (w : Work) (die slot : Nat) : Nat := w.num (w.slotBase die slot) 128

def Work.slotBody (w : Work) (die slot : Nat) : List Byte :=
  w.bytes (w.slotBase die slot + 128) (w.slotHeader die slot / 2 ^ 32 % 2 ^ 32)

/-- R387, R412: the image that a slot holds: one that this package has scanned, or what the scan map
says of other bodies, whose key table is invalid when it was wrapped under another key. -/
def Work.slotImage (w : Work) (slot : Nat) : Image :=
  let l := (upto 8).map fun d => w.slotBody d slot
  match w.obs.images.find? fun x => decide ((upto 8).map (fun d => scanBody d x) = l) with
  | some x => x
  | none =>
    match Config.scanLoad l with
    | some (x, key) =>
      if key = Config.wrapKey then x else { x with pkg := { x.pkg with keys := [] } }
    | none => { pkg := Pkg.reset, lines := [] }

/-- R387: what refuses a LOAD; 0 is nothing. A package that no self-test has run on has no core in
its distributor mask. -/
def Work.loadError (w : Work) (slot : Nat) (x : Image) : Nat :=
  let h := fun d => w.slotHeader d slot
  let ds := upto 8
  if ds.any fun d =>
      decide (h d % 2 ^ 32 ≠ adjMagic) ||
        decide (h d / 2 ^ 32 % 2 ^ 32 ≠ (Config.scanBytes d).toNat) ||
        decide (h d / 2 ^ 256 % 2 ^ 384 ≠ (sha384 (w.slotBody d slot)).toNat) then 1
  else if ds.any fun d => decide (h d / 2 ^ 64 % 2 ^ 64 ≠ h 0 / 2 ^ 64 % 2 ^ 64) then 2
  else if ds.any fun d => decide (h d / 2 ^ 136 % 256 ≠ Config.scanFormat.toNat) then 3
  else if x.pkg.cores.any fun p => p.2.holds && !(w.obs.mask.getD []).contains p.1 then 4
  else 0

/-- R416: an uncorrectable error lies in some bytes of the scoresheet or adjournment area. -/
def Work.areaUpset (w : Work) (a n : Nat) : Bool :=
  (w.upsetMem ++ w.upsetL2).any fun l => decide (l * 128 < a + n) && decide (a < l * 128 + 128)

/-- R416: an uncorrectable error lies in a segment that LOAD reads. -/
def Work.slotUpset (w : Work) (slot : Nat) : Bool :=
  (upto 8).any fun d =>
    w.areaUpset (w.slotBase d slot) (128 + w.slotHeader d slot / 2 ^ 32 % 2 ^ 32)

/-- R387, R401: LOAD. Of near memory it restores the lines that the L2 held, not what tells under
which key the rest stands and where it holds errors; VIRST stays that of this package (log 24). A
segment with an uncorrectable error makes the device viral (R416). -/
def Work.load (w : Work) (slot : Nat) : Work :=
  if !w.obs.frozen && decide (w.phase ≠ .inReset) then w
  else if w.slotUpset slot then
    { w with
      virst := w.viralSrc 4
      obs := { w.obs with frozen := true, viral := true, adjErr := 1 } }
  else
    let x := w.slotImage slot
    match w.loadError slot x with
    | 0 =>
      let stamp := w.slotHeader 0 slot / 2 ^ 64 % 2 ^ 64
      let v := w.dram.l2Restore x.lines
      { v with
        toPkg := { x.pkg with
          tempo := stamp, keyed := v.keyed, upsetMem := w.upsetMem
          virst := w.virst }
        obs := { w.obs with
          frozen := true, freezeDue := false, adjErr := 0, scshead := 0, scstail := 0 } }
    | n => { w with obs := { w.obs with adjErr := n } }

/-- R385, R416: RELEASE: the next edge is delivered. -/
def Work.resume (w : Work) : Work :=
  if !w.obs.frozen || w.virst.getLsbD 0 then w
  else { w with obs := { w.obs with frozen := false, edgeNew := false } }

/-- R383: a write of ADJCTL: its actions in ascending bit order. -/
def Work.adjWrite (w : Work) (v : Word) : Work :=
  let slot := field v 8 5
  let w := { w with obs := { w.obs with slotSel := slot } }
  let w := if v.getLsbD 0 then w.armStop else { w with obs := { w.obs with arm := false } }
  let w := if v.getLsbD 2 then w.scan slot else w
  let w := if v.getLsbD 3 then w.load slot else w
  if v.getLsbD 4 then w.resume else w

/-- R383: `value` is the word written to ADJCTL, with ARM and whatever else it sets. -/
def execAdjArm (value : Word) (s : State) : Host.Outcome State Fault Refusal :=
  event s fun w => w.adjWrite value

/-- R386: ADJCTL written with SCAN and SLOT. -/
def execAdjScan (slot : Nat) (s : State) : Host.Outcome State Fault Refusal :=
  event s fun w => w.adjWrite (natWord (4 + slot % 16 * 32))

/-- R387: ADJCTL written with LOAD and SLOT. -/
def execAdjLoad (slot : Nat) (s : State) : Host.Outcome State Fault Refusal :=
  event s fun w => w.adjWrite (natWord (8 + slot % 16 * 32))

/-- R385: ADJCTL written with RELEASE. -/
def execAdjRelease (s : State) : Host.Outcome State Fault Refusal :=
  event s fun w => w.adjWrite (natWord (16 + w.obs.slotSel % 16 * 32))

/-! ## TEMPO across packages (R398) -/

/-- R398: the offset, truncated toward zero. -/
def alignOffset (t1 t2 t3 t4 : Int) : Int := ((t2 - t1) - (t4 - t3)).tdiv 2

/-- A TEMPO moved by an offset, in its 64 bits (R3). -/
def moveTempo (o : Int) (t : Nat) : Nat := (((t : Int) + o) % 2 ^ 64).toNat

/-- R398: TEMPO jumps; what runs for a number of master cycles goes on as long (log 21). -/
def Work.moveTime (w : Work) (o : Int) : Work :=
  { w with
    tempo := moveTempo o w.tempo, bootAt := moveTempo o w.bootAt, sessAt := moveTempo o w.sessAt
    admitAt := 0, placeAt := 0
    cores := tmap (fun _ k =>
      { k with began := k.began.map fun b =>
          if b.1 = w.tempo then (moveTempo o b.1, b.2) else b }) w.cores
    clusters := tmap (fun _ k =>
      { k with
        rampEnd := moveTempo o k.rampEnd, lastUser := k.lastUser.map (moveTempo o)
        crSup := k.crSup.map (moveTempo o)
        crPort := k.crPort.map fun x => (moveTempo o x.1, x.2) }) w.clusters
    dies := tmap (fun _ d =>
      { d with
        net := d.net.map fun p => { p with t0 := moveTempo o p.t0 }
        walks := d.walks.map fun x => { x with at_ := moveTempo o x.at_ }
        walkq := d.walkq.map fun x => { x with at_ := moveTempo o x.at_ }
        slewq := d.slewq.map fun x => (16 * moveTempo o (x.1 / 16) + x.1 % 16, x.2)
        outBusy := tmap (fun _ n => moveTempo (o.tdiv 2) n) d.outBusy
        slices := tmap (fun _ x => { x with busy := moveTempo (o.tdiv 2) x.busy }) d.slices
        units := tmap (fun _ x => { x with refresh := moveTempo o x.refresh }) d.units }) w.dies }

/-- R398: the packets of the exchange arrive at a fabric port. The package that leads only answers
them; a follower aligns, and RESID is a free value of at most 2. -/
def execTempoAlign (t1 t2 t3 t4 : Int) (x : AlignLink) (s : State) :
    Host.Outcome State Fault Refusal :=
  event s fun w =>
    let set := fun (w : Work) (n : Nat) => { w with obs := { w.obs with talign := natWord n } }
    if x.leads ∨ 16 ≤ x.port then w
    else if !x.shared then set w 2
    else if w.everLaunched then set w 4
    else
      let q := w.drawObs
      set (q.2.moveTime (alignOffset t1 t2 t3 t4)) (1 + q.1.toNat % 3 * 8)

/-! ## Replay (R388 to R391, R401) -/

/-- R388, R390. -/
def execRepctlWrite (value : Word) (s : State) : Host.Outcome State Fault Refusal :=
  event s fun w =>
    let old := w.obs.repctl
    let m := if field value 1 0 = 3 then 0 else field value 1 0
    if (!w.obs.frozen && decide (w.phase ≠ .inReset)) || (decide (m = 1) && !old.getLsbD 4) then w
    else
      let w := if m ≠ 0 ∧ w.phase ≠ .inReset then w.endMark else w
      -- R389: what waits at the gates is discarded in replay
      { w with obs := { w.obs with
        repctl := natWord (m + keepBits value 3 2) ||| (w.obs.repctl &&& 0x70#64)
        gates := if m = 1 then [] else w.obs.gates } }

/-- R390: the power stage changes the package rail. -/
def execPackageRailChange (raised : Bool) (s : State) : Host.Outcome State Fault Refusal :=
  event s fun w =>
    { w with obs := { w.obs with
      repctl := if raised then w.obs.repctl ||| 0x10#64 else w.obs.repctl &&& ~~~0x10#64 } }

/-- Bytes of the ring from an offset. -/
def Work.ringBytes (w : Work) (off n : Nat) : List Byte :=
  (upto n).map fun i => w.byte (field w.obs.scsbase 51 0 + (off + i) % w.obs.ring)

/-- R380: the KIND of a takeback tells an instruction from an engine. -/
def kindAgrees (i : Instr) (kind : Nat) : Bool :=
  match i with
  | .takeback _ _ _ engine => decide (kind = if engine then 1 else 0)
  | .takebackRepeatCaught _ _ _ => decide (kind = 0)
  | .guardFailure _ _ => decide (kind = 0)
  | _ => true

/-- R380, R382: an entry of another package's recording, from its bytes. -/
def Work.foreignEntry (w : Work) (raw : List Byte) : SheetEnt :=
  let h := leNat (raw.take 16)
  let port := h / 2 ^ 64 % 256
  let plen := h / 2 ^ 80 % 2 ^ 16
  let ev := (Config.linkArrival raw).filter fun i =>
    decide (arrivalPort i = some port) && decide (arrivalTag i = h / 2 ^ 96 % 2 ^ 32) &&
      kindAgrees i (h / 2 ^ 72 % 256)
  let far := match ev with
    | some (.cxlCompletion p _ _) => decide (p < 8) && !w.obs.repctl.getLsbD 3
    | _ => false
  { stamp := h % 2 ^ 64, last := decide (port = 0xFF), ev
    check := if far = true ∧ plen = 8 then some (BitVec.ofNat 64 (leNat ((raw.drop 16).take 8))) else none }

/-- R389, R401: the entry at SCSHEAD, with its bytes, when the reader has not reached SCSTAIL. -/
def Work.nextEntry (w : Work) : Option (List Byte × SheetEnt) :=
  let o := w.obs
  if o.scshead = o.scstail ∨ o.ring = 0 then none
  else
    let plen := leNat (w.ringBytes o.scshead 16) / 2 ^ 80 % 2 ^ 16
    let raw := w.ringBytes o.scshead (entryBytes plen)
    some ((o.sheet.find? fun x => decide (x.1 = raw)).getD (raw, w.foreignEntry raw))

/-- The reader passes an entry; an uncorrectable error in it makes the device viral (R416). -/
def Work.passEntry (w : Work) (raw : List Byte) : Work :=
  let o := w.obs
  let w := if w.areaUpset (field o.scsbase 51 0 + o.scshead) raw.length then w.viral 4 else w
  { w with obs := { w.obs with scshead := (o.scshead + raw.length) % o.ring } }

/-- A viral device issues nothing after its edge T (R416). -/
def Work.viralNow (w : Work) : Bool := w.obs.freezeDue && w.obs.viral

/-- R389: an entry is due at this edge. -/
def Work.dueEntry (w : Work) : Option (List Byte × SheetEnt) :=
  if w.running && !w.viralNow && decide (w.repMode = 1) then
    w.nextEntry.filter fun e => decide (e.2.stamp ≤ w.tempo)
  else none

/-- R401: the reader has reached SCSTAIL before an end marker. -/
def Work.starved (w : Work) : Bool :=
  w.running && decide (w.repMode = 1) && w.nextEntry.isNone

/-- R390, R391: a recorded takeback is forced, unless its core is quarantined or unclocked. -/
def Work.forceTakeback (w : Work) (core : Nat) (f : Work → Work) : Work :=
  if (w.core core).mgn.quar || !w.clocked core then w.diverge 2 else f w

/-- R389: the effect of a recorded arrival, as when it was admitted. -/
def arrivalEffect (i : Instr) (s : State) : Host.Outcome State Fault Refusal :=
  match i with
  | .registerWrite path offset value half => execRegisterWrite path offset value half s
  | .crreqWrite path cluster value => execCrreqWrite path cluster value s
  | .tlbinv path value => execTlbinv path value s
  | .preemptGo path value => execPreemptGo path value s
  | .preemptResume path value => execPreemptResume path value s
  | .quarantineClear core ok => execQuarantineClear core ok s
  | .hostMemoryWrite tdi addr data => execHostMemoryWrite tdi addr data s
  | .hostCompletion data => execHostCompletion data s
  | .tdispMessage tdi next => execTdispMessage tdi next s
  | .spdmTdiWrite tdi word values => execSpdmTdiWrite tdi word values s
  | .spdmKeyLoad entry key1 key2 dbg => execSpdmKeyLoad entry key1 key2 dbg s
  | .spdmKeyRetire entry => execSpdmKeyRetire entry s
  | .spdmDbgWrite entry dbg => execSpdmDbgWrite entry dbg s
  | .spdmSessionEstablish => execSpdmSessionEstablish s
  | .hostLinkDown => execHostLinkDown s
  | .cxlBackInvalidate port addr => execCxlBackInvalidate port addr s
  | .cxlCompletion port data poison => execCxlCompletion port data poison s
  | .cxlViral port => execCxlViral port s
  | .fabricPeerRequest port endpoint op addr data =>
    execFabricPeerRequest port endpoint op addr data s
  | .fabricFatal port => execFabricFatal port s
  | .directoryGet x => execDirectoryGet x s
  | .directoryPut x data => execDirectoryPut x data s
  | .directoryRecall x => execDirectoryRecall x s
  | .directoryInvalAck x => execDirectoryInvalAck x s
  | .thermalSample cluster degrees => execThermalSample cluster degrees s
  | .rstctlWarm path => execRstctlWarm path s
  | .rstctlCold path => execRstctlCold path s
  | .bootwhyClr path => execBootwhyClr path s
  | .tempoAlign t1 t2 t3 t4 x => execTempoAlign t1 t2 t3 t4 x s
  | .takeback core slot stage engine =>
    event s fun w => w.forceTakeback core fun w => w.takeback core slot stage engine
  | .takebackRepeatCaught core slot stage =>
    event s fun w => w.forceTakeback core fun w => w.repeatCaught core slot stage
  | .guardFailure core slot => event s fun w => w.forceTakeback core fun w => w.guardFailed core slot
  | .correctedError unit where_ addr bit => execCorrectedError unit where_ addr bit s
  | _ => .next s

/-- R382: data read from the far tier is held against the recorded check value. -/
def Work.dataChecked (w : Work) (data : List Byte) (check : BitVec 64) : Work :=
  if checkOf data = check then w else w.diverge 3

/-- R389: the entry that is due is injected; at the end marker REPEND is set and the package
freezes after this edge. An entry that no arrival stands for has no effect (log 24). -/
def execReplayInject (s : State) : Host.Outcome State Fault Refusal :=
  let w := s.work
  match w.dueEntry with
  | none => event s fun w => w
  | some (raw, e) =>
    let w := w.passEntry raw
    if e.last then
      event s fun _ =>
        { w with obs := { w.obs with repctl := w.obs.repctl ||| 0x20#64, freezeDue := true } }
    else
      match e.ev, e.check with
      | some (.cxlCompletion port data poison), some check =>
        let d := w.obsBytes data.length
        execCxlCompletion port d.1 poison (commit s (d.2.dataChecked d.1 check))
      | some i, _ => arrivalEffect i (commit s w)
      | none, _ => event s fun _ => w

/-- R382, R389: in replay a live completion of a CXL port gives the data of the recorded one that is
due; any other is discarded. -/
def replayCompletion (port : Nat) (data : List Byte) (s : State) :
    Host.Outcome State Fault Refusal :=
  let w := s.work
  match w.dueEntry with
  | some (raw, e) =>
    match e.ev, e.check with
    | some (.cxlCompletion p d bad), some check =>
      if p = port ∧ d.length = data.length then
        execCxlCompletion port data bad
          (commit s ((w.passEntry raw).dataChecked data check))
      else .next s
    | _, _ => .next s
  | none => .next s

/-! ## Readback (R418) -/

/-- R418: RBSEL is written; while the package is frozen RBDATA gives the 64 bits at that offset of the
die's body. -/
def execReadback (value : Word) (s : State) : Host.Outcome State Fault Refusal :=
  event s fun w =>
    let bits := natWord (leNat
      ((upto 8 (field value 42 3)).map (Config.scanByte (field value 2 0) w.image)))
    { w with obs := { w.obs with
      rbsel := natWord (field value 42 0), rbdata := if w.obs.frozen then bits else w.obs.rbdata } }

/-- R418: MRADDR is written; while the package is frozen MRDATA gives the 64 bits of near memory
there: plaintext where the sector's key entry has DBG, else ciphertext. -/
def execMemoryReadback (addr : Nat) (s : State) : Host.Outcome State Fault Refusal :=
  event s fun w =>
    let a := addr / 8 * 8
    let v := w.dram
    let plain := w.keys.any fun k =>
      k.2.valid && k.2.dbg && decide (tfind (a / 32) v.keyed = some k.2.pair)
    let sector := if plain then v.bytes (a / 32 * 32) 32 else v.cipher (a / 32)
    { w with obs := { w.obs with
      mraddr := natWord addr
      mrdata :=
        if w.obs.frozen then natWord (leNat ((sector.drop (a % 32)).take 8)) else w.obs.mrdata } }

end Sys2Proof.Machine
end

