-- ==== Sys2Proof/Machine/Dispatch.lean ====
section
/-!
DEFINITION. The meaning of every instruction and event: one arm per constructor.
-/

namespace Sys2Proof.Machine

/-- What an instruction or event does to the machine. -/
def exec (i : Instr) (s : State) : Host.Outcome State Fault Refusal :=
  match i with
  | .trap g imm => Sys2Proof.Machine.execTrap g imm s
  | .rte g => Sys2Proof.Machine.execRte g s
  | .svcall g v => Sys2Proof.Machine.execSvcall g v s
  | .mbpop g d => Sys2Proof.Machine.execMbpop g d s
  | .mbreply g a => Sys2Proof.Machine.execMbreply g a s
  | .mgnset g a d r => Sys2Proof.Machine.execMgnset g a d r s
  | .mgnsetW g a d r => Sys2Proof.Machine.execMgnsetW g a d r s
  | .qsave g a b => Sys2Proof.Machine.execQsave g a b s
  | .qload g a b => Sys2Proof.Machine.execQload g a b s
  | .tempow g a => Sys2Proof.Machine.execTempow g a s
  | .haltt g => Sys2Proof.Machine.execHaltt g s
  | .br g c o => Sys2Proof.Machine.execBr g c o s
  | .jmp g o => Sys2Proof.Machine.execJmp g o s
  | .call g o => Sys2Proof.Machine.execCall g o s
  | .nop g => Sys2Proof.Machine.execNop g s
  | .exit g => Sys2Proof.Machine.execExit g s
  | .ret g a => Sys2Proof.Machine.execRet g a s
  | .jmpr g a => Sys2Proof.Machine.execJmpr g a s
  | .smov g d a => Sys2Proof.Machine.execSmov g d a s
  | .smovs g d x y => Sys2Proof.Machine.execSmovs g d x y s
  | .smovw g x a y => Sys2Proof.Machine.execSmovw g x a y s
  | .fmtset g a => Sys2Proof.Machine.execFmtset g a s
  | .fmtsetMask g a b => Sys2Proof.Machine.execFmtsetMask g a b s
  | .fmtget g d => Sys2Proof.Machine.execFmtget g d s
  | .flgget g d => Sys2Proof.Machine.execFlgget g d s
  | .flgclr g a => Sys2Proof.Machine.execFlgclr g a s
  | .wait g c n => Sys2Proof.Machine.execWait g c n s
  | .sadd g d a b => Sys2Proof.Machine.execSadd g d a b s
  | .ssub g d a b => Sys2Proof.Machine.execSsub g d a b s
  | .smul g d a b => Sys2Proof.Machine.execSmul g d a b s
  | .smulhI64 g d a b => Sys2Proof.Machine.execSmulhI64 g d a b s
  | .smulhN64 g d a b => Sys2Proof.Machine.execSmulhN64 g d a b s
  | .sand g d a b => Sys2Proof.Machine.execSand g d a b s
  | .sor g d a b => Sys2Proof.Machine.execSor g d a b s
  | .sxor g d a b => Sys2Proof.Machine.execSxor g d a b s
  | .sshl g d a b => Sys2Proof.Machine.execSshl g d a b s
  | .sshr g d a b => Sys2Proof.Machine.execSshr g d a b s
  | .ssra g d a b => Sys2Proof.Machine.execSsra g d a b s
  | .sminI64 g d a b => Sys2Proof.Machine.execSminI64 g d a b s
  | .sminN64 g d a b => Sys2Proof.Machine.execSminN64 g d a b s
  | .smaxI64 g d a b => Sys2Proof.Machine.execSmaxI64 g d a b s
  | .smaxN64 g d a b => Sys2Proof.Machine.execSmaxN64 g d a b s
  | .ssel g d a b => Sys2Proof.Machine.execSsel g d a b s
  | .saddFl g d a b => Sys2Proof.Machine.execSaddFl g d a b s
  | .ssubFl g d a b => Sys2Proof.Machine.execSsubFl g d a b s
  | .saddi g d a imm => Sys2Proof.Machine.execSaddi g d a imm s
  | .smuli g d a imm => Sys2Proof.Machine.execSmuli g d a imm s
  | .sandi g d a imm => Sys2Proof.Machine.execSandi g d a imm s
  | .sori g d a imm => Sys2Proof.Machine.execSori g d a imm s
  | .sxori g d a imm => Sys2Proof.Machine.execSxori g d a imm s
  | .sshli g d a imm => Sys2Proof.Machine.execSshli g d a imm s
  | .sshri g d a imm => Sys2Proof.Machine.execSshri g d a imm s
  | .ssrai g d a imm => Sys2Proof.Machine.execSsrai g d a imm s
  | .smovl g d imm => Sys2Proof.Machine.execSmovl g d imm s
  | .sshin g d imm => Sys2Proof.Machine.execSshin g d imm s
  | .scmp g a b => Sys2Proof.Machine.execScmp g a b s
  | .scmpi g imm a j => Sys2Proof.Machine.execScmpi g imm a j s
  | .sld g z d a imm => Sys2Proof.Machine.execSld g z d a imm s
  | .sst g z d a imm => Sys2Proof.Machine.execSst g z d a imm s
  | .ifm g a => Sys2Proof.Machine.execIfm g a s
  | .elsem g => Sys2Proof.Machine.execElsem g s
  | .endm g => Sys2Proof.Machine.execEndm g s
  | .brkm g a => Sys2Proof.Machine.execBrkm g a s
  | .brkmLoop g => Sys2Proof.Machine.execBrkmLoop g s
  | .mand g d a b => Sys2Proof.Machine.execMand g d a b s
  | .mor g d a b => Sys2Proof.Machine.execMor g d a b s
  | .mxor g d a b => Sys2Proof.Machine.execMxor g d a b s
  | .mnot g d a => Sys2Proof.Machine.execMnot g d a s
  | .mmov g d a => Sys2Proof.Machine.execMmov g d a s
  | .mmovFromScalar g d a => Sys2Proof.Machine.execMmovFromScalar g d a s
  | .mmovToScalar g d a => Sys2Proof.Machine.execMmovToScalar g d a s
  | .mpopc g d a => Sys2Proof.Machine.execMpopc g d a s
  | .mfirst g d a => Sys2Proof.Machine.execMfirst g d a s
  | .vaddI32 g d a b => Sys2Proof.Machine.execVaddI32 g d a b s
  | .vsubI32 g d a b => Sys2Proof.Machine.execVsubI32 g d a b s
  | .vmulI32 g d a b => Sys2Proof.Machine.execVmulI32 g d a b s
  | .vmulhI32 g d a b => Sys2Proof.Machine.execVmulhI32 g d a b s
  | .vmulhN32 g d a b => Sys2Proof.Machine.execVmulhN32 g d a b s
  | .vmadI32 g d a b => Sys2Proof.Machine.execVmadI32 g d a b s
  | .vdivI32 g d a b => Sys2Proof.Machine.execVdivI32 g d a b s
  | .vdivN32 g d a b => Sys2Proof.Machine.execVdivN32 g d a b s
  | .vremI32 g d a b => Sys2Proof.Machine.execVremI32 g d a b s
  | .vremN32 g d a b => Sys2Proof.Machine.execVremN32 g d a b s
  | .vminI32 g d a b => Sys2Proof.Machine.execVminI32 g d a b s
  | .vminN32 g d a b => Sys2Proof.Machine.execVminN32 g d a b s
  | .vmaxI32 g d a b => Sys2Proof.Machine.execVmaxI32 g d a b s
  | .vmaxN32 g d a b => Sys2Proof.Machine.execVmaxN32 g d a b s
  | .vand g d a b => Sys2Proof.Machine.execVand g d a b s
  | .vor g d a b => Sys2Proof.Machine.execVor g d a b s
  | .vxor g d a b => Sys2Proof.Machine.execVxor g d a b s
  | .vshl g d a b => Sys2Proof.Machine.execVshl g d a b s
  | .vshr g d a b => Sys2Proof.Machine.execVshr g d a b s
  | .vsra g d a b => Sys2Proof.Machine.execVsra g d a b s
  | .vaddc g d a b => Sys2Proof.Machine.execVaddc g d a b s
  | .vsubb g d a b => Sys2Proof.Machine.execVsubb g d a b s
  | .vabsI32 g d a => Sys2Proof.Machine.execVabsI32 g d a s
  | .vnegI32 g d a => Sys2Proof.Machine.execVnegI32 g d a s
  | .vnot g d a => Sys2Proof.Machine.execVnot g d a s
  | .vpopc g d a => Sys2Proof.Machine.execVpopc g d a s
  | .vclz g d a => Sys2Proof.Machine.execVclz g d a s
  | .vbrev g d a => Sys2Proof.Machine.execVbrev g d a s
  | .vbfeI32 g d a b => Sys2Proof.Machine.execVbfeI32 g d a b s
  | .vbfeN32 g d a b => Sys2Proof.Machine.execVbfeN32 g d a b s
  | .vbfi g d a b => Sys2Proof.Machine.execVbfi g d a b s
  | .vmov g d a => Sys2Proof.Machine.execVmov g d a s
  | .vaddI32Vs g d a b => Sys2Proof.Machine.execVaddI32Vs g d a b s
  | .vsubI32Vs g d a b => Sys2Proof.Machine.execVsubI32Vs g d a b s
  | .vmulI32Vs g d a b => Sys2Proof.Machine.execVmulI32Vs g d a b s
  | .vmulhI32Vs g d a b => Sys2Proof.Machine.execVmulhI32Vs g d a b s
  | .vmulhN32Vs g d a b => Sys2Proof.Machine.execVmulhN32Vs g d a b s
  | .vmadI32Vs g d a b => Sys2Proof.Machine.execVmadI32Vs g d a b s
  | .vdivI32Vs g d a b => Sys2Proof.Machine.execVdivI32Vs g d a b s
  | .vdivN32Vs g d a b => Sys2Proof.Machine.execVdivN32Vs g d a b s
  | .vremI32Vs g d a b => Sys2Proof.Machine.execVremI32Vs g d a b s
  | .vremN32Vs g d a b => Sys2Proof.Machine.execVremN32Vs g d a b s
  | .vminI32Vs g d a b => Sys2Proof.Machine.execVminI32Vs g d a b s
  | .vminN32Vs g d a b => Sys2Proof.Machine.execVminN32Vs g d a b s
  | .vmaxI32Vs g d a b => Sys2Proof.Machine.execVmaxI32Vs g d a b s
  | .vmaxN32Vs g d a b => Sys2Proof.Machine.execVmaxN32Vs g d a b s
  | .vandVs g d a b => Sys2Proof.Machine.execVandVs g d a b s
  | .vorVs g d a b => Sys2Proof.Machine.execVorVs g d a b s
  | .vxorVs g d a b => Sys2Proof.Machine.execVxorVs g d a b s
  | .vshlVs g d a b => Sys2Proof.Machine.execVshlVs g d a b s
  | .vshrVs g d a b => Sys2Proof.Machine.execVshrVs g d a b s
  | .vsraVs g d a b => Sys2Proof.Machine.execVsraVs g d a b s
  | .vaddcVs g d a b => Sys2Proof.Machine.execVaddcVs g d a b s
  | .vsubbVs g d a b => Sys2Proof.Machine.execVsubbVs g d a b s
  | .vbfeI32Vs g d a b => Sys2Proof.Machine.execVbfeI32Vs g d a b s
  | .vbfeN32Vs g d a b => Sys2Proof.Machine.execVbfeN32Vs g d a b s
  | .vbfiVs g d a b => Sys2Proof.Machine.execVbfiVs g d a b s
  | .vmovVs g d b => Sys2Proof.Machine.execVmovVs g d b s
  | .vaddI32Vi g d a imm => Sys2Proof.Machine.execVaddI32Vi g d a imm s
  | .vmulI32Vi g d a imm => Sys2Proof.Machine.execVmulI32Vi g d a imm s
  | .vandVi g d a imm => Sys2Proof.Machine.execVandVi g d a imm s
  | .vorVi g d a imm => Sys2Proof.Machine.execVorVi g d a imm s
  | .vxorVi g d a imm => Sys2Proof.Machine.execVxorVi g d a imm s
  | .vshlVi g d a imm => Sys2Proof.Machine.execVshlVi g d a imm s
  | .vshrVi g d a imm => Sys2Proof.Machine.execVshrVi g d a imm s
  | .vsraVi g d a imm => Sys2Proof.Machine.execVsraVi g d a imm s
  | .vcmpI32 g c d a b => Sys2Proof.Machine.execVcmpI32 g c d a b s
  | .vsel g d a b => Sys2Proof.Machine.execVsel g d a b s
  | .vcmpN32 g c d a b => Sys2Proof.Machine.execVcmpN32 g c d a b s
  | .vcmpF32 g c d a b => Sys2Proof.Machine.execVcmpF32 g c d a b s
  | .vcmpF64 g c d a b => Sys2Proof.Machine.execVcmpF64 g c d a b s
  | .vfaddF32 g d a b => Sys2Proof.Machine.execVfaddF32 g d a b s
  | .vfsubF32 g d a b => Sys2Proof.Machine.execVfsubF32 g d a b s
  | .vfmulF32 g d a b => Sys2Proof.Machine.execVfmulF32 g d a b s
  | .vfmaF32 g d a b => Sys2Proof.Machine.execVfmaF32 g d a b s
  | .vfmsF32 g d a b => Sys2Proof.Machine.execVfmsF32 g d a b s
  | .vfminF32 g d a b => Sys2Proof.Machine.execVfminF32 g d a b s
  | .vfmaxF32 g d a b => Sys2Proof.Machine.execVfmaxF32 g d a b s
  | .vfabsF32 g d a => Sys2Proof.Machine.execVfabsF32 g d a s
  | .vfnegF32 g d a => Sys2Proof.Machine.execVfnegF32 g d a s
  | .vfdivF32 g d a b => Sys2Proof.Machine.execVfdivF32 g d a b s
  | .vfsqrtF32 g d a => Sys2Proof.Machine.execVfsqrtF32 g d a s
  | .vfclassF32 g d a => Sys2Proof.Machine.execVfclassF32 g d a s
  | .vfaddF32Vs g d a b => Sys2Proof.Machine.execVfaddF32Vs g d a b s
  | .vfsubF32Vs g d a b => Sys2Proof.Machine.execVfsubF32Vs g d a b s
  | .vfmulF32Vs g d a b => Sys2Proof.Machine.execVfmulF32Vs g d a b s
  | .vfmaF32Vs g d a b => Sys2Proof.Machine.execVfmaF32Vs g d a b s
  | .vfmsF32Vs g d a b => Sys2Proof.Machine.execVfmsF32Vs g d a b s
  | .vfminF32Vs g d a b => Sys2Proof.Machine.execVfminF32Vs g d a b s
  | .vfmaxF32Vs g d a b => Sys2Proof.Machine.execVfmaxF32Vs g d a b s
  | .vfdivF32Vs g d a b => Sys2Proof.Machine.execVfdivF32Vs g d a b s
  | .vfaddF64 g d a b => Sys2Proof.Machine.execVfaddF64 g d a b s
  | .vfsubF64 g d a b => Sys2Proof.Machine.execVfsubF64 g d a b s
  | .vfmulF64 g d a b => Sys2Proof.Machine.execVfmulF64 g d a b s
  | .vfmaF64 g d a b => Sys2Proof.Machine.execVfmaF64 g d a b s
  | .vfmsF64 g d a b => Sys2Proof.Machine.execVfmsF64 g d a b s
  | .vfminF64 g d a b => Sys2Proof.Machine.execVfminF64 g d a b s
  | .vfmaxF64 g d a b => Sys2Proof.Machine.execVfmaxF64 g d a b s
  | .vfabsF64 g d a => Sys2Proof.Machine.execVfabsF64 g d a s
  | .vfnegF64 g d a => Sys2Proof.Machine.execVfnegF64 g d a s
  | .vfdivF64 g d a b => Sys2Proof.Machine.execVfdivF64 g d a b s
  | .vfsqrtF64 g d a => Sys2Proof.Machine.execVfsqrtF64 g d a s
  | .vfclassF64 g d a => Sys2Proof.Machine.execVfclassF64 g d a s
  | .vrecon g d a b => Sys2Proof.Machine.execVrecon g d a b s
  | .vhaddH g d a b => Sys2Proof.Machine.execVhaddH g d a b s
  | .vhmulH g d a b => Sys2Proof.Machine.execVhmulH g d a b s
  | .vhfmaH g d a b => Sys2Proof.Machine.execVhfmaH g d a b s
  | .vhaddBf g d a b => Sys2Proof.Machine.execVhaddBf g d a b s
  | .vhmulBf g d a b => Sys2Proof.Machine.execVhmulBf g d a b s
  | .vhfmaBf g d a b => Sys2Proof.Machine.execVhfmaBf g d a b s
  | .vcvt g d a k => Sys2Proof.Machine.execVcvt g d a k s
  | .vcvts g d a k => Sys2Proof.Machine.execVcvts g d a k s
  | .vpackHF32 g d a b => Sys2Proof.Machine.execVpackHF32 g d a b s
  | .vpackBfF32 g d a b => Sys2Proof.Machine.execVpackBfF32 g d a b s
  | .vpackE4H g d a b => Sys2Proof.Machine.execVpackE4H g d a b s
  | .vpackE5H g d a b => Sys2Proof.Machine.execVpackE5H g d a b s
  | .vpackI16I32 g d a b => Sys2Proof.Machine.execVpackI16I32 g d a b s
  | .vpackN16I32 g d a b => Sys2Proof.Machine.execVpackN16I32 g d a b s
  | .vpackI8I16 g d a b => Sys2Proof.Machine.execVpackI8I16 g d a b s
  | .vpackN8I16 g d a b => Sys2Proof.Machine.execVpackN8I16 g d a b s
  | .vpackHF32Sat g d a b => Sys2Proof.Machine.execVpackHF32Sat g d a b s
  | .vpackBfF32Sat g d a b => Sys2Proof.Machine.execVpackBfF32Sat g d a b s
  | .vpackE4HSat g d a b => Sys2Proof.Machine.execVpackE4HSat g d a b s
  | .vpackE5HSat g d a b => Sys2Proof.Machine.execVpackE5HSat g d a b s
  | .vunpackF32H g d a imm => Sys2Proof.Machine.execVunpackF32H g d a imm s
  | .vunpackF32Bf g d a imm => Sys2Proof.Machine.execVunpackF32Bf g d a imm s
  | .vunpackHE4 g d a imm => Sys2Proof.Machine.execVunpackHE4 g d a imm s
  | .vunpackHE5 g d a imm => Sys2Proof.Machine.execVunpackHE5 g d a imm s
  | .vunpackI32I16 g d a imm => Sys2Proof.Machine.execVunpackI32I16 g d a imm s
  | .vunpackI32N16 g d a imm => Sys2Proof.Machine.execVunpackI32N16 g d a imm s
  | .vunpackI16I8 g d a imm => Sys2Proof.Machine.execVunpackI16I8 g d a imm s
  | .vunpackI32I8 g d a imm => Sys2Proof.Machine.execVunpackI32I8 g d a imm s
  | .vunpackI32N8 g d a imm => Sys2Proof.Machine.execVunpackI32N8 g d a imm s
  | .vrcpF32 g d a => Sys2Proof.Machine.execVrcpF32 g d a s
  | .vrsqF32 g d a => Sys2Proof.Machine.execVrsqF32 g d a s
  | .vexp2F32 g d a => Sys2Proof.Machine.execVexp2F32 g d a s
  | .vlog2F32 g d a => Sys2Proof.Machine.execVlog2F32 g d a s
  | .vsinF32 g d a => Sys2Proof.Machine.execVsinF32 g d a s
  | .vcosF32 g d a => Sys2Proof.Machine.execVcosF32 g d a s
  | .vperm g d a b => Sys2Proof.Machine.execVperm g d a b s
  | .vpermK g d a b => Sys2Proof.Machine.execVpermK g d a b s
  | .vshfl g d a n => Sys2Proof.Machine.execVshfl g d a n s
  | .vshflK g d a n => Sys2Proof.Machine.execVshflK g d a n s
  | .vshflW g d a k => Sys2Proof.Machine.execVshflW g d a k s
  | .vshflKW g d a k => Sys2Proof.Machine.execVshflKW g d a k s
  | .vrot g d a n => Sys2Proof.Machine.execVrot g d a n s
  | .vrotK g d a n => Sys2Proof.Machine.execVrotK g d a n s
  | .vrotW g d a k => Sys2Proof.Machine.execVrotW g d a k s
  | .vrotKW g d a k => Sys2Proof.Machine.execVrotKW g d a k s
  | .vbcast g d a n => Sys2Proof.Machine.execVbcast g d a n s
  | .vbcastK g d a n => Sys2Proof.Machine.execVbcastK g d a n s
  | .vred g d a p => Sys2Proof.Machine.execVred g d a p s
  | .vscan g d a p => Sys2Proof.Machine.execVscan g d a p s
  | .vballot g d a => Sys2Proof.Machine.execVballot g d a s
  | .vvote g d a m => Sys2Proof.Machine.execVvote g d a m s
  | .vmovsN32 g d a n => Sys2Proof.Machine.execVmovsN32 g d a n s
  | .vmovsI32 g d a n => Sys2Proof.Machine.execVmovsI32 g d a n s
  | .vmovsN64 g d a n => Sys2Proof.Machine.execVmovsN64 g d a n s
  | .vmovl g d imm j => Sys2Proof.Machine.execVmovl g d imm j s
  | .vinsN32 g d n b => Sys2Proof.Machine.execVinsN32 g d n b s
  | .vinsN64 g d n b => Sys2Proof.Machine.execVinsN64 g d n b s
  | .vlane g d => Sys2Proof.Machine.execVlane g d s
  | .vsplit g x y d a b => Sys2Proof.Machine.execVsplit g x y d a b s
  | .vld g w d b o h => Sys2Proof.Machine.execVld g w d b o h s
  | .prefetch g l b o h => Sys2Proof.Machine.execPrefetch g l b o h s
  | .vst g w d b o h => Sys2Proof.Machine.execVst g w d b o h s
  | .atomAdd g o d a b => Sys2Proof.Machine.execAtomAdd g o d a b s
  | .atomMin g o d a b => Sys2Proof.Machine.execAtomMin g o d a b s
  | .atomMax g o d a b => Sys2Proof.Machine.execAtomMax g o d a b s
  | .atomMinu g o d a b => Sys2Proof.Machine.execAtomMinu g o d a b s
  | .atomMaxu g o d a b => Sys2Proof.Machine.execAtomMaxu g o d a b s
  | .atomAnd g o d a b => Sys2Proof.Machine.execAtomAnd g o d a b s
  | .atomOr g o d a b => Sys2Proof.Machine.execAtomOr g o d a b s
  | .atomXor g o d a b => Sys2Proof.Machine.execAtomXor g o d a b s
  | .atomXchg g d a b => Sys2Proof.Machine.execAtomXchg g d a b s
  | .cas g d a b => Sys2Proof.Machine.execCas g d a b s
  | .redAdd g a b => Sys2Proof.Machine.execRedAdd g a b s
  | .redMin g a b => Sys2Proof.Machine.execRedMin g a b s
  | .redMax g a b => Sys2Proof.Machine.execRedMax g a b s
  | .redMinu g a b => Sys2Proof.Machine.execRedMinu g a b s
  | .redMaxu g a b => Sys2Proof.Machine.execRedMaxu g a b s
  | .redAnd g a b => Sys2Proof.Machine.execRedAnd g a b s
  | .redOr g a b => Sys2Proof.Machine.execRedOr g a b s
  | .redXor g a b => Sys2Proof.Machine.execRedXor g a b s
  | .redAddF32 g o a b => Sys2Proof.Machine.execRedAddF32 g o a b s
  | .redAddBf g o a b => Sys2Proof.Machine.execRedAddBf g o a b s
  | .atomdAdd g o d a b => Sys2Proof.Machine.execAtomdAdd g o d a b s
  | .atomdMin g o d a b => Sys2Proof.Machine.execAtomdMin g o d a b s
  | .atomdMax g o d a b => Sys2Proof.Machine.execAtomdMax g o d a b s
  | .atomdMinu g o d a b => Sys2Proof.Machine.execAtomdMinu g o d a b s
  | .atomdMaxu g o d a b => Sys2Proof.Machine.execAtomdMaxu g o d a b s
  | .atomdAnd g o d a b => Sys2Proof.Machine.execAtomdAnd g o d a b s
  | .atomdOr g o d a b => Sys2Proof.Machine.execAtomdOr g o d a b s
  | .atomdXor g o d a b => Sys2Proof.Machine.execAtomdXor g o d a b s
  | .atomdXchg g d a b => Sys2Proof.Machine.execAtomdXchg g d a b s
  | .casd g d a b => Sys2Proof.Machine.execCasd g d a b s
  | .reddAdd g a b => Sys2Proof.Machine.execReddAdd g a b s
  | .reddMin g a b => Sys2Proof.Machine.execReddMin g a b s
  | .reddMax g a b => Sys2Proof.Machine.execReddMax g a b s
  | .reddMinu g a b => Sys2Proof.Machine.execReddMinu g a b s
  | .reddMaxu g a b => Sys2Proof.Machine.execReddMaxu g a b s
  | .reddAnd g a b => Sys2Proof.Machine.execReddAnd g a b s
  | .reddOr g a b => Sys2Proof.Machine.execReddOr g a b s
  | .reddXor g a b => Sys2Proof.Machine.execReddXor g a b s
  | .reddAddF64 g o a b => Sys2Proof.Machine.execReddAddF64 g o a b s
  | .fenceRel g p => Sys2Proof.Machine.execFenceRel g p s
  | .fenceAcq g p => Sys2Proof.Machine.execFenceAcq g p s
  | .fenceAr g p => Sys2Proof.Machine.execFenceAr g p s
  | .invl1 g l => Sys2Proof.Machine.execInvl1 g l s
  | .waitcmp g a v c z t => Sys2Proof.Machine.execWaitcmp g a v c z t s
  | .moncancel g a l => Sys2Proof.Machine.execMoncancel g a l s
  | .tld g w d b o h => Sys2Proof.Machine.execTld g w d b o h s
  | .tst g w d b o h => Sys2Proof.Machine.execTst g w d b o h s
  | .copykickOrd g a b => Sys2Proof.Machine.execCopykickOrd g a b s
  | .copykickAny g a b => Sys2Proof.Machine.execCopykickAny g a b s
  | .cdinit g a b => Sys2Proof.Machine.execCdinit g a b s
  | .yieldc g a b => Sys2Proof.Machine.execYieldc g a b s
  | .pin g k n a b => Sys2Proof.Machine.execPin g k n a b s
  | .unpin g k => Sys2Proof.Machine.execUnpin g k s
  | .bar g b m => Sys2Proof.Machine.execBar g b m s
  | .bara g b m => Sys2Proof.Machine.execBara g b m s
  | .barw g b => Sys2Proof.Machine.execBarw g b s
  | .gangbar g => Sys2Proof.Machine.execGangbar g s
  | .gridbar g => Sys2Proof.Machine.execGridbar g s
  | .stageacq g => Sys2Proof.Machine.execStageacq g s
  | .stagerel g => Sys2Proof.Machine.execStagerel g s
  | .mma g a sr t => Sys2Proof.Machine.execMma g a sr t s
  | .mmaR g a sr t => Sys2Proof.Machine.execMmaR g a sr t s
  | .mmas g a sr t => Sys2Proof.Machine.execMmas g a sr t s
  | .mmasR g a sr t => Sys2Proof.Machine.execMmasR g a sr t s
  | .mxset g a => Sys2Proof.Machine.execMxset g a s
  | .mscale g a b => Sys2Proof.Machine.execMscale g a b s
  | .mxcont g a b => Sys2Proof.Machine.execMxcont g a b s
  | .mxwait g a => Sys2Proof.Machine.execMxwait g a s
  | .mxclr g a b => Sys2Proof.Machine.execMxclr g a b s
  | .mxflag g d a b => Sys2Proof.Machine.execMxflag g d a b s
  | .mxflagC g d a b => Sys2Proof.Machine.execMxflagC g d a b s
  | .mxrd g d n => Sys2Proof.Machine.execMxrd g d n s
  | .swdecl g d a => Sys2Proof.Machine.execSwdecl g d a s
  | .swstart g h a b => Sys2Proof.Machine.execSwstart g h a b s
  | .swstartResume g h a b => Sys2Proof.Machine.execSwstartResume g h a b s
  | .swhalt g h => Sys2Proof.Machine.execSwhalt g h s
  | .swstat g d e h => Sys2Proof.Machine.execSwstat g d e h s
  | .swstatC g d e h => Sys2Proof.Machine.execSwstatC g d e h s
  | .swfree g h => Sys2Proof.Machine.execSwfree g h s
  | .cwakeAny g h a => Sys2Proof.Machine.execCwakeAny g h a s
  | .cwakeOrd g h a => Sys2Proof.Machine.execCwakeOrd g h a s
  | .cyield g p => Sys2Proof.Machine.execCyield g p s
  | .csleep g p => Sys2Proof.Machine.execCsleep g p s
  | .cdone g => Sys2Proof.Machine.execCdone g s
  | .cwaitm g c a b => Sys2Proof.Machine.execCwaitm g c a b s
  | .cwake g a => Sys2Proof.Machine.execCwake g a s
  | .cidx g d => Sys2Proof.Machine.execCidx g d s
  | .cstat g d => Sys2Proof.Machine.execCstat g d s
  | .launch g a q => Sys2Proof.Machine.execLaunch g a q s
  | .amsendAny g v a h => Sys2Proof.Machine.execAmsendAny g v a h s
  | .amsendOrd g v a h => Sys2Proof.Machine.execAmsendOrd g v a h s
  | .vaddI32Parcel t d b => Sys2Proof.Machine.execVaddI32Parcel t d b s
  | .vsubI32Parcel t d b => Sys2Proof.Machine.execVsubI32Parcel t d b s
  | .vmulI32Parcel t d b => Sys2Proof.Machine.execVmulI32Parcel t d b s
  | .vminI32Parcel t d b => Sys2Proof.Machine.execVminI32Parcel t d b s
  | .vmaxI32Parcel t d b => Sys2Proof.Machine.execVmaxI32Parcel t d b s
  | .vandParcel t d b => Sys2Proof.Machine.execVandParcel t d b s
  | .vorParcel t d b => Sys2Proof.Machine.execVorParcel t d b s
  | .vxorParcel t d b => Sys2Proof.Machine.execVxorParcel t d b s
  | .vshlParcel t d b => Sys2Proof.Machine.execVshlParcel t d b s
  | .vshrParcel t d b => Sys2Proof.Machine.execVshrParcel t d b s
  | .vmovParcel t d b => Sys2Proof.Machine.execVmovParcel t d b s
  | .vfaddF32Parcel t d b => Sys2Proof.Machine.execVfaddF32Parcel t d b s
  | .vfsubF32Parcel t d b => Sys2Proof.Machine.execVfsubF32Parcel t d b s
  | .vfmulF32Parcel t d b => Sys2Proof.Machine.execVfmulF32Parcel t d b s
  | .vfminF32Parcel t d b => Sys2Proof.Machine.execVfminF32Parcel t d b s
  | .vfmaxF32Parcel t d b => Sys2Proof.Machine.execVfmaxF32Parcel t d b s
  | .nullParcel => Sys2Proof.Machine.execNullParcel s
  | .parkedGroupReclaim core => Sys2Proof.Machine.execParkedGroupReclaim core s
  | .groupPromote core slot => Sys2Proof.Machine.execGroupPromote core slot s
  | .loadLand core id => Sys2Proof.Machine.execLoadLand core id s
  | .xcResultLand core id => Sys2Proof.Machine.execXcResultLand core id s
  | .tbufAccessComplete core id => Sys2Proof.Machine.execTbufAccessComplete core id s
  | .storeAck core id => Sys2Proof.Machine.execStoreAck core id s
  | .fillReturn core id => Sys2Proof.Machine.execFillReturn core id s
  | .walkComplete die => Sys2Proof.Machine.execWalkComplete die s
  | .groupRetire core slot => Sys2Proof.Machine.execGroupRetire core slot s
  | .teamRetire launch lin => Sys2Proof.Machine.execTeamRetire launch lin s
  | .gridEnd launch => Sys2Proof.Machine.execGridEnd launch s
  | .amArrival core => Sys2Proof.Machine.execAmArrival core s
  | .handlerSpawn core => Sys2Proof.Machine.execHandlerSpawn core s
  | .signatureReceive core => Sys2Proof.Machine.execSignatureReceive core s
  | .signatureAckReceive core => Sys2Proof.Machine.execSignatureAckReceive core s
  | .sliceRequest die slice => Sys2Proof.Machine.execSliceRequest die slice s
  | .monitorWakeArrive core => Sys2Proof.Machine.execMonitorWakeArrive core s
  | .waitcmpTimeout core slot => Sys2Proof.Machine.execWaitcmpTimeout core slot s
  | .monfullBackoffEnd core slot => Sys2Proof.Machine.execMonfullBackoffEnd core slot s
  | .msUnitAccess die stack => Sys2Proof.Machine.execMsUnitAccess die stack s
  | .orderedUpdateArrive die stack => Sys2Proof.Machine.execOrderedUpdateArrive die stack s
  | .orderedFlush die stack addr => Sys2Proof.Machine.execOrderedFlush die stack addr s
  | .gridbarComplete launch => Sys2Proof.Machine.execGridbarComplete launch s
  | .copyKickStart core => Sys2Proof.Machine.execCopyKickStart core s
  | .copyRecordDone core => Sys2Proof.Machine.execCopyRecordDone core s
  | .matrixOpStart core => Sys2Proof.Machine.execMatrixOpStart core s
  | .matrixBlockWrite core => Sys2Proof.Machine.execMatrixBlockWrite core s
  | .matrixOpEnd core => Sys2Proof.Machine.execMatrixOpEnd core s
  | .matrixSplit core cause => Sys2Proof.Machine.execMatrixSplit core cause s
  | .runGroupPlace tensor seg => Sys2Proof.Machine.execRunGroupPlace tensor seg s
  | .sweepOpeningBoundary tensor seg => Sys2Proof.Machine.execSweepOpeningBoundary tensor seg s
  | .sweepRunStep tensor seg => Sys2Proof.Machine.execSweepRunStep tensor seg s
  | .runWriteBack tensor seg => Sys2Proof.Machine.execRunWriteBack tensor seg s
  | .classBudgetExhausted tensor seg => Sys2Proof.Machine.execClassBudgetExhausted tensor seg s
  | .sweepBoundary tensor seg => Sys2Proof.Machine.execSweepBoundary tensor seg s
  | .sweepClosingBoundary tensor seg => Sys2Proof.Machine.execSweepClosingBoundary tensor seg s
  | .externalWakeArrive core => Sys2Proof.Machine.execExternalWakeArrive core s
  | .sweepEngineFault tensor seg => Sys2Proof.Machine.execSweepEngineFault tensor seg s
  | .launchAdmit => Sys2Proof.Machine.execLaunchAdmit s
  | .gangPlace => Sys2Proof.Machine.execGangPlace s
  | .paPark cluster => Sys2Proof.Machine.execPaPark cluster s
  | .paRelease cluster => Sys2Proof.Machine.execPaRelease cluster s
  | .paRotate core => Sys2Proof.Machine.execPaRotate core s
  | .crreqWrite path cluster value => Sys2Proof.Machine.execCrreqWrite path cluster value s
  | .rampEnd cluster => Sys2Proof.Machine.execRampEnd cluster s
  | .slewAdmit die => Sys2Proof.Machine.execSlewAdmit die s
  | .haltArrive core slot => Sys2Proof.Machine.execHaltArrive core slot s
  | .takeback core slot stage engine => Sys2Proof.Machine.execTakeback core slot stage engine s
  | .takebackRepeatCaught core slot stage => Sys2Proof.Machine.execTakebackRepeatCaught core slot stage s
  | .guardFailure core slot => Sys2Proof.Machine.execGuardFailure core slot s
  | .tbwinRestart core => Sys2Proof.Machine.execTbwinRestart core s
  | .quarantineClear core selfTest => Sys2Proof.Machine.execQuarantineClear core selfTest s
  | .tlbinv path value => Sys2Proof.Machine.execTlbinv path value s
  | .tlbinvDone => Sys2Proof.Machine.execTlbinvDone s
  | .preemptGo path value => Sys2Proof.Machine.execPreemptGo path value s
  | .preemptResume path value => Sys2Proof.Machine.execPreemptResume path value s
  | .drainDeadline => Sys2Proof.Machine.execDrainDeadline s
  | .graceDeadline => Sys2Proof.Machine.execGraceDeadline s
  | .saveDeadline => Sys2Proof.Machine.execSaveDeadline s
  | .teamSave launch lin => Sys2Proof.Machine.execTeamSave launch lin s
  | .teamRestore launch lin => Sys2Proof.Machine.execTeamRestore launch lin s
  | .registerWrite path offset value half => Sys2Proof.Machine.execRegisterWrite path offset value half s
  | .rstctlWarm path => Sys2Proof.Machine.execRstctlWarm path s
  | .rstctlCold path => Sys2Proof.Machine.execRstctlCold path s
  | .resetRelease manifest good => Sys2Proof.Machine.execResetRelease manifest good s
  | .fwready path => Sys2Proof.Machine.execFwready path s
  | .bootReadyTimeout => Sys2Proof.Machine.execBootReadyTimeout s
  | .bootwhyClr path => Sys2Proof.Machine.execBootwhyClr path s
  | .fabricPeerRequest port endpoint op addr data => Sys2Proof.Machine.execFabricPeerRequest port endpoint op addr data s
  | .directoryGet line => Sys2Proof.Machine.execDirectoryGet line s
  | .directoryPut line data => Sys2Proof.Machine.execDirectoryPut line data s
  | .directoryRecall line => Sys2Proof.Machine.execDirectoryRecall line s
  | .directoryInvalAck line => Sys2Proof.Machine.execDirectoryInvalAck line s
  | .cxlBackInvalidate port addr => Sys2Proof.Machine.execCxlBackInvalidate port addr s
  | .cxlCompletion port data poison => Sys2Proof.Machine.execCxlCompletion port data poison s
  | .hostCompletion data => Sys2Proof.Machine.execHostCompletion data s
  | .tdispMessage tdi next => Sys2Proof.Machine.execTdispMessage tdi next s
  | .spdmTdiWrite tdi word values => Sys2Proof.Machine.execSpdmTdiWrite tdi word values s
  | .spdmKeyLoad entry key1 key2 dbg => Sys2Proof.Machine.execSpdmKeyLoad entry key1 key2 dbg s
  | .spdmKeyRetire entry => Sys2Proof.Machine.execSpdmKeyRetire entry s
  | .spdmDbgWrite entry dbg => Sys2Proof.Machine.execSpdmDbgWrite entry dbg s
  | .sessionExpire => Sys2Proof.Machine.execSessionExpire s
  | .keyRetireReset owner => Sys2Proof.Machine.execKeyRetireReset owner s
  | .hostLinkDown => Sys2Proof.Machine.execHostLinkDown s
  | .cxlViral port => Sys2Proof.Machine.execCxlViral port s
  | .fabricFatal port => Sys2Proof.Machine.execFabricFatal port s
  | .thermalSample cluster degrees => Sys2Proof.Machine.execThermalSample cluster degrees s
  | .correctedError unit where_ addr bit => Sys2Proof.Machine.execCorrectedError unit where_ addr bit s
  | .dramRefresh die stack => Sys2Proof.Machine.execDramRefresh die stack s
  | .crossbarGrant die port => Sys2Proof.Machine.execCrossbarGrant die port s
  | .escapeChannelMove die index => Sys2Proof.Machine.execEscapeChannelMove die index s
  | .stopatFreeze => Sys2Proof.Machine.execStopatFreeze s
  | .adjArm value => Sys2Proof.Machine.execAdjArm value s
  | .adjScan slot => Sys2Proof.Machine.execAdjScan slot s
  | .adjLoad slot => Sys2Proof.Machine.execAdjLoad slot s
  | .adjRelease => Sys2Proof.Machine.execAdjRelease s
  | .repctlWrite value => Sys2Proof.Machine.execRepctlWrite value s
  | .replayInject => Sys2Proof.Machine.execReplayInject s
  | .scstailWrite write => Sys2Proof.Machine.execScstailWrite write s
  | .tempoAlign t1 t2 t3 t4 link => Sys2Proof.Machine.execTempoAlign t1 t2 t3 t4 link s
  | .readback value => Sys2Proof.Machine.execReadback value s
  | .memoryReadback addr => Sys2Proof.Machine.execMemoryReadback addr s
  | .tempowTargetReached core slot => Sys2Proof.Machine.execTempowTargetReached core slot s
  | .clockWindowBoundary core => Sys2Proof.Machine.execClockWindowBoundary core s
  | .hostMemoryWrite tdi addr data => Sys2Proof.Machine.execHostMemoryWrite tdi addr data s
  | .spdmSessionEstablish => Sys2Proof.Machine.execSpdmSessionEstablish s
  | .packageRailChange raised => Sys2Proof.Machine.execPackageRailChange raised s

end Sys2Proof.Machine
end

