-- ==== Sys2Proof/Machine/Turn.lean ====
section
/-!
DEFINITION. One turn of the machine (log 1): fetching (R86, R97), readiness and ranking of groups
(R17, R36, R314), the master edge and the core cycle (R3, R316, R319, R376), the stamping gates
(R378), and the turn that is taken when none is asked for.
-/

namespace Sys2Proof.Machine

noncomputable section

/-! ## Fetch (R86, R97) -/

/-- Bytes fetched, or the turn as it ends without them. -/
inductive Fetched where
  | ok (w : Work) (l : List Byte)
  | stop (w : Work)

/-- Bytes of memory outside near memory are the outside's: free values (log 9). -/
def Work.fetchFar (w : Work) (n : Nat) : List Byte × Work := w.farData n

/-- R98, R365: the fetch path takes a line from its home. -/
def Work.fetchFill (w : Work) (c key pa : Nat) : Work :=
  let r := w.homeRead key false (128 * (pa / 128)) 128
  r.2.modCore c fun k =>
    { k with ifetch := tins (fetchLine key pa) (BitVec.ofNat 1024 (leNat r.1)) k.ifetch }

/-- Two bytes of a line of the fetch path. -/
def fetchTwo (l : BitVec 1024) (pa : Nat) : List Byte := (upto 2 (pa % 128)).map (getByte l)

/-- The two bytes of a parcel, from a line that the fetch path takes now. -/
def Work.fetchFresh (w : Work) (c key pa : Nat) : List Byte × Work :=
  let w := w.fetchFill c key pa
  (fetchTwo (tget 0 (fetchLine key pa) (w.core c).ifetch) pa, w)

/-- R98: the two bytes of a parcel. Of a line that the fetch path holds, bytes written at the home
since come back old or new: a free value says which (log 9). -/
def Work.fetchNear (w : Work) (c key pa : Nat) : List Byte × Work :=
  match tfind (fetchLine key pa) (w.core c).ifetch with
  | none => w.fetchFresh c key pa
  | some l =>
    if fetchTwo l pa = (upto 2 pa).map (w.readByte key) then (fetchTwo l pa, w)
    else
      let d := w.draw
      if d.1.getLsbD 0 then d.2.fetchFresh c key pa else (fetchTwo l pa, d.2)

/-- R97, R209: fetch one parcel. -/
def Work.fetchParcel (w : Work) (c slot : Nat) (g : Group) (va : Nat) : Fetched :=
  let bad := fun (w : Work) => Fetched.stop (raiseTrap w c slot g 0x06 (natWord va) 0)
  let outside := fun (w : Work) =>
    let d := w.fetchFar 2
    Fetched.ok d.2 d.1
  match w.translate c g.owner va g.walked with
  | (.page e, w) =>
    if !w.permits g e .fetch then bad w
    else
      let pa := e.phys va
      match w.place pa with
      | .near _ _ _ =>
        if w.lineUpset (pa / 128) then
          .stop (raiseTrap (w.logLine (pa / 128)) c slot g 0x0B (natWord va) 0)
        else
          let r := w.fetchNear c e.key pa
          .ok r.2 r.1
      | .window _ => bad w
      | .nowhere => bad w
      | .host off => if w.hostMay g off 2 then outside w else bad w
      | .far _ _ => outside w
      | .fabric _ _ => outside w
  | (.miss, w) =>
    -- R18 names no wait for a fetch: the group keeps its issue entry (log 21)
    .stop ((w.requestWalk c g.owner va).setGrp c slot
      { g.unready with wait := .walk g.owner (va / 65536) })
  | (.pageFault, w) =>
    match pageFaultRes w c slot { g with walked := [] } va false 0 with
    | .hold w g park => .stop (holdGroup w c slot g park)
    | _ => .stop w
  | (.accessFault, w) => bad w

/-- R86: fetch an instruction: a parcel, and a second one when bit 0 of the first is set. -/
def Work.fetch (w : Work) (c slot : Nat) (g : Group) : Fetched :=
  match w.fetchParcel c slot g g.pc.toNat with
  | .stop w => .stop w
  | .ok w l =>
    if (l.getD 0 0).getLsbD 0 then
      match w.fetchParcel c slot g (g.pc + 2).toNat with
      | .stop w => .stop w
      | .ok w l' => .ok w (l ++ l')
    else .ok w l

/-! ## Readiness (R314) -/

/-- R344: the supervisor waits in MBPOP, and an event has come. -/
def Core.popReady (k : Core) (g : Group) : Bool :=
  match g.wait with
  | .none => true
  | .mbpop _ => decide (k.evq ≠ [])
  | _ => false

/-- R147: an operation whose flags decide about a trap holds the group. -/
def Core.gated (k : Core) (slot : Nat) : Bool :=
  k.xcs.any fun p => decide (p.2.slot = slot) && p.2.gate

/-- R275, R277: a run group issues while a class is in force and its budget lasts. -/
def Group.runReady (g : Group) : Bool :=
  match g.kind, g.run with
  | .run, some r => !r.classOver && decide (r.budget < 65536)
  | .run, none => false
  | _, _ => true

/-- R314, R318, R321, R329, R330, R350: the group is ready, but for the room of the cycle. -/
def Core.ready (k : Core) (slot : Nat) (g : Group) : Bool :=
  !k.mgn.quar && decide (k.blocked ≤ k.cycle) && g.entry && !g.parked && !g.stopped &&
    g.powered.isNone && !g.slewed && k.popReady g && decide (g.readyAt ≤ k.cycle) &&
    decide (g.live ≠ 0) && (g.haltAt.all fun a => decide (k.cycle < a + 4)) && !k.gated slot &&
    g.runReady

/-- R17: the quarters of a group. -/
def Group.quarters (g : Group) : Nat := (2 ^ (g.width / 16) - 1) * 2 ^ g.qbase

/-- R17: four instructions, from groups with disjoint quarters. -/
def Core.hasRoom (k : Core) (slot : Nat) (g : Group) : Bool :=
  decide (k.issued.length < 4) && !k.issued.contains slot && decide (k.usedQ &&& g.quarters = 0)

/-- R314: a group goes before another. -/
def rankBefore (cycle : Nat) (a b : Nat × Group) : Bool :=
  let class_ : Nat × Group → Nat := fun x =>
    if x.2.kind = .supervisor then 0 else if x.2.promo.isSome then 1 else 2
  let key : Nat × Group → Nat := fun x =>
    match x.2.promo with
    | some n => n
    | none => x.2.since.getD cycle
  decide (class_ a < class_ b) ||
    (decide (class_ a = class_ b) &&
      (decide (key a < key b) || (decide (key a = key b) && decide (a.1 < b.1))))

/-- R17, R314: the first group in rank order that fits the cycle. -/
def Core.next (k : Core) : Option Nat :=
  ((sortBy (rankBefore k.cycle) (k.groups.filter fun p => k.ready p.1 p.2)).find? fun p =>
    k.hasRoom p.1 p.2).map Prod.fst

/-- R53: a core issues at the master edge that begins its core cycle. -/
def Core.fresh (k : Core) (tempo : Nat) : Bool :=
  match k.began with
  | b :: _ => decide (b.1 = tempo)
  | [] => true

/-- The group of a slot is the next to issue in its core. -/
def Work.canIssue (w : Work) (c slot : Nat) : Bool :=
  w.running && !w.viralNow && (w.core c).fresh w.tempo &&
    (match w.grp c slot with
    | some g => (w.core c).ready slot g && (w.core c).hasRoom slot g
    | none => false) && decide ((w.core c).next = some slot)

/-! ## Issue -/

/-- Execute the instruction at the group's PC. A trap that an event left to be raised goes first. -/
def attempt (c slot : Nat) (s : State) : Host.Outcome State Fault Refusal :=
  let w : Work := { s.work with cur := (c, slot) }
  match w.grp c slot with
  | none => .next s
  | some g =>
    match g.raise with
    | some (cause, info, lanes) => .next (commit s (raiseTrap w c slot g cause info lanes))
    | none =>
      if g.pc.getLsbD 0 then .next (commit s (raiseTrap w c slot g 0x05 (zext64 g.pc) 0))
      else
        match w.fetch c slot g with
        | .stop w => .next (commit s w)
        | .ok w l =>
          match decodeBytes l with
          | .ok (i, _) => exec i (commit s w)
          | .error e =>
            .next (commit s (raiseTrap w c slot g 0x01
              (illegalInfo (BitVec.ofNat 32 (leNat l)) e.reason) 0))

/-- A group issues, if it may. -/
def issueTurn (c slot : Nat) (s : State) : Host.Outcome State Fault Refusal :=
  if s.work.canIssue c slot then attempt c slot s else .next s

/-- R314: a group that found no room in the cycle is ready only if its instruction would not have
been held: it is held now if all that the attempt changes is the group itself, which stays at the
same instruction. -/
def settleHeld (c slot : Nat) (s : State) : State :=
  let w : Work := { s.work with cur := (c, slot) }
  let k := w.core c
  match w.grp c slot with
  | none => s
  | some g =>
    if !k.ready slot g || k.issued.contains slot || k.hasRoom slot g then s
    else
      match attempt c slot s with
      | .next t =>
        match t.work.grp c slot with
        | some g' =>
          let fetched := match w.fetch c slot g with
            | .ok w _ => w
            | .stop _ => w
          if g'.pc = g.pc ∧ g'.readyAt = k.cycle + 1 ∧
            (t.work.setGrp c slot g).toMach = fetched.toMach then t
          else s
        | none => s
      | _ => s

/-- R314: the groups held in the cycles that end at the next master edge. -/
def settle (s : State) : State :=
  s.cores.foldl (fun s p =>
    if hasEdge p.2.edges ((s.tempo + 1) % 2 ^ 64) then
      (tkeys p.2.groups).foldl (fun s slot => settleHeld p.1 slot s) s
    else s) s

/-! ## The master edge (R376) -/

/-- R36, R314: at the end of a core cycle, the ready stretches and the issue opportunities; a cycle
in which a takeback or a guarded issue withholds issue changes neither (R342). -/
def Core.count (k : Core) : Core :=
  let sup := (k.groups.any fun p => decide (p.2.kind = .supervisor) && k.issued.contains p.1)
  if k.cycle < k.blocked then k
  else
    { k with
      groups := tmap (fun slot g =>
        if g.powered.isSome then g
        else if !k.ready slot g then g.unready
        else if k.issued.contains slot then g
        else
          let blocked := sup && decide (g.quarters % 2 = 1)
          { g with
            since := some (g.since.getD k.cycle)
            opps := if blocked then g.opps else g.opps + 1 }) k.groups }

/-- R53, R375: a core cycle begins: TEMPO and the die's lookup counts at its edge. -/
def Core.begin_ (k : Core) (tempo : Nat) (d : Die) : Core :=
  { k with
    cycle := k.cycle + 1, usedQ := 0, issued := [], unitRank := 0
    began := ((tempo, d.l2hit, d.l2miss) :: k.began).take 3 }

/-- R257, R316, R317, R319: a core cycle ends and the next begins. -/
def Work.coreCycle (w : Work) (c : Nat) : Work :=
  let w := (w.mxRead c).modCore c fun k => k.count.unlockEnded.begin_ w.tempo (w.die (Config.dieOf c))
  match (w.core c).mx.running with
  | some o => w.debit c (mxWeight o.fmt)
  | none => w

/-- R316: BUD is added to CNT at every master edge. -/
def Cluster.refill (k : Cluster) : Cluster := { k with pacnt := min (k.pacnt + k.pabud) 0xFFFFFF }

/-- R3, R316, R319, R334, R376: one master edge. -/
def Work.edge (w : Work) : Work :=
  let w : Work := { w with
    tempo := (w.tempo + 1) % 2 ^ 64, clusters := tmap (fun _ k => k.refill) w.clusters
    dies := tmap (fun _ d => d.startWalks) w.dies, obs := { w.obs with edgeNew := true } }
  let w := (w.cores.filter fun p => hasEdge p.2.edges w.tempo).foldl
    (fun w p => w.coreCycle p.1) w
  if w.tempo % 2 = 0 then w.netCycle else w

/-- The end of an edge, and what goes before the next: a recorded arrival that is due (R389), the
freezes (R384, R391, R401, R416). -/
def edgeTurn (s : State) : Host.Outcome State Fault Refusal :=
  let w := s.work
  if !w.running then .next s
  else if w.dueEntry.isSome then execReplayInject s
  else if w.stopDue then execStopatFreeze s
  else if w.obs.freezeDue then .next (commit s w.freeze)
  else if w.starved then
    .next (commit s
      ({ w with obs := { w.obs with repctl := w.obs.repctl &&& ~~~0x20#64 } } : Work).freeze)
  else
    let t := settle s
    .next (commit t t.work.edge)

/-! ## Events -/

/-- What the management port does whether or not the package runs (R377, R383, R388, R417, R418). -/
def observes (i : Instr) : Bool :=
  match i with
  | .adjArm _ => true
  | .adjScan _ => true
  | .adjLoad _ => true
  | .adjRelease => true
  | .repctlWrite _ => true
  | .scstailWrite _ => true
  | .readback _ => true
  | .memoryReadback _ => true
  | .packageRailChange _ => true
  | .resetRelease _ _ => true
  | .registerWrite path offset _ _ => decide (path = .management) && decide (0x800000 ≤ offset)
  | _ => false

/-- R417, R420, R423: management-port writes that take effect at once while no edge can admit them:
a reset at any time, CLR while the machine is in reset or in minimal mode (log 24). -/
def Work.unclocked (w : Work) (i : Instr) : Bool :=
  match i with
  | .rstctlWarm path => decide (path = .management)
  | .rstctlCold path => decide (path = .management)
  | .bootwhyClr path =>
    decide (path = .management) && (decide (w.phase = .inReset) || decide (w.phase = .failed))
  | _ => false

/-- R342: the core to which an event is addressed: a takeback holds it until issue resumes. -/
def addressed (i : Instr) : Option Nat :=
  match i with
  | .parkedGroupReclaim c => some c
  | .groupPromote c _ => some c
  | .loadLand c _ => some c
  | .xcResultLand c _ => some c
  | .tbufAccessComplete c _ => some c
  | .storeAck c _ => some c
  | .fillReturn c _ => some c
  | .groupRetire c _ => some c
  | .amArrival c => some c
  | .handlerSpawn c => some c
  | .signatureReceive c => some c
  | .signatureAckReceive c => some c
  | .monitorWakeArrive c => some c
  | .waitcmpTimeout c _ => some c
  | .monfullBackoffEnd c _ => some c
  | .externalWakeArrive c => some c
  | .haltArrive c _ => some c
  | .tempowTargetReached c _ => some c
  | _ => none

/-- R342: a takeback withholds the events of a core. -/
def Core.caught (k : Core) : Bool := decide (k.cycle < k.caughtTo)

/-- The core of a segment's engine. -/
def Work.segCore (w : Work) (tensor seg : Nat) : Option Nat :=
  (tfind tensor w.tensors).bind fun t => (tfind seg t.segs).map (·.core)

/-- The cores whose buffers an engine of a core reaches for a team: the core, and where it is another,
the home core of the team, whose SBUF it is (R20). -/
def Work.engineCores (w : Work) (c : Nat) (launch lin : Nat) : List Nat :=
  match w.team launch lin with
  | some t => if t.home = c then [c] else [c, t.home]
  | none => [c]

/-- R61: the cores whose buffers an event accesses, and the place of its unit. -/
def Work.unitOf (w : Work) (i : Instr) : List (Nat × Nat) :=
  let sweep := fun n s =>
    match w.segCore n s, tfind n w.tensors with
    | some c, some t => (w.engineCores c t.launch t.lin).map fun c => (c, 2)
    | _, _ => []
  match i with
  | .tbufAccessComplete c id =>
    ((w.core c).taccs.filter fun x => decide (x.1 = id)).map fun x => (x.2.core, unitPlace x.2.slot)
  | .copyRecordDone c =>
    match (w.core c).copying with
    | some x => (w.engineCores c x.launch x.lin).map fun c => (c, 1)
    | none => [(c, 1)]
  | .sweepOpeningBoundary t s => sweep t s
  | .sweepRunStep t s => sweep t s
  | .runWriteBack t s => sweep t s
  | .sweepBoundary t s => sweep t s
  | .sweepClosingBoundary t s => sweep t s
  | .matrixOpStart c => [(c, 3)]
  | .matrixBlockWrite c => [(c, 3)]
  | .matrixOpEnd c => [(c, 3)]
  | .matrixSplit c _ => [(c, 3)]
  | _ => []

/-- R376: the network and the slices advance on the even master edges. -/
def onNetwork (i : Instr) : Bool :=
  match i with
  | .crossbarGrant _ _ => true
  | .escapeChannelMove _ _ => true
  | .sliceRequest _ _ => true
  | .msUnitAccess _ _ => true
  | .orderedUpdateArrive _ _ => true
  | .orderedFlush _ _ _ => true
  | _ => false

/-- An event may take place at this edge: on the network at an even one (R376); at a buffer when no
unit that comes later in the order of R61 has been there in this core cycle. -/
def Work.mayAct (w : Work) (i : Instr) : Bool :=
  (!onNetwork i || decide (w.tempo % 2 = 0)) &&
    (w.unitOf i).all fun u => decide (u.2 = 3) || decide ((w.core u.1).unitRank ≤ u.2)

/-- R61: an event of a unit: what the matrix engine reads in this cycle goes before what is ordered
after it. -/
def unitTurn (i : Instr) (s : State) : Host.Outcome State Fault Refusal :=
  let w := s.work
  if !w.mayAct i then .next s
  else
    match w.unitOf i with
    | [] => exec i s
    | l =>
      let s := commit s (l.foldl (fun w u => if 3 ≤ u.2 then w.mxRead u.1 else w) w)
      match exec i s with
      | .next t =>
        if t = s then .next s
        else .next (commit t (l.foldl (fun w u => w.atRank u.1 u.2) t.work))
      | x => x

/-- An event of the running package that is no arrival: held while a takeback withholds the events of
its core, and behind those already held (R342). -/
def coreTurn (i : Instr) (s : State) : Host.Outcome State Fault Refusal :=
  let w := s.work
  match addressed i with
  | some c =>
    if (w.core c).caught || decide ((w.core c).heldEv ≠ []) then
      .next (commit s (w.modCore c fun k => { k with heldEv := k.heldEv ++ [i] }))
    else unitTurn i s
  | none => unitTurn i s

/-- R378, R389: an arrival at its gate; in replay it is discarded, but for a takeback that is detected
live (R391), at an edge of its core's clock. -/
def arrive (i : Instr) (port : Nat) (s : State) : Host.Outcome State Fault Refusal :=
  if s.work.repMode = 1 then
    if port = 27 then
      if (caughtCore i).any s.work.clocked then exec i s else .next s
    else
      match i with
      | .cxlCompletion p data _ => replayCompletion p data s
      | _ => .next s
  else
    match s.work.enterGate i port with
    | some w => exec i (commit s w)
    | none => .next (commit s (s.work.waitGate i port))

/-- What comes from outside: an observation; an arrival, which waits at its gate while the package is
frozen; takebacks do not occur then (R385). -/
def actTurn (i : Instr) (s : State) : Host.Outcome State Fault Refusal :=
  let w := s.work
  if observes i then exec i s
  else
    match arrivalPort i with
    | none => .next s
    | some p =>
      if w.running then arrive i p s
      else if w.unclocked i then exec i s
      else if (w.phase = .booting ∨ w.phase = .ready) ∧ w.repMode ≠ 1 ∧ p ≠ 27 then
        .next (commit s (w.waitGate i p))
      else .next s

/-- An event that the plan asks for: no arrival and no observation (log 1). -/
def planEvent (i : Instr) (s : State) : Host.Outcome State Fault Refusal :=
  if observes i || (arrivalPort i).isSome then .next s else coreTurn i s

/-! ## Events that may be due -/

/-- Events of a core whose time its state fixes. -/
def Core.timed (c : Nat) (k : Core) : List Instr :=
  let slots := tkeys k.groups
  [[Instr.clockWindowBoundary c, Instr.tbwinRestart c, Instr.paRotate c],
    slots.map (Instr.haltArrive c), slots.map (Instr.waitcmpTimeout c),
    slots.map (Instr.monfullBackoffEnd c), slots.map (Instr.tempowTargetReached c),
    ((k.xcs.filter fun x => (x.2.due.map fun t => decide (t ≤ k.cycle)).getD false).map
      Prod.fst).map (Instr.xcResultLand c),
    slots.map (Instr.groupRetire c), slots.map (Instr.groupPromote c),
    [Instr.parkedGroupReclaim c]].flatten

/-- R257, R261: the events of a matrix engine. -/
def Core.mxDue (c : Nat) (k : Core) : List Instr :=
  let bad := (k.mx.running.bind (·.bad)).map fun x => Instr.matrixSplit c (x + 1)
  [Instr.matrixBlockWrite c, Instr.matrixOpEnd c] ++ bad.toList ++
    [Instr.matrixSplit c 0, Instr.matrixOpStart c]

/-- Events of a core that latencies which the spec leaves open have brought, but for accesses of
buffers. -/
def Core.brought (c : Nat) (k : Core) : List Instr :=
  [(tkeys k.loads).map (Instr.loadLand c), (tkeys k.xcs).map (Instr.xcResultLand c),
    k.inbox.acks.map (Instr.storeAck c), (tkeys k.fills).map (Instr.fillReturn c),
    [Instr.copyKickStart c, Instr.amArrival c, Instr.handlerSpawn c, Instr.signatureReceive c,
      Instr.signatureAckReceive c, Instr.monitorWakeArrive c, Instr.externalWakeArrive c]].flatten

/-- Accesses of the supervisor group, or else of the vector unit by ascending slot (R61). -/
def Core.tbufDue (c : Nat) (k : Core) (sup : Bool) : List Instr :=
  ((sortBy (fun a b => decide (a.2.slot < b.2.slot))
    (k.taccs.filter fun x => decide (x.2.slot = 0) == sup)).map Prod.fst).map
      (Instr.tbufAccessComplete c)

/-- Events of a die whose network cycle its state fixes. -/
def Die.timed (d : Nat) (x : Die) : List Instr :=
  let n := x.net.length
  [(tkeys x.units).flatMap fun u => (x.unit u).flushq.map (Instr.orderedFlush d u),
    (tkeys x.slices).map (Instr.sliceRequest d),
    (tkeys x.units).map (Instr.msUnitAccess d),
    (upto n).map (Instr.escapeChannelMove d),
    (if n = 0 then [] else upto 43).map (Instr.crossbarGrant d)].flatten

/-- The events of a die that may be due. -/
def Die.due (d : Nat) (x : Die) : List Instr :=
  if x.walks = [] then [] else [Instr.walkComplete d]

/-- The events of a segment that may be due. -/
def segDue (n s : Nat) : List Instr :=
  [Instr.runGroupPlace n s, Instr.sweepOpeningBoundary n s, Instr.runWriteBack n s,
    Instr.classBudgetExhausted n s, Instr.sweepRunStep n s, Instr.sweepBoundary n s,
    Instr.sweepClosingBoundary n s, Instr.sweepEngineFault n s]

/-- Refresh timers that have run out (R369). -/
def Work.refreshes (w : Work) : List Instr :=
  (upto 8).flatMap fun d => ((upto 3).filter (w.refreshDue d)).map (Instr.dramRefresh d)

/-- Every event whose time the state fixes: none of them may be passed over by an edge (R377). -/
def Work.timed (w : Work) : List Instr :=
  [[Instr.bootReadyTimeout, Instr.sessionExpire, Instr.drainDeadline, Instr.graceDeadline,
      Instr.saveDeadline],
    (tkeys w.retiring).map Instr.keyRetireReset, (tkeys w.clusters).map Instr.rampEnd,
    (tkeys w.clusters).map Instr.paPark, (tkeys w.clusters).map Instr.paRelease,
    w.cores.flatMap fun p => p.2.timed p.1, w.cores.flatMap fun p => p.2.mxDue p.1,
    w.tensors.flatMap fun p => (tkeys p.2.segs).map (Instr.classBudgetExhausted p.1),
    w.dies.flatMap fun p => p.2.timed p.1, w.refreshes,
    w.teams.map fun p => Instr.teamRetire p.2.launch p.2.lin,
    [Instr.launchAdmit, Instr.gangPlace]].flatten

/-- R369: the arriving updates of a network cycle, which its triggers of every kind precede; R321,
R323: the admissions of a master cycle, which all its requests precede. -/
def Work.late (w : Work) : List Instr :=
  (w.dies.flatMap fun p => (tkeys p.2.units).map (Instr.orderedUpdateArrive p.1)) ++
    (tkeys w.dies).map Instr.slewAdmit

/-- Every event that may be due in the running package. -/
def Work.due (w : Work) : List Instr :=
  [w.cores.flatMap fun p => p.2.brought p.1, w.cores.flatMap fun p => p.2.tbufDue p.1 true,
    w.cores.map fun p => Instr.copyRecordDone p.1,
    w.tensors.flatMap fun p => (tkeys p.2.segs).flatMap (segDue p.1),
    w.timed, w.cores.flatMap fun p => p.2.tbufDue p.1 false,
    w.dies.flatMap fun p => p.2.due p.1,
    w.teams.map fun p => Instr.teamSave p.2.launch p.2.lin,
    w.teams.map fun p => Instr.teamRestore p.2.launch p.2.lin,
    (tkeys w.launches).map Instr.gridbarComplete, (tkeys w.launches).map Instr.gridEnd,
    [Instr.tlbinvDone]].flatten

/-! ## The turn -/

/-- No takeback withholds an event. -/
def Work.unheld (w : Work) (i : Instr) : Bool :=
  match addressed i with
  | some c => !(w.core c).caught && decide ((w.core c).heldEv = [])
  | none => true

/-- The first event that changes the state (log 1). -/
def firstEvent (s : State) : List Instr → Option State
  | [] => none
  | i :: rest =>
    if s.work.unheld i then
      match unitTurn i s with
      | .next t => if t = s then firstEvent s rest else some t
      | _ => firstEvent s rest
    else firstEvent s rest

/-- R61: what the matrix engine of a core does in this cycle, before an access of the vector unit there.
-/
def matrixFirst (i : Instr) (s : State) : Option State :=
  let w := s.work
  (w.unitOf i).findSome? fun u => if 3 < u.2 then firstEvent s ((w.core u.1).mxDue u.1) else none

/-- R342: the first of the events that a takeback has held, once issue has resumed. -/
def heldTurn (s : State) : Option (Host.Outcome State Fault Refusal) :=
  s.cores.findSome? fun p =>
    match p.2.heldEv with
    | [] => none
    | i :: rest =>
      if p.2.caught || !s.work.mayAct i then none
      else
        match matrixFirst i s with
        | some t => some (.next t)
        | none => some (unitTurn i (commit s (s.work.setCore p.1 { p.2 with heldEv := rest })))

/-- The core and slot that issue next: the lowest core that has a group to issue. -/
def Work.nextIssue (w : Work) : Option (Nat × Nat) :=
  if w.running && !w.viralNow then
    w.cores.findSome? fun p => if p.2.fresh w.tempo then p.2.next.map fun n => (p.1, n) else none
  else none

/-- R378: the gates have admitted what this edge admits. -/
def closeGates (s : State) : State := { s with obs := { s.obs with edgeNew := false } }

/-- R378, R389: what the gates admit at this edge, before anything else: a recorded arrival that is
due, or one that has waited. -/
def gateTurn (s : State) : Option (Host.Outcome State Fault Refusal) :=
  if s.work.dueEntry.isSome then some (execReplayInject s)
  else if !s.obs.edgeNew then none
  else
    match (if s.work.repMode = 1 then none else s.work.gateNext) with
    | some p => some (exec p.2 (commit s p.1))
    | none => some (.next (closeGates s))

/-- R377: what the state fixes for this edge and has not been done. -/
def timedTurn (s : State) : Option (Host.Outcome State Fault Refusal) :=
  if !s.work.running then none
  else
    match gateTurn s with
    | some x => some x
    | none =>
      match heldTurn s with
      | some x => some x
      | none => (firstEvent s s.work.timed).map .next

/-- What has to be done before an edge ends: that, the issue of every group that is selected, and the
arriving updates. -/
def forcedTurn (s : State) : Option (Host.Outcome State Fault Refusal) :=
  match timedTurn s with
  | some x => some x
  | none =>
    match s.work.nextIssue with
    | some p => some (issueTurn p.1 p.2 s)
    | none => (firstEvent s s.work.late).map .next

/-- What has to go before an arrival: those that wait at gates of no higher port (R378). -/
def beforeArrival (p : Nat) (s : State) : Option (Host.Outcome State Fault Refusal) :=
  let w := s.work
  if w.repMode = 1 then none
  else
    match w.gateNext with
    | some (v, j) => if (arrivalPort j).getD 0 ≤ p then some (exec j (commit s v)) else none
    | none => none

/-- What has to go before an event of the plan: what the gates admit at this edge (R378); what the
matrix engine does in this cycle before an access of the vector unit (R61); everything of the edge
before a freeze (R384). -/
def beforeEvent (i : Instr) (s : State) : Option (Host.Outcome State Fault Refusal) :=
  if i = .stopatFreeze then forcedTurn s
  else
    match gateTurn s with
    | some x => some x
    | none => (matrixFirst i s).map .next

/-- The turn taken when the plan asks for none: what the state fixes, an event that is due, an
issue, the arriving updates, or the edge. -/
def idleTurn (s : State) : Host.Outcome State Fault Refusal :=
  let w := s.work
  match timedTurn s with
  | some x => x
  | none =>
    match firstEvent s w.due with
    | some t => .next t
    | none =>
      match w.nextIssue with
      | some (c, slot) => issueTurn c slot s
      | none =>
        match firstEvent s w.late with
        | some t => .next t
        | none => edgeTurn s

/-- A turn of the package: the one that its plan brings next, or its own choice. What the state fixes
to go before it goes first, and the plan waits. -/
def planTurn (s : State) : Host.Outcome State Fault Refusal :=
  if !s.work.running then .next s
  else
    match s.plan with
    | [] => idleTurn s
    | t :: rest =>
      let u : State := { s with plan := rest }
      match t with
      | .issue c slot =>
        match timedTurn s with
        | some x => x
        | none => issueTurn c slot u
      | .event i =>
        match beforeEvent i s with
        | some x => x
        | none => planEvent i u
      | .edge =>
        match forcedTurn s with
        | some x => x
        | none => edgeTurn u

/-- One turn: what comes from outside now, or a turn of the package. -/
def turn (s : State) : Host.Outcome State Fault Refusal :=
  match s.agenda with
  | [] => planTurn s
  | t :: rest =>
    let u : State := { s with agenda := rest }
    match t with
    | .pass => planTurn u
    | .act i =>
      match (if s.work.running then (arrivalPort i).bind fun p => beforeArrival p s else none) with
      | some x => x
      | none => actTurn i u
    | .upset c unit row => .next { u with cores := tmod c (fun k => k.upsetAt unit row) s.cores }
    | .upsetLine line => .next (commit u (u.work.upsetLine line))

end

end Sys2Proof.Machine
end

