-- ==== Sys2Proof/Machine/Step.lean ====
section
/-!
DEFINITION. The step of the machine, and the state in which a given instruction is the next one.
-/

namespace Sys2Proof.Machine

noncomputable section

/-- One step: one turn (log 1). -/
def step (s : State) : Host.Outcome State Fault Refusal := turn s

/-- Where `withFetchWord` puts the instruction: virtual and physical. -/
def fetchBase : Nat := 0x10000

/-- The launch that the placed group belongs to: one team of one group. -/
def fetchRecord : BitVec 1024 :=
  BitVec.ofNat 1024 (2 ^ 128 + 2 ^ 160 + 2 ^ 192 + 2 ^ 541)

def fetchLaunch : Launch :=
  { record := fetchRecord, addr := 0, pri := 0, owner := 0, placed := 1, retired := 0
    complete := false, gangp := 1, gangf := 0, dropped := 0, rflags := 0, gen := 0, swap := false
    waitFull := false, heldAm := [], bookPos := 0, cores := [0], gone := [] }

def fetchTeam : Team :=
  { launch := 1, lin := 0, home := 0, twin := false, sb := 0, wb := [], ab := [], cb := []
    tent := 0, retired := 0, bars := [], ringRel := [], gang := 0, gangPos := 0, gangSz := 1
    gangArr := 0, gridArr := 0, handles := [], heldAm := [], late := [], stop := none
    saving := false, resident := true, image := 0, recs := [], savedMx := [], savedKicks := []
    waitingRestore := false }

/-- A user group of 16 lanes, all of them live, about to issue at the instruction. -/
def fetchGroup : Group :=
  { Group.blank with
    kind := .user, launch := 1, width := 16, nv := 64
    live := 0xFFFF, exec := 0xFFFF, pc := BitVec.ofNat 52 fetchBase }

/-- The translation of its page. -/
def fetchPage : TlbEnt :=
  { owner := 0, size := 0, vpn := fetchBase / 65536, ppn := fetchBase / 65536, r := true, w := true
    x := true, sup := false, ro := false, key := 0 }

/-- A core that holds the group in slot 1, and whose supervisor group waits in MBPOP. -/
def fetchCore : Core :=
  { Core.init with
    good := true, groups := [(0, { Group.supervisor with wait := .mbpop 0 }), (1, fetchGroup)]
    tlb := [(0, fetchPage)] }

/-- `s` with an instruction stored where the next step fetches: a program has been loaded, its
launch placed on core 0, and the next turn issues its group (log 7). `nbits` is at most 32, the
longest instruction; the bits above it are zero. -/
def State.withFetchWord (s : State) (nbits w : Nat) : State :=
  { s with
    phase := .ready, nmsplit := 32, agenda := [], plan := [.issue 0 1]
    obs := { s.obs with frozen := false, freezeDue := false, edgeNew := false }
    keys := tins 0 { KeyEnt.init with valid := true } s.keys
    keyed := tdel (fetchBase / 32) s.keyed
    launches := tins 1 fetchLaunch s.launches
    teams := tins (teamKey 1 0) fetchTeam s.teams
    cores := tins 0 fetchCore s.cores
    mem := (cellsAt fetchBase 4 (w % 2 ^ nbits)).foldl (fun m c => memWrite m c.1 c.2) s.mem }

end

end Sys2Proof.Machine
end

