-- ==== Sys2Proof/Machine/Observe.lean ====
section
/-!
DEFINITION. Views of the state that the statements about it are made in: the registers of a group
by bank, what of a group and of the machine an ordinary instruction leaves alone.
-/

namespace Sys2Proof.Machine

/-- A scalar register of either bank (R54). -/
def Group.sIn (g : Group) (b : Bool) (r : Nat) : Word := tget 0 r (if b then g.hsreg else g.sreg)

/-- A mask register of either bank (R54). -/
def Group.mIn (g : Group) (b : Bool) (r : Nat) : Word := tget 0 r (if b then g.hmreg else g.mreg)

/-- Everything of a group but its registers, its flags and the marks of poisoned registers. -/
def Group.apart (g : Group) : Group :=
  { g with sreg := [], hsreg := [], vreg := [], mreg := [], hmreg := [], sfl := 0, poison := [] }

/-- What of a group is neither a register, nor the PC, nor a matter of scheduling: EXEC, LIVE, FMT,
FLG, the mask stack, the counters, the E-registers, and all the rest. -/
def Group.fixed (g : Group) : Group :=
  { g.apart with
    pc := 0, lastPc := 0, readyAt := 0, held := false, since := none, opps := 0, promo := none
    wait := .none, left := none, rel := none, half := 0, walked := [], skid := 0, hpc := 0
    run := g.run.map fun r => { r with budget := 0 } }

/-- No register of the group awaits a result, is held by the matrix engine, or is poisoned. -/
structure Group.Quiet (g : Group) : Prop where
  flights : g.flights = []
  pend : g.pend = []
  locked : g.locked = []
  deferred : g.deferred = []
  poison : g.poison = []

/-- The group once every write it has in flight has taken its register: no latency is above 8
(R100). -/
def Group.settled (g : Group) : Group := g.age 8

/-- The machine but for its cores and clusters. -/
def Mach.rest (m : Mach) : Mach := { m with cores := [], clusters := [] }

/-- A core but for its groups and the issue slots of its cycle. -/
def Core.rest (k : Core) : Core := { k with groups := [], usedQ := 0, issued := [] }

/-- A cluster but for its power allowance and the time of its last issue. -/
def Cluster.rest (k : Cluster) : Cluster := { k with pacnt := 0, lastUser := none }

end Sys2Proof.Machine
end

