-- ==== Sys2Proof/Safety.lean ====
section
/-!
DEFINITION. What counts as a safe run: the invariant that every step keeps, and runs.
-/

namespace Sys2Proof.Machine

/-- Near memory stands in its canonical form. -/
def State.Inv (s : State) : Prop := Memory.wf s.mem = true

/-- `t` is reached from `s` by steps that all answer a next state. -/
inductive Reaches : State → State → Prop where
  | refl (s : State) : Reaches s s
  | tail {s t u : State} : Reaches s t → step t = .next u → Reaches s u

/-- A state from which no run stops. -/
def State.Safe (s : State) : Prop :=
  ∀ t, Reaches s t → ∃ u, step t = .next u

end Sys2Proof.Machine
end

