-- ==== Sys2Proof/Certificates/Slice0/Obligations.lean ====
section
/-!
DEFINITION. Statements about the model, for the provers: what each instruction and event does when
it completes, what it leaves alone, where traps go, and what every step keeps.
-/

open Sys2Proof Sys2Proof.Machine

/-! ## Words of the statements -/

namespace Sys2Proof.Claim

/-- The turn executes group `g`, which holds slot `n` of core `c`; none of its registers awaits a
result, is held by the matrix engine, or is poisoned. -/
structure Ready (s : State) (c n : Nat) (g : Group) : Prop where
  cur : s.cur = (c, n)
  here : s.work.grp c n = some g
  quiet : g.Quiet

/-- Registers that may differ: scalars, masks, vectors, and the flags SFL. -/
structure Dst where
  ss : List Nat := []
  ms : List Nat := []
  vs : List Nat := []
  fl : Bool := false

/-- `h` has the registers of `g`, but for those named; a scalar or mask register is named in the
bank that `g` uses (R54). -/
structure Keeps (g h : Group) (d : Dst) : Prop where
  scalars : ∀ b r, ¬(r ∈ d.ss ∧ b = g.banked .scalar r) → h.sIn b r = g.sIn b r
  masks : ∀ b r, ¬(r ∈ d.ms ∧ b = g.banked .mask r) → h.mIn b r = g.mIn b r
  vectors : ∀ r l, l < 64 → r ∉ d.vs → h.v r l = g.v r l
  flags : d.fl = false → h.sfl = g.sfl

/-- Between `s` and `t` nothing differs but this: the group in slot `n` of core `c`, the issue slots
of the core's cycle, the power allowance of its cluster, and of the core what `k` shows. -/
structure Around (s t : State) (c n : Nat) (k : Core) : Prop where
  mem : t.mem = s.mem
  rest : t.toMach.rest = s.toMach.rest
  cores : ∀ j, j ≠ c → t.work.core j = s.work.core j
  core : (t.work.core c).rest = k.rest
  groups : ∀ m, m ≠ n → t.work.grp c m = s.work.grp c m
  clusters : ∀ j, j ≠ Config.clusterOf c → t.work.cluster j = s.work.cluster j
  cluster : (t.work.cluster (Config.clusterOf c)).rest = (s.work.cluster (Config.clusterOf c)).rest

/-- The same, the rest of the core being as it was. -/
def Elsewhere (s t : State) (c n : Nat) : Prop := Around s t c n (s.work.core c)

/-- `i` completes: the group moves to `pc`, only the registers `d` differ, `e` gives the rest of the
group and `k` that of its core, nothing else changes, and once the writes have landed `P` holds of
the group. -/
def CompletesIn (s : State) (c n : Nat) (k : Core) (g : Group) (i : Instr) (pc : Pc) (e : Group)
    (d : Dst) (P : Group → Prop) : Prop :=
  ∃ t h, exec i s = .next t ∧ t.work.grp c n = some h ∧ h.pc = pc ∧ Around s t c n k ∧
    h.settled.fixed = e.fixed ∧ Keeps g h.settled d ∧ P h.settled

/-- The same, the core being as it was. -/
def Completes (s : State) (c n : Nat) (g : Group) (i : Instr) (pc : Pc) (e : Group) (d : Dst)
    (P : Group → Prop) : Prop :=
  CompletesIn s c n (s.work.core c) g i pc e d P

/-- A 32-bit word that writes scalar register `d` and nothing else. -/
def ToScalar (s : State) (c n : Nat) (g : Group) (i : Instr) (d : Nat) (v : Word) : Prop :=
  Completes s c n g i (g.pc + 4) g { ss := [d] } fun h => h.s d = v

/-- An instruction of `len` bytes that writes the chosen lanes of vector register `d` and nothing
else. -/
def ToVector (s : State) (c n : Nat) (g : Group) (i : Instr) (len : Pc) (d : Nat) (lanes : Word)
    (v : Nat → Lane) : Prop :=
  Completes s c n g i (g.pc + len) g { vs := [d] } fun h =>
    ∀ l, l < 64 → h.v d l = if bit lanes l then v l else g.v d l

/-- The trap with a cause, EINFO and ELANES is taken, by the group as it stands in `g` (R325 to
R329); it uses the group's quarters and an issue of the cycle (R17), and debits nothing (log 21). -/
def Traps (s : State) (c n : Nat) (g : Group) (i : Instr) (cause : Nat) (info lanes : Word) : Prop :=
  exec i s = .next (commit s ((s.work.account c n g 0).takeTrap c n g cause info lanes))

/-- The group waits neither for loads nor in a WAIT (R18, R134). -/
def Unwaiting (g : Group) : Prop := (∀ l, g.wait ≠ .load l) ∧ ∀ m k, g.wait ≠ .counters m k

/-- R144, R50, R74: with the flags `r` raised, in the lanes `l` those whose trap is enabled: FLG takes
them; then the destination is written, or the trap of the lowest enabled one is taken and nothing is
written. -/
def Flagged (s : State) (c n : Nat) (g : Group) (i : Instr) (len : Pc) (r : BitVec 7) (l : Word)
    (d : Dst) (P : Group → Prop) : Prop :=
  let en := r &&& fmtEnables g.format
  let g' := { g with flg := g.flg ||| r }
  (en = 0 → Completes s c n g i (g.pc + len) g' d P) ∧
  (en ≠ 0 → s.work.flagsPending c n = false → Traps s c n g' i (0x10 + lowFlag en) 0 l)

/-- `r` are the flags raised in any active lane, and `t` the active lanes that raise an enabled one,
where lane `l` raises `fl l`. -/
def Raises (g : Group) (fl : Nat → BitVec 7) (r : BitVec 7) (t : Word) : Prop :=
  (∀ k, r.getLsbD k = true ↔ ∃ l < 64, bit g.exec l = true ∧ (fl l).getLsbD k = true) ∧
  ∀ l < 64, bit t l = true ↔ bit g.exec l = true ∧ fl l &&& fmtEnables g.format ≠ 0

/-- The vector registers of an operand. -/
def regsOf : Src → List Nat
  | .vec r => [r]
  | .pair r => [r, r + 1]
  | _ => []

/-- What a vector operand holds of a 64-bit value. -/
def held (d : Src) (x : Word) : Word :=
  match d with
  | .vec _ => (x.truncate 32 : Lane).zeroExtend 64
  | _ => x

/-- R144, R145: each active lane computes `f` from FMT, `a`, `b` and the old `d`, and writes `d`;
the flags raised in any of them go to FLG or trap. -/
def Elementwise (s : State) (c n : Nat) (g : Group) (i : Instr) (len : Pc) (d a b : Src)
    (f : LaneFn) : Prop :=
  d.ok g = true → a.ok g = true → b.ok g = true →
  let r := fun l => f g.format (a.val g l) (b.val g l) (d.val g l)
  ∀ fl t, Raises g (fun l => (r l).2) fl t →
    Flagged s c n g i len fl t { vs := regsOf d } fun h =>
      ∀ l < 64, d.val h l = if bit g.exec l then held d (r l).1 else d.val g l

/-- R147: the operation issues. Its destination is pending, XC counts it, and its result with its
flags, or its trap, will land. -/
def Deferred (s : State) (c n : Nat) (g : Group) (i : Instr) (can : BitVec 7) (d a b : Src)
    (f : LaneFn) : Prop :=
  d.ok g = true → a.ok g = true → b.ok g = true → g.xc < 63 →
  let r := fun l => f g.format (a.val g l) (b.val g l) (d.val g l)
  let k := s.work.core c
  let en := fmtEnables g.format
  ∀ fl t, Raises g (fun l => (r l).2) fl t →
    let x : XcOp :=
      { slot := n
        writes := if fl &&& en = 0 then landWrites d g.exec fun l => (r l).1 else []
        flags := fl, counted := true
        trap := if fl &&& en = 0 then none else some (0x10 + lowFlag (fl &&& en), t, g.pc)
        flights := [], due := none
        gate := decide (can &&& en ≠ 0) }
    CompletesIn s c n { k with opSeq := k.opSeq + 1, xcs := tins k.opSeq x k.xcs } g i (g.pc + 4)
      { g with
        xc := g.xc + 1
        pend := (regsOf d).map fun q =>
          { kind := .vector, reg := q, bank := false, lanes := g.exec, op := k.opSeq } } {}
      fun _ => True

/-- `i` issues into the memory system: its group moves on by `len` bytes, `e` gives the rest of it,
its registers, every other group and memory are as they were. -/
def Issues (s t : State) (c n : Nat) (g : Group) (len : Pc) (e : Group) : Prop :=
  (∃ h, t.work.grp c n = some h ∧ h.pc = g.pc + len ∧ h.settled.fixed = e.fixed ∧
    Keeps g h.settled {}) ∧
  t.mem = s.mem ∧ ∀ j m, (j, m) ≠ (c, n) → t.work.grp j m = s.work.grp j m

/-- A request of core `c` is on its way in the network of its die. -/
def Sent (t : State) (c : Nat) (r : Req) : Prop :=
  ∃ p ∈ (t.work.die (Config.dieOf c)).net, p.msg = .req r

/-- The group is a user group of a team that stands on one core. -/
structure Member (s : State) (g : Group) (x : Team) : Prop where
  kind : g.kind = .user
  team : s.work.team g.launch g.lin = some x
  launch : x.launch = g.launch
  lin : x.lin = g.lin
  single : x.twin = false

/-- R190, R203: the release that the executing group makes at a scope has nothing to wait for, or its
signature and those that its core published before it are acknowledged. -/
def Released (s : State) (g : Group) (scope : Nat) : Prop :=
  s.work.relScope g scope = 0 ∨
    ∃ r, g.rel = some r ∧ r.phase = 2 ∧ r.acks = 0 ∧
      ∀ token ∈ r.after, tfind token (s.work.core s.cur.1).sigOut = none

/-- R191: core `c` has acquired: INB is empty; no line of L1 is left that INB named and that is not
read-only, nor, where `sys`, one of memory outside the package; no fill in flight that INB named
will be installed. -/
def Acquired (s t : State) (c : Nat) (sys : Bool) : Prop :=
  let f := (s.work.core c).inb
  (t.work.core c).inb = 0 ∧
  (∀ q ∈ (t.work.core c).l1, q.2.ro = true ∨
    (sigLine f q.2.line = false ∧ (sys = true → (s.work.place (128 * q.2.line)).isRemote = false))) ∧
  ∀ q ∈ (t.work.core c).fills, sigLine f q.2.req.line = true → q.2.install = false

/-- `i` completes in `t`: its group is `h`, four bytes further; near memory is as it was, and of the
registers only `d` may differ. -/
def Goes (s t : State) (c n : Nat) (g : Group) (i : Instr) (d : Dst) (h : Group) : Prop :=
  exec i s = .next t ∧ t.mem = s.mem ∧ t.work.grp c n = some h ∧ h.pc = g.pc + 4 ∧
    Keeps g h.settled d

/-- `i` answers `t`, with near memory as it was. -/
def Occurs (s t : State) (i : Instr) : Prop := exec i s = .next t ∧ t.mem = s.mem

/-- `i` answers `t`, with near memory as it was outside the scoresheet's ring (R379). -/
def Records (s t : State) (i : Instr) : Prop :=
  exec i s = .next t ∧
    let base := field s.obs.scsbase 51 0
    ∀ a, (a < base ∨ base + s.obs.ring ≤ a) → memRead t.mem a = memRead s.mem a

/-- R64: the number that a finite reading of an encoding is. -/
def Stands (v : Fp) (x : ℝ) : Prop :=
  match v with
  | .fin neg m e => x = (if neg then -1 else 1) * (m : ℝ) * (2 : ℝ) ^ e
  | _ => False

/-- R70: the numbers with `p` fraction bits, whose unit is 2^`low` or more where a least one is given,
and unbounded above. -/
def Represents (p : Nat) (low : Option Int) (v : ℝ) : Prop :=
  ∃ n e : Int, n.natAbs < 2 ^ (p + 1) ∧ (∀ l, low = some l → l ≤ e) ∧ v = (n : ℝ) * (2 : ℝ) ^ e

/-- R70: of the numbers `R`, `v` is the one that rounding `x` by a mode delivers; `even` are those with
an even least significant bit. -/
def Nearest (R even : ℝ → Prop) (mode : Nat) (x v : ℝ) : Prop :=
  R v ∧
  match mode with
  | 1 => |v| ≤ |x| ∧ 0 ≤ v * x ∧ ∀ w, R w → |w| ≤ |x| → 0 ≤ w * x → |w| ≤ |v|
  | 2 => x ≤ v ∧ ∀ w, R w → x ≤ w → v ≤ w
  | 3 => v ≤ x ∧ ∀ w, R w → w ≤ x → w ≤ v
  | _ => (∀ w, R w → |x - v| ≤ |x - w|) ∧
      ∀ w, R w → w ≠ v → |x - w| = |x - v| → if mode = 0 then even v else |w| < |v|

/-- R70 to R73: the non-zero number `x` is delivered in a format, rounded once by a mode: what stands
in the encoding, and the flags of an overflow, an underflow and an inexact result. `sat` delivers the
largest finite number for an overflow (R168). -/
def Delivers (f : FFmt) (mode : Nat) (sat : Bool) (x : ℝ) (r : Fr) : Prop :=
  ∃ v u big : ℝ, Stands (f.read f.maxFin) big ∧
    Nearest (Represents f.p (some f.unit)) (Represents (f.p - 1) (some (f.unit + 1))) mode x v ∧
    Nearest (Represents f.p none) (Represents (f.p - 1) none) mode x u ∧
    (big < |v| → r.fl = flOF ||| flNX ∧
      let infinite := sat = false ∧ (mode = 0 ∨ mode = 4 ∨ (mode = 2 ∧ 0 < x) ∨ (mode = 3 ∧ x < 0))
      (infinite → f.read r.bits = (if f.ieee then .inf (decide (x < 0)) else .nan false)) ∧
      (¬infinite → Stands (f.read r.bits) (if x < 0 then -big else big))) ∧
    (|v| ≤ big →
      (∃ m e, f.read r.bits = .fin (decide (x < 0)) m e) ∧ Stands (f.read r.bits) v ∧
      (v = x → r.fl = 0) ∧
      (v ≠ x → r.fl = if |u| < (2 : ℝ) ^ (1 - (f.bias : Int)) then flUF ||| flNX else flNX))

/-- R73, R76, R77: the sum of two readings, rounded once. -/
def Sums (f : FFmt) (mode : Nat) (a b : Fp) (r : Fr) : Prop :=
  (a.isNan = true ∨ b.isNan = true →
    r.bits = f.nan ∧ r.fl = if a.isSig || b.isSig then flNV else 0) ∧
  (∀ s t, a = .inf s → b = .inf t →
    if s = t then f.read r.bits = .inf s ∧ r.fl = 0 else r.bits = f.nan ∧ r.fl = flNV) ∧
  (∀ s t m e, (a = .inf s ∧ b = .fin t m e) ∨ (a = .fin t m e ∧ b = .inf s) →
    f.read r.bits = .inf s ∧ r.fl = 0) ∧
  ∀ x y, Stands a x → Stands b y →
    (x + y ≠ 0 → Delivers f mode false (x + y) r) ∧
    (x + y = 0 → r.fl = 0 ∧
      let negative := ∃ d e, a = .fin true 0 d ∧ b = .fin true 0 e
      (negative → r.bits = f.signBit) ∧ (¬negative → r.bits = 0))

/-- R73, R77: `p` is the exact product of two readings. -/
def Multiplies (a b p : Fp) : Prop :=
  (∃ s m x t n y, a = .fin s m x ∧ b = .fin t n y ∧ p = .fin (s != t) (m * n) (x + y)) ∨
  (∃ s t, a = .inf s ∧ b = .inf t ∧ p = .inf (s != t)) ∨
  ∃ s t m e, m ≠ 0 ∧ ((a = .inf s ∧ b = .fin t m e) ∨ (a = .fin t m e ∧ b = .inf s)) ∧
    p = .inf (s != t)

/-- R73: zero times infinity. -/
def Improper (a b : Fp) : Prop :=
  ∃ s t e, (a = .inf s ∧ b = .fin t 0 e) ∨ (a = .fin t 0 e ∧ b = .inf s)

/-- The canonical NaN, with Invalid or without. -/
def NaNs (f : FFmt) (invalid : Bool) (r : Fr) : Prop :=
  r.bits = f.nan ∧ r.fl = if invalid then flNV else 0

/-- An infinity, a signed zero. -/
def Infinite (f : FFmt) (neg : Bool) (fl : BitVec 7) (r : Fr) : Prop :=
  f.read r.bits = .inf neg ∧ r.fl = fl

def Zero (f : FFmt) (neg : Bool) (r : Fr) : Prop :=
  r.bits = (if neg then f.signBit else 0) ∧ r.fl = 0

/-- `n` bytes of near memory are written, the low bytes of a number, to what `w` leaves there; nothing
is held at a home, shared out, or under another key. -/
def Writes (s t : State) (w : Work) (pa key n v : Nat) : Prop :=
  (w.place pa).isNear = true → (∀ d u, (w.unit d u).held = []) → w.sharedOut = [] →
  (∀ sec, w.sectorOk key sec = true) → ∀ a, memRead t.mem a =
    if pa ≤ a ∧ a < pa + n then BitVec.ofNat 8 (v / 256 ^ (a - pa)) else memRead (commit s w).mem a

/-- Every team stands once, under its own key. -/
def TeamsKeyed (s : State) : Prop :=
  (tkeys s.teams).Nodup ∧ ∀ p ∈ s.teams, p.1 = teamKey p.2.launch p.2.lin

/-- R175: the term of the reduction tree at a level and a position, with the flags below it. -/
def treeAt (p m : Nat) (t : List (Option Word)) : Nat → Nat → Option Word × BitVec 7
  | 0, i => ((t[i]?).getD none, 0)
  | k + 1, i =>
    let x := treeAt p m t k (2 * i)
    let y := treeAt p m t k (2 * i + 1)
    ((combO p m x.1 y.1).1, x.2 ||| y.2 ||| (combO p m x.1 y.1).2)

/-- R176: the term of the scan at a position after `k` steps. -/
def prefixAt (p m : Nat) (t : List (Option Word)) : Nat → Nat → Option Word
  | 0, i => (t[i]?).getD none
  | k + 1, i =>
    if i < 2 ^ k then prefixAt p m t k i
    else (combO p m (prefixAt p m t k (i - 2 ^ k)) (prefixAt p m t k i)).1

/-- Segment `k` of tensor `id` in the state. -/
def SegAt (t : State) (id k : Nat) (x : Seg) : Prop :=
  ∃ z, t.work.tensor? id = some z ∧ tfind k z.segs = some x

end Sys2Proof.Claim

open Sys2Proof.Claim

/-! ## Scalar instructions, control and masks -/

/-- R120, R122, R123: each scalar operation writes its result to sd and nothing else. -/
def Sys2Proof.Claim.ScalarArithmeticResults : Prop :=
  ∀ s c n g, Ready s c n g → ∀ (x : BitVec 2) (d a b : BitVec 6) (i : BitVec 8) (j : BitVec 17),
    let A := g.s a.toNat
    let B := g.s b.toNat
    let wr := fun i v => ToScalar s c n g i d.toNat v
    wr (.sadd x d a b) (A + B) ∧ wr (.ssub x d a b) (A - B) ∧ wr (.smul x d a b) (A * B) ∧
    wr (.smulhI64 x d a b) (BitVec.ofInt 64 (A.toInt * B.toInt / 2 ^ 64)) ∧
    wr (.smulhN64 x d a b) (BitVec.ofNat 64 (A.toNat * B.toNat / 2 ^ 64)) ∧
    wr (.sand x d a b) (A &&& B) ∧ wr (.sor x d a b) (A ||| B) ∧ wr (.sxor x d a b) (A ^^^ B) ∧
    wr (.sshl x d a b) (A <<< (B.toNat % 64)) ∧ wr (.sshr x d a b) (A >>> (B.toNat % 64)) ∧
    wr (.ssra x d a b) (A.sshiftRight (B.toNat % 64)) ∧
    wr (.sminI64 x d a b) (if A.slt B then A else B) ∧
    wr (.sminN64 x d a b) (if A.ult B then A else B) ∧
    wr (.smaxI64 x d a b) (if A.slt B then B else A) ∧
    wr (.smaxN64 x d a b) (if A.ult B then B else A) ∧
    wr (.ssel x d a b) (if sflZ g.sfl then A else B) ∧
    wr (.saddi x d a i) (A + i.signExtend 64) ∧ wr (.smuli x d a i) (A * i.signExtend 64) ∧
    wr (.sandi x d a i) (A &&& i.zeroExtend 64) ∧ wr (.sori x d a i) (A ||| i.zeroExtend 64) ∧
    wr (.sxori x d a i) (A ^^^ i.zeroExtend 64) ∧ wr (.sshli x d a b) (A <<< b.toNat) ∧
    wr (.sshri x d a b) (A >>> b.toNat) ∧ wr (.ssrai x d a b) (A.sshiftRight b.toNat) ∧
    wr (.smovl x d j) (j.signExtend 64) ∧
    wr (.sshin x d j) ((g.s d.toNat <<< 17) ||| j.zeroExtend 64)

/-- R121, R124: SADD.FL, SSUB.FL, SCMP and SCMPI write all four fields of SFL from one 64-bit
operation: Z for a zero result, N for its top bit, C for the carry out (of a subtract: no borrow), V
for a signed result that does not fit. -/
def Sys2Proof.Claim.ScalarFlagResults : Prop :=
  ∀ s c n g, Ready s c n g → ∀ (x : BitVec 2) (d a b : BitVec 6) (j k : BitVec 6),
    let A := g.s a.toNat
    let B := g.s b.toNat
    let I : Word := (j ++ k).signExtend 64
    let sum := fun (y : Word) (h : Group) =>
      sflZ h.sfl = decide (A + y = 0) ∧ sflN h.sfl = (A + y).msb ∧
      sflC h.sfl = decide (2 ^ 64 ≤ A.toNat + y.toNat) ∧
      sflV h.sfl = decide ((A + y).toInt ≠ A.toInt + y.toInt)
    let diff := fun (y : Word) (h : Group) =>
      sflZ h.sfl = decide (A = y) ∧ sflN h.sfl = (A - y).msb ∧
      sflC h.sfl = decide (y.toNat ≤ A.toNat) ∧
      sflV h.sfl = decide ((A - y).toInt ≠ A.toInt - y.toInt)
    Completes s c n g (.saddFl x d a b) (g.pc + 4) g { ss := [d.toNat], fl := true }
      (fun h => h.s d.toNat = A + B ∧ sum B h) ∧
    Completes s c n g (.ssubFl x d a b) (g.pc + 4) g { ss := [d.toNat], fl := true }
      (fun h => h.s d.toNat = A - B ∧ diff B h) ∧
    Completes s c n g (.scmp x a b) (g.pc + 4) g { fl := true } (diff B) ∧
    Completes s c n g (.scmpi x j a k) (g.pc + 4) g { fl := true } (diff I)

/-- Each scalar operation, immediate form and compare writes its result or its flags, and nothing else.

Instructions whose completion it states, each with the effect it gives: sadd, ssub, smul,
smulhI64, smulhN64, sand, sor, sxor, sshl, sshr, ssra, sminI64, sminN64, smaxI64, smaxN64, ssel,
saddi, smuli, sandi, sori, sxori, sshli, sshri, ssrai, smovl, sshin, saddFl, ssubFl, scmp, scmpi. -/
def Obligations.ScalarOperations : Prop :=
  Claim.ScalarArithmeticResults ∧ Claim.ScalarFlagResults

/-- R127, R128, R95: where each transfer goes; CALL leaves PC + 4 in s63; RET and JMPR go to bits
[51:0] of a register when that is even. -/
def Sys2Proof.Claim.TransferTargets : Prop :=
  ∀ s c n g, Ready s c n g → ∀ (x : BitVec 2) (o : BitVec 18) (w : BitVec 23) (k : BitVec 5)
    (a : BitVec 6),
    let go := fun i pc => Completes s c n g i pc g {} fun _ => True
    (condDefined k = true → condHolds k.toNat g = true →
      go (.br x k o) (g.pc + o.signExtend 52 * 2)) ∧
    (condDefined k = true → condHolds k.toNat g = false → go (.br x k o) (g.pc + 4)) ∧
    go (.jmp x w) (g.pc + w.signExtend 52 * 2) ∧
    Completes s c n g (.call x w) (g.pc + w.signExtend 52 * 2) g { ss := [63] }
      (fun h => h.s 63 = (g.pc + 4).zeroExtend 64) ∧
    ((g.s a.toNat).getLsbD 0 = false →
      go (.ret x a) ((g.s a.toNat).truncate 52) ∧ go (.jmpr x a) ((g.s a.toNat).truncate 52))

/-- R130 to R135: moves, special registers, FMT, FLG, WAIT, NOP and EXIT, where no check refuses
them and no flag of an earlier operation is still to come. -/
def Sys2Proof.Claim.ControlResults : Prop :=
  ∀ s c n g, Ready s c n g → s.work.flagsPending c n = false →
    ∀ (x : BitVec 2) (d a b y : BitVec 6) (z : BitVec 2) (k : BitVec 5),
    let A := g.s a.toNat
    let sp := (z ++ y).toNat
    let go := fun i e => Completes s c n g i (g.pc + 4) e {} fun _ => True
    ToScalar s c n g (.smov x d a) d.toNat A ∧
    (specialCtx g sp false = true →
      ToScalar s c n g (.smovs x d y z) d.toNat (BitVec.ofNat 64 (specialNat s.work c n g sp))) ∧
    (g.inHandler = true → A.getLsbD 0 = false →
      go (.smovw x 0x18#6 a 0#2) { g with epc := A }) ∧
    (g.inHandler = true → go (.smovw x 0x1A#6 a 0#2) { g with eexec := A &&& g.live }) ∧
    (A.toNat < 2 → go (.smovw x 0x13#6 a 0#2) { g with chk := A.getLsbD 0 }) ∧
    ToScalar s c n g (.fmtget x d) d.toNat (g.format.zeroExtend 64) ∧
    ToScalar s c n g (.flgget x d) d.toNat (g.flg.zeroExtend 64) ∧
    go (.flgclr x a) { g with flg := g.flg &&& ~~~(A.truncate 7) } ∧
    (k ≠ 0 → (∀ i, k.getLsbD i = true → [g.lc, g.sc, g.tc, g.mc, g.xc].getD i 0 ≤ b.toNat) →
      go (.wait x k b) g) ∧
    go (.nop x) g ∧
    (g.kind ≠ .supervisor → g.kind ≠ .run → g.inHandler = false →
      ∃ t h, exec (.exit x) s = .next t ∧ t.work.grp c n = some h ∧ h.pc = g.pc + 4 ∧
        h.live = g.live &&& ~~~g.exec ∧ h.exec = 0 ∧
        (∀ r, h.m r = g.m r &&& ~~~g.exec) ∧
        h.stack = g.stack.map (fun e =>
          { e with sexec := e.sexec &&& ~~~g.exec, pend := e.pend &&& ~~~g.exec }) ∧
        (∀ r, h.s r = g.s r) ∧ (∀ r l, h.v r l = g.v r l) ∧ Elsewhere s t c n)

/-- R52, R53, R375: special registers by their indices; TEMPO and the counts of L2 lookups are those
of the edge that began the core cycle in which the instruction issued, two cycles before its turn
(log 10). -/
def Sys2Proof.Claim.SpecialRegisterValues : Prop :=
  ∀ (w : Work) (c n : Nat) (g : Group),
    specialNat w c n g 0x01 = g.width ∧ specialNat w c n g 0x02 = g.live.toNat ∧
    specialNat w c n g 0x03 = n ∧ specialNat w c n g 0x04 = g.qbase ∧
    specialNat w c n g 0x06 =
      (if g.kind = .handlerTeam ∨ g.kind = .handlerCore then 4 else g.role) ∧
    specialNat w c n g 0x11 = c ∧
    (∀ x y z, (w.core c).began = [x, y, z] → specialNat w c n g 0x12 = z.1 ∧
      specialNat w c n g 0x20 = z.2.1.toNat ∧ specialNat w c n g 0x21 = z.2.2.toNat) ∧
    specialNat w c n g 0x14 = g.stack.length ∧
    specialNat w c n g 0x15 = g.flg.toNat ∧ specialNat w c n g 0x18 = g.epc.toNat ∧
    specialNat w c n g 0x19 = g.ecause.toNat ∧ specialNat w c n g 0x1A = g.eexec.toNat ∧
    specialNat w c n g 0x1B = g.elanes.toNat ∧ specialNat w c n g 0x1C = g.einfo.toNat ∧
    (g.kind = .user → specialNat w c n g 0x05 = g.gidx ∧ specialNat w c n g 0x08 = g.lin) ∧
    ∀ L t, g.kind = .user → w.launch? g.launch = some L → w.team g.launch g.lin = some t →
      specialNat w c n g 0x07 = lrNgrp L.record ∧ specialNat w c n g 0x0C = lrGx L.record ∧
      specialNat w c n g 0x0D = lrGy L.record ∧ specialNat w c n g 0x0E = lrGz L.record ∧
      specialNat w c n g 0x09 = g.lin % lrGx L.record ∧
      specialNat w c n g 0x0A = g.lin / lrGx L.record % lrGy L.record ∧
      specialNat w c n g 0x0B = g.lin / (lrGx L.record * lrGy L.record) ∧
      specialNat w c n g 0x0F = t.gangSz ∧ specialNat w c n g 0x10 = t.gangPos

/-- Transfers, moves, special registers, FLG, WAIT, NOP and EXIT.

Instructions whose completion it states, each with the effect it gives: br, jmp, call, ret, jmpr,
smov, smovs, smovw, fmtget, flgget, flgclr, wait, nop, exit. -/
def Obligations.ControlInstructions : Prop :=
  Claim.TransferTargets ∧ Claim.ControlResults ∧ Claim.SpecialRegisterValues

/-- R95, R127: the tests that the cond5 field of BR selects, and where BR goes.

Instructions whose completion it states, each with the effect it gives: br. -/
def Obligations.BranchConditions : Prop :=
  ∀ s c n g, Ready s c n g → ∀ (x : BitVec 2) (k : BitVec 5) (o : BitVec 18),
    let i := Instr.br x k o
    let Z := sflZ g.sfl = true
    let N := sflN g.sfl = true
    let C := sflC g.sfl = true
    let V := sflV g.sfl = true
    let tests := fun taken : Prop =>
      (taken → Completes s c n g i (g.pc + 2 * o.signExtend 52) g {} fun _ => True) ∧
      (¬taken → Completes s c n g i (g.pc + 4) g {} fun _ => True)
    (k = 0 → tests True) ∧ (k = 1 → tests Z) ∧ (k = 2 → tests ¬Z) ∧
    (k = 3 → tests ¬(N ↔ V)) ∧ (k = 4 → tests (N ↔ V)) ∧
    (k = 5 → tests (Z ∨ ¬(N ↔ V))) ∧ (k = 6 → tests (¬Z ∧ (N ↔ V))) ∧
    (k = 7 → tests ¬C) ∧ (k = 8 → tests C) ∧ (k = 9 → tests (¬C ∨ Z)) ∧
    (k = 10 → tests (C ∧ ¬Z)) ∧ (k = 11 → tests N) ∧ (k = 12 → tests ¬N) ∧
    (k = 13 → tests V) ∧ (k = 14 → tests ¬V) ∧ (k = 16 → tests (g.exec = 0)) ∧
    (k = 17 → tests (g.exec ≠ 0)) ∧ (k = 18 → tests (g.exec = g.live)) ∧
    (∀ m < 8, k.toNat = 24 + m → tests (g.m m = 0)) ∧
    (k = 15 ∨ 19 ≤ k.toNat ∧ k.toNat ≤ 23 → s.work.flagsPending c n = false →
      Traps s c n g i 1 (illegalInfo (wBr x k o) 3) 0)

/-- R132, R49: FMTSET writes FMT of the bank in use from bits [31:0] of sa, or the bits of it that
sb[31:0] selects; a value with a reserved CRM, AFMT or BFMT code or a reserved bit set is refused with
reason 7, and FMT is as it was.

Instructions whose completion it states, each with the effect it gives: fmtset, fmtsetMask. -/
def Obligations.FormatWrites : Prop :=
  ∀ s c n g, Ready s c n g → ∀ (x : BitVec 2) (a b : BitVec 6),
    let A : BitVec 32 := (g.s a.toNat).truncate 32
    let B : BitVec 32 := (g.s b.toNat).truncate 32
    let refused := fun f : BitVec 32 =>
      5 < (f.extractLsb' 2 3).toNat ∨ 5 < (f.extractLsb' 12 3).toNat ∨
      5 < (f.extractLsb' 15 3).toNat ∨ f.extractLsb' 21 11 ≠ 0
    let writes := fun (i : Instr) (w f : BitVec 32) =>
      (¬refused f → Completes s c n g i (g.pc + 4)
        (if g.inHandler then { g with hfmt := f } else { g with fmt := f }) {} fun _ => True) ∧
      (refused f → s.work.flagsPending c n = false → Traps s c n g i 1 (illegalInfo w 7) 0)
    writes (.fmtset x a) (wFmtset x a) A ∧
    writes (.fmtsetMask x a b) (wFmtsetMask x a b) ((g.format &&& ~~~B) ||| (A &&& B))

/-- R136: EXIT in the supervisor group and in a trap handler. -/
def Obligations.ExitRefused : Prop :=
  ∀ s c n g, s.cur = (c, n) → s.work.grp c n = some g → s.work.flagsPending c n = false →
    g.kind = .supervisor ∨ g.inHandler = true →
    ∀ x : BitVec 2, Traps s c n g (.exit x) 1 (illegalInfo (wExit x) 6) 0

/-- R137, R138: MAND to MMOV into m0 to m7, or into EXEC, which is written at issue. -/
def Sys2Proof.Claim.MaskLogicResults : Prop :=
  ∀ s c n g, Ready s c n g → ∀ (x : BitVec 2) (d a b q : BitVec 6),
    a.toNat ≤ 8 → b.toNat ≤ 8 → d.toNat < 8 →
    let A := g.mf a.toNat
    let B := g.mf b.toNat
    let wr := fun (i : BitVec 6 → Instr) (v : Word) =>
      Completes s c n g (i d) (g.pc + 4) g { ms := [d.toNat] }
        (fun h => h.m d.toNat = v &&& g.live) ∧
      Completes s c n g (i 8) (g.pc + 4) { g with exec := v &&& g.live } {} fun _ => True
    wr (fun d => .mand x d a b) (A &&& B) ∧ wr (fun d => .mor x d a b) (A ||| B) ∧
    wr (fun d => .mxor x d a b) (A ^^^ B) ∧ wr (fun d => .mnot x d a) (~~~A) ∧
    wr (fun d => .mmov x d a) A ∧ wr (fun d => .mmovFromScalar x d q) (g.s q.toNat)

/-- R137, R119: MMOV, MPOPC and MFIRST into a scalar: the destination is pending on a result of
variable latency, which lands with the mask, the number of its set bits, or the index of the lowest
of them (64 when there is none). -/
def Sys2Proof.Claim.MaskToScalarIssue : Prop :=
  ∀ s c n g, Ready s c n g → ∀ (x : BitVec 2) (d a : BitVec 6), a.toNat ≤ 8 →
    let M := g.mf a.toNat
    let k := s.work.core c
    let bank := g.banked .scalar d.toNat
    let wr := fun (i : Instr) (v : Word) =>
      let y : XcOp :=
        { slot := n, flags := 0, counted := false, trap := none, flights := [], due := some (k.cycle + 2)
          writes := [{ kind := .scalar, reg := d.toNat, bank, lanes := allLanes, left := 0, val := v
                       vec := [] }] }
      CompletesIn s c n { k with opSeq := k.opSeq + 1, xcs := tins k.opSeq y k.xcs } g i (g.pc + 4)
        { g with
          pend := [{ kind := .scalar, reg := d.toNat, bank, lanes := allLanes, op := k.opSeq }] } {}
        fun _ => True
    wr (.mmovToScalar x d a) M ∧
    wr (.mpopc x d a) (BitVec.ofNat 64 ((List.range 64).filter M.getLsbD).length) ∧
    wr (.mfirst x d a) (BitVec.ofNat 64 (((List.range 64).find? M.getLsbD).getD 64))

/-- R139 to R142: IFM, ELSEM, ENDM, BRKM and BRKM.LOOP on the mask stack, EXEC and FMT, all at
issue, where no array of the core holds an uncorrectable error (R62). The head of the list is the top
of the stack. -/
def Sys2Proof.Claim.MaskStackResults : Prop :=
  ∀ s c n g, Ready s c n g → (s.work.core c).upset = [] →
    ∀ (x : BitVec 2) (a : BitVec 6), a.toNat ≤ 8 →
    let M := g.mf a.toNat
    let go := fun i e => Completes s c n g i (g.pc + 4) e {} fun _ => True
    (g.stack.length < 32 →
      go (.ifm x a) { g with
        exec := g.exec &&& M
        stack := { sexec := g.exec, pend := g.exec &&& ~~~M, sfmt := g.format, kind := 0 } ::
          g.stack } ∧
      go (.brkmLoop x) { g with
        stack := { sexec := g.exec, pend := 0, sfmt := g.format, kind := 2 } :: g.stack }) ∧
    (∀ e t, g.stack = e :: t →
      (e.kind = 0 → go (.elsem x) (({ g with
        exec := e.pend, stack := { e with pend := 0, kind := 1 } :: t } : Group).setFormat
          e.sfmt)) ∧
      go (.endm x) (({ g with exec := e.sexec, stack := t } : Group).setFormat e.sfmt)) ∧
    ∀ (above : List StackEnt) (e : StackEnt) (below : List StackEnt),
      g.stack = above ++ e :: below → e.kind = 2 → (∀ y ∈ above, y.kind ≠ 2) →
      let b := g.exec &&& M
      go (.brkm x a) { g with
        exec := g.exec &&& ~~~b
        stack := above.map (fun y =>
            { y with sexec := y.sexec &&& ~~~b, pend := y.pend &&& ~~~b }) ++
          { e with pend := e.pend ||| b } :: below }

/-- Mask logic, mask to scalar moves, and the mask stack.

Instructions whose completion it states, each with the effect it gives: mand, mor, mxor, mnot,
mmov, mmovFromScalar, mmovToScalar, mpopc, mfirst, ifm, brkmLoop, elsem, endm, brkm. -/
def Obligations.MaskInstructions : Prop :=
  Claim.MaskLogicResults ∧ Claim.MaskToScalarIssue ∧ Claim.MaskStackResults

/-! ## Vector instructions -/

/-- R148, R151: each VINT operation of fixed latency, on every active lane; an inactive lane keeps
its old value. -/
def Sys2Proof.Claim.VectorIntegerResults : Prop :=
  ∀ s c n g, Ready s c n g → ∀ (x : BitVec 2) (d a b : BitVec 6),
    g.hasV d.toNat = true → g.hasV a.toNat = true → g.hasV b.toNat = true →
    let wr := fun (i : Instr) (f : Lane → Lane → Lane → Lane) =>
      ToVector s c n g i 4 d.toNat g.exec fun l => f (g.v a.toNat l) (g.v b.toNat l) (g.v d.toNat l)
    wr (.vaddI32 x d a b) (fun a b _ => a + b) ∧ wr (.vsubI32 x d a b) (fun a b _ => a - b) ∧
    wr (.vmulI32 x d a b) (fun a b _ => a * b) ∧
    wr (.vmulhI32 x d a b) (fun a b _ => BitVec.ofInt 32 (a.toInt * b.toInt / 2 ^ 32)) ∧
    wr (.vmulhN32 x d a b) (fun a b _ => BitVec.ofNat 32 (a.toNat * b.toNat / 2 ^ 32)) ∧
    wr (.vmadI32 x d a b) (fun a b d => a * b + d) ∧
    wr (.vminI32 x d a b) (fun a b _ => if a.slt b then a else b) ∧
    wr (.vminN32 x d a b) (fun a b _ => if a.ult b then a else b) ∧
    wr (.vmaxI32 x d a b) (fun a b _ => if a.slt b then b else a) ∧
    wr (.vmaxN32 x d a b) (fun a b _ => if a.ult b then b else a) ∧
    wr (.vand x d a b) (fun a b _ => a &&& b) ∧ wr (.vor x d a b) (fun a b _ => a ||| b) ∧
    wr (.vxor x d a b) (fun a b _ => a ^^^ b) ∧
    wr (.vshl x d a b) (fun a b _ => a <<< (b.toNat % 32)) ∧
    wr (.vshr x d a b) (fun a b _ => a >>> (b.toNat % 32)) ∧
    wr (.vsra x d a b) (fun a b _ => a.sshiftRight (b.toNat % 32)) ∧
    wr (.vabsI32 x d a) (fun a _ _ => if a.msb then -a else a) ∧
    wr (.vnegI32 x d a) (fun a _ _ => -a) ∧ wr (.vnot x d a) (fun a _ _ => ~~~a) ∧
    wr (.vpopc x d a) (fun a _ _ =>
      BitVec.ofNat 32 ((List.range 32).filter a.getLsbD).length) ∧
    wr (.vclz x d a) (fun a _ _ =>
      BitVec.ofNat 32 (((List.range 32).find? fun i => a.getLsbD (31 - i)).getD 32)) ∧
    wr (.vmov x d a) (fun a _ _ => a) ∧
    wr (.vbfeN32 x d a b) (fun a b _ =>
      let p := b.toNat % 32
      let n := min (b.toNat / 256 % 64) (32 - p)
      BitVec.ofNat 32 (a.toNat / 2 ^ p % 2 ^ n)) ∧
    wr (.vbfeI32 x d a b) (fun a b _ =>
      let p := b.toNat % 32
      let n := min (b.toNat / 256 % 64) (32 - p)
      (BitVec.ofNat n (a.toNat / 2 ^ p)).signExtend 32) ∧
    wr (.vbfi x d a b) (fun a b d =>
      let p := b.toNat % 32
      let n := min (b.toNat / 256 % 64) (32 - p)
      let m : Lane := BitVec.ofNat 32 (2 ^ n - 1)
      (d &&& ~~~(m <<< p)) ||| ((a &&& m) <<< p)) ∧
    Completes s c n g (.vbrev x d a) (g.pc + 4) g { vs := [d.toNat] } fun h => ∀ l, l < 64 →
      if bit g.exec l then
        ∀ i < 32, (h.v d.toNat l).getLsbD i = (g.v a.toNat l).getLsbD (31 - i)
      else h.v d.toNat l = g.v d.toNat l

/-- R153, R154: VINTS takes b from the low 32 bits of a scalar, the same in every lane; VINTI takes
it from imm8, sign-extended for VADD and VMUL and zero-extended for the others. -/
def Sys2Proof.Claim.VectorScalarResults : Prop :=
  ∀ s c n g, Ready s c n g → ∀ (x : BitVec 2) (d a b : BitVec 6) (i : BitVec 8) (j : BitVec 5),
    g.hasV d.toNat = true → g.hasV a.toNat = true →
    let B : Lane := (g.s b.toNat).truncate 32
    let I : Lane := i.signExtend 32
    let U : Lane := i.zeroExtend 32
    let p := B.toNat % 32
    let n' := min (B.toNat / 256 % 64) (32 - p)
    let m : Lane := BitVec.ofNat 32 (2 ^ n' - 1)
    let wr := fun (i : Instr) (f : Lane → Lane → Lane) =>
      ToVector s c n g i 4 d.toNat g.exec fun l => f (g.v a.toNat l) (g.v d.toNat l)
    wr (.vaddI32Vs x d a b) (fun a _ => a + B) ∧ wr (.vsubI32Vs x d a b) (fun a _ => a - B) ∧
    wr (.vmulI32Vs x d a b) (fun a _ => a * B) ∧
    wr (.vmulhI32Vs x d a b) (fun a _ => BitVec.ofInt 32 (a.toInt * B.toInt / 2 ^ 32)) ∧
    wr (.vmulhN32Vs x d a b) (fun a _ => BitVec.ofNat 32 (a.toNat * B.toNat / 2 ^ 32)) ∧
    wr (.vmadI32Vs x d a b) (fun a d => a * B + d) ∧
    wr (.vminI32Vs x d a b) (fun a _ => if a.slt B then a else B) ∧
    wr (.vminN32Vs x d a b) (fun a _ => if a.ult B then a else B) ∧
    wr (.vmaxI32Vs x d a b) (fun a _ => if a.slt B then B else a) ∧
    wr (.vmaxN32Vs x d a b) (fun a _ => if a.ult B then B else a) ∧
    wr (.vandVs x d a b) (fun a _ => a &&& B) ∧ wr (.vorVs x d a b) (fun a _ => a ||| B) ∧
    wr (.vxorVs x d a b) (fun a _ => a ^^^ B) ∧ wr (.vshlVs x d a b) (fun a _ => a <<< p) ∧
    wr (.vshrVs x d a b) (fun a _ => a >>> p) ∧ wr (.vsraVs x d a b) (fun a _ => a.sshiftRight p) ∧
    wr (.vbfeN32Vs x d a b) (fun a _ => BitVec.ofNat 32 (a.toNat / 2 ^ p % 2 ^ n')) ∧
    wr (.vbfeI32Vs x d a b) (fun a _ => (BitVec.ofNat n' (a.toNat / 2 ^ p)).signExtend 32) ∧
    wr (.vbfiVs x d a b) (fun a d => (d &&& ~~~(m <<< p)) ||| ((a &&& m) <<< p)) ∧
    wr (.vmovVs x d b) (fun _ _ => B) ∧
    wr (.vaddI32Vi x d a i) (fun a _ => a + I) ∧ wr (.vmulI32Vi x d a i) (fun a _ => a * I) ∧
    wr (.vandVi x d a i) (fun a _ => a &&& U) ∧ wr (.vorVi x d a i) (fun a _ => a ||| U) ∧
    wr (.vxorVi x d a i) (fun a _ => a ^^^ U) ∧
    wr (.vshlVi x d a j) (fun a _ => a <<< j.toNat) ∧
    wr (.vshrVi x d a j) (fun a _ => a >>> j.toNat) ∧
    wr (.vsraVi x d a j) (fun a _ => a.sshiftRight j.toNat)

/-- R92, R149, R86: a parcel is two bytes long and denotes its 32-bit row with va = vd and vb = vs;
VMOV's denotes VMOV vd, vs. -/
def Sys2Proof.Claim.IntegerParcelResults : Prop :=
  ∀ s c n g, Ready s c n g → ∀ (x : BitVec 1) (d b : BitVec 5),
    g.hasV d.toNat = true → g.hasV b.toNat = true →
    let wr := fun (i : Instr) (f : Lane → Lane → Lane) =>
      ToVector s c n g i 2 d.toNat g.exec fun l => f (g.v d.toNat l) (g.v b.toNat l)
    wr (.vaddI32Parcel x d b) (fun a b => a + b) ∧ wr (.vsubI32Parcel x d b) (fun a b => a - b) ∧
    wr (.vmulI32Parcel x d b) (fun a b => a * b) ∧
    wr (.vminI32Parcel x d b) (fun a b => if a.slt b then a else b) ∧
    wr (.vmaxI32Parcel x d b) (fun a b => if a.slt b then b else a) ∧
    wr (.vandParcel x d b) (fun a b => a &&& b) ∧ wr (.vorParcel x d b) (fun a b => a ||| b) ∧
    wr (.vxorParcel x d b) (fun a b => a ^^^ b) ∧
    wr (.vshlParcel x d b) (fun a b => a <<< (b.toNat % 32)) ∧
    wr (.vshrParcel x d b) (fun a b => a >>> (b.toNat % 32)) ∧
    wr (.vmovParcel x d b) (fun _ b => b)

/-- Vector integer operations in their vector, scalar, immediate and parcel forms, lane by lane.

Instructions whose completion it states, each with the effect it gives: vaddI32, vsubI32, vmulI32,
vmulhI32, vmulhN32, vmadI32, vminI32, vminN32, vmaxI32, vmaxN32, vand, vor, vxor, vshl, vshr,
vsra, vabsI32, vnegI32, vnot, vpopc, vclz, vmov, vbfeN32, vbfeI32, vbfi, vbrev, vaddI32Vs,
vsubI32Vs, vmulI32Vs, vmulhI32Vs, vmulhN32Vs, vmadI32Vs, vminI32Vs, vminN32Vs, vmaxI32Vs,
vmaxN32Vs, vandVs, vorVs, vxorVs, vshlVs, vshrVs, vsraVs, vbfeN32Vs, vbfeI32Vs, vbfiVs, vmovVs,
vaddI32Vi, vmulI32Vi, vandVi, vorVi, vxorVi, vshlVi, vshrVi, vsraVi, vaddI32Parcel, vsubI32Parcel,
vmulI32Parcel, vminI32Parcel, vmaxI32Parcel, vandParcel, vorParcel, vxorParcel, vshlParcel,
vshrParcel, vmovParcel. -/
def Obligations.VectorIntegers : Prop :=
  Claim.VectorIntegerResults ∧ Claim.VectorScalarResults ∧ Claim.IntegerParcelResults

/-- R150: VADDC and VSUBB take m0 as the carry in of each active lane and leave the carry out, or
the borrow, there; R46 clears lanes that are not live. -/
def Sys2Proof.Claim.CarryChainResults : Prop :=
  ∀ s c n g, Ready s c n g → ∀ (x : BitVec 2) (d a b : BitVec 6),
    g.hasV d.toNat = true → g.hasV a.toNat = true →
    let wr := fun (i : Instr) (B : Nat → Nat) (r : Nat → Nat → Nat → Nat) (o : Nat → Nat → Nat → Bool) =>
      Completes s c n g i (g.pc + 4) g { vs := [d.toNat], ms := [0] } fun h => ∀ l, l < 64 →
        let A := (g.v a.toNat l).toNat
        let C := if bit (g.m 0) l then 1 else 0
        h.v d.toNat l = (if bit g.exec l then BitVec.ofNat 32 (r A (B l) C) else g.v d.toNat l) ∧
        bit (h.m 0) l =
          ((if bit g.exec l then o A (B l) C else bit (g.m 0) l) && bit g.live l)
    let add := fun A B C => A + B + C
    let sub := fun A B C => A + 2 ^ 33 - B - C
    let carry := fun A B C => decide (2 ^ 32 ≤ A + B + C)
    let borrow := fun (A B C : Nat) => decide (A < B + C)
    let V := fun l => (g.v b.toNat l).toNat
    let S := fun _ : Nat => ((g.s b.toNat).truncate 32 : Lane).toNat
    (g.hasV b.toNat = true →
      wr (.vaddc x d a b) V add carry ∧ wr (.vsubb x d a b) V sub borrow) ∧
    wr (.vaddcVs x d a b) S add carry ∧ wr (.vsubbVs x d a b) S sub borrow

/-- R155 to R157: VCMP on integers writes its condition to md in the active lanes; VSEL picks by
m0. -/
def Sys2Proof.Claim.CompareSelectResults : Prop :=
  ∀ s c n g, Ready s c n g → ∀ (x : BitVec 2) (d v a b : BitVec 6),
    d.toNat < 8 → g.hasV v.toNat = true → g.hasV a.toNat = true → g.hasV b.toNat = true →
    let wr := fun (i : Instr) (f : Lane → Lane → Bool) =>
      Completes s c n g i (g.pc + 4) g { ms := [d.toNat] } fun h => ∀ l, l < 64 →
        bit (h.m d.toNat) l =
          ((if bit g.exec l then f (g.v a.toNat l) (g.v b.toNat l) else bit (g.m d.toNat) l) &&
            bit g.live l)
    wr (.vcmpI32 x 0 d a b) (fun a b => a = b) ∧ wr (.vcmpI32 x 1 d a b) (fun a b => a ≠ b) ∧
    wr (.vcmpI32 x 2 d a b) (fun a b => a.slt b) ∧ wr (.vcmpI32 x 3 d a b) (fun a b => a.sle b) ∧
    wr (.vcmpI32 x 4 d a b) (fun a b => b.slt a) ∧ wr (.vcmpI32 x 5 d a b) (fun a b => b.sle a) ∧
    wr (.vcmpN32 x 0 d a b) (fun a b => a = b) ∧ wr (.vcmpN32 x 1 d a b) (fun a b => a ≠ b) ∧
    wr (.vcmpN32 x 2 d a b) (fun a b => a.ult b) ∧ wr (.vcmpN32 x 3 d a b) (fun a b => a.ule b) ∧
    wr (.vcmpN32 x 4 d a b) (fun a b => b.ult a) ∧ wr (.vcmpN32 x 5 d a b) (fun a b => b.ule a) ∧
    ToVector s c n g (.vsel x v a b) 4 v.toNat g.exec fun l =>
      if bit (g.m 0) l then g.v a.toNat l else g.v b.toNat l

/-- VADDC, VSUBB, integer compares and VSEL.

Instructions whose completion it states, each with the effect it gives: vaddc, vsubb, vaddcVs,
vsubbVs, vcmpI32, vcmpN32, vsel. -/
def Obligations.CarryAndCompare : Prop :=
  Claim.CarryChainResults ∧ Claim.CompareSelectResults

/-- R158 to R162: the FP32 operations of VF32 and VF32S, and their parcels (R92), lane by lane. A
scalar operand is its low 32 bits. -/
def Sys2Proof.Claim.Float32Results : Prop :=
  ∀ s c n g, Ready s c n g → ∀ (x : BitVec 2) (d a b : BitVec 6) (y : BitVec 1) (p q : BitVec 5),
    let D := Src.vec d.toNat
    let A := Src.vec a.toNat
    let on := fun (i : Src → Instr) (f : LaneFn) => Elementwise s c n g (i D) 4 D A (.vec b.toNat) f
    let onS := fun (i : Instr) (f : Nat → Nat → Nat → Nat → Fr) =>
      Elementwise s c n g i 4 D A (.scal b.toNat) fun m a b d =>
        (f (fmtRM m) a.toNat (b.toNat % 2 ^ 32) d.toNat).lane
    let onP := fun (i : Instr) (f : Nat → Nat → Nat → Fr) =>
      Elementwise s c n g i 2 (.vec p.toNat) (.vec p.toNat) (.vec q.toNat) fun m a b _ =>
        (f (fmtRM m) a.toNat b.toNat).lane
    let wr := fun (i : Instr) (f : Nat → Nat → Nat → Nat → Fr) =>
      on (fun _ => i) fun m a b d => (f (fmtRM m) a.toNat b.toNat d.toNat).lane
    wr (.vfaddF32 x d a b) (fun m a b _ => F32.add m a b) ∧
    wr (.vfsubF32 x d a b) (fun m a b _ => F32.sub m a b) ∧
    wr (.vfmulF32 x d a b) (fun m a b _ => F32.mul m a b) ∧
    wr (.vfmaF32 x d a b) F32.fma ∧ wr (.vfmsF32 x d a b) F32.fms ∧
    wr (.vfminF32 x d a b) (fun _ a b _ => F32.pick false a b) ∧
    wr (.vfmaxF32 x d a b) (fun _ a b _ => F32.pick true a b) ∧
    onS (.vfaddF32Vs x d a b) (fun m a b _ => F32.add m a b) ∧
    onS (.vfsubF32Vs x d a b) (fun m a b _ => F32.sub m a b) ∧
    onS (.vfmulF32Vs x d a b) (fun m a b _ => F32.mul m a b) ∧
    onS (.vfmaF32Vs x d a b) F32.fma ∧ onS (.vfmsF32Vs x d a b) F32.fms ∧
    onS (.vfminF32Vs x d a b) (fun _ a b _ => F32.pick false a b) ∧
    onS (.vfmaxF32Vs x d a b) (fun _ a b _ => F32.pick true a b) ∧
    onP (.vfaddF32Parcel y p q) F32.add ∧ onP (.vfsubF32Parcel y p q) F32.sub ∧
    onP (.vfmulF32Parcel y p q) F32.mul ∧
    onP (.vfminF32Parcel y p q) (fun _ a b => F32.pick false a b) ∧
    onP (.vfmaxF32Parcel y p q) (fun _ a b => F32.pick true a b)

/-- R158 to R163, R181: the FP64 operations on pairs, VRECON, and the two halves of FP16 and BF16
lanes. -/
def Sys2Proof.Claim.Float64And16Results : Prop :=
  ∀ s c n g, Ready s c n g → ∀ (x : BitVec 2) (d a b : BitVec 6),
    let wide := fun (i : Instr) (f : Nat → Nat → Nat → Nat → Fr) =>
      Elementwise s c n g i 4 (.pair d.toNat) (.pair a.toNat) (.pair b.toNat) fun m a b d =>
        (f (fmtRM m) a.toNat b.toNat d.toNat).lane
    let half := fun (i : Instr) (f : Nat → Nat → Nat → Nat → Fr) =>
      Elementwise s c n g i 4 (.vec d.toNat) (.vec a.toNat) (.vec b.toNat) fun m a b d =>
        let lo := f (fmtRM m) (a.toNat % 2 ^ 16) (b.toNat % 2 ^ 16) (d.toNat % 2 ^ 16)
        let hi := f (fmtRM m) (a.toNat / 2 ^ 16) (b.toNat / 2 ^ 16) (d.toNat / 2 ^ 16)
        (BitVec.ofNat 64 (lo.bits + 2 ^ 16 * hi.bits), lo.fl ||| hi.fl)
    wide (.vfaddF64 x d a b) (fun m a b _ => F64.add m a b) ∧
    wide (.vfsubF64 x d a b) (fun m a b _ => F64.sub m a b) ∧
    wide (.vfmulF64 x d a b) (fun m a b _ => F64.mul m a b) ∧
    wide (.vfmaF64 x d a b) F64.fma ∧ wide (.vfmsF64 x d a b) F64.fms ∧
    wide (.vfminF64 x d a b) (fun _ a b _ => F64.pick false a b) ∧
    wide (.vfmaxF64 x d a b) (fun _ a b _ => F64.pick true a b) ∧
    Elementwise s c n g (.vrecon x d a b) 4 (.pair d.toNat) (.pair a.toNat) (.vec b.toNat)
      (fun m a b d => (recon (fmtRM m) d.toNat a (b.truncate 32)).lane) ∧
    half (.vhaddH x d a b) (fun m a b _ => FH.add m a b) ∧
    half (.vhmulH x d a b) (fun m a b _ => FH.mul m a b) ∧ half (.vhfmaH x d a b) FH.fma ∧
    half (.vhaddBf x d a b) (fun m a b _ => FBF.add m a b) ∧
    half (.vhmulBf x d a b) (fun m a b _ => FBF.mul m a b) ∧ half (.vhfmaBf x d a b) FBF.fma

/-- R161: VFABS clears the sign, VFNEG inverts it, VFCLASS delivers one bit that names the class;
none of them raises a flag. -/
def Sys2Proof.Claim.FloatSignAndClassResults : Prop :=
  ∀ s c n g, Ready s c n g → ∀ (x : BitVec 2) (d a : BitVec 6),
    let A := fun l => g.v a.toNat l
    let A2 := fun l => g.v64 a.toNat l
    let pair := fun (i : Instr) (f : Word → Word) =>
      g.hasPair d.toNat = true → g.hasPair a.toNat = true →
      Completes s c n g i (g.pc + 4) g { vs := [d.toNat, d.toNat + 1] } fun h => ∀ l < 64,
        h.v64 d.toNat l = if bit g.exec l then f (A2 l) else g.v64 d.toNat l
    let cls : FFmt → Nat → Nat := fun f a =>
      match f.read a with
      | .inf true => 2 ^ 0
      | .inf false => 2 ^ 7
      | .nan true => 2 ^ 8
      | .nan false => 2 ^ 9
      | .fin neg m _ =>
        if m = 0 then (if neg then 2 ^ 3 else 2 ^ 4)
        else if m < 2 ^ f.p then (if neg then 2 ^ 2 else 2 ^ 5)
        else if neg then 2 ^ 1 else 2 ^ 6
    (g.hasV d.toNat = true → g.hasV a.toNat = true →
      ToVector s c n g (.vfabsF32 x d a) 4 d.toNat g.exec (fun l => A l &&& 0x7FFFFFFF) ∧
      ToVector s c n g (.vfnegF32 x d a) 4 d.toNat g.exec (fun l => A l ^^^ 0x80000000) ∧
      ToVector s c n g (.vfclassF32 x d a) 4 d.toNat g.exec
        (fun l => BitVec.ofNat 32 (cls F32 (A l).toNat))) ∧
    pair (.vfabsF64 x d a) (fun v => v &&& 0x7FFFFFFFFFFFFFFF) ∧
    pair (.vfnegF64 x d a) (fun v => v ^^^ 0x8000000000000000) ∧
    (g.hasV d.toNat = true → g.hasPair a.toNat = true →
      ToVector s c n g (.vfclassF64 x d a) 4 d.toNat g.exec
        (fun l => BitVec.ofNat 32 (cls F64 (A2 l).toNat)))

/-- R156: VCMP on floats writes its condition to md in the active lanes; EQ, NE and UN raise Invalid
for a signalling NaN, the others for any NaN. -/
def Sys2Proof.Claim.FloatCompareResults : Prop :=
  ∀ s c n g, Ready s c n g → ∀ (x : BitVec 2) (k : BitVec 3) (d a b : BitVec 6),
    d.toNat < 8 → k.toNat ≤ 6 →
    let wr := fun (f : FFmt) (i : Instr) (A B : Src) =>
      A.ok g = true → B.ok g = true →
      let u := fun l => f.read (A.val g l).toNat
      let v := fun l => f.read (B.val g l).toNat
      let bad := fun l =>
        (u l).isSig || (v l).isSig ||
          (((u l).isNan || (v l).isNan) && decide (2 ≤ k.toNat) && decide (k.toNat ≤ 5))
      ∀ fl t, Raises g (fun l => if bad l then flNV else 0) fl t →
        Flagged s c n g i 4 fl t { ms := [d.toNat] } fun h => ∀ l < 64,
          bit (h.m d.toNat) l =
            ((if bit g.exec l then (f.test k.toNat (A.val g l).toNat (B.val g l).toNat).1
              else bit (g.m d.toNat) l) && bit g.live l)
    wr F32 (.vcmpF32 x k d a b) (.vec a.toNat) (.vec b.toNat) ∧
    wr F64 (.vcmpF64 x k d a b) (.pair a.toNat) (.pair b.toNat)

/-- R156: the truth of a comparison of numbers and infinities; a NaN fulfils only NE and UN. -/
def Sys2Proof.Claim.ComparisonTruths : Prop :=
  ∀ f ∈ [F32, F64], ∀ a b, a < 2 * f.signBit → b < 2 * f.signBit →
    let test := fun k => (f.test k a b).1
    ((f.read a).isNan = true ∨ (f.read b).isNan = true → ∀ k ≤ 6, test k = decide (k = 1 ∨ k = 6)) ∧
    let Rank := fun (v : Fp) (y : EReal) =>
      (v = .inf true ∧ y = ⊥) ∨ (v = .inf false ∧ y = ⊤) ∨ ∃ x : ℝ, Stands v x ∧ y = (x : EReal)
    ∀ u v, Rank (f.read a) u → Rank (f.read b) v →
      (test 0 = true ↔ u = v) ∧ (test 1 = true ↔ u ≠ v) ∧ (test 2 = true ↔ u < v) ∧
      (test 3 = true ↔ u ≤ v) ∧ (test 4 = true ↔ v < u) ∧ (test 5 = true ↔ v ≤ u) ∧ test 6 = false

/-- Floating-point operations with their flags, or the trap of an enabled flag; the truth of a
comparison.

Instructions whose completion it states, each with the effect it gives: vfaddF32, vfsubF32,
vfmulF32, vfmaF32, vfmsF32, vfminF32, vfmaxF32, vfaddF32Vs, vfsubF32Vs, vfmulF32Vs, vfmaF32Vs,
vfmsF32Vs, vfminF32Vs, vfmaxF32Vs, vfaddF32Parcel, vfsubF32Parcel, vfmulF32Parcel, vfminF32Parcel,
vfmaxF32Parcel, vfaddF64, vfsubF64, vfmulF64, vfmaF64, vfmsF64, vfminF64, vfmaxF64, vrecon,
vhaddH, vhmulH, vhfmaH, vhaddBf, vhmulBf, vhfmaBf, vfabsF32, vfnegF32, vfclassF32, vfabsF64,
vfnegF64, vfclassF64, vcmpF32, vcmpF64. -/
def Obligations.FloatingPoint : Prop :=
  Claim.Float32Results ∧ Claim.Float64And16Results ∧ Claim.FloatSignAndClassResults ∧
  Claim.FloatCompareResults ∧ Claim.ComparisonTruths

/-- R147, R152, R160, R171: divisions, square roots and special functions have variable latency. -/
def Sys2Proof.Claim.VariableLatencyIssue : Prop :=
  ∀ s c n g, Ready s c n g → ∀ (x : BitVec 2) (d a b : BitVec 6),
    let int := fun (i : Instr) (b : Src) (f : Lane → Lane → Lane × BitVec 7) =>
      Deferred s c n g i (flIDZ ||| flIOV) (.vec d.toNat) (.vec a.toNat) b fun _ a b _ =>
        let r := f (a.truncate 32) (b.truncate 32)
        (r.1.zeroExtend 64, r.2)
    let f32 := fun (i : Instr) (b : Src) (f : Nat → Nat → Nat → Fr) =>
      Deferred s c n g i flFloat (.vec d.toNat) (.vec a.toNat) b fun m a b _ =>
        (f (fmtRM m) a.toNat (b.toNat % 2 ^ 32)).lane
    let f64 := fun (i : Instr) (b : Src) (f : Nat → Nat → Nat → Fr) =>
      Deferred s c n g i flFloat (.pair d.toNat) (.pair a.toNat) b fun m a b _ =>
        (f (fmtRM m) a.toNat b.toNat).lane
    let V := Src.vec b.toNat
    let S := Src.scal b.toNat
    int (.vdivI32 x d a b) V (divS false) ∧ int (.vdivN32 x d a b) V (divU false) ∧
    int (.vremI32 x d a b) V (divS true) ∧ int (.vremN32 x d a b) V (divU true) ∧
    int (.vdivI32Vs x d a b) S (divS false) ∧ int (.vdivN32Vs x d a b) S (divU false) ∧
    int (.vremI32Vs x d a b) S (divS true) ∧ int (.vremN32Vs x d a b) S (divU true) ∧
    f32 (.vfdivF32 x d a b) V F32.div ∧ f32 (.vfdivF32Vs x d a b) S F32.div ∧
    f32 (.vfsqrtF32 x d a) .none (fun m a _ => F32.sqrt m a) ∧
    f64 (.vfdivF64 x d a b) (.pair b.toNat) F64.div ∧
    f64 (.vfsqrtF64 x d a) .none (fun m a _ => F64.sqrt m a) ∧
    f32 (.vrcpF32 x d a) .none (fun _ a _ => F32.rcp a) ∧
    f32 (.vrsqF32 x d a) .none (fun _ a _ => F32.rsq a) ∧
    f32 (.vexp2F32 x d a) .none (fun _ a _ => F32.exp2 a) ∧
    f32 (.vlog2F32 x d a) .none (fun _ a _ => F32.log2 a) ∧
    f32 (.vsinF32 x d a) .none (fun _ a _ => F32.trig false a) ∧
    f32 (.vcosF32 x d a) .none (fun _ a _ => F32.trig true a)

/-- R75: integer division rounds toward zero; a zero divisor raises IDZ and delivers the largest
value of the quotient's sign, all ones, or the dividend as remainder; the least value divided by -1
raises IOV and delivers itself, the remainder 0 raising nothing. -/
def Sys2Proof.Claim.DivisionCorners : Prop :=
  ∀ a b : Lane,
    let q := a.toInt.tdiv b.toInt
    let r := a.toInt.tmod b.toInt
    divS false a 0 = (if a.toInt < 0 then 0x80000000 else 0x7FFFFFFF, flIDZ) ∧
    divS true a 0 = (a, flIDZ) ∧ divU false a 0 = (0xFFFFFFFF, flIDZ) ∧ divU true a 0 = (a, flIDZ) ∧
    divS false 0x80000000 0xFFFFFFFF = (0x80000000, flIOV) ∧
    divS true 0x80000000 0xFFFFFFFF = (0, 0) ∧
    (b ≠ 0 → ¬(a = 0x80000000 ∧ b = 0xFFFFFFFF) →
      (divS false a b).1.toInt = q ∧ (divS true a b).1.toInt = r ∧ (divS false a b).2 = 0 ∧
      (divS true a b).2 = 0) ∧
    (b ≠ 0 → (divU false a b) = (BitVec.ofNat 32 (a.toNat / b.toNat), 0) ∧
      (divU true a b) = (BitVec.ofNat 32 (a.toNat % b.toNat), 0))

/-- R147, R106: a result of variable latency lands: XC counts down, its flags go to FLG, its register
is no longer pending and holds the result in the lanes written; a WAIT whose condition then holds is
over (R134). A trap is taken once no earlier work of its group that raises flags is out, and finds the
writes in flight as they were before the instruction. -/
def Sys2Proof.Claim.VariableLatencyLanding : Prop :=
  ∀ s c id x g, tfind id (s.work.core c).xcs = some x → s.work.grp c x.slot = some g →
    (∀ m k, x.trap = none → g.wait = .counters m k →
      waitMet { g with xc := if x.counted then g.xc - 1 else g.xc } m k = true →
      ∃ t h, exec (.xcResultLand c id) s = .next t ∧ t.mem = s.mem ∧
        t.work.grp c x.slot = some h ∧ h.pc = g.pc + 4 ∧ h.wait = .none) ∧
    (x.trap = none → Unwaiting g →
      ∃ t h, exec (.xcResultLand c id) s = .next t ∧ t.mem = s.mem ∧
        t.work.grp c x.slot = some h ∧ tfind id (t.work.core c).xcs = none ∧
        h.flg = g.flg ||| x.flags ∧ h.xc = (if x.counted then g.xc - 1 else g.xc) ∧
        (∀ p ∈ h.pend, p.op ≠ id) ∧ h.pc = g.pc ∧ h.exec = g.exec ∧ h.flights = g.flights ∧
        (∀ f, x.writes = [f] →
          (f.kind = .vector → ∀ l < 64,
            h.v f.reg l = if bit f.lanes l then tget 0 l f.vec else g.v f.reg l) ∧
          (f.kind = .scalar →
            h.sIn f.bank f.reg = (g.sIn f.bank f.reg &&& ~~~f.lanes) ||| (f.val &&& f.lanes))) ∧
        ∀ e f, x.writes = [e, f] → e.kind = .vector → f.kind = .vector → e.reg ≠ f.reg →
          ∀ l < 64,
            h.v e.reg l = (if bit e.lanes l then tget 0 l e.vec else g.v e.reg l) ∧
            h.v f.reg l = if bit f.lanes l then tget 0 l f.vec else g.v f.reg l) ∧
    ∀ cause lanes pc, x.trap = some (cause, lanes, pc) →
      (∀ y ∈ (s.work.core c).xcs, y.1 < id → y.2.slot = x.slot → y.2.counted = false) →
      exec (.xcResultLand c id) s = .next (commit s
        ((s.work.setCore c { s.work.core c with xcs := tdel id (s.work.core c).xcs }).takeTrap c
          x.slot
          { g.unpend id with
            flg := g.flg ||| x.flags, xc := if x.counted then g.xc - 1 else g.xc, pc
            flights := x.flights } cause 0 lanes))

/-- Divisions, roots and special functions issue with a pending destination and land; division corners.

Instructions whose completion it states, each with the effect it gives: vdivI32, vdivN32, vremI32,
vremN32, vdivI32Vs, vdivN32Vs, vremI32Vs, vremN32Vs, vfdivF32, vfdivF32Vs, vfsqrtF32, vfdivF64,
vfsqrtF64, vrcpF32, vrsqF32, vexp2F32, vlog2F32, vsinF32, vcosF32, xcResultLand. -/
def Obligations.VariableLatency : Prop :=
  Claim.VariableLatencyIssue ∧ Claim.DivisionCorners ∧ Claim.VariableLatencyLanding

/-- R63 to R65: what an encoding of each format is, its canonical NaN and its largest finite number. -/
def Sys2Proof.Claim.Encodings : Prop :=
  ([F64, F32, FH, FBF, FE5, FE4].map fun f => (f.p, f.e, f.bias)) =
    [(52, 11, 1023), (23, 8, 127), (10, 5, 15), (7, 8, 127), (2, 5, 15), (3, 4, 7)] ∧
  ([F64, F32, FH, FBF, FE5, FE4].map fun f => (f.nan, f.maxFin)) =
    [(0x7FF8000000000000, 0x7FEFFFFFFFFFFFFF), (0x7FC00000, 0x7F7FFFFF), (0x7E00, 0x7BFF),
      (0x7FC0, 0x7F7F), (0x7E, 0x7B), (0x7F, 0x7E)] ∧
  ∀ f ∈ [F64, F32, FH, FBF, FE5, FE4], ∀ (neg : Bool) (E M : Nat), E < 2 ^ f.e → M < 2 ^ f.p →
    let v := f.read ((if neg then 2 ^ (f.p + f.e) else 0) + E * 2 ^ f.p + M)
    let last := decide (E = 2 ^ f.e - 1)
    let finite := last = false ∨ (f = FE4 ∧ M ≠ 7)
    (E = 0 → Stands v ((if neg then -1 else 1) * (M : ℝ) * (2 : ℝ) ^ (1 - (f.bias : Int) - f.p))) ∧
    (E ≠ 0 → finite → Stands v ((if neg then -1 else 1) * (2 ^ f.p + M : ℝ) *
      (2 : ℝ) ^ ((E : Int) - f.bias - f.p))) ∧
    (finite → ∃ m e, v = .fin neg m e ∧ (m = 0 ↔ E = 0 ∧ M = 0)) ∧
    (last = true → f ≠ FE4 → M = 0 → v = .inf neg) ∧
    (last = true → f ≠ FE4 → M ≠ 0 → v = .nan (decide (M < 2 ^ (f.p - 1)))) ∧
    (last = true → f = FE4 → M = 7 → v = .nan false)

/-- R70 to R73, R76, R77, R159, R181: sums, products, fused operations, quotients and square roots are the exact
result rounded once, with the flags and the signs of zero that the rules give; an accumulator takes in
an integer times a power of two. -/
def Sys2Proof.Claim.FloatArithmetic : Prop :=
  ∀ f ∈ [F64, F32, FH, FBF], ∀ mode ≤ 3, ∀ a b d : Nat,
    let A := f.read a
    let B := f.read b
    let D := f.read d
    let inverse := fun (x y : Fp) => (∃ s, x = .nan s ∧ y = .nan s) ∨
      (∃ s, x = .inf s ∧ y = .inf (!s)) ∨ ∃ s m e, x = .fin s m e ∧ y = .fin (!s) m e
    let nan2 := A.isNan = true ∨ B.isNan = true
    Sums f mode A B (f.add mode a b) ∧
    (∀ y, inverse B y → Sums f mode A y (f.sub mode a b)) ∧
    (∀ r, r = f.mul mode a b →
      (nan2 → NaNs f (A.isSig || B.isSig) r) ∧ (Improper A B → NaNs f true r) ∧
      ∀ p, Multiplies A B p →
        (∀ s, p = .inf s → Infinite f s 0 r) ∧
        ∀ s m e x, p = .fin s m e → Stands p x →
          (m = 0 → Zero f s r) ∧ (m ≠ 0 → Delivers f mode false x r)) ∧
    (∀ r, r = f.fma mode a b d ∨ r = f.fms mode a b d →
      (Improper A B → NaNs f true r) ∧
      (nan2 ∨ D.isNan = true → ¬Improper A B → NaNs f (A.isSig || B.isSig || D.isSig) r)) ∧
    (∀ p, Multiplies A B p → Sums f mode p D (f.fma mode a b d) ∧
      ∀ y, inverse p y → Sums f mode y D (f.fms mode a b d)) ∧
    (∀ r, r = f.div mode a b →
      (nan2 → NaNs f (A.isSig || B.isSig) r) ∧
      (∀ s t, A = .inf s → B = .inf t → NaNs f true r) ∧
      (∀ s t m e, A = .inf s → B = .fin t m e → Infinite f (s != t) 0 r) ∧
      (∀ s t m e, A = .fin s m e → B = .inf t → Zero f (s != t) r) ∧
      ∀ s m e t n k x y, A = .fin s m e → B = .fin t n k → Stands A x → Stands B y →
        (m = 0 → n = 0 → NaNs f true r) ∧ (m ≠ 0 → n = 0 → Infinite f (s != t) flDZ r) ∧
        (m = 0 → n ≠ 0 → Zero f (s != t) r) ∧ (m ≠ 0 → n ≠ 0 → Delivers f mode false (x / y) r)) ∧
    (∀ r, r = f.sqrt mode a →
      (∀ s, A = .nan s → NaNs f s r) ∧ (A = .inf false → Infinite f false 0 r) ∧
      (A = .inf true → NaNs f true r) ∧
      ∀ s m e x, A = .fin s m e → Stands A x →
        (m = 0 → Zero f s r) ∧ (m ≠ 0 → s = true → NaNs f true r) ∧
        (m ≠ 0 → s = false → Delivers f mode false (Real.sqrt x) r)) ∧
    ∀ (q : Word) (k : Lane), f = F64 →
      (-3000 ≤ k.toInt → k.toInt ≤ 3000 →
        Sums F64 mode D (.fin (decide (q.toInt < 0)) q.toInt.natAbs k.toInt) (recon mode d q k)) ∧
      (3000 < k.toInt → recon mode d q k = recon mode d q 3000) ∧
      (k.toInt < -3000 → recon mode d q k = recon mode d q (-3000))

/-- R160, R78: VFMIN and VFMAX deliver an operand; reciprocal and reciprocal root are the exact value
rounded once; of the other functions the operands that R78 singles out and the results that are exact.
What they deliver elsewhere is computed to 400 bits (log 13). -/
def Sys2Proof.Claim.FloatFunctions : Prop :=
  (∀ f ∈ [F64, F32], ∀ a b, a < 2 * f.signBit → b < 2 * f.signBit →
    let A := f.read a
    let B := f.read b
    let least := f.pick false a b
    let most := f.pick true a b
    let fl := if A.isSig || B.isSig then flNV else 0
    least.fl = fl ∧ most.fl = fl ∧
    (A.isNan = true → B.isNan = true → least.bits = f.nan ∧ most.bits = f.nan) ∧
    (A.isNan = true → B.isNan = false → least.bits = b ∧ most.bits = b) ∧
    (A.isNan = false → B.isNan = true → least.bits = a ∧ most.bits = a) ∧
    ∀ x y : EReal,
      let Rank := fun (v : Fp) (z : EReal) =>
        (v = .inf true ∧ z = ⊥) ∨ (v = .inf false ∧ z = ⊤) ∨ ∃ u : ℝ, Stands v u ∧ z = (u : EReal)
      let below := x < y ∨ (x = 0 ∧ y = 0 ∧ a = f.signBit ∧ b = 0)
      Rank A x → Rank B y → (below → least.bits = a ∧ most.bits = b) ∧
        (¬below → least.bits = b ∧ most.bits = a)) ∧
  ∀ a, a < 2 ^ 32 →
    let A := F32.read a
    let one : Nat := 0x3F800000
    (∀ g ∈ [F32.rcp, F32.rsq, F32.exp2, F32.log2, F32.trig false, F32.trig true],
      ∀ s, A = .nan s → NaNs F32 s (g a)) ∧
    (∀ s, A = .inf s →
      Zero F32 s (F32.rcp a) ∧ NaNs F32 true (F32.trig false a) ∧ NaNs F32 true (F32.trig true a) ∧
      (s = true → NaNs F32 true (F32.rsq a) ∧ Zero F32 false (F32.exp2 a) ∧
        NaNs F32 true (F32.log2 a)) ∧
      (s = false → Zero F32 false (F32.rsq a) ∧ Infinite F32 false 0 (F32.exp2 a) ∧
        Infinite F32 false 0 (F32.log2 a))) ∧
    ∀ s m e x, A = .fin s m e → Stands A x →
      (m = 0 → Infinite F32 s flDZ (F32.rcp a) ∧ Infinite F32 s flDZ (F32.rsq a) ∧
        Infinite F32 true flDZ (F32.log2 a) ∧ Zero F32 s (F32.trig false a) ∧
        F32.trig true a = { bits := one, fl := 0 }) ∧
      (m ≠ 0 → Delivers F32 0 false (1 / x) (F32.rcp a) ∧
        (s = true → NaNs F32 true (F32.rsq a) ∧ NaNs F32 true (F32.log2 a)) ∧
        (s = false → Delivers F32 0 false (1 / Real.sqrt x) (F32.rsq a))) ∧
      (128 ≤ x → Infinite F32 false (flOF ||| flNX) (F32.exp2 a)) ∧
      (∀ k : Int, -149 ≤ k → k ≤ 127 → x = k →
        Stands (F32.read (F32.exp2 a).bits) ((2 : ℝ) ^ k) ∧ (F32.exp2 a).fl = 0) ∧
      ∀ k : Int, x = (2 : ℝ) ^ k →
        Stands (F32.read (F32.log2 a).bits) (k : ℝ) ∧ (F32.log2 a).fl = 0 ∧
        (k = 0 → (F32.log2 a).bits = 0)

/-- The formats; the value and the flags of every floating-point operation. -/
def Obligations.FloatValues : Prop :=
  Claim.Encodings ∧ Claim.FloatArithmetic ∧ Claim.FloatFunctions

/-- R165 to R168: VCVT and VCVTS with each defined code, on the operand widths the code names.
`cvtFn` gives the conversion of a code under FMT.CRM. -/
def Sys2Proof.Claim.ConversionResults : Prop :=
  ∀ s c n g, Ready s c n g → ∀ (x : BitVec 2) (d a k : BitVec 6),
    let dst := if k.toNat ∈ [1, 14, 15, 18, 19, 20, 21, 23, 24, 25] then Src.pair d.toNat
      else Src.vec d.toNat
    let src := if k.toNat ∈ [0, 16, 17, 18, 19, 20, 21, 23] then Src.pair a.toNat
      else Src.vec a.toNat
    (k.toNat ≤ 25 →
      Elementwise s c n g (.vcvt x d a k) 4 dst src .none fun m a _ _ => cvtFn k.toNat false m a 0 0) ∧
    (k.toNat ∈ [0, 3, 5, 7, 9, 12, 13, 16, 17, 20, 21] →
      Elementwise s c n g (.vcvts x d a k) 4 dst src .none fun m a _ _ =>
        cvtFn k.toNat true m a 0 0)

/-- R70: FMT.CRM, or FMT.RM where it is 0, gives the rounding of a conversion. R165 to R168: the
conversion that each code names, of the low bits of its source, as a value of the lane. -/
def Sys2Proof.Claim.ConversionCodes : Prop :=
  (∀ m : BitVec 32, fmtRM m = (m.extractLsb' 0 2).toNat ∧ ∀ k ≤ 5, (m.extractLsb' 2 3).toNat = k →
    fmtCRM m = if k = 0 then (m.extractLsb' 0 2).toNat else k - 1) ∧
  ∀ (m : BitVec 32) (a : Word) (sat : Bool),
    let cvt := fun k => cvtFn k sat m a 0 0
    let crm := fmtCRM m
    let low := fun n => a.toNat % 2 ^ n
    let word := fun n => (BitVec.ofNat n a.toNat).toInt
    let float := fun (src dst : FFmt) (n : Nat) =>
      let r := convert src dst crm sat (low n)
      (BitVec.ofNat 64 r.bits, r.fl)
    let ofInt := fun (dst : FFmt) (v : Int) =>
      let r := fromInt dst crm v
      (BitVec.ofNat 64 r.bits, r.fl)
    let int := fun (src : FFmt) (n : Nat) (lo hi bad : Int) =>
      let r := toInt src crm sat lo hi bad (low n)
      (r.1, r.2)
    let put := fun (n : Nat) (r : Int × BitVec 7) => ((BitVec.ofInt n r.1).zeroExtend 64, r.2)
    let same := fun (f : FFmt) (n : Nat) =>
      let r := f.integral crm (low n)
      (BitVec.ofNat 64 r.bits, r.fl)
    cvt 0 = float F64 F32 64 ∧ cvt 1 = float F32 F64 32 ∧ cvt 2 = float FH F32 16 ∧
    cvt 3 = float F32 FH 32 ∧ cvt 4 = float FBF F32 16 ∧ cvt 5 = float F32 FBF 32 ∧
    cvt 6 = float FE4 F32 8 ∧ cvt 7 = float F32 FE4 32 ∧ cvt 8 = float FE5 F32 8 ∧
    cvt 9 = float F32 FE5 32 ∧
    cvt 10 = ofInt F32 (word 32) ∧ cvt 11 = ofInt F32 (low 32) ∧
    cvt 14 = ofInt F64 (word 32) ∧ cvt 15 = ofInt F64 (low 32) ∧
    cvt 18 = ofInt F64 (word 64) ∧ cvt 19 = ofInt F64 (low 64) ∧
    cvt 12 = put 32 (int F32 32 (-2 ^ 31) (2 ^ 31 - 1) (-2 ^ 31)) ∧
    cvt 13 = put 32 (int F32 32 0 (2 ^ 32 - 1) (2 ^ 32 - 1)) ∧
    cvt 16 = put 32 (int F64 64 (-2 ^ 31) (2 ^ 31 - 1) (-2 ^ 31)) ∧
    cvt 17 = put 32 (int F64 64 0 (2 ^ 32 - 1) (2 ^ 32 - 1)) ∧
    cvt 20 = put 64 (int F64 64 (-2 ^ 63) (2 ^ 63 - 1) (-2 ^ 63)) ∧
    cvt 21 = put 64 (int F64 64 0 (2 ^ 64 - 1) (2 ^ 64 - 1)) ∧
    cvt 22 = same F32 32 ∧ cvt 23 = same F64 64 ∧
    cvt 24 = ((a.truncate 32 : Lane).signExtend 64, 0) ∧
    cvt 25 = ((a.truncate 32 : Lane).zeroExtend 64, 0)

/-- R180: the digit of a slice: ⌊|x| · 2^(7(s+1) − e)⌋ mod 128, with the sign of x, and Invalid with the
digit 0 where x is no number below 2^e. -/
def Sys2Proof.Claim.SplitDigits : Prop :=
  ∀ (s x : Nat) (e : Int), s < 8 → x < 2 ^ 64 → -(2 ^ 31) ≤ e → e < 2 ^ 31 →
    let r := splitDigit s x e
    ((∀ y, ¬Stands (F64.read x) y) → r = (0, flNV)) ∧
    ∀ y, Stands (F64.read x) y →
      ((2 : ℝ) ^ e ≤ |y| → r = (0, flNV)) ∧
      (|y| < (2 : ℝ) ^ e → r.2 = 0 ∧ r.1 < 256 ∧
        let d := ⌊|y| * (2 : ℝ) ^ (7 * ((s : Int) + 1) - e)⌋ % 128
        (BitVec.ofNat 8 r.1).toInt = if y < 0 then -d else d)

/-- Every conversion, pack, unpack and split completes where no trap of a flag is enabled: its group
goes on behind it, with EXEC, LIVE and FMT as they were. -/
def Sys2Proof.Claim.ConversionsComplete : Prop :=
  ∀ s c n g, Ready s c n g → fmtEnables g.format = 0 →
    ∀ (x : BitVec 2) (d a b k : BitVec 6) (sl : BitVec 3) (y : BitVec 2),
    let runs := fun (i : Instr) => ∃ t h, exec i s = .next t ∧ t.mem = s.mem ∧
      t.work.grp c n = some h ∧ h.pc = g.pc + 4 ∧ h.exec = g.exec ∧ h.live = g.live ∧ h.fmt = g.fmt
    let fits := fun (wide : Bool) (r : Nat) => if wide then g.hasPair r = true else g.hasV r = true
    let wideD := decide (k.toNat ∈ [1, 14, 15, 18, 19, 20, 21, 23, 24, 25])
    let wideA := decide (k.toNat ∈ [0, 16, 17, 18, 19, 20, 21, 23])
    (fits wideD d.toNat → fits wideA a.toNat →
      (k.toNat ≤ 25 → runs (.vcvt x d a k)) ∧
      (k.toNat ∈ [0, 3, 5, 7, 9, 12, 13, 16, 17, 20, 21] → runs (.vcvts x d a k))) ∧
    (g.hasV d.toNat = true → g.hasV a.toNat = true →
      (g.hasV b.toNat = true →
        runs (.vpackHF32 x d a b) ∧ runs (.vpackBfF32 x d a b) ∧ runs (.vpackHF32Sat x d a b) ∧
        runs (.vpackBfF32Sat x d a b) ∧ runs (.vpackE4H x d a b) ∧ runs (.vpackE5H x d a b) ∧
        runs (.vpackE4HSat x d a b) ∧ runs (.vpackE5HSat x d a b) ∧ runs (.vpackI16I32 x d a b) ∧
        runs (.vpackN16I32 x d a b) ∧ runs (.vpackI8I16 x d a b) ∧ runs (.vpackN8I16 x d a b)) ∧
      (k.toNat ≤ 1 →
        runs (.vunpackF32H x d a k) ∧ runs (.vunpackF32Bf x d a k) ∧ runs (.vunpackHE4 x d a k) ∧
        runs (.vunpackHE5 x d a k) ∧ runs (.vunpackI32I16 x d a k) ∧
        runs (.vunpackI32N16 x d a k) ∧ runs (.vunpackI16I8 x d a k)) ∧
      (k.toNat ≤ 3 → runs (.vunpackI32I8 x d a k) ∧ runs (.vunpackI32N8 x d a k))) ∧
    (g.hasV d.toNat = true → g.hasPair a.toNat = true → g.hasV b.toNat = true →
      runs (.vsplit x sl y d a b))

/-- R167, R168: a float converted to an integer of n bits is the rounded value when that fits.
Otherwise Invalid is raised: VCVT delivers the lowest value of a signed destination or all ones of
an unsigned one, and VCVTS the nearest bound, or 0 for a NaN. -/
def Sys2Proof.Claim.FloatToInteger : Prop :=
  ∀ (f : FFmt) (m a : Nat) (sat : Bool) (lo hi bad : Int), lo ≤ hi →
    let r := toInt f m sat lo hi bad a
    match f.read a with
    | .nan _ => r = (if sat then 0 else bad, flNV)
    | .inf neg => r = (if sat then (if neg then lo else hi) else bad, flNV)
    | .fin neg v e =>
      let w : Int := roundAt m neg v e 0
      let u := if neg then -w else w
      (lo ≤ u → u ≤ hi → r.1 = u ∧ (r.2 = 0 ↔ exactAt v e 0 = true) ∧ (r.2 = 0 ∨ r.2 = flNX)) ∧
      (u < lo → r = (if sat then lo else bad, flNV)) ∧
      (hi < u → r = (if sat then hi else bad, flNV))

/-- R70, R166: rounding to an integer by each mode, and when it is exact. An integer source is rounded
once into its format; codes 22 and 23 keep what is integral and the sign of the source. -/
def Sys2Proof.Claim.IntegerRounding : Prop :=
  (∀ mode neg v e, mode ≤ 4 → ∀ x : ℝ, Stands (.fin neg v e) x →
    let whole := fun y : ℝ => ∃ n : Int, y = n
    let even := fun y : ℝ => ∃ n : Int, y = 2 * n
    Nearest whole even mode x ((if neg then -1 else 1) * (roundAt mode neg v e 0 : ℝ)) ∧
    (exactAt v e 0 = true ↔ whole x)) ∧
  (∀ f ∈ [F32, F64], ∀ mode ≤ 4,
    (∀ n : Int, (n = 0 → fromInt f mode n = { bits := 0, fl := 0 }) ∧
      (n ≠ 0 → Delivers f mode false (n : ℝ) (fromInt f mode n))) ∧
    ∀ a < 2 * f.signBit,
      let r := f.integral mode a
      (∀ s, f.read a = .nan s → NaNs f s r) ∧ (∀ s, f.read a = .inf s → r = { bits := a, fl := 0 }) ∧
      ∀ neg m e x, f.read a = .fin neg m e → Stands (f.read a) x →
        (exactAt m e 0 = true → r = { bits := a, fl := 0 }) ∧
        (exactAt m e 0 = false → r.fl = flNX ∧ (∃ n d, f.read r.bits = .fin neg n d) ∧
          Stands (f.read r.bits) ((if neg then -1 else 1) * (roundAt mode neg m e 0 : ℝ)))) ∧
  ∀ src ∈ [F64, F32, FH, FBF, FE5, FE4], ∀ dst ∈ [F64, F32, FH, FBF, FE5, FE4], ∀ mode ≤ 4,
    ∀ sat a, let r := convert src dst mode sat a
    (∀ s, src.read a = .nan s → NaNs dst s r) ∧
    (∀ s, src.read a = .inf s →
      (sat = true → r = { bits := (if s then dst.signBit else 0) + dst.maxFin, fl := 0 }) ∧
      (sat = false → if dst = FE4 then NaNs dst true r else Infinite dst s 0 r)) ∧
    ∀ s m e x, src.read a = .fin s m e → Stands (src.read a) x →
      (m = 0 → Zero dst s r) ∧ (m ≠ 0 → Delivers dst mode sat x r)

/-- R169, R170, R180: VPACK, VUNPACK and VSPLIT. -/
def Sys2Proof.Claim.PackResults : Prop :=
  ∀ s c n g, Ready s c n g → ∀ (x : BitVec 2) (d a b k : BitVec 6) (sl : BitVec 3) (by_ : BitVec 2),
    let D := Src.vec d.toNat
    let A := Src.vec a.toNat
    let two := fun (i : Instr) (f : Nat → Nat → Fr) =>
      Elementwise s c n g i 4 D A (.vec b.toNat) fun m a b _ =>
        let p := f (fmtCRM m) a.toNat
        let q := f (fmtCRM m) b.toNat
        (BitVec.ofNat 64 (p.bits + 2 ^ 16 * q.bits), p.fl ||| q.fl)
    let four := fun (i : Instr) (f : Nat → Nat → Fr) =>
      Elementwise s c n g i 4 D A (.vec b.toNat) fun m a b _ =>
        let p := f (fmtCRM m) (a.toNat % 2 ^ 16)
        let q := f (fmtCRM m) (a.toNat / 2 ^ 16)
        let r := f (fmtCRM m) (b.toNat % 2 ^ 16)
        let t := f (fmtCRM m) (b.toNat / 2 ^ 16)
        (BitVec.ofNat 64 (p.bits + 2 ^ 8 * q.bits + 2 ^ 16 * r.bits + 2 ^ 24 * t.bits),
          p.fl ||| q.fl ||| r.fl ||| t.fl)
    let ints := fun (i : Instr) (f : Lane → Lane → Lane) =>
      g.hasV d.toNat = true → g.hasV a.toNat = true → g.hasV b.toNat = true →
      ToVector s c n g i 4 d.toNat g.exec fun l => f (g.v a.toNat l) (g.v b.toNat l)
    let clamp := fun (lo hi v : Int) (w : Nat) => BitVec.ofInt w (max lo (min hi v))
    let half := fun (v : Lane) (i : Nat) => (v.extractLsb' (16 * i) 16).toInt
    let un := fun (i : Instr) (top : Nat) (f : Lane → Lane) =>
      k.toNat ≤ top → g.hasV d.toNat = true → g.hasV a.toNat = true →
      ToVector s c n g i 4 d.toNat g.exec fun l => f (g.v a.toNat l)
    let unF := fun (i : Instr) (f : Nat → Fr) =>
      k.toNat ≤ 1 → Elementwise s c n g i 4 D A .none fun _ a _ _ => (f a.toNat).lane
    let byte := fun (v j : Nat) => v / 2 ^ (8 * j) % 2 ^ 8
    two (.vpackHF32 x d a b) (fun m => convert F32 FH m false) ∧
    two (.vpackBfF32 x d a b) (fun m => convert F32 FBF m false) ∧
    two (.vpackHF32Sat x d a b) (fun m => convert F32 FH m true) ∧
    two (.vpackBfF32Sat x d a b) (fun m => convert F32 FBF m true) ∧
    four (.vpackE4H x d a b) (fun m => convert FH FE4 m false) ∧
    four (.vpackE5H x d a b) (fun m => convert FH FE5 m false) ∧
    four (.vpackE4HSat x d a b) (fun m => convert FH FE4 m true) ∧
    four (.vpackE5HSat x d a b) (fun m => convert FH FE5 m true) ∧
    ints (.vpackI16I32 x d a b) (fun a b =>
      clamp (-32768) 32767 b.toInt 16 ++ clamp (-32768) 32767 a.toInt 16) ∧
    ints (.vpackN16I32 x d a b) (fun a b => clamp 0 65535 b.toInt 16 ++ clamp 0 65535 a.toInt 16) ∧
    ints (.vpackI8I16 x d a b) (fun a b =>
      let q := fun (v : Int) => clamp (-128) 127 v 8
      q (half b 1) ++ q (half b 0) ++ q (half a 1) ++ q (half a 0)) ∧
    ints (.vpackN8I16 x d a b) (fun a b =>
      let q := fun (v : Int) => clamp 0 255 v 8
      q (half b 1) ++ q (half b 0) ++ q (half a 1) ++ q (half a 0)) ∧
    unF (.vunpackF32H x d a k) (fun v => convert FH F32 0 false (v / 2 ^ (16 * k.toNat) % 2 ^ 16)) ∧
    unF (.vunpackF32Bf x d a k)
      (fun v => convert FBF F32 0 false (v / 2 ^ (16 * k.toNat) % 2 ^ 16)) ∧
    (k.toNat ≤ 1 → Elementwise s c n g (.vunpackHE4 x d a k) 4 D A .none fun _ a _ _ =>
      let p := convert FE4 FH 0 false (byte a.toNat (2 * k.toNat))
      let q := convert FE4 FH 0 false (byte a.toNat (2 * k.toNat + 1))
      (BitVec.ofNat 64 (p.bits + 2 ^ 16 * q.bits), p.fl ||| q.fl)) ∧
    (k.toNat ≤ 1 → Elementwise s c n g (.vunpackHE5 x d a k) 4 D A .none fun _ a _ _ =>
      let p := convert FE5 FH 0 false (byte a.toNat (2 * k.toNat))
      let q := convert FE5 FH 0 false (byte a.toNat (2 * k.toNat + 1))
      (BitVec.ofNat 64 (p.bits + 2 ^ 16 * q.bits), p.fl ||| q.fl)) ∧
    un (.vunpackI32I16 x d a k) 1 (fun v => (v.extractLsb' (16 * k.toNat) 16).signExtend 32) ∧
    un (.vunpackI32N16 x d a k) 1 (fun v => (v.extractLsb' (16 * k.toNat) 16).zeroExtend 32) ∧
    un (.vunpackI16I8 x d a k) 1 (fun v =>
      (v.extractLsb' (16 * k.toNat + 8) 8).signExtend 16 ++
        (v.extractLsb' (16 * k.toNat) 8).signExtend 16) ∧
    un (.vunpackI32I8 x d a k) 3 (fun v => (v.extractLsb' (8 * k.toNat) 8).signExtend 32) ∧
    un (.vunpackI32N8 x d a k) 3 (fun v => (v.extractLsb' (8 * k.toNat) 8).zeroExtend 32) ∧
    Elementwise s c n g (.vsplit x sl by_ d a b) 4 D (.pair a.toNat) (.vec b.toNat) fun _ a b d =>
      let q := splitDigit sl.toNat a.toNat (b.truncate 32 : Lane).toInt
      let m : Word := 255#64 <<< (8 * by_.toNat)
      ((d &&& ~~~m) ||| (BitVec.ofNat 64 q.1 <<< (8 * by_.toNat)), q.2)

/-- Conversions by code, float to integer bounds, packing, unpacking and digits.

Instructions whose completion it states, each with the effect it gives: vcvt, vcvts, vpackHF32,
vpackBfF32, vpackHF32Sat, vpackBfF32Sat, vpackE4H, vpackE5H, vpackE4HSat, vpackE5HSat,
vpackI16I32, vpackN16I32, vpackI8I16, vpackN8I16, vunpackF32H, vunpackF32Bf, vunpackHE4,
vunpackHE5, vunpackI32I16, vunpackI32N16, vunpackI16I8, vunpackI32I8, vunpackI32N8, vsplit. -/
def Obligations.Conversions : Prop :=
  Claim.ConversionResults ∧ Claim.FloatToInteger ∧ Claim.PackResults ∧ Claim.ConversionCodes ∧
  Claim.SplitDigits ∧ Claim.IntegerRounding ∧ Claim.ConversionsComplete

/-- R173, R174: each active lane takes va from the source lane its instruction names; a source lane
that is not live, or not below W, gives 0, and in the K forms leaves the old value. -/
def Sys2Proof.Claim.PermuteResults : Prop :=
  ∀ s c n g, Ready s c n g → ∀ (x : BitVec 2) (d a b q : BitVec 6) (k : BitVec 3),
    g.hasV d.toNat = true → g.hasV a.toNat = true → g.hasV b.toNat = true →
    q.toNat < g.width → k.toNat ≤ 5 →
    let wr := fun (keep : Bool) (i : Instr) (j : Nat → Nat) =>
      ToVector s c n g i 4 d.toNat g.exec fun l =>
        if j l < g.width ∧ bit g.live (j l) = true then g.v a.toNat (j l)
        else if keep then g.v d.toNat l else 0
    let by_ := fun l => (g.v b.toNat l).toNat
    let W := g.width / 2 ^ k.toNat
    wr false (.vperm x d a b) by_ ∧ wr true (.vpermK x d a b) by_ ∧
    wr false (.vshfl x d a q) (fun l => l ^^^ q.toNat) ∧
    wr true (.vshflK x d a q) (fun l => l ^^^ q.toNat) ∧
    wr false (.vshflW x d a k) (fun l => l ^^^ W) ∧ wr true (.vshflKW x d a k) (fun l => l ^^^ W) ∧
    wr false (.vrot x d a q) (fun l => (l + q.toNat) % g.width) ∧
    wr true (.vrotK x d a q) (fun l => (l + q.toNat) % g.width) ∧
    wr false (.vrotW x d a k) (fun l => (l + W) % g.width) ∧
    wr true (.vrotKW x d a k) (fun l => (l + W) % g.width) ∧
    wr false (.vbcast x d a q) (fun _ => q.toNat) ∧ wr true (.vbcastK x d a q) (fun _ => q.toNat)

/-- R178, R179: VBALLOT, VVOTE and the lane moves. -/
def Sys2Proof.Claim.LaneMoveResults : Prop :=
  ∀ s c n g, Ready s c n g → ∀ (x : BitVec 2) (d a b q : BitVec 6),
    let on := fun l => bit g.exec l
    (d.toNat < 8 → g.hasV a.toNat = true →
      Completes s c n g (.vballot x d a) (g.pc + 4) g { ms := [d.toNat] } fun h => ∀ l < 64,
        bit (h.m d.toNat) l = (bit g.exec l && decide (g.v a.toNat l ≠ 0) && bit g.live l)) ∧
    (g.hasV d.toNat = true → g.hasV a.toNat = true →
      let vote := fun (m : BitVec 6) (p : Bool) =>
        ToVector s c n g (.vvote x d a m) 4 d.toNat g.exec fun _ => if p then 1 else 0
      let lanes := (List.range 64).filter on
      let same := fun l j => decide (g.v a.toNat l = g.v a.toNat j)
      vote 0 (lanes.all fun l => decide (g.v a.toNat l ≠ 0)) ∧
      vote 1 (lanes.any fun l => decide (g.v a.toNat l ≠ 0)) ∧
      vote 2 (lanes.all fun l => lanes.all (same l))) ∧
    (q.toNat < g.width →
      let up := bit g.live q.toNat
      (g.hasV a.toNat = true →
        ToScalar s c n g (.vmovsN32 x d a q) d.toNat
          (if up then (g.v a.toNat q.toNat).zeroExtend 64 else 0) ∧
        ToScalar s c n g (.vmovsI32 x d a q) d.toNat
          (if up then (g.v a.toNat q.toNat).signExtend 64 else 0)) ∧
      (g.hasPair a.toNat = true →
        ToScalar s c n g (.vmovsN64 x d a q) d.toNat
          (if up then g.v64 a.toNat q.toNat else 0)) ∧
      (g.hasV d.toNat = true →
        ToVector s c n g (.vinsN32 x d q b) 4 d.toNat (if up then 1#64 <<< q.toNat else 0)
          (fun _ => (g.s b.toNat).truncate 32)) ∧
      (g.hasPair d.toNat = true →
        Completes s c n g (.vinsN64 x d q b) (g.pc + 4) g { vs := [d.toNat, d.toNat + 1] }
          fun h => ∀ l < 64, h.v64 d.toNat l =
            if up = true ∧ l = q.toNat then g.s b.toNat else g.v64 d.toNat l)) ∧
    (g.hasV d.toNat = true →
      ToVector s c n g (.vmovl x d a b) 4 d.toNat g.exec (fun _ => (b ++ a).signExtend 32) ∧
      ToVector s c n g (.vlane x d) 4 d.toNat g.exec (fun l => BitVec.ofNat 32 l))

/-- Every permute and lane move completes: its group goes on behind it, with EXEC, LIVE, FMT and FLG as
they were. -/
def Sys2Proof.Claim.LaneMovesComplete : Prop :=
  ∀ s c n g, Ready s c n g → ∀ (x : BitVec 2) (d a b q : BitVec 6) (k : BitVec 3),
    let runs := fun (i : Instr) => ∃ t h, exec i s = .next t ∧ t.mem = s.mem ∧
      t.work.grp c n = some h ∧ h.pc = g.pc + 4 ∧ h.exec = g.exec ∧ h.live = g.live ∧
      h.fmt = g.fmt ∧ h.flg = g.flg
    (g.hasV d.toNat = true → g.hasV a.toNat = true →
      (g.hasV b.toNat = true → runs (.vperm x d a b) ∧ runs (.vpermK x d a b)) ∧
      (q.toNat < g.width →
        runs (.vshfl x d a q) ∧ runs (.vshflK x d a q) ∧ runs (.vrot x d a q) ∧
        runs (.vrotK x d a q) ∧ runs (.vbcast x d a q) ∧ runs (.vbcastK x d a q)) ∧
      (k.toNat ≤ 5 →
        runs (.vshflW x d a k) ∧ runs (.vshflKW x d a k) ∧ runs (.vrotW x d a k) ∧
        runs (.vrotKW x d a k)) ∧
      (q.toNat ≤ 2 → runs (.vvote x d a q))) ∧
    (d.toNat < 8 → g.hasV a.toNat = true → runs (.vballot x d a)) ∧
    (q.toNat < g.width →
      (g.hasV a.toNat = true → runs (.vmovsN32 x d a q) ∧ runs (.vmovsI32 x d a q)) ∧
      (g.hasPair a.toNat = true → runs (.vmovsN64 x d a q)) ∧
      (g.hasV d.toNat = true → runs (.vinsN32 x d q b)) ∧
      (g.hasPair d.toNat = true → runs (.vinsN64 x d q b))) ∧
    (g.hasV d.toNat = true → runs (.vmovl x d a b) ∧ runs (.vlane x d))

/-- Permutes, shuffles, rotations, ballots, votes and lane moves.

Instructions whose completion it states, each with the effect it gives: vperm, vpermK, vshfl,
vshflK, vshflW, vshflKW, vrot, vrotK, vrotW, vrotKW, vbcast, vbcastK, vballot, vvote, vmovsN32,
vmovsI32, vmovsN64, vinsN32, vinsN64, vmovl, vlane. -/
def Obligations.LaneMoves : Prop :=
  Claim.PermuteResults ∧ Claim.LaneMoveResults ∧ Claim.LaneMovesComplete

/-- R175 to R177: VRED delivers the tree of the active lanes to every active lane, VSCAN to each the
prefix that ends with it. -/
def Sys2Proof.Claim.ReductionResults : Prop :=
  ∀ s c n g, Ready s c n g → ∀ (x : BitVec 2) (d a p : BitVec 6),
    let wide := decide (12 ≤ p.toNat)
    let D := if wide then Src.pair d.toNat else Src.vec d.toNat
    let A := if wide then Src.pair a.toNat else Src.vec a.toNat
    p.toNat ≤ 14 → p.toNat ≠ 11 → D.ok g = true → A.ok g = true →
    let terms := (List.range g.width).map fun l => if bit g.exec l then some (A.val g l) else none
    let m := fmtRM g.format
    let sig := redSig p.toNat terms
    let tree := redTree p.toNat m terms
    let scan := scanAll p.toNat m terms
    Flagged s c n g (.vred x d a p) 4 (tree.2 ||| sig) g.exec { vs := regsOf D } (fun h => ∀ l < 64,
      D.val h l = if bit g.exec l then held D (redOut p.toNat tree.1) else D.val g l) ∧
    Flagged s c n g (.vscan x d a p) 4 (scan.2 ||| sig) g.exec { vs := regsOf D } (fun h => ∀ l < 64,
      D.val h l = if bit g.exec l then held D (redOut p.toNat ((scan.1[l]?).getD none))
        else D.val g l)

/-- R175 to R177: an integer reduction is that of the present terms in any order; a scan position is
the reduction of the terms up to it; neither raises a flag. -/
def Sys2Proof.Claim.IntegerReductions : Prop :=
  ∀ (p m : Nat) (t : List (Option Word)), p ≤ 7 → t.length ≤ 64 →
    (∀ x, some x ∈ t → x.toNat < 2 ^ 32) →
    let all := fun (l : List (Option Word)) => l.foldl (fun u x => (combO p m u x).1) none
    redTree p m t = (all t, 0) ∧
    scanAll p m t = ((List.range t.length).map fun i => all (t.take (i + 1)), 0)

/-- R177: the combination of each operation code, with an absent term and with two present ones; the
result where no term is present; the canonical NaN, and Invalid for a signalling term. -/
def Sys2Proof.Claim.ReductionCodes : Prop :=
  (∀ p m x, combO p m none x = (x, 0) ∧ combO p m x none = (x, 0)) ∧
  (∀ (m : Nat) (a b : Lane),
    let int := fun p (v : Lane) =>
      combO p m (some (a.zeroExtend 64)) (some (b.zeroExtend 64)) = (some (v.zeroExtend 64), 0)
    int 0 (a + b) ∧ int 1 (if a.slt b then a else b) ∧ int 2 (if a.slt b then b else a) ∧
    int 3 (if a.ult b then a else b) ∧ int 4 (if a.ult b then b else a) ∧ int 5 (a &&& b) ∧
    int 6 (a ||| b) ∧ int 7 (a ^^^ b)) ∧
  (∀ (m : Nat) (x y : Word),
    let float := fun p (r : Fr) =>
      combO p m (some x) (some y) = (some (BitVec.ofNat 64 r.bits), r.fl)
    float 8 (F32.add m x.toNat y.toNat) ∧ float 9 (F32.pick false x.toNat y.toNat) ∧
    float 10 (F32.pick true x.toNat y.toNat) ∧ float 12 (F64.add m x.toNat y.toNat) ∧
    float 13 (F64.pick false x.toNat y.toNat) ∧ float 14 (F64.pick true x.toNat y.toNat)) ∧
  ([0, 1, 2, 3, 4, 5, 6, 7, 8, 9, 10, 12, 13, 14].map fun p => redOut p none) =
    [0, 0x7FFFFFFF, 0x80000000, 0xFFFFFFFF, 0, 0xFFFFFFFF, 0, 0, 0, 0x7F800000, 0xFF800000, 0,
      0x7FF0000000000000, 0xFFF0000000000000] ∧
  (∀ p v, p ≤ 7 → redOut p (some v) = v) ∧
  (∀ p f nan, (p ∈ [8, 9, 10] ∧ f = F32 ∧ nan = 0x7FC00000) ∨
      (p ∈ [12, 13, 14] ∧ f = F64 ∧ nan = 0x7FF8000000000000) →
    (∀ v, redOut p (some v) = if (f.read v.toNat).isNan then nan else v) ∧
    ∀ t, ((∃ v, some v ∈ t ∧ (f.read v.toNat).isSig = true) → redSig p t = flNV) ∧
      ((∀ v, some v ∈ t → (f.read v.toNat).isSig = false) → redSig p t = 0)) ∧
  ∀ p t, p ≤ 7 → redSig p t = 0

/-- R175, R176: the tree by lane position, its lower half the first operand, and the prefix of each
position in steps of 1, 2, 4 and so on; the flags are those of all the combinations. -/
def Sys2Proof.Claim.ReductionOrders : Prop :=
  ∀ (p m w : Nat) (t : List (Option Word)), w ≤ 6 → t.length = 2 ^ w →
    redTree p m t = treeAt p m t w 0 ∧
    (∀ i < t.length, (scanAll p m t).1[i]? = some (prefixAt p m t 6 i)) ∧
    (scanAll p m t).1.length = t.length ∧
    ∀ b, (scanAll p m t).2.getLsbD b = true ↔ ∃ k i, 2 ^ k ≤ i ∧ i < t.length ∧
      (combO p m (prefixAt p m t k (i - 2 ^ k)) (prefixAt p m t k i)).2.getLsbD b = true

/-- VRED and VSCAN complete where no trap of a flag is enabled. -/
def Sys2Proof.Claim.ReductionsComplete : Prop :=
  ∀ s c n g, Ready s c n g → fmtEnables g.format = 0 → ∀ (x : BitVec 2) (d a p : BitVec 6),
    let fits := fun (r : Nat) => if 12 ≤ p.toNat then g.hasPair r = true else g.hasV r = true
    p.toNat ≤ 14 → p.toNat ≠ 11 → fits d.toNat → fits a.toNat →
    ∀ i, i = .vred x d a p ∨ i = .vscan x d a p →
      ∃ t h, exec i s = .next t ∧ t.mem = s.mem ∧ t.work.grp c n = some h ∧ h.pc = g.pc + 4 ∧
        h.exec = g.exec ∧ h.live = g.live ∧ h.fmt = g.fmt

/-- VRED and VSCAN over the active lanes.

Instructions whose completion it states, each with the effect it gives: vred, vscan. -/
def Obligations.Reductions : Prop :=
  Claim.ReductionResults ∧ Claim.IntegerReductions ∧ Claim.ReductionCodes ∧ Claim.ReductionOrders ∧
  Claim.ReductionsComplete

/-! ## Memory and synchronisation -/

/-- R125, R207 to R211, R403: a load whose lanes pass the checks of R209 issues: LC counts it, its
destination is pending, the load is on record with the address of every lane. A VLD without an
active lane does nothing. One of the register window holds its value at once.

Instructions whose completion it states, each with the effect it gives: sld, vld. -/
def Obligations.LoadsIssue : Prop :=
  ∀ s c n g, Ready s c n g → g.lc < 63 →
    ∀ (x z : BitVec 2) (d a b o : BitVec 6) (i : BitVec 8) (w : BitVec 3) (h : BitVec 2),
    let loads := fun (t : State) (op : Nat) (q : List (Nat × Nat × Nat)) (kind : RegKind)
        (size : Nat) (signed : Bool) =>
      ∃ l, tfind op (t.work.core c).loads = some l ∧ l.slot = n ∧ l.kind = kind ∧
        l.reg = d.toNat ∧ l.size = size ∧ l.signed = signed ∧ l.addr = q.map fun y => (y.1, y.2.1)
    (∀ u pa key,
      s.work.resolve c n g .load (2 ^ z.toNat) true
        (fun e pa => s.work.placeOk g e pa (2 ^ z.toNat) false true
          (decide (g.kind = .supervisor) && decide (2 ^ z.toNat = 8)))
        [(0, scalarAddr g a.toNat z.toNat i)] = .ok u [(0, pa, key)] →
      let op := (u.core c).opSeq
      let bank := g.banked .scalar d.toNat
      ∃ t, exec (.sld x z d a i) s = .next t ∧
        Issues s t c n g 4 { g with
          lc := g.lc + 1
          pend := [{ kind := .scalar, reg := d.toNat, bank, lanes := allLanes, op }] } ∧
        loads t op [(0, pa, key)] .scalar (2 ^ z.toNat) false ∧
        ∀ off, u.place pa = .window off → ∃ l, tfind op (t.work.core c).loads = some l ∧
          l.left = 0 ∧ l.missed = false ∧ l.bad = 0 ∧
          l.got = [(0, (u.regRead .supervisor off).zeroExtend 128)]) ∧
    (widthOk g w.toNat d.toNat = true → g.hasV o.toNat = true → w.toNat ≤ 6 →
      (g.exec = 0 → Completes s c n g (.vld x w d b o h) (g.pc + 4) g {} fun _ => True) ∧
      (g.exec ≠ 0 → ∀ u q,
        s.work.resolve c n g .load (widthBytes w.toNat) false
          (fun e pa => s.work.placeOk g e pa (widthBytes w.toNat) (h = 3#2) true false)
          (laneAddrs g b.toNat o.toNat) = .ok u q →
        let op := (u.core c).opSeq
        ∃ t, exec (.vld x w d b o h) s = .next t ∧
          Issues s t c n g 4 { g with
            lc := g.lc + 1
            pend := (List.range (widthRegs w.toNat)).map fun k =>
              { kind := .vector, reg := d.toNat + k, bank := false, lanes := g.exec, op } } ∧
          loads t op q .vector (widthBytes w.toNat) (decide (w.toNat = 1 ∨ w.toNat = 3))))

/-- R126, R207, R211, R184, R403: a store whose lanes pass the checks of R209 issues: SC counts it, its
bytes are on their way to their homes, one request per line. One to the register window writes its
register at once.

Instructions whose completion it states, each with the effect it gives: sst, vst. -/
def Obligations.StoresIssue : Prop :=
  ∀ s c n g, Ready s c n g → g.sc < 63 →
    ∀ (x z : BitVec 2) (d a b o : BitVec 6) (i : BitVec 8) (w : BitVec 3) (h : BitVec 2),
    let sent := fun (t : State) (op : Nat) (q : List (Nat × Nat × Nat)) (ef ms : Bool)
        (cells : List Host.Cell) =>
      (∃ y, tfind op (t.work.core c).stores = some y ∧ y.slot = n ∧ y.left = (linesOf q).length) ∧
      ∀ line ∈ linesOf q, Sent t c (mkReq c n g line (lineKey q line) op ef ms false
        (.store (cells.filter fun y => decide (y.1 / 128 = line))))
    (∀ u pa key,
      s.work.resolve c n g .store (2 ^ z.toNat) true
        (fun e pa => s.work.placeOk g e pa (2 ^ z.toNat) false true
          (decide (g.kind = .supervisor) && decide (2 ^ z.toNat = 8)))
        [(0, scalarAddr g a.toNat z.toNat i)] = .ok u [(0, pa, key)] →
      (∀ off, u.place pa ≠ .window off) →
      ∃ t, exec (.sst x z d a i) s = .next t ∧ Issues s t c n g 4 { g with sc := g.sc + 1 } ∧
        sent t (u.core c).opSeq [(0, pa, key)] false false
          (cellsAt pa (2 ^ z.toNat) (g.s d.toNat).toNat)) ∧
    (∀ u pa key off,
      s.work.resolve c n g .store (2 ^ z.toNat) true
        (fun e pa => s.work.placeOk g e pa (2 ^ z.toNat) false true
          (decide (g.kind = .supervisor) && decide (2 ^ z.toNat = 8)))
        [(0, scalarAddr g a.toNat z.toNat i)] = .ok u [(0, pa, key)] →
      u.place pa = .window off →
      let y := u.regWrite .supervisor off (g.s d.toNat) allLanes
      let regs := fun (m : Mach) => (m.rootbase, m.queues, m.clusters, m.tlbinv, m.tlbinvOwn,
        m.tlbBusy, m.nmsplit, m.fwready, m.bootwhy)
      ∃ t, exec (.sst x z d a i) s = .next t ∧ Issues s t c n g 4 { g with sc := g.sc + 1 } ∧
        regs t.toMach = regs y.toMach ∧
        (u.core c).opSeq ∈ (t.work.core c).inbox.acks) ∧
    (storeWidthDefined w = true → h ≠ 1 → widthOk g w.toNat d.toNat = true →
      g.hasV o.toNat = true →
      (g.exec = 0 → Completes s c n g (.vst x w d b o h) (g.pc + 4) g {} fun _ => True) ∧
      (g.exec ≠ 0 → ∀ u q,
        s.work.resolve c n g .store (widthBytes w.toNat) false
          (fun e pa => s.work.placeOk g e pa (widthBytes w.toNat) (h = 3#2) true false)
          (laneAddrs g b.toNat o.toNat) = .ok u q →
        ∃ t, exec (.vst x w d b o h) s = .next t ∧ Issues s t c n g 4 { g with sc := g.sc + 1 } ∧
          sent t (u.core c).opSeq q (h = 2#2) (h = 3#2)
            (q.flatMap fun y => cellsAt y.2.1 (widthBytes w.toNat)
              (laneData g w.toNat d.toNat y.1))))

/-- R209: the checks run in this order over all lanes: alignment (07), then the page, then mapping
and permission (08); EINFO is the address of the lowest failing lane and ELANES names all of them. A
scalar access names none. -/
def Obligations.AccessChecks : Prop :=
  ∀ (w : Work) c n g acc z (p : TlbEnt → Nat → Bool) lanes,
    let bad := lanes.filter fun l => decide (l.2 % z ≠ 0)
    (∀ l rest, bad = l :: rest →
      w.resolve c n g acc z false p lanes =
        .stop (.trap 0x07 (BitVec.ofNat 64 l.2) (lanesMask false (bad.map Prod.fst))) ∧
      w.resolve c n g acc z true p lanes = .stop (.trap 0x07 (BitVec.ofNat 64 l.2) 0)) ∧
    (∀ l va e t, tlbLook g.owner va (w.core c).tlb = some (e, t) → va % z = 0 →
      (w.permits g e acc = true → p e (e.phys va) = true →
        ∃ u, w.resolve c n g acc z false p [(l, va)] = .ok u [(l, e.phys va, e.key)]) ∧
      (w.permits g e acc = false ∨ p e (e.phys va) = false →
        w.resolve c n g acc z true p [(l, va)] = .stop (.trap 0x08 (BitVec.ofNat 64 va) 0))) ∧
    (bad = [] → ∀ scalar,
      let found := (w.translateAll c g lanes).2
      let named := fun (q : List (Nat × Nat × Trans)) => lanesMask scalar (q.map (·.1))
      let at_ := fun (t : Trans) => found.filter fun q => decide (q.2.2 = t)
      let refused := found.filter fun q =>
        match q.2.2 with
        | .page e => !(w.translateAll c g lanes).1.permits g e acc || !p e (e.phys q.2.1)
        | _ => true
      -- a page that no TLB holds is walked before anything is decided
      (at_ .miss ≠ [] → ∃ u, ∃ q ∈ at_ .miss, w.resolve c n g acc z scalar p lanes =
        .stop (.hold u g (some (.walk g.owner (q.2.1 / 65536))))) ∧
      -- a page fault comes before a refusal
      (at_ .miss = [] → ∀ f rest, at_ .pageFault = f :: rest → ∃ u h,
        w.resolve c n g acc z scalar p lanes = .stop (.hold u h (some (.fault f.2.1
          (decide (acc = .store ∨ acc = .atomic)) (named (at_ .pageFault)))))) ∧
      (at_ .miss = [] → at_ .pageFault = [] → ∀ f rest, refused = f :: rest →
        w.resolve c n g acc z scalar p lanes =
          .stop (.trap 0x08 (BitVec.ofNat 64 f.2.1) (named refused)))) ∧
    ∀ (q : List Nat) (i : Nat), i < 64 →
      bit (lanesMask false q) i = decide (i ∈ q) ∧ lanesMask true q = 0

/-- R105, R106, R184, R207, R209, R334: a load lands, its data at the bytes of its lanes; a fill
returns; a store is acknowledged; a walk completes. As a turn stands for the issue of two core cycles
before, so does a landing (log 10).

Instructions whose completion it states, each with the effect it gives: loadLand, fillReturn,
storeAck, walkComplete. -/
def Obligations.MemoryCompletions : Prop :=
  ∀ s c id g,
    (∀ l, tfind id (s.work.core c).loads = some l → l.left = 0 → l.bad = 0 →
      (l.missed = true → l.at_ + 2 ≤ (s.work.core c).cycle) →
      s.work.grp c l.slot = some g → (∀ m k, g.wait ≠ .counters m k) →
      ∃ t h, exec (.loadLand c id) s = .next t ∧ t.mem = s.mem ∧
        t.work.grp c l.slot = some h ∧ tfind id (t.work.core c).loads = none ∧
        h.lc = g.lc - 1 ∧ h.pend = g.pend.filter (fun p => decide (p.op ≠ id)) ∧ h.pc = g.pc ∧
        (∀ o, g.wait = .load o → (∀ p ∈ g.pend, p.op ∈ o → p.op = id) → h.wait = .none) ∧
        (∀ o p, g.wait = .load o → p ∈ g.pend → p.op ∈ o → p.op ≠ id → h.wait = g.wait) ∧
        (l.kind = .scalar → l.lanes = 1 → h.sIn l.bank l.reg =
          (l.extend (tget 0 0 l.got)).truncate 64) ∧
        (l.kind = .vector → ∀ i < 64, bit l.lanes i = true → ∀ k < l.regs,
          h.v (l.reg + k) i = (l.extend (tget 0 i l.got)).extractLsb' (32 * k) 32)) ∧
    (∀ f l o data, tfind id (s.work.core c).fills = some f → f.data = some data →
      f.load = some o → tfind o (s.work.core c).loads = some l → f.bad = false →
      ∃ t l', exec (.fillReturn c id) s = .next t ∧ t.mem = s.mem ∧
        tfind id (t.work.core c).fills = none ∧ tfind o (t.work.core c).loads = some l' ∧
        l'.left = l.left - 1 ∧ l'.bad = l.bad ∧
        ((l.addr.map Prod.fst).Nodup → ∀ y ∈ l.addr, y.2 / 128 = f.req.line →
          tfind y.1 l'.got = some (data.extractLsb' (8 * (y.2 % 128)) 128)) ∧
        (f.install = true →
          ((s.work.core c).l1Way f.req.line).isSome = true ∨
            (∃ m < 8, tfind (8 * (f.req.line % 256) + m) (s.work.core c).l1 = none) →
          ((t.work.core c).l1Get f.req.line).map (·.data) =
            some (overlayLine f.req.line data f.overlay))) ∧
    (∀ y, (s.work.core c).inbox.acks.contains id = true →
      tfind id (s.work.core c).stores = some y → y.left = 1 → s.work.grp c y.slot = some g →
      g.born ≤ id → Unwaiting g →
      ∃ t, exec (.storeAck c id) s = .next t ∧ t.mem = s.mem ∧
        t.work.grp c y.slot = some { g with sc := g.sc - 1 } ∧
        tfind id (t.work.core c).stores = none) ∧
    ∀ die x rest e u, (s.work.die die).walks = x :: rest → (s.work.die die).walkq = [] →
      (∀ d k, (s.work.unit d k).held = []) →
      (s.work.modDie die fun d => { d with walks := rest }).walk x.owner x.va = (.leaf e, u) →
      ∃ t, exec (.walkComplete die) s = .next t ∧ t.mem = s.mem ∧
        (t.work.die die).walks = rest ∧ (∃ set, (set, e) ∈ (t.work.core x.core).tlb)

/-- R218 to R225: the atomics issue. A returning one is a load in flight (LC); an ordered one has a
deferred destination (SC). -/
def Sys2Proof.Claim.AtomicsIssue : Prop :=
  ∀ s c n g, Ready s c n g → g.exec ≠ 0 → ∀ (x : BitVec 2) (d a b : BitVec 6),
    let may := fun (size : Nat) =>
      g.hasPair a.toNat = true ∧ atomReg g size d.toNat = true ∧ atomReg g size b.toNat = true
    let ok := fun (ord : Bool) (size : Nat) (u : Work) q =>
      s.work.resolve c n g .atomic size false (fun _ => s.work.atomPlace ord) (pairAddrs g a.toNat) = .ok u q
    let any := fun (op size : Nat) (i : Instr) => may size → g.lc < 63 → ∀ u q, ok false size u q →
      let k := (u.core c).opSeq
      ∃ t, exec i s = .next t ∧
        Issues s t c n g 4 { g with
          lc := g.lc + 1
          pend := (List.range (atomRegs size)).map fun j =>
            { kind := .vector, reg := d.toNat + j, bank := false, lanes := g.exec, op := k } } ∧
        ∀ p ∈ atomPackets (packetLanes (if op = 9 then 2 * size else size)) q,
          Sent t c { mkReq c n g p.1 (lineKey q p.1) k false false false
            (.atomic op size true (lineOps g size b.toNat d.toNat p.2.1)) with more := p.2.2 }
    let ord := fun (op size : Nat) (i : Instr) => may size → g.sc < 63 → ordCtx g = true →
      lrGridb (s.work.recOf g) = true → ∀ u q, ok true size u q →
      let k := (u.core c).opSeq
      ∃ t, exec i s = .next t ∧
        Issues s t c n g 4 { g with
          sc := g.sc + 1, ordSeq := g.ordSeq + 1
          deferred := [{ reg := d.toNat, wide := decide (size = 8), lanes := g.exec, seq := g.ordSeq
                         refused := false, idx := g.keyIdx n }] } ∧
        ∀ p ∈ atomPackets (packetLanes size) q,
          Sent t c { mkReq c n g p.1 (lineKey q p.1) k false false false
            (.ordered true op size (ordOps g size b.toNat p.2.1)) with more := p.2.2 }
    let both := fun (op size : Nat) (i : BitVec 1 → Instr) =>
      any op size (i 0) ∧ ord op size (i 1)
    both 0 4 (fun o => .atomAdd x o d a b) ∧ both 1 4 (fun o => .atomMin x o d a b) ∧
    both 2 4 (fun o => .atomMax x o d a b) ∧ both 3 4 (fun o => .atomMinu x o d a b) ∧
    both 4 4 (fun o => .atomMaxu x o d a b) ∧ both 5 4 (fun o => .atomAnd x o d a b) ∧
    both 6 4 (fun o => .atomOr x o d a b) ∧ both 7 4 (fun o => .atomXor x o d a b) ∧
    any 8 4 (.atomXchg x d a b) ∧ any 9 4 (.cas x d a b) ∧
    both 0 8 (fun o => .atomdAdd x o d a b) ∧ both 1 8 (fun o => .atomdMin x o d a b) ∧
    both 2 8 (fun o => .atomdMax x o d a b) ∧ both 3 8 (fun o => .atomdMinu x o d a b) ∧
    both 4 8 (fun o => .atomdMaxu x o d a b) ∧ both 5 8 (fun o => .atomdAnd x o d a b) ∧
    both 6 8 (fun o => .atomdOr x o d a b) ∧ both 7 8 (fun o => .atomdXor x o d a b) ∧
    any 8 8 (.atomdXchg x d a b) ∧ any 9 8 (.casd x d a b)

/-- R218, R220, R223: the reductions issue; SC counts them, no register is written. -/
def Sys2Proof.Claim.ReductionsIssue : Prop :=
  ∀ s c n g, Ready s c n g → g.exec ≠ 0 → g.sc < 63 → ∀ (x : BitVec 2) (a b : BitVec 6),
    let red := fun (ord : Bool) (op size ety : Nat) (i : Instr) =>
      g.hasPair a.toNat = true → atomReg g size b.toNat = true → (ord = true → ordCtx g = true) →
      ∀ u q, s.work.resolve c n g .atomic size false (fun _ => s.work.atomPlace ord)
          (pairAddrs g a.toNat) = .ok u q →
      ∃ t, exec i s = .next t ∧
        Issues s t c n g 4 { g with
          sc := g.sc + 1, ordSeq := if ord then g.ordSeq + 1 else g.ordSeq } ∧
        ∀ p ∈ atomPackets (packetLanes size) q,
          Sent t c { mkReq c n g p.1 (lineKey q p.1) (u.core c).opSeq false false false
            (if ord then .ordered false ety size (ordOps g size b.toNat p.2.1)
             else .atomic op size false (lineOps g size b.toNat b.toNat p.2.1)) with more := p.2.2 }
    red false 0 4 0 (.redAdd x a b) ∧ red false 1 4 0 (.redMin x a b) ∧
    red false 2 4 0 (.redMax x a b) ∧ red false 3 4 0 (.redMinu x a b) ∧
    red false 4 4 0 (.redMaxu x a b) ∧ red false 5 4 0 (.redAnd x a b) ∧
    red false 6 4 0 (.redOr x a b) ∧ red false 7 4 0 (.redXor x a b) ∧
    red false 8 4 1 (.redAddF32 x 0 a b) ∧ red true 8 4 1 (.redAddF32 x 1 a b) ∧
    red false 9 2 4 (.redAddBf x 0 a b) ∧ red true 9 2 4 (.redAddBf x 1 a b) ∧
    red false 0 8 0 (.reddAdd x a b) ∧ red false 1 8 0 (.reddMin x a b) ∧
    red false 2 8 0 (.reddMax x a b) ∧ red false 3 8 0 (.reddMinu x a b) ∧
    red false 4 8 0 (.reddMaxu x a b) ∧ red false 5 8 0 (.reddAnd x a b) ∧
    red false 6 8 0 (.reddOr x a b) ∧ red false 7 8 0 (.reddXor x a b) ∧
    red false 8 8 3 (.reddAddF64 x 0 a b) ∧ red true 8 8 3 (.reddAddF64 x 1 a b)

/-- Atomics and memory reductions issue.

Instructions whose completion it states, each with the effect it gives: atomAdd, atomMin, atomMax,
atomMinu, atomMaxu, atomAnd, atomOr, atomXor, atomXchg, cas, atomdAdd, atomdMin, atomdMax,
atomdMinu, atomdMaxu, atomdAnd, atomdOr, atomdXor, atomdXchg, casd, redAdd, redMin, redMax,
redMinu, redMaxu, redAnd, redOr, redXor, redAddF32, redAddBf, reddAdd, reddMin, reddMax, reddMinu,
reddMaxu, reddAnd, reddOr, reddXor, reddAddF64. -/
def Obligations.AtomicsAndReductions : Prop :=
  Claim.AtomicsIssue ∧ Claim.ReductionsIssue

/-- R199, R200, R220, R365: a slice, or the unit beneath it for .MS, performs a store or an atomic:
exactly its bytes change in memory. No address is held, each sector reads under the key, and the
request is the only packet of its line (R358). An atomic on a line that has lost its data is not
performed (log 32). -/
def Sys2Proof.Claim.HomeAccesses : Prop :=
  ∀ s die slice h r rest, (∀ d u, (s.work.unit d u).held = []) →
    s.work.home? (128 * r.line) = some h →
    (∀ sec, s.work.sectorOk r.key sec = true) → s.work.sharedOut.contains r.line = false →
    r.more = false → (∀ y ∈ (s.work.slice h.die h.slice).parts, y.partOf r = false) →
    let served := fun (t : State) =>
      (∀ bytes, r.kind = .store bytes → ∀ a, memRead t.mem a =
        ((bytes.reverse.find? fun y => decide (y.1 = a)).map Prod.snd).getD (memRead s.mem a)) ∧
      (s.work.lineUpset r.line = false → ∀ op size ret addr,
        let left := fun (new : Word) => ∀ a, memRead t.mem a =
          (((cellsAt addr size new.toNat).find? fun y => decide (y.1 = a)).map Prod.snd).getD
            (memRead s.mem a)
        let step := fun (old v u : Word) => (atomNew op size ret old (cutTo size v) (cutTo size u)).1
        let old : Word := BitVec.ofNat 64 (s.work.num addr size)
        (∀ lane v u, r.kind = .atomic op size ret [(lane, addr, v, u)] → left (step old v u) ∧
          (ret = true → ∃ p ∈ (t.work.die h.die).net,
            p.msg = .vals r.core r.op [(lane, old.zeroExtend 128)])) ∧
        -- a later lane finds what an earlier one has left (R199)
        ∀ i j v u v' u', r.kind = .atomic op size ret [(i, addr, v, u), (j, addr, v', u')] →
          size ∈ [1, 2, 4, 8] →
          let mid : Word := BitVec.ofNat 64 ((step old v u).toNat % 256 ^ size)
          left (step mid v' u') ∧
          (ret = true → i ≠ j → ∃ p ∈ (t.work.die h.die).net, ∃ q, p.msg = .vals r.core r.op q ∧
            tfind i q = some (old.zeroExtend 128) ∧ tfind j q = some (mid.zeroExtend 128))) ∧
      ((r.ms = true → s.upsetL2.contains r.line = false) →
        ∀ i ro want, r.kind = .fill i ro want → t.mem = s.mem ∧
          ∃ p ∈ (t.work.die h.die).net, p.msg =
            .line r.core r.op (BitVec.ofNat 1024 (s.work.num (128 * r.line) 128))
              (s.work.lineUpset r.line))
    (∀ p, (s.work.slice die slice).inq = p :: rest → p.msg = .req r → r.ms = false →
      (s.work.slice die slice).busy ≤ s.work.tempo / 2 → s.work.behind die slice r = false →
      (s.work.slice die slice).held = [] →
      ∃ t, exec (.sliceRequest die slice) s = .next t ∧ served t) ∧
    ∀ tail, (s.work.unit die slice).inbox = r :: tail →
      ∃ t, exec (.msUnitAccess die slice) s = .next t ∧ served t ∧
        (t.work.unit die slice).inbox = tail

/-- R371, R369: a first ordered update of an address is held and memory is unchanged; the flush adds
it; a refresh timer that has run out starts again, and one that has not stands: how long it runs, and
that its start is all a refresh does, are the model's choice (log 33). -/
def Sys2Proof.Claim.OrderedUpdates : Prop :=
  ∀ s die stack r rest ety size (o : OrdOp),
    let x := s.work.unit die stack
    (x.ordbox = r :: rest → r.kind = .ordered false ety size [o] → x.held = [] →
      s.work.sharedOut.contains r.line = false →
      ∃ t, exec (.orderedUpdateArrive die stack) s = .next t ∧ t.mem = s.mem ∧
        (t.work.unit die stack).ordbox = rest ∧
        (t.work.unit die stack).held =
          [{ addr := o.addr, launch := r.launch, ety, pk := r.key
             upds := [{ key := [r.lin, r.gidx, o.lane, o.seq], operand := o.operand, op := ety
                        core := r.core }]
             exact := false, entry := 0, pool := [], spill := none }]) ∧
    (∀ h u, x.held = [h] → h.exact = false → h.upds = [u] → x.flushq.contains h.addr = true →
      (∀ sec, s.work.sectorOk h.pk sec = true) →
      ∃ t, exec (.orderedFlush die stack h.addr) s = .next t ∧
        (t.work.unit die stack).held = [] ∧
        let new := (etyAdd h.ety (BitVec.ofNat 64 (s.work.num h.addr (etySize h.ety))) u.operand).1
        ∀ a, memRead t.mem a =
          (((cellsAt h.addr (etySize h.ety) new.toNat).find? fun y => decide (y.1 = a)).map
            Prod.snd).getD (memRead s.mem a)) ∧
    ∃ t, exec (.dramRefresh die stack) s = .next t ∧ t.mem = s.mem ∧
      t.work.unit die stack =
        if x.refresh + Config.refreshCycles ≤ s.tempo then { x with refresh := s.tempo } else x

/-- R218, R220, R221: what each operation code makes of a location, as 32 or as 64 bits; the floating
additions round to nearest even, and their flags are those of the sum. -/
def Sys2Proof.Claim.AtomicOperations : Prop :=
  (∀ (ret : Bool) (c : Word),
    (∀ (o v : BitVec 32),
      let gives := fun op (x : BitVec 32) =>
        atomNew op 4 ret (o.zeroExtend 64) (v.zeroExtend 64) c = (x.zeroExtend 64, 0)
      gives 0 (o + v) ∧ gives 1 (if v.slt o then v else o) ∧ gives 2 (if o.slt v then v else o) ∧
      gives 3 (if v.ult o then v else o) ∧ gives 4 (if o.ult v then v else o) ∧ gives 5 (o &&& v) ∧
      gives 6 (o ||| v) ∧ gives 7 (o ^^^ v)) ∧
    ∀ (o v : Word),
      let gives := fun op (x : Word) => atomNew op 8 ret o v c = (x, 0)
      gives 0 (o + v) ∧ gives 1 (if v.slt o then v else o) ∧ gives 2 (if o.slt v then v else o) ∧
      gives 3 (if v.ult o then v else o) ∧ gives 4 (if o.ult v then v else o) ∧ gives 5 (o &&& v) ∧
      gives 6 (o ||| v) ∧ gives 7 (o ^^^ v)) ∧
  ∀ (o v c : Word),
    let float := fun (op size : Nat) (f : FFmt) =>
      let r := f.add 0 o.toNat v.toNat
      atomNew op size false o v c = (BitVec.ofNat 64 r.bits, r.fl)
    (∀ size, size = 4 ∨ size = 8 →
      atomNew 8 size true o v c = (v, 0) ∧
      atomNew 9 size true o v c = (if o = c then v else o, 0)) ∧
    float 8 4 F32 ∧ float 8 8 F64 ∧ float 9 2 FBF

/-- What a home does to memory: exactly the bytes of the access, by the meaning of each operation;
ordered updates held and flushed. What an upset line does is the model's choice (log 32).

Instructions whose completion it states, each with the effect it gives: sliceRequest,
msUnitAccess, orderedUpdateArrive, orderedFlush, dramRefresh. -/
def Obligations.HomeOperations : Prop :=
  Claim.HomeAccesses ∧ Claim.AtomicOperations ∧ Claim.OrderedUpdates

/-- R59, R217: what each code makes of a cell, and a cell of each code; the flags of a cell written are 0
but for an INT36 that does not fit. -/
def Sys2Proof.Claim.CellConversions : Prop :=
  (∀ x : Cell40,
    let v := (x.extractLsb' 0 36).toInt
    cellInt x = v ∧
    (∀ i < 7, (cellFlags x).getLsbD i =
      (decide (i ≠ 1 ∧ i < 5) && x.getLsbD (if i = 0 then 36 else 35 + i))) ∧
    cellRead 0 x = (x.extractLsb' 0 32).zeroExtend 64 ∧
    cellRead 1 x = (BitVec.ofInt 32 (max (-2 ^ 31) (min (2 ^ 31 - 1) v))).zeroExtend 64 ∧
    cellRead 2 x = BitVec.ofInt 64 v ∧ cellRead 3 x = x.zeroExtend 64 ∧
    Stands (F64.read (cellRead 4 x).toNat) (v : ℝ) ∧ (v = 0 → cellRead 4 x = 0)) ∧
  ∀ v : Word,
    cellWrite 0 v = (v.truncate 32 : BitVec 32).zeroExtend 40 ∧
    cellWrite 3 v = v.truncate 40 ∧
    (cellWrite 1 v).extractLsb' 0 36 = (v.truncate 32 : BitVec 32).signExtend 36 ∧
    (cellWrite 1 v).extractLsb' 36 4 = 0 ∧
    (cellWrite 2 v).extractLsb' 0 36 = v.extractLsb' 0 36 ∧
    (cellWrite 2 v).extractLsb' 36 4 =
      if v.toInt < -2 ^ 35 ∨ 2 ^ 35 ≤ v.toInt then 2 else 0

/-- R214 to R217: a TLD or TST whose lanes lie inside the group's allotment issues and is counted by
TC; its completion writes the register, or the buffer.

Instructions whose completion it states, each with the effect it gives: tld, tst,
tbufAccessComplete. -/
def Obligations.TypedBuffers : Prop :=
  Claim.CellConversions ∧
  (∀ s c n g, Ready s c n g → g.tc < 63 → g.exec ≠ 0 →
    ∀ (x : BitVec 2) (w : BitVec 3) (d b : BitVec 6) (o : BitVec 5) (f : BitVec 2) hc base size,
    let buf := f.toNat
    let k := bufRegs buf w.toNat
    let u := bufUnits buf w.toNat
    let q := laneOffs g b.toNat o.toNat
    bufRegsOk g buf w.toNat d.toNat = true → g.hasV o.toNat = true →
    s.work.space c g buf = some (hc, base, size) →
    (∀ y ∈ q, y.2 + u ≤ size ∧ (buf ≠ 2 → y.2 % u = 0)) →
    let op := (s.work.core c).opSeq
    let acc := fun (t : State) (store : Bool) =>
      ∃ a, (op, a) ∈ (t.work.core c).taccs ∧ a.slot = n ∧ a.store = store ∧ a.buf = buf ∧
        a.core = hc ∧ a.reg = d.toNat ∧ a.code = w.toNat ∧ a.lanes = g.exec ∧
        (a.addr = q.map fun y => (y.1, base + y.2)) ∧
        (store = true → ∀ l < 64, bit g.exec l = true →
          (tget 0 l a.vals).toNat + (tget 0 l a.hi).toNat * 2 ^ 64 =
            (List.range k).foldl (fun m j => m + (g.v (d.toNat + j) l).toNat * 2 ^ (32 * j)) 0)
    (tldDefined w f = true → (s.work.core hc).upset = [] → ∃ t, exec (.tld x w d b o f) s = .next t ∧
      Issues s t c n g 4 { g with
        tc := g.tc + 1
        pend := (List.range k).map fun j =>
          { kind := .vector, reg := d.toNat + j, bank := false, lanes := g.exec, op } } ∧
      acc t false) ∧
    (tstDefined w f = true → ∃ t, exec (.tst x w d b o f) s = .next t ∧
      Issues s t c n g 4 { g with tc := g.tc + 1 } ∧ acc t true)) ∧
  ∀ s c id (a : TAccess) g,
    (s.work.core c).taccs.find? (fun y => decide (y.1 = id)) = some (id, a) →
    (∀ y ∈ (s.work.core c).taccs, y.2.slot = a.slot → id ≤ y.1) →
    s.work.grp c a.slot = some g → a.buf ≤ 3 → g.wait = .none →
    let k := s.work.core a.core
    let at_ := fun l => tget 0 l a.addr
    ∃ t h, exec (.tbufAccessComplete c id) s = .next t ∧ t.mem = s.mem ∧
      t.work.grp c a.slot = some h ∧ h.tc = g.tc - 1 ∧ h.pc = g.pc ∧
      (a.store = false → k.upset = [] → a.code ≤ 6 → ∀ l < 64, bit a.lanes l = true →
        let raw := BitVec.ofNat 128 (k.bufNum a.buf (at_ l) (widthBytes a.code))
        let value : BitVec 128 :=
          if a.buf = 2 then (cellRead a.code (k.cell (at_ l))).zeroExtend 128
          else if a.code = 1 then (raw.truncate 8 : BitVec 8).signExtend 128
          else if a.code = 3 then (raw.truncate 16 : BitVec 16).signExtend 128
          else raw
        ∀ j < bufRegs a.buf a.code, h.v (a.reg + j) l = value.extractLsb' (32 * j) 32) ∧
      -- of two lanes that write one byte or cell, the higher is applied last (R216)
      (a.store = true → a.buf ≠ 2 → ∀ j,
        let covers := fun l => at_ l ≤ j ∧ j < at_ l + widthBytes a.code
        let now := (t.work.core a.core).bufByte a.buf j
        let ring := a.buf = 3 ∧ s.work.ringByte a.core j = true
        (ring ∨ (∀ l < 64, bit a.lanes l = true → ¬covers l) → now = k.bufByte a.buf j) ∧
        ∀ l < 64, ¬ring → bit a.lanes l = true → covers l →
          (∀ m < 64, l < m → bit a.lanes m = true → ¬covers m) →
          now = BitVec.ofNat 8 (((tget 0 l a.vals).toNat + (tget 0 l a.hi).toNat * 2 ^ 64) /
            256 ^ (j - at_ l))) ∧
      (a.store = true → a.buf = 2 → ∀ j,
        let now := (t.work.core a.core).cell j
        ((∀ l < 64, bit a.lanes l = true → at_ l ≠ j) → now = k.cell j) ∧
        ∀ l < 64, bit a.lanes l = true → at_ l = j →
          (∀ m < 64, l < m → bit a.lanes m = true → at_ m ≠ j) →
          now = cellWrite a.code (tget 0 l a.vals))

/-- R213, R226, R227, R190, R191: PREFETCH, the fences once they have nothing to wait for, INVL1. -/
def Sys2Proof.Claim.FenceResults : Prop :=
  ∀ s c n g, Ready s c n g → ∀ (x : BitVec 2) (p : BitVec 3) (l : BitVec 1) (b o : BitVec 6)
      (f : BitVec 2),
    (prefetchDefined l f = true → g.hasV o.toNat = true →
      ∃ t, exec (.prefetch x l b o f) s = .next t ∧ Issues s t c n g 4 g) ∧
    (g.kind ≠ .run → p.toNat ≤ 4 →
      let landed := (s.work.core c).loading n g = false
      let acq := fun (i : Instr) => ∃ t, exec i s = .next t ∧ Issues s t c n g 4 g ∧
        (p ≠ 0 → Acquired s t c (decide (p = 4)))
      (Released s g p.toNat → Completes s c n g (.fenceRel x p) (g.pc + 4) g {} fun _ => True) ∧
      (landed → acq (.fenceAcq x p)) ∧
      (landed → g.half = 1 ∨ Released s g p.toNat → acq (.fenceAr x p)) ∧
      (landed → ∃ t, exec (.invl1 x l) s = .next t ∧ Issues s t c n g 4 g ∧
        (∀ q ∈ (t.work.core c).l1, l = 0 ∧ q.2.ro = true) ∧
        ∀ q ∈ (t.work.core c).fills, q.2.install = false))

/-- R183, R190, R200: a release waits until every older store of its core has been performed. Then, for
a grid at DEVICE or wider, it triggers the flush of every address that a unit holds for the grid, and
waits for it. Then it sends the filter of its scope, with the sectors of what was flushed, to the cores
of the scope, and clears that filter and the narrower ones. What a filter takes again once an access
that was still under way has been performed is the model's reading (log 35). -/
def Sys2Proof.Claim.ReleasePublishes : Prop :=
  ∀ s c n g, Ready s c n g → g.kind ≠ .run → ∀ (x : BitVec 2) (p : BitVec 3) (k : Nat),
    (k = 1 ∧ p = 1 ∧ (∃ y, s.work.teamOf g = some y ∧ y.twin = true) ∨
      k = 2 ∧ p = 2 ∧ (s.work.teamOf g).isSome = true ∨ k = p.toNat ∧ (p = 3 ∨ p = 4)) →
    c < Config.cores →
    let core := s.work.core c
    let drained := core.stores = [] ∧ ∀ y ∈ core.loads, y.2.atomic = false
    let sends := fun (t : State) (bits : BitVec 2048) =>
      ∃ h r, t.work.grp c n = some h ∧ h.pc = g.pc ∧ h.rel = some r ∧ r.phase = 2 ∧
        r.acks = (match k with | 1 => 1 | 2 => (coresOf (Config.clusterOf c)).length - 1 | _ => Config.cores - 1) ∧
        (∀ token y, (token, y) ∈ core.sigOut → min k 3 ≤ y.1 → token ∈ r.after) ∧
        (t.work.core c).sigTeam = 0 ∧
        (t.work.core c).sigGang = (if 2 ≤ k then 0 else core.sigGang) ∧
        (t.work.core c).sigDev = (if 3 ≤ k then 0 else core.sigDev) ∧
        ∀ d < Config.cores, d ≠ c → (k = 1 → d = Config.partner c) →
          (k = 2 → Config.clusterOf d = Config.clusterOf c) →
          ∃ q ∈ (t.work.die (Config.dieOf c)).net, q.ddie = Config.dieOf d ∧
            q.msg = .sig c d r.token k bits
    let goes := ∃ t, exec (.fenceRel x p) s = .next t ∧ t.mem = s.mem
    (g.rel = none → drained → k < 3 ∨ g.kind = .supervisor → ∃ t, exec (.fenceRel x p) s = .next t ∧
      t.mem = s.mem ∧ sends t (match k with | 1 => core.sigTeam | 2 => core.sigGang | _ => core.sigDev)) ∧
    (g.rel = none → drained → 3 ≤ k → g.kind ≠ .supervisor →
      ∃ t h r, exec (.fenceRel x p) s = .next t ∧ t.mem = s.mem ∧ t.work.grp c n = some h ∧
        h.pc = g.pc ∧ h.rel = some r ∧ r.phase = 1 ∧ (t.work.core c).sigDev = core.sigDev ∧
        ∀ u ∈ allUnits, ∀ y ∈ (s.work.unit u.1 u.2).held, y.launch = g.launch →
          y.addr ∈ (t.work.unit u.1 u.2).flushq) ∧
    (∀ r, g.rel = some r → r.scope = k → r.phase = 1 → s.work.flushing g.launch = false →
      ∃ t, exec (.fenceRel x p) s = .next t ∧ t.mem = s.mem ∧
        (3 ≤ k → sends t ((core.flushedSecs g.launch r.stamp).foldl sigInsert core.sigDev))) ∧
    (g.rel = none → ∀ id y, (id, y) ∈ core.stores → id < core.opSeq →
      goes ∧ ∀ t, exec (.fenceRel x p) s = .next t → ∃ h, t.work.grp c n = some h ∧ h.pc = g.pc ∧
        (t.work.core c).sigTeam = core.sigTeam ∧ (t.work.core c).sigGang = core.sigGang ∧
        (t.work.core c).sigDev = core.sigDev)

/-- PREFETCH, fences, INVL1, and what a release waits for and sends.

Instructions whose completion it states, each with the effect it gives: prefetch, fenceRel,
fenceAcq, fenceAr, invl1. -/
def Obligations.FencesAndReleases : Prop :=
  Claim.FenceResults ∧ Claim.ReleasePublishes

/-- R228 to R231: WAITCMP compares at its home and parks the group; MONCANCEL ends a wait with N, a
timeout with C once no wake has reached the core in its cycle (log 14), a MONFULL back-off ends; what
each condition code compares.

Instructions whose completion it states, each with the effect it gives: waitcmp, moncancel,
waitcmpTimeout, monfullBackoffEnd. -/
def Obligations.MonitorResults : Prop :=
  (∀ s c n g, Ready s c n g → g.kind ≠ .run → ∀ (x : BitVec 2) (a v : BitVec 6) (k : BitVec 3)
      (z y : BitVec 1) u pa key,
    let size := if z = 1 then 8 else 4
    let va := (g.s a.toNat).toNat % 2 ^ 52
    let value := if size = 4 then cutTo 4 (g.s v.toNat) else g.s v.toNat
    let limit := (g.s (v.toNat + 1)).toNat
    k.toNat ≤ 5 → (y = 1 → v.toNat < 63) →
    s.work.resolve c n g .load size true (fun _ pa => (s.work.place pa).isNear) [(0, va)] =
      .ok u [(0, pa, key)] →
    let op := (u.core c).opSeq
    g.left = none →
    ∃ t h, exec (.waitcmp x a v k z y) s = .next t ∧ t.mem = s.mem ∧ t.work.grp c n = some h ∧
      h.pc = g.pc ∧ h.parked = decide (g.kind ≠ .supervisor) ∧
      h.wait = .monitor va pa size k.toNat value
        (if y = 1 ∧ limit ≠ 0 then some ((u.core c).cycle + limit) else none) op ∧
      Sent t c (mkReq c n g (pa / 128) key op false false false
        (.waitcmp pa size k.toNat value (!(y = 1 && decide (limit = 0)))))) ∧
  (∀ s c n g, Ready s c n g → g.kind ≠ .run → g.wait = .none → ∀ (x : BitVec 2) (a : BitVec 6)
      (l : BitVec 1) y,
    s.work.teamOf g = some y →
    let who := s.work.members y fun q => decide (q.kind ≠ GroupKind.run)
    (who = [(c, n)] → Completes s c n g (.moncancel x a l) (g.pc + 4) g {} fun _ => True) ∧
    ∀ m gm va pa size k value dl op e, m ≠ n → who = [(c, n), (c, m)] →
      s.work.grp c m = some gm → gm.wait = .monitor va pa size k value dl op →
      (∀ f ∈ gm.flights, f.kind ≠ .flags) →
      s.work.armed c m op pa = some e → l = 1 ∨ (g.s a.toNat).toNat % 2 ^ 52 = va →
      ∃ t h hm, exec (.moncancel x a l) s = .next t ∧ t.mem = s.mem ∧ t.work.grp c n = some h ∧
        h.pc = g.pc + 4 ∧ t.work.grp c m = some hm ∧ hm.pc = gm.pc + 4 ∧ hm.wait = .none ∧
        hm.sfl = mkSfl false true false false) ∧
  (∀ s c n g, s.work.grp c n = some g →
    (∀ va pa size k value dl op, g.wait = .monitor va pa size k value (some dl) op →
      dl < (s.work.core c).cycle →
      (∀ z ∈ (s.work.core c).inbox.wakes, ¬(z.slot = n ∧ z.op = op)) →
      (∀ f ∈ g.flights, f.kind ≠ .flags) →
      ∃ t h, exec (.waitcmpTimeout c n) s = .next t ∧ t.mem = s.mem ∧ t.work.grp c n = some h ∧
        h.pc = g.pc + 4 ∧ h.wait = .none ∧ h.sfl = mkSfl false false true false) ∧
    ∀ dl, g.wait = .monfull dl → dl ≤ (s.work.core c).cycle →
      ∃ t h, exec (.monfullBackoffEnd c n) s = .next t ∧ t.mem = s.mem ∧
        t.work.grp c n = some h ∧ h.pc = g.pc ∧ h.wait = .none) ∧
  (∀ m v : BitVec 32, ∀ k < 6, monCond k 4 (m.zeroExtend 64) (v.zeroExtend 64) = true ↔
    match k with
    | 0 => m = v | 1 => m ≠ v | 2 => m.toInt < v.toInt | 3 => v.toInt ≤ m.toInt
    | 4 => m.toNat < v.toNat | _ => v.toNat ≤ m.toNat) ∧
  ∀ m v : Word, ∀ k < 6, monCond k 8 m v = true ↔
    match k with
    | 0 => m = v | 1 => m ≠ v | 2 => m.toInt < v.toInt | 3 => v.toInt ≤ m.toInt
    | 4 => m.toNat < v.toNat | _ => v.toNat ≤ m.toNat

/-- R242: BARA by the last participant completes the phase and flips it; BAR then goes on, and BARW
whose phase has changed does not wait. A group whose phase still stands parks. -/
def Sys2Proof.Claim.TeamBarriers : Prop :=
  ∀ s c n g y, Ready s c n g → Member s g y → (s.work.core c).loading n g = false → g.half = 0 →
    ∀ (x : BitVec 2) (b m : BitVec 4),
    let k := y.bar b.toNat
    let others := (s.work.participants y m.toNat).filter fun i => decide (i ≠ g.gidx)
    let may := has k.arr g.gidx = false ∧ (k.arr = 0 ∨ k.rm = m.toNat) ∧
      (m.toNat = 0 ∨ has m.toNat g.role = true)
    let bar := fun (t : State) =>
      (t.work.team g.launch g.lin).map fun z => z.bar b.toNat
    (may → others.all (has k.arr) = true → g.gidx ∈ s.work.participants y m.toNat →
      ∀ i, i = .bar x b m ∨ i = .bara x b m →
      ∃ t h, exec i s = .next t ∧ t.mem = s.mem ∧ t.work.grp c n = some h ∧ h.pc = g.pc + 4 ∧
        bar t = some { k with phase := !k.phase, arr := 0, rm := m.toNat } ∧
        Keeps g h.settled {}) ∧
    (may → (∃ i ∈ others, has k.arr i = false) →
      (∃ t h, exec (.bara x b m) s = .next t ∧ t.mem = s.mem ∧ t.work.grp c n = some h ∧
        h.pc = g.pc + 4 ∧ bar t = some { k with arr := with_ k.arr g.gidx, rm := m.toNat }) ∧
      ∃ t h, exec (.bar x b m) s = .next t ∧ t.mem = s.mem ∧ t.work.grp c n = some h ∧
        h.pc = g.pc ∧ h.wait = .barrier b.toNat ∧ h.parked = true) ∧
    (g.phases.getLsbD b.toNat ≠ k.phase ∨ has k.arr g.gidx = false →
      ∃ t, exec (.barw x b) s = .next t ∧ Issues s t c n g 4 g ∧ Acquired s t c false) ∧
    (g.phases.getLsbD b.toNat = k.phase → has k.arr g.gidx = true →
      ∃ t h, exec (.barw x b) s = .next t ∧ t.work.grp c n = some h ∧ h.pc = g.pc ∧
        h.wait = .barrier b.toNat)

/-- R243, R37, R224, R373: GANGBAR by the last team of its gang, GRIDBAR once the grid's barrier is
over, and the completion of a grid barrier. -/
def Sys2Proof.Claim.WideBarriers : Prop :=
  (∀ s c n g y, Ready s c n g → Member s g y → (s.work.core c).loading n g = false →
    ∀ (x : BitVec 2),
    (g.half = 0 → Released s g 2 → has y.gangArr g.gidx = false → s.work.teams = [(teamKey g.launch
        g.lin, y)] → (s.work.participants y 0).all (has (with_ y.gangArr g.gidx)) = true →
      ∃ t h, exec (.gangbar x) s = .next t ∧ t.mem = s.mem ∧ t.work.grp c n = some h ∧
        h.pc = g.pc + 4 ∧ (t.work.team g.launch g.lin).map (·.gangArr) = some 0 ∧
        Keeps g h.settled {} ∧ Acquired s t c false) ∧
    (lrGridb (s.work.recOf g) = true →
      (g.half = 0 → Released s g 3 → has y.gridArr g.gidx = false →
        ∃ t h, exec (.gridbar x) s = .next t ∧ t.mem = s.mem ∧ t.work.grp c n = some h ∧
          h.pc = g.pc ∧ h.wait = .gridbar ∧ h.half = 1 ∧
          (t.work.team g.launch g.lin).map (·.gridArr) = some (with_ y.gridArr g.gidx)) ∧
      (g.half = 1 → has y.gridArr g.gidx = false →
        ∃ t, exec (.gridbar x) s = .next t ∧ Issues s t c n g 4 { g with ordSeq := 0 } ∧
          Acquired s t c false))) ∧
  ∀ s l r, s.work.launch? l = some r → s.work.gridArrived l r = true →
    (∀ d u, (s.work.unit d u).held = [] ∧ (s.work.unit d u).atoms = []) →
    ∃ t q, exec (.gridbarComplete l) s = .next t ∧ t.mem = s.mem ∧ t.work.launch? l = some q ∧
      q.gen = r.gen + 1 ∧
      ∀ lin y, s.work.team l lin = some y → y.launch = l → y.lin = lin →
        (t.work.team l lin).map (·.gridArr) = some 0

/-- R29, R30, R244: STAGEACQ takes a slot that is ready for the role, and parks on one that is not;
STAGEREL by the last group of the role passes the slot to the next role of the ring. -/
def Sys2Proof.Claim.StageRing : Prop :=
  ∀ s c n g y pos, Ready s c n g → Member s g y → ∀ (x : BitVec 2),
    let r := s.work.recOf g
    let i := g.cursor
    lrRingPos r g.role = some pos →
    (g.acquired = false → g.half = 0 → s.work.ringReady y r i g.role = true →
      (s.work.core c).loading n g = false →
      ∃ t, exec (.stageacq x) s = .next t ∧ Issues s t c n g 4 { g with acquired := true } ∧
        Acquired s t c false) ∧
    (g.acquired = false → g.half = 0 → s.work.ringReady y r i g.role = false →
      ∃ t h, exec (.stageacq x) s = .next t ∧ t.work.grp c n = some h ∧ h.pc = g.pc ∧
        h.wait = .stage ∧ h.acquired = false) ∧
    (g.acquired = true → (s.work.ringWord y i).2 = g.role →
      let next := (pos + 1) % (lrRlen r + 1)
      let mine := roleGroups y r g.role
      ∃ t h z, exec (.stagerel x) s = .next t ∧ t.mem = s.mem ∧ t.work.grp c n = some h ∧
        h.pc = g.pc + 4 ∧ h.acquired = false ∧ h.cursor = (i + 1) % max (lrRingn r) 1 ∧
        t.work.team g.launch g.lin = some z ∧
        (mine.all (has (with_ (tget 0 i y.ringRel) g.gidx)) = true →
          roleGroups y r (lrRorder r next) ≠ [] → lrRorder r next ≠ g.role →
          t.work.ringWord z i = (decide (next ≠ 0), lrRorder r next) ∧
          tget 0 i z.ringRel = 0) ∧
        (mine.all (has (with_ (tget 0 i y.ringRel) g.gidx)) = false →
          t.work.ringWord z i = s.work.ringWord y i ∧
          tget 0 i z.ringRel = with_ (tget 0 i y.ringRel) g.gidx))

/-- Team, gang and grid barriers, and the stage ring.

Instructions whose completion it states, each with the effect it gives: bar, bara, barw, gangbar,
gridbar, gridbarComplete, stageacq, stagerel. -/
def Obligations.Barriers : Prop :=
  Claim.TeamBarriers ∧ Claim.WideBarriers ∧ Claim.StageRing

/-! ## Engines and sweeps -/

/-- R232, R233, R237, R238: COPYKICK queues the records as SBUF holds them, held while SBUF still
gives them (four in a core cycle); CDINIT writes an object; YIELDC goes on at its target when REMAIN
is 0 and waits otherwise. -/
def Sys2Proof.Claim.CopyInstructions : Prop :=
  ∀ s c n g hc base size, Ready s c n g → g.kind ≠ .run → s.work.space c g 3 = some (hc, base, size) →
    ∀ (x : BitVec 2) (a b : BitVec 6),
    let off := (g.s a.toNat).toNat
    let m := (g.s b.toNat).toNat
    let recs := (List.range m).map fun i => (s.work.core hc).copyRec (base + off + 32 * i)
    let kick := fun (ord : Bool) (i : Instr) =>
      1 ≤ m → m ≤ 256 → off % 32 = 0 → off + 32 * m ≤ size → (s.work.core c).bufBusy n = false →
      (s.work.core hc).upset = [] → (s.work.core hc).unitRank ≤ 1 →
      (ord = true → g.kind ≠ .handlerCore) →
      (∀ r ∈ recs, 8 * crBits r 238 224 + 8 ≤ size) → (s.work.core c).kicks.length < 64 →
      (4 * (g.half + 1) < m → ∃ t h, exec i s = .next t ∧ t.work.grp c n = some h ∧ h.pc = g.pc ∧
        h.half = g.half + 1) ∧
      (m ≤ 4 * (g.half + 1) → ∃ t k, exec i s = .next t ∧ Issues s t c n g 4 g ∧
        (t.work.core c).kicks = (s.work.core c).kicks ++ [k] ∧ k.launch = g.launch ∧
        k.lin = g.lin ∧ k.recs = recs ∧ k.ord = ord ∧ k.row = 0 ∧ k.pend = [] ∧ k.failed = 0)
    kick true (.copykickOrd x a b) ∧ kick false (.copykickAny x a b) ∧
    (off % 8 = 0 → off + 8 ≤ size →
      (g.tc < 63 → ∃ t y, exec (.cdinit x a b) s = .next t ∧
        Issues s t c n g 4 { g with tc := g.tc + 1 } ∧
        ((s.work.core c).opSeq, y) ∈ (t.work.core c).taccs ∧ y.store = true ∧ y.buf = 3 ∧
        y.core = hc ∧ y.addr = [(0, base + off)] ∧
        y.vals = [(0, BitVec.ofNat 64 ((g.s b.toNat).toNat % 2 ^ 40))]) ∧
      ((g.s b.toNat).getLsbD 0 = false → (s.work.core c).bufBusy n = false →
        (s.work.core hc).upset = [] → (s.work.core hc).unitRank ≤ unitPlace n →
        let target : Pc := (g.s b.toNat).truncate 52
        ((s.work.core hc).remain (base + off) = 0 →
          ∃ t h, exec (.yieldc x a b) s = .next t ∧ t.mem = s.mem ∧ t.work.grp c n = some h ∧
            h.pc = target ∧ h.settled.fixed = g.fixed ∧ Keeps g h.settled {} ∧
            ∀ j m, (j, m) ≠ (c, n) → t.work.grp j m = s.work.grp j m) ∧
        ((s.work.core hc).remain (base + off) ≠ 0 →
          ∃ t h, exec (.yieldc x a b) s = .next t ∧ t.work.grp c n = some h ∧ h.pc = g.pc ∧
            h.wait = .yieldc off target)))

/-- R29, R233 to R236: the engine takes the first kick of its queue. A record of one row between buffers
moves exactly its bytes or cells, but into the control area of a ring, counts its object down, and the
next record follows. A malformed record, a row outside its allotment, a row that holds an uncorrectable
error, and a count that would pass 0 leave codes 4, 3, 5 and 2, and 6 in the records after it. -/
def Sys2Proof.Claim.CopyEngine : Prop :=
  (∀ s c x, (s.work.core c).copying = none → (s.work.core c).copyDelayed = false →
    (s.work.core c).kicks.find? (fun y => !s.work.kickHeld y) = some x →
    ∃ t, exec (.copyKickStart c) s = .next t ∧ t.mem = s.mem ∧
      (t.work.core c).copying = some x ∧ (t.work.core c).kicks = (s.work.core c).kicks.erase x) ∧
  ∀ s c (x : Kick) r rest ho so no, (s.work.core c).copying = some x → x.recs = r :: rest →
    x.fault = none → x.failed = 0 → x.pend = [] → x.row = 0 → s.work.kickHeld x = false →
    (s.work.core c).copyDelayed = false → s.work.kickSpace c x 3 = some (ho, so, no) →
    let word := fun (t : State) (y : CopyRec) => (t.work.core ho).bufNum 3 (so + crObj y) 8
    let free := fun (y : CopyRec) => ∀ i < 8, s.work.ringByte ho (so + crObj y + i) = false
    let coded := fun (t : State) (y : CopyRec) (code : Nat) =>
      free y → word t y = (if word s y / 2 ^ 40 % 256 = 0 then code else word s y / 2 ^ 40 % 256) *
        2 ^ 40 + word s y / 2 ^ 48 * 2 ^ 48
    let error := fun (code : Nat) => ∃ t, exec (.copyRecordDone c) s = .next t ∧ t.mem = s.mem ∧
      (t.work.core c).copying = none ∧ (rest = [] → coded t r code) ∧
      ∀ y, rest = [y] → crObj r + 8 ≤ crObj y ∨ crObj y + 8 ≤ crObj r → coded t r code ∧ coded t y 6
    let from_ := srcSide r
    let dest := dstSide r
    let len := crLen r
    (crMalformed r x.ord = true → error 4) ∧
    (crMalformed r x.ord = false → from_.kind ≠ 0 → ∀ hs bs ns,
      s.work.kickSpace c x from_.buf = some (hs, bs, ns) →
      (from_.inAllot 0 len ns = none → error 3) ∧
      ∀ os, from_.inAllot 0 len ns = some os →
        (((s.work.core hs).upsetRow (4 + from_.buf)
          ((List.range (if from_.kind = 3 then len / 8 else len)).map (bs + os + ·))).isSome = true →
          error 5) ∧
        ((s.work.core hs).upset = [] → crRows r = 1 → crOp r = 0 → dest.kind ≠ 0 → ∀ hd bd nd,
          s.work.kickSpace c x dest.buf = some (hd, bd, nd) →
          (dest.inAllot 0 len nd = none → error 3) ∧
          ∀ od, dest.inAllot 0 len nd = some od →
            (dest.kind = 4 → hd = ho → so + crObj r + 8 ≤ bd + od ∨ bd + od + len ≤ so + crObj r) →
            let byte := fun (i : Nat) =>
              if from_.kind = 3 then
                BitVec.ofNat 8 (((s.work.core hs).cell (bs + os + i / 8)).toNat / 256 ^ (i % 8))
              else (s.work.core hs).bufByte from_.buf (bs + os + i)
            (word s r % 2 ^ 40 < len → dest.kind ≠ 4 ∨ rest = [] → error 2) ∧
            (len ≤ word s r % 2 ^ 40 → ∃ t, exec (.copyRecordDone c) s = .next t ∧ t.mem = s.mem ∧
              (free r → word t r = word s r - len) ∧
              (t.work.core c).copying =
                (match rest with | [] => none | _ => some { x with recs := rest }) ∧
              (dest.kind ≠ 3 → ∀ j,
                (dest.kind = 4 → hd = ho → j < so + crObj r ∨ so + crObj r + 8 ≤ j) →
                (t.work.core hd).bufByte dest.buf j =
                  if bd + od ≤ j ∧ j < bd + od + len ∧ ¬(dest.kind = 4 ∧ s.work.ringByte hd j = true)
                  then byte (j - (bd + od)) else (s.work.core hd).bufByte dest.buf j) ∧
              (dest.kind = 3 → ∀ j, (t.work.core hd).cell j =
                if bd + od ≤ j ∧ j < bd + od + len / 8 then
                  BitVec.ofNat 40 (((List.range 8).map fun i =>
                    (byte (8 * (j - (bd + od)) + i)).toNat * 256 ^ i).sum)
                else (s.work.core hd).cell j))))

/-- R196, R211, R234, R235: a row that a line of near memory holds: read by one request, written by one
request, and an element accumulated by one, of which the record waits for the last two. -/
def Sys2Proof.Claim.CopyRequests : Prop :=
  ∀ s c (x : Kick) r hb bb nb ob e tl, (s.work.core c).copying = some x → x.recs = [r] →
    x.fault = none → x.failed = 0 → x.pend = [] → x.row = 0 → (s.work.core c).copyDelayed = false →
    crMalformed r x.ord = false → crRows r = 1 →
    let run := fun (p : State → Prop) => ∃ t, exec (.copyRecordDone c) s = .next t ∧ t.mem = s.mem ∧ p t
    let len := crLen r
    let line := fun (y : Side) (acc : Acc) =>
      tlbLook x.owner y.addr (s.work.core c).tlb = some (e, tl) ∧ y.addr % 128 + len ≤ 128 ∧
      s.work.permits (engineGroup x.sup x.owner) e acc = true ∧
      (s.work.place (e.phys y.addr)).isNear = true
    let buffer := fun (y : Side) => y.kind ∈ [1, 2, 4] ∧
      s.work.kickSpace c x y.buf = some (hb, bb, nb) ∧ y.inAllot 0 len nb = some ob
    let waits := fun (t : State) (q : Req) => Sent t c q ∧ q.eng = true ∧ q.key = e.key ∧
      ∃ y, (t.work.core c).copying = some y ∧ y.recs = x.recs ∧ y.row = 1 ∧ y.pend = [q.op] ∧
        q.op ∈ (t.work.core c).stores.map Prod.fst
    (line (srcSide r) .load → (srcSide r).kind = 0 → buffer (dstSide r) → crOp r = 0 →
      let pa := e.phys (srcSide r).addr
      ((s.work.core c).engineLine 64 (pa / 128) = none → run fun t =>
        ∃ q, Sent t c q ∧ q.line = pa / 128 ∧ q.key = e.key ∧
          q.kind = .fill false false ((List.range len).map (pa + ·)) ∧
          (t.work.core c).copying = some x) ∧
      ∀ id f data, (s.work.core c).engineLine 64 (pa / 128) = some (id, f) → f.data = some data →
        f.bad = false → (dstSide r).kind ≠ 4 → run fun t => ∀ i < len,
          (t.work.core hb).bufByte (dstSide r).buf (bb + ob + i) = getByte data ((pa + i) % 128)) ∧
    ((dstSide r).kind = 0 → buffer (srcSide r) → (s.work.core hb).upset = [] →
      let pa := e.phys (dstSide r).addr
      let byte := fun i => (s.work.core hb).bufByte (srcSide r).buf (bb + ob + i)
      (crOp r = 0 → line (dstSide r) .store → run fun t => ∃ q, waits t q ∧ q.line = pa / 128 ∧
        q.kind = .store ((List.range len).map fun i => (pa + i, byte i))) ∧
      (crOp r = 1 → len = etySize (crEty r) → line (dstSide r) .atomic → run fun t => ∃ q, waits t q ∧
        q.line = pa / 128 ∧
        let v := BitVec.ofNat 64 (((List.range len).map fun i => (byte i).toNat * 256 ^ i).sum)
        q.kind = if crOrd r then
            .ordered false (crEty r) len [{ addr := pa, lane := 64, seq := x.seq, operand := v }]
          else .atomic (if crEty r = 1 ∨ crEty r = 3 then 8 else 0) len false [(0, pa, v, 0)]))

/-- R239, R240, R366: PIN takes the highest free ways for a range of one page, in place of a window that
its launch holds under the number, and sets Z. It sets C where another launch holds the number, and
clears both where the windows would hold more than 12 ways; then nothing changes. UNPIN releases a window of its
launch and sets Z, and otherwise clears it. -/
def Sys2Proof.Claim.RetentionWindows : Prop :=
  ∀ s c n g, Ready s c n g → g.kind ≠ .run → ∀ (x k : BitVec 2) (m : BitVec 3) (a b : BitVec 6),
    let va := (g.s a.toNat).toNat
    let len := (g.s b.toNat).toNat
    let die := Config.dieOf c
    let rtw := (s.work.die die).rtw
    let others := tdel k.toNat rtw
    let done := fun (i : Instr) (f : BitVec 4) (p : State → Prop) =>
      ∃ t h, exec i s = .next t ∧ t.mem = s.mem ∧ t.work.grp c n = some h ∧ h.pc = g.pc + 4 ∧
        Keeps g h.settled { fl := true } ∧ h.settled.fixed = g.fixed ∧ h.settled.sfl = f ∧ p t
    let same := fun (t : State) => (t.work.die die).rtw = rtw
    (∀ e tl, va % 4096 = 0 → len % 4096 = 0 → 4096 ≤ len → len ≤ 2 ^ 30 → va < 2 ^ 52 →
      tlbLook g.owner va (s.work.core c).tlb = some (e, tl) → s.work.permits g e .load = true →
      va % 2 ^ pageBits e.size + len ≤ 2 ^ pageBits e.size →
      let used := others.foldl (fun q y => q + y.2.n) 0
      let mine := ∀ y, tfind k.toNat rtw = some y → y.launch = g.launch
      (mine → used + m.toNat + 1 ≤ 12 →
        done (.pin x k m a b) (mkSfl true false false false) fun t =>
          ∃ y, tfind k.toNat (t.work.die die).rtw = some y ∧ y.launch = g.launch ∧
            y.n = m.toNat + 1 ∧ y.base = e.phys va ∧ y.len = len ∧
            let held := others.flatMap fun q => q.2.ways
            (∀ v ∈ y.ways, v < 16 ∧ v ∉ held) ∧
            ∀ u < 16, u ∉ held → u ∈ y.ways ∨ ∀ v ∈ y.ways, u < v) ∧
      (mine → 12 < used + m.toNat + 1 → done (.pin x k m a b) 0 same) ∧
      (¬mine → done (.pin x k m a b) (mkSfl false false true false) same)) ∧
    (∀ y, tfind k.toNat rtw = some y → y.launch = g.launch →
      done (.unpin x k) (mkSfl true false false false) fun t =>
        tfind k.toNat (t.work.die die).rtw = none) ∧
    ((∀ y, tfind k.toNat rtw = some y → y.launch ≠ g.launch) → done (.unpin x k) 0 same)

/-- COPYKICK, CDINIT, YIELDC, the copy engine, PIN and UNPIN.

Instructions whose completion it states, each with the effect it gives: copykickOrd, copykickAny,
cdinit, yieldc, copyKickStart, copyRecordDone, pin, unpin. -/
def Obligations.Copies : Prop :=
  Claim.CopyInstructions ∧ Claim.CopyEngine ∧ Claim.CopyRequests ∧ Claim.RetentionWindows

/-- R248, R254 to R257: an MMA of a single group whose fields and ranges are legal enters the queue
of the engine; MC counts it and its A registers are held. -/
def Sys2Proof.Claim.SingleIssue : Prop :=
  ∀ s c n g, Ready s c n g → g.kind = .user ∨ g.kind = .handlerTeam → g.iset = 0 → g.mc < 63 →
    ∀ (x : BitVec 2) (a q r : BitVec 6),
    let e := (s.work.core c).mx
    let issue := fun (start keep : Bool) (i : Instr) =>
      let o := mmaOp 0 n g a.toNat q.toNat r.toNat start keep
      let id := g.memberId n
      let span := spanRegs o.afmt o.k
      q.toNat + 3 ≤ 64 → r.toNat + 2 ≤ 64 → a.toNat + span ≤ g.nv → o.fieldsOk = true →
      e.latchOf g.launch g.lin [id] = none → e.latchedFor g.launch g.lin id = false →
      e.open_.find? (fun y => y.op.ofSet g.launch g.lin [id]) = none → e.occupancy < 8 →
      (keep = true → ∃ i < 8, tfind i e.latches = none) →
      ∀ hc bc nc hw bw nw, s.work.space c g 2 = some (hc, bc, nc) →
        s.work.space c g 0 = some (hw, bw, nw) → o.outOf nc nw = none →
      ∃ t, exec i s = .next t ∧
        Issues s t c n g 4 { g with
          mc := g.mc + 1
          locked := (List.range span).map fun j => (a.toNat + j, s.work.msgSeq) } ∧
        ∃ y ∈ (t.work.core c).mx.queue, y.num = s.work.msgSeq ∧ y.members = [id] ∧
          y.m = (g.s q.toNat).toNat ∧ y.n = (g.s (q.toNat + 1)).toNat ∧
          y.k = (g.s (q.toNat + 2)).toNat ∧ y.start = start ∧ y.keep = keep ∧ y.fmt = g.format ∧
          y.msr = g.msr
    issue false false (.mma x a q r) ∧ issue false true (.mmaR x a q r) ∧
    issue true false (.mmas x a q r) ∧ issue true true (.mmasR x a q r)

/-- R248, R251, R256: in a set of several groups a member that is not the last to arrive opens the
rendezvous; the last launches the operation, with the A registers of each; one that gives other
parameters traps. -/
def Sys2Proof.Claim.SetIssue : Prop :=
  ∀ s c n g, Ready s c n g → g.kind = .user → g.mc < 63 → ∀ (x : BitVec 2) (a q r : BitVec 6),
    let e := (s.work.core c).mx
    let id := g.gidx
    let issue := fun (word : BitVec 32) (start keep : Bool) (i : Instr) =>
      let o := mmaOp word n g a.toNat q.toNat r.toNat start keep
      let span := spanRegs o.afmt o.k
      let held := fun (num : Nat) =>
        { g with
          mc := g.mc + 1
          locked := (List.range span).map fun j => (a.toNat + j, num) }
      let missing := fun (i : Nat) =>
        ∀ y, s.work.team g.launch g.lin = some y → has y.retired i = false ∨ 64 ≤ i
      q.toNat + 3 ≤ 64 → r.toNat + 2 ≤ 64 → a.toNat + span ≤ g.nv → o.fieldsOk = true →
      e.latchOf g.launch g.lin o.members = none → e.latchedFor g.launch g.lin id = false →
      ∀ hc bc nc hw bw nw, s.work.space c g 2 = some (hc, bc, nc) →
        s.work.space c g 0 = some (hw, bw, nw) → o.outOf nc nw = none →
      (e.open_.find? (fun y => y.op.ofSet g.launch g.lin o.members) = none →
        (∃ i ∈ o.members, i ≠ id ∧ missing i) →
        ∃ t, exec i s = .next t ∧ Issues s t c n g 4 (held s.work.msgSeq) ∧
          (t.work.core c).mx.queue = e.queue ∧
          ∃ y ∈ (t.work.core c).mx.open_, y.arrived = [id] ∧ y.op.num = s.work.msgSeq ∧
            y.op.members = o.members ∧ y.op.m = o.m ∧ y.op.n = o.n ∧ y.op.k = o.k) ∧
      ∀ y, e.open_.find? (fun y => y.op.ofSet g.launch g.lin o.members) = some y →
        (y.op.matches o = false → s.work.flagsPending c n = false → Traps s c n g i 0x0D 0 0) ∧
        (y.op.matches o = true → y.op.va = a.toNat → y.op.fmt = g.format →
          (y.op.keep = true → ∃ i < 8, tfind i e.latches = none) → (∀ i ∈ o.members, i = id ∨ i ∈ y.arrived) → e.occupancy < 8 →
          ∃ t, exec i s = .next t ∧ Issues s t c n g 4 (held y.op.num) ∧
            ∃ z ∈ (t.work.core c).mx.queue, z.num = y.op.num ∧ z.members = o.members ∧ z.m = o.m ∧
              z.n = o.n ∧ z.k = o.k ∧
              let p := (o.members.idxOf? id).getD 0
              tget 0 p z.alive = g.live ∧
              ∀ l < 64, bit g.live l = true → ∀ j < span,
                tget 0 ((64 * p + j) * 64 + l) z.amem = g.v (a.toNat + j) l)
    issue (wMma x a q r) false false (.mma x a q r) ∧ issue (wMmaR x a q r) false true (.mmaR x a q r) ∧
    issue (wMmas x a q r) true false (.mmas x a q r) ∧
    issue (wMmasR x a q r) true true (.mmasR x a q r)

/-- MMA and its forms, of a single group and of a set.

Instructions whose completion it states, each with the effect it gives: mma, mmaR, mmas, mmasR. -/
def Obligations.MatrixIssue : Prop :=
  Claim.SingleIssue ∧ Claim.SetIssue

/-- R247, R253, R264 to R267: MXSET, MSCALE, MXWAIT, MXCLR, MXFLAG and MXRD. -/
def Sys2Proof.Claim.MatrixControl : Prop :=
  ∀ s c n g, Ready s c n g → g.kind ≠ .run → ∀ (x : BitVec 2) (d a b : BitVec 6),
    let A := (g.s a.toNat).toNat
    let B := (g.s b.toNat).toNat
    let set := (List.range 32).filter A.testBit
    let k := s.work.core c
    (g.kind = .user → A < 2 ^ 32 → set.length ≠ 1 → set.length ≤ 6 → (A ≠ 0 → g.gidx ∈ set) →
      (∀ i ∈ set, i < lrNgrp (s.work.recOf g) ∧ s.work.coreOfMember g c i = c) →
      k.mx.latchedFor g.launch g.lin g.gidx = false → k.mx.waiting = [] →
      ∃ t, exec (.mxset x a) s = .next t ∧
        Issues s t c n g 4 { g with iset := BitVec.ofNat 64 A }) ∧
    (A % 8 = 0 → B % 8 = 0 → A < 2 ^ 19 → B < 2 ^ 19 →
      Completes s c n g (.mscale x a b) (g.pc + 4)
        { g with msr := BitVec.ofNat 64 (A / 8 + B / 8 * 2 ^ 16) } {} fun _ => True) ∧
    (A % 2 ^ 32 = 0 → g.half = 0 → (∀ y, (s.work.core y).mx.ops = []) →
      Completes s c n g (.mxwait x a) (g.pc + 4) { g with covers := [] } {} fun _ => True) ∧
    (∀ hc base size, s.work.space c g 2 = some (hc, base, size) → 1 ≤ B → B ≤ 64 → A + B ≤ size →
      k.upset = [] → k.unitRank ≤ 3 →
      let f := (List.range B).foldl (fun f i => f ||| cellFlags (k.cell (base + (A + i)))) 0
      let flags := fun (i : Instr) (clear : Bool) =>
        f &&& fmtEnables g.format = 0 →
        ∃ t h, exec i s = .next t ∧ t.mem = s.mem ∧ t.work.grp c n = some h ∧ h.pc = g.pc + 4 ∧
          h.settled.fixed = ({ g with flg := g.flg ||| f } : Group).fixed ∧
          Keeps g h.settled { ss := [d.toNat] } ∧ h.settled.s d.toNat = f.zeroExtend 64 ∧
          ∀ i, (t.work.core c).cell i =
            if clear = true ∧ base + A ≤ i ∧ i < base + A + B then k.cell i &&& ~~~(15#40 <<< 36)
            else k.cell i
      flags (.mxflag x d a b) false ∧ flags (.mxflagC x d a b) true ∧
      (g.half = 0 → s.work.mxWrites c n g (base + A) B = false →
        ∃ t h, exec (.mxclr x a b) s = .next t ∧ t.mem = s.mem ∧ t.work.grp c n = some h ∧
          h.pc = g.pc + 4 ∧ h.settled.fixed = g.fixed ∧ Keeps g h.settled {} ∧
          ∀ i, (t.work.core c).cell i =
            if base + A ≤ i ∧ i < base + A + B then 0 else k.cell i)) ∧
    (a.toNat ≤ 6 → ToScalar s c n g (.mxrd x d a) d.toNat (s.work.mxWord c n g a.toNat)) ∧
    s.work.mxWord c n g 0 = g.iset ∧ s.work.mxWord c n g 1 = g.msr

/-- R262, R263: MXCONT in a handler gives a split operation of its own group back to the queue, or
abandons it. -/
def Sys2Proof.Claim.MatrixContinuation : Prop :=
  ∀ s c n g o o', Ready s c n g → g.kind = .user → g.inHandler = true →
    ∀ (x : BitVec 2) (a b : BitVec 6), a.toNat + 4 ≤ 64 →
    contOp n g ((List.range 4).map fun i => g.s (a.toNat + i)) = some o →
    o.members = [g.memberId n] → o.fieldsOk = true →
    (s.work.core c).leaderSlot o = some n →
    ((s.work.core c).memberSlot o (g.memberId n)).isSome = true →
    o.va + o.aoff + spanRegs o.afmt o.k ≤ g.nv →
    ∀ hc bc nc hw bw nw, s.work.space c g 2 = some (hc, bc, nc) →
      s.work.space c g 0 = some (hw, bw, nw) → o.outOf nc nw = none →
    (g.s b.toNat = 0 → g.mc < 63 → (s.work.core c).mx.occupancy < 8 →
      (s.work.core c).contA o = some o' →
      ∃ t, exec (.mxcont x a b) s = .next t ∧
        Issues s t c n g 4 { g with mc := g.mc + 1, cont := [] } ∧
        ∃ y ∈ (t.work.core c).mx.queue, y.issuer = some n ∧ y.k = o'.k ∧ y.m = o'.m ∧ y.n = o'.n) ∧
    (g.s b.toNat = 1 →
      ∃ t h, exec (.mxcont x a b) s = .next t ∧ t.mem = s.mem ∧ t.work.grp c n = some h ∧
        h.pc = g.pc + 4 ∧ h.cont = [] ∧ Keeps g h.settled {} ∧
        ∀ z, (s.work.core c).mx.split.find? (fun y =>
            y.ofSet o.launch o.lin o.members && decide (y.block = o.block)) = some z →
          ∀ y ∈ (t.work.core c).mx.split, y.num ≠ z.num)

/-- MXSET, MSCALE, MXWAIT, MXCLR, MXFLAG, MXRD and MXCONT.

Instructions whose completion it states, each with the effect it gives: mxset, mscale, mxwait,
mxflag, mxflagC, mxclr, mxrd, mxcont. -/
def Obligations.MatrixInstructions : Prop :=
  Claim.MatrixControl ∧ Claim.MatrixContinuation

/-- R254, R257, R261, R263: an operation starts, writes a block, ends, and splits. -/
def Sys2Proof.Claim.MatrixEngineSteps : Prop :=
  (∀ s c o, (s.work.core c).mx.running = none →
    (s.work.core c).mx.queue.find?
      (fun y => !((s.work.team y.launch y.lin).map (·.saving)).getD false) = some o →
    o.enq < (s.work.core c).cycle → (s.work.core c).mx.busy ≤ (s.work.core c).cycle →
    o.behind (s.work.core c) = false →
    ∃ t y, exec (.matrixOpStart c) s = .next t ∧ t.mem = s.mem ∧
      (t.work.core c).mx.running = some y ∧ y.t0 = (s.work.core c).cycle ∧ y.done = 0 ∧
      y.fetched = 0 ∧ y.num = o.num ∧ (o.start = true → y.cells = []) ∧
      (t.work.core c).mx.queue = (s.work.core c).mx.queue.erase o) ∧
  ∀ s c o, (s.work.core c).mx.running = some o →
    let k := s.work.core c
    let base := (s.work.mxBases c o).1 + o.cb
    (o.done < o.fetched → o.writeAt o.done ≤ k.cycle → o.bad = none → o.n ≤ 256 → o.m ≤ 1 ∨ o.n ≤ o.cs →
      ∃ t y, exec (.matrixBlockWrite c) s = .next t ∧ t.mem = s.mem ∧
        (t.work.core c).mx.running = some y ∧ y.done = o.done + 1 ∧
        (∀ i < o.m, ∀ j < o.n, (t.work.core c).cell (base + i * o.cs + j) =
          o.cellAfter o.belem i j) ∧
        ∀ q, (∀ i < o.m, ∀ j < o.n, q ≠ base + i * o.cs + j) →
          (t.work.core c).cell q = k.cell q) ∧
    (o.blocks ≤ o.done →
      ∃ t, exec (.matrixOpEnd c) s = .next t ∧ t.mem = s.mem ∧
        (∀ n g, s.work.grp c n = some g → o.isMember n g = true → o.issuer ≠ some n → n ∉ o.past →
          ∃ h, t.work.grp c n = some h ∧ h.mc = g.mc - 1 ∧
            (k.mx.waiting = [] → h.locked = g.locked)) ∧
        (k.mx.waiting = [] → (t.work.core c).mx.running = none ∧
          o.num ∈ (t.work.core c).mx.ended)) ∧
    (∀ n g, tfind n k.groups = some g → ∃ h, tfind n k.unlockEnded.groups = some h ∧
      h.locked = g.locked.filter fun y => decide (y.2 ∉ k.mx.ended)) ∧
    (∀ b n g, o.bad = some b → o.badAt ≤ o.done → o.done < o.blocks → k.leaderSlot o = some n →
      s.work.grp c n = some g →
      ∃ t h, exec (.matrixSplit c (b + 1)) s = .next t ∧ t.mem = s.mem ∧
        (t.work.core c).mx.running = none ∧ (t.work.core c).mx.split = k.mx.split ++ [o.remainder] ∧
        t.work.grp c n = some h ∧ h.cont = o.remainder.block ∧
        h.raise = some (0x0E, BitVec.ofNat 64 (b % 2 ^ 18), 0)) ∧
    (o.done < o.blocks → ((s.work.team o.launch o.lin).map (·.saving)).getD false = true →
      o.fetched ≤ o.done →
      ∃ t, exec (.matrixSplit c 0) s = .next t ∧ t.mem = s.mem ∧
        (t.work.core c).mx.running = none ∧ (t.work.core c).mx.split = k.mx.split ++ [o.remainder])

/-- R83, R59: an integer block adds its exact sum to the INT36 value of the cell, modulo 2^36; the
overflow flag is set when the sum does not fit, and no flag is cleared. The sum is that of the products
of the block, a DS8 element counting 128 times its value. -/
def Sys2Proof.Claim.MatrixIntegerBlocks : Prop :=
  (∀ (old : Cell40) (sum : Int),
    let v := cellInt old + sum
    cellInt (accInt old sum) = (BitVec.ofInt 36 v).toInt ∧
    ((accInt old sum).getLsbD 37 = true ↔
      old.getLsbD 37 = true ∨ v < -2 ^ 35 ∨ 2 ^ 35 ≤ v) ∧
    ∀ i ∈ [36, 38, 39], (accInt old sum).getLsbD i = old.getLsbD i) ∧
  (∀ (o : MxOp) el i j, fmtACC o.fmt = true →
    let first := o.done * o.kb
    o.cellAfter el i j = accInt (tget 0 (256 * i + j) o.cells)
      ((List.range (min o.kb (o.k - first))).map fun q =>
        intElem o.afmt (o.aElem i (first + q)) *
          intElem o.bfmt (tget 0 (256 * (first + q) + j) el)).sum) ∧
  ∀ e < 256, intElem 2 e = (if e < 128 then (e : Int) else (e : Int) - 256) ∧
    (intElem 3 e : ℝ) = 128 * ((-1) ^ (e / 128) * (2 : ℝ) ^ (-((e / 16 % 8 : Nat) : Int)) +
      (-1) ^ (e / 8 % 2) * (2 : ℝ) ^ (-((e % 8 : Nat) : Int)))

/-- R80 to R82, R59: a floating block: the exact products; NaN and infinities first; each finite product
truncated below the greatest of them; the scaled sum added with one rounding, its flags gathered. -/
def Sys2Proof.Claim.MatrixFloatBlocks : Prop :=
  (∀ F (l : List Product),
    let any := fun (p : Fp → Prop) => ∃ y ∈ l, p y.1
    (any (·.isNan = true) → blockSum F l = (.nan false, l.foldl (fun f y => f ||| y.2) 0)) ∧
    (¬any (·.isNan = true) →
      (any (· = .inf true) → any (· = .inf false) → blockSum F l = (.nan false, flNV)) ∧
      (∀ s, any (· = .inf s) → ¬any (· = .inf (!s)) → blockSum F l = (.inf s, 0)) ∧
      (¬any (· = .inf true) → ¬any (· = .inf false) → blockSum F l = (alignSum F (l.map Prod.fst), 0)))) ∧
  (∀ (F : Int) (l : List (Bool × Nat × Int)),
    let sum := alignSum F (l.map fun y => .fin y.1 y.2.1 y.2.2)
    ((∀ y ∈ l, y.2.1 = 0) → ∃ e, sum = .fin (l.all fun y => y.1) 0 e) ∧
    ∀ u : Int, (∀ y ∈ l, y.2.1 ≠ 0 → (y.2.1.log2 : Int) + y.2.2 - F ≤ u) →
      (∃ y ∈ l, y.2.1 ≠ 0 ∧ (y.2.1.log2 : Int) + y.2.2 - F = u) →
      let S : Int := (l.map fun y =>
        (if y.1 then -1 else 1) * ⌊(y.2.1 : ℝ) * (2 : ℝ) ^ y.2.2 / (2 : ℝ) ^ u⌋).sum
      sum = .fin (decide (S < 0)) S.natAbs u) ∧
  (∀ p : Product, (scaleSum p none).1.isNan = true ∧ (scaleSum p none).2 = p.2 ||| flNV ∧
    ∀ k x, Stands p.1 x → Stands (scaleSum p (some k)).1 (x * (2 : ℝ) ^ k) ∧
      (scaleSum p (some k)).2 = p.2) ∧
  ∀ (o : MxOp) el i j, fmtACC o.fmt = false →
    let first := o.done * o.kb
    let old := tget 0 (256 * i + j) o.cells
    let new := o.cellAfter el i j
    let p := scaleSum (blockSum (if o.afmt < 4 then 19 else 45)
      ((List.range (min o.kb (o.k - first))).map fun q =>
        (floatElem o.afmt (o.aElem i (first + q))).mul
          (floatElem o.bfmt (tget 0 (256 * (first + q) + j) el)))) (o.scale i j)
    let r := F32.sum (fmtRM o.fmt) (F32.read (old.toNat % 2 ^ 32)) p.1 p.2
    new.extractLsb' 0 32 = BitVec.ofNat 32 r.bits ∧ new.extractLsb' 32 4 = 0 ∧
    ∀ b < 4, new.getLsbD (36 + b) =
      (old.getLsbD (36 + b) || r.fl.getLsbD (if b = 0 then 0 else b + 1))

/-- The matrix engine starts, writes, ends and splits operations; what a block makes of a cell.

Instructions whose completion it states, each with the effect it gives: matrixOpStart,
matrixBlockWrite, matrixOpEnd, matrixSplit. -/
def Obligations.MatrixEngine : Prop :=
  Claim.MatrixEngineSteps ∧ Claim.MatrixIntegerBlocks ∧ Claim.MatrixFloatBlocks

/-- R288, R290: SWDECL takes the lowest free handle for an accepted descriptor, or answers C where
the table is full; the group is held until the engine's writes have been performed. -/
def Sys2Proof.Claim.SweepDeclaration : Prop :=
  ∀ s c n g y, Ready s c n g → Member s g y → ∀ (x : BitVec 2) (d a : BitVec 6),
    let va := (g.s a.toNat).toNat % 2 ^ 52
    (∀ id t, s.work.declaring g n va = some (id, t) → s.work.tensor? id = some t →
      s.work.opsDone c ((t.decl.map Prod.snd).getD []) = true →
      ∃ tt hh, Goes s tt c n g (.swdecl x d a) { ss := [d.toNat], fl := true } hh ∧
        hh.settled.sfl = mkSfl true false false false ∧
        (∀ h q, y.handles.find? (fun p => decide (p.2.tensor = id)) = some (h, q) →
          hh.settled.s d.toNat = natWord h) ∧
        tt.work.tensor? id = some { t with decl := none }) ∧
    (s.work.declaring g n va = none → (∀ h < 4, tfind h y.handles ≠ none) →
      Completes s c n g (.swdecl x d a) (g.pc + 4) g { ss := [d.toNat], fl := true } fun k =>
        k.s d.toNat = 0 ∧ k.sfl = mkSfl false false true false) ∧
    ∀ h < 4, s.work.declaring g n va = none →
      (∀ j < h, tfind j y.handles ≠ none) → tfind h y.handles = none →
      let desc := fun (x hdr : Nat) => tensorOf g (Config.clusterOf c) va g.pri x hdr
      va % 64 = 0 → g.lc = 0 → g.sc = 0 → ∀ u r w1 l1 w2 l2 w3 l3,
      s.work.resolve c n g .load 64 true (fun e pa => s.work.placeOk g e pa 64 false true false)
        [(0, va)] = .ok u r →
      u.engGet (desc 0 0) c false [(va, 64)] = .ok w1 l1 →
      let x1 := numAt l1 0 64
      w1.engGet (desc x1 0) c false [((desc x1 0).rbase, 4)] = .ok w2 l2 →
      let t := desc x1 (numAt l2 0 4)
      let chunks := (t.count + 63) / 64
      t.check x1 (numAt l2 0 4) = 0 →
      w2.engGet t c true [(t.cbase, 16 * t.count), (t.kbase, 8 * chunks),
        (t.smap, (chunks + 7) / 8), (va + 44, 20)] = .ok w3 l3 →
      let out := (w3.engPuts t c ((t.scan l3 (l3.drop (16 * t.count))).1 ++
        (va + 44, 4, 0) :: (upto 4).map fun k => (va + 48 + 4 * k, 4, 0))).2
      out ≠ [] → ∃ tt hh id z m, exec (.swdecl x d a) s = .next tt ∧ tt.work.grp c n = some hh ∧
        hh.pc = g.pc ∧ tt.work.team g.launch g.lin = some m ∧
        tfind h m.handles = some { tensor := id } ∧ tt.work.tensor? id = some z ∧
        z.decl = some (g.keyIdx n, out) ∧ z.state = 0 ∧ z.desc = va ∧ z.count = t.count ∧
        z.ebase = t.ebase ∧ z.cbase = t.cbase ∧ z.kbase = t.kbase ∧ z.rbase = t.rbase

/-- R288, R291, R293 to R295: SWSTART, SWHALT, SWSTAT and SWFREE of a valid handle, and their answer
N for one that is not. -/
def Sys2Proof.Claim.SweepControl : Prop :=
  ∀ s c n g y, Ready s c n g → Member s g y → ∀ (x h : BitVec 2) (a b d e : BitVec 6),
    let z := mkSfl true false false false
    (s.work.handle g h.toNat = none →
      ∀ i, i = .swstart x h a b ∨ i = .swstartResume x h a b ∨ i = .swhalt x h ∨
          i = .swfree x h →
        Completes s c n g i (g.pc + 4) g { fl := true } fun k =>
          k.sfl = mkSfl false true false false) ∧
    (s.work.handle g h.toNat = none → e.toNat ≤ 9 →
      Completes s c n g (.swstat x d e h) (g.pc + 4) g { fl := true } fun k =>
        k.sfl = mkSfl false true false false) ∧
    ∀ id tn, s.work.handle g h.toNat = some (id, tn) →
      (∀ i re, (i = .swstart x h a b ∧ re = false) ∨ (i = .swstartResume x h a b ∧ re = true) →
        (g.half = 1 → Released s g 3 → ∃ t hh, Goes s t c n g i { fl := true } hh ∧
          hh.settled.sfl = z ∧
          t.work.tensor? id = some { tn with
            segs := tn.segs.map fun q => (q.1, { q.2 with
              phase := .placing, sweeps := 0, resume := none
              cursor := if re then 16 * tget 0 q.1 tn.scur else tn.segBase q.1 }) }) ∧
        (g.half = 0 → tn.state ≠ 1 → (re = true → tn.state = 2) →
          (∀ q ∈ tn.segs, (s.work.core q.2.core).good = true) → ∀ hc base size,
          s.work.space c g 3 = some (hc, base, size) → (g.s b.toNat).toNat % 32 = 0 →
          (g.s b.toNat).toNat + 32 ≤ size → (s.work.core c).bufBusy n = false →
          ∃ t q, exec i s = .next t ∧ t.work.tensor? id = some q ∧ q.state = 1 ∧
            q.n = (g.s a.toNat).toNat % 2 ^ 32 ∧ q.recAt = (g.s b.toNat).toNat ∧ q.fin = false ∧
            q.halt = false ∧ q.flags = 0 ∧ q.starts = tn.starts + 1)) ∧
      (tn.state = 1 → tn.final = false → ∃ t hh, Occurs s t (.swhalt x h) ∧ t.work.grp c n = some hh ∧
        hh.pc = g.pc ∧ hh.half = 1 ∧
        t.work.tensor? id = some { tn with halting := true, halt := true }) ∧
      (tn.state ≠ 1 → Completes s c n g (.swhalt x h) (g.pc + 4) g { fl := true } fun k =>
        k.sfl = mkSfl (decide (g.half = 1) && decide (tn.state = 2)) false false false) ∧
      (e.toNat ≤ 9 →
        ToScalar s c n g (.swstat x d e h) d.toNat (natWord (tn.status e.toNat)) ∧
        ∃ t hh, Goes s t c n g (.swstatC x d e h) { ss := [d.toNat] } hh ∧
          hh.settled.s d.toNat = natWord (tn.status e.toNat) ∧
          t.work.tensor? id = some { tn with flags := 0 } ∧
          (s.work.core c).cycle + 2 ≤ (t.work.core c).blocked) ∧
      (tn.state = 1 → Completes s c n g (.swfree x h) (g.pc + 4) g { fl := true } fun k =>
        k.sfl = mkSfl false false true false) ∧
      (tn.state ≠ 1 → ∃ t hh, Goes s t c n g (.swfree x h) { fl := true } hh ∧
        hh.settled.sfl = z ∧ t.work.tensor? id = none ∧ t.work.handle g h.toNat = none)

/-- R288, R296: CWAKE.ANY and CWAKE.ORD send one wake per active lane to the core of its cell's
segment, once their release is complete. -/
def Sys2Proof.Claim.ExternalWakes : Prop :=
  ∀ s c n g y, Ready s c n g → Member s g y → ∀ (x h : BitVec 2) (a : BitVec 6),
    g.hasV a.toNat = true → ∀ i ord, (i = .cwakeAny x h a ∧ ord = false) ∨
      (i = .cwakeOrd x h a ∧ ord = true) →
    (s.work.handle g h.toNat = none →
      Completes s c n g i (g.pc + 4) g { fl := true } fun k =>
        k.sfl = mkSfl false true false false) ∧
    ∀ id tn, s.work.handle g h.toNat = some (id, tn) →
      let cell := fun l => (g.v a.toNat l).toNat
      let dst := fun l => ((tfind (tn.segOf (cell l)) tn.segs).map (·.core)).getD c
      (∀ l < 64, bit g.exec l = true → cell l < tn.count) →
      Released s g ((lanesOf g.exec).foldl (fun m l => max m (s.work.amScope g c (dst l) true)) 0) →
      ∃ t hh, Goes s t c n g i { fl := true } hh ∧
        hh.settled.sfl = mkSfl true false false false ∧
        hh.ordSeq = g.ordSeq + (if ord then 1 else 0) ∧
        ∀ l < 64, bit g.exec l = true →
          ∃ p ∈ (t.work.die (Config.dieOf c)).net, p.ddie = Config.dieOf (dst l) ∧
            p.msg = .xwake (dst l) id (tn.segOf (cell l)) (cell l)
              (if ord then [g.lin, g.keyIdx n, l, g.ordSeq, tn.starts + 1] else [])

/-- SWDECL, SWSTART, SWHALT, SWSTAT, SWFREE and external CWAKE.

Instructions whose completion it states, each with the effect it gives: swdecl, swstart,
swstartResume, swhalt, swfree, swstat, swstatC, cwakeAny, cwakeOrd. -/
def Obligations.SweepInstructions : Prop :=
  Claim.SweepDeclaration ∧ Claim.SweepControl ∧ Claim.ExternalWakes

/-- R297 to R300: in a sweep routine the active lanes of CYIELD, CSLEEP, CDONE and CWAITM leave their
class with the state and continuation point the instruction gives; CWAKE adds wakes and faults the
lanes with a bad index; CIDX and CSTAT give the cell's index, reference and sweep count.

Instructions whose completion it states, each with the effect it gives: cyield, csleep, cdone,
cwaitm, cidx, cstat, cwake. -/
def Obligations.RoutineInstructions : Prop :=
  ∀ s c n g r, Ready s c n g → g.kind = .run → g.run = some r → ∀ (x : BitVec 2) (p : BitVec 16)
      (a b d : BitVec 6) (k : BitVec 3),
    let here := r.cpcOf g.pc
    let leaves := fun (hh : Group) (q : RunCtx) (cpc st : Nat) =>
      hh.run = some q ∧ hh.exec = 0 ∧ hh.live = g.live &&& ~~~g.exec ∧
      q.done = r.done ||| g.exec ∧ q.ref = r.ref ∧
      ∀ l < 64, tget 0 l q.cpc = (if bit g.exec l then cpc else tget 0 l r.cpc) ∧
        tget 0 l q.st = (if bit g.exec l then st else tget 0 l r.st)
    let ends := fun (i : Instr) (cpc st : Nat) =>
      ∃ t hh q, Occurs s t i ∧ t.work.grp c n = some hh ∧ hh.pc = g.pc + 4 ∧ leaves hh q cpc st
    ends (.cyield x p) p.toNat 0 ∧ ends (.csleep x p) p.toNat 1 ∧ ends (.cdone x) here 3 ∧
    (k.toNat ≤ 5 → g.hasPair a.toNat = true → g.hasV b.toNat = true → ∀ u l,
      s.work.resolve c n g .load 4 false (fun _ pa => (s.work.place pa).isNear)
        ((lanesOf g.exec).map fun l => (l, (g.v64 a.toNat l).toNat % 2 ^ 52)) = .ok u l →
      (l.map Prod.fst).Nodup →
      ∃ t hh q, Occurs s t (.cwaitm x k a b) ∧ t.work.grp c n = some hh ∧ hh.pc = g.pc + 4 ∧
        leaves hh q (r.cpcOf (g.pc + 4)) 0 ∧
        ∀ z ∈ l, ∃ op,
          tfind z.1 q.asks = some
            { op, cpc := here, pa := z.2.1, key := z.2.2, cond := k.toNat
              value := (g.v b.toNat z.1).toNat, result := none } ∧
          Sent t c (mkReq c n g (z.2.1 / 128) z.2.2 op false false false
            (.waitcmp z.2.1 4 k.toNat (natWord (g.v b.toNat z.1).toNat) true))) ∧
    (g.hasV d.toNat = true →
      ToVector s c n g (.cidx x d) 4 d.toNat g.exec fun l => BitVec.ofNat 32 (r.base + l)) ∧
    ∀ tn y, s.work.tensor? r.tensor = some tn → tfind r.seg tn.segs = some y →
      (g.hasV d.toNat = true → ToVector s c n g (.cstat x d) 4 d.toNat g.exec fun l =>
        BitVec.ofNat 32 (tget 0 l r.ref0 + y.sweeps % 2 ^ 16 * 2 ^ 16)) ∧
      (g.hasV a.toNat = true →
        let j := fun l => (g.v a.toNat l).toNat
        let bad := fun l => decide (tn.count ≤ j l) ||
          (decide (tn.segOf (j l) ≠ r.seg) && !tn.sync)
        ∃ t hh q, Occurs s t (.cwake x a) ∧ t.work.grp c n = some hh ∧ hh.pc = g.pc + 4 ∧
          hh.run = some q ∧
          q.wakes = r.wakes ++
            ((lanesOf g.exec).filter fun l => !bad l).map (fun l => (l, j l)) ∧
          ∀ l < 64, bit hh.exec l = (bit g.exec l && !bad l) ∧
            tget 0 l q.st = (if bit g.exec l && bad l then 4 else tget 0 l r.st) ∧
            tget 0 l q.ref =
              (if bit g.exec l && bad l then (if tn.count ≤ j l then 0xF2 else 0xF3)
               else tget 0 l r.ref))

/-- R272, R274, R275, R277, R278: a run group is placed; the engine passes a chunk by its summary bit
or loads the next run; the next class starts; a run is written back; a class that has issued its
budget faults its lanes. -/
def Sys2Proof.Claim.RunSteps : Prop :=
  ∀ s id k t x, s.work.tensor? id = some t → tfind k t.segs = some x →
    (x.phase = .placing → s.work.engAble x = true → t.halting = false → ∀ slot,
      (upto 43 1).reverse.find? (fun j => (tfind j (s.work.core x.core).groups).isNone) =
        some slot →
      (s.work.core x.core).rowsUsed + (4 * t.rvq + 4) * t.rw / 16 ≤ Config.teamRows →
      ∃ t' g, Occurs s t' (.runGroupPlace id k) ∧ t'.work.grp x.core slot = some g ∧
        g.kind = .run ∧ g.width = t.rw ∧ g.nv = 4 * t.rvq ∧ g.launch = t.launch ∧
        g.lin = t.lin ∧ g.owner = t.owner ∧ g.pri = t.pri ∧
        SegAt t' id k { x with slot := some slot, phase := .opening }) ∧
    (s.work.engFree x = true → x.phase = .sweeping → t.halting = false → x.cursor < t.segEnd k →
      ∀ u sum, s.work.engGet t x.core true [(t.smap + x.cursor / 64 / 8, 1)] = .ok u sum →
      ((numAt sum 0 1).testBit (x.cursor / 64 % 8) = true →
        ∃ t', exec (.sweepRunStep id k) s = .next t' ∧ t'.mem = (commit s u).mem ∧
          SegAt t' id k { x with cursor := 64 * (x.cursor / 64 + 1), phase := .boundary }) ∧
      ((numAt sum 0 1).testBit (x.cursor / 64 % 8) = false → ∀ v w sk q slot g,
        let fin := min (t.segEnd k) (x.cursor + t.rw)
        let m := fin - x.cursor
        u.engGet t x.core true [(t.kbase + 8 * (x.cursor / 64), 8)] = .ok v sk →
        let skip := numAt sk 0 8
        let on := maskOf fun i => decide (i < m) && !skip.testBit ((x.cursor + i) % 64)
        let cells := (lanesOf on).map (x.cursor + ·)
        v.engGet t x.core true ((cells.map fun j => (t.cbase + 16 * j, 16)) ++
          cells.map fun j => (t.ebase + t.eb * j, t.eb)) = .ok w q →
        w.runGroup x = some (slot, g) →
        let l := spread on 16 m q ++ spread on t.eb m (q.drop (16 * cells.length))
        let r := loadRun t k x.cursor fin skip l id
        r.executed ≠ 0 →
        ∃ t', exec (.sweepRunStep id k) s = .next t' ∧ t'.mem = (commit s w).mem ∧
          (∃ z, t'.work.grp x.core slot =
            some { (g.loadCells t r m l).startClass r (w.core x.core).cycle with slewed := z }) ∧
          SegAt t' id k { x with cursor := x.cursor + t.rw, phase := .running })) ∧
    (s.work.engFree x = true → x.phase = .running → ∀ slot g r,
      s.work.runGroup x = some (slot, g) → g.run = some r → r.classOver = true →
      g.landed = true →
      (r.todo ≠ 0 → ∃ t' h q, Occurs s t' (.sweepRunStep id k) ∧
        t'.work.grp x.core slot = some h ∧ h.run = some q ∧
        q.cls = ((lanesOf r.todo).map fun l => tget 0 l r.cpc).foldl min (2 ^ 16) ∧
        (∀ l < 64, bit h.exec l = (bit r.todo l && decide (tget 0 l r.cpc = q.cls))) ∧
        h.pc = BitVec.ofNat 52 (r.rbase + 4 + 2 * q.cls) ∧ q.todo = r.todo &&& ~~~h.exec ∧
        h.fmt = 0 ∧ h.sfl = 0 ∧ h.stack = []) ∧
      (r.todo = 0 → g.sc = 0 → (r.asks.all fun a => a.2.result.isSome) = true → ∀ u l,
        s.work.engGetChecked t x.core
          [(t.kbase + 8 * (r.base / 64), 8), (t.smap + r.base / 64 / 8, 1)] = (u, some l) →
        ∃ t' h, exec (.runWriteBack id k) s = .next t' ∧ t'.work.grp x.core slot = some h ∧
          h.run = none ∧ h.exec = 0 ∧
          (g.flights = [] → ∀ y ∈ runWrites t r g (numAt l 0 8) (numAt l 8 1), ∀ p,
            tfind (t.owner * 2 ^ 36 + y.1 / 65536) (u.core x.core).engPages = some p →
            y.1 < 2 ^ 52 → p.1 % 128 = 0 → 1 ≤ y.2.1 → y.1 % 128 + y.2.1 ≤ 128 →
            let pa := p.1 + y.1 % 65536
            ∃ q, Sent t' x.core q ∧ q.line = pa / 128 ∧ q.key = p.2 ∧
              q.kind = .store ((leBytes y.2.1 y.2.2).mapIdx fun i b => (pa + i, b))))) ∧
    (s.work.engFree x = true → x.phase = .boundary → x.held = [] → x.out = [] →
      ∃ t', Occurs s t' (.runWriteBack id k) ∧ SegAt t' id k { x with phase := .sweeping }) ∧
    ∀ slot g r, s.work.runGroup x = some (slot, g) → g.run = some r → 65536 ≤ r.budget →
      let rest := r.lanes &&& ~~~r.done
      rest ≠ 0 → ∃ t' h q, Occurs s t' (.classBudgetExhausted id k) ∧
        t'.work.grp x.core slot = some h ∧ h.run = some q ∧ h.exec = g.exec &&& ~~~rest ∧
        q.done = r.done ||| rest ∧
        ∀ l < 64, bit rest l = true → tget 0 l q.st = 4 ∧ tget 0 l q.ref = 0xF1 ∧
          tget 0 l q.cpc = r.cpcOf g.pc

/-- R272, R278: what the write-back of a run writes: the elements of the lanes that ran, the contexts of
those and of the repaired ones, their skip bits, and the summary bit of the chunk, 1 exactly when every
skip bit of it is 1; the bit alone is changed at its home. -/
def Sys2Proof.Claim.RunWrites : Prop :=
  (∀ (t : Tensor) (r : RunCtx) (g : Group) skip sum,
    let l := runWrites t r g skip sum
    let on := r.executed ||| r.repaired
    let u := r.base / 64
    (∀ i < 64, bit r.executed i = true →
      (t.ebase + t.eb * (r.base + i), t.eb,
        ((g.v 0 i).toNat + if t.esz = 3 then (g.v 1 i).toNat * 2 ^ 32 else 0) % 256 ^ t.eb) ∈ l) ∧
    (∀ i < 64, bit on i = true →
      (t.cbase + 16 * (r.base + i), 16,
        tget 0 i r.cpc + tget 0 i r.st * 2 ^ 16 + tget 0 i r.ref * 2 ^ 24 +
          (g.v 61 i).toNat * 2 ^ 32 + (g.v 62 i).toNat * 2 ^ 64 + (g.v 63 i).toNat * 2 ^ 96) ∈ l) ∧
    ((∀ i < 64, bit on i = true → r.base % 64 + i < 64) → ∃ skip' v,
      (t.kbase + 8 * u, 8, skip') ∈ l ∧ (t.smap + u / 8, 0, v) ∈ l ∧ v % 8 = u % 8 ∧
      (v / 8 % 2 = 1 ↔ ∀ b < 64, 64 * u + b < t.count → skip'.testBit b = true) ∧
      (∀ i < 64, bit on i = true →
        skip'.testBit (r.base % 64 + i) = decide (tget 0 i r.st ≠ 0)) ∧
      ∀ b < 64, (∀ i < 64, bit on i = true → r.base % 64 + i ≠ b) →
        skip'.testBit b = skip.testBit b)) ∧
  ∀ (w : Work) (t : Tensor) c va v p, va < 2 ^ 52 →
    tfind (t.owner * 2 ^ 36 + va / 65536) (w.core c).engPages = some p → p.1 % 4 = 0 →
    let pa := p.1 + va % 65536
    (w.place pa).isNear = true →
    let mask := 2 ^ (8 * (va % 4) + v % 8)
    ∃ q ∈ ((w.engPut t c va 0 v).1.die (Config.dieOf c)).net, ∃ r, q.msg = .req r ∧
      r.line = pa / 128 ∧ r.kind = .atomic (if v / 8 % 2 = 1 then 6 else 5) 4 false
        [(0, pa / 4 * 4, BitVec.ofNat 64 (if v / 8 % 2 = 1 then mask else 2 ^ 32 - 1 - mask), 0)]

/-- The engine's steps and what a run writes back.

Instructions whose completion it states, each with the effect it gives: runGroupPlace,
sweepRunStep, runWriteBack, classBudgetExhausted. -/
def Obligations.SweepRuns : Prop :=
  Claim.RunSteps ∧ Claim.RunWrites

/-- R277, R279, R280, R293, R302, R425: the opening boundary, the sweep boundary with its three ends,
the closing boundary and an engine fault. -/
def Sys2Proof.Claim.SweepBoundaries : Prop :=
  ∀ s id k t x, s.work.tensor? id = some t → tfind k t.segs = some x →
    (s.work.engFree x = true → x.phase = .opening → x.resume = none → x.held = [] →
      s.work.ordFlying id k t.starts = false →
      ∃ t', Occurs s t' (.sweepOpeningBoundary id k) ∧
        SegAt t' id k { x with phase := .sweeping }) ∧
    (s.work.engFree x = true → t.sync = false → t.halting = false →
      s.work.wakesFlying id = false →
      (x.phase = .sweeping → t.segEnd k ≤ x.cursor →
        ∃ t', Occurs s t' (.sweepBoundary id k) ∧
          SegAt t' id k { x with sweeps := x.sweeps + 1, phase := .atEnd }) ∧
      (x.phase = .atEnd → x.held = [] →
        ∃ t' z y, Occurs s t' (.sweepBoundary id k) ∧ t'.work.tensor? id = some z ∧
          tfind k z.segs = some y ∧ y.cursor = t.segBase k ∧
          (t.n ≠ 0 ∧ t.n ≤ x.sweeps → y.phase = .closing) ∧
          (t.n = 0 ∧ tget 0 0 x.counts = 0 ∧ tget 0 2 x.counts = 0 →
            y.phase = .closing ∧ z.wasQuiet = true) ∧
          (t.n = 0 ∧ tget 0 0 x.counts = 0 ∧ tget 0 2 x.counts ≠ 0 → y.phase = .quiet) ∧
          ((t.n ≠ 0 ∧ x.sweeps < t.n) ∨ (t.n = 0 ∧ tget 0 0 x.counts ≠ 0) →
            y.phase = .sweeping))) ∧
    (s.work.engAble x = true → s.work.engDone x = true →
      (x.phase = .closing → (∀ a ∈ t.armed, t.segOf a.1 ≠ k) →
        ∃ t' z y, exec (.sweepClosingBoundary id k) s = .next t' ∧
          t'.work.tensor? id = some z ∧ tfind k z.segs = some y ∧
          (t.halting = true → tget 0 k z.scur = x.cursor / 16) ∧
          (t.halting = false → t.lastOpen k = false → y.phase = .closed) ∧
          (y.phase = .ending ∨ y.phase = .closed)) ∧
      (x.phase = .ending → t.lastOpen k = false →
        ∃ t' z y, exec (.sweepClosingBoundary id k) s = .next t' ∧
          t'.work.tensor? id = some z ∧ tfind k z.segs = some y ∧ y.phase = .closed ∧
          ((tkeys t.segs).Nodup → (∀ q ∈ t.segs, q.1 ≠ k → q.2.phase = .closed) →
            z.state = (if t.saving then 3 else if t.halt then 2 else 0) ∧ y.slot = none ∧
            (t.saving = false → z.fin = true)))) ∧
    (x.efault = true → x.phase ≠ .closed → x.phase ≠ .ending →
      ∃ t' z y, Occurs s t' (.sweepEngineFault id k) ∧ t'.work.tensor? id = some z ∧
        tfind k z.segs = some y ∧ y.phase = .closing ∧ y.efault = false ∧ z.halt = true ∧
        z.eflt = true ∧ z.halting = decide (t.state = 1))

/-- R201, R202, R282, R296: an external wake and a monitor wake of a cell are held for a boundary of
its segment; a monitor wake of a group completes its WAITCMP with Z. -/
def Sys2Proof.Claim.WakeArrivals : Prop :=
  (∀ s c q rest t x, (s.work.core c).inbox.xwakes = q :: rest →
    s.work.tensor? q.tensor = some t → tfind q.seg t.segs = some x →
    ∃ t', Occurs s t' (.externalWakeArrive c) ∧ (t'.work.core c).inbox.xwakes = rest ∧
      SegAt t' q.tensor q.seg { x with
        held := x.held ++
          [{ kind := if q.key = [] then 3 else if q.key.length = 3 then 2 else 4
             key := q.key, cell := q.cell, op := 0 }] }) ∧
  ∀ s c q, (s.work.core c).readyWake = some q →
    (∀ id j t x, q.cell = some (id, j) → s.work.tensor? id = some t →
      tfind (t.segOf j) t.segs = some x →
      ∃ t', Occurs s t' (.monitorWakeArrive c) ∧
        (t'.work.core c).inbox.wakes = (s.work.core c).inbox.wakes.erase q ∧
        SegAt t' id (t.segOf j)
          { x with held := x.held ++ [{ kind := 5, key := [], cell := j, op := q.op }] }) ∧
    ∀ g va pa size k value dl, q.cell = none → s.work.grp c q.slot = some g →
      g.wait = .monitor va pa size k value dl q.op → (∀ f ∈ g.flights, f.kind ≠ .flags) →
      ∃ t' h, Occurs s t' (.monitorWakeArrive c) ∧ t'.work.grp c q.slot = some h ∧
        h.pc = g.pc + 4 ∧ h.wait = .none ∧ h.sfl = mkSfl true false false false

/-- Sweep boundaries and the arrival of wakes.

Instructions whose completion it states, each with the effect it gives: sweepOpeningBoundary,
sweepBoundary, sweepClosingBoundary, sweepEngineFault, externalWakeArrive, monitorWakeArrive. -/
def Obligations.SweepBoundariesAndWakes : Prop :=
  Claim.SweepBoundaries ∧ Claim.WakeArrivals

/-! ## Launch, traps, saving and power -/

/-- R303, R309: LAUNCH appends to a ring, or answers V where the queue is disabled and C where it is
full; R310, R311: AMSEND sends its message, once the release is complete.

Instructions whose completion it states, each with the effect it gives: launch, amsendAny,
amsendOrd. -/
def Obligations.LaunchAndMessages : Prop :=
  ∀ s c n g, Ready s c n g → g.kind ≠ .run → ∀ (x : BitVec 2) (a v : BitVec 6) (q h : BitVec 4),
    let k := s.work.queue q.toNat
    ((g.s a.toNat).toNat % 128 = 0 → Released s g 3 →
      let i := Instr.launch x a q
      (k.enabled = false → Completes s c n g i (g.pc + 4) g { fl := true } fun h =>
        h.sfl = mkSfl false false false true) ∧
      (k.enabled = true → (k.tail + 1) % k.size = k.head % k.size →
        Completes s c n g i (g.pc + 4) g { fl := true } fun h =>
          h.sfl = mkSfl false false true false) ∧
      (k.enabled = true → (k.tail + 1) % k.size ≠ k.head % k.size →
        ∃ t hh, exec i s = .next t ∧ t.work.grp c n = some hh ∧ hh.pc = g.pc + 4 ∧
          Keeps g hh.settled { fl := true } ∧ hh.settled.sfl = mkSfl true false false false ∧
          t.work.queue q.toNat = { k with tail := (k.tail + 1) % k.size } ∧
          ∀ pa key w, s.work.distPage k.owner (k.base + 8 * (k.tail % k.size)) 8 .store =
            (some (pa, key), w) → Writes s t w pa key 8 (g.s a.toNat).toNat)) ∧
    (g.kind ≠ .supervisor → g.hasQuad v.toNat = true → h.toNat < lrHcount (s.work.recOf g) →
      ∀ i ord, (i = .amsendAny x v a h ∧ ord = false) ∨
          (i = .amsendOrd x v a h ∧ ord = true ∧ g.kind ≠ .handlerCore) →
      let w := (g.s a.toNat).toNat
      let idx := w % 2 ^ 32
      let core := (g.s a.toNat).getLsbD 32
      let dst := if core then idx else s.work.amHome c g.launch idx
      w < 2 ^ 33 → (core = false → idx < lrTeams (s.work.recOf g)) →
      (core = true → idx < Config.cores ∧ ord = false) →
      Released s g (s.work.amScope g c dst (core || s.work.amKnown g.launch idx)) →
      (core = true → (s.work.core idx).good = false →
        Completes s c n g i (g.pc + 4) g { fl := true } fun h =>
          h.sfl = mkSfl false false false true) ∧
      ((core = true → (s.work.core idx).good = true) →
        ∃ t hh, Goes s t c n g i { fl := true } hh ∧
          hh.settled.sfl = mkSfl true false false false ∧
          hh.ordSeq = g.ordSeq + (if ord then 1 else 0) ∧
          ∃ p ∈ (t.work.die (Config.dieOf c)).net, p.ddie = Config.dieOf dst ∧ p.cls = 0 ∧
            p.msg = .am dst
              { launch := g.launch, toCore := core, idx, hidx := h.toNat
                srcLin := if g.kind = .handlerCore then 0 else g.lin, srcCore := c, ord
                key := [g.lin, g.keyIdx n, 0, g.ordSeq], words := g.payload v.toNat
                num := s.work.msgSeq }))

/-- R303 to R305: the head of the first queue is admitted when every check passes, and refused
with a code where one fails; its entry is consumed. -/
def Sys2Proof.Claim.Admission : Prop :=
  ∀ s q rest w1 e w2 v page w0, s.tempo % 32 = 0 → s.admitAt ≤ s.tempo → s.work.openLaunches < 64 →
    s.work.queueOrder = q :: rest →
    let x := s.work.queue q
    s.work.distGet x.owner (x.base + 8 * (x.head % x.size)) 8 = .ok w1 e → e < 2 ^ 52 →
    e % 128 = 0 → w1.distGet x.owner e 128 = .ok w2 v →
    let r := BitVec.ofNat 1024 v
    lrCpl r % 64 = 0 → w2.distPage x.owner (lrCpl r) 64 .store = (some page, w0) →
    (∀ w3, w0.checkRecord q x.owner r = .pass w3 →
      ∃ t, exec .launchAdmit s = .next t ∧
        t.work.launch? (s.launchSeq + 1) = some (newLaunch r e x) ∧
        t.launchSeq = s.launchSeq + 1 ∧ t.admitAt = s.tempo + 1 ∧
        t.work.queue q = { x with head := (x.head + 1) % x.size } ∧
        ∀ pa key w, (w3.consume q false).distPage x.owner (lrCpl r) 64 .store = (some (pa, key), w) →
          Writes s t w pa key 64 0) ∧
    ∀ w3 code, w0.checkRecord q x.owner r = .refuse w3 code →
      ∃ t, exec .launchAdmit s = .next t ∧ tkeys t.launches = tkeys s.launches ∧
        t.work.queue q = { x with head := (x.head + 1) % x.size } ∧
        ∀ pa key w, (w3.consume q false).distPage x.owner (lrCpl r) 64 .store = (some (pa, key), w) →
          Writes s t w pa key 64 (code % 256 + 2 ^ 8 + s.tempo % 2 ^ 64 * 2 ^ 128)

/-- R28, R304: the refusal code of a record, the first that applies; that of a handler table, of
dependences and of a book, which stand in memory, apart. -/
def Sys2Proof.Claim.RefusalCodes : Prop :=
  ∀ (w : Work) (q owner : Nat) (r : BitVec 1024),
    let b := recBits r
    let role := fun (k hi lo : Nat) => b (64 * k + hi) (64 * k + lo)
    let vq := fun k => role k 540 536
    let gcnt := fun k => role k 546 541
    let groups := gcnt 0 + gcnt 1 + gcnt 2 + gcnt 3
    let teams := b 159 128 * b 191 160 * b 223 192
    let ringn := b 237 233
    let place := fun i => b (2 * i + 247) (2 * i + 246)
    let fails := fun (code : Nat) =>
      match code with
      | 1 => b 319 295 ≠ 0 ∨ b 383 372 ≠ 0 ∨ b 446 436 ≠ 0 ∨ b 510 500 ≠ 0 ∨
          (∃ k < 4, role k 575 553 ≠ 0) ∨ b 1023 896 ≠ 0 ∨ b 7 0 ≠ 0 ∨ lrArgs r % 64 ≠ 0 ∨
          b 325 320 ≠ 0 ∨ b 127 126 = 3 ∨ (b 53 53 = 1 ∧ b 52 52 = 0)
      | 2 => lrWidthCode r = 3 ∨ Config.wmax < lrWidth r
      | 3 => teams = 0 ∨ 2 ^ 32 < teams
      | 4 => lrGpref r < lrGfall r
      | 5 => groups = 0 ∨ (if lrTwin r then 32 else 16) < groups ∨
          ∃ k < 4, 16 < vq k ∨ (0 < gcnt k ∧ vq k = 0) ∨ (0 < gcnt k ∧ role k 535 512 < 32) ∨
            lrWidth r ≤ role k 552 547
      | 6 => 16 < b 228 224
      | 7 => ringn ≠ 0 ∧ (ringn = 1 ∨ 16 < ringn ∨ b 245 238 = 0 ∨
          (∃ i ≤ b 255 254, ∃ j < i, place i = place j) ∨ (∃ i ≤ b 255 254, gcnt (place i) = 0) ∨
          1024 * b 264 256 < 128 + 128 * ringn * b 245 238)
      | 8 => Config.teamRows < (rowsOf r (teamSplit r).1) ∨ Config.teamRows < (rowsOf r (teamSplit r).2) ∨
          255 < b 264 256 ∨ 512 < b 274 265 ∨ 256 < b 283 275 ∨ 1024 < b 294 284
      | 9 => b 52 52 = 1 ∧ b 53 53 = 0 ∧ w.capacity r < teams
      | 10 => lrOwner r ≠ owner
      | _ => False
    ∀ code ≤ 10, fails code → (∀ c < code, ¬fails c) → (code ≤ 6 ∨ lrHcount r = 0) →
      w.checkRecord q owner r = .refuse w code

/-- R22, R26, R312, R313, R315: the first launch of the order places its next team, alone in its
gang, on the first core with room, and each of its groups in a slot. -/
def Sys2Proof.Claim.Placement : Prop :=
  ∀ s l x rest cl c room, s.tempo % 32 = 0 → s.placeAt ≤ s.tempo → s.work.capacityFell = s.work →
    s.work.placeOrder = (l, x) :: rest → s.work.launch? l = some x → x.waitFull = false →
    x.heldAm = [] →
    let r := x.record
    lrBook r = 0 → lrGpref r = 0 → lrGfall r = 0 → x.placed < lrTeams r →
    let clusters := (upto Config.clusters).map fun i =>
      (s.lastCluster + 1 + i) % Config.clusters
    clusters.find? (fun k => (homesIn r k).any fun c => (s.work.roomAt r c).isSome) = some cl →
    (homesIn r cl).find? (fun c => (s.work.roomAt r c).isSome) = some c →
    s.work.roomAt r c = some room →
    ∃ t y z, exec .gangPlace s = .next t ∧ t.mem = s.mem ∧ t.placeAt = s.tempo + 1 ∧
      t.lastCluster = cl ∧ t.work.launch? l = some z ∧ z.placed = x.placed + 1 ∧
      z.gangp = x.gangp + 1 ∧ t.work.team l x.placed = some y ∧ y.home = c ∧
      y.resident = true ∧ y.twin = lrTwin r ∧ y.sb = room.1 ∧ y.tent = 0 ∧ y.retired = 0 ∧
      ∀ i < lrNgrp r, ∃ j n g, t.work.grp j n = some g ∧ g.kind = .user ∧ g.launch = l ∧
        g.lin = x.placed ∧ g.gidx = i ∧ g.role = lrRoleOf r i ∧ g.width = lrWidth r ∧
        g.pc = BitVec.ofNat 52 (lrCode r + 2 * lrEnt r g.role) ∧
        g.live = lowLanes (lrLanes r i) ∧ g.exec = g.live

/-- A launch is admitted or refused, with its code, and its teams are placed.

Instructions whose completion it states, each with the effect it gives: launchAdmit, gangPlace. -/
def Obligations.AdmissionAndPlacement : Prop :=
  Claim.Admission ∧ Claim.RefusalCodes ∧ Claim.Placement

/-- R35, R306, R311: a group, a team and a grid end; the grid's signatures are published before its
completion object is written.

Instructions whose completion it states, each with the effect it gives: groupRetire, teamRetire,
gridEnd. -/
def Obligations.Retirement : Prop :=
  (∀ s c n g, s.work.grp c n = some g → g.mayRetire = true →
    ∃ t, exec (.groupRetire c n) s = .next t ∧ t.work.grp c n = none ∧
      ∀ y, Member s g y → TeamsKeyed s →
        ((t.work.team g.launch g.lin).map fun z => has z.retired g.gidx) = some true) ∧
  (∀ s l lin y x, s.work.team l lin = some y → s.work.launch? l = some x → y.resident = true →
    y.saving = false → (upto (lrNgrp x.record)).all (has y.retired) = true → y.heldAm = [] →
    s.work.teamBusy y = false →
    ∃ t z, exec (.teamRetire l lin) s = .next t ∧ t.mem = s.mem ∧ t.work.team l lin = none ∧
      t.work.launch? l = some z ∧ z.retired = x.retired + 1 ∧ lin ∈ z.gone) ∧
  ∀ s l x, s.work.launch? l = some x → x.complete = false → lrTeams x.record ≤ x.retired →
    s.work.coreHandlers l = false →
    (x.published = false →
      ∃ t z, Occurs s t (.gridEnd l) ∧ t.work.launch? l = some z ∧ z.published = true ∧
        z.complete = false ∧
        (∀ j k, tfind j s.cores = some k → (t.work.core j).inb =
          k.inb ||| x.cores.foldl (fun b c =>
            ((s.work.core c).heldSecs l).foldl sigInsert (b ||| (s.work.core c).sigDev)) 0) ∧
        ∀ j k, tfind j s.cores = some k → j ∈ x.cores → (t.work.core j).sigDev = 0) ∧
    (x.published = true → s.work.gridDrained l = true →
      ∃ t z, exec (.gridEnd l) s = .next t ∧ t.work.launch? l = some z ∧ z.complete = true ∧
        z.record = x.record ∧ (∀ d, ∀ p ∈ (t.work.die d).rtw, p.2.launch ≠ l) ∧
        (lrBook x.record ≠ 1 → ∀ pa key w,
          ({ s.work.flushAll l false with
              dies := tmap (fun _ (d : Die) =>
                { d with rtw := tfilter (fun _ p => decide (p.launch ≠ l)) d.rtw })
                (s.work.flushAll l false).dies } : Work).distPage x.owner (lrCpl x.record) 64 .store =
              (some (pa, key), w) →
          Writes s t w pa key 64 (2 ^ 8 + x.rflags.toNat % 32 * 2 ^ 64 + s.tempo % 2 ^ 64 * 2 ^ 128 +
            x.gangp % 2 ^ 33 * 2 ^ 192 + x.gangf % 2 ^ 33 * 2 ^ 256 + x.dropped % 2 ^ 32 * 2 ^ 320)))

/-- R18, R36: a returned group takes an issue entry; a group is promoted. -/
def Sys2Proof.Claim.IssueEntries : Prop :=
  (∀ s c n rest g, (s.work.core c).returned = n :: rest →
    (s.work.core c).entriesUsed < Config.entries → s.work.grp c n = some g →
    ∃ t, Occurs s t (.parkedGroupReclaim c) ∧ (t.work.core c).returned = rest ∧
      t.work.grp c n = some { g with
        entry := true, parked := false, readyAt := max g.readyAt (s.work.core c).cycle }) ∧
  ∀ s c n g, s.work.grp c n = some g → 32 ≤ g.opps → g.promo = none → g.kind ≠ .supervisor →
    ∃ t, Occurs s t (.groupPromote c n) ∧
      t.work.grp c n = some { g with promo := some (s.work.core c).promoSeq } ∧
      (t.work.core c).promoSeq = (s.work.core c).promoSeq + 1

/-- R33, R34, R310: a message reaches its core's queue, is held for its team, or is dropped; the
oldest one spawns its handler group. -/
def Sys2Proof.Claim.MessageArrivals : Prop :=
  (∀ s c m rest, (s.work.core c).inbox.ams = m :: rest → s.work.amBehind m = false →
    ∃ t, Occurs s t (.amArrival c) ∧ (t.work.core c).inbox.ams = rest ∧
      (m.toCore = true → (s.work.core c).arrivals.length < 16 → (s.work.core c).amOver = [] →
        (t.work.core c).arrivals = (s.work.core c).arrivals ++ [m]) ∧
      (m.toCore = true → 16 ≤ (s.work.core c).arrivals.length ∨ (s.work.core c).amOver ≠ [] →
        (t.work.core c).amOver = (s.work.core c).amOver ++ [m]) ∧
      ∀ x, m.toCore = false → s.work.launch? m.launch = some x →
        (m.idx ∈ x.gone → ∃ z, t.work.launch? m.launch = some z ∧
          z.dropped = min (x.dropped + 1) 0xFFFFFFFF) ∧
        (m.idx ∉ x.gone → s.work.team m.launch m.idx = none →
          ∃ z, t.work.launch? m.launch = some z ∧ z.heldAm = x.heldAm ++ [m]) ∧
        ∀ y, m.idx ∉ x.gone → s.work.team m.launch m.idx = some y → y.launch = m.launch →
          y.lin = m.idx →
          (m.ord = true ∨ y.resident = false ∨ y.loaded = true →
            ∃ z, t.work.team m.launch m.idx = some z ∧ z.heldAm = y.heldAm ++ [m]) ∧
          (m.ord = false → y.resident = true → y.loaded = false →
            (s.work.core y.home).arrivals.length < 16 → (s.work.core y.home).amOver = [] →
            (t.work.core y.home).arrivals = (s.work.core y.home).arrivals ++ [m])) ∧
  ∀ s c m rest slot x, (s.work.core c).arrivals = m :: rest →
    (s.work.core c).handlerSlot = some slot → s.work.launch? m.launch = some x →
    let k := s.work.core c
    let w := s.work.setCore c
      { k with arrivals := rest ++ k.amOver.take 1, amOver := k.amOver.drop 1 }
    let e := w.handlerEntry x.record m.hidx
    ∃ t g, exec (.handlerSpawn c) s = .next t ∧ t.mem = (commit s e.2).mem ∧
      t.work.grp c slot = some g ∧
      (t.work.core c).arrivals = rest ++ (s.work.core c).amOver.take 1 ∧
      g.kind = (if m.toCore then .handlerCore else .handlerTeam) ∧ g.launch = m.launch ∧
      g.width = 16 ∧ g.live = 0xFFFF ∧ g.exec = 0xFFFF ∧
      g.pc = BitVec.ofNat 52 (lrCode x.record + 2 * e.1) ∧
      g.s 0 = natWord (lrArgs x.record) ∧ g.s 1 = natWord m.srcLin ∧ g.s 2 = natWord m.srcCore ∧
      ∀ i < 16, g.v (i % 4) (i / 4) = m.words.getD i 0

/-- Issue entries, promotion, arriving messages and handler groups.

Instructions whose completion it states, each with the effect it gives: parkedGroupReclaim,
groupPromote, amArrival, handlerSpawn. -/
def Obligations.EntriesAndArrivals : Prop :=
  Claim.IssueEntries ∧ Claim.MessageArrivals

/-- R93, R327, R345, R347: TRAP and the parcel 0x0000 trap; RTE restores what the trap saved; TEMPOW
goes on at its target; HALTT stops its team. That TEMPOW reads TEMPO at the edge of two core cycles before
the turn is the model's choice (log 10), and so is that a trap debits nothing (log 21).

Instructions whose completion it states, each with the effect it gives: trap, nullParcel, rte,
tempow, haltt. -/
def Obligations.TrapInstructions : Prop :=
  ∀ s c n g, Ready s c n g → g.isTeamCode = true → ∀ (x : BitVec 2) (u : BitVec 18)
      (a : BitVec 6),
    (s.work.flagsPending c n = false →
      Traps s c n g (.trap x u) 0x18 (zext64 u) 0 ∧ Traps s c n g .nullParcel 1 (2 ^ 32) 0) ∧
    (g.inHandler = true → g.stack.length = g.hdepth →
      ∃ t h, Occurs s t (.rte x) ∧ t.work.grp c n = some h ∧ h.pc = g.epc.truncate 52 ∧
        h.inHandler = false ∧ h.exec = g.eexec &&& g.live ∧ h.live = g.live ∧ h.fmt = g.fmt ∧
        (g.savedFlights = [] → Keeps g h.settled { fl := true } ∧
          h.settled.sfl = g.ecause.extractLsb' 8 4)) ∧
    (g.inHandler = false →
      ((g.s a.toNat).toNat ≤ (s.work.core c).sampled.1 →
        Completes s c n g (.tempow x a) (g.pc + 4) g {} fun _ => True) ∧
      ((s.work.core c).sampled.1 < (g.s a.toNat).toNat →
        ∃ t h, Occurs s t (.tempow x a) ∧ t.work.grp c n = some h ∧ h.pc = g.pc ∧
          h.wait = .tempow (g.s a.toNat)) ∧
      ∀ y, Member s g y → s.work.flagsPending c n = false →
        ∃ t h z, Occurs s t (.haltt x) ∧ t.work.grp c n = some h ∧ h.stopped = true ∧
          h.epc = zext64 g.pc ∧ h.ecause = BitVec.ofNat 64 (0x19 + g.sfl.toNat * 256) ∧
          t.work.team g.launch g.lin = some z ∧ z.stop = some 0x19)

/-- R32, R345, R346: SVCALL fills the lowest free record and parks; MBPOP takes the oldest event;
MBREPLY answers a record or a page fault, or releases a stopped team. That TENT is registered from the
request as SVCALL made it is the model's choice (log 21).

Instructions whose completion it states, each with the effect it gives: svcall, mbreply, mbpop. -/
def Obligations.Mailbox : Prop :=
  (∀ s c n g, Ready s c n g → g.isTeamCode = true → ∀ (x : BitVec 2) (v : BitVec 6) i,
    g.hasQuad v.toNat = true → reqWord (g.payload v.toNat) 0 % 2 ^ 16 ≠ 2 →
    (s.work.core c).freeMail = some i → (s.work.core c).evq.length < 64 →
    ∃ t h m e, Occurs s t (.svcall x v) ∧ t.work.grp c n = some h ∧ h.pc = g.pc ∧
      h.wait = .svcall i v.toNat ∧ h.parked = true ∧
      tfind i (t.work.core c).mail = some m ∧ m.slot = n ∧ m.va = v.toNat ∧
      m.req = g.payload v.toNat ∧ e ∈ (t.work.core c).evq ∧ e.kind = 1 ∧ e.slot = n ∧
      e.record = i ∧
      ∀ k < 16, (t.work.core c).bufNum 3 (mailAddr i + 4 * k) 4 =
        ((g.payload v.toNat).getD k 0).toNat) ∧
  ∀ s c n g, Ready s c n g → g.kind = .supervisor → ∀ (x : BitVec 2) (a d : BitVec 6),
    let k := s.work.core c
    let v := (g.s a.toNat).toNat
    let i := Instr.mbreply x a
    (∀ e rest, d.toNat < 63 → k.evq = e :: rest → k.evHeld = [] →
      ∃ t h, Goes s t c n g (.mbpop x d) { ss := [d.toNat, d.toNat + 1] } h ∧
        h.settled.s d.toNat = e.word ∧ h.settled.s (d.toNat + 1) = e.detail ∧
        (t.work.core c).evq = rest ∧ k.cycle + 2 ≤ (t.work.core c).blocked) ∧
    (d.toNat < 63 → k.evq = [] →
      ∃ t h, Occurs s t (.mbpop x d) ∧ t.work.grp c n = some h ∧ h.pc = g.pc ∧
        h.wait = .mbpop d.toNat) ∧
    (v / 64 % 4 = 0 → tfind (v % 16) k.mail = none →
      Completes s c n g i (g.pc + 4) g { fl := true } fun h =>
        h.sfl = mkSfl false false false true) ∧
    (∀ m y, v / 64 % 4 = 0 → tfind (v % 16) k.mail = some m → k.mailq = [] → m.slot ≠ n →
      s.work.grp c m.slot = some y → y.flights = [] → m.va + 3 < 256 →
      let word := fun j => k.bufNum 3 (mailAddr (v % 16) + 4 * j) 4
      ∃ t h z, Goes s t c n g i { fl := true } h ∧
        h.settled.sfl = mkSfl true false false false ∧
        tfind (v % 16) (t.work.core c).mail = none ∧ t.work.grp c m.slot = some z ∧
        z.pc = y.pc + 4 ∧ z.wait = .none ∧ (∀ p ∈ z.pend, p.op ≠ m.op) ∧
        (∀ j < 16, z.v (m.va + j % 4) (j / 4) = BitVec.ofNat 32 (word j)) ∧
        ∀ q, Member s y q → reqWord m.req 0 % 2 ^ 16 = 1 → word 0 % 2 ^ 16 = 0 →
          (t.work.team y.launch y.lin).map (·.tent) =
            some (if reqWord m.req 2 % 2 = 0
              then BitVec.ofNat 52 (reqWord m.req 2 + 2 ^ 32 * reqWord m.req 3) else q.tent)) ∧
    (∀ y va wr lanes, v / 64 % 4 = 1 ∨ v / 64 % 4 = 2 → v % 64 ≠ n →
      s.work.grp c (v % 64) = some y → y.wait = .fault va wr lanes →
      ∃ t h z, Goes s t c n g i { fl := true } h ∧
        h.settled.sfl = mkSfl true false false false ∧ t.work.grp c (v % 64) = some z ∧
        z.wait = .none ∧ z.pc = y.pc ∧
        z.raise = if v / 64 % 4 = 1 then y.raise else some (0x0A, natWord va, lanes)) ∧
    ∀ y q, v / 64 % 4 = 3 → s.work.grp c (v % 64) = some y → y.stopped = true → Member s y q →
      q.home = c → (tkeys k.groups).Nodup → s.work.members q (fun z => !z.stopped) = [] →
      ∃ t h z r, Goes s t c n g i { fl := true } h ∧
        h.settled.sfl = mkSfl true false false false ∧ t.work.grp c (v % 64) = some z ∧
        z.stopped = false ∧ z.pc = (if y.trapStop then y.pc else y.hpc) ∧
        t.work.team y.launch y.lin = some r ∧ r.stop = none

/-- R346, R348: MGNSET reads a margin register, with W it writes one at the next window boundary;
QSAVE records a stopped group in memory and frees its slot, QLOAD brings a recorded group back, stopped,
from the bytes of its record; a record without the magic number sets V. What a record has no place for
is the model's own (log 14).

Instructions whose completion it states, each with the effect it gives: mgnset, mgnsetW, qsave,
qload. -/
def Obligations.SupervisorInstructions : Prop :=
  ∀ s c n g, Ready s c n g → g.kind = .supervisor → ∀ (x : BitVec 2) (a b d : BitVec 6)
      (r : BitVec 3),
    let k := s.work.core c
    let v := g.s a.toNat
    let slot := v.toNat % 64
    let old := k.mgn.read r.toNat v.toNat
    (r.toNat ≤ 5 → ToScalar s c n g (.mgnset x a d r) d.toNat old) ∧
    (r.toNat ≤ 3 → CompletesIn s c n
      { k with mgn := { k.mgn with pendW := k.mgn.pendW ++ [(r.toNat, v)] } } g
      (.mgnsetW x a d r) (g.pc + 4) g { ss := [d.toNat] } fun h => h.s d.toNat = old) ∧
    (g.half = 0 → slot ≠ n → ∀ y pa, s.work.grp c slot = some y → y.isTeamCode = true →
      y.stopped = true → s.work.atPeace c slot y = true →
      s.work.recordAt (g.s b.toNat) = some pa →
      ∃ t id q, exec (.qsave x a b) s = .next t ∧ t.work.grp c slot = none ∧
        tfind id t.shadow = some q ∧ q.kind = y.kind ∧ q.launch = y.launch ∧ q.lin = y.lin ∧
        ((∀ j < y.recSize, (s.work.place (pa + j)).isNear = true) → s.sharedOut = [] →
          (∀ o ∈ k.stores, o.2.slot ≠ saveUnit) →
          (∃ h, t.work.grp c n = some h ∧ h.pc = g.pc + 4 ∧ Keeps g h.settled { fl := true } ∧
            h.settled.sfl = mkSfl true false false false) ∧
          ((∀ d u, (s.work.unit d u).held = []) →
            (∀ sec, s.work.sectorOk y.owner sec = true) → ∀ (j : Nat) z,
            (q.record y.wait k.cycle slot (s.work.tent y).toNat id)[j]? = some z →
            memRead t.mem (pa + j) = z))) ∧
    (g.half = 1 → (∀ o ∈ k.stores, o.2.slot ≠ saveUnit) →
      Completes s c n g (.qsave x a b) (g.pc + 4) g { fl := true } fun h =>
        h.sfl = mkSfl true false false false) ∧
    (s.work.recordAt (g.s b.toNat) = none → g.half = 0 → ∀ i, i = .qsave x a b ∨
        i = .qload x a b →
      Completes s c n g i (g.pc + 4) g { fl := true } fun h =>
        h.sfl = mkSfl false false false true) ∧
    ∀ pa, s.work.recordAt (g.s b.toNat) = some pa → (s.work.place pa).isNear = true →
      (∀ d u, (s.work.unit d u).held = []) →
      let head := s.work.recordHead (s.work.bytes pa 0x1000)
      (numAt (s.work.bytes pa 0x1000) 0x2A0 4 ≠ grpMagic →
        ∃ t h, Goes s t c n g (.qload x a b) { fl := true } h ∧
          h.settled.sfl = mkSfl false false false true) ∧
      ∀ y, head = some y → let l := s.work.bytes pa y.recSize
        let q := y.reload l
        s.work.canLoad c slot q = true →
        (∀ m, s.work.teamOf q = some m → m.late = []) →
        ∃ t h z, Goes s t c n g (.qload x a b) { fl := true } h ∧
          h.settled.sfl = mkSfl true false false false ∧ t.work.grp c slot = some z ∧
          z.stopped = true ∧ z.kind = q.kind ∧ z.pc = q.pc ∧ z.sreg = q.sreg ∧ z.vreg = q.vreg ∧
          z.exec = q.exec ∧ z.live = q.live ∧ z.savedFlights = q.savedFlights ∧
          z.flights = q.flights ∧ z.deferred = q.deferred ∧
          ∀ m, Member s q m → (t.work.team q.launch q.lin).map (·.tent) = some (recordTent l)

/-- R330, R342, R348 to R350: a halt broadcast arrives; takebacks are counted, shift the core's
issue by six cycles, or its engine's cycle, and climb the ladder; the window restarts; a quarantined core
is cleared. That a turn stands for the close of the window, and which engine a stage names, is the
model's choice (log 10).

Instructions whose completion it states, each with the effect it gives: haltArrive, takeback,
takebackRepeatCaught, guardFailure, tbwinRestart, quarantineClear. -/
def Obligations.TakebackLadder : Prop :=
  (∀ s c n g k, s.work.grp c n = some g → g.haltDue = some k → k ≤ (s.work.core c).cycle →
    (g.atRest k = true → s.work.flagsPending c n = false →
      ∃ t h, Occurs s t (.haltArrive c n) ∧ t.work.grp c n = some h ∧ h.stopped = true ∧
        h.hpc = g.pc ∧ h.pc = g.pc ∧ h.haltDue = none) ∧
    (g.atRest k = false → (s.work.core c).cycle < k + 4 →
      ∃ t h, Occurs s t (.haltArrive c n) ∧ t.work.grp c n = some h ∧ h.stopped = g.stopped ∧
        h.haltAt = some k ∧ h.hpc = g.pc ∧ h.skid = 0)) ∧
  ∀ s c n st, let k := s.work.core c
    let m := k.mgn
    m.quar = false →
    (s.work.guardedNext c n = false →
     let i := Instr.takeback c n st false
     (m.safe = false → m.tbcnt + 1 ≤ m.tblim →
       ∃ t, Occurs s t i ∧ (t.work.core c).mgn = m.count (s.work.caughtPc c n) st n ∧
         (t.work.core c).blocked = max k.blocked k.cycle + 6 ∧
         (t.work.core c).repeating = some (k.cycle + 6)) ∧
     (m.safe = false → m.tblim < m.tbcnt + 1 →
       ∃ t, Occurs s t i ∧ (t.work.core c).mgn.tbcnt = 0 ∧
         (t.work.core c).mgn.step = m.step - 1 ∧
         (t.work.core c).mgn.safe = decide (m.step = 0)) ∧
     (m.safe = true →
       ∃ t, Occurs s t i ∧ (t.work.core c).mgn.quar = true ∧ (t.work.core c).good = false)) ∧
    (let engine := k.engineOf n st
     let left := fun (t : State) =>
       (m.safe = false → (t.work.core c).mgn.safe = true ∧ (t.work.core c).mgn.tbcnt = 0) ∧
       (m.safe = true → (t.work.core c).mgn.quar = true)
     (m.safe = false → m.tbcnt + 1 ≤ m.tblim →
       ∃ t, Occurs s t (.takeback c n st true) ∧
         (t.work.core c).mgn = m.count (s.work.caughtPc c n) st n ∧
         (t.work.core c).blocked = k.blocked ∧
         tfind engine (t.work.core c).engRep = some (k.cycle + 6)) ∧
     (k.repeating = some k.cycle →
       (st ≠ 5 ∧ st ≠ 6) ∨ tfind engine k.engRep ≠ some k.cycle →
       ∃ t, Occurs s t (.takebackRepeatCaught c n st) ∧ (t.work.core c).repeating = none ∧
         left t) ∧
     (tfind engine k.engRep = some k.cycle →
       st = 5 ∨ st = 6 ∨ k.repeating ≠ some k.cycle →
       ∃ t, Occurs s t (.takebackRepeatCaught c n st) ∧ (t.work.core c).blocked = k.blocked ∧
         tfind engine (t.work.core c).engRep = none ∧ left t)) ∧
    (s.work.guardedNext c n = true → ∀ i, i = .guardFailure c n ∨ i = .takeback c n st false →
      ∃ t, Occurs s t i ∧ (t.work.core c).mgn.quar = true) ∧
    (m.winStart + max 1024 m.tbwin ≤ k.cycle →
      ∃ t, Occurs s t (.tbwinRestart c) ∧ (t.work.core c).mgn.tbcnt = 0 ∧
        (t.work.core c).mgn.winStart = m.winStart + max 1024 m.tbwin) ∧
    ∀ s', (s'.work.core c).mgn.quar = true →
      ∃ t, Occurs s' t (.quarantineClear c true) ∧ (t.work.core c).mgn.quar = false ∧
        (t.work.core c).mgn.safe = false ∧ (t.work.core c).mgn.step = 0 ∧
        (t.work.core c).good = true

/-- R39, R339, R341, R346, R350, R353: a team is halted, saved in its owner's save area, and
restored on the first core with room. The two stages of a save and of a restore, the block of the image
and the places of its parts are the model's choice (log 14). -/
def Sys2Proof.Claim.TeamImages : Prop :=
  ∀ s l lin y x, s.work.team l lin = some y → s.work.launch? l = some x → y.launch = l →
    y.lin = lin →
    (y.saving = false → s.work.mustSave y = true →
      ∃ t z, Occurs s t (.teamSave l lin) ∧ t.work.team l lin = some z ∧ z.saving = true ∧
        ∀ m ∈ s.work.members y fun _ => true, ∀ h, t.work.grp m.1 m.2 = some h →
          h.stopped = true ∨ h.haltDue.isSome = true ∨ h.haltAt.isSome = true) ∧
    (let w := s.work.haltSweeps y
     y.saving = true → w.saveReady y = true →
      (y.asked = false → ∀ image w1,
        w.saveBlock x.owner
          (imageSize x.record + recStride * (w.teamGroups y).length) = (some image, w1) →
        ∃ t z, exec (.teamSave l lin) s = .next t ∧ t.work.team l lin = some z ∧
          z.asked = true ∧ z.image = image ∧
          ∀ c ∈ y.cores, (s.work.core c).mgn.quar = false → (s.work.core c).evq.length < 64 →
            (∃ m ∈ s.work.teamGroups y, m.2.1 = c) →
            ∃ e ∈ (t.work.core c).evq, e.kind = 6 ∧ e.detail = natWord image) ∧
      (y.asked = true →
        ∃ t z, exec (.teamSave l lin) s = .next t ∧ t.work.team l lin = some z ∧
          z.resident = false ∧ z.saving = false ∧ z.stop = none ∧ z.image = y.image ∧
          ∀ m ∈ s.work.teamGroups y, t.work.grp m.2.1 m.2.2.1 = none)) ∧
    (TeamsKeyed s → y.loaded = false → s.work.wantsRestore y = true →
      (∀ p ∈ s.teams, p.2.launch = l → p.2.lin < lin → s.work.wantsRestore p.2 = false) →
      ∀ home room w1 image w2 gs w3,
      s.work.firstHome x.record y.savedHandlers = some (home, room) →
      s.work.saveGet home x.owner y.image (engineAt x.record + 0x800) = (w1, some image) →
      w1.readRecords home x.owner y.recs = (w2, some gs) →
      (w2.supEvent home 7 0 0 0 (natWord y.image)).restoreOn y x home room image gs = some w3 →
      ∃ t z, exec (.teamRestore l lin) s = .next t ∧ t.work.team l lin = some z ∧
        z.resident = true ∧ z.home = home ∧ z.sb = room.1 ∧ z.waitingRestore = false ∧
        z.loaded = true) ∧
    (y.loaded = true → (∀ c, (tkeys (s.work.core c).groups).Nodup) →
      s.work.members y (fun g => !g.stopped || decide (g.kind = .handlerCore)) = [] →
      ∃ t z, Occurs s t (.teamRestore l lin) ∧ t.work.team l lin = some z ∧ z.loaded = false ∧
        ∀ m ∈ s.work.members y fun _ => true, ∀ h, t.work.grp m.1 m.2 = some h →
          h.stopped = false)

/-- R338 to R341: GO suspends an owner and RESUME ends that; the drain, grace and save deadlines of
PRETIME, the last of which ends the owner's launches. That a command given while BUSY is ignored is the
model's choice (log 21). -/
def Sys2Proof.Claim.Preemption : Prop :=
  (∀ s path v, path ≠ .supervisor → s.preempt.stage = 0 →
    let own := field v 9 0
    let there := s.teams.any fun t =>
      t.2.resident && decide (((s.work.launch? t.2.launch).map (·.owner)) = some own)
    (v.getLsbD 10 = true → ∃ t, Occurs s t (.preemptGo path v) ∧ own ∈ t.suspended ∧
      t.preempt.owner = own ∧ t.preempt.t0 = s.tempo ∧ t.preempt.grace = false ∧
      t.preempt.stage = (if there then 1 else 0) ∧
      t.preempt.result = (if there then 0 else 1)) ∧
    (v.getLsbD 11 = true → ∃ t, Occurs s t (.preemptResume path v) ∧ own ∉ t.suspended ∧
      ((∀ p ∈ s.teams, s.work.ownerOf p.2 = own → p.2.resident = true ∧
          p.2.waitingRestore = false ∧ p.2.loaded = false) →
        t.preempt.stage = 0 ∧ t.preempt.result = 3) ∧
      ((∃ p ∈ s.teams, s.work.ownerOf p.2 = own ∧ p.2.resident = false) →
        t.preempt.stage = 3 ∧ ∀ p ∈ t.teams, s.work.ownerOf p.2 = own → p.2.resident = false →
          p.2.waitingRestore = true))) ∧
  ∀ s, (s.preempt.stage = 1 → s.work.deadline (field s.pretime 15 0) ≤ s.tempo →
      (s.teams.any fun t => t.2.resident &&
        decide (((s.work.launch? t.2.launch).map (·.owner)) = some s.preempt.owner)) = true →
      ∃ t, Occurs s t .drainDeadline ∧ t.preempt = { s.preempt with stage := 2 }) ∧
    (s.preempt.stage = 2 →
      s.work.deadline (field s.pretime 15 0 + field s.pretime 31 16) ≤ s.tempo →
      ∃ t, Occurs s t .graceDeadline ∧ t.preempt = { s.preempt with grace := true }) ∧
    (s.preempt.stage = 1 ∨ s.preempt.stage = 2 →
      s.work.deadline (field s.pretime 47 32) ≤ s.tempo →
      ∃ t, exec .saveDeadline s = .next t ∧ t.preempt.stage = 0 ∧ t.preempt.result = 2 ∧
        s.preempt.owner ∉ t.suspended ∧
        ∀ p ∈ s.launches, p.2.complete = false → p.2.owner = s.preempt.owner →
          ∀ q ∈ t.teams, q.2.launch ≠ p.1)

/-- Teams are saved and restored; pre-emption and its deadlines.

Instructions whose completion it states, each with the effect it gives: teamSave, teamRestore,
preemptGo, preemptResume, drainDeadline, graceDeadline, saveDeadline. -/
def Obligations.SavingAndPreemption : Prop :=
  Claim.TeamImages ∧ Claim.Preemption

/-- R318, R324: power-parking: each core due parks the first group of its order, releases the most
recent one, and rotates every 8 192 cycles. -/
def Sys2Proof.Claim.PowerParking : Prop :=
  ∀ s cl, let x := s.work.cluster cl
    (x.pacnt < x.pathr → ∃ t, Occurs s t (.paPark cl) ∧ ∀ c ∈ s.work.paDue cl,
      let k := s.work.core c
      (t.work.core c).paAt = k.cycle + 1 ∧
      ∀ n g, (parkOrder k.rb).find?
          (fun j => ((tfind j k.groups).map Group.canPowerPark).getD false) = some n →
        s.work.grp c n = some g →
        t.work.grp c n = some { g with powered := some k.pparkSeq, since := none } ∧
        (t.work.core c).pparkSeq = k.pparkSeq + 1 ∧
        ∀ m, m ≠ n → t.work.grp c m = s.work.grp c m) ∧
    (x.pathr + x.pahys ≤ x.pacnt → ∃ t, Occurs s t (.paRelease cl) ∧ ∀ c ∈ s.work.paDue cl,
      (t.work.core c).paAt = (s.work.core c).cycle + 1 ∧
      (s.work.idle (Config.clusterOf c) = false →
        ∀ n g o, s.work.grp c n = some g → g.powered = some o →
          (∀ p ∈ (s.work.core c).groups, ∀ q, p.2.powered = some q → q ≤ o) →
          t.work.grp c n = some { g with powered := none })) ∧
    ∀ c, let k := s.work.core c
      k.rotAt + 8192 ≤ k.cycle → ∃ t, Occurs s t (.paRotate c) ∧
        (t.work.core c).rotAt = k.rotAt + 8192 ∧
        (k.parkedSlots = [] → (t.work.core c).groups = k.groups ∧ (t.work.core c).rb = k.rb)

/-- R319 to R323, R347, R348: CRREQ starts a ramp of 2 400 master cycles or waits for the one in
progress; a core takes its clock and margin writes at a window boundary; the slew limiter admits;
a group held by TEMPOW goes on. -/
def Sys2Proof.Claim.ClocksAndRatios : Prop :=
  (∀ s path cl v, path ≠ .host →
    let r := v.toNat % 4
    let k := s.work.cluster cl
    let sup := decide (path = .supervisor)
    let mark := fun (y : Cluster) =>
      if sup then { y with crSup := some s.tempo }
      else { y with crPort := some (s.tempo, k.target, k.rampEnd, k.pendReq) }
    (k.crSup ≠ some s.tempo → (∀ z, k.crPort = some z → z.1 ≠ s.tempo) →
      (r ≠ 3 → k.target = none → r ≠ k.ratio → ∃ t, Occurs s t (.crreqWrite path cl v) ∧
        t.work.cluster cl =
          mark { k with target := some r, rampEnd := s.tempo + 1 + 2400 }) ∧
      ∀ q, r ≠ 3 → k.target = some q → r ≠ q → ∃ t, Occurs s t (.crreqWrite path cl v) ∧
        t.work.cluster cl = mark { k with pendReq := some r }) ∧
    (sup = false → k.crSup = some s.tempo → ∃ t, Occurs s t (.crreqWrite path cl v) ∧
      t.work.cluster cl = k) ∧
    (∀ e p, sup = true → k.crPort = some (s.tempo, none, e, p) → r ≠ 3 → r ≠ k.ratio →
      ∃ t, Occurs s t (.crreqWrite path cl v) ∧ (t.work.cluster cl).target = some r ∧
        (t.work.cluster cl).pendReq = p) ∧
    ∀ q, k.target = some q → k.rampEnd ≤ s.tempo →
      (k.pendReq = none → ∃ t, Occurs s t (.rampEnd cl) ∧
        t.work.cluster cl = { k with ratio := q, target := none }) ∧
      ∀ p, k.pendReq = some p → p ≠ q → ∃ t, Occurs s t (.rampEnd cl) ∧
        t.work.cluster cl = { k with
          ratio := q, target := some p, pendReq := none, rampEnd := s.tempo + 1 + 2400 }) ∧
  (∀ s c, s.tempo % 48 = 0 → (s.work.cluster (Config.clusterOf c)).target = none →
    let m := (s.work.core c).mgn
    (m.pendW = [] → ∃ t, Occurs s t (.clockWindowBoundary c) ∧
      (t.work.core c).mgn = m ∧
      (t.work.core c).edges = ratioEdges (s.work.cluster (Config.clusterOf c)).ratio +
        if m.safe || m.quar then 0 else m.step) ∧
    ∀ v, m.pendW = [(2, v)] → ∃ t, Occurs s t (.clockWindowBoundary c) ∧
      (t.work.core c).mgn = { m with tbwin := max 1024 (v.toNat % 2 ^ 32), pendW := [] }) ∧
  (∀ s d q cl rest, (s.work.die d).slewq = (q, cl) :: rest →
    ((s.work.die d).slewWin = s.tempo / 256 → (s.work.die d).slewN < 2) →
    ∃ t, Occurs s t (.slewAdmit d) ∧ (t.work.die d).slewq = rest ∧
      (t.work.die d).slewWin = s.tempo / 256 ∧
      ∀ c ∈ coresOf cl, (∃ k, tfind c s.cores = some k) → ∀ n g, t.work.grp c n = some g →
        g.slewed = false) ∧
  ∀ s c n g w, s.work.grp c n = some g → g.wait = .tempow w → w.toNat ≤ s.tempo →
    hasEdge (s.work.core c).edges s.tempo = true →
    s.work.idle (Config.clusterOf c) = false →
    ∃ t, Occurs s t (.tempowTargetReached c n) ∧ t.work.grp c n =
      some { g with wait := .none, readyAt := (s.work.core c).cycle }

/-- Power parking, clock ratios, ramps and the slew limiter.

Instructions whose completion it states, each with the effect it gives: paPark, paRelease,
paRotate, rampEnd, crreqWrite, clockWindowBoundary, slewAdmit, tempowTargetReached. -/
def Obligations.Power : Prop :=
  Claim.PowerParking ∧ Claim.ClocksAndRatios

/-! ## The package and its interfaces -/

/-- R399, R417, R419, R420, R422: a warm and a cold reset, the release of reset with its refusals,
firmware ready and its timeout, CLR. A warm reset keeps what DRAM holds: the L2 loses what it has not
written back. What near memory reads as after a cold reset is the model's choice (log 4), and so is that
the turns to come and the free values go on as they were (logs 1, 3). What the boot ROM and the
self-test find comes with the event, and how a failed boot goes on is the model's choice (log 22). -/
def Sys2Proof.Claim.ResetsAndBoot : Prop :=
  (∀ s, ∃ t, exec (.rstctlWarm .management) s = .next t ∧
    t.toPkg = { Pkg.reset with
      keyed := s.work.dram.keyed, upsetMem := s.upsetMem, errlog := s.errlog, errNext := s.errNext
      bootwhy := bootwhyReset s.bootwhy, virst := s.virst, plan := s.plan, fresh := s.fresh } ∧
    t.obs.frozen = false ∧ t.obs.arm = false ∧ t.obs.scssize = 0 ∧ t.obs.images = s.obs.images ∧
    t.under = [] ∧ (s.under = [] → t.mem = s.mem ∧ t.keyed = s.keyed) ∧
    ((tkeys s.under).Nodup →
      (∀ line x, tfind line s.under = some x → ∀ i < 128,
        memRead t.mem (128 * line + i) = getByte x.data i) ∧
      ∀ a, tfind (a / 128) s.under = none → memRead t.mem a = memRead s.mem a)) ∧
  (∀ s, ∃ t, exec (.rstctlCold .management) s = .next t ∧
    t.toPkg = { Pkg.reset with
      bootwhy := bootwhyReset s.bootwhy, plan := s.plan, fresh := s.fresh } ∧
    t.obs.images = [] ∧ t.under = [] ∧ ∀ a, memRead t.mem a = Mem.blank) ∧
  (∀ s path, path ≠ .management → exec (.rstctlWarm path) s = .next s ∧
    exec (.rstctlCold path) s = .next s) ∧
  (∀ s m good, s.phase = .inReset → s.obs.frozen = false →
    (s.bootwhy.getLsbD 10 = true → ∃ t, Occurs s t (.resetRelease m good) ∧
      t.phase = .failed) ∧
    (s.bootwhy.getLsbD 10 = false → m ≠ .good → ∃ t, exec (.resetRelease m good) s = .next t ∧
      t.phase = .inReset ∧ field t.bootwhy 7 0 = manifestReason m ∧
      (s.bootwhy.getLsbD 11 = false →
        field t.bootwhy 9 8 = min 3 (field s.bootwhy 9 8 + 1))) ∧
    (s.bootwhy.getLsbD 10 = false → m = .good → good = [] →
      ∃ t, exec (.resetRelease m good) s = .next t ∧ t.phase = .inReset ∧
        field t.bootwhy 7 0 = 6) ∧
    (s.bootwhy.getLsbD 10 = false → m = .good → good ≠ [] →
      ∃ t, Occurs s t (.resetRelease m good) ∧ t.phase = .booting ∧ t.tempo = 0 ∧
        ∀ c < Config.cores, t.work.core c = { Core.init with good := good.contains c })) ∧
  ([Manifest.good, .ecdsaFailed, .lmsFailed, .bothFailed, .belowMinimum, .malformed].map
    manifestReason) = [0, 1, 2, 3, 4, 5] ∧
  (∀ s, s.phase = .booting → s.fwready = false → s.bootAt + 2 ^ 32 ≤ s.tempo →
    ∃ t, exec .bootReadyTimeout s = .next t ∧ t.phase = .inReset ∧ field t.bootwhy 7 0 = 7) ∧
  (∀ s, s.phase = .booting → ∃ t, Occurs s t (.fwready .supervisor) ∧ t.phase = .ready ∧
    t.fwready = true ∧ field t.bootwhy 9 8 = 0) ∧
  ∀ s, ∃ t, Occurs s t (.bootwhyClr .management) ∧ t.bootwhy.getLsbD 11 = true

/-- R415, R416, R421, R423: a corrected error is logged; a link-down, a viral indication, a fatal fabric
error and a thermal trip make the device viral and freeze it. VIRST names the source, of several at
one edge the lowest; what an earlier reset has left there is replaced. What error an event brings, and
what of an array it spoils, is the model's choice (log 32). -/
def Sys2Proof.Claim.ErrorsAndViral : Prop :=
  (∀ s unit wh addr bt, ∃ t, Occurs s t (.correctedError unit wh addr bt) ∧
    t.errCount = s.errCount + 1 ∧ t.errNext = (s.errNext + 1) % 256 ∧
    ∃ e, tfind s.errNext t.errlog = some e ∧
      (e.extractLsb' 0 64).toNat = s.tempo % 2 ^ 64 ∧
      (e.extractLsb' 64 8).toNat = unit % 256 ∧ e.getLsbD 72 = false ∧
      (e.extractLsb' 128 52).toNat = addr % 2 ^ 52) ∧
  ∀ s, s.obs.frozen = false →
    (∀ i src, (i = .hostLinkDown ∧ src = 1) ∨ (∃ p < 8, i = .cxlViral p ∧ src = 2) ∨
        (∃ p < 16, i = .fabricFatal p ∧ src = 3) ∨
        (∃ cl d, 110 < d ∧ i = .thermalSample cl d ∧ src = 5) →
      ∃ t, Occurs s t i ∧ t.obs.freezeDue = true ∧ t.obs.viral = true ∧
        (s.obs.viral = false → t.virst = natWord (1 + 2 * src)) ∧
        ∀ old < 8, s.obs.viral = true → s.virst = natWord (1 + 2 * old) →
          t.virst = natWord (1 + 2 * min src old)) ∧
    ∀ cl d, d ≤ 110 → ∃ t, Occurs s t (.thermalSample cl d) ∧ t.obs = s.obs ∧
      (t.work.cluster cl).degrees = d

/-- Resets, boot, errors and the viral state.

Instructions whose completion it states, each with the effect it gives: rstctlWarm, rstctlCold,
resetRelease, fwready, bootReadyTimeout, bootwhyClr, correctedError, hostLinkDown, cxlViral,
fabricFatal, thermalSample. -/
def Obligations.ResetsAndErrors : Prop :=
  Claim.ResetsAndBoot ∧ Claim.ErrorsAndViral

/-- R408 to R410, R413: a session is established and expires; TDISP messages; the key table and the
interfaces are written in a session; an owner's key is retired. That there is one session, and when what
an interface leaves behind is over, is the model's choice (log 26).

Instructions whose completion it states, each with the effect it gives: spdmSessionEstablish,
tdispMessage, sessionExpire, spdmTdiWrite, spdmKeyLoad, spdmKeyRetire, spdmDbgWrite,
keyRetireReset. -/
def Obligations.SecureInterfaces : Prop :=
  (∀ s, s.bootwhy.getLsbD 10 = false → ∃ t, Occurs s t .spdmSessionEstablish ∧
    t.sessAt = s.tempo ∧ ∀ i < 64, t.work.tdi i = { s.work.tdi i with sess := true }) ∧
  (∀ s i n, i < 64 → n < 4 → (s.work.tdi i).sess = true → ∃ t, Occurs s t (.tdispMessage i n) ∧
    t.work.tdi i = { s.work.tdi i with tst := n } ∧
    ((s.work.tdi i).tst = 2 → n ≠ 2 → (tfind (s.work.tdi i).own t.retiring).isSome = true)) ∧
  (∀ s, s.work.session = true →
    (s.sessAt + s.sesslife.toNat ≤ s.tempo → ∃ t, Occurs s t .sessionExpire ∧
      ∀ i < 64, (s.work.tdi i).sess = true →
        t.work.tdi i = { s.work.tdi i with sess := false, tst := 3 }) ∧
    (∀ i v u, i < 64 →
      (∃ t, Occurs s t (.spdmTdiWrite i 0 [v]) ∧
        t.work.tdi i = { s.work.tdi i with own := field v 9 0 }) ∧
      (∃ t, Occurs s t (.spdmTdiWrite i 1 [v]) ∧
        t.work.tdi i = { s.work.tdi i with hbase := field v 31 0, hlen := field v 63 32 }) ∧
      ∃ t, Occurs s t (.spdmTdiWrite i 0 [v, u]) ∧
        t.work.tdi i = { s.work.tdi i with
          own := field v 9 0, hbase := field u 31 0, hlen := field u 63 32 }) ∧
    (∀ e k1 k2 dbg, e < 1024 → ∃ t, Occurs s t (.spdmKeyLoad e k1 k2 dbg) ∧
      t.sessAt = s.tempo ∧ t.work.keyEnt e = { valid := true, dbg, key1 := k1, key2 := k2 }) ∧
    (∀ e, ∃ t, Occurs s t (.spdmKeyRetire e) ∧ (t.work.keyEnt e).valid = false) ∧
    ∀ e dbg, (s.work.keyEnt e).valid = true → ∃ t, Occurs s t (.spdmDbgWrite e dbg) ∧
      t.work.keyEnt e = { s.work.keyEnt e with dbg }) ∧
  ∀ s own x, tfind own s.retiring = some x → s.work.drained own x = true →
    ∃ t, exec (.keyRetireReset own) s = .next t ∧ (t.work.keyEnt own).valid = false ∧
      tfind own t.retiring = none

/-- R191, R358, R405, R406, R410: a host write through a running interface, and a fabric peer's read,
write or atomic that an export range admits, travel to the home slices of their lines; one that none
admits does nothing. The ports at which they enter and the packet of an inbound request are the
model's choice (log 18), the data of a peer's atomic too (log 31). -/
def Sys2Proof.Claim.InboundRequests : Prop :=
  ∀ s addr (data : List Byte),
    let l := cellsFrom addr data
    s.work.allNear addr data.length = true →
    let travels := fun (i : Instr) (die : Nat) (x : List Host.Cell → InReq) =>
      ∃ t, Occurs s t i ∧ ∀ y ∈ l, ∃ p ∈ (t.work.die die).net,
        p.msg = .inb (y.1 / 128) (x (l.filter fun z => decide (z.1 / 128 = y.1 / 128)))
    (∀ tdi, (s.work.tdi tdi).tst = 2 → (s.work.keyEnt (s.work.tdi tdi).own).valid = true →
      travels (.hostMemoryWrite tdi addr data) 0 fun c =>
        .write { key := (s.work.tdi tdi).own, atom := none, cells := c }) ∧
    ∀ port ep own, port < 16 →
      (s.work.exportOwner ep addr data.length true = some own →
        travels (.fabricPeerRequest port ep .write addr data) (port % 8) (fun c =>
          .write { key := own, atom := none, cells := c }) ∧
        ∀ op ret, (op = 9 → ret = false) → peerAtomOk op ret addr data.length = true →
          travels (.fabricPeerRequest port ep (.atomic op ret) addr data) (port % 8) fun c =>
            .write { key := own, atom := some (op, ret, 0), cells := c }) ∧
      (s.work.exportOwner ep addr data.length false = some own →
        travels (.fabricPeerRequest port ep .read addr data) (port % 8) fun c =>
          .read (c.map Prod.fst)) ∧
      (s.work.exportOwner ep addr data.length true = none → ∀ op, op ≠ .read →
        (∀ n ret, op = .atomic n ret → n ≠ 9) →
        ∃ t, Occurs s t (.fabricPeerRequest port ep op addr data) ∧ t.toMach = s.toMach)

/-- R191, R365, R405, R407: the home slice performs an inbound write or atomic, whose bytes then stand
in near memory and enter INB of every core; it holds one to a line that is shared out. That it was
checked when it was admitted is the model's choice (log 26). -/
def Sys2Proof.Claim.InboundWrites : Prop :=
  ∀ s die slice p rest line h y, s.work.home? (128 * line) = some h →
    (s.work.slice die slice).inq = p :: rest → (s.work.slice die slice).busy ≤ s.tempo / 2 →
    (s.work.slice die slice).held = [] → p.msg = .inb line (.write y) →
    (s.sharedOut.contains line = true → ∃ t, Occurs s t (.sliceRequest die slice) ∧
      (t.work.slice die slice).held = [p] ∧ (t.work.slice die slice).inq = rest) ∧
    (s.sharedOut.contains line = false → (∀ d u, (s.work.unit d u).held = []) →
      (∀ sec, s.work.sectorOk y.key sec = true) →
      let left := fun (t : State) (l : List Host.Cell) =>
        (∀ a, memRead t.mem a =
          ((l.reverse.find? fun c => decide (c.1 = a)).map Prod.snd).getD (memRead s.mem a)) ∧
        ∀ c < Config.cores, ∀ x ∈ sectorsOf l, sigHit (t.work.core c).inb x = true
      (y.atom = none → ∃ t, exec (.sliceRequest die slice) s = .next t ∧ left t y.cells) ∧
      ∀ op ret cmp a data, y.atom = some (op, ret, cmp) → y.cells = cellsFrom a data → data ≠ [] →
        let n := data.length
        let new := (atomNew op n ret (natWord (s.work.num a n)) (natWord (leNat data)) cmp).1
        ∃ t, exec (.sliceRequest die slice) s = .next t ∧ left t (cellsAt a n new.toNat))

/-- R407: GET, PUT and RECALL of a line declared shared travel to its home slice. There GET and RECALL
mark it as shared out, PUT writes it and takes it back, as an acknowledged invalidation does; RECALL
publishes it to every core. That PUT passes what waits for its line is the model's choice (log 31). -/
def Sys2Proof.Claim.Directory : Prop :=
  (∀ s port addr, port < 16 → let line := addr / 128
    (∃ t, Occurs s t (.directoryInvalAck ⟨port, addr⟩) ∧ line ∉ t.sharedOut) ∧
    (s.work.sharedRange addr = true →
      let travels := fun (i : Instr) (x : InReq) => ∃ t, Occurs s t i ∧
        ∃ p ∈ (t.work.die (port % 8)).net, p.msg = .inb line x
      travels (.directoryGet ⟨port, addr⟩) .get ∧ travels (.directoryRecall ⟨port, addr⟩) .recall ∧
      ∀ (data : List Byte), data.length = 128 →
        travels (.directoryPut ⟨port, addr⟩ data) (.put data))) ∧
  ∀ s die slice p rest line h, s.work.home? (128 * line) = some h →
    (s.work.slice die slice).inq = p :: rest → (s.work.slice die slice).busy ≤ s.tempo / 2 →
    (s.work.slice die slice).held = [] →
    (p.msg = .inb line .get → ∃ t, exec (.sliceRequest die slice) s = .next t ∧
      line ∈ t.sharedOut) ∧
    (p.msg = .inb line .recall → ∃ t, exec (.sliceRequest die slice) s = .next t ∧
      line ∈ t.sharedOut ∧ ∀ c < Config.cores, sigLine (t.work.core c).inb line = true) ∧
    ∀ (data : List Byte), data.length = 128 → p.msg = .inb line (.put data) →
      ∃ t, exec (.sliceRequest die slice) s = .next t ∧ line ∉ t.sharedOut ∧
        ∀ j, (h : j < data.length) → memRead t.mem (128 * line + j) = data[j]

/-- R199, R410, R411: a back-invalidate leaves no copy of the line in any L1; the oldest request of a
gate is answered, with poison where the completion or a dropped read has it. Of two lanes at one
location the later finds what the earlier has left. Which port a completion comes by is the model's
choice (log 18). -/
def Sys2Proof.Claim.OutsideMemory : Prop :=
  (∀ s port addr, port < 8 →
    let line := (2 ^ 44 + port * 2 ^ 41 + addr) / 128
    ∃ t, Occurs s t (.cxlBackInvalidate port addr) ∧ ∀ c,
      (∀ q ∈ (t.work.core c).l1, q.2.line ≠ line) ∧
      ∀ q ∈ (t.work.core c).fills, q.2.req.line = line → q.2.install = false) ∧
  (∀ s gate r rest data bad i, tget [] gate s.io = r :: rest → r.more = false →
    (i = .hostCompletion data ∧ gate = 0 ∧ bad = false) ∨
      (∃ p < 24, i = .cxlCompletion p data bad ∧ gate = 1 + p) →
    let answers := fun (m : Msg) => ∃ t, Occurs s t i ∧ tget [] gate t.io = rest ∧
      ∃ p ∈ (t.work.die (s.work.route r.line).1).net, p.msg = m ∧
        p.ddie = Config.dieOf r.core
    (∀ x y z, r.kind = .fill x y z →
      answers (.line r.core r.op (BitVec.ofNat 1024 (leNat (data.take 128))) (bad || r.dead))) ∧
    (∀ x, r.kind = .store x → answers (.ack r.core r.op)) ∧
    (∀ op size ops, r.kind = .atomic op size true ops →
      answers (.vals r.core r.op (farAtomics op size true ops data []).1)) ∧
    ∀ op size ops, r.kind = .atomic op size false ops → answers (.ack r.core r.op)) ∧
  ∀ op size (i j a : Nat) (v u v' u' : Word) data, i ≠ j →
    let old := natWord (leNat (data.take size))
    let mid := (atomNew op size true old (cutTo size v) (cutTo size u)).1
    let got := (farAtomics op size true [(i, a, v, u), (j, a, v', u')] data []).1
    tfind i got = some (old.zeroExtend 128) ∧ tfind j got = some (mid.zeroExtend 128)

/-- Writes from outside, the fabric directory, memory outside the package.

Instructions whose completion it states, each with the effect it gives: hostMemoryWrite,
fabricPeerRequest, directoryInvalAck, directoryGet, directoryRecall, directoryPut,
cxlBackInvalidate, hostCompletion, cxlCompletion. -/
def Obligations.InterfaceTraffic : Prop :=
  Claim.InboundRequests ∧ Claim.InboundWrites ∧ Claim.Directory ∧ Claim.OutsideMemory

/-- R383 to R387, R412, R416: the freeze at STOPAT, ARM, SCAN, LOAD with its refusals, and RELEASE. A
SCAN writes header and body of every die segment, the header with the SHA-384 of the body; what the
bytes of a body stand for is a free value (log 3). That a LOAD leaves near memory's keys and errors and
VIRST as they are, and what an image keeps beside its bytes, is the model's choice (log 24). -/
def Sys2Proof.Claim.Adjournment : Prop :=
  ∀ s,
    (s.work.stopDue = true → ∃ t, Records s t .stopatFreeze ∧ t.obs.frozen = true ∧
      t.obs.arm = false ∧ t.toPkg = s.toPkg) ∧
    (∃ t, Occurs s t (.adjArm 1) ∧ t.obs.arm = decide (s.tempo < s.obs.stopat.toNat) ∧
      t.obs.armErr = !t.obs.arm ∧ t.toPkg = s.toPkg) ∧
    (∀ slot, slot < 16 → s.obs.frozen = true →
      (let x : Image := { pkg := s.toPkg, lines := s.work.l2Lines }
       ∃ t, exec (.adjScan slot) s = .next t ∧ x ∈ t.obs.images ∧ t.obs.frozen = true ∧
        (s.upsetMem = [] → s.upsetL2 = [] → t.toPkg = s.toPkg) ∧
        ∀ d < 8, let a := s.work.slotBase d slot
          let body := scanBody d x
          body.length = (Config.scanBytes d).toNat ∧
          t.work.num a 4 = 0x41444A49 ∧ t.work.num (a + 4) 4 = (Config.scanBytes d).toNat ∧
          t.work.num (a + 8) 8 = s.tempo % 2 ^ 64 ∧ t.work.num (a + 16) 1 = d ∧
          t.work.num (a + 17) 1 = Config.scanFormat.toNat ∧
          t.work.num (a + 32) 48 = (sha384 body).toNat ∧
          ∀ i, (h : i < body.length) → memRead t.mem (a + 128 + i) = body[i]) ∧
      let x := s.work.slotImage slot
      let head := fun d n (i : Nat) => s.work.num (s.work.slotBase d slot + i) n
      let wrong := fun d => head d 4 0 ≠ 0x41444A49 ∨ head d 4 4 ≠ (Config.scanBytes d).toNat ∨
        head d 48 32 ≠ (sha384 (s.work.slotBody d slot)).toNat
      let loads := fun (p : State → Prop) => ∃ t, exec (.adjLoad slot) s = .next t ∧
        t.obs.frozen = true ∧ p t
      let refused := fun n => loads fun t => t.mem = s.mem ∧ t.toPkg = s.toPkg ∧ t.obs.adjErr = n
      (s.work.slotUpset slot = true → loads fun t => t.mem = s.mem ∧
        (s.obs.viral = false → t.virst = natWord (1 + 2 * 4))) ∧
      (s.work.slotUpset slot = false →
        ((∃ d < 8, wrong d) → refused 1) ∧
        ((∀ d < 8, ¬wrong d) →
          ((∃ d < 8, head d 8 8 ≠ head 0 8 8) → refused 2) ∧
          ((∀ d < 8, head d 8 8 = head 0 8 8) →
            ((∃ d < 8, head d 1 17 ≠ Config.scanFormat.toNat) → refused 3) ∧
            ((∀ d < 8, head d 1 17 = Config.scanFormat.toNat) →
              let alien := ∃ p ∈ x.pkg.cores, p.2.holds = true ∧ p.1 ∉ s.obs.mask.getD []
              (alien → refused 4) ∧
              (¬alien → loads fun t =>
                t.toPkg = { x.pkg with
                  tempo := head 0 8 8, keyed := t.keyed, upsetMem := s.upsetMem, virst := s.virst } ∧
                t.obs.adjErr = 0 ∧
                ((tkeys x.lines).Nodup → ∀ line v, tfind line x.lines = some v → ∀ i < 128,
                  memRead t.mem (128 * line + i) = getByte v i))))))) ∧
    (s.obs.frozen = true → ∃ t, Occurs s t .adjRelease ∧ t.toPkg = s.toPkg ∧
      t.obs.frozen = s.virst.getLsbD 0)

/-- R387, R412: what a slot holds: the image that this package has scanned out with those bodies; of
other bodies, what the scan map says, its key table invalid where another package wrapped it. Both are
free values (log 3). -/
def Sys2Proof.Claim.SlotImages : Prop :=
  ∀ (w : Work) slot, let bodies := (upto 8).map fun d => w.slotBody d slot
    let same := fun (x : Image) => (upto 8).map (fun d => scanBody d x) = bodies
    (∀ x, w.obs.images = [x] → same x → w.slotImage slot = x) ∧
    ((∀ x ∈ w.obs.images, ¬same x) → ∀ x key, Config.scanLoad bodies = some (x, key) →
      (key = Config.wrapKey → w.slotImage slot = x) ∧
      (key ≠ Config.wrapKey → (w.slotImage slot).pkg = { x.pkg with keys := [] } ∧
        (w.slotImage slot).lines = x.lines))

/-- R380: the bytes of an entry in the ring: STAMP, PORT, KIND, PLEN and TAG, then the payload. Where a
link's own format gives KIND and payload they are free values (log 24). -/
def Sys2Proof.Claim.SheetEntries : Prop :=
  ∀ (e : SheetEnt) (free : List Byte), let raw := e.image free
    let at_ := fun i n => leNat ((raw.drop i).take n)
    at_ 0 8 = e.stamp % 2 ^ 64 ∧ (e.port < 256 → at_ 8 1 = e.port) ∧
    (e.plen < 2 ^ 16 → at_ 10 2 = e.plen ∧ (e.tag < 2 ^ 32 → at_ 12 4 = e.tag)) ∧
    (e.ev = none → e.port = 0xFF ∧ e.plen = 0) ∧
    (∀ c n st, (e.ev = some (.takeback c n st true) → at_ 9 1 = 1 ∧ e.port = 27 ∧ e.tag = c % 1024) ∧
      (e.ev = some (.takeback c n st false) → at_ 9 1 = 0 ∧ e.port = 27 ∧ e.tag = c % 1024)) ∧
    ∀ p data bad, e.ev = some (.cxlCompletion p data bad) →
      e.port = 1 + p ∧
      (e.check = none → e.plen = data.length ∧ (raw.drop 16).take data.length = data) ∧
      ∀ v, e.check = some v → e.plen = 8 ∧ at_ 16 8 = v.toNat

/-- R381, R388 to R391, R398, R401, R418: the replay registers, the bytes that the management port puts
into the ring, the injection of the entry that is due, the alignment of TEMPO, readback. RESID is a
free value of at most 2 (log 3). How an entry's bytes are read is the model's choice (log 24). -/
def Sys2Proof.Claim.ReplayAndReadback : Prop :=
  (∀ s v, let m := if field v 1 0 = 3 then 0 else field v 1 0
    let may := (s.obs.frozen = true ∨ s.phase = .inReset) ∧ (m = 1 → s.obs.repctl.getLsbD 4 = true)
    (may → ∃ t, Records s t (.repctlWrite v) ∧ field t.obs.repctl 1 0 = m ∧
      field t.obs.repctl 3 2 = field v 3 2 ∧ field t.obs.repctl 4 4 = field s.obs.repctl 4 4 ∧
      (m = 1 → t.obs.gates = [])) ∧
    (¬may → ∃ t, Occurs s t (.repctlWrite v) ∧ t.toMach = s.toMach)) ∧
  (∀ s b, ∃ t, Occurs s t (.packageRailChange b) ∧ t.obs.repctl.getLsbD 4 = b) ∧
  (∀ s v data, ∃ t, Records s t (.scstailWrite ⟨v, data⟩) ∧ t.obs.scstail = field v 39 0 ∧
    let at_ := fun i => field s.obs.scsbase 51 0 + (s.obs.scstail + i) % s.obs.ring
    (s.work.repMode = 1 → data.length ≤ s.obs.ring → ∀ i, (h : i < data.length) →
      (s.work.place (at_ i)).isNear = true → memRead t.mem (at_ i) = data[i])) ∧
  (∀ s raw e, s.work.dueEntry = some (raw, e) →
    let passed := fun (t : State) =>
      t.obs.scshead = (s.obs.scshead + raw.length) % s.obs.ring ∧
      (s.work.areaUpset (field s.obs.scsbase 51 0 + s.obs.scshead) raw.length = true →
        s.obs.viral = false → t.virst = natWord (1 + 2 * 4))
    (e.last = true → ∃ t, Occurs s t .replayInject ∧ t.obs.repctl.getLsbD 5 = true ∧
      t.obs.freezeDue = true ∧ passed t) ∧
    (e.last = false → e.ev = none → ∃ t, Occurs s t .replayInject ∧ passed t) ∧
    ∀ cl d, e.last = false → e.ev = some (.thermalSample cl d) → d ≤ 110 →
      ∃ t, Occurs s t .replayInject ∧ (t.work.cluster cl).degrees = d ∧ passed t) ∧
  (∀ s port t1 t2 t3 t4, port < 16 →
    (∀ b, ∃ t, Occurs s t (.tempoAlign t1 t2 t3 t4 ⟨port, true, b⟩) ∧ t.toMach = s.toMach) ∧
    (∃ t, Occurs s t (.tempoAlign t1 t2 t3 t4 ⟨port, false, false⟩) ∧ t.obs.talign = 2) ∧
    (s.everLaunched = true → ∃ t, Occurs s t (.tempoAlign t1 t2 t3 t4 ⟨port, false, true⟩) ∧
      t.obs.talign = 4 ∧ t.tempo = s.tempo) ∧
    (s.everLaunched = false → ∃ t, Occurs s t (.tempoAlign t1 t2 t3 t4 ⟨port, false, true⟩) ∧
      (t.tempo : Int) = (s.tempo + ((t2 - t1) - (t4 - t3)).tdiv 2) % 2 ^ 64 ∧
      t.obs.talign.getLsbD 0 = true ∧ field t.obs.talign 4 3 ≤ 2)) ∧
  (∀ s v, ∃ t, Occurs s t (.readback v) ∧ t.obs.rbsel = natWord (field v 42 0) ∧
    (s.obs.frozen = false → t.obs.rbdata = s.obs.rbdata) ∧
    (s.obs.frozen = true → ∀ i < 8, t.obs.rbdata.extractLsb' (8 * i) 8 =
      Config.scanByte (field v 2 0) { pkg := s.toPkg, lines := s.work.l2Lines }
        (field v 42 3 + i))) ∧
  ∀ s addr, ∃ t, Occurs s t (.memoryReadback addr) ∧ t.obs.mraddr = natWord addr ∧
    (s.obs.frozen = false → t.obs.mrdata = s.obs.mrdata) ∧
    (s.obs.frozen = true →
      let m := s.work.dram
      let a := addr / 8 * 8
      let plain := s.keys.any fun k =>
        k.2.valid && k.2.dbg && decide (tfind (a / 32) m.keyed = some k.2.pair)
      (plain = true → t.obs.mrdata = natWord (m.num a 8)) ∧
      ∀ key, plain = false → tfind (a / 32) m.keyed = some key → t.obs.mrdata = natWord (leNat
        (((xtsEnc key (a / 32) (m.bytes (a / 32 * 32) 32)).drop (a % 32)).take 8)))

/-- Freezing, images, replay and readback.

Instructions whose completion it states, each with the effect it gives: stopatFreeze, adjArm,
adjScan, adjLoad, adjRelease, repctlWrite, packageRailChange, scstailWrite, replayInject,
tempoAlign, readback, memoryReadback. -/
def Obligations.FreezeAndReplay : Prop :=
  Claim.Adjournment ∧ Claim.SlotImages ∧ Claim.SheetEntries ∧ Claim.ReplayAndReadback

/-- R303, R316, R335, R355, R403, R404: writes of window registers, from the paths that may make
them; a TLB invalidation and its completion. -/
def Sys2Proof.Claim.WindowRegisters : Prop :=
  (∀ s path v, let wr := fun (o : Nat) (t : State) => Occurs s t (.registerWrite path o v none)
    (∃ t, wr 0x00 t ∧ t.rootbase = keepBits v 51 15) ∧
    (path ≠ .supervisor → ∃ t, wr 0x28 t ∧ t.pretime = natWord (field v 47 0)) ∧
    (path = .supervisor → ∃ t, wr 0x28 t ∧ t.pretime = s.pretime) ∧
    (path ≠ .host → s.fwready = false → ∃ t, wr 0x30 t ∧ t.nmsplit = field v 6 0) ∧
    (path = .host ∨ s.fwready = true → ∃ t, wr 0x30 t ∧ t.nmsplit = s.nmsplit) ∧
    (path ≠ .supervisor → ∃ t, wr 0x38 t ∧ t.sesslife = v) ∧
    (∀ q < 16, (∃ t, wr (0x1000 + 32 * q) t ∧ (t.work.queue q).base = keepBits v 51 6) ∧
      ∃ t, wr (0x1018 + 32 * q) t ∧ (t.work.queue q).tail = field v 15 0 ∧
        (t.work.queue q).head = (s.work.queue q).head) ∧
    ∀ c < Config.clusters, path = .supervisor →
      (∃ t, wr (0x2008 + 64 * c) t ∧ (t.work.cluster c).pabud = field v 23 0) ∧
      (∃ t, wr (0x2010 + 64 * c) t ∧ (t.work.cluster c).pathr = field v 23 0) ∧
      ∃ t, wr (0x2018 + 64 * c) t ∧ (t.work.cluster c).pahys = field v 23 0) ∧
  (∀ s path v, ∃ t, Occurs s t (.tlbinv path v) ∧ t.tlbBusy = true ∧ t.tlbinvOwn = field v 9 0 ∧
    ∀ d, ∀ x ∈ (t.work.die d).walks, x.cancelled = true) ∧
  ∀ s, s.tlbBusy = true → (∀ d ∈ s.dies, ∀ x ∈ d.2.walks, x.cancelled = false) →
    ∃ t, Occurs s t .tlbinvDone ∧ t.tlbBusy = false ∧
      (∀ c, ∀ x ∈ (t.work.core c).tlb, x.2.dropped s.tlbinv s.tlbinvOwn = false) ∧
      ∀ c, ∀ x ∈ (t.work.cluster c).tlb2, x.2.dropped s.tlbinv s.tlbinvOwn = false

/-- R303, R335, R338, R379, R383, R403 to R407: the rest of the window: LQCTL with QERR, LQHEAD, the
words of TLBINV, PRECTL's owner, the export and shared ranges, the observation block; a write of a half
writes that half; what has no effect. -/
def Sys2Proof.Claim.WindowRules : Prop :=
  (∀ s path v, let wr := fun (o : Nat) (t : State) => Occurs s t (.registerWrite path o v none)
    (∀ q < 16, let x := s.work.queue q
      (∃ t, wr (0x1008 + 32 * q) t ∧ (t.work.queue q).ctl =
        natWord (field v 16 0 +
          if x.ctl.getLsbD 17 = true ∧ v.getLsbD 17 = false then 2 ^ 17 else 0)) ∧
      ∃ t, wr (0x1010 + 32 * q) t ∧ t.work.queue q = x) ∧
    (∃ t, wr 0x10 t ∧ t.tlbinv = natWord (keepBits v 54 16) ∧ t.tlbBusy = s.tlbBusy) ∧
    (∃ t, wr 0x18 t ∧ t.tlbinvOwn = field v 9 0 ∧ t.tlbBusy = true) ∧
    (path ≠ .supervisor → s.preempt.stage = 0 →
      ∃ t, wr 0x20 t ∧ t.preempt = { s.preempt with owner := field v 9 0 }) ∧
    (path ≠ .supervisor → ∀ i < 16,
      (∃ t, wr (0x4400 + 16 * i) t ∧ tget 0 (2 * i) t.fabexp = natWord (keepBits v 53 16)) ∧
      (∃ t, wr (0x4408 + 16 * i) t ∧ tget 0 (2 * i + 1) t.fabexp = natWord (field v 52 0)) ∧
      (∃ t, wr (0x4500 + 16 * i) t ∧ tget 0 (2 * i) t.fabshr = natWord (keepBits v 52 16)) ∧
      ∃ t, wr (0x4508 + 16 * i) t ∧ tget 0 (2 * i + 1) t.fabshr = v) ∧
    (path = .management →
      (∃ t, wr 0x800000 t ∧ t.obs = { s.obs with scsbase := natWord (keepBits v 51 12) }) ∧
      (∃ t, wr 0x800008 t ∧ t.obs = { s.obs with scssize := natWord (field v 31 0) }) ∧
      ∃ t, wr 0x800040 t ∧ t.obs = { s.obs with stopat := v }) ∧
    (path = .supervisor → v.getLsbD 0 = true → ∃ t, wr 0x48 t ∧ t.fwready = true)) ∧
  (∀ s path o v (high : Bool), o % 8 = 0 → o ≠ 0x48 → ¬(0x1000 ≤ o ∧ o < 0x1200 ∧ o % 32 = 8) →
    ¬(0x2000 ≤ o ∧ o < 0x3800 ∧ o % 64 = 32) →
    let old := s.work.regRead path o
    exec (.registerWrite path o v (some high)) s = exec (.registerWrite path o
      (if high then (old &&& 0xFFFFFFFF) ||| (v <<< 32)
       else (old &&& 0xFFFFFFFF_00000000) ||| (v &&& 0xFFFFFFFF)) none) s) ∧
  ∀ s path o v half, let none_ := exec (.registerWrite path o v half) s = .next s
    let within := fun (a b : Nat) => a ≤ o ∧ o < b
    (o % 8 ≠ 0 → none_) ∧
    (o % 8 = 0 →
      (within 0x50 0x1000 ∨ within 0x1200 0x2000 ∨ within 0x3800 0x4400 ∨
        within 0x4600 0x800000 → none_) ∧
      (path = .supervisor → o = 0x20 ∨ o = 0x28 ∨ o = 0x38 ∨ within 0x4400 0x4600 → none_) ∧
      (path = .host → o = 0x30 ∨ within 0x2000 0x3800 → none_) ∧
      (path = .management → within 0x2000 0x3800 → o % 64 ≠ 32 → none_) ∧
      (path ≠ .supervisor → o = 0x48 → none_) ∧
      (path ≠ .management → 0x800000 ≤ o → none_ ∧ s.work.regRead path o = 0))

/-- The register window.

Instructions whose completion it states, each with the effect it gives: registerWrite, tlbinv,
tlbinvDone. -/
def Obligations.RegisterWindow : Prop :=
  Claim.WindowRegisters ∧ Claim.WindowRules

/-- R188, R190, R358 to R362: a crossbar grant takes its packet on; a packet takes the escape
channel; signatures and their acknowledgments are received.

Instructions whose completion it states, each with the effect it gives: crossbarGrant,
escapeChannelMove, signatureReceive, signatureAckReceive. -/
def Obligations.Network : Prop :=
  (∀ s d out i p, s.tempo / 2 ≥ tget 0 out (s.work.die d).outBusy →
    (s.work.die d).winner out (s.work.offers d out) = some (i, p) →
    ∃ t, Occurs s t (.crossbarGrant d out) ∧
      (out < 12 → tget 0 out (t.work.die d).outBusy = s.tempo / 2 + p.flits) ∧
      (12 ≤ out → out < 36 →
        ((t.work.die d).slice (out - 12)).inq = ((s.work.die d).slice (out - 12)).inq ++ [p]) ∧
      (∀ c m, out < 12 → p.msg = .am c m →
        (t.work.core c).inbox.ams = (s.work.core c).inbox.ams ++ [m]) ∧
      (36 ≤ out → out < 40 → ∃ q ∈ (t.work.die (linkTo d out).1).net,
        q = { p with age := 0, at_ := (linkTo d out).2, stuck := 0 })) ∧
  (∀ s d k p, (s.work.die d).net[k]? = some p → p.esc = false → p.outside = false → 64 ≤ p.stuck →
    ∃ t, Occurs s t (.escapeChannelMove d k) ∧
      (t.work.die d).net[k]? = some { p with esc := true }) ∧
  ∀ s c,
    (∀ x rest, (s.work.core c).inbox.sigs = x :: rest →
      ∃ t, Occurs s t (.signatureReceive c) ∧ (t.work.core c).inbox.sigs = rest ∧
        (t.work.core c).inb = (s.work.core c).inb ||| x.bits ∧
        (x.scope < 2 → (t.work.core c).sigGang = (s.work.core c).sigGang ||| x.bits) ∧
        (x.scope < 3 → (t.work.core c).sigDev = (s.work.core c).sigDev ||| x.bits) ∧
        ∃ p ∈ (t.work.die (Config.dieOf c)).net, p.msg = .sigAck x.src x.token) ∧
    ∀ k rest, (s.work.core c).inbox.sigAcks = k :: rest →
      ∃ t, Occurs s t (.signatureAckReceive c) ∧ (t.work.core c).inbox.sigAcks = rest ∧
        ∀ n g r, s.work.grp c n = some g → g.rel = some r → r.phase = 2 → r.token = k →
          t.work.grp c n = some { g with rel := some { r with acks := r.acks - 1 } }

/-! ## Encodings, the turn, traps, reset, and what every step keeps -/

/-- R86 to R94: decoding the bytes that encode a well-formed instruction gives it back, whatever
stands behind them. -/
def Obligations.DecodeEncode : Prop :=
  ∀ i : Instr, i.wellFormed = true → encode i ≠ .event →
    ∀ rest, decodeBytes ((encode i).bytes ++ rest) = .ok (i, rest)

/-- Words written out from the encodings of the spec, the worked examples of its chapters among
them. -/
def Obligations.WorkedWords : Prop :=
  decodeWord 0x14400139#32 = .ok (.launch 0 4 5) ∧
  decodeWord 0x0C620539#32 = .ok (.amsendOrd 0 8 6 3) ∧
  decodeWord 0x244000E1#32 = .ok (.redAdd 0 4 9) ∧
  decodeWord 0x61420519#32 = .ok (.mmas 0 8 20 24) ∧
  decodeWord 0x00084111#32 = .ok (.bar 0 1 2) ∧
  decodeWord 0x0012083B#32 = .ok (.smovl 1 4 0x24) ∧
  decodeWord 0x00000001#32 = .ok (.trap 0 0) ∧
  decodeWord 0x00000201#32 = .ok (.rte 0) ∧
  decodeWord 0x00001201#32 = .ok (.haltt 0) ∧
  decodeWord 0x00004009#32 = .ok (.br 0 0 1) ∧
  decodeParcel 0x000C#16 = .vorParcel 0 0 0 ∧
  decodeParcel 0x0000#16 = .nullParcel

/-- R93: the parcel 0x0000 traps as an illegal instruction; every other parcel is an instruction;
0x000C is VOR v0, v0 and has no effect.

Instructions whose completion it states, each with the effect it gives: nullParcel, vorParcel. -/
def Obligations.Parcels : Prop :=
  decodeParcel 0#16 = .nullParcel ∧
  (∀ s c n g, s.cur = (c, n) → s.work.grp c n = some g → s.work.flagsPending c n = false →
    Traps s c n g .nullParcel 1 (illegalInfo 0 1) 0) ∧
  (∀ p : BitVec 16, p.getLsbD 0 = false → p ≠ 0 →
    decodeParcel p ≠ .nullParcel ∧ encode (decodeParcel p) = .parcel p) ∧
  decodeParcel 0x000C#16 = .vorParcel 0 0 0 ∧
  ∀ s c n g, Ready s c n g → g.hasV 0 = true →
    Completes s c n g (.vorParcel 0 0 0) (g.pc + 2) g {} fun _ => True

/-- The majors whose code stands in the `width` bits from bit 9, with the codes that they define. -/
def Sys2Proof.Claim.codes : List (Nat × Nat × List Nat) :=
  let til := fun n => List.range (n + 1)
  [(0x00, 5, til 9), (0x04, 5, til 12), (0x05, 5, til 17), (0x09, 5, til 1), (0x0B, 5, til 13),
   (0x0D, 5, til 21 ++ [28, 29, 30, 31]), (0x10, 5, til 11), (0x11, 5, til 6 ++ [9]),
   (0x12, 5, til 11 ++ [16]), (0x13, 5, til 2 ++ [8, 9, 10]), (0x14, 5, til 13 ++ (til 24).drop 16),
   (0x15, 5, til 5), (0x16, 5, til 15), (0x17, 5, til 6), (0x1B, 4, til 9), (0x1C, 4, til 9),
   (0x1D, 4, til 9), (0x1E, 4, til 8), (0x1F, 5, til 5), (0x21, 5, til 5), (0x22, 5, til 6),
   (0x23, 5, til 3), (0x24, 5, til 7), (0x25, 5, til 7), (0x26, 5, til 6), (0x27, 5, til 2)]

/-- The unused bits of forms: a major, the width of its code and the codes, the bits. -/
def Sys2Proof.Claim.unused : List (Nat × Nat × List Nat × BitVec 32) :=
  [(0x00, 5, [1, 9], 0xFFFFC000), (0x00, 5, [2, 3, 4, 8], 0xFFF00000), (0x00, 5, [5], 0xC0000000),
   (0x00, 5, [6, 7], 0xFC000000), (0x04, 5, [0, 1], 0xFFFFC000), (0x04, 5, [2, 3, 7, 11], 0xFC0FC000),
   (0x04, 5, [4], 0xFC000000), (0x04, 5, [5, 6], 0xF0000000), (0x04, 5, [8], 0x000FC000),
   (0x04, 5, [9, 10], 0xFFF00000), (0x04, 5, [12], 0xFC080000), (0x06, 3, [5, 6, 7], 0xC0000000),
   (0x09, 5, [0], 0x000FC000), (0x0B, 5, [0, 3], 0xFC0FC000), (0x0B, 5, [1, 2, 4], 0xFFFFC000),
   (0x0B, 5, [8, 9, 10, 11, 12, 13], 0xFC000000), (0x0C, 5, [22, 23, 24, 25, 26, 27, 31], 0xFC000000),
   (0x0D, 5, [31], 0x03F00000), (0x0E, 3, [5, 6, 7], 0xE0000000), (0x10, 5, [7, 8, 10, 11], 0xFC000000),
   (0x12, 5, [7, 8, 10, 11], 0xFC000000), (0x15, 5, [0, 1, 2, 3, 4, 5], 0xFC000000),
   (0x16, 5, [4, 5, 8, 9], 0xE0000000), (0x16, 5, [14], 0xFC000000), (0x17, 5, [6], 0xFFF00000),
   (0x19, 3, [7], 0x0003E000), (0x1C, 5, List.range 10 ++ [24, 25], 0x000FC000),
   (0x1E, 5, List.range 9 ++ [24], 0x000FC000), (0x1F, 5, [0, 1, 2], 0xFFFE0000), (0x1F, 5, [3], 0xFFFF8000),
   (0x1F, 5, [4], 0x80000000), (0x1F, 5, [5], 0xFFE00000), (0x21, 5, [0, 1, 2, 3], 0x000FC000),
   (0x21, 5, [4], 0x00080000), (0x21, 5, [5], 0xFFFF0000), (0x22, 5, [0, 1], 0xFFC00000),
   (0x22, 5, [2], 0xFFFC0000), (0x22, 5, [3, 4, 5, 6], 0xFFFFC000), (0x24, 5, [0, 3], 0xFC0FC000),
   (0x24, 5, [1, 2, 4], 0x000FC000), (0x24, 5, [7], 0xFC000000), (0x25, 5, [0], 0xFC000000),
   (0x25, 5, [1], 0x000E0000), (0x25, 5, [2, 5], 0xFFFF0000), (0x25, 5, [3, 4], 0xF0000000),
   (0x25, 5, [6, 7], 0xFC0F0000), (0x26, 5, [0, 1], 0xC0000000), (0x26, 5, [2], 0xFFFFC000),
   (0x26, 5, [3], 0x000E0000), (0x26, 5, [4], 0xFC0FC000), (0x26, 5, [5, 6], 0xFFF00000),
   (0x27, 5, [0], 0xC00FC000), (0x27, 5, [1, 2], 0xC0000000)]

/-- R88, R96: a code that its family does not define, and a non-zero bit in an unused field. -/
def Sys2Proof.Claim.IllegalWords : Prop :=
  (∀ e ∈ Claim.codes, ∀ w : BitVec 32, w.getLsbD 0 = true → (w.extractLsb' 3 6).toNat = e.1 →
    w.toNat / 2 ^ 9 % 2 ^ e.2.1 ∉ e.2.2 → decodeWord w = .error .undefinedCode) ∧
  (∀ e ∈ Claim.unused, ∀ w : BitVec 32, w.getLsbD 0 = true → (w.extractLsb' 3 6).toNat = e.1 →
    w.toNat / 2 ^ 9 % 2 ^ e.2.1 ∈ e.2.2.1 → (w &&& e.2.2.2) ≠ 0 →
    ∃ i, decMajor w = some (some i) ∧
      decodeWord w = .error (if i.codesDefined then .unusedBits else .undefinedCode)) ∧
  ∀ w : BitVec 32, w.getLsbD 0 = true → (w.extractLsb' 3 6).toNat = 1 →
    ((w.extractLsb' 9 5).toNat = 15 ∨
      (19 ≤ (w.extractLsb' 9 5).toNat ∧ (w.extractLsb' 9 5).toNat ≤ 23)) →
    ∀ i, decodeWord w = .ok i → i.codesDefined = false

/-- R44, R52, R88, R89, R96, R131: registers that the group has not, and instructions denied where they
stand. -/
def Sys2Proof.Claim.IllegalForms : Prop :=
  ∀ s c n g, s.cur = (c, n) → s.work.grp c n = some g → s.work.flagsPending c n = false →
    ∀ (x y : BitVec 2) (d a b : BitVec 6) (e : BitVec 4) (h : BitVec 1) (r p : BitVec 3),
    let ill := fun (i : Instr) (w : BitVec 32) (reason : Nat) =>
      Traps s c n g i 1 (illegalInfo w reason) 0
    (g.hasPair d.toNat = false ∨ g.hasPair a.toNat = false ∨ g.hasPair b.toNat = false →
      ill (.vfaddF64 x d a b) (wVfaddF64 x d a b) 5) ∧
    (g.hasQuad d.toNat = false → ill (.svcall x d) (wSvcall x d) 5) ∧
    (9 ≤ d.toNat ∨ 9 ≤ a.toNat ∨ 9 ≤ b.toNat → ill (.mand x d a b) (wMand x d a b) 5) ∧
    (g.hasV a.toNat = false → ill (.cwake x a) (wCwake x a) 5) ∧
    (g.kind ≠ .supervisor →
      ill (.mbreply x a) (wMbreply x a) 6 ∧ ill (.mgnset x a d r) (wMgnset x a d r) 6 ∧
      ill (.mgnsetW x a d r) (wMgnsetW x a d r) 6 ∧ ill (.qload x a b) (wQload x a b) 6) ∧
    (6 ≤ r.toNat → ill (.mgnset x a d r) (wMgnset x a d r) 6) ∧
    (4 ≤ r.toNat → ill (.mgnsetW x a d r) (wMgnsetW x a d r) 6) ∧
    (g.kind ≠ .run →
      (∀ k : BitVec 16, ill (.cyield x k) (wCyield x k) 6 ∧ ill (.csleep x k) (wCsleep x k) 6) ∧
      (g.hasV a.toNat = true → ill (.cwake x a) (wCwake x a) 6) ∧
      (g.hasV d.toNat = true → ill (.cidx x d) (wCidx x d) 6 ∧ ill (.cstat x d) (wCstat x d) 6)) ∧
    (g.kind = .run → (p.toNat ≤ 4 → ill (.fenceRel x p) (wFenceRel x p) 6 ∧
        ill (.fenceAcq x p) (wFenceAcq x p) 6) ∧
      ill (.copykickAny x a b) (wCopykickAny x a b) 6 ∧ ill (.mxwait x a) (wMxwait x a) 6) ∧
    (g.kind ≠ .user → ill (.gangbar x) (wGangbar x) 6 ∧ ill (.barw x e) (wBarw x e) 6) ∧
    (lrGridb (s.work.recOf g) = false → ill (.gridbar x) (wGridbar x) 6) ∧
    (g.isTeamCode = false → (∀ i, ill (.trap x i) (wTrap x i) 6) ∧
      (g.hasQuad d.toNat = true → ill (.svcall x d) (wSvcall x d) 6)) ∧
    (g.isTeamCode = false ∨ g.inHandler = true →
      ill (.tempow x a) (wTempow x a) 6 ∧ ill (.haltt x) (wHaltt x) 6) ∧
    (∀ k, k = (y ++ d).toNat →
      ((0x18 ≤ k ∧ k ≤ 0x1C ∧ g.inHandler = false) ∨ (0x16 ≤ k ∧ k < 0x18) ∨
          (0x1D ≤ k ∧ k < 0x20) ∨ 0x22 ≤ k →
        ill (.smovs x a d y) (wSmovs x a d y) 6) ∧
      (k ≠ 0x13 → k ≠ 0x18 → k ≠ 0x1A → ill (.smovw x d a y) (wSmovw x d a y) 6)) ∧
    (g.deferred = [] → g.pend = [] → g.flights = [] → g.poison = [] →
      (2 ≤ (g.s a.toNat).toNat → ill (.smovw x 0x13 a 0) (wSmovw x 0x13 a 0) 7) ∧
      (g.inHandler = true → (g.s a.toNat).getLsbD 0 = true →
        ill (.smovw x 0x18 a 0) (wSmovw x 0x18 a 0) 6))

/-- R96: words that no row has, fields that no family defines, registers that the group has not, and
instructions denied where they stand, raise the illegal-instruction trap with the word and the first
reason. -/
def Obligations.IllegalInstructions : Prop :=
  Claim.IllegalWords ∧ Claim.IllegalForms ∧
  (∀ w : BitVec 32, 0x28 ≤ (w.extractLsb' 3 6).toNat →
    decodeWord w = .error .reservedMajor ∧ DecodeError.reservedMajor.reason = 2) ∧
  (∀ (w : BitVec 32) i, decodeWord w = .ok i → encode i = .word w) ∧
  decodeWord 0x00001401#32 = .error .undefinedCode ∧ DecodeError.undefinedCode.reason = 3 ∧
  decodeWord 0x80000201#32 = .error .unusedBits ∧ DecodeError.unusedBits.reason = 4 ∧
  ∀ s c n g, s.cur = (c, n) → s.work.grp c n = some g → s.work.flagsPending c n = false →
    (∀ i w, encode i = .word w → i.codesDefined = false →
      Traps s c n g i 1 (illegalInfo w 3) 0) ∧
    ∀ (x : BitVec 2) (d a b : BitVec 6),
    (g.hasV d.toNat = false ∨ g.hasV a.toNat = false ∨ g.hasV b.toNat = false →
      Traps s c n g (.vaddI32 x d a b) 1 (illegalInfo (wVaddI32 x d a b) 5) 0) ∧
    (9 ≤ a.toNat → Traps s c n g (.ifm x a) 1 (illegalInfo (wIfm x a) 5) 0) ∧
    (g.inHandler = false → Traps s c n g (.rte x) 1 (illegalInfo (wRte x) 6) 0) ∧
    (64 < d.toNat + 2 → Traps s c n g (.mbpop x d) 1 (illegalInfo (wMbpop x d) 5) 0) ∧
    (g.kind ≠ .supervisor →
      (d.toNat + 2 ≤ 64 → Traps s c n g (.mbpop x d) 1 (illegalInfo (wMbpop x d) 6) 0) ∧
      Traps s c n g (.qsave x a b) 1 (illegalInfo (wQsave x a b) 6) 0) ∧
    (g.kind ≠ .run → Traps s c n g (.cdone x) 1 (illegalInfo (wCdone x) 6) 0)

/-- R86, R97, R98: a turn that issues a group fetches at its PC and executes the instruction that its
bytes encode. The plan brings the turn, with nothing that the state fixes to go before it (R377), and
nothing comes from outside first. What comes before the instruction is only that the turn is taken, that
`cur` names the slot, that translation moves entries of the TLBs, and that the fetch path takes lines
through their home slices, which may write others back. Bytes that encode none, and an odd PC, trap. What
the fetch path gives of a line whose bytes have changed since is the model's choice (log 9). -/
def Obligations.StepRuns : Prop :=
  ∀ s c n g rest later, s.plan = .issue c n :: rest →
    (s.agenda = [] ∧ later = []) ∨ s.agenda = .pass :: later →
    timedTurn { s with agenda := later } = none → s.work.canIssue c n = true →
    s.work.grp c n = some g → g.raise = none →
    let s0 : State := { s with agenda := later, plan := rest, cur := (c, n) }
    (g.pc.getLsbD 0 = true →
      step s = .next (commit s0 (raiseTrap s0.work c n g 0x05 (zext64 g.pc) 0))) ∧
    (g.pc.getLsbD 0 = false →
      (∀ w l i l', s0.work.fetch c n g = .ok w l → decodeBytes l = .ok (i, l') →
        step s = exec i (commit s0 w)) ∧
      (∀ w l e, s0.work.fetch c n g = .ok w l → decodeBytes l = .error e →
        step s = .next (commit s0 (raiseTrap w c n g 0x01
          (illegalInfo (BitVec.ofNat 32 (leNat l)) e.reason) 0))) ∧
      ∀ e, (s.work.translate c g.owner g.pc.toNat g.walked).1 = .page e →
        s.work.permits g e .fetch = true →
        g.pc.toNat % 65536 ≤ 65532 →
        let at_ := e.phys g.pc.toNat
        (s.work.place at_).isNear = true → (s.work.place (at_ + 2)).isNear = true →
        s.work.lineUpset (at_ / 128) = false → s.work.lineUpset ((at_ + 2) / 128) = false →
        (∀ d u, (s.work.unit d u).held = []) →
        let byte := fun k => s.work.readByte e.key (at_ + k)
        (∀ k ∈ [0, 2], ∀ l, tfind (fetchLine e.key (at_ + k)) (s.work.core c).ifetch = some l →
          fetchTwo l (at_ + k) = [byte k, byte (k + 1)]) →
        ∀ i l', decodeBytes [byte 0, byte 1, byte 2, byte 3] = .ok (i, l') →
          ∃ t, step s = exec i t ∧ t.mem = s.mem ∧ t.cur = (c, n) ∧ t.plan = rest ∧
            (let but := fun (m : Mach) =>
              { m.rest with dies := [], under := [], upsetMem := [], upsetL2 := [] }
             but t.toMach = but s0.toMach) ∧
            (∀ d, { t.work.die d with slices := [] } = { s.work.die d with slices := [] }) ∧
            (∀ j, { t.work.core j with tlb := [], ifetch := [] } =
              { s.work.core j with tlb := [], ifetch := [] }) ∧
            ∀ j, { t.work.cluster j with tlb2 := [] } = { s.work.cluster j with tlb2 := [] })

/-- Near memory stays in its canonical form, whatever a step does. -/
def Obligations.MemoryInvariant : Prop :=
  ∀ s t : State, s.Inv → step s = .next t → t.Inv

/-- It has that form at reset. -/
def Obligations.ResetInvariant : Prop := State.reset.Inv

/-- No step faults, and none is refused but where an encoded instruction is to be executed as an
event for a slot that holds no group: the plan asks for it, or it stands where no machine puts one,
among the arrivals of a gate or the events that a takeback holds. -/
def Obligations.StepAnswers : Prop :=
  ∀ s : State, (∃ t, step s = .next t) ∨
    (step s = .refused .noGroup ∧ ∃ i, encode i ≠ .event ∧
      ((∃ rest, s.plan = .event i :: rest) ∨ (∃ p ∈ s.obs.gates, i ∈ p.2) ∨
        ∃ p ∈ s.cores, i ∈ p.2.heldEv))

/-- R326, R328, R329, R284: what taking a trap does: the E-registers, the handler bank and TENT; a
double trap; a team without an entry; the supervisor, whose trap stands in a table of the model's own
(log 21); a sweep routine. -/
def Obligations.TrapEntry : Prop :=
  ∀ (s : State) c n g cause info lanes, s.work.grp c n = some g → cause < 256 →
    let w := s.work.takeTrap c n g cause info lanes
    let saved := fun h : Group =>
      h.epc = zext64 g.pc ∧
      h.ecause = (BitVec.ofNat 8 cause).zeroExtend 64 ||| (g.sfl.zeroExtend 64 <<< 8) ∧
      h.eexec = g.exec ∧ h.elanes = lanes ∧ h.einfo = info ∧ h.savedFlights = g.flights ∧
      h.flights = []
    let regs := fun h : Group =>
      h.sreg = g.sreg ∧ h.hsreg = g.hsreg ∧ h.mreg = g.mreg ∧ h.hmreg = g.hmreg ∧
      h.vreg = g.vreg ∧ h.fmt = g.fmt ∧ h.sfl = g.sfl ∧ h.live = g.live ∧ h.stack = g.stack ∧
      h.flg = g.flg
    w.log = [] ∧
    (g.kind ≠ .run → g.inHandler = false → s.work.tent g ≠ 0 →
      (∃ h, w.grp c n = some h ∧ saved h ∧ regs h ∧ h.inHandler = true ∧ h.hfmt = 0 ∧
        h.exec = g.live ∧ h.hdepth = g.stack.length ∧ h.pc = s.work.tent g) ∧
      (∀ j m, (j, m) ≠ (c, n) → w.grp j m = s.work.grp j m) ∧
      w.toMach.rest = s.toMach.rest) ∧
    (g.kind = .user ∨ g.kind = .handlerTeam → g.inHandler = false → s.work.tent g = 0 →
      ∀ x, s.work.team g.launch g.lin = some x → x.launch = g.launch → x.lin = g.lin →
      (∃ h, w.grp c n = some h ∧ saved h ∧ regs h ∧ h.exec = g.exec ∧ h.pc = g.pc ∧
        h.inHandler = false ∧ h.stopped = true ∧ h.stopInfo = info) ∧
      w.team g.launch g.lin = some { x with stop := some cause } ∧
      (∀ j m h0, (j, m) ∈ s.work.members x (fun _ => true) → (j, m) ≠ (c, n) →
        s.work.grp j m = some h0 → h0.stopped = false → h0.haltAt = none → h0.haltDue = none →
        w.grp j m = some
          { h0 with haltDue := some ((s.work.core j).cycle + if j = c then 2 else 8) }) ∧
      ∃ e ∈ (w.core c).evq ++ (w.core c).evHeld, e.kind = 3 ∧ e.slot = n ∧ e.cause = cause) ∧
    (g.kind = .user ∨ g.kind = .handlerTeam → g.inHandler = true →
      ∀ x, s.work.team g.launch g.lin = some x → x.launch = g.launch → x.lin = g.lin →
      (∃ h, w.grp c n = some h ∧ regs h ∧ h.stopped = true ∧ h.pc = g.pc ∧
        h.epc = g.epc ∧ h.ecause = g.ecause ∧ h.eexec = g.eexec ∧ h.elanes = g.elanes ∧
        h.einfo = g.einfo ∧ h.stopInfo = BitVec.ofNat 64 cause) ∧
      w.team g.launch g.lin = some { x with stop := some 0x1F } ∧
      ∃ e ∈ (w.core c).evq ++ (w.core c).evHeld, e.kind = 3 ∧ e.slot = n ∧ e.cause = 0x1F) ∧
    (g.kind = .handlerCore → g.inHandler = false →
      (∃ h, w.grp c n = some h ∧ saved h ∧ h.stopped = true ∧ h.pc = g.pc) ∧
      (∀ j m, (j, m) ≠ (c, n) → w.grp j m = s.work.grp j m) ∧
      w.toMach.rest = s.toMach.rest) ∧
    (g.kind = .supervisor → g.inHandler = false → c < Config.cores →
      (∃ h, w.grp c n = some h ∧ saved h ∧ h.stopped = true ∧ h.pc = g.pc) ∧
      (w.core c).mgn.quar = true ∧ (w.core c).mgn.safe = true ∧ tfind c w.supFault = some cause ∧
      (∀ j m, (j, m) ≠ (c, n) → w.grp j m = s.work.grp j m)) ∧
    (g.kind = .run → ∀ r, g.run = some r →
      let bad := if lanes = 0 then g.exec else lanes &&& g.exec
      ∃ h r', w.grp c n = some h ∧ h.run = some r' ∧ h.pc = g.pc ∧ h.stopped = g.stopped ∧
        h.live = g.live &&& ~~~bad ∧ h.exec = g.exec &&& ~~~bad ∧ r'.done = r.done ||| bad ∧
        ∀ l < 64,
          tfind l r'.st = (if bit bad l then some 4 else tfind l r.st) ∧
          tfind l r'.ref = (if bit bad l then some cause else tfind l r.ref) ∧
          tfind l r'.cpc = if bit bad l then some (r.cpcOf g.pc) else tfind l r.cpc)

/-- R62, R103, R106, R209, R224: what SADD does where its registers are pending, in flight or poisoned,
and what VADD does where lanes that it reads are poisoned, or stand in a row of the register pool that
holds an uncorrectable error (log 32). -/
def Sys2Proof.Claim.OperandChecks : Prop :=
  ∀ s c n g, s.cur = (c, n) → s.work.grp c n = some g → s.work.flagsPending c n = false →
    ∀ (x : BitVec 2) (d a b : BitVec 6),
    let i := Instr.sadd x d a b
    (g.chk = false → ∀ u ∈ [useS a.toNat, useS b.toNat, useS d.toNat], (g.pendOn u).isSome = true →
      ∃ t h, exec i s = .next t ∧ t.work.grp c n = some h ∧ Elsewhere s t c n ∧ h.pc = g.pc ∧
        h.readyAt = (s.work.core c).cycle + 1 ∧ h.pend = g.pend ∧ h.flights = g.flights ∧
        Keeps g h {}) ∧
    (g.chk = true → ∀ u ∈ [useS a.toNat, useS b.toNat],
      (g.flightOn u = true ∨ (g.pendOn u).isSome = true) →
      ∃ r, (r = a ∨ r = b) ∧ (g.flightOn (useS r.toNat) = true ∨
          (g.pendOn (useS r.toNat)).isSome = true) ∧
        Traps s c n g i 2 (BitVec.ofNat 64 r.toNat) 0) ∧
    (g.chk = true → g.flightOn (useS a.toNat) = false → g.pendOn (useS a.toNat) = none →
      g.flightOn (useS b.toNat) = false → g.pendOn (useS b.toNat) = none →
      (g.pendOn (useS d.toNat)).isSome = true → Traps s c n g i 2 (BitVec.ofNat 64 d.toNat) 0) ∧
    (g.pend = [] → g.flights = [] →
      ∀ v < 2 ^ 52, tfind (scalKey (g.banked .scalar a.toNat) a.toNat) g.poison = some v →
        Traps s c n g i 0x0B (BitVec.ofNat 64 v) 0) ∧
    (g.pend = [] → g.flights = [] → g.locked = [] → g.deferred = [] →
      g.hasV d.toNat = true → g.hasV a.toNat = true → g.hasV b.toNat = true →
      ∀ (bad : Word) (l v : Nat),
        (∀ k < 64, bit bad k = (bit g.exec k && (tfind (64 * a.toNat + k) g.poison).isSome)) →
        l < 64 → bit bad l = true → (∀ k < l, bit bad k = false) →
        tfind (64 * a.toNat + l) g.poison = some v →
        (v < 2 ^ 52 → Traps s c n g (.vaddI32 x d a b) 0x0B (BitVec.ofNat 64 v) bad) ∧
        ∀ row, v = 2 ^ 52 + row → exec (.vaddI32 x d a b) s = .next (commit s
          (((s.work.logError 1 true c row 0).account c n g 0).takeTrap c n g 0x0B
            (BitVec.ofNat 64 row) bad))) ∧
    (g.hasV d.toNat = true → g.hasV a.toNat = true → g.hasV b.toNat = true →
      ∀ r ∈ [a, b, d], (g.deferred.any fun q => decide (q.reg = r.toNat)) = true →
      (∀ q ∈ [a, b, d], q ≠ r → g.deferOn (useV g q.toNat) = false) →
      Traps s c n g (.vaddI32 x d a b) 0x0C (BitVec.ofNat 64 r.toNat) 0)

/-- R99 to R102: the result of SADD is visible from a stall distance of 2 on, that of VADD.I32 from
4; until then the register reads as it did, and the write is dropped where a later one comes. -/
def Sys2Proof.Claim.Visibility : Prop :=
  ∀ s c n g, Ready s c n g → ∀ (x : BitVec 2) (d a b : BitVec 6),
    (let v := g.s a.toNat + g.s b.toNat
      let σ := if x = 3 then 2 else x.toNat + 1
      ∃ t h, exec (.sadd x d a b) s = .next t ∧ t.work.grp c n = some h ∧
        h.readyAt = (s.work.core c).cycle + σ ∧
        ∀ k ≤ 4, (h.age k).s d.toNat = if 2 ≤ σ + k then v else g.s d.toNat) ∧
    (g.hasV d.toNat = true → g.hasV a.toNat = true → g.hasV b.toNat = true →
      let σ := if x = 3 then 4 else x.toNat + 1
      ∃ t h, exec (.vaddI32 x d a b) s = .next t ∧ t.work.grp c n = some h ∧
        h.readyAt = (s.work.core c).cycle + σ ∧
        ∀ k ≤ 4, ∀ l < 64, (h.age k).v d.toNat l =
          if 4 ≤ σ + k ∧ bit g.exec l = true then g.v a.toNat l + g.v b.toNat l
          else g.v d.toNat l)

/-- Pending, in-flight and poisoned operands; when a result is visible. -/
def Obligations.OperandRules : Prop :=
  Claim.OperandChecks ∧ Claim.Visibility

/-- What the spec says of the machine at reset (R3, R15, R31, R303, R316, R319, R338, R348, R376,
R412, R417, R418). -/
def Obligations.ResetValues : Prop :=
  let s := State.reset
  s.tempo = 0 ∧ s.phase = .inReset ∧ s.nmsplit = 32 ∧ s.sesslife = 0x10000000000 ∧
  s.pretime = 0x00004E20_006407D0 ∧ s.lastCluster = 95 ∧ s.fwready = false ∧
  (∀ q, s.work.queue q = { base := 0, ctl := 6, head := 0, tail := 0 }) ∧
  (∀ c, (s.work.cluster c).pacnt = 0xFFFFFF ∧ (s.work.cluster c).pabud = 0 ∧
    (s.work.cluster c).pathr = 0 ∧ (s.work.cluster c).pahys = 0 ∧ (s.work.cluster c).ratio = 1) ∧
  (∀ c, (s.work.core c).mgn.tbwin = 1048576 ∧ (s.work.core c).mgn.tblim = 16 ∧
    (s.work.core c).mgn.tbcnt = 0 ∧ (s.work.core c).mgn.safe = false ∧
    (s.work.core c).mgn.quar = false ∧ (s.work.core c).rb = 47 ∧ (s.work.core c).l1 = [] ∧
    (s.work.core c).inb = 0) ∧
  (∀ c, ∃ g, s.work.grp c 0 = some g ∧ g.kind = .supervisor ∧ g.role = 5 ∧ g.width = 16 ∧
    g.qbase = 0 ∧ g.entry = true ∧ g.inHandler = false) ∧
  (∀ c n, n ≠ 0 → s.work.grp c n = none) ∧
  (∀ k, (s.work.keyEnt k).valid = false) ∧
  s.virst = 0 ∧ s.bootwhy = 0 ∧ s.obs.repctl = 0 ∧ s.obs.arm = false ∧
  s.obs.frozen = false ∧ s.work.running = false

/-- R3, R376 to R378, R385, R389: a machine in reset or frozen does nothing by itself; what arrives
while it is frozen waits at its gate, and one arrival that finds its gate open at the beginning of a
master edge is admitted and performed, or waits behind one of a later place at the same edge; in replay
nothing enters through the gates. The gates close when they have nothing to admit. A master edge, at which
nothing is left to do, adds 1 to TEMPO, opens the gates, and adds 1 to the cycle of each core whose clock
has an edge there. That what comes from outside stands in an agenda, and what latencies bring in a plan, is
the model's choice (log 1). -/
def Obligations.MachineTurns : Prop :=
  (∀ s : State, s.agenda = [] → s.work.running = false → step s = .next s) ∧
  (∀ (s : State) i rest, s.agenda = .act i :: rest → observes i = false →
    s.work.running = false → s.work.unclocked i = false →
    (arrivalPort i = none ∨ s.phase = .inReset ∨ s.phase = .failed ∨ s.work.repMode = 1 →
      step s = .next { s with agenda := rest }) ∧
    ∀ p, arrivalPort i = some p → p ≠ 27 → s.phase = .booting ∨ s.phase = .ready →
      s.work.repMode ≠ 1 →
      ∃ t, step s = .next t ∧ t.mem = s.mem ∧ t.toPkg = s.toPkg ∧
        tget [] p t.obs.gates = tget [] p s.obs.gates ++ [i]) ∧
  (∀ (s : State) i rest p, s.agenda = .act i :: rest → observes i = false →
    s.work.running = true → s.work.repMode ≠ 1 → arrivalPort i = some p → caughtCore i = none →
    s.obs.gates = [] →
    (s.work.recording = false → s.obs.edgeNew = true →
      (∀ at_ q, s.obs.admitted = some (at_, q) → at_ ≠ s.tempo ∨ q < gatePlace i p) →
      ∃ t, step s = exec i t ∧ t.mem = s.mem ∧ t.toPkg = s.toPkg ∧ t.agenda = rest ∧
        t.obs.admitted = some (s.tempo, gatePlace i p)) ∧
    (s.obs.edgeNew = false ∨
        (∃ q, s.obs.admitted = some (s.tempo, q) ∧ gatePlace i p ≤ q) →
      ∃ t, step s = .next t ∧ t.mem = s.mem ∧ t.toPkg = s.toPkg ∧
        tget [] p t.obs.gates = [i])) ∧
  (∀ (s : State) i rest p, s.agenda = .act i :: rest → observes i = false →
    s.work.running = true → s.work.repMode = 1 → arrivalPort i = some p → p ≠ 27 →
    (∀ port d bad, i ≠ .cxlCompletion port d bad) → step s = .next { s with agenda := rest }) ∧
  (∀ s : State, s.agenda = [] → s.work.running = true → s.work.dueEntry = none →
    s.obs.edgeNew = true → s.obs.gates = [] → s.plan = [] → step s = .next { s with obs := { s.obs with edgeNew := false } }) ∧
  ∀ (s : State) rest, s.agenda = [] → s.plan = .edge :: rest → (tkeys s.cores).Nodup →
    s.work.running = true → forcedTurn s = none → s.work.stopDue = false →
    s.obs.freezeDue = false → s.work.starved = false →
    ∃ t, step s = .next t ∧ t.plan = rest ∧ t.tempo = (s.tempo + 1) % 2 ^ 64 ∧
      t.obs.edgeNew = true ∧
      ∀ c k, tfind c s.cores = some k →
        (t.work.core c).cycle = k.cycle + if hasEdge k.edges t.tempo then 1 else 0
end

