-- ==== Sys2Proof/Laws/Tab.lean ====
section
/-!
SUPPORT. What the operations on sparse tables do: a read after a write, and the canonical form.
-/

namespace Sys2Proof.Machine

variable {α : Type}

@[simp] theorem tfind_nil (k : Nat) : tfind k ([] : Tab α) = none := rfl

@[simp] theorem tget_nil (d : α) (k : Nat) : tget d k [] = d := rfl

theorem tfind_tins (j k : Nat) (v : α) (t : Tab α) :
    tfind j (tins k v t) = if j = k then some v else tfind j t := by
  induction t with
  | nil => simp [tins, tfind, eq_comm]
  | cons p t ih =>
    obtain ⟨i, x⟩ := p
    simp only [tins]
    split
    · next h => subst h; simp only [tfind]; grind
    · split
      · simp only [tfind]; grind
      · simp only [tfind, ih]; grind

@[simp] theorem tfind_tins_same (k : Nat) (v : α) (t : Tab α) :
    tfind k (tins k v t) = some v := by simp [tfind_tins]

theorem tfind_tins_other {j k : Nat} (h : j ≠ k) (v : α) (t : Tab α) :
    tfind j (tins k v t) = tfind j t := by simp [tfind_tins, h]

theorem tfind_tdel (j k : Nat) (t : Tab α) :
    tfind j (tdel k t) = if j = k then none else tfind j t := by
  induction t with
  | nil => simp [tdel]
  | cons p t ih =>
    obtain ⟨i, x⟩ := p
    simp only [tdel]
    split
    · next h => rw [ih]; simp only [tfind]; grind
    · simp only [tfind, ih]; grind

@[simp] theorem tfind_tdel_same (k : Nat) (t : Tab α) : tfind k (tdel k t) = none := by
  simp [tfind_tdel]

theorem tfind_tdel_other {j k : Nat} (h : j ≠ k) (t : Tab α) :
    tfind j (tdel k t) = tfind j t := by simp [tfind_tdel, h]

@[simp] theorem tdel_nil (k : Nat) : tdel k ([] : Tab α) = [] := rfl

/-- A read after a write: the value written at its key, every other key as before. -/
theorem tget_tput [DecidableEq α] (d : α) (j k : Nat) (v : α) (t : Tab α) :
    tget d j (tput d k v t) = if j = k then v else tget d j t := by
  unfold tput
  split
  · next h => subst h; simp only [tget, tfind_tdel]; split <;> simp
  · simp only [tget, tfind_tins]; split <;> simp

@[simp] theorem tget_tput_same [DecidableEq α] (d : α) (k : Nat) (v : α) (t : Tab α) :
    tget d k (tput d k v t) = v := by simp [tget_tput]

theorem tget_tput_other [DecidableEq α] {j k : Nat} (h : j ≠ k) (d v : α) (t : Tab α) :
    tget d j (tput d k v t) = tget d j t := by simp [tget_tput, h]

theorem tfind_tmap (f : Nat → α → α) (k : Nat) (t : Tab α) :
    tfind k (tmap f t) = (tfind k t).map (f k) := by
  induction t with
  | nil => rfl
  | cons p t ih =>
    obtain ⟨i, x⟩ := p
    simp only [tmap, List.map_cons, tfind]
    split
    · next h => subst h; rfl
    · exact ih

/-! ## The canonical form -/

/-- Every key of a table lies above a bound. -/
def tabove (lo : Nat) (t : Tab α) : Prop := ∀ p ∈ t, lo < p.1

theorem tsorted_cons (j : Nat) (x : α) (t : Tab α) :
    tsorted ((j, x) :: t) = true ↔ tabove j t ∧ tsorted t = true := by
  induction t generalizing j x with
  | nil => simp [tsorted, tabove]
  | cons p t ih =>
    obtain ⟨i, y⟩ := p
    simp only [tsorted, Bool.and_eq_true, decide_eq_true_eq]
    constructor
    · rintro ⟨h, hs⟩
      refine ⟨?_, hs⟩
      have := (ih i y).1 hs
      intro q hq
      rcases List.mem_cons.1 hq with rfl | hq
      · exact h
      · exact Nat.lt_trans h (this.1 q hq)
    · rintro ⟨h, hs⟩
      exact ⟨h (i, y) (by simp), hs⟩

theorem mem_tins {p : Nat × α} {k : Nat} {v : α} {t : Tab α} (h : p ∈ tins k v t) :
    p = (k, v) ∨ p ∈ t := by
  induction t with
  | nil => simpa [tins] using h
  | cons q t ih =>
    obtain ⟨i, x⟩ := q
    simp only [tins] at h
    split at h
    · rcases List.mem_cons.1 h with h | h
      · exact .inl h
      · exact .inr (List.mem_cons_of_mem _ h)
    · split at h
      · rcases List.mem_cons.1 h with h | h
        · exact .inl h
        · exact .inr h
      · rcases List.mem_cons.1 h with h | h
        · exact .inr (by simp [h])
        · rcases ih h with h | h
          · exact .inl h
          · exact .inr (List.mem_cons_of_mem _ h)

theorem mem_tdel {p : Nat × α} {k : Nat} {t : Tab α} (h : p ∈ tdel k t) : p ∈ t := by
  induction t with
  | nil => simp [tdel] at h
  | cons q t ih =>
    obtain ⟨i, x⟩ := q
    simp only [tdel] at h
    split at h
    · exact List.mem_cons_of_mem _ (ih h)
    · rcases List.mem_cons.1 h with h | h
      · simp [h]
      · exact List.mem_cons_of_mem _ (ih h)

theorem tsorted_tins (k : Nat) (v : α) (t : Tab α) (h : tsorted t = true) :
    tsorted (tins k v t) = true := by
  induction t with
  | nil => rfl
  | cons q t ih =>
    obtain ⟨i, x⟩ := q
    obtain ⟨ha, hs⟩ := (tsorted_cons i x t).1 h
    simp only [tins]
    split
    · next e => subst e; exact (tsorted_cons i v t).2 ⟨ha, hs⟩
    · next e =>
      split
      · next hlt =>
        refine (tsorted_cons k v _).2 ⟨?_, h⟩
        intro p hp
        rcases List.mem_cons.1 hp with rfl | hp
        · exact hlt
        · exact Nat.lt_trans hlt (ha p hp)
      · next hge =>
        refine (tsorted_cons i x _).2 ⟨?_, ih hs⟩
        intro p hp
        rcases mem_tins hp with rfl | hp
        · show i < k; omega
        · exact ha p hp

theorem tsorted_tdel (k : Nat) (t : Tab α) (h : tsorted t = true) :
    tsorted (tdel k t) = true := by
  induction t with
  | nil => rfl
  | cons q t ih =>
    obtain ⟨i, x⟩ := q
    obtain ⟨ha, hs⟩ := (tsorted_cons i x t).1 h
    simp only [tdel]
    split
    · exact ih hs
    · exact (tsorted_cons i x _).2 ⟨fun p hp => ha p (mem_tdel hp), ih hs⟩

theorem tsorted_tput [DecidableEq α] (d : α) (k : Nat) (v : α) (t : Tab α)
    (h : tsorted t = true) : tsorted (tput d k v t) = true := by
  unfold tput
  split
  · exact tsorted_tdel k t h
  · exact tsorted_tins k v t h

end Sys2Proof.Machine
end

