-- ==== Sys2Proof/Laws/Group.lean ====
section
/-!
SUPPORT. Registers of a group: writes in flight, their landing, and what a read gives after them
(R101, R104).
-/

namespace Sys2Proof.Machine

/-! ## Writes in flight -/

theorem cancel_of_no_flights (g : Group) (h : g.flights = []) (k : RegKind) (r : Nat) (b : Bool)
    (l : Word) : g.cancel k r b l = g := by
  cases g; simp_all [Group.cancel]

/-- The latest write of a group that has no other write in flight. -/
theorem fly_of_no_flights (g : Group) (h : g.flights = []) (L : Nat) (k : RegKind) (r : Nat)
    (lanes val : Word) (vec : Tab Lane) :
    g.fly L k r lanes val vec =
      if lanes = 0 then g
      else
        { g with
          flights := [{ kind := k, reg := r, bank := g.banked k r, lanes, left := L, val, vec }] } := by
  simp only [Group.fly, cancel_of_no_flights g h]
  split
  · rfl
  · simp [h]

theorem age_of_no_flights (g : Group) (h : g.flights = []) (k : Nat) : g.age k = g := by
  cases g; simp_all [Group.age]

@[simp] theorem land1_left (g : Group) (f : Flight) (n : Nat) :
    g.land1 { f with left := n } = g.land1 f := by
  cases f; rfl

/-- Writes whose latency has passed take their registers, oldest first. -/
theorem age_of_due (g : Group) (k : Nat) (h : ∀ f ∈ g.flights, f.left ≤ k) :
    g.age k = g.flights.foldl Group.land1 { g with flights := [] } := by
  simp only [Group.age]
  have h1 : (g.flights.map fun f => { f with left := f.left - k }).filter
      (fun f => decide (f.left = 0)) = g.flights.map fun f => { f with left := f.left - k } := by
    rw [List.filter_eq_self]
    intro f hf
    obtain ⟨x, hx, rfl⟩ := List.mem_map.1 hf
    have := h x hx
    simp; omega
  have h2 : (g.flights.map fun f => { f with left := f.left - k }).filter
      (fun f => decide (f.left ≠ 0)) = [] := by
    rw [List.filter_eq_nil_iff]
    intro f hf
    obtain ⟨x, hx, rfl⟩ := List.mem_map.1 hf
    have := h x hx
    simp; omega
  rw [h1, h2, List.foldl_map]
  simp

/-- Writes whose latency has not passed stay in flight. -/
theorem age_of_not_due (g : Group) (k : Nat) (h : ∀ f ∈ g.flights, k < f.left) :
    g.age k = { g with flights := g.flights.map fun f => { f with left := f.left - k } } := by
  simp only [Group.age]
  have h1 : (g.flights.map fun f => { f with left := f.left - k }).filter
      (fun f => decide (f.left = 0)) = [] := by
    rw [List.filter_eq_nil_iff]
    intro f hf
    obtain ⟨x, hx, rfl⟩ := List.mem_map.1 hf
    have := h x hx
    simp; omega
  have h2 : (g.flights.map fun f => { f with left := f.left - k }).filter
      (fun f => decide (f.left ≠ 0)) = g.flights.map fun f => { f with left := f.left - k } := by
    rw [List.filter_eq_self]
    intro f hf
    obtain ⟨x, hx, rfl⟩ := List.mem_map.1 hf
    have := h x hx
    simp; omega
  rw [h1, h2]
  rfl

/-! ## Reads after writes -/

theorem s_eq_sIn (g : Group) (r : Nat) : g.s r = g.sIn (g.banked .scalar r) r := by
  unfold Group.s Group.sIn; cases g.banked .scalar r <;> rfl

theorem m_eq_mIn (g : Group) (r : Nat) : g.m r = g.mIn (g.banked .mask r) r := by
  unfold Group.m Group.mIn; cases g.banked .mask r <;> rfl

/-- A scalar write changes the bits it names of its register in its bank. -/
theorem setS_sIn (g : Group) (b : Bool) (r : Nat) (lanes v : Word) (c : Bool) (j : Nat) :
    (g.setS b r lanes v).sIn c j =
      if c = b ∧ j = r then (g.sIn b r &&& ~~~lanes) ||| (v &&& lanes) else g.sIn c j := by
  unfold Group.setS Group.sIn
  cases b <;> cases c <;> simp [tget_tput]

/-- A mask write changes the bits it names of its register in its bank, cleared under R46. -/
theorem setM_mIn (g : Group) (b : Bool) (r : Nat) (lanes v : Word) (c : Bool) (j : Nat) :
    (g.setM b r lanes v).mIn c j =
      if c = b ∧ j = r then g.clip ((g.mIn b r &&& ~~~lanes) ||| (v &&& lanes))
      else g.mIn c j := by
  unfold Group.setM Group.mIn
  cases b <;> cases c <;> simp [tget_tput]

theorem setV1_v (g : Group) (r l j i : Nat) (x : Lane) :
    (g.setV1 r l x).v j i = if 64 * j + i = 64 * r + l then x else g.v j i :=
  tget_tput _ _ _ _ _

theorem mem_lanesOf (x : Word) (l : Nat) : l ∈ lanesOf x ↔ l < 64 ∧ bit x l = true := by
  simp [lanesOf, upto]

/-- A vector write changes the lanes it names of its register. -/
theorem setV_v (g : Group) (r : Nat) (lanes : Word) (x : Nat → Lane) (j i : Nat) (hi : i < 64) :
    (g.setV r lanes x).v j i = if j = r ∧ bit lanes i = true then x i else g.v j i := by
  have key : ∀ (ls : List Nat) (g : Group), (∀ l ∈ ls, l < 64) →
      (ls.foldl (fun g l => g.setV1 r l (x l)) g).v j i =
        if j = r ∧ i ∈ ls then x i else g.v j i := by
    intro ls
    induction ls with
    | nil => intro g _; simp
    | cons l t ih =>
      intro g hl
      rw [List.foldl_cons, ih _ fun k hk => hl k (List.mem_cons_of_mem _ hk), setV1_v]
      have hl64 : l < 64 := hl l (by simp)
      by_cases hj : j = r
      · subst hj
        by_cases hil : i = l
        · subst hil; simp
        · simp [hil]
      · have : 64 * j + i ≠ 64 * r + l := by omega
        simp [hj, this]
  rw [Group.setV, key _ _ fun l hl => ((mem_lanesOf lanes l).1 hl).1]
  simp [mem_lanesOf, hi]

/-! ## What a register write leaves alone -/

@[simp] theorem setS_apart (g : Group) (b : Bool) (r : Nat) (lanes v : Word) :
    (g.setS b r lanes v).apart = g.apart := by
  unfold Group.setS; cases b <;> rfl

@[simp] theorem setM_apart (g : Group) (b : Bool) (r : Nat) (lanes v : Word) :
    (g.setM b r lanes v).apart = g.apart := by
  unfold Group.setM; cases b <;> rfl

@[simp] theorem setV1_apart (g : Group) (r l : Nat) (x : Lane) :
    (g.setV1 r l x).apart = g.apart := rfl

@[simp] theorem setV_apart (g : Group) (r : Nat) (lanes : Word) (x : Nat → Lane) :
    (g.setV r lanes x).apart = g.apart := by
  unfold Group.setV
  induction lanesOf lanes generalizing g with
  | nil => rfl
  | cons l t ih => rw [List.foldl_cons, ih]; rfl

@[simp] theorem land1_apart (g : Group) (f : Flight) : (g.land1 f).apart = g.apart := by
  obtain ⟨k, r, b, l, n, v, x⟩ := f
  cases k
  · exact setS_apart g b r l v
  · exact setV_apart g r l _
  · exact setM_apart g b r l v
  · rfl

/-- A landing changes nothing of a group but registers, flags and poison marks. -/
@[simp] theorem landAll_apart (fs : List Flight) (g : Group) :
    (fs.foldl Group.land1 g).apart = g.apart := by
  induction fs generalizing g with
  | nil => rfl
  | cons f t ih => rw [List.foldl_cons, ih, land1_apart]

/-! ## The group after an issue -/

/-- Two groups with the same registers, flags and poison marks, and the same live lanes. -/
structure Group.SameRegs (g h : Group) : Prop where
  sreg : g.sreg = h.sreg
  hsreg : g.hsreg = h.hsreg
  vreg : g.vreg = h.vreg
  mreg : g.mreg = h.mreg
  hmreg : g.hmreg = h.hmreg
  sfl : g.sfl = h.sfl
  poison : g.poison = h.poison
  live : g.live = h.live

theorem Group.SameRegs.refl (g : Group) : g.SameRegs g := ⟨rfl, rfl, rfl, rfl, rfl, rfl, rfl, rfl⟩

theorem Group.SameRegs.trans {g h k : Group} (a : g.SameRegs h) (b : h.SameRegs k) :
    g.SameRegs k :=
  ⟨a.1.trans b.1, a.2.trans b.2, a.3.trans b.3, a.4.trans b.4, a.5.trans b.5, a.6.trans b.6,
    a.7.trans b.7, a.8.trans b.8⟩

theorem Group.SameRegs.setS {g h : Group} (e : g.SameRegs h) (b : Bool) (r : Nat) (l v : Word) :
    (g.setS b r l v).SameRegs (h.setS b r l v) := by
  obtain ⟨e1, e2, e3, e4, e5, e6, e7, e8⟩ := e
  unfold Group.setS
  cases b <;> constructor <;> simp [*]

theorem Group.SameRegs.setM {g h : Group} (e : g.SameRegs h) (b : Bool) (r : Nat) (l v : Word) :
    (g.setM b r l v).SameRegs (h.setM b r l v) := by
  obtain ⟨e1, e2, e3, e4, e5, e6, e7, e8⟩ := e
  unfold Group.setM Group.clip
  cases b <;> constructor <;> simp [*]

theorem Group.SameRegs.setV1 {g h : Group} (e : g.SameRegs h) (r l : Nat) (x : Lane) :
    (g.setV1 r l x).SameRegs (h.setV1 r l x) := by
  obtain ⟨e1, e2, e3, e4, e5, e6, e7, e8⟩ := e
  unfold Group.setV1
  constructor <;> simp [*]

theorem Group.SameRegs.setV {g h : Group} (e : g.SameRegs h) (r : Nat) (l : Word)
    (x : Nat → Lane) : (g.setV r l x).SameRegs (h.setV r l x) := by
  unfold Group.setV
  induction lanesOf l generalizing g h with
  | nil => exact e
  | cons i t ih => exact ih (e.setV1 r i (x i))

theorem Group.SameRegs.land1 {g h : Group} (e : g.SameRegs h) (f : Flight) :
    (g.land1 f).SameRegs (h.land1 f) := by
  obtain ⟨k, r, b, l, n, v, x⟩ := f
  cases k
  · exact e.setS b r l v
  · exact e.setV r l _
  · exact e.setM b r l v
  · obtain ⟨e1, e2, e3, e4, e5, e6, e7, e8⟩ := e
    unfold Group.land1
    constructor <;> simp [*]

theorem Group.SameRegs.landAll {g h : Group} (e : g.SameRegs h) (fs : List Flight) :
    (fs.foldl Group.land1 g).SameRegs (fs.foldl Group.land1 h) := by
  induction fs generalizing g h with
  | nil => exact e
  | cons f t ih => exact ih (e.land1 f)

theorem Group.SameRegs.sIn {g h : Group} (e : g.SameRegs h) (b : Bool) (r : Nat) :
    g.sIn b r = h.sIn b r := by unfold Group.sIn; rw [e.sreg, e.hsreg]

theorem Group.SameRegs.mIn {g h : Group} (e : g.SameRegs h) (b : Bool) (r : Nat) :
    g.mIn b r = h.mIn b r := by unfold Group.mIn; rw [e.mreg, e.hmreg]

theorem Group.SameRegs.v {g h : Group} (e : g.SameRegs h) (r l : Nat) : g.v r l = h.v r l := by
  unfold Group.v; rw [e.vreg]

/-- What an issue does to a group beside ageing its writes. -/
def Group.moved (step cycle : Nat) (pc : Pc) (g : Group) : Group :=
  ({ g.unready with
    pc := pc, lastPc := g.pc, readyAt := cycle + step, held := false, rel := none, half := 0
    walked := [], wait := .none, left := none, run := g.run.map fun (r : RunCtx) => { r with budget := r.budget + 1 } }).countSkid

/-- A group with the writes it has in flight landed. -/
def Group.flown (g : Group) : Group := g.flights.foldl Group.land1 { g with flights := [] }

theorem landAll_flights (fs : List Flight) (g : Group) :
    (fs.foldl Group.land1 g).flights = g.flights := by
  have h := congrArg Group.flights (landAll_apart fs g)
  exact h

@[simp] theorem flown_flights (g : Group) : g.flown.flights = [] := landAll_flights _ _

theorem flown_apart (g : Group) : g.flown.apart = { g with flights := [] }.apart :=
  landAll_apart _ _

theorem age_pc (g : Group) (k : Nat) : (g.age k).pc = g.pc := by
  unfold Group.age
  dsimp only
  generalize hx : List.filter _ _ = fs
  generalize hy : List.filter _ _ = fl
  have h := congrArg Group.pc (landAll_apart fl { g with flights := fs })
  exact h

theorem age_run (g : Group) (k : Nat) : (g.age k).run = g.run := by
  unfold Group.age
  dsimp only
  generalize hx : List.filter _ _ = fs
  generalize hy : List.filter _ _ = fl
  have h := congrArg Group.run (landAll_apart fl { g with flights := fs })
  exact h

theorem after_eq (g : Group) (step cycle : Nat) (pc : Pc) :
    g.after step cycle pc = (g.age step).moved step cycle pc := by
  unfold Group.after Group.moved
  rw [age_pc g step, age_run g step]

theorem moved_sameRegs (g : Group) (step cycle : Nat) (pc : Pc) :
    (g.moved step cycle pc).SameRegs g := by
  exact ⟨rfl, rfl, rfl, rfl, rfl, rfl, rfl, rfl⟩

theorem moved_flights (g : Group) (step cycle : Nat) (pc : Pc) :
    (g.moved step cycle pc).flights = g.flights := rfl

theorem moved_apart (g : Group) (step cycle : Nat) (pc : Pc) :
    (g.moved step cycle pc).apart = g.apart.moved step cycle pc := rfl

/-- Writes that all have one latency, no greater than 8, have landed eight steps after the issue:
the registers are those of `flown`, and the rest is as the issue left it. -/
theorem settled_after (g : Group) (step cycle : Nat) (pc : Pc) (L : Nat) (hL : L ≤ 8)
    (hf : ∀ f ∈ g.flights, f.left = L) :
    ((g.after step cycle pc).age 8).SameRegs g.flown ∧
      ((g.after step cycle pc).age 8).apart =
        ({ g with flights := [] } : Group).apart.moved step cycle pc := by
  rw [after_eq]
  by_cases hs : L ≤ step
  · have h1 : g.age step = g.flown := age_of_due g step fun f h => by rw [hf f h]; exact hs
    rw [h1, age_of_no_flights _ (by rw [moved_flights, flown_flights])]
    exact ⟨moved_sameRegs _ _ _ _, by rw [moved_apart, flown_apart]⟩
  · have h1 := age_of_not_due g step fun f h => by rw [hf f h]; omega
    rw [h1]
    rw [age_of_due _ 8 (by
      intro f h
      rw [moved_flights] at h
      obtain ⟨x, hx, rfl⟩ := List.mem_map.1 h
      have := hf x hx
      show x.left - step ≤ 8
      omega)]
    rw [moved_flights]
    constructor
    · have h2 : ∀ (fs : List Flight) (h : Group),
          (fs.map fun f => { f with left := f.left - step }).foldl Group.land1 h =
            fs.foldl Group.land1 h := by
        intro fs h; rw [List.foldl_map]; rfl
      rw [h2]
      refine Group.SameRegs.landAll ?_ _
      have h3 := moved_sameRegs { g with flights := g.flights.map fun f =>
        { f with left := f.left - step } } step cycle pc
      exact ⟨h3.1, h3.2, h3.3, h3.4, h3.5, h3.6, h3.7, h3.8⟩
    · rw [landAll_apart]
      have h4 : ∀ (a : Group) , ({ a.moved step cycle pc with flights := [] } : Group).apart =
          ({ a with flights := [] } : Group).apart.moved step cycle pc := by
        intro a; rfl
      exact h4 _

end Sys2Proof.Machine
end

