-- ==== Sys2Proof/Laws/Memory.lean ====
section
/-!
SUPPORT. Near memory: a read after a write, the canonical form, and how a turn changes it.
-/

namespace Sys2Proof.Machine

theorem memRead_memWrite (m : List Host.Cell) (j k : Nat) (b : Byte) :
    memRead (memWrite m k b) j = if j = k then b else memRead m j :=
  tget_tput _ _ _ _ _

@[simp] theorem memRead_memWrite_same (m : List Host.Cell) (a : Nat) (b : Byte) :
    memRead (memWrite m a b) a = b := by simp [memRead_memWrite]

theorem memRead_memWrite_other (m : List Host.Cell) {j k : Nat} (h : j ≠ k) (b : Byte) :
    memRead (memWrite m k b) j = memRead m j := by simp [memRead_memWrite, h]

/-- A memory write keeps the canonical form. -/
theorem memWrite_wf (m : List Host.Cell) (a : Nat) (b : Byte) (h : Memory.wf m = true) :
    Memory.wf (memWrite m a b) = true := by
  simp only [Memory.wf, Bool.and_eq_true, List.all_eq_true, decide_eq_true_eq] at h ⊢
  refine ⟨tsorted_tput _ _ _ _ h.1, ?_⟩
  intro c hc
  unfold memWrite tput at hc
  split at hc
  · exact h.2 c (mem_tdel hc)
  · next hb =>
    rcases mem_tins hc with rfl | hc
    · exact hb
    · exact h.2 c hc

/-- The bytes of a turn keep the canonical form. -/
theorem applyLog_wf (m log : List Host.Cell) (h : Memory.wf m = true) :
    Memory.wf (applyLog m log) = true := by
  induction log with
  | nil => exact h
  | cons c t ih => exact memWrite_wf _ _ _ ih

@[simp] theorem applyLog_nil (m : List Host.Cell) : applyLog m [] = m := rfl

@[simp] theorem applyLog_cons (m t : List Host.Cell) (c : Host.Cell) :
    applyLog m (c :: t) = memWrite (applyLog m t) c.1 c.2 := rfl

/-- What a byte reads as after a turn: the newest byte the turn logged there, else as before. -/
theorem memRead_applyLog (m log : List Host.Cell) (a : Nat) :
    memRead (applyLog m log) a = (tfind a log).getD (memRead m a) := by
  induction log with
  | nil => rfl
  | cons c t ih =>
    rw [applyLog_cons, memRead_memWrite, ih]
    obtain ⟨k, b⟩ := c
    simp only [tfind]
    by_cases hk : k = a
    · simp [hk]
    · simp [hk, Ne.symm hk]

/-- `Work.byte` is what the byte will read as when the turn ends. -/
theorem memRead_commit (s : State) (w : Work) (a : Nat) :
    memRead (commit s w).mem a = (tfind a w.log).getD (memRead s.mem a) :=
  memRead_applyLog _ _ _

/-- Every end of a turn keeps the canonical form. -/
theorem commit_wf (s : State) (w : Work) (h : Memory.wf s.mem = true) :
    Memory.wf (commit s w).mem = true := applyLog_wf _ _ h

/-- A turn that logs nothing leaves near memory as it was. -/
theorem commit_mem (s : State) (w : Work) (h : w.log = []) : (commit s w).mem = s.mem := by
  simp [commit, h]

@[simp] theorem commit_work (s : State) : commit s s.work = s := rfl

@[simp] theorem work_byte (s : State) (a : Nat) : s.work.byte a = memRead s.mem a := rfl

/-! ## Events and issues keep the canonical form -/

theorem event_keeps (s t : State) (f : Work → Work) (h : Memory.wf s.mem = true)
    (e : event s f = .next t) : Memory.wf t.mem = true := by
  cases e; exact commit_wf _ _ h

theorem next_keeps (s t : State) (h : Memory.wf s.mem = true)
    (e : (.next s : Host.Outcome State Fault Refusal) = .next t) : Memory.wf t.mem = true := by
  cases e; exact h

theorem issue_keeps (f : Form) (need : Work → Group → Need)
    (body : Work → Nat → Nat → Group → Res) (s t : State) (h : Memory.wf s.mem = true)
    (e : issue f need body s = .next t) : Memory.wf t.mem = true := by
  unfold issue at e
  dsimp only at e
  split at e
  · cases e
  · cases e; exact commit_wf _ _ h

theorem issueLocal_keeps (f : Form) (need : Group → Need) (body : Group → Group) (s t : State)
    (h : Memory.wf s.mem = true) (e : issueLocal f need body s = .next t) :
    Memory.wf t.mem = true := issue_keeps _ _ _ _ _ h e

end Sys2Proof.Machine
end

