-- ==== Sys2Proof/Laws/Issue.lean ====
section
/-!
SUPPORT. The issue pipeline (R96): what each of its outcomes does, and the tables of the package
after an update.
-/

namespace Sys2Proof.Machine

/-! ## Tables of the package -/

theorem core_setCore (w : Work) (c d : Nat) (k : Core) :
    (w.setCore c k).core d = if d = c then k else w.core d := tget_tput _ _ _ _ _

@[simp] theorem core_setCore_same (w : Work) (c : Nat) (k : Core) :
    (w.setCore c k).core c = k := by simp [core_setCore]

theorem core_modCore (w : Work) (c d : Nat) (f : Core → Core) :
    (w.modCore c f).core d = if d = c then f (w.core c) else w.core d := core_setCore _ _ _ _

theorem cluster_setCluster (w : Work) (c d : Nat) (k : Cluster) :
    (w.setCluster c k).cluster d = if d = c then k else w.cluster d := tget_tput _ _ _ _ _

theorem cluster_modCluster (w : Work) (c d : Nat) (f : Cluster → Cluster) :
    (w.modCluster c f).cluster d = if d = c then f (w.cluster c) else w.cluster d :=
  cluster_setCluster _ _ _ _

theorem die_setDie (w : Work) (c d : Nat) (k : Die) :
    (w.setDie c k).die d = if d = c then k else w.die d := tget_tput _ _ _ _ _

theorem grp_setGrp (w : Work) (c n d m : Nat) (g : Group) :
    (w.setGrp c n g).grp d m = if d = c ∧ m = n then some g else w.grp d m := by
  unfold Work.setGrp Work.grp
  rw [core_modCore]
  by_cases hd : d = c
  · subst hd; simp [tfind_tins]
  · simp [hd]

@[simp] theorem grp_setGrp_same (w : Work) (c n : Nat) (g : Group) :
    (w.setGrp c n g).grp c n = some g := by simp [grp_setGrp]

@[simp] theorem core_modCluster (w : Work) (c d : Nat) (f : Cluster → Cluster) :
    (w.modCluster c f).core d = w.core d := rfl

@[simp] theorem grp_modCluster (w : Work) (c d n : Nat) (f : Cluster → Cluster) :
    (w.modCluster c f).grp d n = w.grp d n := rfl

@[simp] theorem core_debit (w : Work) (c wt d : Nat) : (w.debit c wt).core d = w.core d := by
  unfold Work.debit; split <;> rfl

@[simp] theorem grp_debit (w : Work) (c wt d n : Nat) : (w.debit c wt).grp d n = w.grp d n := by
  unfold Work.debit; split <;> rfl

/-- Counting an issue changes no group. -/
@[simp] theorem grp_account (w : Work) (c slot : Nat) (g : Group) (wt d n : Nat) :
    (w.account c slot g wt).grp d n = w.grp d n := by
  have h : ∀ f : Core → Core, (∀ k, (f k).groups = k.groups) →
      (w.modCore c f).grp d n = w.grp d n := by
    intro f hf
    unfold Work.grp
    rw [core_modCore]
    split
    · next e => rw [hf, e]
    · rfl
  unfold Work.account
  dsimp only
  rw [grp_debit]
  split
  · exact h _ fun _ => rfl
  · rw [grp_modCluster]; exact h _ fun _ => rfl

@[simp] theorem log_account (w : Work) (c slot : Nat) (g : Group) (wt : Nat) :
    (w.account c slot g wt).log = w.log := by
  unfold Work.account Work.debit
  dsimp only
  split <;> split <;> rfl

@[simp] theorem log_setGrp (w : Work) (c n : Nat) (g : Group) : (w.setGrp c n g).log = w.log := rfl

/-! ## What an issue leaves alone -/

theorem rest_setCore (w : Work) (c : Nat) (k : Core) :
    (w.setCore c k).toMach.rest = w.toMach.rest := rfl

theorem rest_modCore (w : Work) (c : Nat) (f : Core → Core) :
    (w.modCore c f).toMach.rest = w.toMach.rest := rfl

theorem rest_setGrp (w : Work) (c n : Nat) (g : Group) :
    (w.setGrp c n g).toMach.rest = w.toMach.rest := rfl

theorem rest_modCluster (w : Work) (c : Nat) (f : Cluster → Cluster) :
    (w.modCluster c f).toMach.rest = w.toMach.rest := rfl

theorem rest_debit (w : Work) (c wt : Nat) : (w.debit c wt).toMach.rest = w.toMach.rest := by
  unfold Work.debit; split
  · rfl
  · exact rest_modCluster _ _ _

theorem rest_account (w : Work) (c slot : Nat) (g : Group) (wt : Nat) :
    (w.account c slot g wt).toMach.rest = w.toMach.rest := by
  unfold Work.account
  dsimp only
  rw [rest_debit]
  split
  · exact rest_modCore _ _ _
  · exact (rest_modCluster _ _ _).trans (rest_modCore _ _ _)

theorem core_setGrp_other (w : Work) (c n d : Nat) (g : Group) (h : d ≠ c) :
    (w.setGrp c n g).core d = w.core d := by
  unfold Work.setGrp; rw [core_modCore, if_neg h]

theorem core_setGrp_rest (w : Work) (c n d : Nat) (g : Group) :
    ((w.setGrp c n g).core d).rest = (w.core d).rest := by
  unfold Work.setGrp
  rw [core_modCore]
  split
  · next h => subst h; rfl
  · rfl

theorem core_account_other (w : Work) (c slot d : Nat) (g : Group) (wt : Nat) (h : d ≠ c) :
    (w.account c slot g wt).core d = w.core d := by
  unfold Work.account
  dsimp only
  rw [core_debit]
  split
  · rw [core_modCore, if_neg h]
  · rw [core_modCluster, core_modCore, if_neg h]

theorem core_account_rest (w : Work) (c slot d : Nat) (g : Group) (wt : Nat) :
    ((w.account c slot g wt).core d).rest = (w.core d).rest := by
  unfold Work.account
  dsimp only
  rw [core_debit]
  split
  · rw [core_modCore]
    split
    · next h => subst h; rfl
    · rfl
  · rw [core_modCluster, core_modCore]
    split
    · next h => subst h; rfl
    · rfl

@[simp] theorem cluster_setGrp (w : Work) (c n d : Nat) (g : Group) :
    (w.setGrp c n g).cluster d = w.cluster d := rfl

theorem cluster_debit (w : Work) (c wt d : Nat) :
    ((w.debit c wt).cluster d).rest = (w.cluster d).rest ∧
      (d ≠ Config.clusterOf c → (w.debit c wt).cluster d = w.cluster d) := by
  unfold Work.debit
  split
  · exact ⟨rfl, fun _ => rfl⟩
  · rw [cluster_modCluster]
    split
    · next h => subst h; exact ⟨rfl, fun e => absurd rfl e⟩
    · exact ⟨rfl, fun _ => rfl⟩

theorem cluster_account (w : Work) (c slot wt d : Nat) (g : Group) :
    ((w.account c slot g wt).cluster d).rest = (w.cluster d).rest ∧
      (d ≠ Config.clusterOf c → (w.account c slot g wt).cluster d = w.cluster d) := by
  unfold Work.account
  dsimp only
  refine ⟨?_, fun h => ?_⟩
  · rw [(cluster_debit _ _ _ _).1]
    split
    · rfl
    · rw [cluster_modCluster]
      split
      · next h => subst h; rfl
      · rfl
  · rw [(cluster_debit _ _ _ _).2 h]
    split
    · rfl
    · rw [cluster_modCluster, if_neg h]; rfl

/-- The group that an issue leaves in its slot. -/
theorem grp_finish (f : Form) (w : Work) (c slot : Nat) (g : Group) (pc : Pc) :
    (finish f w c slot g pc).grp c slot = some (g.after f.step (w.core c).cycle pc) := by
  simp [finish]

/-- An issue changes no other group. -/
theorem grp_finish_other (f : Form) (w : Work) (c slot : Nat) (g : Group) (pc : Pc) (d n : Nat)
    (h : ¬(d = c ∧ n = slot)) : (finish f w c slot g pc).grp d n = w.grp d n := by
  simp [finish, grp_setGrp, h]

@[simp] theorem log_finish (f : Form) (w : Work) (c slot : Nat) (g : Group) (pc : Pc) :
    (finish f w c slot g pc).log = w.log := by simp [finish]

/-- Nothing but the group in slot `n` of core `c`, the issue slots of the core's cycle, and the
power allowance of its cluster differs after an issue. -/
theorem rest_finish (f : Form) (w : Work) (c n : Nat) (g : Group) (pc : Pc) :
    (finish f w c n g pc).toMach.rest = w.toMach.rest := rest_account _ _ _ _ _

theorem core_finish_other (f : Form) (w : Work) (c n d : Nat) (g : Group) (pc : Pc) (h : d ≠ c) :
    (finish f w c n g pc).core d = w.core d :=
  (core_account_other _ _ _ _ _ _ h).trans (core_setGrp_other _ _ _ _ _ h)

theorem core_finish_rest (f : Form) (w : Work) (c n d : Nat) (g : Group) (pc : Pc) :
    ((finish f w c n g pc).core d).rest = (w.core d).rest :=
  (core_account_rest _ _ _ _ _ _).trans (core_setGrp_rest _ _ _ _ _)

theorem cluster_finish (f : Form) (w : Work) (c n d : Nat) (g : Group) (pc : Pc) :
    ((finish f w c n g pc).cluster d).rest = (w.cluster d).rest ∧
      (d ≠ Config.clusterOf c → (finish f w c n g pc).cluster d = w.cluster d) :=
  cluster_account _ _ _ _ _ _

/-! ## The three stages of R96 -/

theorem Group.Quiet.deferOn {g : Group} (h : g.Quiet) (u : Use) : g.deferOn u = false := by
  simp [Group.deferOn, h.deferred]

theorem Group.Quiet.pendOn {g : Group} (h : g.Quiet) (u : Use) : g.pendOn u = none := by
  simp [Group.pendOn, h.pend]

theorem Group.Quiet.flightOn {g : Group} (h : g.Quiet) (u : Use) : g.flightOn u = false := by
  simp [Group.flightOn, h.flights]

theorem Group.Quiet.lockedOn {g : Group} (h : g.Quiet) (u : Use) : g.lockedOn u = false := by
  simp [Group.lockedOn, h.locked]

theorem maskOf_false : maskOf (fun _ => false) = 0 := by decide

theorem Group.Quiet.poisoned {g : Group} (h : g.Quiet) (u : Use) : g.poisoned u = none := by
  have h0 : g.poisonOn u = 0 := by
    unfold Group.poisonOn
    split
    · rw [h.poison]; simpa using maskOf_false
    · rfl
  unfold Group.poisoned
  cases u.kind <;> simp only [h.poison, h0, tfind_nil, Option.map_none]
  cases lanesOf 0 <;> rfl

/-- The register checks pass for a quiet group. -/
theorem operandStage_quiet (w : Work) (c : Nat) (g : Group) (n : Need) (h : g.Quiet) :
    operandStage w c g n = .ok := by
  have h1 : ∀ l : List Use, l.find? (fun u => g.deferOn u) = none := by
    intro l; rw [List.find?_eq_none]; intro u _; simp [h.deferOn]
  have h2 : ∀ l : List Use, l.filterMap g.pendOn = [] := by
    intro l; rw [List.filterMap_eq_nil_iff]; intro u _; exact h.pendOn u
  have h3 : ∀ l : List Use, l.any g.lockedOn = false := by
    intro l; rw [List.any_eq_false]; intro u _; simp [h.lockedOn]
  have h4 : ∀ l : List Use, l.findSome? g.poisoned = none := by
    intro l; rw [List.findSome?_eq_none_iff]; intro u _; exact h.poisoned u
  have h5 : ∀ l : List Use,
      l.find? (fun u => g.flightOn u || (g.pendOn u).isSome) = none := by
    intro l; rw [List.find?_eq_none]; intro u _; simp [h.flightOn, h.pendOn]
  have h6 : ∀ l : List Use,
      l.find? (fun u => (g.pendOn u).isSome || g.lockedOn u) = none := by
    intro l; rw [List.find?_eq_none]; intro u _; simp [h.lockedOn, h.pendOn]
  unfold operandStage
  simp only [h1, h2, h3, h4, h5, h6]
  cases g.chk <;> rfl

/-! ## The outcomes of an issue -/

/-- The checks of stage 1 and stage 2 pass. -/
structure Passes (w : Work) (c : Nat) (g : Group) (n : Need) : Prop where
  codes : n.codes = true
  regs : n.regs = true
  ctx : n.ctx = true
  ops : operandStage w c g n = .ok

theorem passes_quiet (w : Work) (c : Nat) (g : Group) (n : Need) (h : g.Quiet)
    (h1 : n.codes = true) (h2 : n.regs = true) (h3 : n.ctx = true) : Passes w c g n :=
  ⟨h1, h2, h3, operandStage_quiet w c g n h⟩

variable {f : Form} {need : Work → Group → Need} {body : Work → Nat → Nat → Group → Res}
variable {s : State} {c slot : Nat} {g : Group}

/-- What an issue answers, from the group that is issued. -/
theorem issue_eq (hc : s.cur = (c, slot)) (hg : s.work.grp c slot = some g) :
    issue f need body s = .next (commit s (issueGroup f need body s.work c slot g)) := by
  unfold issue
  simp [hc, hg]

/-- What the pipeline does with the answer of an instruction's own part. -/
def applyRes (f : Form) (w : Work) (c slot : Nat) (g : Group) : Res → Work
  | .done w g => finish f w c slot g (g.nextPc f.len)
  | .jump w g pc => finish f w c slot g pc
  | .trap cause info lanes => raiseTrap w c slot g cause info lanes
  | .trapWith w g cause info lanes => raiseTrap w c slot g cause info lanes
  | .illegal reason => raiseTrap w c slot g 0x01 (illegalInfo f.word reason) 0
  | .hold w g park => holdGroup w c slot g park
  | .wait w g wt =>
    (w.setGrp c slot { g.park wt with
      wstep := f.step, lastPc := g.pc
      skid := if g.haltAt.isSome then g.skid + 1 else g.skid }).account c slot g f.weight
  | .await w g wt park =>
    let g' := if park then g.park wt else { g.unready with wait := wt }
    (w.setGrp c slot { g' with
      wstep := f.step, lastPc := g.pc, held := true
      readyAt := (w.core c).cycle + f.step }).account c slot g f.weight
  | .halt g' cause =>
    if w.flagsPending c slot then holdGroup w c slot g none
    else (w.account c slot g f.weight).stopNow c slot g' cause

/-- An instruction that passes the checks does what its own part says. -/
theorem issueGroup_passes (w : Work) (h : Passes w c g (need w g)) :
    issueGroup f need body w c slot g = applyRes f w c slot g (body w c slot g) := by
  unfold issueGroup
  simp only [h.codes, h.regs, h.ctx, h.ops]
  cases body w c slot g <;> rfl

/-- R96: the first failing check of stage 1 decides the reason of the trap. -/
theorem issueGroup_illegal (w : Work) (reason : Nat)
    (h : reason =
      if !(need w g).codes then 3 else if !(need w g).regs then 5 else 6)
    (hf : ((need w g).codes && (need w g).regs && (need w g).ctx) = false) :
    issueGroup f need body w c slot g =
      raiseTrap w c slot g 0x01 (illegalInfo f.word reason) 0 := by
  unfold issueGroup
  subst h
  cases hc : (need w g).codes <;> cases hr : (need w g).regs <;> cases hx : (need w g).ctx <;>
    simp_all

/-- An instruction that issues: the group moves past it. -/
theorem issue_done {w' : Work} {g' : Group} (hc : s.cur = (c, slot))
    (hg : s.work.grp c slot = some g) (h : Passes s.work c g (need s.work g))
    (hb : body s.work c slot g = .done w' g') :
    issue f need body s = .next (commit s (finish f w' c slot g' (g'.nextPc f.len))) := by
  rw [issue_eq hc hg, issueGroup_passes _ h, hb]; rfl

/-- An instruction that transfers control. -/
theorem issue_jump {w' : Work} {g' : Group} {pc : Pc} (hc : s.cur = (c, slot))
    (hg : s.work.grp c slot = some g) (h : Passes s.work c g (need s.work g))
    (hb : body s.work c slot g = .jump w' g' pc) :
    issue f need body s = .next (commit s (finish f w' c slot g' pc)) := by
  rw [issue_eq hc hg, issueGroup_passes _ h, hb]; rfl

/-- An instruction whose effect lies in the group's own registers. -/
theorem issueLocal_done {nd : Group → Need} {b : Group → Group} (hc : s.cur = (c, slot))
    (hg : s.work.grp c slot = some g) (h : Passes s.work c g (nd g)) :
    issueLocal f nd b s =
      .next (commit s (finish f s.work c slot (b g) ((b g).nextPc f.len))) :=
  issue_done (need := fun _ g => nd g) (body := fun w _ _ g => .done w (b g)) hc hg h rfl

/-- Every issue of a group that is there answers a next state. -/
theorem issue_next (hg : s.work.grp s.cur.1 s.cur.2 = some g) :
    ∃ t, issue f need body s = .next t :=
  ⟨_, issue_eq (c := s.cur.1) (slot := s.cur.2) rfl hg⟩

end Sys2Proof.Machine
end

