-- ==== Sys2Proof/Laws/Land.lean ====
section
/-!
SUPPORT. What one write in flight gives once it has landed, for each kind of register, and the group
that an issue leaves.
-/

namespace Sys2Proof.Machine

/-! ## A single write -/

theorem flown_of_no_flights (g : Group) (hq : g.flights = []) : g.flown = g := by
  unfold Group.flown; rw [hq]; cases g; simp at hq; subst hq; rfl

/-- The write in flight of a group that had none. -/
theorem fly_left (g : Group) (hq : g.flights = []) (L : Nat) (k : RegKind) (r : Nat)
    (lanes val : Word) (vec : Tab Lane) :
    ∀ y ∈ (g.fly L k r lanes val vec).flights, y.left = L := by
  intro y hy
  rw [fly_of_no_flights g hq] at hy
  split at hy
  · simp [hq] at hy
  · simp at hy; subst hy; rfl

/-- A write in flight changes nothing else of the group. -/
theorem fly_base (g : Group) (hq : g.flights = []) (L : Nat) (k : RegKind) (r : Nat)
    (lanes val : Word) (vec : Tab Lane) :
    ({ g.fly L k r lanes val vec with flights := [] } : Group) = g := by
  rw [fly_of_no_flights g hq]
  cases g; simp at hq; subst hq
  split <;> rfl

theorem fly_pc (g : Group) (hq : g.flights = []) (L : Nat) (k : RegKind) (r : Nat)
    (lanes val : Word) (vec : Tab Lane) : (g.fly L k r lanes val vec).pc = g.pc := by
  rw [fly_of_no_flights g hq]; split <;> rfl

/-- The group with the one write landed. -/
theorem fly_flown (g : Group) (hq : g.flights = []) (L : Nat) (k : RegKind) (r : Nat)
    (lanes val : Word) (vec : Tab Lane) :
    (g.fly L k r lanes val vec).flown =
      if lanes = 0 then g
      else g.land1 { kind := k, reg := r, bank := g.banked k r, lanes, left := L, val, vec } := by
  have h : ({ g with flights := [] } : Group) = g := by cases g; simp at hq; subst hq; rfl
  rw [fly_of_no_flights g hq]
  split
  · exact flown_of_no_flights g hq
  · unfold Group.flown
    simp only [List.foldl_cons, List.foldl_nil]
    rw [h]

/-! ## Scalars, masks, flags -/

theorem flyS_sIn (g : Group) (hq : g.flights = []) (L r : Nat) (v : Word) (b : Bool) (q : Nat) :
    (g.flyS L r v).flown.sIn b q =
      if b = g.banked .scalar r ∧ q = r then v else g.sIn b q := by
  unfold Group.flyS
  rw [fly_flown g hq, if_neg (by decide)]
  show (g.setS _ _ _ _).sIn b q = _
  rw [setS_sIn]
  have h : ∀ a : Word, (a &&& ~~~BitVec.allOnes 64) ||| (v &&& BitVec.allOnes 64) = v := by
    intro a; rw [BitVec.and_allOnes, BitVec.not_allOnes, BitVec.and_zero, BitVec.zero_or]
  rw [h]

theorem flyS_mIn (g : Group) (hq : g.flights = []) (L r : Nat) (v : Word) (b : Bool) (q : Nat) :
    (g.flyS L r v).flown.mIn b q = g.mIn b q := by
  unfold Group.flyS
  rw [fly_flown g hq, if_neg (by decide)]
  show (g.setS _ _ _ _).mIn b q = _
  unfold Group.setS Group.mIn; cases g.banked .scalar r <;> rfl

theorem flyS_v (g : Group) (hq : g.flights = []) (L r : Nat) (v : Word) (q l : Nat) :
    (g.flyS L r v).flown.v q l = g.v q l := by
  unfold Group.flyS
  rw [fly_flown g hq, if_neg (by decide)]
  show (g.setS _ _ _ _).v q l = _
  unfold Group.setS Group.v; cases g.banked .scalar r <;> rfl

theorem flyS_sfl (g : Group) (hq : g.flights = []) (L r : Nat) (v : Word) :
    (g.flyS L r v).flown.sfl = g.sfl := by
  unfold Group.flyS
  rw [fly_flown g hq, if_neg (by decide)]
  show (g.setS _ _ _ _).sfl = _
  unfold Group.setS; cases g.banked .scalar r <;> rfl

theorem flyF_sfl (g : Group) (hq : g.flights = []) (L : Nat) (v : BitVec 4) :
    (g.flyF L v).flown.sfl = v := by
  unfold Group.flyF
  rw [fly_flown g hq, if_neg (by decide)]
  show (g.sfl &&& ~~~(15 : Word).truncate 4) ||| ((v.zeroExtend 64).truncate 4 &&& (15 : Word).truncate 4) = v
  have h : (15 : Word).truncate 4 = BitVec.allOnes 4 := by decide
  rw [h, BitVec.and_allOnes, BitVec.not_allOnes, BitVec.and_zero, BitVec.zero_or]
  simp

theorem flyM_mIn (g : Group) (hq : g.flights = []) (L r : Nat) (lanes v : Word) (b : Bool)
    (q : Nat) (h0 : lanes ≠ 0) :
    (g.flyM L r lanes v).flown.mIn b q =
      if b = g.banked .mask r ∧ q = r then
        ((g.mIn b r &&& ~~~lanes) ||| (v &&& lanes)) &&& g.live
      else g.mIn b q := by
  unfold Group.flyM
  rw [fly_flown g hq, if_neg h0]
  show (g.setM _ _ _ _).mIn b q = _
  rw [setM_mIn]
  split
  · next h => rw [h.1]; rfl
  · rfl

/-! ## Vectors -/

theorem tget_map_lanes (lanes : Word) (x : Nat → Lane) (l : Nat) (h : l ∈ lanesOf lanes) :
    tget 0 l ((lanesOf lanes).map fun l => (l, x l)) = x l := by
  have : ∀ ls : List Nat, l ∈ ls → tfind l (ls.map fun l => (l, x l)) = some (x l) := by
    intro ls
    induction ls with
    | nil => simp
    | cons a t ih =>
      intro hm
      by_cases h : a = l
      · subst h; simp [tfind]
      · rcases List.mem_cons.1 hm with h' | h'
        · exact absurd h'.symm h
        · simp [tfind, h, ih h']
  unfold tget; rw [this _ h]; rfl

/-- A vector write touches no scalar, no mask and no flag. -/
theorem setV_others (g : Group) (r : Nat) (lanes : Word) (x : Nat → Lane) :
    (g.setV r lanes x).sreg = g.sreg ∧ (g.setV r lanes x).hsreg = g.hsreg ∧
      (g.setV r lanes x).mreg = g.mreg ∧ (g.setV r lanes x).hmreg = g.hmreg ∧
      (g.setV r lanes x).sfl = g.sfl := by
  unfold Group.setV
  generalize lanesOf lanes = ls
  induction ls generalizing g with
  | nil => simp
  | cons a t ih =>
    obtain ⟨h1, h2, h3, h4, h5⟩ := ih (g.setV1 r a (x a))
    rw [List.foldl_cons]
    exact ⟨h1, h2, h3, h4, h5⟩

theorem flyV_v (g : Group) (hq : g.flights = []) (L r : Nat) (lanes : Word) (x : Nat → Lane)
    (q l : Nat) (hl : l < 64) :
    (g.flyV L r lanes x).flown.v q l = if q = r ∧ bit lanes l = true then x l else g.v q l := by
  unfold Group.flyV
  rw [fly_flown g hq]
  split
  · next h0 => subst h0; rw [if_neg]; simp [bit]
  · show (g.setV _ _ _).v q l = _
    rw [setV_v _ _ _ _ _ _ hl]
    split
    · next h => exact tget_map_lanes _ _ _ ((mem_lanesOf _ _).2 ⟨hl, h.2⟩)
    · rfl

theorem flyV_others (g : Group) (hq : g.flights = []) (L r : Nat) (lanes : Word)
    (x : Nat → Lane) :
    (∀ b q, (g.flyV L r lanes x).flown.sIn b q = g.sIn b q) ∧
      (∀ b q, (g.flyV L r lanes x).flown.mIn b q = g.mIn b q) ∧
      (g.flyV L r lanes x).flown.sfl = g.sfl := by
  unfold Group.flyV
  rw [fly_flown g hq]
  split
  · exact ⟨fun _ _ => rfl, fun _ _ => rfl, rfl⟩
  · obtain ⟨h1, h2, h3, h4, h5⟩ :=
      setV_others g r lanes fun l => tget 0 l ((lanesOf lanes).map fun l => (l, x l))
    refine ⟨fun b q => ?_, fun b q => ?_, h5⟩
    · show (g.setV _ _ _).sIn b q = _
      unfold Group.sIn; rw [h1, h2]
    · show (g.setV _ _ _).mIn b q = _
      unfold Group.mIn; rw [h3, h4]

/-! ## The group that an issue leaves -/

theorem fixed_moved (a : Group) (step cycle : Nat) (pc : Pc) :
    (a.apart.moved step cycle pc).fixed = a.fixed := by
  unfold Group.fixed Group.moved Group.countSkid
  dsimp only [Group.apart, Group.unready]
  cases a.run <;> rfl

/-- Once its writes have landed, an issued group has the registers of `flown`, and of the rest only
its PC and its scheduling differ. -/
theorem after_settled (g : Group) (step cycle : Nat) (pc : Pc) (L : Nat) (hL : L ≤ 8)
    (hf : ∀ x ∈ g.flights, x.left = L) :
    (g.after step cycle pc).settled.SameRegs g.flown ∧
      (g.after step cycle pc).settled.fixed = ({ g with flights := [] } : Group).fixed := by
  have h := settled_after g step cycle pc L hL hf
  have h2 := congrArg Group.fixed h.2
  rw [fixed_moved] at h2
  exact ⟨h.1, h2⟩

/-! ## Masks from lane tests -/

theorem maskOf_bit (f : Nat → Bool) (l : Nat) (hl : l < 64) : bit (maskOf f) l = f l := by
  have key : ∀ n ≤ 64,
      ((List.range n).foldl (fun n l => if f l then n + 2 ^ l else n) 0) < 2 ^ n ∧
      ∀ l < n, Nat.testBit ((List.range n).foldl (fun n l => if f l then n + 2 ^ l else n) 0) l
        = f l := by
    intro n hn
    induction n with
    | zero => simp
    | succ n ih =>
      obtain ⟨h1, h2⟩ := ih (by omega)
      rw [List.range_succ, List.foldl_append]
      generalize (List.range n).foldl (fun n l => if f l then n + 2 ^ l else n) 0 = a at h1 h2
      simp only [List.foldl_cons, List.foldl_nil]
      constructor
      · rw [Nat.pow_succ]; split <;> omega
      · intro l hl
        by_cases hln : l = n
        · subst hln
          split
          · next hf => rw [Nat.add_comm, Nat.testBit_two_pow_add_eq, Nat.testBit_lt_two_pow h1, hf]; rfl
          · next hf => rw [Nat.testBit_lt_two_pow h1]; simp [hf]
        · have hl' : l < n := by omega
          split
          · rw [Nat.add_comm, Nat.testBit_two_pow_add_gt hl' _]; exact h2 l hl'
          · exact h2 l hl'
  have h := (key 64 (by omega)).2 l hl
  have hu : upto 64 = List.range 64 := by decide
  unfold bit maskOf
  rw [BitVec.getLsbD_ofNat, hu, h]
  simp [hl]

end Sys2Proof.Machine
end

