-- ==== Sys2Proof/Laws/Completion.lean ====
section
/-!
SUPPORT. From what an instruction's own part answers to the words of the statements: what an issue
leaves alone, when an instruction completes, and when it traps.
-/

namespace Sys2Proof.Claim

open Sys2Proof.Machine

/-! ## What an issue leaves alone -/

theorem around_finish {s : State} {c n : Nat} {g' : Group} {f : Form} {pc : Pc} {K : Core}
    (hK : K.groups = (s.work.core c).groups) :
    Around s (commit s (finish f (s.work.setCore c K) c n g' pc)) c n K := by
  have hlog : (finish f (s.work.setCore c K) c n g' pc).log = [] := by rw [log_finish]; rfl
  refine ⟨commit_mem _ _ hlog, rest_finish _ _ _ _ _ _,
    fun k hk => (core_finish_other _ _ _ _ _ _ _ hk).trans ?_,
    (core_finish_rest _ _ _ _ _ _ _).trans ?_,
    fun m hm => (grp_finish_other _ _ _ _ _ _ _ _ (by simp [hm])).trans ?_,
    fun k hk => (cluster_finish _ _ _ _ _ _ _).2 hk, (cluster_finish _ _ _ _ _ _ _).1⟩
  · rw [core_setCore, if_neg hk]
  · rw [core_setCore, if_pos rfl]
  · unfold Work.grp; rw [core_setCore, if_pos rfl, hK]

theorem elsewhere_finish {s : State} {c n : Nat} {g' : Group} {f : Form} {pc : Pc} :
    Elsewhere s (commit s (finish f s.work c n g' pc)) c n := by
  have hlog : (finish f s.work c n g' pc).log = [] := by rw [log_finish]; rfl
  exact ⟨commit_mem _ _ hlog, rest_finish _ _ _ _ _ _,
    fun k hk => core_finish_other _ _ _ _ _ _ _ hk, core_finish_rest _ _ _ _ _ _ _,
    fun m hm => grp_finish_other _ _ _ _ _ _ _ _ (by simp [hm]),
    fun k hk => (cluster_finish _ _ _ _ _ _ _).2 hk, (cluster_finish _ _ _ _ _ _ _).1⟩

/-! ## Completion -/

variable {s : State} {c n : Nat} {g g' e : Group} {f : Form} {i : Instr} {pc pc' : Pc} {d : Dst}
  {P : Group → Prop}

/-- An issue completes as the group that it leaves says. -/
theorem completesIn_of_finish {K : Core} {w : Work}
    (hi : exec i s = .next (commit s (finish f w c n g' pc'))) (hpc : pc' = pc)
    (ha : Around s (commit s (finish f w c n g' pc')) c n K)
    (L : Nat) (hL : L ≤ 8) (hfl : ∀ x ∈ g'.flights, x.left = L)
    (hap : ({ g' with flights := [] } : Group).fixed = e.fixed) (hk : Keeps g g'.flown d)
    (hP : ∀ h, h.SameRegs g'.flown → h.fixed = ({ g' with flights := [] } : Group).fixed → P h) :
    CompletesIn s c n K g i pc e d P := by
  have hg := after_settled g' f.step (w.core c).cycle pc' L hL hfl
  refine ⟨_, _, hi, grp_finish _ _ _ _ _ _, ?_, ha, hg.2.trans hap, ?_, hP _ hg.1 hg.2⟩
  · rw [after_eq]; exact hpc
  · exact ⟨fun b r h => (hg.1.sIn b r).trans (hk.1 b r h),
      fun b r h => (hg.1.mIn b r).trans (hk.2 b r h),
      fun r l hl h => (hg.1.v r l).trans (hk.3 r l hl h), fun h => hg.1.sfl.trans (hk.4 h)⟩

theorem Keeps.refl (g : Group) (d : Dst) : Keeps g g d :=
  ⟨fun _ _ _ => rfl, fun _ _ _ => rfl, fun _ _ _ _ => rfl, fun _ => rfl⟩

/-- An instruction that changes only what is no register, at issue. -/
theorem completes_still {b : Group → Group} {nd : Group → Need} (hr : Ready s c n g)
    (hi : exec i s = issueLocal f nd b s) (h1 : (nd g).codes = true) (h2 : (nd g).regs = true)
    (h3 : (nd g).ctx = true) (hpc : (b g).nextPc f.len = pc) (hb : (b g).flights = [])
    (he : (b g).fixed = e.fixed) (hk : Keeps g (b g) d)
    (hP : ∀ h, h.SameRegs (b g) → h.fixed = (b g).fixed → P h) :
    Completes s c n g i pc e d P := by
  have hf := flown_of_no_flights (b g) hb
  have hz : ({ b g with flights := [] } : Group) = b g := by
    generalize b g = x at hb; cases x; simp at hb; subst hb; rfl
  refine completesIn_of_finish (hi.trans (issueLocal_done hr.cur hr.here
    (passes_quiet _ _ _ _ hr.quiet h1 h2 h3))) hpc elsewhere_finish 0 (by decide) ?_ ?_ ?_ ?_
  · rw [hb]; simp
  · rw [hz]; exact he
  · rw [hf]; exact hk
  · rw [hf, hz]; exact hP

/-- A jump that changes nothing but the PC. -/
theorem completes_jump {need : Work → Group → Need} {body : Work → Nat → Nat → Group → Res}
    (hr : Ready s c n g) (hi : exec i s = issue f need body s)
    (h1 : (need s.work g).codes = true) (h2 : (need s.work g).regs = true)
    (h3 : (need s.work g).ctx = true)
    (hb : body s.work c n g = .jump s.work g pc ∨ body s.work c n g = .done s.work g ∧
      pc = g.nextPc f.len) :
    Completes s c n g i pc g {} fun _ => True := by
  have hp := passes_quiet s.work c g _ hr.quiet h1 h2 h3
  have hf := flown_of_no_flights g hr.quiet.flights
  have hz : ({ g with flights := [] } : Group) = g := by
    have hb := hr.quiet.flights; cases g; simp at hb; subst hb; rfl
  have hx : exec i s = .next (commit s (finish f s.work c n g pc)) := by
    rcases hb with hb | ⟨hb, rfl⟩
    · exact hi.trans (issue_jump hr.cur hr.here hp hb)
    · exact hi.trans (issue_done hr.cur hr.here hp hb)
  refine completesIn_of_finish hx rfl elsewhere_finish 0 (by decide) ?_ ?_ ?_ fun _ _ _ => trivial
  · rw [hr.quiet.flights]; simp
  · rw [hz]
  · rw [hf]; exact Keeps.refl _ _

/-- An instruction that writes one scalar register. -/
theorem toScalar_of_issue {nd : Group → Need} {b : Group → Group} {L r : Nat} {v : Word}
    (hr : Ready s c n g) (hL : L ≤ 8) (hi : exec i s = issueLocal f nd b s)
    (hb : b g = g.flyS L r v) (h1 : (nd g).codes = true) (h2 : (nd g).regs = true)
    (h3 : (nd g).ctx = true) (hlen : f.len = 4) : ToScalar s c n g i r v := by
  have hq := hr.quiet.flights
  unfold ToScalar Completes
  refine completesIn_of_finish (hi.trans (issueLocal_done hr.cur hr.here
    (passes_quiet _ _ _ _ hr.quiet h1 h2 h3))) ?_ elsewhere_finish L hL ?_ ?_ ?_ ?_
  · rw [hb, hlen]; unfold Group.nextPc Group.flyS; rw [fly_pc g hq]; rfl
  · rw [hb]; exact fly_left g hq _ _ _ _ _ _
  · rw [hb]; unfold Group.flyS; rw [fly_base g hq]
  · rw [hb]
    refine ⟨fun b q h => ?_, fun b q _ => flyS_mIn g hq _ _ _ _ _,
      fun q l _ _ => flyS_v g hq _ _ _ _ _, fun _ => flyS_sfl g hq _ _ _⟩
    rw [flyS_sIn g hq, if_neg]
    rintro ⟨rfl, rfl⟩
    exact h ⟨by simp, rfl⟩
  · rw [hb]
    intro h hs hfx
    have hih : h.inHandler = g.inHandler := by
      unfold Group.flyS at hfx; rw [fly_base g hq] at hfx
      exact (congrArg Group.inHandler hfx : h.fixed.inHandler = g.fixed.inHandler)
    have hbk : h.banked .scalar r = g.banked .scalar r := by unfold Group.banked; rw [hih]
    rw [s_eq_sIn, hs.sIn, flyS_sIn g hq, if_pos ⟨hbk, rfl⟩]

/-- An instruction that writes lanes of one vector register. -/
theorem toVector_of_issue {nd : Group → Need} {b : Group → Group} {L r : Nat} {lanes : Word}
    {x v : Nat → Lane} {len : Pc} (hr : Ready s c n g) (hL : L ≤ 8)
    (hi : exec i s = issueLocal f nd b s) (hb : b g = g.flyV L r lanes x)
    (hx : ∀ l < 64, x l = v l) (h1 : (nd g).codes = true) (h2 : (nd g).regs = true)
    (h3 : (nd g).ctx = true) (hlen : BitVec.ofNat 52 f.len = len) :
    ToVector s c n g i len r lanes v := by
  have hq := hr.quiet.flights
  unfold ToVector Completes
  have hz := flyV_others g hq L r lanes x
  refine completesIn_of_finish (hi.trans (issueLocal_done hr.cur hr.here
    (passes_quiet _ _ _ _ hr.quiet h1 h2 h3))) ?_ elsewhere_finish L hL ?_ ?_ ?_ ?_
  · rw [hb]; unfold Group.nextPc Group.flyV; rw [fly_pc g hq, hlen]
  · rw [hb]; exact fly_left g hq _ _ _ _ _ _
  · rw [hb]; unfold Group.flyV; rw [fly_base g hq]
  · rw [hb]
    refine ⟨fun b q _ => hz.1 b q, fun b q _ => hz.2.1 b q, fun q l hl h => ?_, fun _ => hz.2.2⟩
    rw [flyV_v g hq _ _ _ _ _ _ hl, if_neg]
    rintro ⟨rfl, _⟩
    exact h (by simp)
  · rw [hb]
    intro h hs _ l hl
    rw [hs.v, flyV_v g hq _ _ _ _ _ _ hl]
    simp only [true_and, hx l hl]

/-! ## Traps -/

/-- R147, R17: no flag being still to come, a trap is taken at once, its issue accounted for. -/
theorem raiseTrap_now (w : Work) (c n : Nat) (g : Group) (cause : Nat) (info lanes : Word)
    (h : w.flagsPending c n = false) :
    raiseTrap w c n g cause info lanes = (w.account c n g 0).takeTrap c n g cause info lanes := by
  unfold raiseTrap; rw [h]; rfl

/-- R96: the first of the checks of a word that fails. -/
theorem traps_of_need {need : Work → Group → Need} {body : Work → Nat → Nat → Group → Res}
    {w : BitVec 32} {reason : Nat} (hc : s.cur = (c, n)) (hg : s.work.grp c n = some g)
    (hp : s.work.flagsPending c n = false) (hi : exec i s = issue f need body s)
    (hw : f.word = w)
    (h : (need s.work g).codes = false ∧ reason = 3 ∨
      (need s.work g).codes = true ∧ (need s.work g).regs = false ∧ reason = 5 ∨
      (need s.work g).codes = true ∧ (need s.work g).regs = true ∧ (need s.work g).ctx = false ∧
        reason = 6) :
    Traps s c n g i 1 (illegalInfo w reason) 0 := by
  unfold Traps
  rw [hi, issue_eq hc hg, issueGroup_illegal s.work reason (by
    rcases h with ⟨h, rfl⟩ | ⟨h, h', rfl⟩ | ⟨h, h', h'', rfl⟩ <;> simp [*]) (by
    rcases h with ⟨h, rfl⟩ | ⟨h, h', rfl⟩ | ⟨h, h', h'', rfl⟩ <;> simp [*]), hw,
    raiseTrap_now _ _ _ _ _ _ _ hp]

/-- A trap that an instruction's own part raises. -/
theorem traps_of_body {need : Work → Group → Need} {body : Work → Nat → Nat → Group → Res}
    {cause : Nat} {info lanes : Word} (hr : Ready s c n g)
    (hp : s.work.flagsPending c n = false) (hi : exec i s = issue f need body s)
    (h1 : (need s.work g).codes = true) (h2 : (need s.work g).regs = true)
    (h3 : (need s.work g).ctx = true)
    (hb : applyRes f s.work c n g (body s.work c n g) =
      raiseTrap s.work c n g cause info lanes) :
    Traps s c n g i cause info lanes := by
  unfold Traps
  rw [hi, issue_eq hr.cur hr.here,
    issueGroup_passes _ (passes_quiet _ _ _ _ hr.quiet h1 h2 h3), hb,
    raiseTrap_now _ _ _ _ _ _ _ hp]

end Sys2Proof.Claim
end

