-- ==== Sys2Proof/Laws/Encode.lean ====
section
/-!
SUPPORT. Laws of the encoding: a field of a concatenation, and what the decoder needs to be shown.
With the word of an instruction unfolded, `simp (disch := omega) only` with the three field lemmas
and `Nat.reduceSub`, `Nat.sub_self`, then `rfl`, closes `decMajor (wX …) = some (some (.x …))`.
-/

noncomputable section

namespace Sys2Proof

/-- A field that lies in the low part of a concatenation. -/
theorem fld_append_low {m n k : Nat} (lo : Nat) (x : BitVec m) (y : BitVec n) (h : lo + k ≤ n) :
    fld lo k (x ++ y) = fld lo k y := by
  ext i hi
  simp only [fld, BitVec.getElem_extractLsb', BitVec.getLsbD_append]
  rw [if_pos (by omega)]

/-- A field that lies in the high part. -/
theorem fld_append_high {m n k : Nat} (lo : Nat) (x : BitVec m) (y : BitVec n) (h : n ≤ lo) :
    fld lo k (x ++ y) = fld (lo - n) k x := by
  ext i hi
  simp only [fld, BitVec.getElem_extractLsb', BitVec.getLsbD_append]
  rw [if_neg (by omega)]; congr 1; omega

/-- The field that is the whole. -/
theorem fld_whole {n : Nat} (y : BitVec n) : fld 0 n y = y := by
  ext i hi; simp [fld]

/-- A word decodes to an instruction whose row its fields select and whose word it is. -/
theorem decodeWord_of_major (w : BitVec 32) (i : Instr) (h : decMajor w = some (some i))
    (e : encode i = .word w) : decodeWord w = .ok i := by
  rw [decodeWord, h]; simp [e]

/-- The bytes of a word, put together. -/
theorem word_of_bytes (w : BitVec 32) :
    fld 24 8 w ++ fld 16 8 w ++ fld 8 8 w ++ fld 0 8 w = w := by
  ext i hi
  simp only [BitVec.getElem_append, fld, BitVec.getElem_extractLsb']
  split
  · simp only [Nat.zero_add]; exact BitVec.getLsbD_eq_getElem hi
  · split
    · rw [show 8 + (i - 8) = i by omega]; exact BitVec.getLsbD_eq_getElem hi
    · split
      · rw [show 16 + (i - 8 - 8) = i by omega]; exact BitVec.getLsbD_eq_getElem hi
      · rw [show 24 + (i - 8 - 8 - 8) = i by omega]; exact BitVec.getLsbD_eq_getElem hi

theorem parcel_of_bytes (p : BitVec 16) : fld 8 8 p ++ fld 0 8 p = p := by
  ext i hi
  simp only [BitVec.getElem_append, fld, BitVec.getElem_extractLsb']
  split
  · simp only [Nat.zero_add]; exact BitVec.getLsbD_eq_getElem hi
  · rw [show 8 + (i - 8) = i by omega]; exact BitVec.getLsbD_eq_getElem hi

/-- R86: a word that decodes, in front of other bytes. -/
theorem decodeBytes_word (w : BitVec 32) (i : Instr) (rest : List Byte) (l : w.getLsbD 0 = true)
    (h : decodeWord w = .ok i) : decodeBytes ((Code.word w).bytes ++ rest) = .ok (i, rest) := by
  have b : (fld 0 8 w).getLsbD 0 = true := by simpa [fld] using l
  simp only [Code.bytes, List.cons_append, List.nil_append, decodeBytes, b, if_true]
  rw [word_of_bytes, h]

/-- R86, R93: a parcel in front of other bytes. -/
theorem decodeBytes_parcel (p : BitVec 16) (rest : List Byte) (l : p.getLsbD 0 = false) :
    decodeBytes ((Code.parcel p).bytes ++ rest) = .ok (decodeParcel p, rest) := by
  have b : (fld 0 8 p).getLsbD 0 = false := by simpa [fld] using l
  simp only [Code.bytes, List.cons_append, List.nil_append, decodeBytes, b, Bool.false_eq_true,
    if_false]
  rw [parcel_of_bytes]

end Sys2Proof

end
end

