-- ==== Sys2Proof/Laws/Sheet.lean ====
section
/-!
SUPPORT. The scoresheet (R379 to R381): what appending entries changes. The package stands; near
memory changes only inside the ring.
-/

namespace Sys2Proof.Machine

/-- The package but for the uncorrectable errors of its lines, which a write of the whole line ends. -/
def Pkg.unmarked (p : Pkg) : Pkg := { p with upsetMem := [], upsetL2 := [] }

/-- `v` differs from `w` only in the observation registers and bytes of a range. -/
def OnlyRing (base ring : Nat) (w v : Work) : Prop :=
  v.toPkg.unmarked = w.toPkg.unmarked ∧ v.home = w.home ∧ v.cur = w.cur ∧ v.agenda = w.agenda ∧
    ∃ l, v.log = l ++ w.log ∧ ∀ c ∈ l, base ≤ c.1 ∧ c.1 < base + ring

theorem OnlyRing.refl (b r : Nat) (w : Work) : OnlyRing b r w w :=
  ⟨rfl, rfl, rfl, rfl, [], rfl, by simp⟩

theorem OnlyRing.mend (b r : Nat) (w : Work) (l : List Host.Cell) : OnlyRing b r w (w.mendLines l) :=
  ⟨rfl, rfl, rfl, rfl, [], rfl, by simp⟩

theorem OnlyRing.trans {b r : Nat} {u v w : Work} (h : OnlyRing b r u v) (h' : OnlyRing b r v w) :
    OnlyRing b r u w := by
  obtain ⟨h1, h2, h3, h4, l, hl, hb⟩ := h
  obtain ⟨g1, g2, g3, g4, m, hm, gb⟩ := h'
  refine ⟨g1.trans h1, g2.trans h2, g3.trans h3, g4.trans h4, m ++ l, by simp [hm, hl], ?_⟩
  intro c hc
  rcases List.mem_append.1 hc with hc | hc
  · exact gb c hc
  · exact hb c hc

theorem pokes_log (w : Work) (l : List Host.Cell) : (w.pokes l).log = l.reverse ++ w.log := by
  induction l generalizing w with
  | nil => rfl
  | cons c l ih =>
    have : w.pokes (c :: l) = (w.poke c.1 c.2).pokes l := rfl
    rw [this, ih]; simp [Work.poke]

theorem pokes_toMach (w : Work) (l : List Host.Cell) :
    (w.pokes l).toMach = w.toMach ∧ (w.pokes l).home = w.home := by
  induction l generalizing w with
  | nil => exact ⟨rfl, rfl⟩
  | cons c l ih => exact ih (w.poke c.1 c.2)

theorem obsBytes_only (w : Work) (n : Nat) :
    (w.obsBytes n).2 = { w with obs := { w.obs with freshObs := (w.obsBytes n).2.obs.freshObs } } := by
  have key : ∀ (l : List Nat) (q : List Byte × Work),
      q.2 = { w with obs := { w.obs with freshObs := q.2.obs.freshObs } } →
      (l.foldl (fun (q : List Byte × Work) _ =>
        let d := q.2.drawObs
        (q.1 ++ [d.1.truncate 8], d.2)) q).2 =
        { w with obs := { w.obs with freshObs := (l.foldl (fun (q : List Byte × Work) _ =>
          let d := q.2.drawObs
          (q.1 ++ [d.1.truncate 8], d.2)) q).2.obs.freshObs } } := by
    intro l
    induction l with
    | nil => intro q h; exact h
    | cons a l ih =>
      intro q h
      refine ih _ ?_
      show ({ q.2 with obs := { q.2.obs with freshObs := q.2.obs.freshObs + 1 } } : Work) =
        { w with obs := { w.obs with freshObs := q.2.obs.freshObs + 1 } }
      rw [h]
  exact key _ ([], w) rfl

theorem obsBytes_parts (w : Work) (n : Nat) :
    (w.obsBytes n).2.toPkg = w.toPkg ∧
      (w.obsBytes n).2.obs = { w.obs with freshObs := (w.obsBytes n).2.obs.freshObs } ∧
      (w.obsBytes n).2.home = w.home ∧ (w.obsBytes n).2.log = w.log ∧
      (w.obsBytes n).2.cur = w.cur ∧ (w.obsBytes n).2.agenda = w.agenda := by
  have h := obsBytes_only w n
  exact ⟨(congrArg (fun v : Work => v.toPkg) h).trans rfl, (congrArg (fun v : Work => v.obs) h).trans rfl,
    (congrArg (fun v : Work => v.home) h).trans rfl, (congrArg (fun v : Work => v.log) h).trans rfl,
    (congrArg (fun v : Work => v.cur) h).trans rfl, (congrArg (fun v : Work => v.agenda) h).trans rfl⟩

theorem OnlyRing.pokes {b r : Nat} {w v : Work} (h : OnlyRing b r w v) (l : List Host.Cell)
    (hl : ∀ c ∈ l, b ≤ c.1 ∧ c.1 < b + r) : OnlyRing b r w (v.pokes l) := by
  obtain ⟨hm, hh⟩ := pokes_toMach v l
  refine h.trans ⟨?_, hh, ?_, ?_, l.reverse, pokes_log v l, ?_⟩
  · exact congrArg (fun m : Mach => m.toPkg.unmarked) hm
  · exact congrArg Mach.cur hm
  · exact congrArg Mach.agenda hm
  · intro c hc; exact hl c (List.mem_reverse.1 hc)

/-- Appending an entry: the sheet and SCSHEAD move, and bytes of the ring are written. -/
theorem append_only (w : Work) (e : SheetEnt) (h : w.obs.ring ≠ 0) :
    OnlyRing (field w.obs.scsbase 51 0) w.obs.ring w (w.append e) := by
  obtain ⟨p1, -, p3, p4, p5, p6⟩ := obsBytes_parts w e.bytes
  unfold Work.append
  refine OnlyRing.trans ?_ (OnlyRing.mend _ _ _ _)
  refine OnlyRing.pokes ?_ _ ?_
  · exact ⟨congrArg Pkg.unmarked p1, p3, p5, p6, [], p4, by simp⟩
  · intro c hc
    obtain ⟨q, -, rfl⟩ := List.mem_map.1 (List.mem_filter.1 hc).1
    exact ⟨Nat.le_add_right _ _, Nat.add_lt_add_left (Nat.mod_lt _ (Nat.pos_of_ne_zero h)) _⟩

/-- What appending leaves of the observation registers. -/
theorem append_obs (w : Work) (e : SheetEnt) :
    (w.append e).obs = { w.obs with
      freshObs := (w.obsBytes e.bytes).2.obs.freshObs
      sheet := w.obs.sheet ++ [(e.image (w.obsBytes e.bytes).1, e)]
      scshead := (w.obs.scshead + e.bytes) % w.obs.ring } := by
  have p := obsBytes_parts w e.bytes
  unfold Work.append
  refine (congrArg Mach.obs (pokes_toMach _ _).1).trans ?_
  have q := p.2.1
  dsimp only
  rw [q]

theorem obs_only (b r : Nat) (w : Work) (o : Obs) : OnlyRing b r w { w with obs := o } :=
  ⟨rfl, rfl, rfl, rfl, [], rfl, by simp⟩

theorem must_only (w : Work) (e : SheetEnt) (h : w.obs.ring ≠ 0) :
    OnlyRing (field w.obs.scsbase 51 0) w.obs.ring w (w.must e) := by
  unfold Work.must
  split
  · exact append_only w e h
  · exact obs_only _ _ _ _

/-- Serving the stash. -/
theorem unstash_only (w : Work) (h : w.obs.ring ≠ 0) :
    OnlyRing (field w.obs.scsbase 51 0) w.obs.ring w w.unstash ∧
      w.unstash.obs.scsbase = w.obs.scsbase ∧ w.unstash.obs.scssize = w.obs.scssize ∧
      w.unstash.obs.scstail = w.obs.scstail := by
  unfold Work.unstash
  generalize w.obs.stash = l
  induction l generalizing w with
  | nil => exact ⟨OnlyRing.refl _ _ _, rfl, rfl, rfl⟩
  | cons e l ih =>
    rw [List.foldl_cons]
    split
    · next x rest hs =>
      split
      · let v : Work := { w with obs := { w.obs with stash := rest } }
        have hv : OnlyRing (field w.obs.scsbase 51 0) w.obs.ring w (v.append e) :=
          (obs_only _ _ w _).trans (append_only v e h)
        have ho := append_obs v e
        have hr : (v.append e).obs.ring ≠ 0 := by rw [ho]; exact h
        obtain ⟨i1, i2, i3, i4⟩ := ih (v.append e) hr
        have e1 : (v.append e).obs.scsbase = w.obs.scsbase := by rw [ho]
        have e2 : (v.append e).obs.ring = w.obs.ring := by rw [ho]; rfl
        refine ⟨hv.trans ?_, i2.trans e1, i3.trans (by rw [ho]), i4.trans (by rw [ho])⟩
        rw [← e1, ← e2]; exact i1
      · exact ih w h
    · exact ih w h

/-- R380: the end marker. -/
theorem endMark_only (w : Work) :
    OnlyRing (field w.obs.scsbase 51 0) w.obs.ring w w.endMark := by
  simp only [Work.endMark]
  split
  · next h =>
    refine must_only w _ ?_
    have := h.1
    simp only [Work.recording, Bool.and_eq_true, decide_eq_true_eq] at this
    exact this.2
  · exact OnlyRing.refl _ _ _

/-- R384: a freeze. -/
theorem freeze_only (w : Work) :
    OnlyRing (field w.obs.scsbase 51 0) w.obs.ring w w.freeze :=
  (endMark_only w).trans (obs_only _ _ _ _)

/-- Bytes outside the ring read as before. -/
theorem OnlyRing.read {b r : Nat} {s : State} {v : Work} (h : OnlyRing b r s.work v) (a : Nat)
    (ha : a < b ∨ b + r ≤ a) : memRead (commit s v).mem a = memRead s.mem a := by
  obtain ⟨-, -, -, -, l, hl, hb⟩ := h
  have hl' : v.log = l := by rw [hl]; exact List.append_nil l
  rw [memRead_commit, hl']
  have : tfind a l = none := by
    clear hl hl'
    induction l with
    | nil => rfl
    | cons c l ih =>
      obtain ⟨k, x⟩ := c
      have hk := hb (k, x) (by simp)
      have hne : k ≠ a := by rintro rfl; simp at hk; omega
      simp only [tfind, if_neg hne]
      exact ih fun d hd => hb d (by simp [hd])
  rw [this]; rfl

end Sys2Proof.Machine
end

