-- ==== Sys2Proof/Laws/State.lean ====
section
/-!
SUPPORT. What the record updates of the machine leave alone: one lemma for each field and update.
-/

namespace Sys2Proof.Machine

/-! ## `Work.setCore` changes `cores` -/

@[simp] theorem Work.setCore_tempo (w : Work) (c : Nat) (k : Core) :
    (w.setCore c k).tempo = w.tempo := rfl
@[simp] theorem Work.setCore_phase (w : Work) (c : Nat) (k : Core) :
    (w.setCore c k).phase = w.phase := rfl
@[simp] theorem Work.setCore_clusters (w : Work) (c : Nat) (k : Core) :
    (w.setCore c k).clusters = w.clusters := rfl
@[simp] theorem Work.setCore_dies (w : Work) (c : Nat) (k : Core) :
    (w.setCore c k).dies = w.dies := rfl
@[simp] theorem Work.setCore_launches (w : Work) (c : Nat) (k : Core) :
    (w.setCore c k).launches = w.launches := rfl
@[simp] theorem Work.setCore_teams (w : Work) (c : Nat) (k : Core) :
    (w.setCore c k).teams = w.teams := rfl
@[simp] theorem Work.setCore_queues (w : Work) (c : Nat) (k : Core) :
    (w.setCore c k).queues = w.queues := rfl
@[simp] theorem Work.setCore_tensors (w : Work) (c : Nat) (k : Core) :
    (w.setCore c k).tensors = w.tensors := rfl
@[simp] theorem Work.setCore_shadow (w : Work) (c : Nat) (k : Core) :
    (w.setCore c k).shadow = w.shadow := rfl
@[simp] theorem Work.setCore_launchSeq (w : Work) (c : Nat) (k : Core) :
    (w.setCore c k).launchSeq = w.launchSeq := rfl
@[simp] theorem Work.setCore_gangSeq (w : Work) (c : Nat) (k : Core) :
    (w.setCore c k).gangSeq = w.gangSeq := rfl
@[simp] theorem Work.setCore_lastServed (w : Work) (c : Nat) (k : Core) :
    (w.setCore c k).lastServed = w.lastServed := rfl
@[simp] theorem Work.setCore_lastCluster (w : Work) (c : Nat) (k : Core) :
    (w.setCore c k).lastCluster = w.lastCluster := rfl
@[simp] theorem Work.setCore_admitAt (w : Work) (c : Nat) (k : Core) :
    (w.setCore c k).admitAt = w.admitAt := rfl
@[simp] theorem Work.setCore_placeAt (w : Work) (c : Nat) (k : Core) :
    (w.setCore c k).placeAt = w.placeAt := rfl
@[simp] theorem Work.setCore_preempt (w : Work) (c : Nat) (k : Core) :
    (w.setCore c k).preempt = w.preempt := rfl
@[simp] theorem Work.setCore_suspended (w : Work) (c : Nat) (k : Core) :
    (w.setCore c k).suspended = w.suspended := rfl
@[simp] theorem Work.setCore_pretime (w : Work) (c : Nat) (k : Core) :
    (w.setCore c k).pretime = w.pretime := rfl
@[simp] theorem Work.setCore_rootbase (w : Work) (c : Nat) (k : Core) :
    (w.setCore c k).rootbase = w.rootbase := rfl
@[simp] theorem Work.setCore_nmsplit (w : Work) (c : Nat) (k : Core) :
    (w.setCore c k).nmsplit = w.nmsplit := rfl
@[simp] theorem Work.setCore_tlbinv (w : Work) (c : Nat) (k : Core) :
    (w.setCore c k).tlbinv = w.tlbinv := rfl
@[simp] theorem Work.setCore_tlbinvOwn (w : Work) (c : Nat) (k : Core) :
    (w.setCore c k).tlbinvOwn = w.tlbinvOwn := rfl
@[simp] theorem Work.setCore_tlbBusy (w : Work) (c : Nat) (k : Core) :
    (w.setCore c k).tlbBusy = w.tlbBusy := rfl
@[simp] theorem Work.setCore_msgSeq (w : Work) (c : Nat) (k : Core) :
    (w.setCore c k).msgSeq = w.msgSeq := rfl
@[simp] theorem Work.setCore_io (w : Work) (c : Nat) (k : Core) : (w.setCore c k).io = w.io := rfl
@[simp] theorem Work.setCore_keys (w : Work) (c : Nat) (k : Core) :
    (w.setCore c k).keys = w.keys := rfl
@[simp] theorem Work.setCore_keyed (w : Work) (c : Nat) (k : Core) :
    (w.setCore c k).keyed = w.keyed := rfl
@[simp] theorem Work.setCore_tdis (w : Work) (c : Nat) (k : Core) :
    (w.setCore c k).tdis = w.tdis := rfl
@[simp] theorem Work.setCore_sesslife (w : Work) (c : Nat) (k : Core) :
    (w.setCore c k).sesslife = w.sesslife := rfl
@[simp] theorem Work.setCore_sessAt (w : Work) (c : Nat) (k : Core) :
    (w.setCore c k).sessAt = w.sessAt := rfl
@[simp] theorem Work.setCore_fabexp (w : Work) (c : Nat) (k : Core) :
    (w.setCore c k).fabexp = w.fabexp := rfl
@[simp] theorem Work.setCore_fabshr (w : Work) (c : Nat) (k : Core) :
    (w.setCore c k).fabshr = w.fabshr := rfl
@[simp] theorem Work.setCore_sharedOut (w : Work) (c : Nat) (k : Core) :
    (w.setCore c k).sharedOut = w.sharedOut := rfl
@[simp] theorem Work.setCore_retiring (w : Work) (c : Nat) (k : Core) :
    (w.setCore c k).retiring = w.retiring := rfl
@[simp] theorem Work.setCore_upsetMem (w : Work) (c : Nat) (k : Core) :
    (w.setCore c k).upsetMem = w.upsetMem := rfl
@[simp] theorem Work.setCore_upsetL2 (w : Work) (c : Nat) (k : Core) :
    (w.setCore c k).upsetL2 = w.upsetL2 := rfl
@[simp] theorem Work.setCore_supFault (w : Work) (c : Nat) (k : Core) :
    (w.setCore c k).supFault = w.supFault := rfl
@[simp] theorem Work.setCore_errlog (w : Work) (c : Nat) (k : Core) :
    (w.setCore c k).errlog = w.errlog := rfl
@[simp] theorem Work.setCore_errNext (w : Work) (c : Nat) (k : Core) :
    (w.setCore c k).errNext = w.errNext := rfl
@[simp] theorem Work.setCore_errCount (w : Work) (c : Nat) (k : Core) :
    (w.setCore c k).errCount = w.errCount := rfl
@[simp] theorem Work.setCore_bootwhy (w : Work) (c : Nat) (k : Core) :
    (w.setCore c k).bootwhy = w.bootwhy := rfl
@[simp] theorem Work.setCore_virst (w : Work) (c : Nat) (k : Core) :
    (w.setCore c k).virst = w.virst := rfl
@[simp] theorem Work.setCore_fwready (w : Work) (c : Nat) (k : Core) :
    (w.setCore c k).fwready = w.fwready := rfl
@[simp] theorem Work.setCore_bootAt (w : Work) (c : Nat) (k : Core) :
    (w.setCore c k).bootAt = w.bootAt := rfl
@[simp] theorem Work.setCore_everLaunched (w : Work) (c : Nat) (k : Core) :
    (w.setCore c k).everLaunched = w.everLaunched := rfl
@[simp] theorem Work.setCore_plan (w : Work) (c : Nat) (k : Core) :
    (w.setCore c k).plan = w.plan := rfl
@[simp] theorem Work.setCore_fresh (w : Work) (c : Nat) (k : Core) :
    (w.setCore c k).fresh = w.fresh := rfl
@[simp] theorem Work.setCore_obs (w : Work) (c : Nat) (k : Core) :
    (w.setCore c k).obs = w.obs := rfl
@[simp] theorem Work.setCore_agenda (w : Work) (c : Nat) (k : Core) :
    (w.setCore c k).agenda = w.agenda := rfl
@[simp] theorem Work.setCore_cur (w : Work) (c : Nat) (k : Core) :
    (w.setCore c k).cur = w.cur := rfl
@[simp] theorem Work.setCore_under (w : Work) (c : Nat) (k : Core) :
    (w.setCore c k).under = w.under := rfl
@[simp] theorem Work.setCore_home (w : Work) (c : Nat) (k : Core) :
    (w.setCore c k).home = w.home := rfl
@[simp] theorem Work.setCore_log (w : Work) (c : Nat) (k : Core) :
    (w.setCore c k).log = w.log := rfl

/-! ## `Work.setCluster` changes `clusters` -/

@[simp] theorem Work.setCluster_tempo (w : Work) (c : Nat) (k : Cluster) :
    (w.setCluster c k).tempo = w.tempo := rfl
@[simp] theorem Work.setCluster_phase (w : Work) (c : Nat) (k : Cluster) :
    (w.setCluster c k).phase = w.phase := rfl
@[simp] theorem Work.setCluster_cores (w : Work) (c : Nat) (k : Cluster) :
    (w.setCluster c k).cores = w.cores := rfl
@[simp] theorem Work.setCluster_dies (w : Work) (c : Nat) (k : Cluster) :
    (w.setCluster c k).dies = w.dies := rfl
@[simp] theorem Work.setCluster_launches (w : Work) (c : Nat) (k : Cluster) :
    (w.setCluster c k).launches = w.launches := rfl
@[simp] theorem Work.setCluster_teams (w : Work) (c : Nat) (k : Cluster) :
    (w.setCluster c k).teams = w.teams := rfl
@[simp] theorem Work.setCluster_queues (w : Work) (c : Nat) (k : Cluster) :
    (w.setCluster c k).queues = w.queues := rfl
@[simp] theorem Work.setCluster_tensors (w : Work) (c : Nat) (k : Cluster) :
    (w.setCluster c k).tensors = w.tensors := rfl
@[simp] theorem Work.setCluster_shadow (w : Work) (c : Nat) (k : Cluster) :
    (w.setCluster c k).shadow = w.shadow := rfl
@[simp] theorem Work.setCluster_launchSeq (w : Work) (c : Nat) (k : Cluster) :
    (w.setCluster c k).launchSeq = w.launchSeq := rfl
@[simp] theorem Work.setCluster_gangSeq (w : Work) (c : Nat) (k : Cluster) :
    (w.setCluster c k).gangSeq = w.gangSeq := rfl
@[simp] theorem Work.setCluster_lastServed (w : Work) (c : Nat) (k : Cluster) :
    (w.setCluster c k).lastServed = w.lastServed := rfl
@[simp] theorem Work.setCluster_lastCluster (w : Work) (c : Nat) (k : Cluster) :
    (w.setCluster c k).lastCluster = w.lastCluster := rfl
@[simp] theorem Work.setCluster_admitAt (w : Work) (c : Nat) (k : Cluster) :
    (w.setCluster c k).admitAt = w.admitAt := rfl
@[simp] theorem Work.setCluster_placeAt (w : Work) (c : Nat) (k : Cluster) :
    (w.setCluster c k).placeAt = w.placeAt := rfl
@[simp] theorem Work.setCluster_preempt (w : Work) (c : Nat) (k : Cluster) :
    (w.setCluster c k).preempt = w.preempt := rfl
@[simp] theorem Work.setCluster_suspended (w : Work) (c : Nat) (k : Cluster) :
    (w.setCluster c k).suspended = w.suspended := rfl
@[simp] theorem Work.setCluster_pretime (w : Work) (c : Nat) (k : Cluster) :
    (w.setCluster c k).pretime = w.pretime := rfl
@[simp] theorem Work.setCluster_rootbase (w : Work) (c : Nat) (k : Cluster) :
    (w.setCluster c k).rootbase = w.rootbase := rfl
@[simp] theorem Work.setCluster_nmsplit (w : Work) (c : Nat) (k : Cluster) :
    (w.setCluster c k).nmsplit = w.nmsplit := rfl
@[simp] theorem Work.setCluster_tlbinv (w : Work) (c : Nat) (k : Cluster) :
    (w.setCluster c k).tlbinv = w.tlbinv := rfl
@[simp] theorem Work.setCluster_tlbinvOwn (w : Work) (c : Nat) (k : Cluster) :
    (w.setCluster c k).tlbinvOwn = w.tlbinvOwn := rfl
@[simp] theorem Work.setCluster_tlbBusy (w : Work) (c : Nat) (k : Cluster) :
    (w.setCluster c k).tlbBusy = w.tlbBusy := rfl
@[simp] theorem Work.setCluster_msgSeq (w : Work) (c : Nat) (k : Cluster) :
    (w.setCluster c k).msgSeq = w.msgSeq := rfl
@[simp] theorem Work.setCluster_io (w : Work) (c : Nat) (k : Cluster) :
    (w.setCluster c k).io = w.io := rfl
@[simp] theorem Work.setCluster_keys (w : Work) (c : Nat) (k : Cluster) :
    (w.setCluster c k).keys = w.keys := rfl
@[simp] theorem Work.setCluster_keyed (w : Work) (c : Nat) (k : Cluster) :
    (w.setCluster c k).keyed = w.keyed := rfl
@[simp] theorem Work.setCluster_tdis (w : Work) (c : Nat) (k : Cluster) :
    (w.setCluster c k).tdis = w.tdis := rfl
@[simp] theorem Work.setCluster_sesslife (w : Work) (c : Nat) (k : Cluster) :
    (w.setCluster c k).sesslife = w.sesslife := rfl
@[simp] theorem Work.setCluster_sessAt (w : Work) (c : Nat) (k : Cluster) :
    (w.setCluster c k).sessAt = w.sessAt := rfl
@[simp] theorem Work.setCluster_fabexp (w : Work) (c : Nat) (k : Cluster) :
    (w.setCluster c k).fabexp = w.fabexp := rfl
@[simp] theorem Work.setCluster_fabshr (w : Work) (c : Nat) (k : Cluster) :
    (w.setCluster c k).fabshr = w.fabshr := rfl
@[simp] theorem Work.setCluster_sharedOut (w : Work) (c : Nat) (k : Cluster) :
    (w.setCluster c k).sharedOut = w.sharedOut := rfl
@[simp] theorem Work.setCluster_retiring (w : Work) (c : Nat) (k : Cluster) :
    (w.setCluster c k).retiring = w.retiring := rfl
@[simp] theorem Work.setCluster_upsetMem (w : Work) (c : Nat) (k : Cluster) :
    (w.setCluster c k).upsetMem = w.upsetMem := rfl
@[simp] theorem Work.setCluster_upsetL2 (w : Work) (c : Nat) (k : Cluster) :
    (w.setCluster c k).upsetL2 = w.upsetL2 := rfl
@[simp] theorem Work.setCluster_supFault (w : Work) (c : Nat) (k : Cluster) :
    (w.setCluster c k).supFault = w.supFault := rfl
@[simp] theorem Work.setCluster_errlog (w : Work) (c : Nat) (k : Cluster) :
    (w.setCluster c k).errlog = w.errlog := rfl
@[simp] theorem Work.setCluster_errNext (w : Work) (c : Nat) (k : Cluster) :
    (w.setCluster c k).errNext = w.errNext := rfl
@[simp] theorem Work.setCluster_errCount (w : Work) (c : Nat) (k : Cluster) :
    (w.setCluster c k).errCount = w.errCount := rfl
@[simp] theorem Work.setCluster_bootwhy (w : Work) (c : Nat) (k : Cluster) :
    (w.setCluster c k).bootwhy = w.bootwhy := rfl
@[simp] theorem Work.setCluster_virst (w : Work) (c : Nat) (k : Cluster) :
    (w.setCluster c k).virst = w.virst := rfl
@[simp] theorem Work.setCluster_fwready (w : Work) (c : Nat) (k : Cluster) :
    (w.setCluster c k).fwready = w.fwready := rfl
@[simp] theorem Work.setCluster_bootAt (w : Work) (c : Nat) (k : Cluster) :
    (w.setCluster c k).bootAt = w.bootAt := rfl
@[simp] theorem Work.setCluster_everLaunched (w : Work) (c : Nat) (k : Cluster) :
    (w.setCluster c k).everLaunched = w.everLaunched := rfl
@[simp] theorem Work.setCluster_plan (w : Work) (c : Nat) (k : Cluster) :
    (w.setCluster c k).plan = w.plan := rfl
@[simp] theorem Work.setCluster_fresh (w : Work) (c : Nat) (k : Cluster) :
    (w.setCluster c k).fresh = w.fresh := rfl
@[simp] theorem Work.setCluster_obs (w : Work) (c : Nat) (k : Cluster) :
    (w.setCluster c k).obs = w.obs := rfl
@[simp] theorem Work.setCluster_agenda (w : Work) (c : Nat) (k : Cluster) :
    (w.setCluster c k).agenda = w.agenda := rfl
@[simp] theorem Work.setCluster_cur (w : Work) (c : Nat) (k : Cluster) :
    (w.setCluster c k).cur = w.cur := rfl
@[simp] theorem Work.setCluster_under (w : Work) (c : Nat) (k : Cluster) :
    (w.setCluster c k).under = w.under := rfl
@[simp] theorem Work.setCluster_home (w : Work) (c : Nat) (k : Cluster) :
    (w.setCluster c k).home = w.home := rfl
@[simp] theorem Work.setCluster_log (w : Work) (c : Nat) (k : Cluster) :
    (w.setCluster c k).log = w.log := rfl

/-! ## `Work.setDie` changes `dies` -/

@[simp] theorem Work.setDie_tempo (w : Work) (d : Nat) (k : Die) :
    (w.setDie d k).tempo = w.tempo := rfl
@[simp] theorem Work.setDie_phase (w : Work) (d : Nat) (k : Die) :
    (w.setDie d k).phase = w.phase := rfl
@[simp] theorem Work.setDie_cores (w : Work) (d : Nat) (k : Die) :
    (w.setDie d k).cores = w.cores := rfl
@[simp] theorem Work.setDie_clusters (w : Work) (d : Nat) (k : Die) :
    (w.setDie d k).clusters = w.clusters := rfl
@[simp] theorem Work.setDie_launches (w : Work) (d : Nat) (k : Die) :
    (w.setDie d k).launches = w.launches := rfl
@[simp] theorem Work.setDie_teams (w : Work) (d : Nat) (k : Die) :
    (w.setDie d k).teams = w.teams := rfl
@[simp] theorem Work.setDie_queues (w : Work) (d : Nat) (k : Die) :
    (w.setDie d k).queues = w.queues := rfl
@[simp] theorem Work.setDie_tensors (w : Work) (d : Nat) (k : Die) :
    (w.setDie d k).tensors = w.tensors := rfl
@[simp] theorem Work.setDie_shadow (w : Work) (d : Nat) (k : Die) :
    (w.setDie d k).shadow = w.shadow := rfl
@[simp] theorem Work.setDie_launchSeq (w : Work) (d : Nat) (k : Die) :
    (w.setDie d k).launchSeq = w.launchSeq := rfl
@[simp] theorem Work.setDie_gangSeq (w : Work) (d : Nat) (k : Die) :
    (w.setDie d k).gangSeq = w.gangSeq := rfl
@[simp] theorem Work.setDie_lastServed (w : Work) (d : Nat) (k : Die) :
    (w.setDie d k).lastServed = w.lastServed := rfl
@[simp] theorem Work.setDie_lastCluster (w : Work) (d : Nat) (k : Die) :
    (w.setDie d k).lastCluster = w.lastCluster := rfl
@[simp] theorem Work.setDie_admitAt (w : Work) (d : Nat) (k : Die) :
    (w.setDie d k).admitAt = w.admitAt := rfl
@[simp] theorem Work.setDie_placeAt (w : Work) (d : Nat) (k : Die) :
    (w.setDie d k).placeAt = w.placeAt := rfl
@[simp] theorem Work.setDie_preempt (w : Work) (d : Nat) (k : Die) :
    (w.setDie d k).preempt = w.preempt := rfl
@[simp] theorem Work.setDie_suspended (w : Work) (d : Nat) (k : Die) :
    (w.setDie d k).suspended = w.suspended := rfl
@[simp] theorem Work.setDie_pretime (w : Work) (d : Nat) (k : Die) :
    (w.setDie d k).pretime = w.pretime := rfl
@[simp] theorem Work.setDie_rootbase (w : Work) (d : Nat) (k : Die) :
    (w.setDie d k).rootbase = w.rootbase := rfl
@[simp] theorem Work.setDie_nmsplit (w : Work) (d : Nat) (k : Die) :
    (w.setDie d k).nmsplit = w.nmsplit := rfl
@[simp] theorem Work.setDie_tlbinv (w : Work) (d : Nat) (k : Die) :
    (w.setDie d k).tlbinv = w.tlbinv := rfl
@[simp] theorem Work.setDie_tlbinvOwn (w : Work) (d : Nat) (k : Die) :
    (w.setDie d k).tlbinvOwn = w.tlbinvOwn := rfl
@[simp] theorem Work.setDie_tlbBusy (w : Work) (d : Nat) (k : Die) :
    (w.setDie d k).tlbBusy = w.tlbBusy := rfl
@[simp] theorem Work.setDie_msgSeq (w : Work) (d : Nat) (k : Die) :
    (w.setDie d k).msgSeq = w.msgSeq := rfl
@[simp] theorem Work.setDie_io (w : Work) (d : Nat) (k : Die) : (w.setDie d k).io = w.io := rfl
@[simp] theorem Work.setDie_keys (w : Work) (d : Nat) (k : Die) :
    (w.setDie d k).keys = w.keys := rfl
@[simp] theorem Work.setDie_keyed (w : Work) (d : Nat) (k : Die) :
    (w.setDie d k).keyed = w.keyed := rfl
@[simp] theorem Work.setDie_tdis (w : Work) (d : Nat) (k : Die) :
    (w.setDie d k).tdis = w.tdis := rfl
@[simp] theorem Work.setDie_sesslife (w : Work) (d : Nat) (k : Die) :
    (w.setDie d k).sesslife = w.sesslife := rfl
@[simp] theorem Work.setDie_sessAt (w : Work) (d : Nat) (k : Die) :
    (w.setDie d k).sessAt = w.sessAt := rfl
@[simp] theorem Work.setDie_fabexp (w : Work) (d : Nat) (k : Die) :
    (w.setDie d k).fabexp = w.fabexp := rfl
@[simp] theorem Work.setDie_fabshr (w : Work) (d : Nat) (k : Die) :
    (w.setDie d k).fabshr = w.fabshr := rfl
@[simp] theorem Work.setDie_sharedOut (w : Work) (d : Nat) (k : Die) :
    (w.setDie d k).sharedOut = w.sharedOut := rfl
@[simp] theorem Work.setDie_retiring (w : Work) (d : Nat) (k : Die) :
    (w.setDie d k).retiring = w.retiring := rfl
@[simp] theorem Work.setDie_upsetMem (w : Work) (d : Nat) (k : Die) :
    (w.setDie d k).upsetMem = w.upsetMem := rfl
@[simp] theorem Work.setDie_upsetL2 (w : Work) (d : Nat) (k : Die) :
    (w.setDie d k).upsetL2 = w.upsetL2 := rfl
@[simp] theorem Work.setDie_supFault (w : Work) (d : Nat) (k : Die) :
    (w.setDie d k).supFault = w.supFault := rfl
@[simp] theorem Work.setDie_errlog (w : Work) (d : Nat) (k : Die) :
    (w.setDie d k).errlog = w.errlog := rfl
@[simp] theorem Work.setDie_errNext (w : Work) (d : Nat) (k : Die) :
    (w.setDie d k).errNext = w.errNext := rfl
@[simp] theorem Work.setDie_errCount (w : Work) (d : Nat) (k : Die) :
    (w.setDie d k).errCount = w.errCount := rfl
@[simp] theorem Work.setDie_bootwhy (w : Work) (d : Nat) (k : Die) :
    (w.setDie d k).bootwhy = w.bootwhy := rfl
@[simp] theorem Work.setDie_virst (w : Work) (d : Nat) (k : Die) :
    (w.setDie d k).virst = w.virst := rfl
@[simp] theorem Work.setDie_fwready (w : Work) (d : Nat) (k : Die) :
    (w.setDie d k).fwready = w.fwready := rfl
@[simp] theorem Work.setDie_bootAt (w : Work) (d : Nat) (k : Die) :
    (w.setDie d k).bootAt = w.bootAt := rfl
@[simp] theorem Work.setDie_everLaunched (w : Work) (d : Nat) (k : Die) :
    (w.setDie d k).everLaunched = w.everLaunched := rfl
@[simp] theorem Work.setDie_plan (w : Work) (d : Nat) (k : Die) :
    (w.setDie d k).plan = w.plan := rfl
@[simp] theorem Work.setDie_fresh (w : Work) (d : Nat) (k : Die) :
    (w.setDie d k).fresh = w.fresh := rfl
@[simp] theorem Work.setDie_obs (w : Work) (d : Nat) (k : Die) : (w.setDie d k).obs = w.obs := rfl
@[simp] theorem Work.setDie_agenda (w : Work) (d : Nat) (k : Die) :
    (w.setDie d k).agenda = w.agenda := rfl
@[simp] theorem Work.setDie_cur (w : Work) (d : Nat) (k : Die) : (w.setDie d k).cur = w.cur := rfl
@[simp] theorem Work.setDie_under (w : Work) (d : Nat) (k : Die) :
    (w.setDie d k).under = w.under := rfl
@[simp] theorem Work.setDie_home (w : Work) (d : Nat) (k : Die) :
    (w.setDie d k).home = w.home := rfl
@[simp] theorem Work.setDie_log (w : Work) (d : Nat) (k : Die) : (w.setDie d k).log = w.log := rfl

/-! ## `Work.setGrp` changes `cores` -/

@[simp] theorem Work.setGrp_tempo (w : Work) (c n : Nat) (g : Group) :
    (w.setGrp c n g).tempo = w.tempo := rfl
@[simp] theorem Work.setGrp_phase (w : Work) (c n : Nat) (g : Group) :
    (w.setGrp c n g).phase = w.phase := rfl
@[simp] theorem Work.setGrp_clusters (w : Work) (c n : Nat) (g : Group) :
    (w.setGrp c n g).clusters = w.clusters := rfl
@[simp] theorem Work.setGrp_dies (w : Work) (c n : Nat) (g : Group) :
    (w.setGrp c n g).dies = w.dies := rfl
@[simp] theorem Work.setGrp_launches (w : Work) (c n : Nat) (g : Group) :
    (w.setGrp c n g).launches = w.launches := rfl
@[simp] theorem Work.setGrp_teams (w : Work) (c n : Nat) (g : Group) :
    (w.setGrp c n g).teams = w.teams := rfl
@[simp] theorem Work.setGrp_queues (w : Work) (c n : Nat) (g : Group) :
    (w.setGrp c n g).queues = w.queues := rfl
@[simp] theorem Work.setGrp_tensors (w : Work) (c n : Nat) (g : Group) :
    (w.setGrp c n g).tensors = w.tensors := rfl
@[simp] theorem Work.setGrp_shadow (w : Work) (c n : Nat) (g : Group) :
    (w.setGrp c n g).shadow = w.shadow := rfl
@[simp] theorem Work.setGrp_launchSeq (w : Work) (c n : Nat) (g : Group) :
    (w.setGrp c n g).launchSeq = w.launchSeq := rfl
@[simp] theorem Work.setGrp_gangSeq (w : Work) (c n : Nat) (g : Group) :
    (w.setGrp c n g).gangSeq = w.gangSeq := rfl
@[simp] theorem Work.setGrp_lastServed (w : Work) (c n : Nat) (g : Group) :
    (w.setGrp c n g).lastServed = w.lastServed := rfl
@[simp] theorem Work.setGrp_lastCluster (w : Work) (c n : Nat) (g : Group) :
    (w.setGrp c n g).lastCluster = w.lastCluster := rfl
@[simp] theorem Work.setGrp_admitAt (w : Work) (c n : Nat) (g : Group) :
    (w.setGrp c n g).admitAt = w.admitAt := rfl
@[simp] theorem Work.setGrp_placeAt (w : Work) (c n : Nat) (g : Group) :
    (w.setGrp c n g).placeAt = w.placeAt := rfl
@[simp] theorem Work.setGrp_preempt (w : Work) (c n : Nat) (g : Group) :
    (w.setGrp c n g).preempt = w.preempt := rfl
@[simp] theorem Work.setGrp_suspended (w : Work) (c n : Nat) (g : Group) :
    (w.setGrp c n g).suspended = w.suspended := rfl
@[simp] theorem Work.setGrp_pretime (w : Work) (c n : Nat) (g : Group) :
    (w.setGrp c n g).pretime = w.pretime := rfl
@[simp] theorem Work.setGrp_rootbase (w : Work) (c n : Nat) (g : Group) :
    (w.setGrp c n g).rootbase = w.rootbase := rfl
@[simp] theorem Work.setGrp_nmsplit (w : Work) (c n : Nat) (g : Group) :
    (w.setGrp c n g).nmsplit = w.nmsplit := rfl
@[simp] theorem Work.setGrp_tlbinv (w : Work) (c n : Nat) (g : Group) :
    (w.setGrp c n g).tlbinv = w.tlbinv := rfl
@[simp] theorem Work.setGrp_tlbinvOwn (w : Work) (c n : Nat) (g : Group) :
    (w.setGrp c n g).tlbinvOwn = w.tlbinvOwn := rfl
@[simp] theorem Work.setGrp_tlbBusy (w : Work) (c n : Nat) (g : Group) :
    (w.setGrp c n g).tlbBusy = w.tlbBusy := rfl
@[simp] theorem Work.setGrp_msgSeq (w : Work) (c n : Nat) (g : Group) :
    (w.setGrp c n g).msgSeq = w.msgSeq := rfl
@[simp] theorem Work.setGrp_io (w : Work) (c n : Nat) (g : Group) :
    (w.setGrp c n g).io = w.io := rfl
@[simp] theorem Work.setGrp_keys (w : Work) (c n : Nat) (g : Group) :
    (w.setGrp c n g).keys = w.keys := rfl
@[simp] theorem Work.setGrp_keyed (w : Work) (c n : Nat) (g : Group) :
    (w.setGrp c n g).keyed = w.keyed := rfl
@[simp] theorem Work.setGrp_tdis (w : Work) (c n : Nat) (g : Group) :
    (w.setGrp c n g).tdis = w.tdis := rfl
@[simp] theorem Work.setGrp_sesslife (w : Work) (c n : Nat) (g : Group) :
    (w.setGrp c n g).sesslife = w.sesslife := rfl
@[simp] theorem Work.setGrp_sessAt (w : Work) (c n : Nat) (g : Group) :
    (w.setGrp c n g).sessAt = w.sessAt := rfl
@[simp] theorem Work.setGrp_fabexp (w : Work) (c n : Nat) (g : Group) :
    (w.setGrp c n g).fabexp = w.fabexp := rfl
@[simp] theorem Work.setGrp_fabshr (w : Work) (c n : Nat) (g : Group) :
    (w.setGrp c n g).fabshr = w.fabshr := rfl
@[simp] theorem Work.setGrp_sharedOut (w : Work) (c n : Nat) (g : Group) :
    (w.setGrp c n g).sharedOut = w.sharedOut := rfl
@[simp] theorem Work.setGrp_retiring (w : Work) (c n : Nat) (g : Group) :
    (w.setGrp c n g).retiring = w.retiring := rfl
@[simp] theorem Work.setGrp_upsetMem (w : Work) (c n : Nat) (g : Group) :
    (w.setGrp c n g).upsetMem = w.upsetMem := rfl
@[simp] theorem Work.setGrp_upsetL2 (w : Work) (c n : Nat) (g : Group) :
    (w.setGrp c n g).upsetL2 = w.upsetL2 := rfl
@[simp] theorem Work.setGrp_supFault (w : Work) (c n : Nat) (g : Group) :
    (w.setGrp c n g).supFault = w.supFault := rfl
@[simp] theorem Work.setGrp_errlog (w : Work) (c n : Nat) (g : Group) :
    (w.setGrp c n g).errlog = w.errlog := rfl
@[simp] theorem Work.setGrp_errNext (w : Work) (c n : Nat) (g : Group) :
    (w.setGrp c n g).errNext = w.errNext := rfl
@[simp] theorem Work.setGrp_errCount (w : Work) (c n : Nat) (g : Group) :
    (w.setGrp c n g).errCount = w.errCount := rfl
@[simp] theorem Work.setGrp_bootwhy (w : Work) (c n : Nat) (g : Group) :
    (w.setGrp c n g).bootwhy = w.bootwhy := rfl
@[simp] theorem Work.setGrp_virst (w : Work) (c n : Nat) (g : Group) :
    (w.setGrp c n g).virst = w.virst := rfl
@[simp] theorem Work.setGrp_fwready (w : Work) (c n : Nat) (g : Group) :
    (w.setGrp c n g).fwready = w.fwready := rfl
@[simp] theorem Work.setGrp_bootAt (w : Work) (c n : Nat) (g : Group) :
    (w.setGrp c n g).bootAt = w.bootAt := rfl
@[simp] theorem Work.setGrp_everLaunched (w : Work) (c n : Nat) (g : Group) :
    (w.setGrp c n g).everLaunched = w.everLaunched := rfl
@[simp] theorem Work.setGrp_plan (w : Work) (c n : Nat) (g : Group) :
    (w.setGrp c n g).plan = w.plan := rfl
@[simp] theorem Work.setGrp_fresh (w : Work) (c n : Nat) (g : Group) :
    (w.setGrp c n g).fresh = w.fresh := rfl
@[simp] theorem Work.setGrp_obs (w : Work) (c n : Nat) (g : Group) :
    (w.setGrp c n g).obs = w.obs := rfl
@[simp] theorem Work.setGrp_agenda (w : Work) (c n : Nat) (g : Group) :
    (w.setGrp c n g).agenda = w.agenda := rfl
@[simp] theorem Work.setGrp_cur (w : Work) (c n : Nat) (g : Group) :
    (w.setGrp c n g).cur = w.cur := rfl
@[simp] theorem Work.setGrp_under (w : Work) (c n : Nat) (g : Group) :
    (w.setGrp c n g).under = w.under := rfl
@[simp] theorem Work.setGrp_home (w : Work) (c n : Nat) (g : Group) :
    (w.setGrp c n g).home = w.home := rfl
@[simp] theorem Work.setGrp_log (w : Work) (c n : Nat) (g : Group) :
    (w.setGrp c n g).log = w.log := rfl

/-! ## `Work.delGrp` changes `cores` -/

@[simp] theorem Work.delGrp_tempo (w : Work) (c n : Nat) : (w.delGrp c n).tempo = w.tempo := rfl
@[simp] theorem Work.delGrp_phase (w : Work) (c n : Nat) : (w.delGrp c n).phase = w.phase := rfl
@[simp] theorem Work.delGrp_clusters (w : Work) (c n : Nat) :
    (w.delGrp c n).clusters = w.clusters := rfl
@[simp] theorem Work.delGrp_dies (w : Work) (c n : Nat) : (w.delGrp c n).dies = w.dies := rfl
@[simp] theorem Work.delGrp_launches (w : Work) (c n : Nat) :
    (w.delGrp c n).launches = w.launches := rfl
@[simp] theorem Work.delGrp_teams (w : Work) (c n : Nat) : (w.delGrp c n).teams = w.teams := rfl
@[simp] theorem Work.delGrp_queues (w : Work) (c n : Nat) : (w.delGrp c n).queues = w.queues := rfl
@[simp] theorem Work.delGrp_tensors (w : Work) (c n : Nat) :
    (w.delGrp c n).tensors = w.tensors := rfl
@[simp] theorem Work.delGrp_shadow (w : Work) (c n : Nat) : (w.delGrp c n).shadow = w.shadow := rfl
@[simp] theorem Work.delGrp_launchSeq (w : Work) (c n : Nat) :
    (w.delGrp c n).launchSeq = w.launchSeq := rfl
@[simp] theorem Work.delGrp_gangSeq (w : Work) (c n : Nat) :
    (w.delGrp c n).gangSeq = w.gangSeq := rfl
@[simp] theorem Work.delGrp_lastServed (w : Work) (c n : Nat) :
    (w.delGrp c n).lastServed = w.lastServed := rfl
@[simp] theorem Work.delGrp_lastCluster (w : Work) (c n : Nat) :
    (w.delGrp c n).lastCluster = w.lastCluster := rfl
@[simp] theorem Work.delGrp_admitAt (w : Work) (c n : Nat) :
    (w.delGrp c n).admitAt = w.admitAt := rfl
@[simp] theorem Work.delGrp_placeAt (w : Work) (c n : Nat) :
    (w.delGrp c n).placeAt = w.placeAt := rfl
@[simp] theorem Work.delGrp_preempt (w : Work) (c n : Nat) :
    (w.delGrp c n).preempt = w.preempt := rfl
@[simp] theorem Work.delGrp_suspended (w : Work) (c n : Nat) :
    (w.delGrp c n).suspended = w.suspended := rfl
@[simp] theorem Work.delGrp_pretime (w : Work) (c n : Nat) :
    (w.delGrp c n).pretime = w.pretime := rfl
@[simp] theorem Work.delGrp_rootbase (w : Work) (c n : Nat) :
    (w.delGrp c n).rootbase = w.rootbase := rfl
@[simp] theorem Work.delGrp_nmsplit (w : Work) (c n : Nat) :
    (w.delGrp c n).nmsplit = w.nmsplit := rfl
@[simp] theorem Work.delGrp_tlbinv (w : Work) (c n : Nat) : (w.delGrp c n).tlbinv = w.tlbinv := rfl
@[simp] theorem Work.delGrp_tlbinvOwn (w : Work) (c n : Nat) :
    (w.delGrp c n).tlbinvOwn = w.tlbinvOwn := rfl
@[simp] theorem Work.delGrp_tlbBusy (w : Work) (c n : Nat) :
    (w.delGrp c n).tlbBusy = w.tlbBusy := rfl
@[simp] theorem Work.delGrp_msgSeq (w : Work) (c n : Nat) : (w.delGrp c n).msgSeq = w.msgSeq := rfl
@[simp] theorem Work.delGrp_io (w : Work) (c n : Nat) : (w.delGrp c n).io = w.io := rfl
@[simp] theorem Work.delGrp_keys (w : Work) (c n : Nat) : (w.delGrp c n).keys = w.keys := rfl
@[simp] theorem Work.delGrp_keyed (w : Work) (c n : Nat) : (w.delGrp c n).keyed = w.keyed := rfl
@[simp] theorem Work.delGrp_tdis (w : Work) (c n : Nat) : (w.delGrp c n).tdis = w.tdis := rfl
@[simp] theorem Work.delGrp_sesslife (w : Work) (c n : Nat) :
    (w.delGrp c n).sesslife = w.sesslife := rfl
@[simp] theorem Work.delGrp_sessAt (w : Work) (c n : Nat) : (w.delGrp c n).sessAt = w.sessAt := rfl
@[simp] theorem Work.delGrp_fabexp (w : Work) (c n : Nat) : (w.delGrp c n).fabexp = w.fabexp := rfl
@[simp] theorem Work.delGrp_fabshr (w : Work) (c n : Nat) : (w.delGrp c n).fabshr = w.fabshr := rfl
@[simp] theorem Work.delGrp_sharedOut (w : Work) (c n : Nat) :
    (w.delGrp c n).sharedOut = w.sharedOut := rfl
@[simp] theorem Work.delGrp_retiring (w : Work) (c n : Nat) :
    (w.delGrp c n).retiring = w.retiring := rfl
@[simp] theorem Work.delGrp_upsetMem (w : Work) (c n : Nat) :
    (w.delGrp c n).upsetMem = w.upsetMem := rfl
@[simp] theorem Work.delGrp_upsetL2 (w : Work) (c n : Nat) :
    (w.delGrp c n).upsetL2 = w.upsetL2 := rfl
@[simp] theorem Work.delGrp_supFault (w : Work) (c n : Nat) :
    (w.delGrp c n).supFault = w.supFault := rfl
@[simp] theorem Work.delGrp_errlog (w : Work) (c n : Nat) : (w.delGrp c n).errlog = w.errlog := rfl
@[simp] theorem Work.delGrp_errNext (w : Work) (c n : Nat) :
    (w.delGrp c n).errNext = w.errNext := rfl
@[simp] theorem Work.delGrp_errCount (w : Work) (c n : Nat) :
    (w.delGrp c n).errCount = w.errCount := rfl
@[simp] theorem Work.delGrp_bootwhy (w : Work) (c n : Nat) :
    (w.delGrp c n).bootwhy = w.bootwhy := rfl
@[simp] theorem Work.delGrp_virst (w : Work) (c n : Nat) : (w.delGrp c n).virst = w.virst := rfl
@[simp] theorem Work.delGrp_fwready (w : Work) (c n : Nat) :
    (w.delGrp c n).fwready = w.fwready := rfl
@[simp] theorem Work.delGrp_bootAt (w : Work) (c n : Nat) : (w.delGrp c n).bootAt = w.bootAt := rfl
@[simp] theorem Work.delGrp_everLaunched (w : Work) (c n : Nat) :
    (w.delGrp c n).everLaunched = w.everLaunched := rfl
@[simp] theorem Work.delGrp_plan (w : Work) (c n : Nat) : (w.delGrp c n).plan = w.plan := rfl
@[simp] theorem Work.delGrp_fresh (w : Work) (c n : Nat) : (w.delGrp c n).fresh = w.fresh := rfl
@[simp] theorem Work.delGrp_obs (w : Work) (c n : Nat) : (w.delGrp c n).obs = w.obs := rfl
@[simp] theorem Work.delGrp_agenda (w : Work) (c n : Nat) : (w.delGrp c n).agenda = w.agenda := rfl
@[simp] theorem Work.delGrp_cur (w : Work) (c n : Nat) : (w.delGrp c n).cur = w.cur := rfl
@[simp] theorem Work.delGrp_under (w : Work) (c n : Nat) : (w.delGrp c n).under = w.under := rfl
@[simp] theorem Work.delGrp_home (w : Work) (c n : Nat) : (w.delGrp c n).home = w.home := rfl
@[simp] theorem Work.delGrp_log (w : Work) (c n : Nat) : (w.delGrp c n).log = w.log := rfl

/-! ## `Work.setTeam` changes `teams` -/

@[simp] theorem Work.setTeam_tempo (w : Work) (t : Team) : (w.setTeam t).tempo = w.tempo := rfl
@[simp] theorem Work.setTeam_phase (w : Work) (t : Team) : (w.setTeam t).phase = w.phase := rfl
@[simp] theorem Work.setTeam_cores (w : Work) (t : Team) : (w.setTeam t).cores = w.cores := rfl
@[simp] theorem Work.setTeam_clusters (w : Work) (t : Team) :
    (w.setTeam t).clusters = w.clusters := rfl
@[simp] theorem Work.setTeam_dies (w : Work) (t : Team) : (w.setTeam t).dies = w.dies := rfl
@[simp] theorem Work.setTeam_launches (w : Work) (t : Team) :
    (w.setTeam t).launches = w.launches := rfl
@[simp] theorem Work.setTeam_queues (w : Work) (t : Team) : (w.setTeam t).queues = w.queues := rfl
@[simp] theorem Work.setTeam_tensors (w : Work) (t : Team) :
    (w.setTeam t).tensors = w.tensors := rfl
@[simp] theorem Work.setTeam_shadow (w : Work) (t : Team) : (w.setTeam t).shadow = w.shadow := rfl
@[simp] theorem Work.setTeam_launchSeq (w : Work) (t : Team) :
    (w.setTeam t).launchSeq = w.launchSeq := rfl
@[simp] theorem Work.setTeam_gangSeq (w : Work) (t : Team) :
    (w.setTeam t).gangSeq = w.gangSeq := rfl
@[simp] theorem Work.setTeam_lastServed (w : Work) (t : Team) :
    (w.setTeam t).lastServed = w.lastServed := rfl
@[simp] theorem Work.setTeam_lastCluster (w : Work) (t : Team) :
    (w.setTeam t).lastCluster = w.lastCluster := rfl
@[simp] theorem Work.setTeam_admitAt (w : Work) (t : Team) :
    (w.setTeam t).admitAt = w.admitAt := rfl
@[simp] theorem Work.setTeam_placeAt (w : Work) (t : Team) :
    (w.setTeam t).placeAt = w.placeAt := rfl
@[simp] theorem Work.setTeam_preempt (w : Work) (t : Team) :
    (w.setTeam t).preempt = w.preempt := rfl
@[simp] theorem Work.setTeam_suspended (w : Work) (t : Team) :
    (w.setTeam t).suspended = w.suspended := rfl
@[simp] theorem Work.setTeam_pretime (w : Work) (t : Team) :
    (w.setTeam t).pretime = w.pretime := rfl
@[simp] theorem Work.setTeam_rootbase (w : Work) (t : Team) :
    (w.setTeam t).rootbase = w.rootbase := rfl
@[simp] theorem Work.setTeam_nmsplit (w : Work) (t : Team) :
    (w.setTeam t).nmsplit = w.nmsplit := rfl
@[simp] theorem Work.setTeam_tlbinv (w : Work) (t : Team) : (w.setTeam t).tlbinv = w.tlbinv := rfl
@[simp] theorem Work.setTeam_tlbinvOwn (w : Work) (t : Team) :
    (w.setTeam t).tlbinvOwn = w.tlbinvOwn := rfl
@[simp] theorem Work.setTeam_tlbBusy (w : Work) (t : Team) :
    (w.setTeam t).tlbBusy = w.tlbBusy := rfl
@[simp] theorem Work.setTeam_msgSeq (w : Work) (t : Team) : (w.setTeam t).msgSeq = w.msgSeq := rfl
@[simp] theorem Work.setTeam_io (w : Work) (t : Team) : (w.setTeam t).io = w.io := rfl
@[simp] theorem Work.setTeam_keys (w : Work) (t : Team) : (w.setTeam t).keys = w.keys := rfl
@[simp] theorem Work.setTeam_keyed (w : Work) (t : Team) : (w.setTeam t).keyed = w.keyed := rfl
@[simp] theorem Work.setTeam_tdis (w : Work) (t : Team) : (w.setTeam t).tdis = w.tdis := rfl
@[simp] theorem Work.setTeam_sesslife (w : Work) (t : Team) :
    (w.setTeam t).sesslife = w.sesslife := rfl
@[simp] theorem Work.setTeam_sessAt (w : Work) (t : Team) : (w.setTeam t).sessAt = w.sessAt := rfl
@[simp] theorem Work.setTeam_fabexp (w : Work) (t : Team) : (w.setTeam t).fabexp = w.fabexp := rfl
@[simp] theorem Work.setTeam_fabshr (w : Work) (t : Team) : (w.setTeam t).fabshr = w.fabshr := rfl
@[simp] theorem Work.setTeam_sharedOut (w : Work) (t : Team) :
    (w.setTeam t).sharedOut = w.sharedOut := rfl
@[simp] theorem Work.setTeam_retiring (w : Work) (t : Team) :
    (w.setTeam t).retiring = w.retiring := rfl
@[simp] theorem Work.setTeam_upsetMem (w : Work) (t : Team) :
    (w.setTeam t).upsetMem = w.upsetMem := rfl
@[simp] theorem Work.setTeam_upsetL2 (w : Work) (t : Team) :
    (w.setTeam t).upsetL2 = w.upsetL2 := rfl
@[simp] theorem Work.setTeam_supFault (w : Work) (t : Team) :
    (w.setTeam t).supFault = w.supFault := rfl
@[simp] theorem Work.setTeam_errlog (w : Work) (t : Team) : (w.setTeam t).errlog = w.errlog := rfl
@[simp] theorem Work.setTeam_errNext (w : Work) (t : Team) :
    (w.setTeam t).errNext = w.errNext := rfl
@[simp] theorem Work.setTeam_errCount (w : Work) (t : Team) :
    (w.setTeam t).errCount = w.errCount := rfl
@[simp] theorem Work.setTeam_bootwhy (w : Work) (t : Team) :
    (w.setTeam t).bootwhy = w.bootwhy := rfl
@[simp] theorem Work.setTeam_virst (w : Work) (t : Team) : (w.setTeam t).virst = w.virst := rfl
@[simp] theorem Work.setTeam_fwready (w : Work) (t : Team) :
    (w.setTeam t).fwready = w.fwready := rfl
@[simp] theorem Work.setTeam_bootAt (w : Work) (t : Team) : (w.setTeam t).bootAt = w.bootAt := rfl
@[simp] theorem Work.setTeam_everLaunched (w : Work) (t : Team) :
    (w.setTeam t).everLaunched = w.everLaunched := rfl
@[simp] theorem Work.setTeam_plan (w : Work) (t : Team) : (w.setTeam t).plan = w.plan := rfl
@[simp] theorem Work.setTeam_fresh (w : Work) (t : Team) : (w.setTeam t).fresh = w.fresh := rfl
@[simp] theorem Work.setTeam_obs (w : Work) (t : Team) : (w.setTeam t).obs = w.obs := rfl
@[simp] theorem Work.setTeam_agenda (w : Work) (t : Team) : (w.setTeam t).agenda = w.agenda := rfl
@[simp] theorem Work.setTeam_cur (w : Work) (t : Team) : (w.setTeam t).cur = w.cur := rfl
@[simp] theorem Work.setTeam_under (w : Work) (t : Team) : (w.setTeam t).under = w.under := rfl
@[simp] theorem Work.setTeam_home (w : Work) (t : Team) : (w.setTeam t).home = w.home := rfl
@[simp] theorem Work.setTeam_log (w : Work) (t : Team) : (w.setTeam t).log = w.log := rfl

/-! ## `Work.delTeam` changes `teams` -/

@[simp] theorem Work.delTeam_tempo (w : Work) (l i : Nat) : (w.delTeam l i).tempo = w.tempo := rfl
@[simp] theorem Work.delTeam_phase (w : Work) (l i : Nat) : (w.delTeam l i).phase = w.phase := rfl
@[simp] theorem Work.delTeam_cores (w : Work) (l i : Nat) : (w.delTeam l i).cores = w.cores := rfl
@[simp] theorem Work.delTeam_clusters (w : Work) (l i : Nat) :
    (w.delTeam l i).clusters = w.clusters := rfl
@[simp] theorem Work.delTeam_dies (w : Work) (l i : Nat) : (w.delTeam l i).dies = w.dies := rfl
@[simp] theorem Work.delTeam_launches (w : Work) (l i : Nat) :
    (w.delTeam l i).launches = w.launches := rfl
@[simp] theorem Work.delTeam_queues (w : Work) (l i : Nat) :
    (w.delTeam l i).queues = w.queues := rfl
@[simp] theorem Work.delTeam_tensors (w : Work) (l i : Nat) :
    (w.delTeam l i).tensors = w.tensors := rfl
@[simp] theorem Work.delTeam_shadow (w : Work) (l i : Nat) :
    (w.delTeam l i).shadow = w.shadow := rfl
@[simp] theorem Work.delTeam_launchSeq (w : Work) (l i : Nat) :
    (w.delTeam l i).launchSeq = w.launchSeq := rfl
@[simp] theorem Work.delTeam_gangSeq (w : Work) (l i : Nat) :
    (w.delTeam l i).gangSeq = w.gangSeq := rfl
@[simp] theorem Work.delTeam_lastServed (w : Work) (l i : Nat) :
    (w.delTeam l i).lastServed = w.lastServed := rfl
@[simp] theorem Work.delTeam_lastCluster (w : Work) (l i : Nat) :
    (w.delTeam l i).lastCluster = w.lastCluster := rfl
@[simp] theorem Work.delTeam_admitAt (w : Work) (l i : Nat) :
    (w.delTeam l i).admitAt = w.admitAt := rfl
@[simp] theorem Work.delTeam_placeAt (w : Work) (l i : Nat) :
    (w.delTeam l i).placeAt = w.placeAt := rfl
@[simp] theorem Work.delTeam_preempt (w : Work) (l i : Nat) :
    (w.delTeam l i).preempt = w.preempt := rfl
@[simp] theorem Work.delTeam_suspended (w : Work) (l i : Nat) :
    (w.delTeam l i).suspended = w.suspended := rfl
@[simp] theorem Work.delTeam_pretime (w : Work) (l i : Nat) :
    (w.delTeam l i).pretime = w.pretime := rfl
@[simp] theorem Work.delTeam_rootbase (w : Work) (l i : Nat) :
    (w.delTeam l i).rootbase = w.rootbase := rfl
@[simp] theorem Work.delTeam_nmsplit (w : Work) (l i : Nat) :
    (w.delTeam l i).nmsplit = w.nmsplit := rfl
@[simp] theorem Work.delTeam_tlbinv (w : Work) (l i : Nat) :
    (w.delTeam l i).tlbinv = w.tlbinv := rfl
@[simp] theorem Work.delTeam_tlbinvOwn (w : Work) (l i : Nat) :
    (w.delTeam l i).tlbinvOwn = w.tlbinvOwn := rfl
@[simp] theorem Work.delTeam_tlbBusy (w : Work) (l i : Nat) :
    (w.delTeam l i).tlbBusy = w.tlbBusy := rfl
@[simp] theorem Work.delTeam_msgSeq (w : Work) (l i : Nat) :
    (w.delTeam l i).msgSeq = w.msgSeq := rfl
@[simp] theorem Work.delTeam_io (w : Work) (l i : Nat) : (w.delTeam l i).io = w.io := rfl
@[simp] theorem Work.delTeam_keys (w : Work) (l i : Nat) : (w.delTeam l i).keys = w.keys := rfl
@[simp] theorem Work.delTeam_keyed (w : Work) (l i : Nat) : (w.delTeam l i).keyed = w.keyed := rfl
@[simp] theorem Work.delTeam_tdis (w : Work) (l i : Nat) : (w.delTeam l i).tdis = w.tdis := rfl
@[simp] theorem Work.delTeam_sesslife (w : Work) (l i : Nat) :
    (w.delTeam l i).sesslife = w.sesslife := rfl
@[simp] theorem Work.delTeam_sessAt (w : Work) (l i : Nat) :
    (w.delTeam l i).sessAt = w.sessAt := rfl
@[simp] theorem Work.delTeam_fabexp (w : Work) (l i : Nat) :
    (w.delTeam l i).fabexp = w.fabexp := rfl
@[simp] theorem Work.delTeam_fabshr (w : Work) (l i : Nat) :
    (w.delTeam l i).fabshr = w.fabshr := rfl
@[simp] theorem Work.delTeam_sharedOut (w : Work) (l i : Nat) :
    (w.delTeam l i).sharedOut = w.sharedOut := rfl
@[simp] theorem Work.delTeam_retiring (w : Work) (l i : Nat) :
    (w.delTeam l i).retiring = w.retiring := rfl
@[simp] theorem Work.delTeam_upsetMem (w : Work) (l i : Nat) :
    (w.delTeam l i).upsetMem = w.upsetMem := rfl
@[simp] theorem Work.delTeam_upsetL2 (w : Work) (l i : Nat) :
    (w.delTeam l i).upsetL2 = w.upsetL2 := rfl
@[simp] theorem Work.delTeam_supFault (w : Work) (l i : Nat) :
    (w.delTeam l i).supFault = w.supFault := rfl
@[simp] theorem Work.delTeam_errlog (w : Work) (l i : Nat) :
    (w.delTeam l i).errlog = w.errlog := rfl
@[simp] theorem Work.delTeam_errNext (w : Work) (l i : Nat) :
    (w.delTeam l i).errNext = w.errNext := rfl
@[simp] theorem Work.delTeam_errCount (w : Work) (l i : Nat) :
    (w.delTeam l i).errCount = w.errCount := rfl
@[simp] theorem Work.delTeam_bootwhy (w : Work) (l i : Nat) :
    (w.delTeam l i).bootwhy = w.bootwhy := rfl
@[simp] theorem Work.delTeam_virst (w : Work) (l i : Nat) : (w.delTeam l i).virst = w.virst := rfl
@[simp] theorem Work.delTeam_fwready (w : Work) (l i : Nat) :
    (w.delTeam l i).fwready = w.fwready := rfl
@[simp] theorem Work.delTeam_bootAt (w : Work) (l i : Nat) :
    (w.delTeam l i).bootAt = w.bootAt := rfl
@[simp] theorem Work.delTeam_everLaunched (w : Work) (l i : Nat) :
    (w.delTeam l i).everLaunched = w.everLaunched := rfl
@[simp] theorem Work.delTeam_plan (w : Work) (l i : Nat) : (w.delTeam l i).plan = w.plan := rfl
@[simp] theorem Work.delTeam_fresh (w : Work) (l i : Nat) : (w.delTeam l i).fresh = w.fresh := rfl
@[simp] theorem Work.delTeam_obs (w : Work) (l i : Nat) : (w.delTeam l i).obs = w.obs := rfl
@[simp] theorem Work.delTeam_agenda (w : Work) (l i : Nat) :
    (w.delTeam l i).agenda = w.agenda := rfl
@[simp] theorem Work.delTeam_cur (w : Work) (l i : Nat) : (w.delTeam l i).cur = w.cur := rfl
@[simp] theorem Work.delTeam_under (w : Work) (l i : Nat) : (w.delTeam l i).under = w.under := rfl
@[simp] theorem Work.delTeam_home (w : Work) (l i : Nat) : (w.delTeam l i).home = w.home := rfl
@[simp] theorem Work.delTeam_log (w : Work) (l i : Nat) : (w.delTeam l i).log = w.log := rfl

/-! ## `Work.modLaunch` changes `launches` -/

@[simp] theorem Work.modLaunch_tempo (w : Work) (l : Nat) (f : Launch → Launch) :
    (w.modLaunch l f).tempo = w.tempo := rfl
@[simp] theorem Work.modLaunch_phase (w : Work) (l : Nat) (f : Launch → Launch) :
    (w.modLaunch l f).phase = w.phase := rfl
@[simp] theorem Work.modLaunch_cores (w : Work) (l : Nat) (f : Launch → Launch) :
    (w.modLaunch l f).cores = w.cores := rfl
@[simp] theorem Work.modLaunch_clusters (w : Work) (l : Nat) (f : Launch → Launch) :
    (w.modLaunch l f).clusters = w.clusters := rfl
@[simp] theorem Work.modLaunch_dies (w : Work) (l : Nat) (f : Launch → Launch) :
    (w.modLaunch l f).dies = w.dies := rfl
@[simp] theorem Work.modLaunch_teams (w : Work) (l : Nat) (f : Launch → Launch) :
    (w.modLaunch l f).teams = w.teams := rfl
@[simp] theorem Work.modLaunch_queues (w : Work) (l : Nat) (f : Launch → Launch) :
    (w.modLaunch l f).queues = w.queues := rfl
@[simp] theorem Work.modLaunch_tensors (w : Work) (l : Nat) (f : Launch → Launch) :
    (w.modLaunch l f).tensors = w.tensors := rfl
@[simp] theorem Work.modLaunch_shadow (w : Work) (l : Nat) (f : Launch → Launch) :
    (w.modLaunch l f).shadow = w.shadow := rfl
@[simp] theorem Work.modLaunch_launchSeq (w : Work) (l : Nat) (f : Launch → Launch) :
    (w.modLaunch l f).launchSeq = w.launchSeq := rfl
@[simp] theorem Work.modLaunch_gangSeq (w : Work) (l : Nat) (f : Launch → Launch) :
    (w.modLaunch l f).gangSeq = w.gangSeq := rfl
@[simp] theorem Work.modLaunch_lastServed (w : Work) (l : Nat) (f : Launch → Launch) :
    (w.modLaunch l f).lastServed = w.lastServed := rfl
@[simp] theorem Work.modLaunch_lastCluster (w : Work) (l : Nat) (f : Launch → Launch) :
    (w.modLaunch l f).lastCluster = w.lastCluster := rfl
@[simp] theorem Work.modLaunch_admitAt (w : Work) (l : Nat) (f : Launch → Launch) :
    (w.modLaunch l f).admitAt = w.admitAt := rfl
@[simp] theorem Work.modLaunch_placeAt (w : Work) (l : Nat) (f : Launch → Launch) :
    (w.modLaunch l f).placeAt = w.placeAt := rfl
@[simp] theorem Work.modLaunch_preempt (w : Work) (l : Nat) (f : Launch → Launch) :
    (w.modLaunch l f).preempt = w.preempt := rfl
@[simp] theorem Work.modLaunch_suspended (w : Work) (l : Nat) (f : Launch → Launch) :
    (w.modLaunch l f).suspended = w.suspended := rfl
@[simp] theorem Work.modLaunch_pretime (w : Work) (l : Nat) (f : Launch → Launch) :
    (w.modLaunch l f).pretime = w.pretime := rfl
@[simp] theorem Work.modLaunch_rootbase (w : Work) (l : Nat) (f : Launch → Launch) :
    (w.modLaunch l f).rootbase = w.rootbase := rfl
@[simp] theorem Work.modLaunch_nmsplit (w : Work) (l : Nat) (f : Launch → Launch) :
    (w.modLaunch l f).nmsplit = w.nmsplit := rfl
@[simp] theorem Work.modLaunch_tlbinv (w : Work) (l : Nat) (f : Launch → Launch) :
    (w.modLaunch l f).tlbinv = w.tlbinv := rfl
@[simp] theorem Work.modLaunch_tlbinvOwn (w : Work) (l : Nat) (f : Launch → Launch) :
    (w.modLaunch l f).tlbinvOwn = w.tlbinvOwn := rfl
@[simp] theorem Work.modLaunch_tlbBusy (w : Work) (l : Nat) (f : Launch → Launch) :
    (w.modLaunch l f).tlbBusy = w.tlbBusy := rfl
@[simp] theorem Work.modLaunch_msgSeq (w : Work) (l : Nat) (f : Launch → Launch) :
    (w.modLaunch l f).msgSeq = w.msgSeq := rfl
@[simp] theorem Work.modLaunch_io (w : Work) (l : Nat) (f : Launch → Launch) :
    (w.modLaunch l f).io = w.io := rfl
@[simp] theorem Work.modLaunch_keys (w : Work) (l : Nat) (f : Launch → Launch) :
    (w.modLaunch l f).keys = w.keys := rfl
@[simp] theorem Work.modLaunch_keyed (w : Work) (l : Nat) (f : Launch → Launch) :
    (w.modLaunch l f).keyed = w.keyed := rfl
@[simp] theorem Work.modLaunch_tdis (w : Work) (l : Nat) (f : Launch → Launch) :
    (w.modLaunch l f).tdis = w.tdis := rfl
@[simp] theorem Work.modLaunch_sesslife (w : Work) (l : Nat) (f : Launch → Launch) :
    (w.modLaunch l f).sesslife = w.sesslife := rfl
@[simp] theorem Work.modLaunch_sessAt (w : Work) (l : Nat) (f : Launch → Launch) :
    (w.modLaunch l f).sessAt = w.sessAt := rfl
@[simp] theorem Work.modLaunch_fabexp (w : Work) (l : Nat) (f : Launch → Launch) :
    (w.modLaunch l f).fabexp = w.fabexp := rfl
@[simp] theorem Work.modLaunch_fabshr (w : Work) (l : Nat) (f : Launch → Launch) :
    (w.modLaunch l f).fabshr = w.fabshr := rfl
@[simp] theorem Work.modLaunch_sharedOut (w : Work) (l : Nat) (f : Launch → Launch) :
    (w.modLaunch l f).sharedOut = w.sharedOut := rfl
@[simp] theorem Work.modLaunch_retiring (w : Work) (l : Nat) (f : Launch → Launch) :
    (w.modLaunch l f).retiring = w.retiring := rfl
@[simp] theorem Work.modLaunch_upsetMem (w : Work) (l : Nat) (f : Launch → Launch) :
    (w.modLaunch l f).upsetMem = w.upsetMem := rfl
@[simp] theorem Work.modLaunch_upsetL2 (w : Work) (l : Nat) (f : Launch → Launch) :
    (w.modLaunch l f).upsetL2 = w.upsetL2 := rfl
@[simp] theorem Work.modLaunch_supFault (w : Work) (l : Nat) (f : Launch → Launch) :
    (w.modLaunch l f).supFault = w.supFault := rfl
@[simp] theorem Work.modLaunch_errlog (w : Work) (l : Nat) (f : Launch → Launch) :
    (w.modLaunch l f).errlog = w.errlog := rfl
@[simp] theorem Work.modLaunch_errNext (w : Work) (l : Nat) (f : Launch → Launch) :
    (w.modLaunch l f).errNext = w.errNext := rfl
@[simp] theorem Work.modLaunch_errCount (w : Work) (l : Nat) (f : Launch → Launch) :
    (w.modLaunch l f).errCount = w.errCount := rfl
@[simp] theorem Work.modLaunch_bootwhy (w : Work) (l : Nat) (f : Launch → Launch) :
    (w.modLaunch l f).bootwhy = w.bootwhy := rfl
@[simp] theorem Work.modLaunch_virst (w : Work) (l : Nat) (f : Launch → Launch) :
    (w.modLaunch l f).virst = w.virst := rfl
@[simp] theorem Work.modLaunch_fwready (w : Work) (l : Nat) (f : Launch → Launch) :
    (w.modLaunch l f).fwready = w.fwready := rfl
@[simp] theorem Work.modLaunch_bootAt (w : Work) (l : Nat) (f : Launch → Launch) :
    (w.modLaunch l f).bootAt = w.bootAt := rfl
@[simp] theorem Work.modLaunch_everLaunched (w : Work) (l : Nat) (f : Launch → Launch) :
    (w.modLaunch l f).everLaunched = w.everLaunched := rfl
@[simp] theorem Work.modLaunch_plan (w : Work) (l : Nat) (f : Launch → Launch) :
    (w.modLaunch l f).plan = w.plan := rfl
@[simp] theorem Work.modLaunch_fresh (w : Work) (l : Nat) (f : Launch → Launch) :
    (w.modLaunch l f).fresh = w.fresh := rfl
@[simp] theorem Work.modLaunch_obs (w : Work) (l : Nat) (f : Launch → Launch) :
    (w.modLaunch l f).obs = w.obs := rfl
@[simp] theorem Work.modLaunch_agenda (w : Work) (l : Nat) (f : Launch → Launch) :
    (w.modLaunch l f).agenda = w.agenda := rfl
@[simp] theorem Work.modLaunch_cur (w : Work) (l : Nat) (f : Launch → Launch) :
    (w.modLaunch l f).cur = w.cur := rfl
@[simp] theorem Work.modLaunch_under (w : Work) (l : Nat) (f : Launch → Launch) :
    (w.modLaunch l f).under = w.under := rfl
@[simp] theorem Work.modLaunch_home (w : Work) (l : Nat) (f : Launch → Launch) :
    (w.modLaunch l f).home = w.home := rfl
@[simp] theorem Work.modLaunch_log (w : Work) (l : Nat) (f : Launch → Launch) :
    (w.modLaunch l f).log = w.log := rfl

/-! ## `Work.poke` changes `log` -/

@[simp] theorem Work.poke_tempo (w : Work) (a : Nat) (b : Byte) :
    (w.poke a b).tempo = w.tempo := rfl
@[simp] theorem Work.poke_phase (w : Work) (a : Nat) (b : Byte) :
    (w.poke a b).phase = w.phase := rfl
@[simp] theorem Work.poke_cores (w : Work) (a : Nat) (b : Byte) :
    (w.poke a b).cores = w.cores := rfl
@[simp] theorem Work.poke_clusters (w : Work) (a : Nat) (b : Byte) :
    (w.poke a b).clusters = w.clusters := rfl
@[simp] theorem Work.poke_dies (w : Work) (a : Nat) (b : Byte) : (w.poke a b).dies = w.dies := rfl
@[simp] theorem Work.poke_launches (w : Work) (a : Nat) (b : Byte) :
    (w.poke a b).launches = w.launches := rfl
@[simp] theorem Work.poke_teams (w : Work) (a : Nat) (b : Byte) :
    (w.poke a b).teams = w.teams := rfl
@[simp] theorem Work.poke_queues (w : Work) (a : Nat) (b : Byte) :
    (w.poke a b).queues = w.queues := rfl
@[simp] theorem Work.poke_tensors (w : Work) (a : Nat) (b : Byte) :
    (w.poke a b).tensors = w.tensors := rfl
@[simp] theorem Work.poke_shadow (w : Work) (a : Nat) (b : Byte) :
    (w.poke a b).shadow = w.shadow := rfl
@[simp] theorem Work.poke_launchSeq (w : Work) (a : Nat) (b : Byte) :
    (w.poke a b).launchSeq = w.launchSeq := rfl
@[simp] theorem Work.poke_gangSeq (w : Work) (a : Nat) (b : Byte) :
    (w.poke a b).gangSeq = w.gangSeq := rfl
@[simp] theorem Work.poke_lastServed (w : Work) (a : Nat) (b : Byte) :
    (w.poke a b).lastServed = w.lastServed := rfl
@[simp] theorem Work.poke_lastCluster (w : Work) (a : Nat) (b : Byte) :
    (w.poke a b).lastCluster = w.lastCluster := rfl
@[simp] theorem Work.poke_admitAt (w : Work) (a : Nat) (b : Byte) :
    (w.poke a b).admitAt = w.admitAt := rfl
@[simp] theorem Work.poke_placeAt (w : Work) (a : Nat) (b : Byte) :
    (w.poke a b).placeAt = w.placeAt := rfl
@[simp] theorem Work.poke_preempt (w : Work) (a : Nat) (b : Byte) :
    (w.poke a b).preempt = w.preempt := rfl
@[simp] theorem Work.poke_suspended (w : Work) (a : Nat) (b : Byte) :
    (w.poke a b).suspended = w.suspended := rfl
@[simp] theorem Work.poke_pretime (w : Work) (a : Nat) (b : Byte) :
    (w.poke a b).pretime = w.pretime := rfl
@[simp] theorem Work.poke_rootbase (w : Work) (a : Nat) (b : Byte) :
    (w.poke a b).rootbase = w.rootbase := rfl
@[simp] theorem Work.poke_nmsplit (w : Work) (a : Nat) (b : Byte) :
    (w.poke a b).nmsplit = w.nmsplit := rfl
@[simp] theorem Work.poke_tlbinv (w : Work) (a : Nat) (b : Byte) :
    (w.poke a b).tlbinv = w.tlbinv := rfl
@[simp] theorem Work.poke_tlbinvOwn (w : Work) (a : Nat) (b : Byte) :
    (w.poke a b).tlbinvOwn = w.tlbinvOwn := rfl
@[simp] theorem Work.poke_tlbBusy (w : Work) (a : Nat) (b : Byte) :
    (w.poke a b).tlbBusy = w.tlbBusy := rfl
@[simp] theorem Work.poke_msgSeq (w : Work) (a : Nat) (b : Byte) :
    (w.poke a b).msgSeq = w.msgSeq := rfl
@[simp] theorem Work.poke_io (w : Work) (a : Nat) (b : Byte) : (w.poke a b).io = w.io := rfl
@[simp] theorem Work.poke_keys (w : Work) (a : Nat) (b : Byte) : (w.poke a b).keys = w.keys := rfl
@[simp] theorem Work.poke_keyed (w : Work) (a : Nat) (b : Byte) :
    (w.poke a b).keyed = w.keyed := rfl
@[simp] theorem Work.poke_tdis (w : Work) (a : Nat) (b : Byte) : (w.poke a b).tdis = w.tdis := rfl
@[simp] theorem Work.poke_sesslife (w : Work) (a : Nat) (b : Byte) :
    (w.poke a b).sesslife = w.sesslife := rfl
@[simp] theorem Work.poke_sessAt (w : Work) (a : Nat) (b : Byte) :
    (w.poke a b).sessAt = w.sessAt := rfl
@[simp] theorem Work.poke_fabexp (w : Work) (a : Nat) (b : Byte) :
    (w.poke a b).fabexp = w.fabexp := rfl
@[simp] theorem Work.poke_fabshr (w : Work) (a : Nat) (b : Byte) :
    (w.poke a b).fabshr = w.fabshr := rfl
@[simp] theorem Work.poke_sharedOut (w : Work) (a : Nat) (b : Byte) :
    (w.poke a b).sharedOut = w.sharedOut := rfl
@[simp] theorem Work.poke_retiring (w : Work) (a : Nat) (b : Byte) :
    (w.poke a b).retiring = w.retiring := rfl
@[simp] theorem Work.poke_upsetMem (w : Work) (a : Nat) (b : Byte) :
    (w.poke a b).upsetMem = w.upsetMem := rfl
@[simp] theorem Work.poke_upsetL2 (w : Work) (a : Nat) (b : Byte) :
    (w.poke a b).upsetL2 = w.upsetL2 := rfl
@[simp] theorem Work.poke_supFault (w : Work) (a : Nat) (b : Byte) :
    (w.poke a b).supFault = w.supFault := rfl
@[simp] theorem Work.poke_errlog (w : Work) (a : Nat) (b : Byte) :
    (w.poke a b).errlog = w.errlog := rfl
@[simp] theorem Work.poke_errNext (w : Work) (a : Nat) (b : Byte) :
    (w.poke a b).errNext = w.errNext := rfl
@[simp] theorem Work.poke_errCount (w : Work) (a : Nat) (b : Byte) :
    (w.poke a b).errCount = w.errCount := rfl
@[simp] theorem Work.poke_bootwhy (w : Work) (a : Nat) (b : Byte) :
    (w.poke a b).bootwhy = w.bootwhy := rfl
@[simp] theorem Work.poke_virst (w : Work) (a : Nat) (b : Byte) :
    (w.poke a b).virst = w.virst := rfl
@[simp] theorem Work.poke_fwready (w : Work) (a : Nat) (b : Byte) :
    (w.poke a b).fwready = w.fwready := rfl
@[simp] theorem Work.poke_bootAt (w : Work) (a : Nat) (b : Byte) :
    (w.poke a b).bootAt = w.bootAt := rfl
@[simp] theorem Work.poke_everLaunched (w : Work) (a : Nat) (b : Byte) :
    (w.poke a b).everLaunched = w.everLaunched := rfl
@[simp] theorem Work.poke_plan (w : Work) (a : Nat) (b : Byte) : (w.poke a b).plan = w.plan := rfl
@[simp] theorem Work.poke_fresh (w : Work) (a : Nat) (b : Byte) :
    (w.poke a b).fresh = w.fresh := rfl
@[simp] theorem Work.poke_obs (w : Work) (a : Nat) (b : Byte) : (w.poke a b).obs = w.obs := rfl
@[simp] theorem Work.poke_agenda (w : Work) (a : Nat) (b : Byte) :
    (w.poke a b).agenda = w.agenda := rfl
@[simp] theorem Work.poke_cur (w : Work) (a : Nat) (b : Byte) : (w.poke a b).cur = w.cur := rfl
@[simp] theorem Work.poke_under (w : Work) (a : Nat) (b : Byte) :
    (w.poke a b).under = w.under := rfl
@[simp] theorem Work.poke_home (w : Work) (a : Nat) (b : Byte) : (w.poke a b).home = w.home := rfl

/-! ## Updates of a group -/

@[simp] theorem Group.unready_fixed (g : Group) : g.unready.fixed = g.fixed := rfl
@[simp] theorem Group.unready_pc (g : Group) : g.unready.pc = g.pc := rfl
@[simp] theorem Group.park_pc (g : Group) (wt : Wait) : (g.park wt).pc = g.pc := rfl
@[simp] theorem Group.park_wait (g : Group) (wt : Wait) : (g.park wt).wait = wt := rfl
@[simp] theorem Group.park_kind (g : Group) (wt : Wait) : (g.park wt).kind = g.kind := rfl
@[simp] theorem Group.park_flights (g : Group) (wt : Wait) : (g.park wt).flights = g.flights := rfl
@[simp] theorem Group.stopAt_stopped (g : Group) (x : Word) : (g.stopAt x).stopped = true := rfl
@[simp] theorem Group.stopAt_pc (g : Group) (x : Word) : (g.stopAt x).pc = g.pc := rfl
@[simp] theorem Group.saveTrap_epc (g : Group) (k : Nat) (x l : Word) :
    (g.saveTrap k x l).epc = zext64 g.pc := rfl
@[simp] theorem Group.saveTrap_eexec (g : Group) (k : Nat) (x l : Word) :
    (g.saveTrap k x l).eexec = g.exec := rfl
@[simp] theorem Group.saveTrap_einfo (g : Group) (k : Nat) (x l : Word) :
    (g.saveTrap k x l).einfo = x := rfl
@[simp] theorem Group.saveTrap_elanes (g : Group) (k : Nat) (x l : Word) :
    (g.saveTrap k x l).elanes = l := rfl
@[simp] theorem Group.saveTrap_pc (g : Group) (k : Nat) (x l : Word) :
    (g.saveTrap k x l).pc = g.pc := rfl
@[simp] theorem Group.enterHandler_pc (g : Group) (p : Pc) (t : Nat) :
    (g.enterHandler p t).pc = p := rfl
@[simp] theorem Group.enterHandler_inHandler (g : Group) (p : Pc) (t : Nat) :
    (g.enterHandler p t).inHandler = true := rfl
@[simp] theorem Group.enterHandler_exec (g : Group) (p : Pc) (t : Nat) :
    (g.enterHandler p t).exec = g.live := rfl
@[simp] theorem Group.returnFromTrap_inHandler (g : Group) (n : Nat) :
    (g.returnFromTrap n).inHandler = false := rfl
@[simp] theorem Group.returnFromTrap_exec (g : Group) (n : Nat) :
    (g.returnFromTrap n).exec = g.eexec &&& g.live := rfl

/-! ## What `commit` keeps -/

@[simp] theorem commit_toMach (s : State) (w : Work) : (commit s w).toMach = w.toMach := rfl
@[simp] theorem commit_core (s : State) (w : Work) (c : Nat) : (commit s w).work.core c = w.core c :=
  rfl
@[simp] theorem commit_grp (s : State) (w : Work) (c n : Nat) :
    (commit s w).work.grp c n = w.grp c n := rfl
@[simp] theorem commit_cluster (s : State) (w : Work) (c : Nat) :
    (commit s w).work.cluster c = w.cluster c := rfl
@[simp] theorem commit_die (s : State) (w : Work) (d : Nat) : (commit s w).work.die d = w.die d := rfl
@[simp] theorem commit_team (s : State) (w : Work) (l i : Nat) :
    (commit s w).work.team l i = w.team l i := rfl
@[simp] theorem work_toMach (s : State) : s.work.toMach = s.toMach := rfl
@[simp] theorem work_log (s : State) : s.work.log = [] := rfl
@[simp] theorem work_home (s : State) : s.work.home = s.mem := rfl

end Sys2Proof.Machine
end

