-- ==== Sys2Proof/Tests/Slice0.lean ====
section
/-!
SUPPORT. Tests: ill-formed terms, words of every constructor, single steps, and for each statement
with hypotheses a state and operands that meet them.
-/

noncomputable section

namespace Sys2Proof.Tests

open Sys2Proof.Machine Sys2Proof.Claim

-- One theorem after another: checked side by side they hold more memory than the check allows.
set_option Elab.async false

/-! ## Ill-formed terms: one for each check -/

/-- R95, R134, R155, R165, R168, R170, R173, R177, R178, R207, R213 to R217, R226, R228, R299: code
fields that R96 reason 3 refuses. -/
theorem test_ill_formed_codes :
    ([.br 0 15 0, .br 0 19 0, .br 0 23 0, .wait 0 0 0, .vcmpI32 0 7 0 0 0, .vcmpN32 0 6 0 0 0,
      .vcmpF32 0 7 0 0 0, .vcmpF64 0 7 0 0 0, .vcvt 0 0 0 26, .vcvts 0 0 0 1,
      .vunpackF32H 0 0 0 2, .vunpackF32Bf 0 0 0 2, .vunpackHE4 0 0 0 2, .vunpackHE5 0 0 0 2,
      .vunpackI32I16 0 0 0 2, .vunpackI32N16 0 0 0 2, .vunpackI16I8 0 0 0 2,
      .vunpackI32I8 0 0 0 4, .vunpackI32N8 0 0 0 4, .vshflW 0 0 0 6, .vshflKW 0 0 0 6,
      .vrotW 0 0 0 6, .vrotKW 0 0 0 6, .vred 0 0 0 11, .vred 0 0 0 15, .vscan 0 0 0 11,
      .vvote 0 0 0 3, .prefetch 0 0 0 0 1, .prefetch 0 1 0 0 3, .vst 0 1 0 0 0 0, .vst 0 0 0 0 0 1,
      .tld 0 5 0 0 0 2, .tld 0 7 0 0 0 0, .tst 0 4 0 0 0 2, .tst 0 1 0 0 0 0, .fenceRel 0 5,
      .fenceAcq 0 5, .fenceAr 0 5, .waitcmp 0 0 0 6 0 0, .cwaitm 0 6 0 0] :
        List Instr).all (fun i => !i.wellFormed) = true := by rfl

/-- Words of another row: VSEL, PREFETCH, the null parcel. -/
theorem test_ill_formed_rows :
    ([.vcmpI32 0 6 0 0 0, .vld 0 7 0 0 0 0, .vaddI32Parcel 0 0 0] : List Instr).all
      (fun i => !i.wellFormed) = true := by rfl

/-- Events that name a core, slot, die, unit, slice, port or cluster that the part does not have. -/
theorem test_ill_formed_events :
    ([.parkedGroupReclaim 768, .groupPromote 0 48, .loadLand 768 0, .xcResultLand 768 0,
      .tbufAccessComplete 768 0, .storeAck 768 0, .fillReturn 768 0, .walkComplete 8,
      .groupRetire 768 0, .amArrival 768, .handlerSpawn 768, .signatureReceive 768,
      .signatureAckReceive 768, .sliceRequest 0 24, .monitorWakeArrive 768, .waitcmpTimeout 0 48,
      .monfullBackoffEnd 0 48, .msUnitAccess 0 3, .orderedUpdateArrive 8 0, .orderedFlush 0 3 0,
      .copyKickStart 768, .copyRecordDone 768, .matrixOpStart 768, .matrixBlockWrite 768,
      .matrixOpEnd 768, .matrixSplit 768 0, .externalWakeArrive 768, .paPark 96, .paRelease 96,
      .paRotate 768, .crreqWrite .supervisor 96 0, .rampEnd 96, .slewAdmit 8, .haltArrive 0 48,
      .takeback 768 0 0 false, .takebackRepeatCaught 768 0 0, .guardFailure 768 0,
      .tbwinRestart 768, .quarantineClear 768 true, .thermalSample 96 0, .dramRefresh 8 0,
      .crossbarGrant 0 48, .escapeChannelMove 8 0, .tempowTargetReached 0 48,
      .clockWindowBoundary 768] : List Instr).all (fun i => !i.wellFormed) = true := by rfl

/-! ## Words: one of every constructor, its fields placed as spec/opcode_table.json places them -/

theorem test_words_1 :
    decodeWord 0x00030003#32 = .ok (.trap 1 12) ∧
    decodeWord 0x00000203#32 = .ok (.rte 1) ∧
    decodeWord 0x00030403#32 = .ok (.svcall 1 12) ∧
    decodeWord 0x00030603#32 = .ok (.mbpop 1 12) ∧
    decodeWord 0x00030803#32 = .ok (.mbreply 1 12) ∧
    decodeWord 0x09330A03#32 = .ok (.mgnset 1 12 19 2) ∧
    decodeWord 0x29330A03#32 = .ok (.mgnsetW 1 12 19 2) ∧
    decodeWord 0x01330C03#32 = .ok (.qsave 1 12 19) ∧
    decodeWord 0x01330E03#32 = .ok (.qload 1 12 19) ∧
    decodeWord 0x00031003#32 = .ok (.tempow 1 12) ∧
    decodeWord 0x00001203#32 = .ok (.haltt 1) ∧
    decodeWord 0x0004F40B#32 = .ok (.br 1 26 19) ∧
    decodeWord 0x00001813#32 = .ok (.jmp 1 12) ∧
    decodeWord 0x0000181B#32 = .ok (.call 1 12) ∧
    decodeWord 0x00000023#32 = .ok (.nop 1) ∧
    decodeWord 0x00000223#32 = .ok (.exit 1) ∧
    decodeWord 0x00C00423#32 = .ok (.ret 1 12) ∧
    decodeWord 0x00C00623#32 = .ok (.jmpr 1 12) ∧
    decodeWord 0x01330823#32 = .ok (.smov 1 12 19) ∧
    decodeWord 0x09330A23#32 = .ok (.smovs 1 12 19 2) ∧
    decodeWord 0x09330C23#32 = .ok (.smovw 1 12 19 2) ∧
    decodeWord 0x00C00E23#32 = .ok (.fmtset 1 12) ∧
    decodeWord 0x4CC01023#32 = .ok (.fmtsetMask 1 12 19) ∧
    decodeWord 0x00031223#32 = .ok (.fmtget 1 12) ∧
    decodeWord 0x00031423#32 = .ok (.flgget 1 12) ∧
    decodeWord 0x00C01623#32 = .ok (.flgclr 1 12) ∧
    decodeWord 0x01315823#32 = .ok (.wait 1 5 19) ∧
    decodeWord 0x6933002B#32 = .ok (.sadd 1 12 19 26) ∧
    decodeWord 0x6933022B#32 = .ok (.ssub 1 12 19 26) ∧
    decodeWord 0x6933042B#32 = .ok (.smul 1 12 19 26) := by
  refine ⟨rfl, rfl, rfl, rfl, rfl, rfl, rfl, rfl, rfl, rfl, rfl, rfl, rfl, rfl, rfl, rfl, rfl, rfl, rfl, rfl, rfl, rfl, rfl, rfl, rfl, rfl, rfl, rfl, rfl, rfl⟩

theorem test_words_2 :
    decodeWord 0x6933062B#32 = .ok (.smulhI64 1 12 19 26) ∧
    decodeWord 0x6933082B#32 = .ok (.smulhN64 1 12 19 26) ∧
    decodeWord 0x69330A2B#32 = .ok (.sand 1 12 19 26) ∧
    decodeWord 0x69330C2B#32 = .ok (.sor 1 12 19 26) ∧
    decodeWord 0x69330E2B#32 = .ok (.sxor 1 12 19 26) ∧
    decodeWord 0x6933102B#32 = .ok (.sshl 1 12 19 26) ∧
    decodeWord 0x6933122B#32 = .ok (.sshr 1 12 19 26) ∧
    decodeWord 0x6933142B#32 = .ok (.ssra 1 12 19 26) ∧
    decodeWord 0x6933162B#32 = .ok (.sminI64 1 12 19 26) ∧
    decodeWord 0x6933182B#32 = .ok (.sminN64 1 12 19 26) ∧
    decodeWord 0x69331A2B#32 = .ok (.smaxI64 1 12 19 26) ∧
    decodeWord 0x69331C2B#32 = .ok (.smaxN64 1 12 19 26) ∧
    decodeWord 0x69331E2B#32 = .ok (.ssel 1 12 19 26) ∧
    decodeWord 0x6933202B#32 = .ok (.saddFl 1 12 19 26) ∧
    decodeWord 0x6933222B#32 = .ok (.ssubFl 1 12 19 26) ∧
    decodeWord 0x1A4CC033#32 = .ok (.saddi 1 12 19 26) ∧
    decodeWord 0x1A4CC233#32 = .ok (.smuli 1 12 19 26) ∧
    decodeWord 0x1A4CC433#32 = .ok (.sandi 1 12 19 26) ∧
    decodeWord 0x1A4CC633#32 = .ok (.sori 1 12 19 26) ∧
    decodeWord 0x1A4CC833#32 = .ok (.sxori 1 12 19 26) ∧
    decodeWord 0x1A4CCA33#32 = .ok (.sshli 1 12 19 26) ∧
    decodeWord 0x1A4CCC33#32 = .ok (.sshri 1 12 19 26) ∧
    decodeWord 0x1A4CCE33#32 = .ok (.ssrai 1 12 19 26) ∧
    decodeWord 0x0009983B#32 = .ok (.smovl 1 12 19) ∧
    decodeWord 0x00099843#32 = .ok (.sshin 1 12 19) ∧
    decodeWord 0x4CC0004B#32 = .ok (.scmp 1 12 19) ∧
    decodeWord 0x6933024B#32 = .ok (.scmpi 1 12 19 26) ∧
    decodeWord 0x21693053#32 = .ok (.sld 1 0 19 26 33) ∧
    decodeWord 0x21693853#32 = .ok (.sst 1 0 19 26 33) ∧
    decodeWord 0x00C0005B#32 = .ok (.ifm 1 12) := by
  refine ⟨rfl, rfl, rfl, rfl, rfl, rfl, rfl, rfl, rfl, rfl, rfl, rfl, rfl, rfl, rfl, rfl, rfl, rfl, rfl, rfl, rfl, rfl, rfl, rfl, rfl, rfl, rfl, rfl, rfl, rfl⟩

theorem test_words_3 :
    decodeWord 0x0000025B#32 = .ok (.elsem 1) ∧
    decodeWord 0x0000045B#32 = .ok (.endm 1) ∧
    decodeWord 0x00C0065B#32 = .ok (.brkm 1 12) ∧
    decodeWord 0x0000085B#32 = .ok (.brkmLoop 1) ∧
    decodeWord 0x69330A5B#32 = .ok (.mand 1 12 19 26) ∧
    decodeWord 0x69330C5B#32 = .ok (.mor 1 12 19 26) ∧
    decodeWord 0x69330E5B#32 = .ok (.mxor 1 12 19 26) ∧
    decodeWord 0x0133105B#32 = .ok (.mnot 1 12 19) ∧
    decodeWord 0x0133125B#32 = .ok (.mmov 1 12 19) ∧
    decodeWord 0x0133145B#32 = .ok (.mmovFromScalar 1 12 19) ∧
    decodeWord 0x0133165B#32 = .ok (.mmovToScalar 1 12 19) ∧
    decodeWord 0x0133185B#32 = .ok (.mpopc 1 12 19) ∧
    decodeWord 0x01331A5B#32 = .ok (.mfirst 1 12 19) ∧
    decodeWord 0x69330063#32 = .ok (.vaddI32 1 12 19 26) ∧
    decodeWord 0x69330263#32 = .ok (.vsubI32 1 12 19 26) ∧
    decodeWord 0x69330463#32 = .ok (.vmulI32 1 12 19 26) ∧
    decodeWord 0x69330663#32 = .ok (.vmulhI32 1 12 19 26) ∧
    decodeWord 0x69330863#32 = .ok (.vmulhN32 1 12 19 26) ∧
    decodeWord 0x69330A63#32 = .ok (.vmadI32 1 12 19 26) ∧
    decodeWord 0x69330C63#32 = .ok (.vdivI32 1 12 19 26) ∧
    decodeWord 0x69330E63#32 = .ok (.vdivN32 1 12 19 26) ∧
    decodeWord 0x69331063#32 = .ok (.vremI32 1 12 19 26) ∧
    decodeWord 0x69331263#32 = .ok (.vremN32 1 12 19 26) ∧
    decodeWord 0x69331463#32 = .ok (.vminI32 1 12 19 26) ∧
    decodeWord 0x69331663#32 = .ok (.vminN32 1 12 19 26) ∧
    decodeWord 0x69331863#32 = .ok (.vmaxI32 1 12 19 26) ∧
    decodeWord 0x69331A63#32 = .ok (.vmaxN32 1 12 19 26) ∧
    decodeWord 0x69331C63#32 = .ok (.vand 1 12 19 26) ∧
    decodeWord 0x69331E63#32 = .ok (.vor 1 12 19 26) ∧
    decodeWord 0x69332063#32 = .ok (.vxor 1 12 19 26) := by
  refine ⟨rfl, rfl, rfl, rfl, rfl, rfl, rfl, rfl, rfl, rfl, rfl, rfl, rfl, rfl, rfl, rfl, rfl, rfl, rfl, rfl, rfl, rfl, rfl, rfl, rfl, rfl, rfl, rfl, rfl, rfl⟩

theorem test_words_4 :
    decodeWord 0x69332263#32 = .ok (.vshl 1 12 19 26) ∧
    decodeWord 0x69332463#32 = .ok (.vshr 1 12 19 26) ∧
    decodeWord 0x69332663#32 = .ok (.vsra 1 12 19 26) ∧
    decodeWord 0x69332863#32 = .ok (.vaddc 1 12 19 26) ∧
    decodeWord 0x69332A63#32 = .ok (.vsubb 1 12 19 26) ∧
    decodeWord 0x01332C63#32 = .ok (.vabsI32 1 12 19) ∧
    decodeWord 0x01332E63#32 = .ok (.vnegI32 1 12 19) ∧
    decodeWord 0x01333063#32 = .ok (.vnot 1 12 19) ∧
    decodeWord 0x01333263#32 = .ok (.vpopc 1 12 19) ∧
    decodeWord 0x01333463#32 = .ok (.vclz 1 12 19) ∧
    decodeWord 0x01333663#32 = .ok (.vbrev 1 12 19) ∧
    decodeWord 0x69333863#32 = .ok (.vbfeI32 1 12 19 26) ∧
    decodeWord 0x69333A63#32 = .ok (.vbfeN32 1 12 19 26) ∧
    decodeWord 0x69333C63#32 = .ok (.vbfi 1 12 19 26) ∧
    decodeWord 0x01333E63#32 = .ok (.vmov 1 12 19) ∧
    decodeWord 0x6933006B#32 = .ok (.vaddI32Vs 1 12 19 26) ∧
    decodeWord 0x6933026B#32 = .ok (.vsubI32Vs 1 12 19 26) ∧
    decodeWord 0x6933046B#32 = .ok (.vmulI32Vs 1 12 19 26) ∧
    decodeWord 0x6933066B#32 = .ok (.vmulhI32Vs 1 12 19 26) ∧
    decodeWord 0x6933086B#32 = .ok (.vmulhN32Vs 1 12 19 26) ∧
    decodeWord 0x69330A6B#32 = .ok (.vmadI32Vs 1 12 19 26) ∧
    decodeWord 0x69330C6B#32 = .ok (.vdivI32Vs 1 12 19 26) ∧
    decodeWord 0x69330E6B#32 = .ok (.vdivN32Vs 1 12 19 26) ∧
    decodeWord 0x6933106B#32 = .ok (.vremI32Vs 1 12 19 26) ∧
    decodeWord 0x6933126B#32 = .ok (.vremN32Vs 1 12 19 26) ∧
    decodeWord 0x6933146B#32 = .ok (.vminI32Vs 1 12 19 26) ∧
    decodeWord 0x6933166B#32 = .ok (.vminN32Vs 1 12 19 26) ∧
    decodeWord 0x6933186B#32 = .ok (.vmaxI32Vs 1 12 19 26) ∧
    decodeWord 0x69331A6B#32 = .ok (.vmaxN32Vs 1 12 19 26) ∧
    decodeWord 0x69331C6B#32 = .ok (.vandVs 1 12 19 26) := by
  refine ⟨rfl, rfl, rfl, rfl, rfl, rfl, rfl, rfl, rfl, rfl, rfl, rfl, rfl, rfl, rfl, rfl, rfl, rfl, rfl, rfl, rfl, rfl, rfl, rfl, rfl, rfl, rfl, rfl, rfl, rfl⟩

theorem test_words_5 :
    decodeWord 0x69331E6B#32 = .ok (.vorVs 1 12 19 26) ∧
    decodeWord 0x6933206B#32 = .ok (.vxorVs 1 12 19 26) ∧
    decodeWord 0x6933226B#32 = .ok (.vshlVs 1 12 19 26) ∧
    decodeWord 0x6933246B#32 = .ok (.vshrVs 1 12 19 26) ∧
    decodeWord 0x6933266B#32 = .ok (.vsraVs 1 12 19 26) ∧
    decodeWord 0x6933286B#32 = .ok (.vaddcVs 1 12 19 26) ∧
    decodeWord 0x69332A6B#32 = .ok (.vsubbVs 1 12 19 26) ∧
    decodeWord 0x6933386B#32 = .ok (.vbfeI32Vs 1 12 19 26) ∧
    decodeWord 0x69333A6B#32 = .ok (.vbfeN32Vs 1 12 19 26) ∧
    decodeWord 0x69333C6B#32 = .ok (.vbfiVs 1 12 19 26) ∧
    decodeWord 0x4C033E6B#32 = .ok (.vmovVs 1 12 19) ∧
    decodeWord 0x1A4CC073#32 = .ok (.vaddI32Vi 1 12 19 26) ∧
    decodeWord 0x1A4CC273#32 = .ok (.vmulI32Vi 1 12 19 26) ∧
    decodeWord 0x1A4CC473#32 = .ok (.vandVi 1 12 19 26) ∧
    decodeWord 0x1A4CC673#32 = .ok (.vorVi 1 12 19 26) ∧
    decodeWord 0x1A4CC873#32 = .ok (.vxorVi 1 12 19 26) ∧
    decodeWord 0x1A4CCA73#32 = .ok (.vshlVi 1 12 19 26) ∧
    decodeWord 0x1A4CCC73#32 = .ok (.vshrVi 1 12 19 26) ∧
    decodeWord 0x1A4CCE73#32 = .ok (.vsraVi 1 12 19 26) ∧
    decodeWord 0x85A4C67B#32 = .ok (.vcmpI32 1 3 19 26 33) ∧
    decodeWord 0x69330C7B#32 = .ok (.vsel 1 12 19 26) ∧
    decodeWord 0x85A4D87B#32 = .ok (.vcmpN32 1 4 19 26 33) ∧
    decodeWord 0x85A4EA7B#32 = .ok (.vcmpF32 1 5 19 26 33) ∧
    decodeWord 0x85A4FC7B#32 = .ok (.vcmpF64 1 6 19 26 33) ∧
    decodeWord 0x69330083#32 = .ok (.vfaddF32 1 12 19 26) ∧
    decodeWord 0x69330283#32 = .ok (.vfsubF32 1 12 19 26) ∧
    decodeWord 0x69330483#32 = .ok (.vfmulF32 1 12 19 26) ∧
    decodeWord 0x69330683#32 = .ok (.vfmaF32 1 12 19 26) ∧
    decodeWord 0x69330883#32 = .ok (.vfmsF32 1 12 19 26) ∧
    decodeWord 0x69330A83#32 = .ok (.vfminF32 1 12 19 26) := by
  refine ⟨rfl, rfl, rfl, rfl, rfl, rfl, rfl, rfl, rfl, rfl, rfl, rfl, rfl, rfl, rfl, rfl, rfl, rfl, rfl, rfl, rfl, rfl, rfl, rfl, rfl, rfl, rfl, rfl, rfl, rfl⟩

theorem test_words_6 :
    decodeWord 0x69330C83#32 = .ok (.vfmaxF32 1 12 19 26) ∧
    decodeWord 0x01330E83#32 = .ok (.vfabsF32 1 12 19) ∧
    decodeWord 0x01331083#32 = .ok (.vfnegF32 1 12 19) ∧
    decodeWord 0x69331283#32 = .ok (.vfdivF32 1 12 19 26) ∧
    decodeWord 0x01331483#32 = .ok (.vfsqrtF32 1 12 19) ∧
    decodeWord 0x01331683#32 = .ok (.vfclassF32 1 12 19) ∧
    decodeWord 0x6933008B#32 = .ok (.vfaddF32Vs 1 12 19 26) ∧
    decodeWord 0x6933028B#32 = .ok (.vfsubF32Vs 1 12 19 26) ∧
    decodeWord 0x6933048B#32 = .ok (.vfmulF32Vs 1 12 19 26) ∧
    decodeWord 0x6933068B#32 = .ok (.vfmaF32Vs 1 12 19 26) ∧
    decodeWord 0x6933088B#32 = .ok (.vfmsF32Vs 1 12 19 26) ∧
    decodeWord 0x69330A8B#32 = .ok (.vfminF32Vs 1 12 19 26) ∧
    decodeWord 0x69330C8B#32 = .ok (.vfmaxF32Vs 1 12 19 26) ∧
    decodeWord 0x6933128B#32 = .ok (.vfdivF32Vs 1 12 19 26) ∧
    decodeWord 0x69330093#32 = .ok (.vfaddF64 1 12 19 26) ∧
    decodeWord 0x69330293#32 = .ok (.vfsubF64 1 12 19 26) ∧
    decodeWord 0x69330493#32 = .ok (.vfmulF64 1 12 19 26) ∧
    decodeWord 0x69330693#32 = .ok (.vfmaF64 1 12 19 26) ∧
    decodeWord 0x69330893#32 = .ok (.vfmsF64 1 12 19 26) ∧
    decodeWord 0x69330A93#32 = .ok (.vfminF64 1 12 19 26) ∧
    decodeWord 0x69330C93#32 = .ok (.vfmaxF64 1 12 19 26) ∧
    decodeWord 0x01330E93#32 = .ok (.vfabsF64 1 12 19) ∧
    decodeWord 0x01331093#32 = .ok (.vfnegF64 1 12 19) ∧
    decodeWord 0x69331293#32 = .ok (.vfdivF64 1 12 19 26) ∧
    decodeWord 0x01331493#32 = .ok (.vfsqrtF64 1 12 19) ∧
    decodeWord 0x01331693#32 = .ok (.vfclassF64 1 12 19) ∧
    decodeWord 0x69332093#32 = .ok (.vrecon 1 12 19 26) ∧
    decodeWord 0x6933009B#32 = .ok (.vhaddH 1 12 19 26) ∧
    decodeWord 0x6933029B#32 = .ok (.vhmulH 1 12 19 26) ∧
    decodeWord 0x6933049B#32 = .ok (.vhfmaH 1 12 19 26) := by
  refine ⟨rfl, rfl, rfl, rfl, rfl, rfl, rfl, rfl, rfl, rfl, rfl, rfl, rfl, rfl, rfl, rfl, rfl, rfl, rfl, rfl, rfl, rfl, rfl, rfl, rfl, rfl, rfl, rfl, rfl, rfl⟩

theorem test_words_7 :
    decodeWord 0x6933109B#32 = .ok (.vhaddBf 1 12 19 26) ∧
    decodeWord 0x6933129B#32 = .ok (.vhmulBf 1 12 19 26) ∧
    decodeWord 0x6933149B#32 = .ok (.vhfmaBf 1 12 19 26) ∧
    decodeWord 0x4D3300A3#32 = .ok (.vcvt 1 12 19 19) ∧
    decodeWord 0x453302A3#32 = .ok (.vcvts 1 12 19 17) ∧
    decodeWord 0x693304A3#32 = .ok (.vpackHF32 1 12 19 26) ∧
    decodeWord 0x693306A3#32 = .ok (.vpackBfF32 1 12 19 26) ∧
    decodeWord 0x693308A3#32 = .ok (.vpackE4H 1 12 19 26) ∧
    decodeWord 0x69330AA3#32 = .ok (.vpackE5H 1 12 19 26) ∧
    decodeWord 0x69330CA3#32 = .ok (.vpackI16I32 1 12 19 26) ∧
    decodeWord 0x69330EA3#32 = .ok (.vpackN16I32 1 12 19 26) ∧
    decodeWord 0x693310A3#32 = .ok (.vpackI8I16 1 12 19 26) ∧
    decodeWord 0x693312A3#32 = .ok (.vpackN8I16 1 12 19 26) ∧
    decodeWord 0x693314A3#32 = .ok (.vpackHF32Sat 1 12 19 26) ∧
    decodeWord 0x693316A3#32 = .ok (.vpackBfF32Sat 1 12 19 26) ∧
    decodeWord 0x693318A3#32 = .ok (.vpackE4HSat 1 12 19 26) ∧
    decodeWord 0x69331AA3#32 = .ok (.vpackE5HSat 1 12 19 26) ∧
    decodeWord 0x053320A3#32 = .ok (.vunpackF32H 1 12 19 1) ∧
    decodeWord 0x053322A3#32 = .ok (.vunpackF32Bf 1 12 19 1) ∧
    decodeWord 0x053324A3#32 = .ok (.vunpackHE4 1 12 19 1) ∧
    decodeWord 0x053326A3#32 = .ok (.vunpackHE5 1 12 19 1) ∧
    decodeWord 0x053328A3#32 = .ok (.vunpackI32I16 1 12 19 1) ∧
    decodeWord 0x05332AA3#32 = .ok (.vunpackI32N16 1 12 19 1) ∧
    decodeWord 0x05332CA3#32 = .ok (.vunpackI16I8 1 12 19 1) ∧
    decodeWord 0x05332EA3#32 = .ok (.vunpackI32I8 1 12 19 1) ∧
    decodeWord 0x053330A3#32 = .ok (.vunpackI32N8 1 12 19 1) ∧
    decodeWord 0x013300AB#32 = .ok (.vrcpF32 1 12 19) ∧
    decodeWord 0x013302AB#32 = .ok (.vrsqF32 1 12 19) ∧
    decodeWord 0x013304AB#32 = .ok (.vexp2F32 1 12 19) ∧
    decodeWord 0x013306AB#32 = .ok (.vlog2F32 1 12 19) := by
  refine ⟨rfl, rfl, rfl, rfl, rfl, rfl, rfl, rfl, rfl, rfl, rfl, rfl, rfl, rfl, rfl, rfl, rfl, rfl, rfl, rfl, rfl, rfl, rfl, rfl, rfl, rfl, rfl, rfl, rfl, rfl⟩

theorem test_words_8 :
    decodeWord 0x013308AB#32 = .ok (.vsinF32 1 12 19) ∧
    decodeWord 0x01330AAB#32 = .ok (.vcosF32 1 12 19) ∧
    decodeWord 0x693300B3#32 = .ok (.vperm 1 12 19 26) ∧
    decodeWord 0x693302B3#32 = .ok (.vpermK 1 12 19 26) ∧
    decodeWord 0x693304B3#32 = .ok (.vshfl 1 12 19 26) ∧
    decodeWord 0x693306B3#32 = .ok (.vshflK 1 12 19 26) ∧
    decodeWord 0x113308B3#32 = .ok (.vshflW 1 12 19 4) ∧
    decodeWord 0x11330AB3#32 = .ok (.vshflKW 1 12 19 4) ∧
    decodeWord 0x69330CB3#32 = .ok (.vrot 1 12 19 26) ∧
    decodeWord 0x69330EB3#32 = .ok (.vrotK 1 12 19 26) ∧
    decodeWord 0x113310B3#32 = .ok (.vrotW 1 12 19 4) ∧
    decodeWord 0x113312B3#32 = .ok (.vrotKW 1 12 19 4) ∧
    decodeWord 0x693314B3#32 = .ok (.vbcast 1 12 19 26) ∧
    decodeWord 0x693316B3#32 = .ok (.vbcastK 1 12 19 26) ∧
    decodeWord 0x353318B3#32 = .ok (.vred 1 12 19 13) ∧
    decodeWord 0x25331AB3#32 = .ok (.vscan 1 12 19 9) ∧
    decodeWord 0x01331CB3#32 = .ok (.vballot 1 12 19) ∧
    decodeWord 0x09331EB3#32 = .ok (.vvote 1 12 19 2) ∧
    decodeWord 0x693300BB#32 = .ok (.vmovsN32 1 12 19 26) ∧
    decodeWord 0x693302BB#32 = .ok (.vmovsI32 1 12 19 26) ∧
    decodeWord 0x693304BB#32 = .ok (.vmovsN64 1 12 19 26) ∧
    decodeWord 0x693306BB#32 = .ok (.vmovl 1 12 19 26) ∧
    decodeWord 0x693308BB#32 = .ok (.vinsN32 1 12 19 26) ∧
    decodeWord 0x69330ABB#32 = .ok (.vinsN64 1 12 19 26) ∧
    decodeWord 0x00030CBB#32 = .ok (.vlane 1 12) ∧
    decodeWord 0xA216B8C3#32 = .ok (.vsplit 1 4 3 26 33 40) ∧
    decodeWord 0x21693ACB#32 = .ok (.vld 1 5 19 26 33 0) ∧
    decodeWord 0x5A4C1ECB#32 = .ok (.prefetch 1 1 19 26 1) ∧
    decodeWord 0xA1693AD3#32 = .ok (.vst 1 5 19 26 33 2) ∧
    decodeWord 0x85A4C0DB#32 = .ok (.atomAdd 1 0 19 26 33) := by
  refine ⟨rfl, rfl, rfl, rfl, rfl, rfl, rfl, rfl, rfl, rfl, rfl, rfl, rfl, rfl, rfl, rfl, rfl, rfl, rfl, rfl, rfl, rfl, rfl, rfl, rfl, rfl, rfl, rfl, rfl, rfl⟩

theorem test_words_9 :
    decodeWord 0x85A4C2DB#32 = .ok (.atomMin 1 0 19 26 33) ∧
    decodeWord 0x85A4C4DB#32 = .ok (.atomMax 1 0 19 26 33) ∧
    decodeWord 0x85A4C6DB#32 = .ok (.atomMinu 1 0 19 26 33) ∧
    decodeWord 0x85A4C8DB#32 = .ok (.atomMaxu 1 0 19 26 33) ∧
    decodeWord 0x85A4CADB#32 = .ok (.atomAnd 1 0 19 26 33) ∧
    decodeWord 0x85A4CCDB#32 = .ok (.atomOr 1 0 19 26 33) ∧
    decodeWord 0x85A4CEDB#32 = .ok (.atomXor 1 0 19 26 33) ∧
    decodeWord 0x693310DB#32 = .ok (.atomXchg 1 12 19 26) ∧
    decodeWord 0x693312DB#32 = .ok (.cas 1 12 19 26) ∧
    decodeWord 0x4CC000E3#32 = .ok (.redAdd 1 12 19) ∧
    decodeWord 0x4CC002E3#32 = .ok (.redMin 1 12 19) ∧
    decodeWord 0x4CC004E3#32 = .ok (.redMax 1 12 19) ∧
    decodeWord 0x4CC006E3#32 = .ok (.redMinu 1 12 19) ∧
    decodeWord 0x4CC008E3#32 = .ok (.redMaxu 1 12 19) ∧
    decodeWord 0x4CC00AE3#32 = .ok (.redAnd 1 12 19) ∧
    decodeWord 0x4CC00CE3#32 = .ok (.redOr 1 12 19) ∧
    decodeWord 0x4CC00EE3#32 = .ok (.redXor 1 12 19) ∧
    decodeWord 0x693010E3#32 = .ok (.redAddF32 1 0 19 26) ∧
    decodeWord 0x693012E3#32 = .ok (.redAddBf 1 0 19 26) ∧
    decodeWord 0x85A4C0EB#32 = .ok (.atomdAdd 1 0 19 26 33) ∧
    decodeWord 0x85A4C2EB#32 = .ok (.atomdMin 1 0 19 26 33) ∧
    decodeWord 0x85A4C4EB#32 = .ok (.atomdMax 1 0 19 26 33) ∧
    decodeWord 0x85A4C6EB#32 = .ok (.atomdMinu 1 0 19 26 33) ∧
    decodeWord 0x85A4C8EB#32 = .ok (.atomdMaxu 1 0 19 26 33) ∧
    decodeWord 0x85A4CAEB#32 = .ok (.atomdAnd 1 0 19 26 33) ∧
    decodeWord 0x85A4CCEB#32 = .ok (.atomdOr 1 0 19 26 33) ∧
    decodeWord 0x85A4CEEB#32 = .ok (.atomdXor 1 0 19 26 33) ∧
    decodeWord 0x693310EB#32 = .ok (.atomdXchg 1 12 19 26) ∧
    decodeWord 0x693312EB#32 = .ok (.casd 1 12 19 26) ∧
    decodeWord 0x4CC000F3#32 = .ok (.reddAdd 1 12 19) := by
  refine ⟨rfl, rfl, rfl, rfl, rfl, rfl, rfl, rfl, rfl, rfl, rfl, rfl, rfl, rfl, rfl, rfl, rfl, rfl, rfl, rfl, rfl, rfl, rfl, rfl, rfl, rfl, rfl, rfl, rfl, rfl⟩

theorem test_words_10 :
    decodeWord 0x4CC002F3#32 = .ok (.reddMin 1 12 19) ∧
    decodeWord 0x4CC004F3#32 = .ok (.reddMax 1 12 19) ∧
    decodeWord 0x4CC006F3#32 = .ok (.reddMinu 1 12 19) ∧
    decodeWord 0x4CC008F3#32 = .ok (.reddMaxu 1 12 19) ∧
    decodeWord 0x4CC00AF3#32 = .ok (.reddAnd 1 12 19) ∧
    decodeWord 0x4CC00CF3#32 = .ok (.reddOr 1 12 19) ∧
    decodeWord 0x4CC00EF3#32 = .ok (.reddXor 1 12 19) ∧
    decodeWord 0x693010F3#32 = .ok (.reddAddF64 1 0 19 26) ∧
    decodeWord 0x0000C0FB#32 = .ok (.fenceRel 1 3) ∧
    decodeWord 0x0000C2FB#32 = .ok (.fenceAcq 1 3) ∧
    decodeWord 0x0000C4FB#32 = .ok (.fenceAr 1 3) ∧
    decodeWord 0x000006FB#32 = .ok (.invl1 1 0) ∧
    decodeWord 0x353308FB#32 = .ok (.waitcmp 1 12 19 5 1 0) ∧
    decodeWord 0x00130AFB#32 = .ok (.moncancel 1 12 1) ∧
    decodeWord 0x81693903#32 = .ok (.tld 1 4 19 26 1 2) ∧
    decodeWord 0xA1693703#32 = .ok (.tst 1 3 19 26 1 2) ∧
    decodeWord 0x4CC0010B#32 = .ok (.copykickOrd 1 12 19) ∧
    decodeWord 0x4CC0030B#32 = .ok (.copykickAny 1 12 19) ∧
    decodeWord 0x4CC0050B#32 = .ok (.cdinit 1 12 19) ∧
    decodeWord 0x4CC0070B#32 = .ok (.yieldc 1 12 19) ∧
    decodeWord 0x85A3090B#32 = .ok (.pin 1 0 3 26 33) ∧
    decodeWord 0x00000B0B#32 = .ok (.unpin 1 0) ∧
    decodeWord 0x000F0113#32 = .ok (.bar 1 12 3) ∧
    decodeWord 0x000F0313#32 = .ok (.bara 1 12 3) ∧
    decodeWord 0x00030513#32 = .ok (.barw 1 12) ∧
    decodeWord 0x00000713#32 = .ok (.gangbar 1) ∧
    decodeWord 0x00000913#32 = .ok (.gridbar 1) ∧
    decodeWord 0x00000B13#32 = .ok (.stageacq 1) ∧
    decodeWord 0x00000D13#32 = .ok (.stagerel 1) ∧
    decodeWord 0x6933011B#32 = .ok (.mma 1 12 19 26) := by
  refine ⟨rfl, rfl, rfl, rfl, rfl, rfl, rfl, rfl, rfl, rfl, rfl, rfl, rfl, rfl, rfl, rfl, rfl, rfl, rfl, rfl, rfl, rfl, rfl, rfl, rfl, rfl, rfl, rfl, rfl, rfl⟩

theorem test_words_11 :
    decodeWord 0x6933031B#32 = .ok (.mmaR 1 12 19 26) ∧
    decodeWord 0x6933051B#32 = .ok (.mmas 1 12 19 26) ∧
    decodeWord 0x6933071B#32 = .ok (.mmasR 1 12 19 26) ∧
    decodeWord 0x00C00123#32 = .ok (.mxset 1 12) ∧
    decodeWord 0x4CC00323#32 = .ok (.mscale 1 12 19) ∧
    decodeWord 0x4CC00523#32 = .ok (.mxcont 1 12 19) ∧
    decodeWord 0x00C00723#32 = .ok (.mxwait 1 12) ∧
    decodeWord 0x4CC00923#32 = .ok (.mxclr 1 12 19) ∧
    decodeWord 0x69330B23#32 = .ok (.mxflag 1 12 19 26) ∧
    decodeWord 0x69330D23#32 = .ok (.mxflagC 1 12 19 26) ∧
    decodeWord 0x01330F23#32 = .ok (.mxrd 1 12 19) ∧
    decodeWord 0x0133012B#32 = .ok (.swdecl 1 12 19) ∧
    decodeWord 0x6930032B#32 = .ok (.swstart 1 0 19 26) ∧
    decodeWord 0x6931032B#32 = .ok (.swstartResume 1 0 19 26) ∧
    decodeWord 0x0000052B#32 = .ok (.swhalt 1 0) ∧
    decodeWord 0x0933072B#32 = .ok (.swstat 1 12 19 2) ∧
    decodeWord 0x0933092B#32 = .ok (.swstatC 1 12 19 2) ∧
    decodeWord 0x00000B2B#32 = .ok (.swfree 1 0) ∧
    decodeWord 0x01300D2B#32 = .ok (.cwakeAny 1 0 19) ∧
    decodeWord 0x01300F2B#32 = .ok (.cwakeOrd 1 0 19) ∧
    decodeWord 0x00030133#32 = .ok (.cyield 1 12) ∧
    decodeWord 0x00030333#32 = .ok (.csleep 1 12) ∧
    decodeWord 0x00000533#32 = .ok (.cdone 1) ∧
    decodeWord 0x69314733#32 = .ok (.cwaitm 1 5 19 26) ∧
    decodeWord 0x00C00933#32 = .ok (.cwake 1 12) ∧
    decodeWord 0x00030B33#32 = .ok (.cidx 1 12) ∧
    decodeWord 0x00030D33#32 = .ok (.cstat 1 12) ∧
    decodeWord 0x0CC0013B#32 = .ok (.launch 1 12 3) ∧
    decodeWord 0x2933033B#32 = .ok (.amsendAny 1 12 19 10) ∧
    decodeWord 0x2933053B#32 = .ok (.amsendOrd 1 12 19 10) := by
  refine ⟨rfl, rfl, rfl, rfl, rfl, rfl, rfl, rfl, rfl, rfl, rfl, rfl, rfl, rfl, rfl, rfl, rfl, rfl, rfl, rfl, rfl, rfl, rfl, rfl, rfl, rfl, rfl, rfl, rfl, rfl⟩

theorem test_words_12 :
    decodeParcel 0x9B20#16 = .vaddI32Parcel 1 12 19 ∧
    decodeParcel 0x9B22#16 = .vsubI32Parcel 1 12 19 ∧
    decodeParcel 0x9B24#16 = .vmulI32Parcel 1 12 19 ∧
    decodeParcel 0x9B26#16 = .vminI32Parcel 1 12 19 ∧
    decodeParcel 0x9B28#16 = .vmaxI32Parcel 1 12 19 ∧
    decodeParcel 0x9B2A#16 = .vandParcel 1 12 19 ∧
    decodeParcel 0x9B2C#16 = .vorParcel 1 12 19 ∧
    decodeParcel 0x9B2E#16 = .vxorParcel 1 12 19 ∧
    decodeParcel 0x9B30#16 = .vshlParcel 1 12 19 ∧
    decodeParcel 0x9B32#16 = .vshrParcel 1 12 19 ∧
    decodeParcel 0x9B34#16 = .vmovParcel 1 12 19 ∧
    decodeParcel 0x9B36#16 = .vfaddF32Parcel 1 12 19 ∧
    decodeParcel 0x9B38#16 = .vfsubF32Parcel 1 12 19 ∧
    decodeParcel 0x9B3A#16 = .vfmulF32Parcel 1 12 19 ∧
    decodeParcel 0x9B3C#16 = .vfminF32Parcel 1 12 19 ∧
    decodeParcel 0x9B3E#16 = .vfmaxF32Parcel 1 12 19 ∧
    decodeParcel 0x0000#16 = .nullParcel := by
  refine ⟨rfl, rfl, rfl, rfl, rfl, rfl, rfl, rfl, rfl, rfl, rfl, rfl, rfl, rfl, rfl, rfl, rfl⟩

/-! ## States of the tests -/

/-- A launch record: one team of one group of role 0, GRIDB set, one handler, and 16, 4, 4 and 4
units of the four buffers. -/
def tRec : BitVec 1024 :=
  0x3000000000000000000000000000000000000000000000000000000000000000402008100000000100000001000000010000000100000000000000000010000000000000

def tLaunch : Launch := { fetchLaunch with record := tRec }

/-- A user group of 16 lanes with some scalars, masks and vector lanes. -/
def tg : Group :=
  { fetchGroup with
    sreg := [(4, 0x10000), (5, 1), (6, 5), (7, 0xFFFFFFFFFFFFFFFF)]
    mreg := [(1, 0xFF), (2, 0x0F)]
    vreg := [(64 * 4, 3), (64 * 4 + 1, 7), (64 * 5, 2), (64 * 5 + 1, 0xFFFFFFFF)] }

/-- The group in slot 1 of core 0 of a machine that holds its team. -/
def mk (g : Group) (fk : Core → Core := id) (fs : State → State := id) : State :=
  fs { State.reset with
    phase := .ready, nmsplit := 32, cur := (0, 1), launches := [(1, tLaunch)]
    teams := [(teamKey 1 0, fetchTeam)]
    keys := [(0, { KeyEnt.init with valid := true })]
    cores := [(0, fk { fetchCore with groups := [(0, Group.supervisor), (1, g)] })] }

theorem ready_mk (g : Group) (fk : Core → Core) (fs : State → State)
    (h1 : (mk g fk fs).cur = (0, 1)) (h2 : (mk g fk fs).work.grp 0 1 = some g)
    (hf : g.flights = []) (hp : g.pend = []) (hl : g.locked = []) (hd : g.deferred = [])
    (ho : g.poison = []) : Ready (mk g fk fs) 0 1 g := ⟨h1, h2, ⟨hf, hp, hl, hd, ho⟩⟩

/-- The state most tests use. -/
def st : State := mk tg

theorem test_ready : Ready st 0 1 tg := ready_mk _ _ _ rfl rfl rfl rfl rfl rfl rfl

/-- The team of the group stands on one core. -/
theorem test_member : Member st tg fetchTeam := ⟨rfl, by decide, rfl, rfl, rfl⟩

/-- The group after one instruction, its writes landed. -/
def done (i : Instr) (s : State) : Option Group :=
  match exec i s with
  | .next t => (t.work.grp 0 1).map Group.settled
  | _ => none

/-! ## Single steps, with results worked out by hand from the rules -/

/-- R120: 0xFFFF...F + 1 = 0 modulo 2^64; R121: C and Z are set by it. -/
theorem test_sadd_wraps : (done (.saddFl 0 8 7 5) st).map (fun g => (g.s 8, g.sfl)) =
    some (0, 0b0101) := by rfl
/-- R121: 1 - 5 borrows (C = 0) and is negative. -/
theorem test_ssub_borrows : (done (.ssubFl 0 8 5 6) st).map (fun g => (g.s 8, g.sfl)) =
    some (0xFFFFFFFFFFFFFFFC, 0b0010) := by rfl
/-- R120: the high half of (-1) * 1 is -1 signed, and 0 unsigned. -/
theorem test_smulh : (done (.smulhI64 0 8 7 5) st).map (·.s 8) = some 0xFFFFFFFFFFFFFFFF ∧
    (done (.smulhN64 0 8 7 5) st).map (·.s 8) = some 0 := ⟨rfl, rfl⟩
/-- R122: SADDI extends its immediate by its sign. -/
theorem test_saddi : (done (.saddi 0 6 6 0xFF) st).map (·.s 6) = some 4 := by rfl
/-- R123: SSHIN shifts 17 bits in. -/
theorem test_sshin : (done (.sshin 0 5 3) st).map (·.s 5) = some 0x20003 := by rfl
/-- R128: CALL leaves PC + 4 in s63. -/
theorem test_call : (done (.call 0 4) st).map (fun g => (g.pc, g.s 63)) =
    some (0x10008, 0x10004) := by rfl
/-- R127: BR goes back by a negative offset. -/
theorem test_br_back : (done (.br 0 0 0x3FFFF) st).map (·.pc) = some 0xFFFE := by rfl
/-- R137: MNOT sets no lane above W. -/
theorem test_mnot : (done (.mnot 0 3 1) st).map (·.m 3) = some 0xFF00 := by rfl
/-- R137: MFIRST of an empty mask is 64, which lands later. -/
theorem test_mpopc_pends : (done (.mpopc 0 9 1) st).map (fun g => g.pend.length) = some 1 := by rfl
/-- R139: IFM keeps the lanes of the mask and holds the others. -/
theorem test_ifm : (done (.ifm 0 1) st).map (fun g => (g.exec, g.stack.map (·.pend))) =
    some (0xFF, [0xFF00]) := by rfl
/-- R148: 7 + 0xFFFFFFFF = 6 in lane 1; a lane without data gives 0. -/
theorem test_vadd : (done (.vaddI32 0 6 4 5) st).map (fun g => (g.v 6 0, g.v 6 1, g.v 6 2)) =
    some (5, 6, 0) := by rfl
/-- R151: a field of 4 bits from bit 1 of 7 is 3. -/
theorem test_vbfe : (done (.vbfeN32Vs 0 6 4 9) (mk { tg with sreg := [(9, 0x401)] })).map
    (fun g => g.v 6 1) = some 3 := by rfl
/-- R174: VBCAST takes one lane to all. -/
theorem test_vbcast : (done (.vbcast 0 6 4 1) st).map (fun g => (g.v 6 0, g.v 6 15, g.v 6 16)) =
    some (7, 7, 0) := by rfl
/-- R328: a trap in the handler stops the group; the E-registers keep the first trap. -/
theorem test_double_trap :
    (done (.trap 0 9) (mk { tg with inHandler := true, epc := 64 })).map
      (fun g => (g.stopped, g.epc, g.stopInfo)) = some (true, 64, 0x18) := by rfl
/-- R326: a team with an entry takes the trap there. -/
theorem test_trap_entry :
    (done (.trap 0 9) (mk tg id fun s =>
      { s with teams := [(teamKey 1 0, { fetchTeam with tent := 0x400 })] })).map
      (fun g => (g.pc, g.epc, g.einfo, g.inHandler)) = some (0x400, 0x10000, 9, true) := by rfl
/-- R327: RTE goes back to EPC with the flags of ECAUSE. -/
theorem test_rte :
    (done (.rte 0) (mk { tg with
      inHandler := true, epc := 0x10004, ecause := 0x300, eexec := 0xFFFFF })).map
      (fun g => (g.pc, g.sfl, g.exec, g.inHandler)) = some (0x10004, 3, 0xFFFF, false) := by rfl
/-- R134: WAIT holds while its counter is above the threshold. -/
theorem test_wait_holds : (done (.wait 0 1 0) (mk { tg with lc := 1 })).map (·.pc) =
    some 0x10000 := by rfl

/-! ## Hypotheses met: scalar instructions, control and masks -/

theorem test_wit_ScalarOperations : Ready st 0 1 tg := test_ready

/-- A group in its handler. -/
def hg : Group := { tg with inHandler := true, stack := [], hdepth := 0 }

theorem test_wit_ControlInstructions :
    Ready st 0 1 tg ∧ st.work.flagsPending 0 1 = false ∧ (tg.s 4).getLsbD 0 = false ∧
      (tg.s 5).toNat < 2 ∧ (tg.s 5).getLsbD 0 = true ∧ specialCtx tg 0x15 false = true ∧
      specialCtx tg 0x18 false = false ∧ condDefined 18 = true ∧ condHolds 18 tg = true ∧
      condHolds 16 tg = false ∧ tg.kind ≠ .supervisor ∧ tg.kind ≠ .run ∧ tg.inHandler = false ∧
      ([tg.lc, tg.sc, tg.tc, tg.mc, tg.xc].all fun n => decide (n ≤ 0)) = true ∧
      Member st tg fetchTeam := by
  refine ⟨test_ready, ?_, ?_, ?_, ?_, ?_, ?_, ?_, ?_, ?_, ?_, ?_, ?_, ?_, test_member⟩ <;> decide

theorem test_wit_ControlInstructions_handler :
    Ready (mk hg) 0 1 hg ∧ (mk hg).work.flagsPending 0 1 = false ∧ hg.inHandler = true ∧
      specialCtx hg 0x1C false = true :=
  ⟨ready_mk _ _ _ rfl rfl rfl rfl rfl rfl rfl, rfl, rfl, rfl⟩

/-- Conditions at the ends of the ranges of R95. -/
theorem test_wit_BranchConditions :
    Ready st 0 1 tg ∧ st.work.flagsPending 0 1 = false ∧
      (31 : BitVec 5).toNat = 24 + 7 ∧ tg.m 7 = 0 ∧ (25 : BitVec 5).toNat = 24 + 1 ∧ tg.m 1 ≠ 0 ∧
      tg.exec = tg.live ∧ tg.exec ≠ 0 ∧ 19 ≤ (19 : BitVec 5).toNat ∧ (23 : BitVec 5).toNat ≤ 23 := by
  refine ⟨test_ready, ?_⟩; decide

/-- The last value that R49 admits of each field, and the first that it refuses. -/
theorem test_wit_FormatWrites :
    Ready st 0 1 tg ∧ st.work.flagsPending 0 1 = false ∧ fmtRefused 0x1ED7F7 = false ∧
      fmtRefused 0x18 = true ∧ fmtRefused 0x6000 = true ∧ fmtRefused 0x30000 = true ∧
      fmtRefused 0x200000 = true := by
  refine ⟨test_ready, ?_⟩; decide

theorem test_wit_ExitRefused :
    (mk hg).cur = (0, 1) ∧ (mk hg).work.grp 0 1 = some hg ∧
      (mk hg).work.flagsPending 0 1 = false ∧ hg.inHandler = true ∧
      (mk { tg with kind := .supervisor }).work.flagsPending 0 1 = false := by decide

/-- A mask stack with a loop entry below an IF entry. -/
def mg : Group :=
  { tg with
    stack := [{ sexec := 0xFFFF, pend := 0xFF00, sfmt := 0, kind := 0 },
      { sexec := 0xFFFF, pend := 0, sfmt := 0, kind := 2 }] }

theorem test_wit_MaskInstructions :
    Ready (mk mg) 0 1 mg ∧ mg.stack.length < 32 ∧
      (∃ e t, mg.stack = e :: t ∧ e.kind = 0) ∧
      ∃ above e below, mg.stack = above ++ e :: below ∧ e.kind = 2 ∧ ∀ y ∈ above, y.kind ≠ 2 := by
  refine ⟨ready_mk _ _ _ rfl rfl rfl rfl rfl rfl rfl, by decide, ⟨_, _, rfl, rfl⟩,
    [{ sexec := 0xFFFF, pend := 0xFF00, sfmt := 0, kind := 0 }], _, [], rfl, rfl, by decide⟩

/-! ## Hypotheses met: vector instructions -/

theorem test_wit_VectorIntegers :
    Ready st 0 1 tg ∧ tg.hasV 63 = true ∧ tg.hasV 0 = true := ⟨test_ready, rfl, rfl⟩

theorem test_wit_CarryAndCompare :
    Ready st 0 1 tg ∧ tg.hasV 63 = true ∧ (7 : BitVec 6).toNat < 8 ∧ (0 : BitVec 6).toNat < 8 :=
  ⟨test_ready, rfl, by decide, by decide⟩

theorem raises_none (g : Group) (fl : Nat → BitVec 7) (h : ∀ l, fl l = 0) : Raises g fl 0 0 := by
  constructor
  · intro k; simp [h]
  · intro l _; simp [h, bit]

/-- Every active lane raises Invalid, which is enabled. -/
theorem raises_all (g : Group) (fl : Nat → BitVec 7) (x : BitVec 7) (h : ∀ l, fl l = x)
    (he : ∃ l < 64, bit g.exec l = true) (hx : x &&& fmtEnables g.format ≠ 0) :
    Raises g fl x g.exec := by
  constructor
  · intro k
    obtain ⟨l, hl, hb⟩ := he
    simp only [h]
    exact ⟨fun hk => ⟨l, hl, hb, hk⟩, fun ⟨_, _, _, hk⟩ => hk⟩
  · intro l _; rw [h]; exact ⟨fun hb => ⟨hb, hx⟩, fun hb => hb.1⟩

/-- Signalling NaNs in v4 of lane 0 alone active, Invalid trapping. -/
def fg : Group :=
  { tg with exec := 1, fmt := 0x20, vreg := [(64 * 4, 0x7F800001), (64 * 5, 0x3F800000)] }

theorem test_wit_FloatingPoint :
    Ready st 0 1 tg ∧ (Src.vec 9).ok tg = true ∧ (Src.pair 8).ok tg = true ∧
      Raises tg (fun _ => (F32.add (fmtRM tg.format) ((Src.vec 9).val tg 0).toNat
        ((Src.vec 10).val tg 0).toNat).lane.2) 0 0 ∧
      st.work.flagsPending 0 1 = false ∧ tg.hasPair 62 = true ∧ (6 : BitVec 3).toNat ≤ 6 := by
  refine ⟨test_ready, rfl, rfl, raises_none _ _ fun _ => rfl, rfl, rfl, by decide⟩

theorem test_wit_FloatingPoint_traps :
    Ready (mk fg) 0 1 fg ∧ (mk fg).work.flagsPending 0 1 = false ∧
      Raises fg (fun _ => (F32.add (fmtRM fg.format) ((Src.vec 4).val fg 0).toNat
        ((Src.vec 5).val fg 0).toNat).lane.2) 1 1 ∧ 1 &&& fmtEnables fg.format ≠ 0 := by
  refine ⟨ready_mk _ _ _ rfl rfl rfl rfl rfl rfl rfl, rfl,
    raises_all _ _ 1 (fun _ => rfl) ⟨0, by decide, by decide⟩ (by decide), by decide⟩

/-- One result in flight for slot 1, and one that carries a trap. -/
def xcCore (k : Core) : Core :=
  { k with xcs := [
    (1, { slot := 1, flags := 1, counted := true, trap := none, gate := false
          flights := [], due := none, writes :=
      [{ kind := .vector, reg := 6, bank := false, lanes := 1, left := 0, val := 0, vec := [(0, 9)] }] }),
    (2, { slot := 1, flags := 1, counted := true, trap := some (0x10, 1, 0x10000), gate := true
          flights := [], due := none, writes := [] }),
    (3, { slot := 1, flags := 0, counted := false, trap := none, gate := false
          flights := [], due := some 2, writes :=
      [{ kind := .scalar, reg := 6, bank := false, lanes := allLanes, left := 0, val := 7
         vec := [] }] })] }

theorem test_wit_VariableLatency :
    Ready st 0 1 tg ∧ tg.xc < 63 ∧ (Src.vec 63).ok tg = true ∧ (Src.pair 62).ok tg = true ∧
      Raises tg (fun _ => (divS false 1 1).2) 0 0 ∧
      (∃ x, tfind 1 ((mk tg xcCore).work.core 0).xcs = some x ∧ x.slot = 1 ∧ x.trap = none ∧
        (∃ f, x.writes = [f] ∧ f.kind = .vector)) ∧
      (∃ x, tfind 2 ((mk tg xcCore).work.core 0).xcs = some x ∧
        x.trap = some (0x10, 1, 0x10000)) ∧
      (∃ x, tfind 3 ((mk tg xcCore).work.core 0).xcs = some x ∧ x.trap = none ∧
        (∃ f, x.writes = [f] ∧ f.kind = .scalar)) ∧
      (mk tg xcCore).work.grp 0 1 = some tg ∧ Unwaiting tg ∧
      waitMet { ({ tg with xc := 1 } : Group) with xc := 1 - 1 } 16 0 = true :=
  ⟨test_ready, by decide, rfl, rfl, raises_none _ _ fun _ => rfl, ⟨_, rfl, rfl, rfl, _, rfl, rfl⟩,
    ⟨_, rfl, rfl⟩, ⟨_, rfl, rfl, _, rfl, rfl⟩, rfl, ⟨fun _ => nofun, fun _ _ => nofun⟩, by decide⟩

/-- R75: the corners, and a plain division. -/
theorem test_division_corners :
    divS false 7 0 = (0x7FFFFFFF, flIDZ) ∧ divS false 0x80000000 0xFFFFFFFF = (0x80000000, flIOV) ∧
      (divS false 0xFFFFFFF9 2).1 = 0xFFFFFFFD ∧ (divS true 0xFFFFFFF9 2).1 = 0xFFFFFFFF := by decide

theorem test_wit_Conversions :
    Ready st 0 1 tg ∧ (25 : BitVec 6).toNat ≤ 25 ∧ (21 : BitVec 6).toNat ∈
      [0, 3, 5, 7, 9, 12, 13, 16, 17, 20, 21] ∧ (-128 : Int) ≤ 127 ∧ tg.hasV 63 = true ∧
      Raises tg (fun _ => (cvtFn 3 false 0 0 0 0).2) 0 0 :=
  ⟨test_ready, by decide, by decide, by decide, rfl, raises_none _ _ fun _ => rfl⟩

theorem test_wit_LaneMoves :
    Ready st 0 1 tg ∧ tg.hasV 63 = true ∧ (15 : BitVec 6).toNat < tg.width ∧
      (5 : BitVec 3).toNat ≤ 5 ∧ tg.hasPair 62 = true ∧ (7 : BitVec 6).toNat < 8 ∧
      bit tg.live 15 = true ∧ bit { tg with live := 1 }.live 15 = false :=
  ⟨test_ready, rfl, by decide, by decide, rfl, by decide, by decide, by decide⟩

theorem test_wit_Reductions :
    Ready st 0 1 tg ∧ (Src.vec 4).ok tg = true ∧ (Src.pair 4).ok tg = true ∧
      (14 : BitVec 6).toNat ≤ 14 ∧ ([some 1, none, some 2] : List (Option Word)).length ≤ 64 :=
  ⟨test_ready, rfl, rfl, by decide, by decide⟩

/-! ## Hypotheses met: memory and synchronisation -/

/-- Two active lanes with the addresses 0x10000 and 0x10004 in v10:v11 and offsets in v4. -/
def lg : Group :=
  { tg with
    exec := 3
    vreg := [(64 * 4 + 1, 4), (64 * 10, 0x10000), (64 * 10 + 1, 0x10004)] }

theorem ready_lg : Ready (mk lg) 0 1 lg := ready_mk _ _ _ rfl rfl rfl rfl rfl rfl rfl

/-- Every size of a scalar access, and the widest vector access, resolve; a group without an active
lane. -/
theorem test_wit_LoadsIssue :
    Ready st 0 1 tg ∧ tg.lc < 63 ∧
      (∃ u pa key, st.work.resolve 0 1 tg .load (2 ^ 3) true
        (fun e pa => st.work.placeOk tg e pa (2 ^ 3) false true
          (decide (tg.kind = .supervisor) && decide (2 ^ 3 = 8)))
        [(0, scalarAddr tg 4 3 0)] = .ok u [(0, pa, key)]) ∧
      Ready (mk lg) 0 1 lg ∧ lg.exec ≠ 0 ∧ lg.lc < 63 ∧ widthOk lg 6 4 = true ∧
      widthOk lg 0 63 = true ∧ lg.hasV 63 = true ∧
      (∃ u q, (mk lg).work.resolve 0 1 lg .load (widthBytes 4) false
        (fun e pa => (mk lg).work.placeOk lg e pa (widthBytes 4) true true false)
        (laneAddrs lg 4 4) = .ok u q) ∧
      Ready (mk { tg with exec := 0 }) 0 1 { tg with exec := 0 } :=
  ⟨test_ready, by decide, ⟨_, _, _, rfl⟩, ready_lg, by decide, by decide, rfl, rfl, rfl,
    ⟨_, _, rfl⟩, ready_mk _ _ _ rfl rfl rfl rfl rfl rfl rfl⟩

theorem test_wit_StoresIssue :
    Ready st 0 1 tg ∧ tg.sc < 63 ∧
      (∃ u pa key, st.work.resolve 0 1 tg .store (2 ^ 0) true
        (fun e pa => st.work.placeOk tg e pa (2 ^ 0) false true
          (decide (tg.kind = .supervisor) && decide (2 ^ 0 = 8)))
        [(0, scalarAddr tg 4 0 0x7F)] = .ok u [(0, pa, key)] ∧ ∃ d k o, u.place pa = .near d k o) ∧
      Ready (mk lg) 0 1 lg ∧ lg.exec ≠ 0 ∧ storeWidthDefined 4 = true ∧ (2 : BitVec 2) ≠ 1 ∧
      widthOk lg 4 4 = true ∧ lg.hasV 4 = true ∧
      ∃ u q, (mk lg).work.resolve 0 1 lg .store (widthBytes 4) false
        (fun e pa => (mk lg).work.placeOk lg e pa (widthBytes 4) false true false)
        (laneAddrs lg 4 4) = .ok u q :=
  ⟨test_ready, by decide, ⟨_, 0x1007F, 0, rfl, 0, 2, 0x7F, by decide⟩, ready_lg, by decide, rfl, by decide,
    rfl, rfl, ⟨_, _, rfl⟩⟩

/-- The page of 0x1FFF8 is present; 0x10001 is not aligned; a store to a page without W. -/
theorem test_wit_AccessChecks :
    (([(3, 0x10001), (5, 0x10004)] : List (Nat × Nat)).filter fun l => decide (l.2 % 4 ≠ 0)) =
        (3, 0x10001) :: [] ∧
      tlbLook tg.owner 0x1FFF8 (st.work.core 0).tlb = some (fetchPage, (0, fetchPage) :: []) ∧
      0x1FFF8 % 8 = 0 ∧ st.work.permits tg fetchPage .store = true ∧
      st.work.permits tg { fetchPage with w := false } .store = false := by decide

/-- A request of the test group for a line, of one kind. -/
def req (line op : Nat) (kind : ReqKind) : Req :=
  { core := 0, slot := 1, launch := 1, lin := 0, gidx := 0, line, ef := false, ms := false
    eng := false, counted := true, key := 0, pri := 0, op, kind }

/-- A load that has all its data, one that waits for a fill, and a store of one request; numbers 1,
2 and 3. -/
def memCore (k : Core) : Core :=
  let l : Load :=
    { slot := 1, kind := .vector, reg := 6, bank := false, lanes := 1, size := 4, signed := false
      atomic := false, addr := [(0, 0x10000)], got := [(0, 9)], bad := 0, left := 0, missed := true }
  { k with
    cycle := 2
    loads := [(1, l), (2, { l with got := [], left := 1 }),
      (4, { l with kind := .scalar, lanes := 1 })]
    fills := [(5, { req := req 512 2 (.fill true false []), load := some 2, install := true
                    overlay := [(0x10000, 7)], data := some 0, bad := false })]
    stores := [(3, { slot := 1, launch := 1, lin := 0, gidx := 0, left := 1, secs := [2048] })]
    inbox := { k.inbox with acks := [3] } }

/-- Tables of owner 0 at 0, 0x20000 and 0x30000, and a walk of die 0. -/
def walking (s : State) : State :=
  { s with
    mem := [(2, 2), (6, 0x10), (0x20000, 1), (0x20002, 3), (0x30000, 7)]
    dies := [(0, { Die.init with walks :=
      [{ core := 0, owner := 0, va := 0x12345, eng := false, at_ := 0, cancelled := false }] })] }

/-- The leaf of 1 GB that the walk finds: VPN and PPN 0, R and key 0. -/
def leafEnt : TlbEnt :=
  { fetchPage with size := 3, vpn := 0, ppn := 0, w := false, x := false }

/-- The walk of it, the die's walks being as the completion leaves them. -/
def walked0 : WalkEnd × Work :=
  Work.walk ((mk tg memCore walking).work.modDie 0 fun d => { d with walks := [] }) 0 0x12345

theorem test_walk : walked0.1 = .leaf leafEnt := by decide +kernel

theorem pair_of {α β : Type} (p : α × β) (a : α) (h : p.1 = a) : ∃ u, p = (a, u) :=
  ⟨p.2, by cases p; cases h; rfl⟩

/-- A walk that finds the leaf. -/
theorem test_wit_MemoryCompletions_walk :
    let d := (mk tg memCore walking).work.die 0
    d.walks.map (fun x => (x.owner, x.va)) = [(0, 0x12345)] ∧ d.walkq = [] ∧ leafEnt.size = 3 ∧
      ∃ u, walked0 = (.leaf leafEnt, u) :=
  ⟨rfl, rfl, rfl, pair_of walked0 _ test_walk⟩

theorem test_wit_MemoryCompletions :
    let w := (mk tg memCore walking).work
    let k := w.core 0
    w.grp 0 1 = some tg ∧ Unwaiting tg ∧
      (∃ l, tfind 1 k.loads = some l ∧ l.left = 0 ∧ l.bad = 0 ∧ l.slot = 1 ∧ l.kind = .vector) ∧
      (∃ l, tfind 4 k.loads = some l ∧ l.left = 0 ∧ l.bad = 0 ∧ l.slot = 1 ∧ l.kind = .scalar ∧
        l.lanes = 1) ∧
      (∃ f l data, tfind 5 k.fills = some f ∧ f.data = some data ∧ f.load = some 2 ∧
        tfind 2 k.loads = some l ∧ f.bad = false ∧ f.install = true ∧
        tfind (8 * (f.req.line % 256) + 7) k.l1 = none) ∧
      ∃ y, k.inbox.acks.contains 3 = true ∧ tfind 3 k.stores = some y ∧ y.left = 1 ∧
        y.slot = 1 ∧ tg.born ≤ 3 :=
  ⟨rfl, ⟨fun _ => nofun, fun _ _ => nofun⟩, ⟨_, rfl, rfl, rfl, rfl, rfl⟩,
    ⟨_, rfl, rfl, rfl, rfl, rfl, rfl⟩, ⟨_, _, _, rfl, rfl, rfl, rfl, rfl, rfl, rfl⟩,
    ⟨_, rfl, rfl, rfl, rfl, by decide⟩⟩

/-- Both sizes, plain and ordered. -/
theorem test_wit_AtomicsAndReductions :
    Ready (mk lg) 0 1 lg ∧ lg.exec ≠ 0 ∧ lg.lc < 63 ∧ lg.sc < 63 ∧ lg.hasPair 10 = true ∧
      lg.hasPair 62 = true ∧ atomReg lg 4 63 = true ∧ atomReg lg 8 62 = true ∧
      atomReg lg 2 63 = true ∧ ordCtx lg = true ∧ lrGridb ((mk lg).work.recOf lg) = true ∧
      (∃ u q, (mk lg).work.resolve 0 1 lg .atomic 4 false (fun _ => (mk lg).work.atomPlace true)
        (pairAddrs lg 10) = .ok u q) ∧
      (∃ u q, (mk lg).work.resolve 0 1 lg .atomic 2 false (fun _ => (mk lg).work.atomPlace false)
        (pairAddrs lg 10) = .ok u q) ∧
      ∃ u q, (mk { lg with exec := 1 }).work.resolve 0 1 { lg with exec := 1 } .atomic 8 false
        (fun _ => (mk { lg with exec := 1 }).work.atomPlace true) (pairAddrs { lg with exec := 1 } 10) =
        .ok u q :=
  ⟨ready_lg, by decide, by decide, by decide, rfl, rfl, rfl, rfl, rfl, by decide, by decide +kernel,
    ⟨_, _, rfl⟩,
    ⟨_, _, rfl⟩, ⟨_, _, rfl⟩⟩

/-! ### Homes and typed buffers -/

/-- Requests at slice 0 and the unit beneath it, and an ordered update at its unit. -/
def pkt (r : Req) : Packet :=
  { cls := 0, pri := 0, age := 0, esc := true, ndata := 0, sdie := 0, sport := 0, ddie := 0
    dport := 0, seq := 0, msg := .req r, at_ := 0, stuck := 0, outside := false }

def ordReq : Req :=
  req 512 9 (.ordered false 0 4 [{ addr := 0x10000, lane := 0, seq := 0, operand := 3 }])

def homes (r : Req) (s : State) : State :=
  { s with
    dies := [(0, { Die.init with
      slices := [(0, { Slice.init with inq := [pkt r] })]
      units := [(0, { Unit.init with inbox := [r], ordbox := [ordReq] })] })] }

theorem test_homes_hold (r : Req) (d u : Nat) : ((mk tg id (homes r)).work.unit d u).held = [] := by
  by_cases hd : 0 = d
  · by_cases hu : 0 = u
    · subst hd hu; rfl
    · subst hd; show ((if 0 = u then some _ else none).getD Unit.init).held = []
      rw [if_neg hu]; rfl
  · show (tget Unit.init u ((if 0 = d then some _ else none).getD Die.init).units).held = []
    rw [if_neg hd]; rfl

/-- A store of two bytes of a line, an atomic of its last word, and a fill. -/
theorem test_wit_HomeAccesses :
    ([.store [(0x10000, 7), (0x1007F, 8)], .atomic 0 4 true [(0, 0x1007C, 1, 0)],
      .fill true false []] : List ReqKind).all (fun kind =>
        let r := req 512 9 kind
        let w := (mk tg id (homes r)).work
        (w.home? (128 * r.line)).isSome && w.sectorOk r.key 0 && !w.sharedOut.contains r.line &&
          !r.more && decide ((w.slice 0 0).parts = []) && decide ((w.unit 0 0).inbox = [r]) && decide ((w.slice 0 0).inq = [pkt r]) && !r.ms &&
          decide ((w.slice 0 0).busy ≤ w.tempo / 2)) = true ∧
      ((mk tg id fun s => { s with dies := [(0, { Die.init with
        slices := [(0, { Slice.init with inq := [pkt ordReq] })] })] }).work.behind 0 0 ordReq) =
        false := by decide +kernel

/-- An update of 0x10000 that is held and whose flush is due. -/
def flushing (s : State) : State :=
  { s with
    dies := [(0, { Die.init with
      units := [(0, { Unit.init with
        held := [{ addr := 0x10000, launch := 1, ety := 0, pk := 0
                   upds := [{ key := [0], operand := 3, op := 0, core := 0 }]
                   exact := false, entry := 0, pool := [], spill := none }]
        flushq := [0x10000] })] })] }

theorem test_wit_OrderedUpdates :
    (∃ o, ((mk tg id (homes ordReq)).work.unit 0 0).ordbox = ordReq :: [] ∧
      ordReq.kind = .ordered false 0 4 [o] ∧ ((mk tg id (homes ordReq)).work.unit 0 0).held = []) ∧
    ∃ h u, ((mk tg id flushing).work.unit 0 0).held = [h] ∧ h.exact = false ∧ h.upds = [u] ∧
      ((mk tg id flushing).work.unit 0 0).flushq.contains h.addr = true ∧
      ∀ sec, (mk tg id flushing).work.sectorOk h.pk sec = true :=
  ⟨⟨_, rfl, rfl, rfl⟩, _, _, rfl, rfl, rfl, rfl, fun _ => rfl⟩

/-- One active lane with offset 4092 in v4: the last word of the 4 KB of WBUF and ABUF, and cell 252
of CBUF by v5. -/
def bg : Group := { tg with exec := 1, vreg := [(64 * 4, 4092), (64 * 5, 255)] }

/-- A load of WBUF in progress, and a store. -/
def tbAcc (store : Bool) : TAccess :=
  { slot := 1, store, buf := 0, code := 4, core := 0, addr := [(0, 4092)], reg := 6
    bank := false, lanes := 1, vals := [(0, 9)], hi := [] }

theorem test_wit_TypedBuffers :
    Ready (mk bg) 0 1 bg ∧ bg.tc < 63 ∧ bg.exec ≠ 0 ∧ bufRegsOk bg 0 4 63 = true ∧
      bufRegsOk bg 2 0 6 = true ∧ bg.hasV 4 = true ∧ tldDefined 4 0 = true ∧
      tldDefined 4 1 = true ∧ tstDefined 4 0 = true ∧ tldDefined 0 2 = true ∧ tstDefined 0 2 = true ∧
      (mk bg).work.space 0 bg 0 = some (0, 0, 4096) ∧ (mk bg).work.space 0 bg 1 = some (0, 0, 4096) ∧
      (mk bg).work.space 0 bg 2 = some (0, 0, 256) ∧ ((mk bg).work.core 0).upset = [] ∧
      (∀ y ∈ laneOffs bg 20 4, y.2 + bufUnits 0 4 ≤ 4096 ∧ y.2 % bufUnits 0 4 = 0) ∧
      ∀ y ∈ laneOffs bg 20 5, y.2 + bufUnits 2 0 ≤ 256 := by
  refine ⟨ready_mk _ _ _ rfl rfl rfl rfl rfl rfl rfl, ?_⟩; decide +kernel

theorem test_wit_TypedBuffers_landing (store : Bool) :
    let s := mk tg fun k => { k with taccs := [(1, tbAcc store)] }
    (s.work.core 0).taccs.find? (fun y => decide (y.1 = 1)) = some (1, tbAcc store) ∧
      (∀ y ∈ (s.work.core 0).taccs, y.2.slot = 1 → 1 ≤ y.1) ∧ s.work.grp 0 1 = some tg ∧
      (tbAcc store).buf < 2 ∧ (tbAcc store).code = 4 ∧ lanesOf (tbAcc store).lanes = [0] := by
  cases store <;> decide +kernel

/-! ### Fences, monitors, barriers -/

/-- The supervisor group of core 0, issuing. -/
def sg : Group := { Group.supervisor with sreg := [(4, 0x10000), (5, 1)] }

def mkS (g : Group) (fk : Core → Core := id) (fs : State → State := id) : State :=
  mk tg (fun k => fk { k with groups := [(0, g), (1, tg)] }) fun s => fs { s with cur := (0, 0) }

theorem ready_sg : Ready (mkS sg) 0 0 sg := ⟨rfl, rfl, ⟨rfl, rfl, rfl, rfl, rfl⟩⟩

def oneStore (k : Core) : Core :=
  { k with
    opSeq := 9
    stores := [(3, { slot := 1, launch := 1, lin := 0, gidx := 0, left := 1, secs := [2048] })] }

/-- The group after its release at a scope. -/
def rg (scope : Nat) : Group :=
  { tg with rel := some { scope, stamp := 0, phase := 2, acks := 0, token := 0 } }

theorem test_wit_FencesAndReleases :
    Ready st 0 1 tg ∧ prefetchDefined 0 0 = true ∧ tg.hasV 63 = true ∧ tg.kind ≠ .run ∧
      (4 : BitVec 3).toNat ≤ 4 ∧ Released st tg 0 ∧ Released st tg 1 ∧
      (st.work.core 0).loading 1 tg = false ∧ Ready (mk (rg 4)) 0 1 (rg 4) ∧
      Released (mk (rg 4)) (rg 4) 4 ∧ Ready (mk { tg with half := 1 }) 0 1 { tg with half := 1 } ∧
      Ready (mkS sg) 0 0 sg ∧ sg.kind = .supervisor ∧ sg.rel = none ∧ 0 < Config.cores ∧
      ((mkS sg).work.core 0).stores = [] ∧ ((mkS sg).work.core 0).loads = [] ∧
      Ready (mkS sg oneStore) 0 0 sg ∧
      ∃ y, (3, y) ∈ ((mkS sg oneStore).work.core 0).stores ∧
        3 < ((mkS sg oneStore).work.core 0).opSeq :=
  ⟨test_ready, rfl, rfl, by decide, by decide, .inl rfl, .inl (by decide), by decide,
    ready_mk _ _ _ rfl rfl rfl rfl rfl rfl rfl, .inr ⟨_, rfl, rfl, rfl, nofun⟩,
    ready_mk _ _ _ rfl rfl rfl rfl rfl rfl rfl, ready_sg, rfl, rfl, by decide, rfl, rfl,
    ⟨rfl, rfl, ⟨rfl, rfl, rfl, rfl, rfl⟩⟩, ⟨_, .head _, by decide⟩⟩

/-- A group that waits on its monitor, in slot 2 of the same team. -/
def wg : Group :=
  { tg with gidx := 1, wait := .monitor 0x10000 0x10000 4 0 1 (some 0) 7, parked := true }

/-- The monitor that it armed. -/
def armedAt (s : State) : State :=
  match s.work.home? 0x10000 with
  | some h =>
    { s with
      dies := [(h.die, { Die.init with
        slices := [(h.slice, { Slice.init with
          mons := [(0, { core := 0, slot := 2, op := 7, pa := 0x10000, size := 4, cond := 0, value := 1
                         cell := none })] })] })] }
  | none => s

def twoGroups (k : Core) : Core := { k with groups := [(0, Group.supervisor), (1, tg), (2, wg)] }

theorem test_wit_MonitorResults :
    Ready st 0 1 tg ∧ tg.kind ≠ .run ∧ (5 : BitVec 3).toNat ≤ 5 ∧ (62 : BitVec 6).toNat < 63 ∧
      (∃ u, st.work.resolve 0 1 tg .load 8 true (fun _ pa => (st.work.place pa).isNear)
        [(0, (tg.s 4).toNat % 2 ^ 52)] = .ok u [(0, 0x10000, 0)]) ∧
      tg.wait = .none ∧ st.work.teamOf tg = some fetchTeam ∧
      st.work.members fetchTeam (fun q => decide (q.kind ≠ GroupKind.run)) = [(0, 1)] :=
  ⟨test_ready, by decide, by decide, by decide, ⟨_, rfl⟩, rfl, by decide +kernel, by decide +kernel⟩

theorem test_wit_MonitorResults_cancel :
    let s := mk tg twoGroups armedAt
    s.cur = (0, 1) ∧ s.work.grp 0 1 = some tg ∧ s.work.teamOf tg = some fetchTeam ∧
      s.work.members fetchTeam (fun q => decide (q.kind ≠ GroupKind.run)) = [(0, 1), (0, 2)] ∧
      s.work.grp 0 2 = some wg ∧ wg.wait = .monitor 0x10000 0x10000 4 0 1 (some 0) 7 ∧
      wg.flights = [] ∧ (s.work.armed 0 2 7 0x10000).isSome = true ∧
      (tg.s 4).toNat % 2 ^ 52 = 0x10000 ∧ 0 ≤ (s.work.core 0).cycle ∧
      (s.work.core 0).arrivedWake = none ∧ (∀ f ∈ wg.flights, f.kind ≠ .flags) ∧
      (mk { tg with wait := .monfull 0 }).work.grp 0 1 = some { tg with wait := .monfull 0 } := by
  decide +kernel

/-- The launch record of two groups, the second of role 1, and a ring of two slots that goes round the
roles 0 and 1. -/
def ringRec : BitVec 1024 :=
  0x2000000000000000300000000000000000000000000000000000000000000000000000000000_0000402008104100440100000001000000010000000100000000000000000010000000000000

def other : Group := { tg with gidx := 1, role := 1 }

def ring (s : State) : State :=
  { s with launches := [(1, { tLaunch with record := ringRec })] }

def twoRoles (k : Core) : Core := { k with groups := [(0, Group.supervisor), (1, tg), (2, other)] }

def withTeam (t : Team) (s : State) : State := { s with teams := [(teamKey 1 0, t)] }

/-- A team whose group has arrived at barrier 0 (phase false) and at the grid barrier. -/
def arrived : Team := { fetchTeam with bars := [(0, { Barrier.init with arr := 1 })], gridArr := 1 }

/-- BARA and BAR by the last of the groups, and by the first of two; BARW after and before. -/
theorem test_wit_TeamBarriers :
    Ready st 0 1 tg ∧ Member st tg fetchTeam ∧ (st.work.core 0).loading 1 tg = false ∧ tg.half = 0 ∧
      has (fetchTeam.bar 15).arr tg.gidx = false ∧ (fetchTeam.bar 15).arr = 0 ∧
      ((st.work.participants fetchTeam 0).filter fun i => decide (i ≠ tg.gidx)) = [] ∧
      tg.gidx ∈ st.work.participants fetchTeam 0 ∧ has 15 tg.role = true ∧
      Ready (mk tg twoRoles ring) 0 1 tg ∧ Member (mk tg twoRoles ring) tg fetchTeam ∧
      (∃ i ∈ (((mk tg twoRoles ring).work.participants fetchTeam 0).filter fun i =>
        decide (i ≠ tg.gidx)), has (fetchTeam.bar 0).arr i = false) ∧
      Ready (mk tg id (withTeam arrived)) 0 1 tg ∧ Member (mk tg id (withTeam arrived)) tg arrived ∧
      tg.phases.getLsbD 0 = (arrived.bar 0).phase ∧ has (arrived.bar 0).arr tg.gidx = true :=
  ⟨test_ready, test_member, by decide, rfl, by decide, rfl, by decide +kernel, by decide +kernel,
    by decide, ready_mk _ _ _ rfl rfl rfl rfl rfl rfl rfl, ⟨rfl, by decide +kernel, rfl, rfl, rfl⟩,
    by decide +kernel, ready_mk _ _ _ rfl rfl rfl rfl rfl rfl rfl,
    ⟨rfl, by decide +kernel, rfl, rfl, rfl⟩, by decide, by decide⟩

theorem test_wit_WideBarriers :
    Ready (mk (rg 2)) 0 1 (rg 2) ∧ Member (mk (rg 2)) (rg 2) fetchTeam ∧
      ((mk (rg 2)).work.core 0).loading 1 (rg 2) = false ∧ (rg 2).half = 0 ∧
      Released (mk (rg 2)) (rg 2) 2 ∧ has fetchTeam.gangArr (rg 2).gidx = false ∧
      (mk (rg 2)).work.teams = [(teamKey (rg 2).launch (rg 2).lin, fetchTeam)] ∧
      ((mk (rg 2)).work.participants fetchTeam 0).all
        (has (with_ fetchTeam.gangArr (rg 2).gidx)) = true ∧
      Ready (mk (rg 3)) 0 1 (rg 3) ∧ lrGridb ((mk (rg 3)).work.recOf (rg 3)) = true ∧
      Released (mk (rg 3)) (rg 3) 3 ∧ has fetchTeam.gridArr (rg 3).gidx = false ∧
      Ready (mk { tg with half := 1 }) 0 1 { tg with half := 1 } ∧
      (mk tg id (withTeam arrived)).work.launch? 1 = some tLaunch ∧
      (mk tg id (withTeam arrived)).work.gridArrived 1 tLaunch = true ∧
      ∀ d u, ((mk tg id (withTeam arrived)).work.unit d u).held = [] ∧
        ((mk tg id (withTeam arrived)).work.unit d u).atoms = [] :=
  ⟨ready_mk _ _ _ rfl rfl rfl rfl rfl rfl rfl, ⟨rfl, by decide +kernel, rfl, rfl, rfl⟩, by decide,
    rfl, .inr ⟨_, rfl, rfl, rfl, nofun⟩, by decide, by decide +kernel, by decide +kernel,
    ready_mk _ _ _ rfl rfl rfl rfl rfl rfl rfl, by decide +kernel, .inr ⟨_, rfl, rfl, rfl, nofun⟩, by decide,
    ready_mk _ _ _ rfl rfl rfl rfl rfl rfl rfl, by decide +kernel, by decide +kernel,
    fun _ _ => ⟨rfl, rfl⟩⟩

/-- A slot that is ready for role 0 and not for role 1; a slot that role 0 has and passes to role 1. -/
theorem test_wit_StageRing :
    let s := mk tg twoRoles ring
    let a := { tg with acquired := true }
    Ready s 0 1 tg ∧ Member s tg fetchTeam ∧ lrRingPos (s.work.recOf tg) tg.role = some 0 ∧
      tg.acquired = false ∧ s.work.ringReady fetchTeam (s.work.recOf tg) 0 0 = true ∧
      (s.work.core 0).loading 1 tg = false ∧
      Ready (mk other id ring) 0 1 other ∧ lrRingPos ((mk other id ring).work.recOf other) 1 = some 1 ∧
      (mk other id ring).work.ringReady fetchTeam ((mk other id ring).work.recOf other) 0 1 = false ∧
      Ready (mk a id ring) 0 1 a ∧ ((mk a id ring).work.ringWord fetchTeam 0).2 = a.role ∧
      (roleGroups fetchTeam ringRec 0).all (has (with_ (tget 0 0 fetchTeam.ringRel) a.gidx)) = true ∧
      roleGroups fetchTeam ringRec (lrRorder ringRec 1) ≠ [] ∧ lrRorder ringRec 1 ≠ a.role :=
  ⟨ready_mk _ _ _ rfl rfl rfl rfl rfl rfl rfl, ⟨rfl, by decide +kernel, rfl, rfl, rfl⟩,
    by decide +kernel, rfl, by decide +kernel, by decide,
    ready_mk _ _ _ rfl rfl rfl rfl rfl rfl rfl, by decide +kernel, by decide +kernel,
    ready_mk _ _ _ rfl rfl rfl rfl rfl rfl rfl, by decide +kernel, by decide +kernel,
    by decide +kernel, by decide +kernel⟩

/-! ### Engines -/

/-- Kicks at offset 32 of one record and of 256 records at the end of the 16 KB of SBUF. -/
def cg : Group :=
  { tg with sreg := [(4, 32), (5, 1), (6, 8192), (7, 256), (8, 16376), (9, 0x10000), (10, 0x10000)] }

theorem ready_cg (h : Nat) : Ready (mk { cg with half := h }) 0 1 { cg with half := h } :=
  ready_mk _ _ _ rfl rfl rfl rfl rfl rfl rfl

theorem test_wit_Copies :
    let w := (mk cg).work
    w.space 0 cg 3 = some (0, 0, 16384) ∧ cg.kind ≠ .run ∧ (cg.s 4).toNat % 32 = 0 ∧
      (cg.s 4).toNat + 32 * 1 ≤ 16384 ∧ (cg.s 6).toNat + 32 * 256 ≤ 16384 ∧ (cg.s 7).toNat = 256 ∧
      (w.core 0).bufBusy 1 = false ∧ (w.core 0).upset = [] ∧
      8 * crBits ((w.core 0).copyRec 32) 238 224 + 8 ≤ 16384 ∧ (w.core 0).kicks.length < 64 ∧
      4 * (0 + 1) < 256 ∧ 1 ≤ 4 * (0 + 1) ∧ 256 ≤ 4 * (63 + 1) ∧ cg.tc < 63 ∧
      (cg.s 8).toNat % 8 = 0 ∧ (cg.s 8).toNat + 8 ≤ 16384 ∧ (cg.s 9).getLsbD 0 = false ∧
      (w.core 0).remain 16376 = 0 ∧
      ((mk cg fun k => { k with sbuf := [(16376, 1)] }).work.core 0).remain 16376 ≠ 0 := by
  decide +kernel

/-- A kick that copies 16 bytes from ABUF offset 0 to the end of WBUF. -/
def kick : Kick :=
  { launch := 1, lin := 0, gidx := 0, slot := 1, sup := false, owner := 0, pri := 0
    recs := [BitVec.ofNat 256 (2 * 2 ^ 52 + 4080 * 2 ^ 56 + 2 ^ 108 + 16 * 2 ^ 112)]
    ord := false, failed := 0, seq := 0, fault := none, row := 0, pend := [], num := 0 }

theorem test_wit_CopyEngine :
    let q := (mk tg fun k => { k with kicks := [kick] }).work
    let w := (mk tg fun k => { k with copying := some kick }).work
    (q.core 0).copying = none ∧ (q.core 0).kicks.find? (fun y => !q.kickHeld y) = some kick ∧
      (w.core 0).copying = some kick ∧ w.kickHeld kick = false ∧
      (w.core 0).copyDelayed = false ∧ (w.core 0).upset = [] ∧
      w.kickSpace 0 kick 1 = some (0, 0, 4096) ∧ w.kickSpace 0 kick 0 = some (0, 0, 4096) ∧
      w.kickSpace 0 kick 3 = some (0, 0, 16384) ∧
      ∃ r, kick.recs = [r] ∧ crMalformed r kick.ord = false ∧ crRows r = 1 ∧ (srcSide r).kind = 2 ∧
        (dstSide r).kind = 1 ∧ (srcSide r).inAllot 0 (crLen r) 4096 = some 0 ∧
        (dstSide r).inAllot 0 (crLen r) 4096 = some 4080 ∧
        crLen r ≤ ((mk tg fun k => { k with sbuf := [(0, 16)] }).work.core 0).remain (0 + crObj r) ∧
        (∀ i < 8, w.ringByte 0 (0 + crObj r + i) = false) ∧
        (w.core 0).bufNum 3 (0 + crObj r) 8 / 2 ^ 40 % 256 = 0 :=
  ⟨rfl, by decide +kernel, rfl, by decide +kernel, rfl, rfl, by decide +kernel, by decide +kernel,
    by decide +kernel, _, rfl, by decide +kernel⟩

/-- A window of launch 1 and one of launch 2. -/
def windows (s : State) : State :=
  { s with dies := [(0, { Die.init with
      rtw := [(1, { launch := 1, base := 0, len := 4096, n := 4, ways := [0, 1, 2, 3] }),
              (3, { launch := 2, base := 0, len := 4096, n := 4, ways := [4, 5, 6, 7] })] })] }

theorem test_wit_RetentionWindows :
    let w := (mk cg id windows).work
    let rtw := (w.die (Config.dieOf 0)).rtw
    (cg.s 9).toNat % 4096 = 0 ∧ (cg.s 10).toNat % 4096 = 0 ∧ 4096 ≤ (cg.s 10).toNat ∧
      (cg.s 10).toNat ≤ 2 ^ 30 ∧ (cg.s 9).toNat < 2 ^ 52 ∧
      (tlbLook cg.owner (cg.s 9).toNat (w.core 0).tlb).map Prod.fst = some fetchPage ∧
      w.permits cg fetchPage .load = true ∧
      (cg.s 9).toNat % 2 ^ pageBits fetchPage.size + (cg.s 10).toNat ≤ 2 ^ pageBits fetchPage.size ∧
      (tfind 0 rtw).isNone = true ∧ rtw.foldl (fun q y => q + y.2.n) 0 + 3 + 1 ≤ 12 ∧
      (tfind 1 rtw).map (·.launch) = some cg.launch ∧ (tfind 3 rtw).map (·.launch) = some 2 := by
  decide +kernel

/-- An MMA of 16 × 256 × 1 and one of a single element. -/
def xg : Group := { tg with sreg := [(0, 16), (1, 256), (2, 1), (10, 256 * 2 ^ 16), (20, 1), (21, 1), (22, 1)] }

theorem test_wit_MatrixIssue :
    Ready (mk xg) 0 1 xg ∧ xg.kind = .user ∧ xg.iset = 0 ∧ xg.mc < 63 ∧
      (let e := ((mk xg).work.core 0).mx
       let id := xg.memberId 1
       61 + 3 ≤ 64 ∧ 62 + 2 ≤ 64 ∧ 63 + spanRegs 0 1 ≤ xg.nv ∧
         (mmaOp 0 1 xg 0 20 30 false false).fieldsOk = true ∧
         (mmaOp 0 1 xg 0 0 10 true true).m = 16 ∧ e.latchOf xg.launch xg.lin [id] = none ∧
         e.latchedFor xg.launch xg.lin id = false ∧
         e.open_.find? (fun y => y.op.ofSet xg.launch xg.lin [id]) = none ∧ e.occupancy < 8 ∧
         tfind 7 e.latches = none ∧ (mk xg).work.space 0 xg 2 = some (0, 0, 256) ∧
         (mk xg).work.space 0 xg 0 = some (0, 0, 4096) ∧
         (mmaOp 0 1 xg 0 20 30 false false).outOf 256 4096 = none) := by
  refine ⟨ready_mk _ _ _ rfl rfl rfl rfl rfl rfl rfl, ?_⟩; decide +kernel

theorem test_wit_MatrixControl :
    Ready st 0 1 tg ∧ tg.kind = .user ∧
      (let set := (List.range 32).filter (Nat.testBit 3)
       set = [0, 1] ∧ tg.gidx ∈ set ∧ set.length ≠ 1 ∧ set.length ≤ 6 ∧
         ∀ i ∈ set, i < lrNgrp ((mk tg id ring).work.recOf tg) ∧
           (mk tg id ring).work.coreOfMember tg 0 i = 0) ∧
      ((List.range 32).filter (Nat.testBit 0)).length ≠ 1 ∧
      ((mk tg id ring).work.core 0).mx.latchedFor tg.launch tg.lin tg.gidx = false ∧
      ((mk tg id ring).work.core 0).mx.waiting = [] ∧ 2 ^ 19 - 8 < 2 ^ 19 ∧ (2 ^ 19 - 8) % 8 = 0 ∧
      tg.half = 0 ∧ (∀ y, (st.work.core y).mx.ops = []) ∧
      st.work.space 0 tg 2 = some (0, 0, 256) ∧ 192 + 64 ≤ 256 ∧ (st.work.core 0).upset = [] ∧
      st.work.mxWrites 0 1 tg (0 + 192) 64 = false ∧ (0 : BitVec 7) &&& fmtEnables tg.format = 0 ∧
      (6 : BitVec 6).toNat ≤ 6 := by
  refine ⟨test_ready, rfl, by decide +kernel, by decide, by decide +kernel, rfl, by decide,
    by decide, rfl, ?_, by decide +kernel, by decide, rfl, by decide +kernel, by decide, by decide⟩
  intro y
  show ((if 0 = y then some _ else none).getD Core.init).mx.ops = []
  by_cases h : 0 = y
  · rw [if_pos h]; rfl
  · rw [if_neg h]; rfl

/-- In the handler: the four words of a split operation of one element. -/
def ug (w : Word) : Group :=
  { tg with inHandler := true, sreg := [(4, 0x8000000000000001), (5, 0), (6, 0), (7, 0), (8, w)] }

theorem test_wit_MatrixContinuation :
    ([0, 1] : List Word).all (fun v =>
      let g := ug v
      let k := (mk g).work.core 0
      match contOp 1 g ((List.range 4).map fun i => g.s (4 + i)) with
      | some o =>
        decide (o.members = [g.memberId 1]) && o.fieldsOk && decide (k.leaderSlot o = some 1) &&
          (k.memberSlot o (g.memberId 1)).isSome &&
          decide (o.va + o.aoff + spanRegs o.afmt o.k ≤ g.nv) &&
          decide ((mk g).work.space 0 g 2 = some (0, 0, 256)) &&
          decide ((mk g).work.space 0 g 0 = some (0, 0, 4096)) && decide (o.outOf 256 4096 = none) &&
          decide (g.s 8 = v) && decide (g.mc < 63) && decide (k.mx.occupancy < 8) &&
          (k.contA o).isSome
      | none => false) = true := by decide +kernel

/-- An operation queued; running with a block to write; ended; to be split. -/
def op : MxOp := mmaOp 0 1 xg 0 20 30 false false

def engine (o : MxOp) (run : Bool) (k : Core) : Core :=
  { k with
    cycle := 30
    mx := { k.mx with queue := if run then [] else [o], running := if run then some o else none } }

theorem test_wit_MatrixEngine :
    let q := (mk xg (engine op false)).work
    let b := { op with fetched := 1 }
    let e := { op with fetched := 1, done := 1 }
    let team := { fetchTeam with saving := true }
    (q.core 0).mx.running = none ∧
      (q.core 0).mx.queue.find? (fun y => !((q.team y.launch y.lin).map (·.saving)).getD false) =
        some op ∧ op.enq < (q.core 0).cycle ∧ (q.core 0).mx.busy ≤ (q.core 0).cycle ∧
      op.behind (q.core 0) = false ∧ op.isMember 1 xg = true ∧ op.issuer ≠ some 1 ∧ 1 ∉ op.past ∧
      b.bad = none ∧
      ((mk xg (engine b true)).work.core 0).mx.running = some b ∧ b.done < b.fetched ∧
      b.writeAt b.done ≤ 30 ∧ b.n ≤ 256 ∧ b.m ≤ 1 ∧ e.blocks ≤ e.done ∧
      (q.core 0).mx.waiting = [] ∧ op.done < op.blocks ∧
      (((mk xg (engine op true) fun s => { s with teams := [(teamKey 1 0, team)] }).work.team
        op.launch op.lin).map (·.saving)).getD false = true ∧ op.fetched ≤ op.done := by
  decide +kernel

/-! ### Sweeps -/

/-- A tensor of 16 cells in one segment on core 0: elements, contexts, skip map and routine at
0x11000, 0x12000, 0x13000 and 0x14000. -/
def seg : Seg :=
  { core := 0, slot := some 1, phase := .sweeping, cursor := 0, sweeps := 0, counts := [], held := []
    pend := [], fault := none, efault := false, resume := none }

def ten : Tensor :=
  { tensorOf tg 0 0x10000 0 0 0 with
    cbase := 0x12000, ebase := 0x11000, kbase := 0x13000, rbase := 0x14000, rvq := 1, count := 16
    seglen := 1, segs := [(0, seg)], state := 1, n := 2 }

def sweep (t : Tensor) (g : Group := tg) (fk : Core → Core := id) : State :=
  mk g fk fun s => { s with
    teams := [(teamKey 1 0, { fetchTeam with handles := [(3, { tensor := 1 })] })], tensors := [(1, t)] }

/-- A line that an engine of core 0 has asked for and that has come. -/
def efill (u tag line : Nat) (data : BitVec 1024) : Fill :=
  { req := { req line 0 (.fill false false []) with slot := u, eng := true, gidx := tag, counted := false }
    load := none, install := false, overlay := [], data := some data, bad := false }

/-- The sweep engine has these lines of memory, for the team's tensor at 0x10000. -/
def fetched (l : List Nat) (s : State) : State :=
  { s with cores := tmod 0 (fun k => { k with
      fills := l.map fun n => (n, efill 65 (teamKey 1 0 * 2 ^ 52 + 0x10000) n (s.work.line n)) }) s.cores }

/-- Its descriptor at 0x10000, and a header of one quarter-row at 0x14000; without the lines that the
engine reads, and with them. -/
def plainDesc : State :=
  mk { tg with sreg := [(4, 0x10000)] } id fun s => { s with
    mem := [(0x10001, 0x10), (0x10002, 1), (0x10009, 0x20), (0x1000A, 1), (0x10011, 0x30), (0x10012, 1),
      (0x10019, 0x40), (0x1001A, 1), (0x10020, 15), (0x10024, 4), (0x14000, 1)] }

def described : State := fetched [512, 576, 577, 608, 640] plainDesc

def dg : Group := { tg with sreg := [(4, 0x10000)] }

/-- What a read gives. -/
def gotW : Got (List Byte) → Work
  | .ok w _ => w
  | .wait w => w
  | .fault w _ => w
  | .access w => w

def gotL : Got (List Byte) → List Byte
  | .ok _ l => l
  | _ => []

def isGot : Got (List Byte) → Bool
  | .ok _ _ => true
  | _ => false

theorem got_ok (x : Got (List Byte)) (h : isGot x = true) : x = .ok (gotW x) (gotL x) := by
  cases x <;> first | rfl | cases h

def resW : Resolved → Work
  | .ok w _ => w
  | .stop _ => State.reset.work

def read0 : Resolved :=
  described.work.resolve 0 1 dg .load 64 true (fun e pa => described.work.placeOk dg e pa 64 false true false)
    [(0, 0x10000)]
def read1 : Got (List Byte) := (resW read0).engGet (tensorOf dg 0 0x10000 0 0 0) 0 false [(0x10000, 64)]
def word1 : Nat := numAt (gotL read1) 0 64
def read2 : Got (List Byte) := (gotW read1).engGet (tensorOf dg 0 0x10000 0 word1 0) 0 false [(0x14000, 4)]
def declared : Tensor := tensorOf dg 0 0x10000 0 word1 (numAt (gotL read2) 0 4)
def read3 : Got (List Byte) :=
  (gotW read2).engGet declared 0 true
    [(declared.cbase, 16 * 16), (declared.kbase, 8), (declared.smap, 1), (0x10000 + 44, 20)]

/-- What the scan of the descriptor writes, from a machine. -/
def declWrites (w : Work) : Work × List Nat :=
  w.engPuts declared 0
    ((declared.scan (gotL read3) ((gotL read3).drop 256)).1 ++
      (0x10000 + 44, 4, 0) :: (upto 4).map fun k => (0x10000 + 48 + 4 * k, 4, 0))

/-- The writes are awaited; a declaration whose writes have been performed. -/
theorem test_wit_SweepDeclaration_writes :
    let t := { declared with decl := some (dg.keyIdx 1, [5]) }
    let y := { fetchTeam with handles := [(3, ({ tensor := 1 } : Handle))] }
    let s := mk dg id fun s => { s with tensors := [(1, t)], teams := [(teamKey 1 0, y)] }
    (declWrites (gotW read3)).2 ≠ [] ∧
      s.work.declaring dg 1 0x10000 = some (1, t) ∧ s.work.tensor? 1 = some t ∧
      s.work.opsDone 0 ((t.decl.map Prod.snd).getD []) = true ∧
      y.handles.find? (fun p => decide (p.2.tensor = 1)) = some (3, { tensor := 1 }) := by
  decide +kernel

theorem test_wit_SweepDeclaration :
    Ready described 0 1 dg ∧ Member described dg fetchTeam ∧ tfind 0 fetchTeam.handles = none ∧
      described.work.declaring dg 1 0x10000 = none ∧
      0x10000 % 64 = 0 ∧ dg.lc = 0 ∧ dg.sc = 0 ∧ (∃ r, read0 = .ok (resW read0) r) ∧
      read1 = .ok (gotW read1) (gotL read1) ∧ (tensorOf dg 0 0x10000 0 word1 0).rbase = 0x14000 ∧
      read2 = .ok (gotW read2) (gotL read2) ∧ declared.count = 16 ∧
      declared.check word1 (numAt (gotL read2) 0 4) = 0 ∧ read3 = .ok (gotW read3) (gotL read3) ∧
      ∀ h < 4, tfind h ({ fetchTeam with handles := (upto 4).map fun i =>
        (i, ({ tensor := 1 } : Handle)) }).handles ≠ none :=
  ⟨⟨rfl, rfl, ⟨rfl, rfl, rfl, rfl, rfl⟩⟩, ⟨rfl, by decide +kernel, rfl, rfl, rfl⟩, rfl,
    by decide +kernel, by decide, rfl, rfl, ⟨_, rfl⟩, got_ok _ (by decide +kernel), by decide +kernel, got_ok _ (by decide +kernel),
    by decide +kernel, by decide +kernel, got_ok _ (by decide +kernel), by decide +kernel⟩

/-- Invalid and valid handles; a tensor that runs, is idle, is halted; wakes to the cells 0 to 15. -/
theorem test_wit_SweepControl :
    let w := (sweep ten tg fun k => { k with good := true }).work
    let i := (sweep { ten with state := 0 }).work
    w.handle tg 0 = none ∧ w.handle tg 3 = some (1, ten) ∧
      i.handle tg 3 = some (1, { ten with state := 0 }) ∧
      (∀ q ∈ ten.segs, (w.core q.2.core).good = true) ∧
      w.space 0 { tg with sreg := [(4, 16352)] } 3 = some (0, 0, 16384) ∧
      (({ tg with sreg := [(4, 16352)] } : Group).s 4).toNat % 32 = 0 ∧
      (({ tg with sreg := [(4, 16352)] } : Group).s 4).toNat + 32 ≤ 16384 ∧
      (w.core 0).bufBusy 1 = false ∧
      (sweep { ten with state := 2 }).work.handle tg 3 = some (1, { ten with state := 2 }) ∧
      (9 : BitVec 6).toNat ≤ 9 := by decide +kernel

theorem test_wit_SweepControl_group :
    let y := { fetchTeam with handles := [(3, ({ tensor := 1 } : Handle))] }
    Ready (sweep ten) 0 1 tg ∧ Member (sweep ten) tg y ∧
      Ready (sweep ten { rg 3 with half := 1 }) 0 1 { rg 3 with half := 1 } ∧
      Released (sweep ten { rg 3 with half := 1 }) { rg 3 with half := 1 } 3 :=
  ⟨⟨rfl, rfl, ⟨rfl, rfl, rfl, rfl, rfl⟩⟩, ⟨rfl, by decide +kernel, rfl, rfl, rfl⟩,
    ⟨rfl, rfl, ⟨rfl, rfl, rfl, rfl, rfl⟩⟩, .inr ⟨_, rfl, rfl, rfl, nofun⟩⟩

theorem test_wit_ExternalWakes :
    tg.hasV 63 = true ∧ (sweep ten).work.handle tg 3 = some (1, ten) ∧
      (∀ l < 64, bit tg.exec l = true → (tg.v 9 l).toNat < ten.count) ∧
      Released (sweep ten) tg ((lanesOf tg.exec).foldl (fun m l => max m
        ((sweep ten).work.amScope tg 0
          (((tfind (ten.segOf (tg.v 9 l).toNat) ten.segs).map (·.core)).getD 0) true)) 0) :=
  ⟨rfl, by decide +kernel, by decide +kernel, .inl (by decide +kernel)⟩

/-- A run group with a run of 16 cells. -/
def ctx : RunCtx :=
  { tensor := 1, seg := 0, base := 0, args := 0, desc := 0x10000, rbase := 0x14000, cls := 0
    lanes := 0xFFFF, cpc := [], st := [], ref := [], ref0 := [], executed := 0xFFFF, repaired := 0
    todo := 0, done := 0, asks := [], wakes := [], budget := 65536 }

def qg (r : RunCtx) : Group := { lg with kind := .run, run := some r }

theorem test_wit_RoutineInstructions :
    Ready (sweep ten (qg ctx)) 0 1 (qg ctx) ∧ (qg ctx).kind = .run ∧ (qg ctx).run = some ctx ∧
      (5 : BitVec 3).toNat ≤ 5 ∧ (qg ctx).hasPair 10 = true ∧ (qg ctx).hasV 63 = true ∧
      (∃ u, (sweep ten (qg ctx)).work.resolve 0 1 (qg ctx) .load 4 false
        (fun _ pa => ((sweep ten (qg ctx)).work.place pa).isNear)
        ((lanesOf (qg ctx).exec).map fun l => (l, ((qg ctx).v64 10 l).toNat % 2 ^ 52)) =
          .ok u [(0, 0x10000, 0), (1, 0x10004, 0)]) ∧
      (sweep ten (qg ctx)).work.tensor? ctx.tensor = some ten ∧ tfind ctx.seg ten.segs = some seg :=
  ⟨⟨rfl, rfl, ⟨rfl, rfl, rfl, rfl, rfl⟩⟩, rfl, rfl, by decide, rfl, rfl, ⟨_, rfl⟩, rfl, rfl⟩

/-- A tensor whose segment is in a phase. -/
def phase (p : SegPhase) (f : Seg → Seg := id) : Tensor := { ten with segs := [(0, f { seg with phase := p })] }

/-- A segment whose run group waits for a run. -/
def idle : Group := { qg ctx with run := none }

/-- The engine has the lines of the maps, contexts and elements, and the page of its writes. -/
def swept (s : State) : State :=
  let paged := fun k : Core => { k with engPages := [(1, 0x10000, 0)] }
  fetched [544, 576, 577, 608] { s with cores := tmod 0 paged s.cores }

def sum1 : Got (List Byte) := (swept (sweep ten idle)).work.engGet ten 0 true [(ten.smap + 0 / 64 / 8, 1)]
def skip1 : Got (List Byte) := (gotW sum1).engGet ten 0 true [(ten.kbase + 8 * (0 / 64), 8)]
def load1 : Got (List Byte) :=
  (gotW skip1).engGet ten 0 true (((upto 16).map fun j => (ten.cbase + 16 * j, 16)) ++
    (upto 16).map fun j => (ten.ebase + ten.eb * j, ten.eb))

/-- The chunk that is stepped over: its summary bit set in memory. -/
def sum2 : Got (List Byte) :=
  (swept { sweep ten with mem := [(ten.smap, 1)] }).work.engGet ten 0 true [(ten.smap + 0 / 64 / 8, 1)]

/-- The maps that a run's write-back reads, and what it writes. -/
def ovr : RunCtx := { ctx with done := 0xFFFF }
def backS : State := swept (sweep (phase .running) (qg ovr))
def back1 : Work × Option (List Byte) :=
  backS.work.engGetChecked (phase .running) 0 [(ten.kbase + 8 * (0 / 64), 8), (ten.smap + 0 / 64 / 8, 1)]

theorem test_wit_SweepRuns_reads :
    let on := maskOf fun i => decide (i < 16) && !(numAt (gotL skip1) 0 8).testBit i
    let q := gotL load1
    let l := spread on 16 16 q ++ spread on ten.eb 16 (q.drop (16 * 16))
    isGot sum1 = true ∧ (numAt (gotL sum1) 0 1).testBit 0 = false ∧ isGot sum2 = true ∧
      (numAt (gotL sum2) 0 1).testBit 0 = true ∧ isGot skip1 = true ∧ lanesOf on = upto 16 ∧
      isGot load1 = true ∧ (gotW load1).runGroup seg = some (1, idle) ∧
      (loadRun ten 0 0 16 (numAt (gotL skip1) 0 8) l 1).executed ≠ 0 := by
  decide +kernel

theorem test_wit_SweepRuns_back :
    let x := { seg with phase := .running }
    backS.work.tensor? 1 = some (phase .running) ∧ tfind 0 (phase .running).segs = some x ∧
      backS.work.engFree x = true ∧ backS.work.runGroup x = some (1, qg ovr) ∧
      ovr.classOver = true ∧ (qg ovr).landed = true ∧ ovr.todo = 0 ∧ (qg ovr).sc = 0 ∧
      (ovr.asks.all fun a => a.2.result.isSome) = true ∧ back1.2.isSome = true ∧
      (qg ovr).flights = [] ∧
      tfind ((phase .running).owner * 2 ^ 36 + 0x12000 / 65536) (back1.1.core 0).engPages =
        some (0x10000, 0) ∧
      ∃ v, (0x12000, 16, v) ∈ runWrites (phase .running) ovr (qg ovr)
        (numAt (back1.2.getD []) 0 8) (numAt (back1.2.getD []) 8 1) :=
  ⟨rfl, rfl, by decide +kernel, rfl, by decide, by decide, rfl, rfl, rfl, by decide +kernel, rfl,
    by decide +kernel, 0, by decide +kernel⟩

/-- R272, R278: every lane of the run is within its chunk; a summary bit at its home. -/
theorem test_wit_RunWrites :
    (∀ i < 64, bit (ovr.executed ||| ovr.repaired) i = true → ovr.base % 64 + i < 64) ∧
      bit ovr.executed 15 = true ∧ ten.smap < 2 ^ 52 ∧
      tfind (ten.owner * 2 ^ 36 + ten.smap / 65536) (backS.work.core 0).engPages =
        some (0x10000, 0) ∧
      (backS.work.place (0x10000 + ten.smap % 65536)).isNear = true := by decide +kernel

theorem test_wit_SweepRuns :
    let w := (sweep ten).work
    let p := (sweep (phase .placing fun x => { x with slot := none })).work
    let r := (sweep (phase .running) (qg { ctx with done := 0xFFFF, todo := 1 })).work
    let e := (sweep (phase .running) (qg { ctx with done := 0xFFFF })).work
    w.tensor? 1 = some ten ∧ tfind 0 ten.segs = some seg ∧ w.engFree seg = true ∧
      p.engAble { seg with phase := .placing, slot := none } = true ∧
      ten.halting = false ∧ seg.cursor < ten.segEnd 0 ∧ seg.held = [] ∧ seg.out = [] ∧
      (ctx.asks.all fun a => a.2.result.isSome) = true ∧
      (upto 43 1).reverse.find? (fun j => (tfind j (p.core 0).groups).isNone) = some 43 ∧
      (p.core 0).rowsUsed + (4 * ten.rvq + 4) * ten.rw / 16 ≤ Config.teamRows ∧
      r.runGroup seg = some (1, qg { ctx with done := 0xFFFF, todo := 1 }) ∧
      ({ ctx with done := 0xFFFF } : RunCtx).classOver = true ∧ (qg ctx).landed = true ∧
      e.runGroup seg = some (1, qg { ctx with done := 0xFFFF }) ∧ (qg ctx).sc = 0 ∧
      65536 ≤ ctx.budget ∧ ctx.lanes &&& ~~~ctx.done ≠ 0 :=
  ⟨rfl, rfl, by decide +kernel, by decide +kernel, rfl, by decide +kernel, rfl, rfl, rfl,
    by decide +kernel, by decide +kernel, rfl, by decide, by decide, rfl, rfl, by decide, by decide⟩

/-- The three ends of a sweep boundary: the last of two sweeps, quiet and waiting, and going on. -/
theorem test_wit_SweepBoundaries :
    let w := (sweep (phase .opening)).work
    w.tensor? 1 = some (phase .opening) ∧ tfind 0 (phase .opening).segs = some { seg with phase := .opening } ∧
      w.engFree { seg with phase := .opening } = true ∧ seg.resume = none ∧ seg.held = [] ∧
      ten.sync = false ∧ ten.halting = false ∧ ten.segEnd 0 ≤ 16 ∧ ten.n ≠ 0 ∧
      w.wakesFlying 1 = false ∧ w.engAble seg = true ∧ w.engDone seg = true ∧
      ({ ten with final := true } : Tensor).lastOpen 0 = false ∧
      ten.n ≤ ({ seg with sweeps := 2 } : Seg).sweeps ∧ ({ seg with sweeps := 1 } : Seg).sweeps < ten.n ∧
      tget 0 0 seg.counts = 0 ∧ tget 0 2 ({ seg with counts := [(2, 1)] } : Seg).counts ≠ 0 ∧
      tget 0 0 ({ seg with counts := [(0, 1)] } : Seg).counts ≠ 0 ∧ seg.fault = none ∧
      ten.armed = [] ∧ (tkeys ten.segs).Nodup ∧ (∀ q ∈ ten.segs, q.1 ≠ 0 → q.2.phase = .closed) ∧
      ({ seg with efault := true } : Seg).efault = true ∧ seg.phase ≠ .closed := by decide +kernel

/-- A wake from a group, a monitor wake of a cell, and one of a waiting group. -/
def waking (q : WakeIn) (k : Core) : Core :=
  { k with
    groups := [(0, Group.supervisor), (1, tg), (2, wg)]
    inbox := { k.inbox with wakes := [q], xwakes := [{ tensor := 1, seg := 0, cell := 15, key := [] }] } }

theorem test_wit_WakeArrivals :
    let a := { slot := 1, home := 0, seq := 0, sector := 0, op := 7, cell := some (1, 15) }
    let b := { slot := 2, home := 0, seq := 0, sector := 0, op := 7, cell := none }
    let w := (sweep ten tg (waking a)).work
    let v := (sweep ten tg (waking b)).work
    (w.core 0).inbox.xwakes = [{ tensor := 1, seg := 0, cell := 15, key := [] }] ∧
      w.tensor? 1 = some ten ∧ tfind 0 ten.segs = some seg ∧ (w.core 0).readyWake = some a ∧
      ten.segOf 15 = 0 ∧ (v.core 0).readyWake = some b ∧ v.grp 0 2 = some wg ∧
      wg.wait = .monitor 0x10000 0x10000 4 0 1 (some 0) 7 ∧ wg.flights = [] := by decide +kernel

/-! ### Launch, traps, saving -/

/-- A queue of 64 entries: not enabled; enabled; full. -/
def qs (n : Nat) (s : State) : State :=
  { s with
    queues := [(15, { base := 0x40000, ctl := if n = 0 then 6 else 0x46, head := 0
                      tail := if n = 2 then 63 else 0 })] }

def ag : Group := { rg 3 with sreg := [(4, 0x10000), (5, 0), (6, 0x100000000)] }

theorem ready_ag (n : Nat) : Ready (mk ag id (qs n)) 0 1 ag := ready_mk _ _ _ rfl rfl rfl rfl rfl rfl rfl

theorem test_wit_LaunchAndMessages :
    (∀ n, Ready (mk ag id (qs n)) 0 1 ag) ∧ ag.kind ≠ .run ∧ (ag.s 4).toNat % 128 = 0 ∧
      (∀ n, Released (mk ag id (qs n)) ag 3) ∧
      ((mk ag id (qs 0)).work.queue 15).enabled = false ∧
      (let k := (mk ag id (qs 1)).work.queue 15
       k.enabled = true ∧ (k.tail + 1) % k.size ≠ k.head % k.size) ∧
      (let k := (mk ag id (qs 2)).work.queue 15
       k.enabled = true ∧ (k.tail + 1) % k.size = k.head % k.size) :=
  ⟨ready_ag, by decide, by decide, fun _ => .inr ⟨_, rfl, rfl, rfl, nofun⟩, by decide +kernel,
    by decide +kernel, by decide +kernel⟩

/-- A message to team 0 and to core 0, for handler 0 of the one that the launch has. -/
theorem test_wit_Messages :
    let w := (mk ag fun k => { k with good := true }).work
    ag.kind ≠ .supervisor ∧ ag.kind ≠ .handlerCore ∧ ag.hasQuad 60 = true ∧
      (0 : BitVec 4).toNat < lrHcount (w.recOf ag) ∧ (ag.s 5).toNat < 2 ^ 33 ∧
      (ag.s 5).getLsbD 32 = false ∧ (ag.s 5).toNat % 2 ^ 32 < lrTeams (w.recOf ag) ∧
      (ag.s 6).toNat < 2 ^ 33 ∧ (ag.s 6).getLsbD 32 = true ∧ (ag.s 6).toNat % 2 ^ 32 < Config.cores ∧
      w.relScope ag (w.amScope ag 0 0 true) = 0 ∧ (w.core 0).good = true ∧
      ((mk ag fun k => { k with good := false }).work.core 0).good = false := by decide +kernel

/-- A launch record of one team of one group without buffers, one that has no team, and the ring. -/
def plainRec : BitVec 1024 :=
  0x3000002000000000000000000000000000000000000000000000000000000000000000000000_000000000001000000010000000100000000000000000000000000000000

def rings (n : Byte) (s : State) : State :=
  { s with
    launches := [], teams := []
    queues := [(0, { base := 0x40000, ctl := 0x46, head := 0, tail := 1 })]
    mem := [(2, 2), (6, 0x10), (0x20000, 1), (0x20002, 3), (0x30000, 0x0F), (0x40002, n),
      (0x50010, 1), (0x50014, 1), (0x50018, 1), (0x50040, 0x20),
      (0x50043, 0x30)] }

def isRead : DistRead → Bool
  | .ok _ _ => true
  | _ => false

def readW : DistRead → Work
  | .ok w _ => w
  | .wait w => w
  | .fail => State.reset.work

def readV : DistRead → Nat
  | .ok _ v => v
  | _ => 0

theorem read_ok (x : DistRead) (h : isRead x = true) : x = .ok (readW x) (readV x) := by
  cases x <;> first | rfl | cases h

def admission (n : Byte) : State := mk tg id (rings n)
def entry1 (n : Byte) : DistRead := (admission n).work.distGet 0 (0x40000 + 8 * (0 % 64)) 8
def entry2 (n : Byte) : DistRead := (readW (entry1 n)).distGet 0 (readV (entry1 n)) 128

def entryPage (n : Byte) : Option (Nat × Nat) × Work :=
  (readW (entry2 n)).distPage 0 (lrCpl (BitVec.ofNat 1024 (readV (entry2 n)))) 64 .store

def passes : Check → Bool
  | .pass _ => true
  | _ => false

def refuses : Check → Bool
  | .refuse _ _ => true
  | _ => false

theorem test_wit_Admission :
    let s := admission 5
    s.tempo % 32 = 0 ∧ s.admitAt ≤ s.tempo ∧ s.work.openLaunches < 64 ∧ s.work.queueOrder = [0] ∧
      isRead (entry1 5) = true ∧ isRead (entry1 6) = true ∧ readV (entry1 5) = 0x50000 ∧
      readV (entry1 5) < 2 ^ 52 ∧ readV (entry1 5) % 128 = 0 ∧ isRead (entry2 5) = true ∧
      isRead (entry2 6) = true ∧ lrCpl (BitVec.ofNat 1024 (readV (entry2 5))) % 64 = 0 ∧
      (entryPage 5).1.isSome = true ∧ (entryPage 6).1.isSome = true ∧
      passes ((entryPage 5).2.checkRecord 0 0 (BitVec.ofNat 1024 (readV (entry2 5)))) = true ∧
      refuses ((entryPage 6).2.checkRecord 0 0 (BitVec.ofNat 1024 (readV (entry2 6)))) = true := by
  decide +kernel

/-- A launch whose team is to be placed. -/
def placing : State :=
  mk tg (fun k => { k with good := true, groups := [(0, Group.supervisor)] }) fun s =>
    { s with
      launches := [(1, newLaunch plainRec 0x50000 { base := 0, ctl := 0x46, head := 0, tail := 0 })]
      teams := [] }

theorem test_capacity_stands : placing.work.capacityFell = placing.work := by
  unfold Work.capacityFell
  rw [show placing.work.launches = [(1, newLaunch plainRec 0x50000
    { base := 0, ctl := 0x46, head := 0, tail := 0 })] from rfl, List.foldl_cons, List.foldl_nil]
  exact if_neg (by decide +kernel)

theorem test_wit_Placement :
    let w := placing.work
    let x := newLaunch plainRec 0x50000 { base := 0, ctl := 0x46, head := 0, tail := 0 }
    placing.tempo % 32 = 0 ∧ placing.placeAt ≤ placing.tempo ∧ w.capacityFell = w ∧
      w.placeOrder = [(1, x)] ∧ w.launch? 1 = some x ∧ x.waitFull = false ∧ x.heldAm = [] ∧
      lrBook x.record = 0 ∧ lrGpref x.record = 0 ∧ lrGfall x.record = 0 ∧
      x.placed < lrTeams x.record ∧
      ((upto Config.clusters).map fun i => (placing.lastCluster + 1 + i) % Config.clusters).find?
        (fun k => (homesIn x.record k).any fun c => (w.roomAt x.record c).isSome) = some 0 ∧
      (homesIn x.record 0).find? (fun c => (w.roomAt x.record c).isSome) = some 0 ∧
      (w.roomAt x.record 0).isSome = true := by
  refine ⟨by decide, by decide, test_capacity_stands, ?_⟩; decide +kernel

/-- A group without live lanes; a team and a grid that have retired. -/
theorem test_wit_Retirement :
    let g := { tg with live := 0, exec := 0 }
    let y := { fetchTeam with retired := 1 }
    let s := mk tg (fun k => { k with groups := [(0, Group.supervisor)] }) (withTeam y)
    let e := (mk tg id fun s => { s with launches := [(1, { tLaunch with retired := 1 })] }).work
    (mk g).work.grp 0 1 = some g ∧ g.mayRetire = true ∧ (mk g).work.team g.launch g.lin = some fetchTeam ∧
      (tkeys (mk g).teams).Nodup ∧ (∀ p ∈ (mk g).teams, p.1 = teamKey p.2.launch p.2.lin) ∧
      s.work.team 1 0 = some y ∧ s.work.launch? 1 = some tLaunch ∧ y.resident = true ∧
      y.saving = false ∧ (upto (lrNgrp tLaunch.record)).all (has y.retired) = true ∧
      y.heldAm = [] ∧ s.work.teamBusy y = false ∧
      e.launch? 1 = some { tLaunch with retired := 1 } ∧ tLaunch.complete = false ∧
      tLaunch.published = false ∧ ({ tLaunch with published := true } : Launch).published = true ∧
      lrTeams tLaunch.record ≤ 1 ∧ e.gridDrained 1 = true := by decide +kernel

/-- A message for the team and for the core. -/
def am (core : Bool) : AmMsg :=
  { launch := 1, toCore := core, idx := 0, hidx := 0, srcLin := 0, srcCore := 3, ord := false, key := []
    words := [] }

theorem test_wit_EntriesAndArrivals (core : Bool) :
    let g := { tg with entry := false, opps := 32 }
    let w := (mk g fun k => { k with returned := [1] }).work
    let a := (mk tg fun k => { k with inbox := { k.inbox with ams := [am core] } }).work
    let b := (mk tg fun k => { k with arrivals := [am core] }).work
    (w.core 0).returned = [1] ∧ (w.core 0).entriesUsed < Config.entries ∧ w.grp 0 1 = some g ∧
      32 ≤ g.opps ∧ g.promo = none ∧ g.kind ≠ .supervisor ∧ (a.core 0).inbox.ams = [am core] ∧
      a.amBehind (am core) = false ∧ fetchTeam.loaded = false ∧
      (a.core 0).arrivals.length < 16 ∧ a.launch? 1 = some tLaunch ∧ 0 ∉ tLaunch.gone ∧
      0 ∈ ({ tLaunch with gone := [0] } : Launch).gone ∧ a.team 1 0 = some fetchTeam ∧
      a.team 1 1 = none ∧ fetchTeam.resident = true ∧ (b.core 0).arrivals = [am core] ∧
      (b.core 0).handlerSlot = some 44 := by cases core <;> decide +kernel

theorem test_wit_TrapInstructions :
    Ready st 0 1 tg ∧ tg.isTeamCode = true ∧ st.work.flagsPending 0 1 = false ∧
      Ready (mk { tg with inHandler := true }) 0 1 { tg with inHandler := true } ∧
      tg.stack.length = tg.hdepth ∧ tg.savedFlights = [] ∧ tg.inHandler = false ∧
      (tg.s 20).toNat ≤ (st.work.core 0).sampled.1 ∧ (st.work.core 0).sampled.1 < (tg.s 5).toNat ∧
      Member st tg fetchTeam :=
  ⟨test_ready, rfl, rfl, ready_mk _ _ _ rfl rfl rfl rfl rfl rfl rfl, rfl, rfl, rfl, by decide,
    by decide, test_member⟩

/-- A group that waits for its request in record 15, one that waits at a page fault, a stopped one. -/
def callers (g : Group) (k : Core) : Core :=
  { k with
    groups := [(0, sg), (1, g)]
    mail := [(15, { slot := 1, va := 4, req := [1], op := 5 })]
    evq := [{ kind := 1, slot := 1, record := 15, cause := 0, detail := 0, cyc := 0 }] }

def mkM (g : Group) (sup : Group) (y : Team := fetchTeam) : State :=
  mk tg (fun k => { callers g k with groups := [(0, sup), (1, g)] }) fun s =>
    { s with cur := (0, 0), teams := [(teamKey 1 0, y)] }

def reply (v : Word) : Group := { Group.supervisor with sreg := [(4, v)] }

theorem test_wit_Mailbox_svcall :
    Ready st 0 1 tg ∧ tg.isTeamCode = true ∧ tg.hasQuad 60 = true ∧
      reqWord (tg.payload 60) 0 % 2 ^ 16 ≠ 2 ∧ (st.work.core 0).freeMail = some 0 ∧
      (st.work.core 0).evq.length < 64 :=
  ⟨test_ready, rfl, rfl, by decide +kernel, by decide +kernel, by decide⟩

theorem test_wit_Mailbox :
    let fg := { tg with wait := Wait.fault 0x20000 true 3 }
    let hg := { tg with stopped := true }
    let y := { fetchTeam with stop := some 0x19 }
    (∀ v g, Ready (mkM g (reply v)) 0 0 (reply v)) ∧ (62 : BitVec 6).toNat < 63 ∧
      ((mkM tg (reply 15)).work.core 0).evq ≠ [] ∧ ((mkM tg (reply 15)).work.core 0).evHeld = [] ∧
      ((mkS sg).work.core 0).evq = [] ∧ 15 / 64 % 4 = 0 ∧
      (tfind 14 ((mkM tg (reply 14)).work.core 0).mail).isNone = true ∧
      tfind 15 ((mkM tg (reply 15)).work.core 0).mail = some { slot := 1, va := 4, req := [1], op := 5 } ∧
      ((mkM tg (reply 15)).work.core 0).mailq = [] ∧ (mkM tg (reply 15)).work.grp 0 1 = some tg ∧
      tg.flights = [] ∧ reqWord [1] 0 % 2 ^ 16 = 1 ∧ 65 / 64 % 4 = 1 ∧ 65 % 64 = 1 ∧ 129 / 64 % 4 = 2 ∧
      (mkM fg (reply 65)).work.grp 0 1 = some fg ∧ 193 / 64 % 4 = 3 ∧
      (mkM hg (reply 193) y).work.grp 0 1 = some hg ∧ hg.stopped = true ∧
      Member (mkM hg (reply 193) y) hg y ∧ y.home = 0 ∧
      (tkeys ((mkM hg (reply 193) y).work.core 0).groups).Nodup ∧
      (mkM hg (reply 193) y).work.members y (fun z => !z.stopped) = [] :=
  ⟨fun _ _ => ⟨rfl, rfl, ⟨rfl, rfl, rfl, rfl, rfl⟩⟩, by decide, by decide, rfl, rfl, by decide,
    by decide, rfl, rfl, rfl, rfl, by decide, by decide, by decide, by decide, rfl, by decide, rfl,
    rfl, ⟨rfl, by decide +kernel, rfl, rfl, rfl⟩, rfl, by decide, by decide +kernel⟩

/-- A stopped group, and one recorded at 0x20000. -/
def qrec (s : State) : State :=
  { s with
    shadow := [(7, { tg with vreg := [], nv := 4 })]
    mem := [(0x202A0, 0x55), (0x202A1, 0x4F), (0x202A2, 0x52), (0x202A3, 0x47), (0x20348, 7)] }

theorem test_wit_SupervisorInstructions :
    let g := { Group.supervisor with sreg := [(4, 1), (5, 0x20000), (6, 2), (7, 1)] }
    let hg := { tg with stopped := true }
    let s := mkS g (fun k => { k with groups := [(0, g), (1, hg)] }) qrec
    let y : Group := { tg with vreg := [], nv := 4 }
    s.cur = (0, 0) ∧ s.work.grp 0 0 = some g ∧ g.kind = .supervisor ∧ (5 : BitVec 3).toNat ≤ 5 ∧
      (3 : BitVec 3).toNat ≤ 3 ∧ g.half = 0 ∧ (g.s 4).toNat % 64 ≠ 0 ∧ s.work.grp 0 1 = some hg ∧
      hg.isTeamCode = true ∧ hg.stopped = true ∧ s.work.atPeace 0 1 hg = true ∧
      s.sharedOut = [] ∧ s.work.teamOf (y.reload (s.work.bytes 0x20000 y.recSize)) = some fetchTeam ∧
      fetchTeam.late = [] ∧ (∀ d ∈ s.dies, d.2.units = []) ∧
      s.work.recordAt (g.s 5) = some 0x20000 ∧ (s.work.core 0).stores = [] ∧
      s.work.recordAt (g.s 7) = none ∧ (s.work.place 0x20000).isNear = true ∧
      s.work.num (0x20000 + 0x348) 8 = 7 ∧ tfind 7 s.shadow = some y ∧
      numAt (s.work.bytes 0x20000 y.recSize) 0x2A0 4 = grpMagic ∧
      s.work.canLoad 0 ((g.s 6).toNat % 64) (y.reload (s.work.bytes 0x20000 y.recSize)) = true := by
  decide +kernel

theorem test_wit_TakebackLadder :
    let g := { tg with haltDue := some 0 }
    let r := { g with parked := true }
    let safe := mk tg fun k => { k with mgn := { k.mgn with safe := true } }
    let eng := mk tg fun k => { k with engRep := [(1, 0)] }
    (mk g).work.grp 0 1 = some g ∧ 0 ≤ ((mk g).work.core 0).cycle ∧ g.atRest 0 = false ∧
      ((mk g).work.core 0).cycle < 0 + 4 ∧ (mk r).work.grp 0 1 = some r ∧ r.atRest 0 = true ∧
      (eng.work.core 0).engineOf 1 6 = 1 ∧ tfind 1 (eng.work.core 0).engRep = some 0 ∧
      (eng.work.core 0).cycle = 0 ∧ (eng.work.core 0).mgn.quar = false ∧
      tfind ((st.work.core 0).engineOf 1 5) (st.work.core 0).engRep ≠ some 0 ∧
      (mk r).work.flagsPending 0 1 = false ∧ (st.work.core 0).mgn.quar = false ∧
      (st.work.core 0).mgn.safe = false ∧ (st.work.core 0).mgn.tbcnt + 1 ≤ (st.work.core 0).mgn.tblim ∧
      ((mk tg fun k => { k with mgn := { k.mgn with tbcnt := 16 } }).work.core 0).mgn.tblim < 16 + 1 ∧
      (safe.work.core 0).mgn.safe = true ∧ st.work.guardedNext 0 1 = false ∧
      (mkS sg id fun s => { s with mem := [(0x10000, 1), (0x10001, 6)] }).work.guardedNext 0 1 = true ∧
      ((mk tg fun k => { k with repeating := some 0 }).work.core 0).repeating = some 0 ∧
      (st.work.grp 0 1).isSome = true ∧
      0 + max 1024 1048576 ≤ ((mk tg fun k => { k with cycle := 1048576 }).work.core 0).cycle ∧
      ((mk tg fun k => { k with mgn := { k.mgn with quar := true } }).work.core 0).mgn.quar = true := by
  decide +kernel

/-- A team being saved, whose groups have stopped; its owner's save area is 1 MB from 0x100000. -/
def savedRec : Launch := { fetchLaunch with record := plainRec }

/-- What a save allocates. -/
def block (w : Work) (y : Team) : Option Nat × Work :=
  w.saveBlock 0 (imageSize plainRec + recStride * (w.teamGroups y).length)

def saving (t : Team) (stage : Nat) (s : State) : State :=
  { s with
    launches := [(1, savedRec)], teams := [(teamKey 1 0, t)]
    mem := [(10, 0x10), (16, 1)]
    preempt := { owner := 0, t0 := 0, stage, grace := false, result := 0 } }

theorem test_wit_TeamImages_save :
    let y := { fetchTeam with saving := true }
    let hg := { tg with stopped := true }
    let w := (mk tg id (saving fetchTeam 2)).work
    let v := (mk hg id (saving y 2)).work
    let a := { y with asked := true }
    w.team 1 0 = some fetchTeam ∧ w.launch? 1 = some savedRec ∧ fetchTeam.saving = false ∧
      w.mustSave fetchTeam = true ∧ v.team 1 0 = some y ∧ y.saving = true ∧ y.asked = false ∧
      (v.haltSweeps y).saveReady y = true ∧ (block (v.haltSweeps y) y).1 = some 0x100000 ∧
      0 ∈ y.cores ∧ (v.core 0).mgn.quar = false ∧ (v.core 0).evq.length < 64 ∧
      (∃ m ∈ v.teamGroups y, m.2.1 = 0) ∧
      ((mk hg id (saving a 2)).work.haltSweeps a).saveReady a = true := by decide +kernel

/-- A saved team that has no group left, to be restored. -/
def gone : Team :=
  { fetchTeam with
    resident := false, waitingRestore := true, image := 0x100000, savedEngine := List.replicate 0x800 0 }

def restoring : State :=
  mk tg (fun k => { k with good := true, groups := [(0, Group.supervisor)] }) (saving gone 3)

def room : Nat × Nat × List (Nat × List Nat × Nat × Nat × Nat) :=
  (restoring.work.firstHome plainRec gone.savedHandlers).getD (9, 0, [])

def allot : Work × Option (List Byte) :=
  restoring.work.saveGet 0 0 gone.image (engineAt plainRec + 0x800)

theorem test_wit_TeamImages_restore :
    restoring.work.team 1 0 = some gone ∧ restoring.work.launch? 1 = some savedRec ∧
      restoring.work.wantsRestore gone = true ∧ (∀ p ∈ restoring.teams, ¬p.2.lin < 0) ∧
      (restoring.work.firstHome plainRec gone.savedHandlers).isSome = true ∧ room.1 = 0 ∧
      allot.2.isSome = true ∧
      gone.loaded = false ∧ allot.1.readRecords 0 0 gone.recs = (allot.1, some []) ∧
      ((allot.1.supEvent 0 7 0 0 0 (natWord gone.image)).restoreOn gone savedRec 0 room.2
        (allot.2.getD []) []).isSome = true ∧
      (mk { tg with stopped := true }).work.members { fetchTeam with loaded := true }
        (fun g => !g.stopped || decide (g.kind = .handlerCore)) = [] ∧
      (tkeys restoring.teams).Nodup ∧
      (∀ p ∈ restoring.teams, p.1 = teamKey p.2.launch p.2.lin) := by
  refine ⟨rfl, rfl, ?_, ?_, ?_, ?_, ?_, rfl, rfl, ?_, ?_, ?_, ?_⟩ <;> decide +kernel

theorem test_wit_Preemption :
    let s := fun stage tempo => mk tg id fun s => { saving fetchTeam stage s with tempo }
    Path.host ≠ .supervisor ∧ (s 0 0).preempt.stage = 0 ∧ (0x400 : Word).getLsbD 10 = true ∧
      (0x800 : Word).getLsbD 11 = true ∧ (mk tg id (saving gone 0)).teams = [(teamKey 1 0, gone)] ∧
      (mk tg id (saving gone 0)).work.ownerOf gone = field 0x800 9 0 ∧ gone.resident = false ∧
      (s 1 (2 ^ 40)).preempt.stage = 1 ∧
      (s 1 (2 ^ 40)).work.deadline (field (s 1 0).pretime 15 0) ≤ 2 ^ 40 ∧
      ((s 1 (2 ^ 40)).teams.any fun t => t.2.resident &&
        decide ((((s 1 (2 ^ 40)).work.launch? t.2.launch).map (·.owner)) =
          some (s 1 (2 ^ 40)).preempt.owner)) = true ∧
      (s 2 (2 ^ 40)).work.deadline (field (s 2 0).pretime 15 0 + field (s 2 0).pretime 31 16) ≤ 2 ^ 40 ∧
      (s 2 (2 ^ 40)).work.deadline (field (s 2 0).pretime 47 32) ≤ 2 ^ 40 := by decide +kernel

/-! ### Power -/

/-- Cluster 0 has just issued. -/
def busy (s : State) : State :=
  { s with clusters := [(0, { Cluster.init with lastUser := some 0 })] }

theorem test_wit_PowerParking :
    let w := (mk tg id fun s => { s with
      clusters := [(0, { Cluster.init with pacnt := 3, pathr := 4 })] }).work
    let h := { tg with powered := some 0 }
    let v := (mk h fun k => { k with cycle := 8192 }).work
    (w.cluster 0).pacnt < (w.cluster 0).pathr ∧ 0 ∈ w.paDue 0 ∧
      (parkOrder (w.core 0).rb).find? (fun j =>
        ((tfind j (w.core 0).groups).map Group.canPowerPark).getD false) = some 1 ∧
      w.grp 0 1 = some tg ∧ (v.cluster 0).pathr + (v.cluster 0).pahys ≤ (v.cluster 0).pacnt ∧
      v.grp 0 1 = some h ∧ h.powered = some 0 ∧
      (∀ p ∈ (v.core 0).groups, p.2.powered = some 0 ∨ p.2.powered = none) ∧
      (v.core 0).rotAt + 8192 ≤ (v.core 0).cycle ∧ (w.core 0).parkedSlots = [] ∧
      0 ∈ v.paDue 0 ∧
      (mk h id busy).work.idle 0 = false := by
  decide +kernel

theorem test_wit_ClocksAndRatios :
    let c := fun k : Cluster => (mk tg id fun s => { s with clusters := [(0, k)] }).work
    let a := { Cluster.init with target := some 2 }
    let d := { Die.init with slewq := [(0, 0)], slewN := 2, slewWin := 1 }
    let g := { tg with wait := Wait.tempow 0 }
    Path.supervisor ≠ .host ∧ (2 : Word).toNat % 4 ≠ 3 ∧ ((c Cluster.init).cluster 0).target = none ∧
      (2 : Word).toNat % 4 ≠ ((c Cluster.init).cluster 0).ratio ∧
      ((c a).cluster 0).target = some 2 ∧ (0 : Word).toNat % 4 ≠ 2 ∧ ((c a).cluster 0).rampEnd ≤ 0 ∧
      ((c a).cluster 0).pendReq = none ∧ (({ a with pendReq := some 0 } : Cluster).pendReq = some 0) ∧
      st.tempo % 48 = 0 ∧ (st.work.cluster 0).target = none ∧ (st.work.core 0).mgn.pendW = [] ∧
      ((mk tg fun k => { k with mgn := { k.mgn with pendW := [(2, 5)] } }).work.core 0).mgn.pendW =
        [(2, 5)] ∧
      d.slewq = (0, 0) :: [] ∧ d.slewWin ≠ st.tempo / 256 ∧ 0 ∈ coresOf 0 ∧
      (tfind 0 st.cores).isSome = true ∧ (mk g).work.grp 0 1 = some g ∧ g.wait = .tempow 0 ∧
      hasEdge (st.work.core 0).edges 3 = true ∧ (mk g id fun s => { s with tempo := 3 }).tempo = 3 ∧
      (mk g id busy).work.idle 0 = false ∧ Cluster.init.crSup ≠ some st.tempo ∧
      Cluster.init.crPort = none ∧
      ({ Cluster.init with crSup := some 0 } : Cluster).crSup = some st.tempo ∧
      ({ Cluster.init with crPort := some (0, none, 0, none) } : Cluster).crPort =
        some (st.tempo, none, 0, none) := by decide +kernel

/-! ### The package -/

def booted (n : Nat) : State := { State.reset with bootwhy := 1#64 <<< n }

theorem test_wit_ResetsAndErrors :
    let s := State.reset
    Path.host ≠ .management ∧ (booted 10).phase = .inReset ∧ s.obs.frozen = false ∧
      (booted 10).bootwhy.getLsbD 10 = true ∧ s.bootwhy.getLsbD 10 = false ∧
      s.bootwhy.getLsbD 11 = false ∧ Manifest.lmsFailed ≠ .good ∧ [0] ≠ ([] : List Nat) ∧
      ({ s with phase := .booting, tempo := 2 ^ 32 } : State).bootAt + 2 ^ 32 ≤ 2 ^ 32 ∧
      s.fwready = false ∧ s.obs.freezeDue = false ∧ 7 < 8 ∧ 15 < 16 ∧ 110 < 111 := by
  decide +kernel

/-- A machine in a session, interface 63 running for owner 0, whose key is retiring. -/
def secure (s : State) : State :=
  { s with
    tdis := [(63, { Tdi.init with sess := true, tst := 2 })], sesslife := 0, retiring := [(0, [])] }

theorem test_wit_SecureInterfaces :
    let s := secure st
    s.bootwhy.getLsbD 10 = false ∧ (s.work.tdi 63).sess = true ∧ (s.work.tdi 63).tst = 2 ∧
      s.work.session = true ∧ s.sessAt + s.sesslife.toNat ≤ s.tempo ∧ 63 < 64 ∧ 1023 < 1024 ∧
      (s.work.keyEnt 0).valid = true ∧ tfind 0 s.retiring = some [] ∧ s.work.drained 0 [] = true := by
  decide +kernel

/-- Host memory writes by interface 63; a peer's accesses of 64 KB from 0x10000, exported to all. -/
def exporting (s : State) : State :=
  { secure s with
    fabexp := [(0, 0x10000 + 3 * 2 ^ 52), (1, 1 + 2 ^ 52)]
    fabshr := [(0, 0x10000 + 2 ^ 52), (1, 1)] }

/-- The last word that the range exports, and the first that it does not. -/
theorem test_wit_InboundRequests :
    let w := (exporting st).work
    w.allNear 0x1FFFC 4 = true ∧ cellsFrom 0x1FFFC [1, 2, 3, 4] ≠ [] ∧
      (w.tdi 63).tst = 2 ∧ (w.keyEnt (w.tdi 63).own).valid = true ∧ 15 < 16 ∧
      w.exportOwner 5 0x1FFFC 4 true = some 0 ∧ w.exportOwner 5 0x1FFFC 4 false = some 0 ∧
      peerAtomOk 8 true 0x1FFFC 4 = true ∧ peerAtomOk 9 false 0x1FFFE 2 = true ∧
      w.exportOwner 5 0x20000 4 true = none ∧ w.allNear 0x20000 4 = true := by decide +kernel

/-- What came in for a line stands first at its home slice. -/
def inbound (x : InReq) (s : State) : State :=
  { s with
    dies := [(0, { Die.init with
      slices := [(0, { Slice.init with inq := [{ pkt ordReq with msg := .inb 512 x }] })] })] }

/-- A write, and an atomic, of the last word of the line; the line shared out, and not. -/
theorem test_wit_InboundWrites :
    let x := cellsFrom 0x1007C [1, 2, 3, 4]
    let y : HeldWrite := { key := 0, atom := none, cells := x }
    let z : HeldWrite := { key := 0, atom := some (0, true, 0), cells := x }
    let w := (mk tg id (inbound (.write y))).work
    (w.home? (128 * 512)).isSome = true ∧
      (w.slice 0 0).inq = { pkt ordReq with msg := .inb 512 (.write y) } :: [] ∧
      (w.slice 0 0).busy ≤ w.tempo / 2 ∧ (w.slice 0 0).held = [] ∧ y.atom = none ∧
      z.atom = some (0, true, 0) ∧ x ≠ [] ∧ w.sharedOut.contains 512 = false ∧
      ({ w with sharedOut := [512] } : Work).sharedOut.contains 512 = true ∧ w.keyed = [] := by
  decide +kernel

theorem test_no_updates_held (x : InReq) : ∀ d u, ((mk tg id (inbound x)).work.unit d u).held = [] := by
  intro d u
  show ((tfind u ((if 0 = d then some _ else none).getD Die.init).units).getD Unit.init).held = []
  split <;> rfl

theorem test_wit_Directory :
    let w := (exporting st).work
    let on := fun x => (mk tg id (inbound x)).work
    15 < 16 ∧ w.sharedRange 0x1FF80 = true ∧ (List.replicate 128 (7 : Byte)).length = 128 ∧
      [InReq.get, .recall, .put (List.replicate 128 7)].all (fun x =>
        ((on x).home? (128 * 512)).isSome &&
        (on x).slice 0 0 == { Slice.init with inq := [{ pkt ordReq with msg := .inb 512 x }] } &&
        decide ((Slice.init).busy ≤ (on x).tempo / 2)) = true := by decide +kernel

/-- Requests at the gates of the host and of CXL port 7. -/
theorem test_wit_OutsideMemory (kind : ReqKind) :
    let r := req 512 9 kind
    let w := (mk tg id fun s => { s with io := [(0, [r]), (8, [r])] }).work
    tget [] 0 w.io = r :: [] ∧ tget [] (1 + 7) w.io = r :: [] ∧ r.more = false ∧ 7 < 24 ∧ 7 < 8 ∧
      1 ≠ 2 :=
  ⟨rfl, rfl, rfl, by decide, by decide, by decide⟩

/-- A replay with one entry in the ring, 1 MB from 0x100000, that is due. -/
def replaying (e : SheetEnt) : State :=
  let raw := e.image (List.replicate e.bytes 0)
  { State.reset with
    phase := .ready
    mem := (cellsFrom 0x100000 raw).filter fun c => decide (c.2 ≠ 0)
    obs := { Obs.reset with
      repctl := 1, scsbase := 0x100000, scssize := 1, sheet := [(raw, e)], scstail := e.bytes } }

theorem test_wit_ReplayAndReadback :
    let t : SheetEnt := { stamp := 0, ev := some (.thermalSample 95 110), check := none }
    let m : SheetEnt := { t with ev := none, last := true }
    let o : SheetEnt := { t with ev := none }
    let raw := fun e : SheetEnt => e.image (List.replicate e.bytes 0)
    State.reset.phase = .inReset ∧ (replaying m).work.dueEntry = some (raw m, m) ∧
      (replaying o).work.dueEntry = some (raw o, o) ∧ (replaying t).work.dueEntry = some (raw t, t) ∧
      (replaying t).work.repMode = 1 ∧ (raw t).length ≤ (replaying t).obs.ring ∧
      (replaying t).obs.viral = false ∧ State.reset.everLaunched = false ∧ 15 < 16 ∧
      ({ replaying t with upsetMem := [0x2000] } : State).work.areaUpset 0x100000 (raw t).length =
        true ∧
      field 2 1 0 = 2 ∧ field 1 1 0 = 1 ∧ (0x10 : Word).getLsbD 4 = true ∧
      (let k : KeyEnt := { valid := true, dbg := true, key1 := 0, key2 := 0 }
       let s : State := { State.reset with
         keys := [(0, k)], keyed := [(0x10000 / 32, k.pair)], obs := { Obs.reset with frozen := true } }
       s.obs.frozen = true ∧ State.reset.obs.frozen = false ∧
         s.keys.any (fun p => p.2.valid && p.2.dbg &&
           decide (tfind (0x10007 / 8 * 8 / 32) s.work.dram.keyed = some p.2.pair)) = true ∧
         ({ s with keys := [] } : State).work.dram.keyed = [(0x10000 / 32, k.pair)]) := by
  decide +kernel

/-- R382: a far read completion, with its data and with a check value in its stead. -/
theorem test_wit_SheetEntries :
    let e : SheetEnt :=
      { stamp := 1, ev := some (.cxlCompletion 7 (List.replicate 128 1) false), check := none }
    let k : SheetEnt := { stamp := 1, ev := some (.takeback 959 1 0 true), check := none }
    e.port < 256 ∧ e.plen < 2 ^ 16 ∧ e.tag < 2 ^ 32 ∧ e.check = none ∧
      ({ e with check := some 9 } : SheetEnt).check = some 9 ∧ k.tag = 959 ∧
      ({ k with ev := none } : SheetEnt).ev = none := by decide +kernel

theorem test_wit_RegisterWindow :
    Path.host ≠ .supervisor ∧ Path.supervisor ≠ .host ∧ State.reset.fwready = false ∧ 15 < 16 ∧
      95 < Config.clusters ∧ (walking { State.reset with tlbBusy := true }).tlbBusy = true ∧
      ∀ d ∈ (walking State.reset).dies, ∀ x ∈ d.2.walks, x.cancelled = false := by decide +kernel

/-- A packet that waits at port 0 for slice 0, one for a core, and one for another die; one stuck. -/
def net (p : Packet) (s : State) : State := { s with dies := [(0, { Die.init with net := [p] })] }

theorem test_wit_Network :
    let a := { pkt ordReq with dport := 12 }
    let b := { pkt ordReq with msg := .am 0 (am true) }
    let c := { pkt ordReq with ddie := 1, dport := 12 }
    let e := { a with cls := 1, esc := false }
    let on := fun p => (mk tg id (net p)).work
    ((on a).die 0).winner 12 ((on a).offers 0 12) = some (0, a) ∧
      ((on b).die 0).winner 0 ((on b).offers 0 0) = some (0, b) ∧
      ((on c).die 0).winner 36 ((on c).offers 0 36) = some (0, c) ∧
      (on a).tempo / 2 ≥ tget 0 12 ((on a).die 0).outBusy ∧
      ((on { e with stuck := 64 }).die 0).net[0]? = some { e with stuck := 64 } ∧ e.esc = false := by
  decide +kernel

theorem test_wit_Signatures :
    let x : SigIn := { src := 3, bits := 1, scope := 1, token := 5 }
    let s := mk (rg 3) fun k => { k with inbox := { k.inbox with sigs := [x], sigAcks := [0] } }
    (s.work.core 0).inbox.sigs = x :: [] ∧ x.scope < 2 ∧ (s.work.core 0).inbox.sigAcks = 0 :: [] ∧
      s.work.grp 0 1 = some (rg 3) ∧ ∃ r, (rg 3).rel = some r ∧ r.phase = 2 ∧ r.token = 0 :=
  ⟨rfl, by decide, rfl, rfl, _, rfl, rfl, rfl⟩

/-! ### Encodings, turns, traps -/

theorem test_wit_DecodeEncode :
    (Instr.vfdivF64 3 62 62 62 : Instr).wellFormed = true := by decide +kernel

/-- Words of two parcels and of no row; registers that a small group has not. -/
theorem test_wit_IllegalInstructions :
    0x28 ≤ ((0x1FF : BitVec 32).extractLsb' 3 6).toNat ∧ (2 : BitVec 16).getLsbD 0 = false ∧
      encode (.br 0 15 0) = .word (wBr 0 15 0) ∧ (Instr.br 0 15 0).codesDefined = false ∧
      ({ tg with nv := 4 } : Group).hasV 4 = false ∧ 9 ≤ (9 : BitVec 6).toNat ∧
      tg.inHandler = false ∧ 64 < (63 : BitVec 6).toNat + 2 ∧ tg.kind ≠ .supervisor ∧
      tg.kind ≠ .run ∧ st.cur = (0, 1) ∧ st.work.grp 0 1 = some tg ∧
      st.work.flagsPending 0 1 = false := by decide +kernel

/-- The step of a loaded word: an SADD; an odd PC; a word of no row. -/
theorem test_wit_StepRuns :
    let s := State.reset.withFetchWord 32 0x00000001
    let o := { s with cores := [(0, { fetchCore with groups := [(1, { fetchGroup with pc := 0x10001 })] })] }
    s.plan = .issue 0 1 :: [] ∧ s.agenda = [] ∧ (timedTurn { s with agenda := [] }).isNone = true ∧
      ({ s with agenda := [.pass] } : State).agenda = .pass :: [] ∧
      s.work.canIssue 0 1 = true ∧ s.work.grp 0 1 = some fetchGroup ∧
      fetchGroup.raise = none ∧ fetchGroup.pc.getLsbD 0 = false ∧
      (s.work.translate 0 0 0x10000 []).1 = .page fetchPage ∧
      s.work.permits fetchGroup fetchPage .fetch = true ∧ 0x10000 % 65536 ≤ 65532 ∧
      (s.work.place 0x10000).isNear = true ∧ (s.work.place 0x10002).isNear = true ∧
      s.work.lineUpset (0x10000 / 128) = false ∧ s.work.lineUpset (0x10002 / 128) = false ∧
      (s.work.core 0).ifetch = [] ∧ (∀ d ∈ s.dies, d.2.units = []) ∧
      decodeBytes [s.work.readByte 0 0x10000, s.work.readByte 0 0x10001, s.work.readByte 0 0x10002,
        s.work.readByte 0 0x10003] = .ok (.trap 0 0, []) ∧
      o.work.canIssue 0 1 = true ∧ (fetchGroup.pc + 1).getLsbD 0 = true := by decide +kernel

theorem test_wit_MemoryInvariant :
    State.reset.Inv ∧ step { State.reset with agenda := [] } = .next { State.reset with agenda := [] } :=
  ⟨rfl, rfl⟩

/-- Traps of a user group with and without an entry and in its handler, of a handler group of a core,
of the supervisor and of a sweep routine. -/
theorem test_wit_TrapEntry :
    (mk tg id (withTeam { fetchTeam with tent := 0x400 })).work.tent tg ≠ 0 ∧
      st.work.grp 0 1 = some tg ∧ 255 < 256 ∧ tg.kind ≠ .run ∧ tg.inHandler = false ∧
      st.work.tent tg = 0 ∧ Member st tg fetchTeam ∧
      (mk tg twoGroups).work.grp 0 2 = some wg ∧
      (0, 2) ∈ (mk tg twoGroups).work.members fetchTeam (fun _ => true) ∧ wg.stopped = false ∧
      wg.haltAt = none ∧ wg.haltDue = none ∧ hg.inHandler = true ∧
      (mk hg).work.team hg.launch hg.lin = some fetchTeam ∧
      (mk { tg with kind := .handlerCore }).work.grp 0 1 = some { tg with kind := .handlerCore } ∧
      sg.kind = .supervisor ∧ sg.inHandler = false ∧ (mkS sg).work.grp 0 0 = some sg ∧
      0 < Config.cores ∧ (qg ctx).kind = .run ∧ (qg ctx).run = some ctx :=
  ⟨by decide +kernel, rfl, by decide, by decide, rfl, by decide +kernel, test_member, rfl,
    by decide +kernel, rfl, rfl, rfl, rfl, by decide +kernel, rfl, rfl, rfl, rfl, by decide, rfl, rfl⟩

/-- A scalar that awaits a result, one in flight, poisoned ones, and a deferred vector register. -/
theorem test_wit_OperandRules :
    let p : Pending := { kind := .scalar, reg := 5, bank := false, lanes := allLanes, op := 1 }
    let f : Flight :=
      { kind := .scalar, reg := 6, bank := false, lanes := allLanes, left := 1, val := 0, vec := [] }
    let g := { tg with pend := [p], flights := [f], chk := true }
    let q := { tg with poison := [(scalKey false 4, 9), (64 * 4 + 1, 8)] }
    let d := { tg with deferred := [{ reg := 4, wide := false, lanes := 1, seq := 0, refused := false }] }
    (mk g).work.flagsPending 0 1 = false ∧ (g.pendOn (useS 5)).isSome = true ∧
      g.flightOn (useS 6) = true ∧ g.flightOn (useS 4) = false ∧ g.pendOn (useS 4) = none ∧
      tfind (scalKey (q.banked .scalar 4) 4) q.poison = some 9 ∧
      (∀ k < 64, bit 2 k = (bit q.exec k && (tfind (64 * 4 + k) q.poison).isSome)) ∧
      bit 2 1 = true ∧ (∀ k < 1, bit 2 k = false) ∧ tfind (64 * 4 + 1) q.poison = some 8 ∧
      (d.deferred.any fun x => decide (x.reg = 4)) = true ∧ d.deferOn (useV d 5) = false ∧
      d.hasV 4 = true := by decide +kernel

/-- Reset, an event that waits for the machine to run, one discarded in replay, and an edge. -/
theorem test_wit_MachineTurns :
    let e : Instr := .thermalSample 0 20
    let h : Instr := .hostMemoryWrite 0 0 []
    let r := { st with agenda := [.act h], obs := { st.obs with repctl := 1 } }
    State.reset.agenda = [] ∧ State.reset.work.running = false ∧ observes e = false ∧
      State.reset.work.unclocked e = false ∧ State.reset.phase = .inReset ∧
      r.agenda = .act h :: [] ∧
      r.work.running = true ∧ r.work.repMode = 1 ∧
      observes (.hostMemoryWrite 0 0 []) = false ∧
      (arrivalPort (.hostMemoryWrite 0 0 [])).isSome = true ∧
      arrivalPort (.hostMemoryWrite 0 0 []) ≠ some 27 ∧ (tkeys st.cores).Nodup ∧
      st.work.running = true ∧ st.work.stopDue = false ∧
      st.obs.freezeDue = false ∧ st.work.starved = false ∧
      tfind 0 st.cores = some { fetchCore with groups := [(0, Group.supervisor), (1, tg)] } := by
  decide +kernel

/-- A frozen machine; one that runs, with an open gate, with a closed one, and with one that has
admitted a later arrival; one with nothing left to do at its edge. -/
theorem test_wit_MachineTurns_gates :
    let e : Instr := .thermalSample 0 20
    let f := { st with obs := { st.obs with frozen := true } }
    let o := { st with agenda := [.act e], obs := { st.obs with edgeNew := true } }
    let q := { State.reset with phase := .ready, fwready := true, sessAt := 0, plan := [.edge] }
    f.work.running = false ∧ f.work.unclocked e = false ∧ arrivalPort e = some 26 ∧ (26 : Nat) ≠ 27 ∧
      f.phase = .ready ∧ f.work.repMode ≠ 1 ∧ st.work.repMode ≠ 1 ∧ caughtCore e = none ∧
      st.work.running = true ∧ o.agenda = .act e :: [] ∧ o.obs.edgeNew = true ∧
      st.obs.edgeNew = false ∧ st.obs.gates = [] ∧ st.work.recording = false ∧
      st.obs.admitted = none ∧ gatePlace e 26 ≤ gatePlace e 26 ∧
      o.work.dueEntry = none ∧ o.plan = [] ∧
      q.agenda = [] ∧ q.plan = .edge :: [] ∧ (tkeys q.cores).Nodup ∧ q.work.running = true ∧
      (forcedTurn q).isNone = true ∧ q.work.stopDue = false ∧ q.obs.freezeDue = false ∧
      q.work.starved = false := by decide +kernel

/-- R62, log 32: an error appears in a row of SBUF of core 0, and in a line of near memory. -/
theorem test_upset :
    (match turn { st with agenda := [.upset 0 6 5] } with
      | .next t => (t.work.core 0).upsetRow 6 [4, 5] == some 5 && t.agenda.isEmpty
      | _ => false) = true ∧
    (match turn { st with agenda := [.upsetLine 7] } with
      | .next t => t.upsetMem.contains 7 && t.agenda.isEmpty
      | _ => false) = true := by decide +kernel

/-! ### Images whose segments hold what a part gives -/

/-- An image of a package whose core 5 holds a group; what a slot holds of it, under a stamp and a
format of each die. -/
def held5 : Image :=
  { pkg := { Pkg.reset with cores := [(5, { Core.init with groups := [(1, tg)] })] }, lines := [] }

def segHead (stamp : Nat → Nat) (fmt : Nat → Nat) (d : Nat) : Nat :=
  adjMagic + (Config.scanBytes d).toNat * 2 ^ 32 + stamp d % 2 ^ 64 * 2 ^ 64 + d * 2 ^ 128 +
    fmt d % 256 * 2 ^ 136 + (sha384 (scanBody d held5)).toNat * 2 ^ 256

def segment (stamp fmt : Nat → Nat) (d : Nat) : List Byte :=
  leBytes 128 (segHead stamp fmt d) ++ scanBody d held5

def imaged (stamp : Nat → Nat := fun _ => 9)
    (fmt : Nat → Nat := fun _ => Config.scanFormat.toNat) (mask : Option (List Nat) := some [5]) :
    State :=
  { State.reset with
    mem := (upto 8).flatMap fun d =>
      cellsFrom (State.reset.work.slotBase d 15) (segment stamp fmt d)
    obs := { Obs.reset with frozen := true, images := [held5], mask } }

theorem test_read_cells (a : Nat) (l : List Byte) (m : List Host.Cell) (i : Nat) :
    memRead (cellsFrom a l ++ m) (a + i) =
      if h : i < l.length then l[i] else memRead m (a + i) := by
  induction l generalizing a i with
  | nil => rfl
  | cons b l ih =>
    have e : cellsFrom a (b :: l) = (a, b) :: cellsFrom (a + 1) l := by
      simp [cellsFrom, Nat.add_comm, Nat.add_left_comm]
    rw [e]
    show (if a = a + i then some b else _).getD _ = _
    cases i with
    | zero => simp
    | succ i =>
      have := ih (a + 1) i
      rw [if_neg (by omega)]
      rw [show a + 1 + i = a + (i + 1) by omega] at this
      simpa [memRead, tget] using this

theorem test_read_before (a : Nat) (l : List Byte) (m : List Host.Cell) (k : Nat) (h : k < a ∨ a + l.length ≤ k) :
    memRead (cellsFrom a l ++ m) k = memRead m k := by
  induction l generalizing a with
  | nil => rfl
  | cons b l ih =>
    have e : cellsFrom a (b :: l) = (a, b) :: cellsFrom (a + 1) l := by
      simp [cellsFrom, Nat.add_comm, Nat.add_left_comm]
    rw [e]
    show (if a = k then some b else _).getD _ = _
    rw [List.length_cons] at h
    rw [if_neg (by omega)]
    exact ih (a + 1) (by omega)

theorem test_read_flat (ds : List Nat) (f : Nat → Nat) (g : Nat → List Byte) (d i : Nat)
    (hd : d ∈ ds) (hi : i < (g d).length)
    (hs : ∀ e ∈ ds, e ≠ d → f d + i < f e ∨ f e + (g e).length ≤ f d + i) :
    memRead (ds.flatMap fun d => cellsFrom (f d) (g d)) (f d + i) = (g d)[i] := by
  induction ds with
  | nil => simp at hd
  | cons e ds ih =>
    rw [List.flatMap_cons]
    by_cases h : e = d
    · subst h; rw [test_read_cells, dif_pos hi]
    · rw [test_read_before _ _ _ _ (hs e (by simp) h)]
      exact ih ((List.mem_cons.mp hd).resolve_left (Ne.symm h))
        fun x hx => hs x (List.mem_cons_of_mem _ hx)

theorem test_body_length (d : Nat) : (scanBody d held5).length = (Config.scanBytes d).toNat := by
  simp [scanBody, upto]

theorem test_segment_length (stamp fmt : Nat → Nat) (d : Nat) :
    (segment stamp fmt d).length = 128 + (Config.scanBytes d).toNat := by
  rw [segment, List.length_append, test_body_length]; simp [leBytes, upto]

theorem test_slot_base (stamp fmt : Nat → Nat) (mask : Option (List Nat)) (d : Nat) :
    (imaged stamp fmt mask).work.slotBase d 15 = State.reset.work.slotBase d 15 := rfl

theorem test_imaged_byte (stamp fmt : Nat → Nat) (mask : Option (List Nat)) (d i : Nat) (hd : d < 8)
    (hi : i < (segment stamp fmt d).length) :
    (imaged stamp fmt mask).work.byte ((imaged stamp fmt mask).work.slotBase d 15 + i) =
      (segment stamp fmt d)[i] := by
  have n := fun d => test_segment_length stamp fmt d
  have b := fun d => (Config.scanBytes d).isLt
  refine test_read_flat (upto 8) (fun d => State.reset.work.slotBase d 15) (segment stamp fmt) d i
    (by simpa [upto] using hd) hi fun e he h => ?_
  have he : e < 8 := by simpa [upto] using he
  have hi := n d ▸ hi
  have := n e; have := b d; have := b e
  have q : ∀ x : Nat, State.reset.work.slotBase x 15 =
      2 ^ 42 + x * 2 ^ 39 + State.reset.work.slotBase 0 15 - 2 ^ 42 := by
    intro x
    simp only [Work.slotBase]
    rw [show (3 * (96 - State.reset.work.ilv) * gib - 768 * 2 ^ 20) = 205353123840 from by decide +kernel]
    simp only [gib]; omega
  show State.reset.work.slotBase d 15 + i < State.reset.work.slotBase e 15 ∨
    State.reset.work.slotBase e 15 + _ ≤ State.reset.work.slotBase d 15 + i
  rw [q d, q e]
  generalize State.reset.work.slotBase 0 15 = k
  omega

/-- Bytes of the segment, read as a number. -/
theorem test_imaged_bytes (stamp fmt : Nat → Nat) (mask : Option (List Nat)) (d i n : Nat)
    (hd : d < 8) (hi : i + n ≤ (segment stamp fmt d).length) :
    (imaged stamp fmt mask).work.bytes ((imaged stamp fmt mask).work.slotBase d 15 + i) n =
      ((segment stamp fmt d).drop i).take n := by
  refine List.ext_getElem (by simp [Work.bytes, upto]; omega) fun j h1 h2 => ?_
  have hj : j < n := by simpa [Work.bytes, upto] using h1
  simp only [Work.bytes, upto, List.getElem_map, List.getElem_range, List.getElem_take,
    List.getElem_drop]
  rw [show j + ((imaged stamp fmt mask).work.slotBase d 15 + i) =
    (imaged stamp fmt mask).work.slotBase d 15 + (i + j) by omega]
  exact test_imaged_byte stamp fmt mask d (i + j) hd (by omega)

theorem test_leNat_leBytes (n v : Nat) : leNat (leBytes n v) = v % 256 ^ n := by
  induction n generalizing v with
  | zero => simp [leBytes, upto, leNat, Nat.mod_one]
  | succ n ih =>
    have : leBytes (n + 1) v = BitVec.ofNat 8 v :: leBytes n (v / 256) := by
      simp only [leBytes, upto, List.range_succ_eq_map, List.map_cons, List.map_map, Nat.pow_zero,
        Nat.div_one, Nat.zero_add]
      refine congrArg _ (List.map_congr_left fun x _ => ?_)
      simp only [Function.comp, Nat.div_div_eq_div_mul, Nat.pow_succ, Nat.mul_comm]; rfl
    rw [this, leNat, ih, BitVec.toNat_ofNat,
      show 256 ^ (n + 1) = 256 * 256 ^ n from Nat.pow_succ', Nat.mod_mul (x := v) (a := 256)]

theorem test_leBytes_part (m v i n : Nat) (h : i + n ≤ m) :
    ((leBytes m v).drop i).take n = leBytes n (v / 256 ^ i) := by
  refine List.ext_getElem (by simp [leBytes, upto]; omega) fun j h1 h2 => ?_
  simp only [leBytes, upto, List.getElem_map, List.getElem_range, List.getElem_take,
    List.getElem_drop, Nat.div_div_eq_div_mul, ← Nat.pow_add]
  rfl

/-- A field of a header. -/
theorem test_imaged_num (stamp fmt : Nat → Nat) (mask : Option (List Nat)) (d i n : Nat)
    (hd : d < 8) (hi : i + n ≤ 128) :
    (imaged stamp fmt mask).work.num ((imaged stamp fmt mask).work.slotBase d 15 + i) n =
      segHead stamp fmt d / 256 ^ i % 256 ^ n := by
  rw [Work.num, test_imaged_bytes _ _ _ _ _ _ hd (by rw [test_segment_length]; omega)]
  have l : (leBytes 128 (segHead stamp fmt d)).length = 128 := by simp [leBytes, upto]
  rw [segment, List.drop_append_of_le_length (by omega),
    List.take_append_of_le_length (by rw [List.length_drop]; omega), test_leBytes_part _ _ _ _ hi,
    test_leNat_leBytes]

/-- The fields of the header: none runs into the next. -/
theorem test_header_fields (v s d f c : Nat) (hv : v < 2 ^ 32) (hd : d < 8) (hs : s < 2 ^ 64)
    (hf : f < 2 ^ 8) (hc : c < 2 ^ 384) :
    let h := adjMagic + v * 2 ^ 32 + s * 2 ^ 64 + d * 2 ^ 128 + f * 2 ^ 136 + c * 2 ^ 256
    h / 256 ^ 0 % 256 ^ 4 = 0x41444A49 ∧ h / 256 ^ 4 % 256 ^ 4 = v ∧ h / 256 ^ 8 % 256 ^ 8 = s ∧
      h / 256 ^ 17 % 256 ^ 1 = f ∧ h / 256 ^ 32 % 256 ^ 48 = c := by
  simp only [adjMagic]
  refine ⟨?_, ?_, ?_, ?_, ?_⟩ <;> omega

set_option exponentiation.threshold 400 in
theorem test_slot_head (stamp fmt : Nat → Nat) (mask : Option (List Nat)) (d : Nat) (hd : d < 8) :
    let w := (imaged stamp fmt mask).work
    let head := fun n i => w.num (w.slotBase d 15 + i) n
    head 4 0 = 0x41444A49 ∧ head 4 4 = (Config.scanBytes d).toNat ∧ head 8 8 = stamp d % 2 ^ 64 ∧
      head 1 17 = fmt d % 256 ∧ head 48 32 = (sha384 (scanBody d held5)).toNat := by
  have n := fun i n h => test_imaged_num stamp fmt mask d i n hd h
  obtain ⟨h1, h2, h3, h4, h5⟩ := test_header_fields (Config.scanBytes d).toNat (stamp d % 2 ^ 64) d
    (fmt d % 256) (sha384 (scanBody d held5)).toNat (Config.scanBytes d).isLt hd
    (Nat.mod_lt _ (by decide)) (Nat.mod_lt _ (by decide)) (sha384 (scanBody d held5)).isLt
  exact ⟨(n 0 4 (by decide)).trans h1, (n 4 4 (by decide)).trans h2, (n 8 8 (by decide)).trans h3,
    (n 17 1 (by decide)).trans h4, (n 32 48 (by decide)).trans h5⟩

set_option exponentiation.threshold 400 in
theorem test_slot_body (stamp fmt : Nat → Nat) (mask : Option (List Nat)) (d : Nat) (hd : d < 8) :
    (imaged stamp fmt mask).work.slotBody d 15 = scanBody d held5 := by
  have v : (imaged stamp fmt mask).work.slotHeader d 15 / 2 ^ 32 % 2 ^ 32 =
      (Config.scanBytes d).toNat := by
    obtain ⟨-, h2, -, -, -⟩ := test_header_fields (Config.scanBytes d).toNat (stamp d % 2 ^ 64) d
      (fmt d % 256) (sha384 (scanBody d held5)).toNat (Config.scanBytes d).isLt hd
      (Nat.mod_lt _ (by decide)) (Nat.mod_lt _ (by decide)) (sha384 (scanBody d held5)).isLt
    have h := test_imaged_num stamp fmt mask d 0 128 hd (by decide)
    rw [Nat.add_zero] at h
    rw [Work.slotHeader, h]
    refine Eq.trans ?_ h2
    rw [Nat.pow_zero, Nat.div_one]
    show segHead stamp fmt d % 256 ^ 128 / 2 ^ 32 % 2 ^ 32 = segHead stamp fmt d / 2 ^ 32 % 2 ^ 32
    omega
  rw [Work.slotBody, v, test_imaged_bytes _ _ _ _ _ _ hd (by rw [test_segment_length])]
  have l : (leBytes 128 (segHead stamp fmt d)).length = 128 := by simp [leBytes, upto]
  rw [segment, List.drop_left' l, ← test_body_length, List.take_length]

theorem test_slot_upset (w : Work) (slot d : Nat) (hd : d < 8)
    (h : w.slotBase d slot / 128 ∈ w.upsetMem) : w.slotUpset slot = true := by
  refine List.any_eq_true.mpr ⟨d, by simpa [upto] using hd, ?_⟩
  generalize w.slotHeader d slot / 2 ^ 32 % 2 ^ 32 = n
  generalize w.slotBase d slot = a at h ⊢
  refine List.any_eq_true.mpr ⟨_, List.mem_append_left _ h, ?_⟩
  simp only [Bool.and_eq_true, decide_eq_true_eq]; omega

/-- Slots that LOAD refuses for their header, for the stamps, for the format and for a core, and one
that it restores; one with an error. -/
theorem test_wit_Adjournment :
    let bad := imaged (fun d => d)
    let old := imaged (fun _ => 9) fun _ => Config.scanFormat.toNat + 1
    let alien := imaged (mask := none)
    let s := imaged
    let t := { s with upsetMem := [s.work.slotBase 7 15 / 128] }
    let r := { s with phase := .ready, obs := { s.obs with frozen := false, arm := true } }
    let head := fun (x : State) d n i => x.work.num (x.work.slotBase d 15 + i) n
    let right := fun x : State => ∀ d < 8, ¬(head x d 4 0 ≠ 0x41444A49 ∨
      head x d 4 4 ≠ (Config.scanBytes d).toNat ∨
      head x d 48 32 ≠ (sha384 (x.work.slotBody d 15)).toNat)
    r.work.stopDue = true ∧ s.obs.frozen = true ∧ 15 < 16 ∧
      (∃ d < 8, head { s with mem := [] } d 4 0 ≠ 0x41444A49) ∧ (right bad ∧ right old ∧ right s) ∧
      head bad 1 8 8 ≠ head bad 0 8 8 ∧ head old 0 1 17 ≠ Config.scanFormat.toNat ∧
      (∀ d < 8, head old d 8 8 = head old 0 8 8) ∧ (∀ d < 8, head s d 8 8 = head s 0 8 8) ∧
      (∀ d < 8, head s d 1 17 = Config.scanFormat.toNat) ∧
      s.work.slotImage 15 = held5 ∧ alien.work.slotImage 15 = held5 ∧
      (∀ p ∈ held5.pkg.cores, p.1 ∈ s.obs.mask.getD []) ∧ s.work.slotUpset 15 = false ∧
      (∃ p ∈ held5.pkg.cores, p.2.holds = true ∧ p.1 ∉ alien.obs.mask.getD []) ∧
      t.work.slotUpset 15 = true ∧ t.obs.viral = false ∧ (tkeys held5.lines).Nodup := by
  have ok : ∀ stamp fmt mask, let x := imaged stamp fmt mask
      ∀ d < 8, ¬(x.work.num (x.work.slotBase d 15 + 0) 4 ≠ 0x41444A49 ∨
        x.work.num (x.work.slotBase d 15 + 4) 4 ≠ (Config.scanBytes d).toNat ∨
        x.work.num (x.work.slotBase d 15 + 32) 48 ≠ (sha384 (x.work.slotBody d 15)).toNat) := by
    intro stamp fmt mask x d hd
    obtain ⟨h1, h2, -, -, h5⟩ := test_slot_head stamp fmt mask d hd
    rw [test_slot_body stamp fmt mask d hd]
    simp only [x, not_or, not_not]
    exact ⟨h1, h2, h5⟩
  have img : ∀ mask, (imaged (mask := mask)).work.slotImage 15 = held5 := by
    intro mask
    have e : (upto 8).map (fun d => (imaged (mask := mask)).work.slotBody d 15) =
        (upto 8).map fun d => scanBody d held5 :=
      List.map_congr_left fun d hd => test_slot_body _ _ mask d (by simpa [upto] using hd)
    rw [Work.slotImage, e]
    show (match List.find? _ [held5] with | some x => x | none => _) = held5
    rw [List.find?_cons_of_pos (by simp)]
  have H := fun stamp fmt mask d hd => test_slot_head stamp fmt mask d hd
  have f8 := Config.scanFormat.isLt
  refine ⟨by decide +kernel, rfl, by decide, ⟨0, by decide, by decide +kernel⟩,
    ⟨ok _ _ _, ok _ _ _, ok _ _ _⟩, ?_, ?_, ?_, ?_, ?_, img _, img _, by decide, ?_, ?_, ?_, rfl, by decide⟩
  · exact fun h => absurd (((H _ _ _ 1 (by decide)).2.2.1.symm.trans h).trans
      (H _ _ _ 0 (by decide)).2.2.1) (by decide)
  · exact fun h => absurd ((H _ _ _ 0 (by decide)).2.2.2.1.symm.trans h) (by omega)
  · exact fun d hd => (H _ _ _ d hd).2.2.1.trans (H (fun _ => 9) _ _ 0 (by decide)).2.2.1.symm
  · exact fun d hd => (H _ _ _ d hd).2.2.1.trans (H (fun _ => 9) _ _ 0 (by decide)).2.2.1.symm
  · exact fun d hd => (H _ _ _ d hd).2.2.2.1.trans (Nat.mod_eq_of_lt f8)
  · exact List.any_eq_false.mpr fun d _ => Bool.false_ne_true
  · exact ⟨_, List.mem_singleton.mpr rfl, by decide, by decide⟩
  · exact test_slot_upset _ 15 7 (by decide) (List.mem_singleton.mpr rfl)

/-- One image scanned, and bodies that are of none. -/
theorem test_wit_SlotImages :
    let w := imaged.work
    let v : Work := { w with obs := { w.obs with images := [] } }
    w.obs.images = [held5] ∧
      (upto 8).map (fun d => scanBody d held5) = (upto 8).map (fun d => w.slotBody d 15) ∧
      ∀ x ∈ v.obs.images, (upto 8).map (fun d => scanBody d x) ≠ (upto 8).map fun d => v.slotBody d 15 :=
  ⟨rfl, List.map_congr_left fun d hd => (test_slot_body _ _ _ d (by simpa [upto] using hd)).symm,
    fun _ h => nomatch h⟩

/-! ## Further clauses -/

/-- Two registers at once; a trap behind which its group has nothing out. -/
def xcPair (k : Core) : Core :=
  let f : Flight :=
    { kind := .vector, reg := 6, bank := false, lanes := 1, left := 0, val := 0, vec := [(0, 9)] }
  let x : XcOp :=
    { slot := 1, flags := 1, counted := true, trap := none, gate := false, flights := []
      due := none, writes := [f, { f with reg := 7 }] }
  { k with
    xcs := [(1, x), (2, { x with slot := 2, counted := true }),
      (3, { x with trap := some (0x10, 1, 0x10000), writes := [], gate := true })] }

theorem test_wit_VariableLatency_landing :
    let trap := fun k : Core => { k with xcs := tdel 1 (xcPair k).xcs }
    (∃ x e f, tfind 1 ((mk tg xcPair).work.core 0).xcs = some x ∧ x.slot = 1 ∧ x.trap = none ∧
      x.writes = [e, f] ∧ e.kind = .vector ∧ f.kind = .vector ∧ e.reg ≠ f.reg) ∧
    (mk tg xcPair).work.grp 0 1 = some tg ∧ (mk tg trap).work.grp 0 1 = some tg ∧
    ∃ x, tfind 3 ((mk tg trap).work.core 0).xcs = some x ∧ x.trap = some (0x10, 1, 0x10000) ∧
      x.slot = 1 ∧
      ∀ y ∈ ((mk tg trap).work.core 0).xcs, y.1 < 3 → y.2.slot = 1 → y.2.counted = false :=
  ⟨⟨_, _, _, rfl, rfl, rfl, rfl, rfl, rfl, by decide⟩, rfl, rfl, _, rfl, rfl, rfl, by decide⟩

theorem stands_one : Stands (.fin false (2 ^ 23) (-23)) 1 := by
  show (1 : ℝ) = (if false then -1 else 1) * ((2 ^ 23 : ℕ) : ℝ) * (2 : ℝ) ^ (-23 : ℤ)
  norm_num [zpow_neg]

theorem stands_zero (neg : Bool) (e : Int) : Stands (.fin neg 0 e) 0 := by
  show (0 : ℝ) = _ * ((0 : ℕ) : ℝ) * _
  simp

theorem stands_two : Stands (F32.read 0x40000000) ((2 : ℝ) ^ (1 : ℤ)) := by
  show (2 : ℝ) ^ (1 : ℤ) = (if false then -1 else 1) * ((2 ^ 23 : ℕ) : ℝ) * (2 : ℝ) ^ (-22 : ℤ)
  norm_num [zpow_neg]

/-- A normal number, a zero, a subnormal one, an infinity and both kinds of NaN; what they are. -/
theorem test_wit_FloatValues :
    F32.read 0x3F800000 = .fin false (2 ^ 23) (-23) ∧ Stands (F32.read 0x3F800000) 1 ∧
      F32.read 0x80000000 = .fin true 0 (-149) ∧ Stands (F32.read 0x80000000) 0 ∧
      F32.read 1 = .fin false 1 (-149) ∧ F32.read 0xFF800000 = .inf true ∧
      F32.read 0x7F800001 = .nan true ∧ F32.read 0x7FC00000 = .nan false ∧
      (F32.read 0x7FC00000).isNan = true ∧ F32 ∈ [F64, F32, FH, FBF] ∧
      Improper (F32.read 0xFF800000) (F32.read 0x80000000) ∧
      Multiplies (F32.read 0x3F800000) (F32.read 0x80000000) (.fin true 0 (-172)) ∧
      Multiplies (F32.read 0x3F800000) (F32.read 0xFF800000) (.inf true) ∧
      (254 < 2 ^ 8 ∧ 2 ^ 23 - 1 < 2 ^ 23) ∧ Stands (F32.read 0x40000000) ((2 : ℝ) ^ (1 : ℤ)) ∧
      (0x3F800000 : Nat) < 2 * F32.signBit ∧ (-3000 : Int) ≤ (3000#32).toInt ∧
      3000 < (3001#32).toInt ∧ (-3001#32).toInt < -3000 :=
  ⟨by decide +kernel, by rw [show F32.read 0x3F800000 = .fin false (2 ^ 23) (-23) by decide +kernel]; exact stands_one,
    by decide +kernel,
    by rw [show F32.read 0x80000000 = .fin true 0 (-149) by decide +kernel]; exact stands_zero _ _,
    by decide +kernel, by decide +kernel, by decide +kernel, by decide +kernel, by decide +kernel,
    by simp, ⟨true, true, -149, .inl ⟨by decide +kernel, by decide +kernel⟩⟩,
    .inl ⟨false, 2 ^ 23, -23, true, 0, -149, by decide +kernel, by decide +kernel, by decide +kernel⟩,
    .inr (.inr ⟨true, false, 2 ^ 23, -23, by decide, .inr ⟨by decide +kernel, by decide +kernel⟩,
      by decide +kernel⟩), ⟨by decide, by decide⟩, stands_two, by decide +kernel, by decide, by decide, by decide⟩

/-- Ranks of an infinity, of a number and of both zeros, in their order. -/
theorem test_wit_FloatValues_ranks :
    let Rank := fun (v : Fp) (z : EReal) =>
      (v = .inf true ∧ z = ⊥) ∨ (v = .inf false ∧ z = ⊤) ∨ ∃ u : ℝ, Stands v u ∧ z = (u : EReal)
    Rank (F32.read 0xFF800000) ⊥ ∧ Rank (F32.read 0x80000000) ((0 : ℝ) : EReal) ∧
      Rank (F32.read 0) ((0 : ℝ) : EReal) ∧ (⊥ : EReal) < ((0 : ℝ) : EReal) :=
  ⟨.inl ⟨by decide +kernel, rfl⟩,
    .inr (.inr ⟨0, by rw [show F32.read 0x80000000 = .fin true 0 (-149) by decide +kernel]; exact stands_zero _ _, rfl⟩),
    .inr (.inr ⟨0, by rw [show F32.read 0 = .fin false 0 (-149) by decide +kernel]; exact stands_zero _ _, rfl⟩),
    EReal.bot_lt_coe 0⟩

/-- Traps disabled, every code at its end; a digit of 0 and of a number that is too large, and a NaN. -/
theorem test_wit_Conversions_more :
    Ready st 0 1 tg ∧ fmtEnables tg.format = 0 ∧ tg.hasPair 62 = true ∧ (1 : BitVec 6).toNat ≤ 1 ∧
      (3 : BitVec 6).toNat ≤ 3 ∧ (7 : Nat) < 8 ∧ Stands (F64.read 0) 0 ∧
      |(0 : ℝ)| < (2 : ℝ) ^ (0 : ℤ) ∧ (∃ e : ℤ, (2 : ℝ) ^ e ≤ |(1 : ℝ)| ∧ -(2 ^ 31) ≤ e ∧ e < 2 ^ 31) ∧
      (∀ y, ¬Stands (F64.read 0x7FF8000000000000) y) ∧ (5 : Nat) - 1 ≤ 4 ∧
      exactAt 1 (-1) 0 = false ∧ exactAt 2 (-1) 0 = true := by
  refine ⟨test_ready, by decide, rfl, by decide, by decide, by decide, ?_, by simp,
    ⟨0, by simp, by decide, by decide⟩, ?_, by decide, by decide, by decide⟩
  · rw [show F64.read 0 = .fin false 0 (-1074) by decide +kernel]; exact stands_zero _ _
  · rw [show F64.read 0x7FF8000000000000 = .nan false by decide +kernel]; exact fun _ => id

theorem test_wit_LaneMoves_more :
    Ready st 0 1 tg ∧ (2 : BitVec 6).toNat ≤ 2 ∧ tg.hasPair 62 = true ∧ tg.hasV 63 = true ∧
      (15 : BitVec 6).toNat < tg.width ∧ (7 : BitVec 6).toNat < 8 ∧ (5 : BitVec 3).toNat ≤ 5 :=
  ⟨test_ready, by decide, rfl, rfl, by decide, by decide, by decide⟩

/-- Sixty-four terms, one of them a signalling NaN. -/
theorem test_wit_Reductions_more :
    fmtEnables tg.format = 0 ∧ (List.replicate 64 (some 1#64)).length = 2 ^ 6 ∧
      (14 : BitVec 6).toNat ≠ 11 ∧ (∀ x, some x ∈ [some (0xFFFFFFFF : Word)] → x.toNat < 2 ^ 32) ∧
      (∃ v : Word, some v ∈ [none, some 0x7F800001] ∧ (F32.read v.toNat).isSig = true) ∧
      ∀ v : Word, some v ∈ [none, some (0x7FC00000 : Word)] → (F32.read v.toNat).isSig = false := by
  refine ⟨by decide, rfl, by decide, by simp, ⟨0x7F800001, by simp, by decide +kernel⟩, ?_⟩
  intro v hv
  have : v = 0x7FC00000 := by simpa using hv
  subst this; decide +kernel

/-- The supervisor's page at the register window. -/
def winPage : TlbEnt := { fetchPage with ppn := 2 ^ 33, sup := true }

def wnd (k : Core) : Core := { k with tlb := [(0, winPage)] }

theorem test_wit_Window :
    let s := mkS sg wnd
    Ready s 0 0 sg ∧ sg.lc < 63 ∧ sg.sc < 63 ∧
      (∃ u, s.work.resolve 0 0 sg .load (2 ^ 3) true
        (fun e pa => s.work.placeOk sg e pa (2 ^ 3) false true
          (decide (sg.kind = .supervisor) && decide (2 ^ 3 = 8)))
        [(0, scalarAddr sg 4 3 1)] = .ok u [(0, 2 ^ 49 + 8, 0)] ∧ u.place (2 ^ 49 + 8) = .window 8) ∧
      ∃ u, s.work.resolve 0 0 sg .store (2 ^ 3) true
        (fun e pa => s.work.placeOk sg e pa (2 ^ 3) false true
          (decide (sg.kind = .supervisor) && decide (2 ^ 3 = 8)))
        [(0, scalarAddr sg 4 3 1)] = .ok u [(0, 2 ^ 49 + 8, 0)] ∧ u.place (2 ^ 49 + 8) = .window 8 :=
  ⟨⟨rfl, rfl, ⟨rfl, rfl, rfl, rfl, rfl⟩⟩, by decide, by decide, ⟨_, rfl, by decide +kernel⟩,
    _, rfl, by decide +kernel⟩

/-- A lane whose page no TLB holds, one whose walk found none, one that may not write. -/
theorem test_wit_AccessChecks_more :
    let w := st.work
    let found := fun g l => (w.translateAll 0 g l).2
    let t := { tg with walked := [(0x90000 / 65536, 1)] }
    let ro := (mk tg fun k => { k with tlb := [(0, { fetchPage with w := false })] }).work
    ((found tg [(0, 0x10000), (1, 0x90000)]).filter fun q => decide (q.2.2 = .miss)) ≠ [] ∧
      ((found t [(0, 0x10000), (1, 0x90000)]).filter fun q => decide (q.2.2 = .miss)) = [] ∧
      ((found t [(0, 0x10000), (1, 0x90000)]).filter fun q => decide (q.2.2 = .pageFault)) =
        (1, 0x90000, .pageFault) :: [] ∧
      ((ro.translateAll 0 tg [(2, 0x10000)]).2.filter fun q =>
        match q.2.2 with
        | .page e => !ro.permits tg e .store
        | _ => true) = (2, 0x10000, .page { fetchPage with w := false }) :: [] ∧
      ((ro.translateAll 0 tg [(2, 0x10000)]).2.filter fun q => decide (q.2.2 = .miss)) = [] := by
  decide +kernel

/-- The group waits for the load that lands, alone and with another. -/
theorem test_wit_MemoryCompletions_more :
    let p : Pending := { kind := .vector, reg := 6, bank := false, lanes := 1, op := 1 }
    let g := { tg with wait := .load [1, 2], pend := [p] }
    let h := { g with pend := [p, { p with reg := 7, op := 2 }] }
    let k := (mk g memCore).work.core 0
    (∃ l, tfind 1 k.loads = some l ∧ l.left = 0 ∧ l.bad = 0 ∧ l.missed = true ∧
      l.at_ + 2 ≤ k.cycle ∧ l.slot = 1) ∧
    (mk g memCore).work.grp 0 1 = some g ∧ (∀ m j, g.wait ≠ .counters m j) ∧
      g.wait = .load [1, 2] ∧ (∀ q ∈ g.pend, q.op ∈ [1, 2] → q.op = 1) ∧
      (mk h memCore).work.grp 0 1 = some h ∧
      ∃ q ∈ h.pend, q.op ∈ [1, 2] ∧ q.op ≠ 1 :=
  ⟨⟨_, rfl, rfl, rfl, rfl, by decide, rfl⟩, rfl, fun _ _ => nofun, rfl, by decide, rfl,
    _, .tail _ (.head _), by decide, by decide⟩

/-- Two lanes at one word; an upset line; an access that waits beneath the slice. -/
theorem test_wit_HomeAccesses_more :
    let r := req 512 9 (.atomic 0 4 true [(0, 0x1007C, 1, 0), (1, 0x1007C, 2, 0)])
    let w := (mk tg id (homes r)).work
    w.lineUpset r.line = false ∧ w.upsetL2.contains r.line = false ∧ (4 : Nat) ∈ [1, 2, 4, 8] ∧
      r.kind = .atomic 0 4 true [(0, 0x1007C, 1, 0), (1, 0x1007C, 2, 0)] ∧ (0 : Nat) ≠ 1 ∧
      (w.unit 0 0).inbox = r :: [] ∧ (w.slice 0 0).held = [] ∧
      (∀ h, w.home? (128 * r.line) = some h → (w.slice h.die h.slice).parts = []) ∧
      ({ r with ms := true } : Req).ms = true := by
  refine ⟨by decide, by decide, by decide, rfl, by decide, rfl, rfl, ?_, rfl⟩
  intro h _
  show ((tfind h.slice ((if 0 = h.die then some _ else none).getD Die.init).slices).getD
    Slice.init).parts = []
  split
  · show ((if 0 = h.slice then some _ else none).getD Slice.init).parts = []
    split <;> rfl
  · rfl

/-- An access of each buffer, of each code that it has; the lanes lie at its last bytes. -/
def acc (store : Bool) (buf code addr : Nat) : TAccess :=
  { tbAcc store with buf, code, addr := [(0, addr)] }

theorem test_wit_TypedBuffers_codes :
    ([(0, 6, 4080), (1, 1, 4095), (3, 3, 16382), (3, 4, 0), (2, 0, 255), (2, 3, 0), (2, 4, 17)] :
        List (Nat × Nat × Nat)).all (fun z =>
      [true, false].all fun store =>
        let a := acc store z.1 z.2.1 z.2.2
        let s := mk tg fun k => { k with taccs := [(1, a)] }
        decide ((s.work.core 0).taccs.find? (fun y => decide (y.1 = 1)) = some (1, a)) &&
          decide (∀ y ∈ (s.work.core 0).taccs, y.2.slot = a.slot → 1 ≤ y.1) &&
          decide (s.work.grp 0 a.slot = some tg) && decide (a.buf ≤ 3) && decide (a.code ≤ 6) &&
          decide ((s.work.core a.core).upset = []) && bit a.lanes 0) = true ∧ tg.wait = .none ∧
      Ready (mk bg) 0 1 bg ∧ bufRegsOk bg 3 6 60 = true ∧ tldDefined 6 3 = true ∧
      tstDefined 6 3 = true ∧ (mk bg).work.space 0 bg 3 = some (0, 0, 16384) := by
  refine ⟨by decide +kernel, rfl, ready_mk _ _ _ rfl rfl rfl rfl rfl rfl rfl, by decide, by decide,
    by decide, by decide +kernel⟩

/-- Releases to the twin, of a user group at CLUSTER, DEVICE and SYSTEM, one whose flush is over, and
one that has a store to wait for. -/
theorem test_wit_ReleasePublishes :
    let twin := withTeam { fetchTeam with twin := true }
    let f := { tg with rel := some { scope := 3, stamp := 0, phase := 1, acks := 0, token := 0 } }
    Ready (mk tg id twin) 0 1 tg ∧ tg.kind ≠ .run ∧ tg.kind ≠ .supervisor ∧ tg.rel = none ∧
      (∃ y, (mk tg id twin).work.teamOf tg = some y ∧ y.twin = true) ∧
      (st.work.teamOf tg).isSome = true ∧ 0 < Config.cores ∧ (st.work.core 0).stores = [] ∧
      (st.work.core 0).loads = [] ∧ (4 : BitVec 3).toNat = 4 ∧
      Ready (mk f) 0 1 f ∧ (∃ r, f.rel = some r ∧ r.scope = 3 ∧ r.phase = 1) ∧
      (mk f).work.flushing f.launch = false ∧ Ready (mk tg oneStore) 0 1 tg ∧
      ∃ y, (3, y) ∈ ((mk tg oneStore).work.core 0).stores ∧
        3 < ((mk tg oneStore).work.core 0).opSeq :=
  ⟨ready_mk _ _ _ rfl rfl rfl rfl rfl rfl rfl, by decide, by decide, rfl,
    ⟨{ fetchTeam with twin := true }, by decide +kernel, rfl⟩, by decide +kernel, by decide, rfl, rfl,
    rfl, ready_mk _ _ _ rfl rfl rfl rfl rfl rfl rfl, ⟨_, rfl, rfl, rfl⟩, by decide +kernel,
    ready_mk _ _ _ rfl rfl rfl rfl rfl rfl rfl, ⟨_, .head _, by decide⟩⟩

/-- The timeout of the core cycle before; no wake has come. -/
theorem test_wit_MonitorResults_timeout :
    let s := mk tg fun k => { twoGroups k with cycle := 1 }
    tg.left = none ∧ s.work.grp 0 2 = some wg ∧
      wg.wait = .monitor 0x10000 0x10000 4 0 1 (some 0) 7 ∧ 0 < (s.work.core 0).cycle ∧
      (∀ z ∈ (s.work.core 0).inbox.wakes, ¬(z.slot = 2 ∧ z.op = 7)) ∧
      ∀ f ∈ wg.flights, f.kind ≠ .flags := by decide +kernel

theorem test_wit_Copies_order :
    let w := (mk cg).work
    Ready (mk cg) 0 1 cg ∧ (w.core 0).unitRank ≤ 1 ∧ (w.core 0).unitRank ≤ unitPlace 1 ∧
      cg.kind ≠ .handlerCore ∧ (cg.s 5).toNat = 1 ∧ (w.core 0).unitRank ≤ 3 :=
  ⟨ready_mk _ _ _ rfl rfl rfl rfl rfl rfl rfl, by decide, by decide, by decide, by decide, by decide⟩

/-- Records whose length is 0, whose row passes its allotment, whose row holds an error, whose count is
too small; one behind each; one that reads CBUF and one that writes the control area's buffer. -/
theorem test_wit_CopyEngine_errors :
    let rec_ := fun n : Nat => (BitVec.ofNat 256 n : CopyRec)
    let good := 2 * 2 ^ 52 + 2 ^ 108 + 16 * 2 ^ 112
    let next := rec_ (good + 2 ^ 224)
    let on := fun (r : CopyRec) (f : Core → Core) =>
      (mk tg fun k => f { k with copying := some { kick with recs := [r, next] } }).work
    let bad := { kick with recs := [rec_ (2 * 2 ^ 52 + 2 ^ 108), next] }
    let cells := rec_ (3 * 2 ^ 52 + 2 ^ 108 + 16 * 2 ^ 112)
    let control := rec_ (2 * 2 ^ 52 + 4 * 2 ^ 108 + 64 * 2 ^ 56 + 16 * 2 ^ 112)
    (on (rec_ good) id).kickHeld { kick with recs := [rec_ good, next] } = false ∧
      bad.recs = rec_ (2 * 2 ^ 52 + 2 ^ 108) :: [next] ∧ bad.fault = none ∧ bad.failed = 0 ∧
      bad.pend = [] ∧ bad.row = 0 ∧ crMalformed (rec_ (2 * 2 ^ 52 + 2 ^ 108)) false = true ∧
      crMalformed (rec_ good) false = false ∧ (srcSide (rec_ good)).kind = 2 ∧
      (srcSide (rec_ (good + 4096))).inAllot 0 16 4096 = none ∧
      (dstSide (rec_ (good + 4096 * 2 ^ 56))).inAllot 0 16 4096 = none ∧
      (srcSide (rec_ good)).inAllot 0 16 4096 = some 0 ∧
      (((on (rec_ good) fun k => { k with upset := [(5, 3)] }).core 0).upsetRow (4 + 1)
        ((List.range 16).map (0 + 0 + ·))).isSome = true ∧
      ((on (rec_ good) id).core 0).bufNum 3 (0 + crObj (rec_ good)) 8 % 2 ^ 40 < 16 ∧
      crObj (rec_ good) + 8 ≤ crObj next ∧ (dstSide (rec_ good)).kind ≠ 4 ∧
      crMalformed cells false = false ∧ (srcSide cells).kind = 3 ∧
      (srcSide cells).inAllot 0 16 256 = some 0 ∧ crMalformed control false = false ∧
      (dstSide control).kind = 4 ∧ (dstSide control).inAllot 0 16 16384 = some 64 ∧
      0 + crObj control + 8 ≤ 0 + 64 ∧
      ((mk tg fun k => { k with sbuf := [(0, 16)] }).work.core 0).bufNum 3 (0 + crObj control) 8 % 2 ^ 40 = 16 := by
  decide +kernel

/-- A row read from near memory, before and after its line has come; one written; an element added, and
one added in order. -/
theorem test_wit_CopyRequests :
    let src := (BitVec.ofNat 256 (0x10040 + 2 ^ 108 + 64 * 2 ^ 112) : CopyRec)
    let dst := (BitVec.ofNat 256 (2 * 2 ^ 52 + 0x10040 * 2 ^ 56 + 64 * 2 ^ 112) : CopyRec)
    let red := (BitVec.ofNat 256 (2 * 2 ^ 52 + 0x1007C * 2 ^ 56 + 4 * 2 ^ 112 + 2 ^ 240) : CopyRec)
    let ord := red ||| (1#256 <<< 244)
    let on := fun (r : CopyRec) (f : Core → Core) =>
      (mk tg fun k => f { k with copying := some { kick with recs := [r] } }).work
    let has := fun k : Core => { k with fills := [(7, efill 64 0 512 9)] }
    let eng := engineGroup false 0
    ((on src id).core 0).copying = some { kick with recs := [src] } ∧
      ((on src id).core 0).copyDelayed = false ∧
      [src, dst, red].all (fun r => !crMalformed r false && decide (crRows r = 1)) = true ∧
      crMalformed ord true = false ∧ crRows ord = 1 ∧ crOrd ord = true ∧ crOp ord = 1 ∧
      (srcSide src).kind = 0 ∧ (dstSide src).kind ∈ [1, 2, 4] ∧ crOp src = 0 ∧
      (∃ tl, tlbLook 0 (srcSide src).addr ((on src id).core 0).tlb = some (fetchPage, tl)) ∧
      (srcSide src).addr % 128 + 64 ≤ 128 ∧ (on src id).permits eng fetchPage .load = true ∧
      (on src id).permits eng fetchPage .store = true ∧ (on red id).permits eng fetchPage .atomic = true ∧
      ((on src id).place (fetchPage.phys 0x10040)).isNear = true ∧
      (on src id).kickSpace 0 { kick with recs := [src] } 0 = some (0, 0, 4096) ∧
      (dstSide src).inAllot 0 64 4096 = some 0 ∧
      ((on src id).core 0).engineLine 64 512 = none ∧
      (((on src has).core 0).engineLine 64 512).map Prod.fst = some 7 ∧
      (efill 64 0 512 9).data = some 9 ∧ (efill 64 0 512 9).bad = false ∧
      (dstSide dst).kind = 0 ∧ (srcSide dst).inAllot 0 64 4096 = some 0 ∧
      (on dst id).kickSpace 0 { kick with recs := [dst] } 1 = some (0, 0, 4096) ∧
      ((on dst id).core 0).upset = [] ∧ crOp red = 1 ∧ crLen red = etySize (crEty red) ∧
      (dstSide red).addr % 128 + 4 ≤ 128 := by
  have h : ∀ x : Option (TlbEnt × Tab TlbEnt), x.map Prod.fst = some fetchPage →
      ∃ tl, x = some (fetchPage, tl) := by
    intro x hx
    cases x with
    | none => cases hx
    | some y => exact ⟨y.2, by rw [← Option.some.inj hx]⟩
  refine ⟨rfl, by decide, by decide +kernel, by decide +kernel, by decide +kernel, by decide +kernel, by decide +kernel, by decide +kernel, by decide +kernel,
    by decide +kernel, h _ (by decide +kernel), ?_⟩
  decide +kernel

/-- A window replaced; ranges that do not fit; a number of another launch. -/
theorem test_wit_RetentionWindows_more :
    let w := (mk cg id windows).work
    let rtw := (w.die (Config.dieOf 0)).rtw
    let used := fun k : Nat => (tdel k rtw).foldl (fun q y => q + y.2.n) 0
    Ready (mk cg id windows) 0 1 cg ∧
      (∀ y, tfind 1 rtw = some y → y.launch = cg.launch) ∧ used 1 + 7 + 1 ≤ 12 ∧
      (∀ y, tfind 0 rtw = some y → y.launch = cg.launch) ∧ 12 < used 0 + 7 + 1 ∧
      ¬(∀ y, tfind 3 rtw = some y → y.launch = cg.launch) ∧
      (∃ y, tfind 1 rtw = some y ∧ y.launch = cg.launch) ∧
      (∀ y, tfind 0 rtw = some y → y.launch ≠ cg.launch) := by
  refine ⟨ready_mk _ _ _ rfl rfl rfl rfl rfl rfl rfl, ?_, by decide +kernel, ?_, by decide +kernel, ?_,
    ⟨_, rfl, rfl⟩, ?_⟩
  · intro y h; cases h; rfl
  · intro y h; cases h
  · intro h; exact absurd (h _ rfl) (by decide)
  · intro y h; cases h

/-- A set of two groups: its first member, its second with the same and with other parameters. -/
def sx : Group := { xg with iset := 3 }

theorem test_wit_SetIssue :
    let o := mmaOp (wMma 0 0 20 30) 1 sx 0 20 30 false false
    let first : MxOp := { o with num := 4 }
    let opened := fun (f : MxOp) (k : Core) =>
      { k with mx := { k.mx with open_ := [{ op := f, arrived := [1] }] } }
    let s := mk sx id
    let t := mk sx (opened first)
    Ready s 0 1 sx ∧ sx.kind = .user ∧ sx.mc < 63 ∧ 0 + spanRegs o.afmt o.k ≤ sx.nv ∧
      o.fieldsOk = true ∧ (s.work.core 0).mx.latchOf sx.launch sx.lin o.members = none ∧
      (s.work.core 0).mx.latchedFor sx.launch sx.lin sx.gidx = false ∧
      s.work.space 0 sx 2 = some (0, 0, 256) ∧ s.work.space 0 sx 0 = some (0, 0, 4096) ∧
      o.outOf 256 4096 = none ∧
      (s.work.core 0).mx.open_.find? (fun y => y.op.ofSet sx.launch sx.lin o.members) = none ∧
      (∃ i ∈ o.members, i ≠ sx.gidx ∧
        ∀ y, s.work.team sx.launch sx.lin = some y → has y.retired i = false ∨ 64 ≤ i) ∧
      Ready t 0 1 sx ∧ (t.work.core 0).mx.latchedFor sx.launch sx.lin sx.gidx = false ∧
      (∃ y, (t.work.core 0).mx.open_.find? (fun y => y.op.ofSet sx.launch sx.lin o.members) = some y ∧
        y.op.matches o = true ∧ y.op.va = 0 ∧ y.op.fmt = sx.format ∧ y.op.keep = false ∧
        ∀ i ∈ o.members, i = sx.gidx ∨ i ∈ y.arrived) ∧
      (t.work.core 0).mx.occupancy < 8 ∧ ({ first with k := 2 } : MxOp).matches o = false ∧
      (mk sx (opened { first with k := 2 })).work.flagsPending 0 1 = false := by
  refine ⟨ready_mk _ _ _ rfl rfl rfl rfl rfl rfl rfl, rfl, by decide, by decide +kernel, by decide +kernel,
    by decide +kernel, by decide +kernel, by decide +kernel, by decide +kernel, by decide +kernel, by decide +kernel,
    ⟨1, by decide +kernel, by decide, ?_⟩, ready_mk _ _ _ rfl rfl rfl rfl rfl rfl rfl, by decide +kernel,
    ⟨{ op := { mmaOp (wMma 0 0 20 30) 1 sx 0 20 30 false false with num := 4 }, arrived := [1] }, by decide +kernel⟩, by decide +kernel, by decide +kernel, by decide +kernel⟩
  intro y h
  have : y = fetchTeam := (Option.some.inj (h.symm.trans (show (mk sx).work.team sx.launch sx.lin = some fetchTeam by decide +kernel)))
  subst this; decide

/-- An operation whose next block is bad; floating and integer accumulation. -/
theorem test_wit_MatrixEngine_split :
    let o := { op with bad := some 5, badAt := 0 }
    let k := (mk xg (engine o true)).work.core 0
    k.mx.running = some o ∧ o.badAt ≤ o.done ∧ o.done < o.blocks ∧ k.leaderSlot o = some 1 ∧
      (mk xg (engine o true)).work.grp 0 1 = some xg ∧ o.n ≤ 256 ∧ o.m ≤ 1 ∧
      tfind 1 ({ k with mx := { k.mx with ended := [3] } }).groups = some xg ∧
      fmtACC op.fmt = false ∧ fmtACC (op.fmt ||| (1#32 <<< 18)) = true := by
  decide +kernel

/-- Products with a NaN, with both infinities, with one, and finite ones. -/
theorem test_wit_MatrixFloatBlocks :
    let any := fun (l : List Product) (p : Fp → Prop) => ∃ y ∈ l, p y.1
    any [(.nan false, 0)] (·.isNan = true) ∧ ¬any [(.inf true, 0), (.inf false, 0)] (·.isNan = true) ∧
      any [(.inf true, 0), (.inf false, 0)] (· = .inf true) ∧
      any [(.inf true, 0), (.inf false, 0)] (· = .inf false) ∧
      any [(.inf true, 0)] (· = .inf true) ∧ ¬any [(.inf true, 0)] (· = .inf false) ∧
      ¬any [(.fin true 0 0, 0)] (· = .inf true) ∧
      (∀ y ∈ [((false, 0, 0) : Bool × Nat × Int)], y.2.1 = 0) ∧
      (∃ u : Int, (∀ y ∈ [((false, 3, 0) : Bool × Nat × Int), (true, 5, 1)], y.2.1 ≠ 0 →
          (y.2.1.log2 : Int) + y.2.2 - 19 ≤ u) ∧
        ∃ y ∈ [((false, 3, 0) : Bool × Nat × Int), (true, 5, 1)], y.2.1 ≠ 0 ∧
          (y.2.1.log2 : Int) + y.2.2 - 19 = u) ∧
      Stands (.fin true 0 0) 0 := by
  refine ⟨⟨_, .head _, rfl⟩, by simp [Fp.isNan], ⟨_, .head _, rfl⟩, ⟨_, .tail _ (.head _), rfl⟩,
    ⟨_, .head _, rfl⟩, by simp, by simp, by simp, ⟨-16, by decide, ⟨(true, 5, 1), by simp, by decide, by decide⟩⟩, stands_zero _ _⟩

/-- No ordered wake flies; the engine is done at a closing segment; a fault of the engine. -/
theorem test_wit_SweepBoundaries_more :
    let p := phase .closing
    let e := phase .sweeping fun x => { x with efault := true }
    let y := { seg with phase := SegPhase.ending }
    let w := (sweep p).work
    (sweep (phase .opening)).work.ordFlying 1 0 ten.starts = false ∧
      w.engAble { seg with phase := .closing } = true ∧ w.engDone { seg with phase := .closing } = true ∧
      w.engAble y = true ∧ w.engDone y = true ∧ ({ p with final := true } : Tensor).lastOpen 0 = false ∧
      ({ p with halting := true } : Tensor).halting = true ∧
      tfind 0 e.segs = some { seg with efault := true } ∧
      (sweep e).work.tensor? 1 = some e ∧ seg.phase ≠ .closed ∧ seg.phase ≠ .ending ∧
      ({ seg with phase := .atEnd } : Seg).held = [] := by decide +kernel

/-- The queue's ring at 0x40000, its page known. -/
def ringed (s : State) : State :=
  { qs 1 s with mem := [(2, 2), (6, 0x10), (0x20000, 1), (0x20002, 3), (0x30000, 0x0F)] }

def ringPage : Option (Nat × Nat) × Work := (mk ag id ringed).work.distPage 0 (0x40000 + 8 * (0 % 64)) 8 .store

theorem test_wit_LaunchAndMessages_writes :
    let k := (mk ag id ringed).work.queue 15
    k.enabled = true ∧ (k.tail + 1) % k.size ≠ k.head % k.size ∧ k.owner = 0 ∧ k.base = 0x40000 ∧
      k.tail = 0 ∧ k.size = 64 ∧ ringPage.1 = some (0x40000, 0) ∧
      (ringPage.2.place 0x40000).isNear = true ∧ (∀ d ∈ ringPage.2.dies, d.2.units = []) ∧
      ringPage.2.sharedOut = [] := by decide +kernel

/-- The core's own team is known to be there. -/
theorem test_wit_Messages_scope :
    let w := (mk ag fun k => { k with good := true }).work
    w.amKnown ag.launch 0 = true ∧ w.amHome 0 ag.launch 0 = 0 ∧
      Released (mk ag fun k => { k with good := true }) ag (w.amScope ag 0 0 true) :=
  ⟨by decide +kernel, by decide +kernel, .inl (by decide +kernel)⟩

/-- The page of the completion object after the record has been consumed, at its pass and its refusal. -/
theorem test_wit_Admission_writes :
    let r := fun n => BitVec.ofNat 1024 (readV (entry2 n))
    let page := fun (n : Byte) => match (entryPage n).2.checkRecord 0 0 (r n) with
      | .pass w => ((w.consume 0 false).distPage 0 (lrCpl (r n)) 64 .store).1
      | .refuse w _ => ((w.consume 0 false).distPage 0 (lrCpl (r n)) 64 .store).1
      | .wait _ => none
    (page 5).isSome = true ∧ (page 6).isSome = true := by decide +kernel

/-- A record whose extent is empty, and none of the two codes below it. -/
theorem test_wit_RefusalCodes :
    let r := plainRec &&& ~~~(0xFFFFFFFF#1024 <<< 128)
    let b := recBits r
    b 159 128 = 0 ∧ b 319 295 = 0 ∧ b 383 372 = 0 ∧ b 446 436 = 0 ∧ b 510 500 = 0 ∧
      (∀ k < 4, b (64 * k + 575) (64 * k + 553) = 0) ∧ b 1023 896 = 0 ∧ b 7 0 = 0 ∧
      lrArgs r % 64 = 0 ∧ b 325 320 = 0 ∧ b 127 126 ≠ 3 ∧ b 53 53 = 0 ∧ lrWidthCode r ≠ 3 ∧
      lrWidth r ≤ Config.wmax ∧ lrHcount r = 0 := by decide +kernel

/-- A published grid that has drained, and the page of its completion object. -/
def ended : State :=
  mk tg id fun s => { s with
    launches := [(1, { tLaunch with retired := 1, published := true })], teams := []
    mem := [(2, 2), (6, 0x10), (0x20000, 1), (0x20002, 3), (0x30000, 0x0F)] }

theorem test_wit_Retirement_ends :
    let w := ended.work
    let f := w.flushAll 1 false
    let x := { tLaunch with retired := 1, published := true }
    w.launch? 1 = some x ∧ x.complete = false ∧ lrTeams x.record ≤ x.retired ∧
      w.coreHandlers 1 = false ∧ w.gridDrained 1 = true ∧ lrBook x.record ≠ 1 ∧
      ((({ f with dies := tmap (fun _ (d : Die) =>
          { d with rtw := tfilter (fun _ p => decide (p.launch ≠ 1)) d.rtw }) f.dies } : Work).distPage
        x.owner (lrCpl x.record) 64 .store).1.isSome = true) := by decide +kernel

/-- A full arrival queue; a team restored and not yet released; one that is away. -/
theorem test_wit_MessageArrivals (y : Team)
    (h : y = { fetchTeam with loaded := true } ∨ y = { fetchTeam with resident := false }) :
    let full := (mk tg fun k => { k with
      arrivals := List.replicate 16 (am true), inbox := { k.inbox with ams := [am true] } }).work
    let past := (mk tg fun k => { k with amOver := [am true] }).work
    let w := (mk tg (fun k => { k with inbox := { k.inbox with ams := [am false] } }) (withTeam y)).work
    full.amBehind (am true) = false ∧ 16 ≤ (full.core 0).arrivals.length ∧
      (past.core 0).amOver ≠ [] ∧ w.team 1 0 = some y ∧ y.launch = 1 ∧ y.lin = 0 ∧
      (y.resident = false ∨ y.loaded = true) ∧ ({ am false with ord := true } : AmMsg).ord = true := by
  rcases h with rfl | rfl <;> decide +kernel

/-- A group's record at 0x20000 as its bytes say, without and with what the model has kept of it. -/
def inMemory (known : Bool) (s : State) : State :=
  { s with
    shadow := if known then [(7, { tg with vreg := [], nv := 4 })] else []
    mem := [(0x202A0, 0x55), (0x202A1, 0x4F), (0x202A2, 0x52), (0x202A3, 0x47), (0x20348, 7),
      (0x20350, 1), (0x2035E, 16), (0x2035F, 4)] }

theorem test_wit_SupervisorInstructions_record (known : Bool) :
    let g := { Group.supervisor with sreg := [(4, 1), (5, 0x20000), (6, 2), (7, 1)] }
    let s := mkS g (fun k => { k with groups := [(0, g)] }) (inMemory known)
    let y : Group := if known then { tg with vreg := [], nv := 4 } else recordGroup (s.work.bytes 0x20000 0x1000)
    let q := y.reload (s.work.bytes 0x20000 y.recSize)
    (s.work.recordHead (s.work.bytes 0x20000 0x1000)).map Group.recSize = some y.recSize ∧
      s.work.recordHead (s.work.bytes 0x20000 0x1000) = some y ∧
      s.work.canLoad 0 ((g.s 6).toNat % 64) q = true ∧ s.work.teamOf q = some fetchTeam ∧
      fetchTeam.late = [] ∧ (s.work.place 0x20000).isNear = true ∧
      (∀ o ∈ (s.work.core 0).stores, o.2.slot ≠ saveUnit) ∧
      ((upto y.recSize).all fun j => (s.work.place (0x20000 + j)).isNear) = true ∧
      numAt ((mkS g).work.bytes 0x20000 0x1000) 0x2A0 4 ≠ grpMagic := by
  cases known <;> decide +kernel

/-- RESUME with its one team on the core, and with one that is away; the save deadline. -/
theorem test_wit_Preemption_more :
    let on := mk tg id (saving fetchTeam 0)
    let off := mk tg id (saving gone 0)
    let s := mk tg id fun s => { saving fetchTeam 2 s with tempo := 2 ^ 40 }
    (∀ p ∈ on.teams, on.work.ownerOf p.2 = field 0x800 9 0 → p.2.resident = true ∧
        p.2.waitingRestore = false ∧ p.2.loaded = false) ∧
      (∃ p ∈ off.teams, off.work.ownerOf p.2 = field 0x800 9 0 ∧ p.2.resident = false) ∧
      s.preempt.stage = 2 ∧ s.work.deadline (field s.pretime 47 32) ≤ s.tempo ∧
      (∃ p ∈ s.launches, p.2.complete = false ∧ p.2.owner = s.preempt.owner) :=
  ⟨by decide +kernel, ⟨_, .head _, by decide +kernel⟩, by decide +kernel, by decide +kernel,
    ⟨_, .head _, by decide +kernel⟩⟩

/-- A code that no row of its family has, unused bits of each width, and a scalar form without a row. -/
theorem test_wit_IllegalWords :
    let bad : BitVec 32 := 0x00001401
    let odd : BitVec 32 := 0x80000201
    let low : BitVec 32 := 0x00200AF9
    let br : BitVec 32 := 0x00001E09
    (0x00, 5, List.range 10) ∈ Claim.codes ∧ (bad.extractLsb' 3 6).toNat = 0x00 ∧
      bad.toNat / 2 ^ 9 % 2 ^ 5 ∉ List.range 10 ∧
      (0x00, 5, [1, 9], 0xFFFFC000) ∈ Claim.unused ∧ (odd.extractLsb' 3 6).toNat = 0x00 ∧
      odd.toNat / 2 ^ 9 % 2 ^ 5 ∈ [1, 9] ∧ (odd &&& 0xFFFFC000) ≠ 0 ∧
      (0x1F, 5, [5], 0xFFE00000) ∈ Claim.unused ∧ (low.extractLsb' 3 6).toNat = 0x1F ∧
      low.toNat / 2 ^ 9 % 2 ^ 5 ∈ [5] ∧ (low &&& 0xFFE00000) ≠ 0 ∧
      (br.extractLsb' 3 6).toNat = 1 ∧ (br.extractLsb' 9 5).toNat = 15 ∧
      bad.getLsbD 0 = true ∧ odd.getLsbD 0 = true ∧ low.getLsbD 0 = true ∧ br.getLsbD 0 = true := by
  decide +kernel

/-- Registers past the file's end; who denies what; the special registers at the bounds of their ranges. -/
theorem test_wit_IllegalForms :
    let run := qg ctx
    let inTrap := { tg with inHandler := true }
    tg.hasPair 63 = false ∧ tg.hasQuad 61 = false ∧ ({ tg with nv := 4 } : Group).hasV 4 = false ∧
      tg.kind ≠ .supervisor ∧ tg.kind ≠ .run ∧ run.kind = .run ∧ run.kind ≠ .user ∧
      lrGridb ((mk tg id ring).work.recOf tg) = true ∧
      lrGridb ((mk tg id (saving fetchTeam 0)).work.recOf tg) = false ∧
      run.isTeamCode = false ∧ (mk run).work.grp 0 1 = some run ∧ inTrap.inHandler = true ∧
      tg.inHandler = false ∧ tg.hasV 63 = true ∧ tg.hasQuad 60 = true ∧
      (∀ k : BitVec 2 × BitVec 6, k ∈ [(0, 0x18), (0, 0x1C), (0, 0x16), (0, 0x1D), (0, 0x22)] →
        (k.1 ++ k.2 : BitVec 8).toNat = k.2.toNat) ∧
      tg.deferred = [] ∧ tg.pend = [] ∧ tg.flights = [] ∧ tg.poison = [] ∧
      2 ≤ (tg.s 6).toNat ∧ (inTrap.s 5).getLsbD 0 = true := by decide +kernel

/-- The last register of each range, offsets that hold none, and a write of a half. -/
theorem test_wit_WindowRules :
    0x1008 + 32 * 15 = 0x11E8 ∧ 0x44F0 = 0x4400 + 16 * 15 ∧ 0x4508 + 16 * 15 < 0x4600 ∧
      Path.management ≠ .supervisor ∧ (1 : Word).getLsbD 0 = true ∧
      State.reset.preempt.stage = 0 ∧ 0x10 % 8 = 0 ∧ 0x10 ≠ 0x48 ∧
      ¬(0x1000 ≤ 0x10 ∧ 0x10 < 0x1200 ∧ 0x10 % 32 = 8) ∧
      ¬(0x2000 ≤ 0x10 ∧ 0x10 < 0x3800 ∧ 0x10 % 64 = 32) ∧ 0x51 % 8 ≠ 0 ∧ 0x50 % 8 = 0 ∧
      0x37F8 % 64 ≠ 32 := by decide +kernel

/-- A row of the register pool that holds an uncorrectable error. -/
theorem test_wit_OperandRules_row :
    let g := { tg with poison := [(64 * 4 + 1, 2 ^ 52 + 64 + 4)] }
    tfind (64 * 4 + 1) g.poison = some (2 ^ 52 + (64 + 4)) ∧ (mk g).work.grp 0 1 = some g ∧
      g.pend = [] ∧ g.flights = [] ∧ g.locked = [] ∧ g.deferred = [] ∧
      (∀ k < 64, bit 2 k = (bit g.exec k && (tfind (64 * 4 + k) g.poison).isSome)) := by
  decide +kernel

/-- A plan that asks for an instruction where no group is. -/
theorem test_wit_StepAnswers :
    let s := { mk tg with cur := (0, 9), plan := [.event (.trap 0 0)] }
    encode (.trap 0 0) ≠ .event ∧ s.plan = .event (.trap 0 0) :: [] ∧
      step s = .refused .noGroup := ⟨by decide, rfl, rfl⟩

/-! ## The published examples of FIPS 180-4 and FIPS 197 (log 24) -/

/-- The digest of "abc": its first and last words. -/
theorem test_sha384 :
    let d := sha384 [0x61, 0x62, 0x63]
    d.extractLsb' 0 64 = 0x8B5EA3453F7500CB ∧ d.extractLsb' 320 64 = 0xA725C834A1ECBA58 := by
  decide +kernel

/-- The product of 0x57 and 0x83, the substitution of 0x53, and back. -/
theorem test_aes : gmul 0x57 0x83 = 0xC1 ∧ aesSub 0x53 = 0xED ∧ aesUnsub 0xED = 0x53 := by
  decide +kernel

end Sys2Proof.Tests

end
end

section
/-!
SUPPORT. Sparse tables, continued: what a listed entry is, and rising keys before and after a write.
-/

namespace Sys2Proof.Machine

variable {α : Type}

theorem mem_of_tfind {k : Nat} {v : α} {t : Tab α} (h : tfind k t = some v) : (k, v) ∈ t := by
  induction t with
  | nil => simp at h
  | cons p t ih =>
    obtain ⟨j, x⟩ := p
    by_cases hj : j = k
    · subst hj
      simp only [tfind, if_pos, Option.some.injEq] at h
      simp [h]
    · simp only [tfind, if_neg hj] at h
      exact List.mem_cons_of_mem _ (ih h)

theorem tfind_isSome_of_mem {k : Nat} {t : Tab α} (h : k ∈ tkeys t) : (tfind k t).isSome = true := by
  induction t with
  | nil => simp [tkeys] at h
  | cons p t ih =>
    obtain ⟨j, x⟩ := p
    by_cases hj : j = k
    · simp [tfind, hj]
    · have hk : k ∈ tkeys t := by simpa [tkeys, Ne.symm hj] using h
      simpa [tfind, hj] using ih hk

/-- A value that is not the default is listed. -/
theorem tfind_of_tget_ne {d : α} {k : Nat} {t : Tab α} (h : tget d k t ≠ d) :
    tfind k t = some (tget d k t) := by
  unfold tget at h ⊢
  cases hk : tfind k t with
  | none => simp [hk] at h
  | some v => rfl

theorem tget_of_tfind {d v : α} {k : Nat} {t : Tab α} (h : tfind k t = some v) :
    tget d k t = v := by simp [tget, h]

theorem tfind_tput_other [DecidableEq α] {j k : Nat} (h : j ≠ k) (d v : α) (t : Tab α) :
    tfind j (tput d k v t) = tfind j t := by
  unfold tput
  split
  · exact tfind_tdel_other h t
  · exact tfind_tins_other h v t

theorem tabove_of_keys {lo : Nat} {t : Tab α} (h : ∀ k ∈ tkeys t, lo < k) : tabove lo t :=
  fun p hp => h p.1 (List.mem_map_of_mem hp)

/-- Rising keys do not repeat. -/
theorem nodup_of_tsorted {t : Tab α} (h : tsorted t = true) : (tkeys t).Nodup := by
  induction t with
  | nil => simp [tkeys]
  | cons p t ih =>
    obtain ⟨j, x⟩ := p
    obtain ⟨ha, hs⟩ := (tsorted_cons j x t).1 h
    refine List.nodup_cons.2 ⟨fun hj => ?_, ih hs⟩
    obtain ⟨q, hq, hqj⟩ := List.mem_map.1 hj
    exact absurd (ha q hq) (by simp [hqj])

/-- Every entry stays when another is put in. -/
theorem tabove_of_tins {lo k : Nat} {v : α} {t : Tab α} (h : tabove lo (tins k v t)) :
    tabove lo t := by
  induction t with
  | nil => simp [tabove]
  | cons p t ih =>
    obtain ⟨j, x⟩ := p
    simp only [tins] at h
    split at h
    · next e => subst e; simpa [tabove] using h
    · split at h
      · exact fun q hq => h q (List.mem_cons_of_mem _ hq)
      · intro q hq
        rcases List.mem_cons.1 hq with rfl | hq
        · exact h (j, x) (by simp)
        · exact ih (fun r hr => h r (List.mem_cons_of_mem _ hr)) q hq

/-- A table whose keys rise after an insertion had rising keys before it. -/
theorem tsorted_of_tins {k : Nat} {v : α} {t : Tab α} (h : tsorted (tins k v t) = true) :
    tsorted t = true := by
  induction t with
  | nil => rfl
  | cons p t ih =>
    obtain ⟨j, x⟩ := p
    simp only [tins] at h
    split at h
    · next e => subst e; exact (tsorted_cons j x t).2 ((tsorted_cons j v t).1 h)
    · split at h
      · exact ((tsorted_cons k v _).1 h).2
      · obtain ⟨ha, hs⟩ := (tsorted_cons j x _).1 h
        exact (tsorted_cons j x t).2 ⟨tabove_of_tins ha, ih hs⟩

/-- An insertion at a listed key that gives the table back has replaced the entry in its place: the
keys before it are smaller. -/
theorem tsorted_of_tins_fixed {t : Tab α} (hn : (tkeys t).Nodup)
    (h : ∀ k ∈ tkeys t, ∃ v, tins k v t = t) : tsorted t = true := by
  induction t with
  | nil => rfl
  | cons p t ih =>
    obtain ⟨j, x⟩ := p
    obtain ⟨hj, hn⟩ := List.nodup_cons.1 hn
    have later : ∀ k ∈ tkeys t, j < k ∧ ∃ v, tins k v t = t := by
      intro k hk
      obtain ⟨v, hv⟩ := h k (List.mem_cons_of_mem _ hk)
      have hjk : j ≠ k := by rintro rfl; exact hj hk
      simp only [tins, if_neg hjk] at hv
      split at hv
      · exact absurd (congrArg List.length hv) (by simp)
      · exact ⟨by omega, v, (List.cons.inj hv).2⟩
    exact (tsorted_cons j x t).2
      ⟨tabove_of_keys fun k hk => (later k hk).1, ih hn fun k hk => (later k hk).2⟩

theorem tsorted_of_tput_fixed [DecidableEq α] {d : α} {t : Tab α} (hn : (tkeys t).Nodup)
    (h : ∀ k ∈ tkeys t, ∃ v, tput d k v t = t) : tsorted t = true := by
  refine tsorted_of_tins_fixed hn fun k hk => ?_
  obtain ⟨v, hv⟩ := h k hk
  unfold tput at hv
  split at hv
  · have hk' := tfind_isSome_of_mem hk
    rw [← hv, tfind_tdel_same] at hk'
    exact absurd hk' (by simp)
  · exact ⟨v, hv⟩

/-- A listed key is among the entries that pass a test just when its own entry passes. -/
theorem mem_keys_filter {t : Tab α} (hn : (tkeys t).Nodup) {k : Nat} {v : α}
    (h : tfind k t = some v) (p : Nat × α → Bool) :
    k ∈ tkeys (t.filter p) ↔ p (k, v) = true := by
  have hkv := mem_of_tfind h
  constructor
  · intro hk
    obtain ⟨q, hq, rfl⟩ := List.mem_map.1 hk
    obtain ⟨hq, hp⟩ := List.mem_filter.1 hq
    rwa [List.inj_on_of_nodup_map hn hq hkv rfl] at hp
  · exact fun hp => List.mem_map_of_mem (List.mem_filter.2 ⟨hkv, hp⟩)

end Sys2Proof.Machine
end

section
/-!
SUPPORT. What an access performed at its home (R196, R370) leaves alone: all of the machine but the
dies, what DRAM holds, and the marks that a write leaves.
-/

namespace Sys2Proof.Machine

/-- The machine but for its dies, what DRAM holds, and the marks that a write at its home leaves. -/
def Work.offHome (w : Work) : Mach :=
  { w.toMach with
    dies := [], launches := [], keyed := [], upsetMem := [], upsetL2 := [], under := [] }

/-- What every step of a fold keeps, the fold keeps. -/
theorem offHome_foldl {β : Type} (f : Work → β → Work)
    (h : ∀ w x, (f w x).offHome = w.offHome) (l : List β) (w : Work) :
    (l.foldl f w).offHome = w.offHome := by
  induction l generalizing w with
  | nil => rfl
  | cons x l ih => exact (ih _).trans (h w x)

theorem offHome_setDie (w : Work) (d : Nat) (k : Die) : (w.setDie d k).offHome = w.offHome := rfl

theorem offHome_modDie (w : Work) (d : Nat) (f : Die → Die) :
    (w.modDie d f).offHome = w.offHome := offHome_setDie _ _ _

theorem offHome_setSlice (w : Work) (d s : Nat) (k : Slice) :
    (w.setSlice d s k).offHome = w.offHome := offHome_modDie _ _ _

theorem offHome_setUnit (w : Work) (d u : Nat) (k : Unit) :
    (w.setUnit d u k).offHome = w.offHome := offHome_modDie _ _ _

theorem offHome_addRflags (w : Work) (l : Nat) (fl : BitVec 7) :
    (w.addRflags l fl).offHome = w.offHome := rfl

theorem offHome_pokes (w : Work) (l : List Host.Cell) : (w.pokes l).offHome = w.offHome := by
  unfold Work.offHome
  rw [(pokes_toMach w l).1]

theorem offHome_rekey (w : Work) (key sec : Nat) : (w.rekey key sec).offHome = w.offHome := by
  unfold Work.rekey
  dsimp only
  split
  · rfl
  · exact offHome_pokes _ _

theorem offHome_writeCells (w : Work) (key : Nat) (l : List Host.Cell) :
    (w.writeCells key l).offHome = w.offHome :=
  (offHome_pokes _ l).trans (offHome_foldl _ (fun w s => offHome_rekey w key s) _ w)

theorem offHome_freeMonitor (w : Work) (d s i : Nat) :
    (w.freeMonitor d s i).offHome = w.offHome :=
  (offHome_setUnit _ _ _ _).trans (offHome_setSlice _ _ _ _)

theorem offHome_fire (w : Work) (d s i : Nat) (m : Monitor) :
    (w.fire d s i m).offHome = w.offHome :=
  (offHome_modDie _ _ _).trans (offHome_freeMonitor _ _ _ _)

theorem offHome_evalMonitors (w : Work) (d s : Nat) (l : List Host.Cell) :
    (w.evalMonitors d s l).offHome = w.offHome := by
  refine offHome_foldl _ (fun w p => ?_) _ w
  dsimp only
  split
  · exact offHome_fire w d s p.1 p.2
  · rfl

theorem offHome_performed (w : Work) (key : Nat) (l : List Host.Cell) :
    (w.performed key l).offHome = w.offHome := by
  unfold Work.performed
  refine (offHome_foldl _ (fun v h => ?_) _ _).trans (offHome_writeCells w key l)
  exact offHome_evalMonitors v h.1 h.2 l

theorem offHome_flushHeld (w : Work) (d s : Nat) (h : Held) :
    (w.flushHeld d s h).offHome = w.offHome :=
  (offHome_addRflags _ _ _).trans ((offHome_performed _ _ _).trans (offHome_setUnit _ _ _ _))

theorem offHome_flushUnit (w : Work) (d s : Nat) (p : Held → Bool) :
    (w.flushUnit d s p).offHome = w.offHome :=
  offHome_foldl _ (fun w h => offHome_flushHeld w d s h) _ w

theorem offHome_flushCells (w : Work) (l : List Nat) : (w.flushCells l).offHome = w.offHome := by
  refine offHome_foldl _ (fun w line => ?_) _ w
  split
  · exact offHome_flushUnit _ _ _ _
  · rfl

theorem offHome_keepDram (w : Work) (line : Nat) : (w.keepDram line).offHome = w.offHome := by
  unfold Work.keepDram
  split <;> rfl

theorem offHome_wroteBack (w : Work) (line : Nat) : (w.wroteBack line).offHome = w.offHome := rfl

/-- R365: a hit or a fill at a slice, with the line that it pushes out. -/
theorem offHome_l2 (w : Work) (h : Home) (line : Nat) (ef write counted : Bool) :
    (w.l2 h line ef write counted).offHome = w.offHome := by
  have hdram : ∀ v : Work, (if write then v.keepDram line else v).offHome = v.offHome := by
    intro v
    split
    · exact offHome_keepDram v line
    · rfl
  refine (offHome_setDie _ _ _).trans ((hdram _).trans ?_)
  split
  · exact offHome_wroteBack _ _
  · rfl

theorem offHome_homeTouch (w : Work) (ef write : Bool) (l : List Nat) :
    (w.homeTouch ef write l).offHome = w.offHome := by
  refine (offHome_foldl _ (fun w line => ?_) _ _).trans (offHome_flushCells w l)
  split
  · exact offHome_l2 _ _ _ _ _ _
  · rfl

/-- R196: a read at the home slices. -/
theorem offHome_homeRead (w : Work) (key : Nat) (ef : Bool) (a n : Nat) :
    (w.homeRead key ef a n).2.offHome = w.offHome :=
  offHome_homeTouch w ef false (upto n a)

end Sys2Proof.Machine
end

section
/-!
SUPPORT. The clocks of the cores: what a fetch, the groups held at the end of a cycle (R314), the
beginning of a core cycle (R53) and the network (R376) leave of them.
-/

namespace Sys2Proof.Machine

/-! ## A fetch changes its own core, and there neither the cycle nor what has been issued in it -/

/-- The clock of a core, and the issue slots and quarters that its present cycle has used. -/
def Core.clock (k : Core) : Nat × Nat × List Nat × Nat := (k.cycle, k.edges, k.issued, k.usedQ)

/-- From `w` to `v` core `c` keeps its clock, and every other core all it holds. -/
structure ClockKept (c : Nat) (w v : Work) : Prop where
  tempo : v.tempo = w.tempo
  plan : v.plan = w.plan
  sorted : tsorted w.cores = true → tsorted v.cores = true
  other : ∀ j, j ≠ c → tfind j v.cores = tfind j w.cores
  clock : (v.core c).clock = (w.core c).clock

theorem ClockKept.refl (c : Nat) (w : Work) : ClockKept c w w :=
  ⟨rfl, rfl, id, fun _ _ => rfl, rfl⟩

theorem ClockKept.trans {c : Nat} {u v w : Work} (h : ClockKept c u v) (h' : ClockKept c v w) :
    ClockKept c u w :=
  ⟨h'.tempo.trans h.tempo, h'.plan.trans h.plan, h'.sorted ∘ h.sorted,
    fun j hj => (h'.other j hj).trans (h.other j hj), h'.clock.trans h.clock⟩

theorem ClockKept.setCore {c : Nat} {w : Work} {k : Core} (h : k.clock = (w.core c).clock) :
    ClockKept c w (w.setCore c k) :=
  ⟨rfl, rfl, tsorted_tput _ _ _ _, fun _ hj => tfind_tput_other hj _ _ _,
    (congrArg Core.clock (core_setCore_same w c k)).trans h⟩

/-- What leaves the cores as they are keeps the clock of each. -/
theorem ClockKept.of_cores (c : Nat) {w v : Work} (ht : v.tempo = w.tempo) (hp : v.plan = w.plan)
    (hc : v.cores = w.cores) : ClockKept c w v :=
  ⟨ht, hp, fun h => hc ▸ h, fun _ _ => congrArg (tfind _) hc,
    congrArg (fun t => (tget Core.init c t).clock) hc⟩

theorem ClockKept.of_offHome (c : Nat) {w v : Work} (h : v.offHome = w.offHome) :
    ClockKept c w v :=
  .of_cores c (congrArg (·.tempo) h) (congrArg (·.plan) h) (congrArg (·.cores) h)

theorem clockKept_modCluster (c : Nat) (w : Work) (d : Nat) (f : Cluster → Cluster) :
    ClockKept c w (w.modCluster d f) := .of_cores c rfl rfl rfl

theorem clockKept_translate (w : Work) (c owner va : Nat) (walked : Tab Nat) :
    ClockKept c w (w.translate c owner va walked).2 := by
  unfold Work.translate
  dsimp only
  split
  · exact .setCore rfl
  · split
    · next e t _ =>
      exact (clockKept_modCluster c w _ fun x => { x with tlb2 := t }).trans (.setCore rfl)
    · split <;> exact .refl c w

theorem clockKept_draw (c : Nat) (w : Work) : ClockKept c w w.draw.2 := .of_cores c rfl rfl rfl

theorem clockKept_farData (c : Nat) (w : Work) (n : Nat) : ClockKept c w (w.farData n).2 := by
  have fold : ∀ (l : List Nat) (q : List Byte × Work), ClockKept c w q.2 →
      ClockKept c w (l.foldl (fun (q : List Byte × Work) _ =>
        (q.1 ++ [q.2.draw.1.truncate 8], q.2.draw.2)) q).2 := by
    intro l
    induction l with
    | nil => exact fun _ h => h
    | cons _ l ih => exact fun q h => ih _ (h.trans (clockKept_draw c q.2))
  exact fold _ ([], w) (.refl c w)

theorem clockKept_fetchFill (w : Work) (c key pa : Nat) :
    ClockKept c w (w.fetchFill c key pa) := by
  have hread := ClockKept.of_offHome c (offHome_homeRead w key false (128 * (pa / 128)) 128)
  unfold Work.fetchFill
  generalize w.homeRead key false (128 * (pa / 128)) 128 = r at hread
  exact hread.trans (.setCore rfl)

theorem clockKept_fetchFresh (w : Work) (c key pa : Nat) :
    ClockKept c w (w.fetchFresh c key pa).2 := by
  unfold Work.fetchFresh
  exact clockKept_fetchFill w c key pa

theorem clockKept_fetchNear (w : Work) (c key pa : Nat) :
    ClockKept c w (w.fetchNear c key pa).2 := by
  unfold Work.fetchNear
  split
  · exact clockKept_fetchFresh w c key pa
  · split
    · exact .refl c w
    · dsimp only
      split
      · exact (clockKept_draw c w).trans (clockKept_fetchFresh _ c key pa)
      · exact clockKept_draw c w

/-- The clocks where a fetch brings bytes. -/
def Fetched.ClockKept (c : Nat) (w : Work) : Fetched → Prop
  | .ok v _ => Machine.ClockKept c w v
  | .stop _ => True

/-- R97: a parcel is fetched. -/
theorem clockKept_fetchParcel (w : Work) (c slot : Nat) (g : Group) (va : Nat) :
    (w.fetchParcel c slot g va).ClockKept c w := by
  have ht := clockKept_translate w c g.owner va g.walked
  have far : ∀ u : Work, ClockKept c w u →
      (Fetched.ok (u.fetchFar 2).2 (u.fetchFar 2).1).ClockKept c w :=
    fun u hu => hu.trans (clockKept_farData c u 2)
  unfold Work.fetchParcel
  simp only
  split
  · next e u hu =>
    rw [hu] at ht
    split
    · trivial
    · split
      · split
        · trivial
        · exact ht.trans (clockKept_fetchNear u c _ _)
      · trivial
      · trivial
      · split
        · exact far u ht
        · trivial
      · exact far u ht
      · exact far u ht
  · trivial
  · split <;> trivial
  · trivial

/-- R86: an instruction is fetched. -/
theorem clockKept_fetch (w : Work) (c slot : Nat) (g : Group) :
    (w.fetch c slot g).ClockKept c w := by
  have h₁ := clockKept_fetchParcel w c slot g g.pc.toNat
  unfold Work.fetch
  split
  · trivial
  · next u _ hu =>
    rw [hu] at h₁
    split
    · have h₂ := clockKept_fetchParcel u c slot g (g.pc + 2).toNat
      split
      · trivial
      · next hv =>
        rw [hv] at h₂
        exact ClockKept.trans h₁ h₂
    · exact h₁

/-! ## The groups held at the end of a cycle (R314) -/

/-- From `s` to `t` TEMPO, the plan and the clocks of the listed cores stay. -/
structure ClocksKept (s t : State) : Prop where
  tempo : t.tempo = s.tempo
  plan : t.plan = s.plan
  sorted : tsorted s.cores = true → tsorted t.cores = true
  listed : ∀ c k, tfind c s.cores = some k →
    ∃ k', tfind c t.cores = some k' ∧ k'.cycle = k.cycle ∧ k'.edges = k.edges

theorem ClocksKept.refl (s : State) : ClocksKept s s :=
  ⟨rfl, rfl, id, fun _ k h => ⟨k, h, rfl, rfl⟩⟩

theorem ClocksKept.trans {s t u : State} (h : ClocksKept s t) (h' : ClocksKept t u) :
    ClocksKept s u := by
  refine ⟨h'.tempo.trans h.tempo, h'.plan.trans h.plan, h'.sorted ∘ h.sorted, fun c k hk => ?_⟩
  obtain ⟨k₁, h₁, hc₁, he₁⟩ := h.listed c k hk
  obtain ⟨k₂, h₂, hc₂, he₂⟩ := h'.listed c k₁ h₁
  exact ⟨k₂, h₂, hc₂.trans hc₁, he₂.trans he₁⟩

theorem ClocksKept.foldl {β : Type} (f : State → β → State) (h : ∀ s x, ClocksKept s (f s x))
    (l : List β) (s : State) : ClocksKept s (l.foldl f s) := by
  induction l generalizing s with
  | nil => exact .refl s
  | cons x l ih => exact (h s x).trans (ih _)

/-- A core in whose cycle something has been issued is not as it was at reset. -/
theorem ne_init_of_full {k k' : Core} {slot : Nat} {g : Group} (hr : k.hasRoom slot g = false)
    (hk : k'.clock = k.clock) : k' ≠ Core.init := by
  rintro rfl
  have hissued : k.issued = [] := (congrArg (·.2.2.1) hk).symm
  have hused : k.usedQ = 0 := (congrArg (·.2.2.2) hk).symm
  simp [Core.hasRoom, hissued, hused] at hr

/-- What `settleHeld` can do: nothing; or it takes the attempt of a group that found no room, which
differs from the fetch of its instruction only in the group. -/
theorem settleHeld_cases (c slot : Nat) (s : State) :
    settleHeld c slot s = s ∨
      ∃ g v, ClockKept c s.work v ∧ (s.work.core c).hasRoom slot g = false ∧
        ((settleHeld c slot s).work.setGrp c slot g).toMach = v.toMach := by
  have hw : ClockKept c s.work { s.work with cur := (c, slot) } := .of_cores c rfl rfl rfl
  unfold settleHeld
  dsimp only
  split
  · exact .inl rfl
  · next g hg =>
    split
    · exact .inl rfl
    · next hfull =>
      simp only [Bool.or_eq_true, not_or, Bool.not_eq_true] at hfull
      obtain ⟨-, hroom⟩ := hfull
      have hfetch := clockKept_fetch { s.work with cur := (c, slot) } c slot g
      split
      · split
        · split
          · next hf =>
            rw [hf] at hfetch
            split
            · next hkept => exact .inr ⟨g, _, hw.trans hfetch, hroom, hkept.2.2⟩
            · exact .inl rfl
          · split
            · next hkept => exact .inr ⟨g, _, hw, hroom, hkept.2.2⟩
            · exact .inl rfl
        · exact .inl rfl
      · exact .inl rfl

theorem clocksKept_settleHeld (c slot : Nat) (s : State) : ClocksKept s (settleHeld c slot s) := by
  rcases settleHeld_cases c slot s with h | ⟨g, v, hv, hroom, hm⟩
  · rw [h]
    exact .refl s
  · generalize settleHeld c slot s = t at hm
    have hcores : (t.work.setGrp c slot g).cores = v.cores := congrArg (·.cores) hm
    have hgc : ((t.work.setGrp c slot g).core c).clock = (t.work.core c).clock := by
      rw [Work.setGrp, core_modCore, if_pos rfl]
      rfl
    have hvc : ((t.work.setGrp c slot g).core c).clock = (v.core c).clock :=
      congrArg (fun l => (tget Core.init c l).clock) hcores
    have hclock : (t.work.core c).clock = (s.work.core c).clock :=
      hgc.symm.trans (hvc.trans hv.clock)
    have hlisted : tfind c t.cores = some (t.work.core c) :=
      tfind_of_tget_ne (ne_init_of_full hroom hclock)
    refine ⟨(congrArg (·.tempo) hm).trans hv.tempo, (congrArg (·.plan) hm).trans hv.plan,
      fun hs => ?_, fun d k hk => ?_⟩
    · have hsorted := hv.sorted hs
      rw [← hcores] at hsorted
      have hne := ne_init_of_full hroom (hgc.trans hclock)
      rw [Work.setGrp, Work.modCore, core_setCore_same] at hne
      simp only [Work.setGrp, Work.modCore, Work.setCore, tput, if_neg hne] at hsorted
      exact tsorted_of_tins hsorted
    · by_cases hd : d = c
      · subst hd
        have hkc : s.work.core d = k := tget_of_tfind hk
        rw [hkc] at hclock
        exact ⟨_, hlisted, congrArg (·.1) hclock, congrArg (·.2.1) hclock⟩
      · refine ⟨k, ?_, rfl, rfl⟩
        have hother : tfind d (t.work.setGrp c slot g).cores = tfind d t.cores :=
          tfind_tput_other hd _ _ _
        rw [← hother, hcores, hv.other d hd]
        exact hk

theorem clocksKept_settle (s : State) : ClocksKept s (settle s) := by
  refine ClocksKept.foldl _ (fun s p => ?_) _ s
  split
  · exact ClocksKept.foldl _ (fun s slot => clocksKept_settleHeld p.1 slot s) _ s
  · exact .refl s

/-! ## A core cycle begins (R53) -/

theorem count_cycle (k : Core) : k.count.cycle = k.cycle := by
  unfold Core.count
  dsimp only
  split <;> rfl

theorem unlockEnded_cycle (k : Core) : k.unlockEnded.cycle = k.cycle := by
  have fold : ∀ (l : List Nat) (k : Core), (l.foldl Core.unlock k).cycle = k.cycle := by
    intro l
    induction l with
    | nil => exact fun _ => rfl
    | cons n l ih => exact fun k => ih (k.unlock n)
  unfold Core.unlockEnded
  split
  · rfl
  · exact fold _ k

/-- R257: what the matrix engine reads at a cycle changes the engine alone. -/
theorem mxRead_cases (w : Work) (c : Nat) :
    w.mxRead c = w ∨ ∃ m, w.mxRead c = w.setCore c { w.core c with mx := m } := by
  unfold Work.mxRead
  dsimp only
  split
  · split
    · exact .inl rfl
    · exact .inr ⟨_, rfl⟩
  · exact .inl rfl

theorem rest_mxRead (w : Work) (c : Nat) : (w.mxRead c).toMach.rest = w.toMach.rest := by
  rcases mxRead_cases w c with h | ⟨m, h⟩
  · rw [h]
  · rw [h]
    exact rest_setCore _ _ _

theorem cycle_mxRead (w : Work) (c d : Nat) :
    ((w.mxRead c).core d).cycle = (w.core d).cycle := by
  rcases mxRead_cases w c with h | ⟨m, h⟩
  · rw [h]
  · rw [h, core_setCore]
    split
    · next e => rw [e]
    · rfl

theorem rest_coreCycle (w : Work) (c : Nat) : (w.coreCycle c).toMach.rest = w.toMach.rest := by
  unfold Work.coreCycle
  dsimp only
  split
  · rw [rest_debit, rest_modCore, rest_mxRead]
  · rw [rest_modCore, rest_mxRead]

/-- A core cycle begins in its own core. -/
theorem cycle_coreCycle (w : Work) (c d : Nat) :
    ((w.coreCycle c).core d).cycle = (w.core d).cycle + if d = c then 1 else 0 := by
  have begun : ∀ f : Core → Core, (∀ k, (f k).cycle = k.cycle + 1) →
      (((w.mxRead c).modCore c f).core d).cycle = (w.core d).cycle + if d = c then 1 else 0 := by
    intro f hf
    rw [core_modCore]
    split
    · next e => rw [hf, cycle_mxRead, e]
    · exact cycle_mxRead w c d
  have counted : ∀ k : Core, (k.count.unlockEnded.begin_ (w.mxRead c).tempo
      ((w.mxRead c).die (Config.dieOf c))).cycle = k.cycle + 1 := fun k =>
    congrArg (· + 1) ((unlockEnded_cycle _).trans (count_cycle k))
  unfold Work.coreCycle
  dsimp only
  split
  · rw [core_debit]
    exact begun _ counted
  · exact begun _ counted

theorem rest_coreCycles (l : List (Nat × Core)) (w : Work) :
    (l.foldl (fun w p => w.coreCycle p.1) w).toMach.rest = w.toMach.rest := by
  induction l generalizing w with
  | nil => rfl
  | cons p l ih => exact (ih _).trans (rest_coreCycle w p.1)

/-- Core cycles begin in the cores of a list: a cycle for each time that the core stands in it. -/
theorem cycle_coreCycles (l : List (Nat × Core)) (w : Work) (c : Nat) :
    ((l.foldl (fun w p => w.coreCycle p.1) w).core c).cycle =
      (w.core c).cycle + (tkeys l).count c := by
  induction l generalizing w with
  | nil => rfl
  | cons p l ih =>
    rw [List.foldl_cons, ih, cycle_coreCycle]
    simp only [tkeys, List.map_cons, List.count_cons, beq_iff_eq]
    by_cases h : c = p.1
    · simp only [h, if_true]; omega
    · simp only [if_neg h, if_neg (Ne.symm h), Nat.add_zero]

/-! ## The master edge (R376) -/

/-- An edge, before any core cycle begins: TEMPO counts, the power allowances are filled (R316), the
walks start (R334), and the gates open (R378). -/
def Work.edgeBegun (w : Work) : Work :=
  { w with
    tempo := (w.tempo + 1) % 2 ^ 64, clusters := tmap (fun _ k => k.refill) w.clusters
    dies := tmap (fun _ d => d.startWalks) w.dies, obs := { w.obs with edgeNew := true } }

/-- The listed cores whose clock has an edge at a master edge. -/
def Work.clockedCores (w : Work) (tempo : Nat) : Tab Core :=
  w.cores.filter fun p => hasEdge p.2.edges tempo

/-- What an edge does: core cycles begin, and the network's part changes the dies alone. -/
theorem edge_cases (w : Work) :
    ∃ d, w.edge = { (w.clockedCores ((w.tempo + 1) % 2 ^ 64)).foldl
      (fun w p => w.coreCycle p.1) w.edgeBegun with dies := d } := by
  unfold Work.edge
  dsimp only
  split
  · exact ⟨_, rfl⟩
  · exact ⟨_, rfl⟩

/-- R376: an edge leaves the plan, adds 1 to TEMPO and opens the gates. -/
theorem edge_package (w : Work) :
    w.edge.plan = w.plan ∧ w.edge.tempo = (w.tempo + 1) % 2 ^ 64 ∧ w.edge.obs.edgeNew = true := by
  obtain ⟨d, h⟩ := edge_cases w
  have hrest := rest_coreCycles (w.clockedCores ((w.tempo + 1) % 2 ^ 64)) w.edgeBegun
  rw [h]
  exact ⟨congrArg (·.plan) hrest, congrArg (·.tempo) hrest, congrArg (·.obs.edgeNew) hrest⟩

/-- R53, R376: an edge begins a core cycle in each listed core whose clock has an edge there. -/
theorem edge_cycle {w : Work} (hs : tsorted w.cores = true) {c : Nat} {k : Core}
    (hk : tfind c w.cores = some k) :
    (w.edge.core c).cycle = k.cycle + if hasEdge k.edges w.edge.tempo then 1 else 0 := by
  have hn := nodup_of_tsorted hs
  have hmem := mem_keys_filter hn hk fun p => hasEdge p.2.edges ((w.tempo + 1) % 2 ^ 64)
  have hn' : (tkeys (w.clockedCores ((w.tempo + 1) % 2 ^ 64))).Nodup :=
    hn.sublist (List.filter_sublist.map _)
  have hcycle : (w.edge.core c).cycle =
      k.cycle + (tkeys (w.clockedCores ((w.tempo + 1) % 2 ^ 64))).count c := by
    obtain ⟨d, h⟩ := edge_cases w
    rw [h]
    refine (cycle_coreCycles _ w.edgeBegun c).trans ?_
    have hkc : w.edgeBegun.core c = k := tget_of_tfind hk
    rw [hkc]
  rw [hcycle, (edge_package w).2.1, hn'.count]
  simp only [Work.clockedCores, hmem]

end Sys2Proof.Machine
end

section
/-!
SUPPORT. Turns (log 1): what comes from outside at the gates (R378, R389), and the turn that finds
nothing left to do at its edge.
-/

namespace Sys2Proof.Machine

variable {s : State} {i : Instr} {p : Nat} {rest : List Outside}

/-! ## What comes from outside -/

theorem gateNext_of_no_gates {w : Work} (h : w.obs.gates = []) : w.gateNext = none := by
  unfold Work.gateNext
  rw [h]
  rfl

/-- R378: nothing waits that would go before an arrival. -/
theorem beforeArrival_of_no_gates (h : s.obs.gates = []) (p : Nat) : beforeArrival p s = none := by
  have hnext : s.work.gateNext = none := gateNext_of_no_gates h
  unfold beforeArrival
  simp [hnext]

/-- R389: in replay what waits at the gates does not enter. -/
theorem beforeArrival_of_replay (h : s.work.repMode = 1) (p : Nat) : beforeArrival p s = none := by
  unfold beforeArrival
  exact if_pos h

/-- The turn takes what comes from outside, where nothing that waits at a gate goes before it. -/
theorem step_act (ha : s.agenda = .act i :: rest)
    (hb : s.work.running = true → ∀ p, beforeArrival p s = none) :
    step s = actTurn i { s with agenda := rest } := by
  have hnone : (if s.work.running then (arrivalPort i).bind fun p => beforeArrival p s else none) =
      none := by
    split
    · next hr => simp [hb hr]
    · rfl
  unfold step turn
  rw [ha]
  simp only [hnone]

theorem actTurn_of_running (ho : observes i = false) (hp : arrivalPort i = some p)
    (hr : s.work.running = true) : actTurn i s = arrive i p s := by
  unfold actTurn
  simp [ho, hp, hr]

/-- R376, R377: no arrival, or one that a stopped machine does not take. -/
theorem actTurn_of_no_gate (ho : observes i = false) (hr : s.work.running = false)
    (hu : s.work.unclocked i = false)
    (h : arrivalPort i = none ∨ s.phase = .inReset ∨ s.phase = .failed ∨ s.work.repMode = 1) :
    actTurn i s = .next s := by
  have hwait : ¬ ((s.work.phase = .booting ∨ s.work.phase = .ready) ∧ s.work.repMode ≠ 1) ∨
      arrivalPort i = none := by
    rcases h with h | h | h | h
    · exact .inr h
    · exact .inl fun ⟨hphase, _⟩ => by simp [h] at hphase
    · exact .inl fun ⟨hphase, _⟩ => by simp [h] at hphase
    · exact .inl fun ⟨_, hmode⟩ => hmode h
  unfold actTurn
  cases hp : arrivalPort i with
  | none => simp [ho]
  | some p =>
    have hclosed := hwait.resolve_right (by simp [hp])
    simp only [ho, hr, hu, Bool.false_eq_true, if_false]
    exact if_neg fun hopen => hclosed ⟨hopen.1, hopen.2.1⟩

/-- R385: what arrives while the machine is frozen waits at its gate. -/
theorem actTurn_of_frozen (ho : observes i = false) (hr : s.work.running = false)
    (hu : s.work.unclocked i = false) (hp : arrivalPort i = some p) (h27 : p ≠ 27)
    (hphase : s.phase = .booting ∨ s.phase = .ready) (hm : s.work.repMode ≠ 1) :
    actTurn i s = .next (commit s (s.work.waitGate i p)) := by
  unfold actTurn
  simp only [ho, hp, hr, hu, Bool.false_eq_true, if_false]
  exact if_pos ⟨hphase, hm, h27⟩

/-- R389: in replay an arrival is discarded, but for a takeback and a completion of a CXL read. -/
theorem arrive_of_replay (hm : s.work.repMode = 1) (h27 : p ≠ 27)
    (hc : ∀ port d bad, i ≠ .cxlCompletion port d bad) : arrive i p s = .next s := by
  unfold arrive
  rw [if_pos hm, if_neg h27]
  split
  · exact absurd rfl (hc _ _ _)
  · rfl

theorem arrive_admitted {w : Work} (hm : s.work.repMode ≠ 1) (h : s.work.enterGate i p = some w) :
    arrive i p s = exec i (commit s w) := by
  unfold arrive
  rw [if_neg hm, h]

theorem arrive_waits (hm : s.work.repMode ≠ 1) (h : s.work.enterGate i p = none) :
    arrive i p s = .next (commit s (s.work.waitGate i p)) := by
  unfold arrive
  rw [if_neg hm, h]

/-! ## The gates -/

/-- R378: one of the same edge and of no earlier place has been admitted. -/
def Obs.passed (o : Obs) (tempo place : Nat) : Prop :=
  ∃ q, o.admitted = some (tempo, q) ∧ place ≤ q

/-- R378: an open gate at which nothing waits admits what is no takeback, in no recording. -/
theorem enterGate_open {w : Work} (hg : w.obs.gates = []) (he : w.obs.edgeNew = true)
    (hr : w.recording = false) (hc : caughtCore i = none)
    (hl : ¬ w.obs.passed w.tempo (gatePlace i p)) :
    w.enterGate i p =
      some { w with obs := { w.obs with admitted := some (w.tempo, gatePlace i p) } } := by
  have hlate : (match w.obs.admitted with
      | some (t, q) => decide (t = w.tempo) && decide (gatePlace i p ≤ q)
      | none => false) = false := by
    split
    · next t q hq =>
      rw [Bool.and_eq_false_iff, decide_eq_false_iff_not, decide_eq_false_iff_not]
      by_contra hle
      rw [not_or, not_not, not_not] at hle
      exact hl ⟨q, by rw [hq, hle.1], hle.2⟩
    · rfl
  unfold Work.enterGate Work.gateAdmits
  rw [hg, tget_nil, if_pos rfl]
  simp only [he, hr, hc, Bool.not_true, Bool.not_false, Bool.false_or, Bool.or_false, if_true]
  exact if_neg (by rw [Bool.not_eq_true]; exact hlate)

/-- R378: a gate that is closed, or behind one of a later place, admits nothing. -/
theorem enterGate_closed {w : Work}
    (h : w.obs.edgeNew = false ∨ w.obs.passed w.tempo (gatePlace i p)) :
    w.enterGate i p = none := by
  unfold Work.enterGate
  split
  · unfold Work.gateAdmits
    rcases h with h | ⟨q, hq, hle⟩
    · simp [h]
    · simp [hq, hle]
  · rfl

/-- R378, R385: who waits stands last at its gate. -/
theorem gates_waitGate (w : Work) (i : Instr) {p : Nat} (h : p ≠ 27) :
    tget [] p (w.waitGate i p).obs.gates = tget [] p w.obs.gates ++ [i] := by
  unfold Work.waitGate
  rw [tget_tput_same, if_neg h]

/-- The first to wait at a gate. -/
theorem gates_waitGate_first {w : Work} (i : Instr) (p : Nat) (h : w.obs.gates = []) :
    tget [] p (w.waitGate i p).obs.gates = [i] := by
  unfold Work.waitGate
  rw [tget_tput_same, h]
  split <;> rfl

/-! ## Nothing is left to do at an edge -/

/-- The first event that changes the state: where there is none, no event does. -/
theorem firstEvent_none {l : List Instr} (h : firstEvent s l = none) (hi : i ∈ l)
    (hu : s.work.unheld i = true) {t : State} (ht : unitTurn i s = .next t) : t = s := by
  induction l with
  | nil => cases hi
  | cons j l ih =>
    have later : firstEvent s l = none → i ∈ l → t = s := fun h hi => ih h hi
    unfold firstEvent at h
    rcases List.mem_cons.1 hi with rfl | hi
    · rw [if_pos hu, ht] at h
      dsimp only at h
      split at h
      · next e => exact e
      · cases h
    · split at h
      · split at h
        · split at h
          · exact later h hi
          · cases h
        · exact later h hi
      · exact later h hi

theorem gateTurn_none (h : gateTurn s = none) : s.work.dueEntry = none := by
  unfold gateTurn at h
  split at h
  · cases h
  · next hd => simpa using hd

/-- Where an edge has nothing left to do, no recorded arrival is due, and no event whose time the state
fixes. -/
theorem timedTurn_none (hr : s.work.running = true) (h : timedTurn s = none) :
    gateTurn s = none ∧ firstEvent s s.work.timed = none := by
  unfold timedTurn at h
  rw [hr] at h
  simp only [Bool.not_true, Bool.false_eq_true, if_false] at h
  split at h
  · cases h
  · next hg =>
    split at h
    · cases h
    · exact ⟨hg, by simpa using h⟩

theorem forcedTurn_none (h : forcedTurn s = none) : timedTurn s = none := by
  unfold forcedTurn at h
  split at h
  · cases h
  · assumption

theorem tbwinRestart_mem_timed {c : Nat} (h : c ∈ tkeys s.cores) :
    Instr.tbwinRestart c ∈ s.work.timed := by
  obtain ⟨q, hq, rfl⟩ := List.mem_map.1 h
  have hcore : Instr.tbwinRestart q.1 ∈ q.2.timed q.1 := by simp [Core.timed]
  have hcores : Instr.tbwinRestart q.1 ∈ s.work.cores.flatMap fun p => p.2.timed p.1 :=
    List.mem_flatMap.2 ⟨q, hq, hcore⟩
  exact List.mem_flatten.2 ⟨_, by simp, hcores⟩

theorem exec_tbwinRestart (c : Nat) (s : State) : exec (.tbwinRestart c) s = execTbwinRestart c s :=
  rfl

theorem unitTurn_tbwinRestart (c : Nat) (s : State) :
    unitTurn (.tbwinRestart c) s = execTbwinRestart c s := by
  rw [← exec_tbwinRestart]
  simp [unitTurn, Work.mayAct, onNetwork, Work.unitOf]

/-- The cores of a machine with nothing left to do stand in rising order: the end of a takeback window
(R348) writes every listed core back, and leaves the table as it is. -/
theorem tsorted_of_forcedTurn_none (hn : (tkeys s.cores).Nodup) (hr : s.work.running = true)
    (h : forcedTurn s = none) : tsorted s.cores = true := by
  obtain ⟨-, hfirst⟩ := timedTurn_none hr (forcedTurn_none h)
  refine tsorted_of_tput_fixed (d := Core.init) hn fun c hc => ?_
  have hsame := firstEvent_none hfirst (tbwinRestart_mem_timed hc) rfl (unitTurn_tbwinRestart c s)
  exact ⟨_, congrArg (·.cores) hsame⟩

/-- Where nothing comes from outside the package takes a turn. -/
theorem step_own (ha : s.agenda = []) : step s = planTurn s := by
  unfold step turn
  rw [ha]

/-- The turn that the plan asks for is the edge, and nothing goes before it. -/
theorem step_edge {plan : List Turn} (ha : s.agenda = []) (hp : s.plan = .edge :: plan)
    (hr : s.work.running = true) (h : forcedTurn s = none) :
    step s = edgeTurn { s with plan := plan } := by
  rw [step_own ha]
  unfold planTurn
  simp only [hr, hp, h, Bool.not_true, Bool.false_eq_true, if_false]

/-- No freeze and no recorded arrival comes before the next edge. -/
theorem edgeTurn_edge (hr : s.work.running = true) (hd : s.work.dueEntry = none)
    (hs : s.work.stopDue = false) (hf : s.obs.freezeDue = false) (hst : s.work.starved = false) :
    edgeTurn s = .next (commit (settle s) (settle s).work.edge) := by
  unfold edgeTurn
  simp [hr, hd, hs, hf, hst]

/-- A stopped machine takes no turn of its own. -/
theorem step_of_stopped (ha : s.agenda = []) (hr : s.work.running = false) : step s = .next s := by
  rw [step_own ha]
  unfold planTurn
  simp [hr]

/-- R378: the gates close when they have nothing to admit. -/
theorem step_closes_gates (ha : s.agenda = []) (hr : s.work.running = true)
    (hd : s.work.dueEntry = none) (he : s.obs.edgeNew = true) (hg : s.obs.gates = [])
    (hp : s.plan = []) : step s = .next (closeGates s) := by
  have hgate : gateTurn s = some (.next (closeGates s)) := by
    unfold gateTurn
    simp [hd, he, gateNext_of_no_gates (w := s.work) hg]
  have htimed : timedTurn s = some (.next (closeGates s)) := by
    unfold timedTurn
    simp [hr, hgate]
  rw [step_own ha]
  unfold planTurn idleTurn
  simp [hr, hp, htimed]

end Sys2Proof.Machine
end

section
/-!
SUPPORT. The statements of the machine's turns and of its reset, settled.
-/

namespace Sys2Proof.Machine

/-! ## Turns -/

/-- R376, R385: what arrives while the machine does not run is dropped or waits. -/
theorem arrival_while_stopped (s : State) (i : Instr) (rest : List Outside)
    (ha : s.agenda = .act i :: rest) (ho : observes i = false) (hr : s.work.running = false)
    (hu : s.work.unclocked i = false) :
    (arrivalPort i = none ∨ s.phase = .inReset ∨ s.phase = .failed ∨ s.work.repMode = 1 →
      step s = .next { s with agenda := rest }) ∧
    ∀ p, arrivalPort i = some p → p ≠ 27 → s.phase = .booting ∨ s.phase = .ready →
      s.work.repMode ≠ 1 →
      ∃ t, step s = .next t ∧ t.mem = s.mem ∧ t.toPkg = s.toPkg ∧
        tget [] p t.obs.gates = tget [] p s.obs.gates ++ [i] := by
  have hstep : step s = actTurn i { s with agenda := rest } :=
    step_act ha fun h => absurd h (by simp [hr])
  refine ⟨fun h => hstep.trans (actTurn_of_no_gate ho hr hu h), fun p hp h27 hphase hm => ?_⟩
  exact ⟨_, hstep.trans (actTurn_of_frozen ho hr hu hp h27 hphase hm), rfl, rfl,
    gates_waitGate _ i h27⟩

/-- R378: at gates where nothing waits one arrival is admitted, or waits. -/
theorem arrival_at_gate (s : State) (i : Instr) (rest : List Outside) (p : Nat)
    (ha : s.agenda = .act i :: rest) (ho : observes i = false) (hr : s.work.running = true)
    (hm : s.work.repMode ≠ 1) (hp : arrivalPort i = some p) (hc : caughtCore i = none)
    (hg : s.obs.gates = []) :
    (s.work.recording = false → s.obs.edgeNew = true →
      (∀ at_ q, s.obs.admitted = some (at_, q) → at_ ≠ s.tempo ∨ q < gatePlace i p) →
      ∃ t, step s = exec i t ∧ t.mem = s.mem ∧ t.toPkg = s.toPkg ∧ t.agenda = rest ∧
        t.obs.admitted = some (s.tempo, gatePlace i p)) ∧
    (s.obs.edgeNew = false ∨ (∃ q, s.obs.admitted = some (s.tempo, q) ∧ gatePlace i p ≤ q) →
      ∃ t, step s = .next t ∧ t.mem = s.mem ∧ t.toPkg = s.toPkg ∧
        tget [] p t.obs.gates = [i]) := by
  have hstep : step s = arrive i p { s with agenda := rest } :=
    (step_act ha fun _ => beforeArrival_of_no_gates hg).trans (actTurn_of_running ho hp hr)
  constructor
  · intro hrec he hadm
    have hpassed : ¬ s.obs.passed s.tempo (gatePlace i p) := by
      rintro ⟨q, hq, hle⟩
      rcases hadm s.tempo q hq with h | h
      · exact h rfl
      · omega
    have hopen := enterGate_open (w := ({ s with agenda := rest } : State).work) hg he hrec hc hpassed
    exact ⟨_, hstep.trans (arrive_admitted hm hopen), rfl, rfl, rfl, rfl⟩
  · intro h
    exact ⟨_, hstep.trans (arrive_waits hm (enterGate_closed h)), rfl, rfl,
      gates_waitGate_first i p hg⟩

/-- R3, R376: a master edge at which nothing is left to do. -/
theorem master_edge (s : State) (rest : List Turn) (ha : s.agenda = []) (hp : s.plan = .edge :: rest)
    (hn : (tkeys s.cores).Nodup) (hr : s.work.running = true) (hforced : forcedTurn s = none)
    (hstop : s.work.stopDue = false) (hfreeze : s.obs.freezeDue = false)
    (hstarved : s.work.starved = false) :
    ∃ t, step s = .next t ∧ t.plan = rest ∧ t.tempo = (s.tempo + 1) % 2 ^ 64 ∧
      t.obs.edgeNew = true ∧
      ∀ c k, tfind c s.cores = some k →
        (t.work.core c).cycle = k.cycle + if hasEdge k.edges t.tempo then 1 else 0 := by
  have hdue := gateTurn_none (timedTurn_none hr (forcedTurn_none hforced)).1
  have hsorted := tsorted_of_forcedTurn_none hn hr hforced
  have hkept := clocksKept_settle { s with plan := rest }
  have hstep : step s = .next (commit (settle { s with plan := rest })
      (settle { s with plan := rest }).work.edge) :=
    (step_edge ha hp hr hforced).trans
      (edgeTurn_edge (s := { s with plan := rest }) hr hdue hstop hfreeze hstarved)
  generalize settle { s with plan := rest } = u at hkept hstep
  obtain ⟨hplan, htempo, hnew⟩ := edge_package u.work
  refine ⟨_, hstep, hplan.trans hkept.plan, ?_, hnew, fun c k hk => ?_⟩
  · exact htempo.trans (congrArg (fun n => (n + 1) % 2 ^ 64) hkept.tempo)
  · obtain ⟨k', hk', hcycle, hedges⟩ := hkept.listed c k hk
    have hcore := edge_cycle (w := u.work) (hkept.sorted hsorted) hk'
    rw [hcycle, hedges] at hcore
    exact hcore

/-- Settles O59: each part is a turn of its own; at an edge the groups held in the ending cycle keep
the clocks, and the cores stand in rising order, so that each begins one cycle. -/
theorem machineTurns : Obligations.MachineTurns := by
  unfold Obligations.MachineTurns
  refine ⟨fun s => step_of_stopped, arrival_while_stopped, arrival_at_gate, ?_,
    fun s => step_closes_gates, master_edge⟩
  intro s i rest p ha ho hr hm hp h27 hc
  exact (step_act ha fun _ => beforeArrival_of_replay hm).trans
    ((actTurn_of_running (s := { s with agenda := rest }) ho hp hr).trans
      (arrive_of_replay hm h27 hc))

/-! ## Reset -/

theorem core_reset (c : Nat) : State.reset.work.core c = Core.init := rfl

theorem cluster_reset (c : Nat) : State.reset.work.cluster c = Cluster.init := rfl

/-- R15: at reset a core holds its supervisor group, and no other. -/
theorem grp_reset (c n : Nat) :
    State.reset.work.grp c n = if n = 0 then some Group.supervisor else none := by
  unfold Work.grp
  rw [core_reset]
  simp only [Core.init, tfind, eq_comm]

/-- Settles O58: the fields of the state, and of each core, cluster, queue and key entry, at reset. -/
theorem resetValues : Obligations.ResetValues := by
  unfold Obligations.ResetValues
  refine ⟨rfl, rfl, rfl, rfl, rfl, rfl, rfl, fun _ => rfl, fun c => ?_, fun c => ?_, fun c => ?_,
    fun c n hn => ?_, fun _ => rfl, rfl, rfl, rfl, rfl, rfl, rfl⟩
  · rw [cluster_reset]
    exact ⟨rfl, rfl, rfl, rfl, rfl⟩
  · rw [core_reset]
    exact ⟨rfl, rfl, rfl, rfl, rfl, rfl, rfl, rfl⟩
  · exact ⟨Group.supervisor, grp_reset c 0, rfl, rfl, rfl, rfl, rfl, rfl⟩
  · rw [grp_reset, if_neg hn]

end Sys2Proof.Machine
end

section
/-!
PROOFS. The end of a grid (R35, R306): a flush at the end may raise flags of the grid (R221), which
its completion object shows and the launch before the flush does not.
-/

namespace Sys2Proof.Machine

open Sys2Proof.Claim

/-- What holds of the default and of every value listed holds at every key. -/
theorem tget_of_listed {α : Type} {d : α} {P : α → Prop} {t : Tab α} (hd : P d)
    (h : ∀ p ∈ t, P p.2) (k : Nat) : P (tget d k t) := by
  unfold tget
  cases hk : tfind k t with
  | none => exact hd
  | some v => exact h _ (mem_of_tfind hk)

/-- No unit holds an update where no unit listed does. -/
theorem unit_held_of_listed {w : Work} (h : ∀ p ∈ w.dies, ∀ q ∈ p.2.units, q.2.held = [])
    (d u : Nat) : (w.unit d u).held = [] :=
  tget_of_listed (P := fun x : Unit => x.held = []) rfl
    (tget_of_listed (P := fun x : Die => ∀ q ∈ x.units, q.2.held = []) (by simp [Die.init]) h d) u

/-- Every sector reads under a key where every sector listed was written under it. -/
theorem sectorOk_of_listed {w : Work} {key : Nat} (h : ∀ p ∈ w.keyed, p.2 = (w.keyEnt key).pair)
    (sec : Nat) : w.sectorOk key sec = true := by
  unfold Work.sectorOk
  cases hk : tfind sec w.keyed with
  | none => rfl
  | some k => exact decide_eq_true (h _ (mem_of_tfind hk))

theorem pair_of_fst {α β : Type} {p : α × β} {a : α} (h : p.1 = a) : p = (a, p.2) := h ▸ rfl

/-- Near memory after an outcome that is a next state. -/
def memAfter : Host.Outcome State Fault Refusal → List Host.Cell
  | .next t => t.mem
  | _ => []

/-- A launch without teams whose signatures are published; its completion object is at 0x40000. -/
def endingLaunch : Launch :=
  { record := 0x40000#1024 <<< 320, addr := 0, pri := 0, owner := 0, placed := 0
    retired := 0, complete := false, gangp := 0, gangf := 0, dropped := 0, rflags := 0, gen := 0
    swap := false, waitFull := false, heldAm := [], bookPos := 0, cores := [], gone := []
    published := true }

/-- An F32 update of that grid, held at 0x60000: its sum with 1.0 is inexact. -/
def inexactHeld : Held :=
  { addr := 0x60000, launch := 1, ety := 1, pk := 0
    upds := [{ key := [], operand := 0x30800000, op := 0, core := 0 }]
    exact := false, entry := 0, pool := [], spill := none }

/-- The grid is about to end. Owner 0 has the first GiB mapped to itself; 0x60000 holds 1.0. -/
def endingGrid : State :=
  { State.reset with
    keys := [(0, { KeyEnt.init with valid := true })]
    launches := [(1, endingLaunch)]
    dies := [(0, { Die.init with units := [(0, { Unit.init with held := [inexactHeld] })] })]
    mem := [(2, 2), (6, 0x10), (0x20000, 1), (0x20002, 3), (0x30000, 0x0F), (0x60002, 0x80),
      (0x60003, 0x3F)] }

/-- The machine when the grid's updates are flushed and its retention windows are gone. -/
def flushedGrid : Work :=
  { endingGrid.work.flushAll 1 false with
    dies := tmap (fun _ (d : Die) =>
      { d with rtw := tfilter (fun _ p => decide (p.launch ≠ 1)) d.rtw })
      (endingGrid.work.flushAll 1 false).dies }

/-- Where its completion object goes. -/
def endingPage : Option (Nat × Nat) × Work :=
  flushedGrid.distPage endingLaunch.owner (lrCpl endingLaunch.record) 64 .store

theorem endingPage_found : endingPage = (some (0x40000, 0), endingPage.2) :=
  pair_of_fst (by decide +kernel)

/-- Nothing is held, shared out, or under another key when the object is written. -/
theorem endingPage_plain :
    (endingPage.2.place 0x40000).isNear = true ∧ endingPage.2.sharedOut = [] ∧
      (∀ p ∈ endingPage.2.dies, ∀ q ∈ p.2.units, q.2.held = []) ∧
      ∀ p ∈ endingPage.2.keyed, p.2 = (endingPage.2.keyEnt 0).pair := by decide +kernel

/-- The object shows NX, which the flush has raised. -/
theorem gridEnd_shows_inexact :
    memRead (memAfter (exec (.gridEnd 1) endingGrid)) (0x40000 + 8) = 16 := by decide +kernel

/-- Refutes O34: the completion object of a grid's end holds the flags as the flush of its held
updates leaves them; the statement has those of the launch before the flush. In `endingGrid` the
flush raises NX. -/
theorem not_retirement : ¬ Obligations.Retirement := by
  unfold Obligations.Retirement
  rintro ⟨-, -, hend⟩
  obtain ⟨-, hfinal⟩ := hend endingGrid 1 endingLaunch rfl rfl (by decide +kernel)
    (by decide +kernel)
  obtain ⟨t, -, hexec, -, -, -, -, hwrites⟩ := hfinal rfl (by decide +kernel)
  obtain ⟨hnear, hshared, hheld, hkeyed⟩ := endingPage_plain
  have hbyte := hwrites (by decide +kernel) 0x40000 0 endingPage.2 endingPage_found hnear (unit_held_of_listed hheld) hshared
    (sectorOk_of_listed hkeyed) (0x40000 + 8)
  have hnx := gridEnd_shows_inexact
  rw [hexec, memAfter, hbyte] at hnx
  revert hnx
  decide +kernel

end Sys2Proof.Machine
end

section
/-!
PROOFS. The admission of a launch (R303, R304): a read of the distributor flushes held updates
(R370), whose flags (R221) rewrite the launch that issued them, in its place among the launches.

The kernel opens a match before the function whose body it is, and would then run a walk of the page
tables with free variables. So a definition that matches what the distributor reads is opened as a
function (`conv … delta`, `takeFirst`), not at its arguments.
-/

namespace Sys2Proof.Machine

open Sys2Proof.Claim

/-- The launches after an outcome that is a next state. -/
def launchesAfter : Host.Outcome State Fault Refusal → Tab Launch
  | .next t => t.launches
  | _ => []

/-- What a read of the distributor leaves, and the number read. -/
def DistRead.answer : DistRead → Option (Work × Nat)
  | .ok w v => some (w, v)
  | _ => none

/-- What a refusal leaves, and its code. -/
def Check.refusal : Check → Option (Work × Nat)
  | .refuse w code => some (w, code)
  | _ => none

theorem Check.eq_refuse {x : Check} {w : Work} {code : Nat} (h : x.refusal = some (w, code)) :
    x = .refuse w code := by
  cases x with
  | refuse w' code' => cases h; rfl
  | pass w' => cases h
  | wait w' => cases h

/-- A launch that is complete. -/
def pastLaunch : Launch :=
  { record := 0, addr := 0, pri := 0, owner := 0, placed := 0, retired := 0, complete := true
    gangp := 0, gangf := 0, dropped := 0, rflags := 0, gen := 0, swap := false, waitFull := false
    heldAm := [], bookPos := 0, cores := [], gone := [] }

/-- An I32 update of launch 3, held at the entry of the queue that is to be read. -/
def queuedHeld : Held :=
  { addr := 0x40000, launch := 3, ety := 0, pk := 0
    upds := [{ key := [], operand := 0, op := 0, core := 0 }]
    exact := false, entry := 0, pool := [], spill := none }

/-- Queue 0 holds a record at 0x50000 that has no team, its completion object at 0x60000. Owner 0 has
the first GiB mapped to itself. Launch 5 is listed before launch 3. -/
def refusing : State :=
  { State.reset with
    keys := [(0, { KeyEnt.init with valid := true })]
    queues := [(0, { base := 0x40000, ctl := 0x46, head := 0, tail := 1 })]
    launches := [(5, pastLaunch), (3, pastLaunch)]
    dies := [(0, { Die.init with units := [(2, { Unit.init with held := [queuedHeld] })] })]
    mem := [(2, 2), (6, 0x10), (0x20000, 1), (0x20002, 3), (0x30000, 0x0F), (0x40002, 5),
      (0x5002A, 6)] }

/-- The work and the number of a read that succeeds; the work before it otherwise. -/
def DistRead.work (w : Work) (x : DistRead) : Work := (x.answer.map (·.1)).getD w
def DistRead.number (x : DistRead) : Nat := (x.answer.map (·.2)).getD 0

theorem DistRead.eq_ok_of_isSome {x : DistRead} (w : Work) (h : x.answer.isSome = true) :
    x = .ok (x.work w) x.number := by
  cases x with
  | ok w' v' => rfl
  | wait w' => cases h
  | fail => cases h

/-- The queue that is served. -/
def refusingQueue : Queue := refusing.work.queue 0

/-- The head entry, its record, the page of the completion object, and the checks of the record. -/
def refusingEntry : DistRead :=
  refusing.work.distGet refusingQueue.owner
    (refusingQueue.base + 8 * (refusingQueue.head % refusingQueue.size)) 8
def refusingRead : DistRead :=
  (refusingEntry.work refusing.work).distGet refusingQueue.owner 0x50000 128
def refusingRecord : BitVec 1024 := BitVec.ofNat 1024 refusingRead.number
def refusingPage : Option (Nat × Nat) × Work :=
  (refusingRead.work refusing.work).distPage refusingQueue.owner (lrCpl refusingRecord) 64 .store
def refusingCheck : Check := refusingPage.2.checkRecord 0 refusingQueue.owner refusingRecord

theorem refusingEntry_read : refusingEntry.answer.isSome = true ∧ refusingEntry.number = 0x50000 := by
  decide +kernel
theorem refusingRead_read : refusingRead.answer.isSome = true := by decide +kernel
theorem refusingPage_found :
    lrCpl refusingRecord % 64 = 0 ∧ refusingPage.1 = some (0x60000, 0) := by decide +kernel
theorem refusingCheck_refuses : refusingCheck.refusal.map (·.2) = some 3 := by decide +kernel

/-- What the checks leave. -/
def refusingChecked : Work := (refusingCheck.refusal.map (·.1)).getD refusing.work

/-- The completion object of the refused record. -/
def refusingObject : Completion := { status := 3, done := true, tend := refusingChecked.tempo }

theorem launches_foldl_modCore (f : Core → Core) (l : List Nat) (w : Work) :
    (l.foldl (fun w c => w.modCore c f) w).launches = w.launches := by
  induction l generalizing w with
  | nil => rfl
  | cons c l ih => exact ih (w.modCore c f)

theorem launches_inbAll (w : Work) (secs : List Nat) : (w.inbAll secs).launches = w.launches := by
  unfold Work.inbAll
  rw [launches_foldl_modCore]

theorem launches_reread (w : Work) (p : Queue → Bool) (lines : Nat → Bool) :
    (w.reread p lines).launches = w.launches := rfl

theorem distPut_eq : Work.distPut = fun w owner va data =>
    match w.distPage owner va data.length .store with
    | (none, w) => w
    | (some (pa, key), w) =>
      let q := w.engineWrite 0 distUnit 0 0 3 false [{ pa, len := data.length, key }] data
      q.1.inbAll ((upto data.length pa).map (· / 32)).eraseDups := rfl

theorem launches_putCompletion {w w' : Work} {owner cpl pa key : Nat} {c : Completion}
    (h : w.distPage owner cpl c.bytes.length .store = (some (pa, key), w')) :
    (w.putCompletion owner cpl c).launches =
      (w'.engineWrite 0 distUnit 0 0 3 false [{ pa, len := c.bytes.length, key }] c.bytes).1.launches := by
  rw [Work.putCompletion, launches_reread, distPut_eq]
  simp only [h, launches_inbAll]

theorem launches_distDrop (w : Work) : w.distDrop.launches = w.launches := by
  unfold Work.distDrop
  split <;> rfl

theorem refusing_queueOrder : refusing.work.queueOrder = [0] := by decide +kernel
theorem refusing_openLaunches : refusing.work.openLaunches < 64 := by decide +kernel

/-- Where its completion object goes. -/
def refusingTarget : Option (Nat × Nat) × Work :=
  (refusingChecked.consume 0 false).distPage refusingQueue.owner (lrCpl refusingRecord)
    refusingObject.bytes.length .store

theorem refusingTarget_eq : (refusingChecked.consume 0 false).distPage refusingQueue.owner
    (lrCpl refusingRecord) refusingObject.bytes.length .store = (some (0x60000, 0), refusingTarget.2) :=
  pair_of_fst (p := refusingTarget) (by decide +kernel)

/-- The flush has put launch 3 before launch 5 a second time. -/
theorem refusing_rekeyed :
    tkeys (refusingTarget.2.engineWrite 0 distUnit 0 0 3 false
      [{ pa := 0x60000, len := refusingObject.bytes.length, key := 0 }]
      refusingObject.bytes).1.launches = [3, 5, 3] := by decide +kernel

theorem refusingEntry_eq : refusing.work.distGet refusingQueue.owner
    (refusingQueue.base + 8 * (refusingQueue.head % refusingQueue.size)) 8 =
    .ok (refusingEntry.work refusing.work) 0x50000 := by
  have h := DistRead.eq_ok_of_isSome refusing.work refusingEntry_read.1
  rwa [refusingEntry_read.2] at h

theorem refusingRead_eq :
    (refusingEntry.work refusing.work).distGet refusingQueue.owner 0x50000 128 =
    .ok (refusingRead.work refusing.work) refusingRead.number :=
  DistRead.eq_ok_of_isSome _ refusingRead_read

theorem refusingPage_eq :
    (refusingRead.work refusing.work).distPage refusingQueue.owner (lrCpl refusingRecord) 64 .store =
    (some (0x60000, 0), refusingPage.2) :=
  pair_of_fst refusingPage_found.2

theorem refusingCheck_eq : refusingPage.2.checkRecord 0 refusingQueue.owner refusingRecord = .refuse refusingChecked 3 := by
  apply Check.eq_refuse
  have h := refusingCheck_refuses
  unfold refusingChecked
  change refusingCheck.refusal = _
  cases hr : refusingCheck.refusal with
  | none => rw [hr] at h; cases h
  | some p => rw [hr] at h; cases p; cases h; rfl

theorem refusing_queue : (refusingRead.work refusing.work).queue 0 = refusingQueue := by decide +kernel

theorem admitRecord_of_refuse {w w1 w2 : Work} {q addr code : Nat} {r : BitVec 1024}
    {x : Queue} {page : Nat × Nat} (haligned : lrCpl r % 64 = 0)
    (hx : w.queue q = x) (hpage : w.distPage x.owner (lrCpl r) 64 .store = (some page, w1))
    (hcheck : w1.checkRecord q x.owner r = .refuse w2 code) :
    w.admitRecord q addr r =
      .taken ((w2.consume q false).putCompletion x.owner (lrCpl r)
        { status := code, done := true, tend := w2.tempo }) := by
  unfold Work.admitRecord
  simp [hx, hpage, hcheck, haligned]

theorem admitHead_of_record {w w1 w2 : Work} {q e v : Nat} {x : Queue}
    (hx : w.queue q = x) (he : e < 2 ^ 52) (ha : e % 128 = 0)
    (hentry : w.distGet x.owner (x.base + 8 * (x.head % x.size)) 8 = .ok w1 e)
    (hread : w1.distGet x.owner e 128 = .ok w2 v) :
    w.admitHead q = w2.admitRecord q e (BitVec.ofNat 1024 v) := by
  have hdef : Work.admitHead = Work.admitHead := rfl
  conv at hdef => rhs; delta Work.admitHead
  rw [hdef]
  simp only [hx, hentry, hread, Nat.not_le.2 he, ha, ne_eq, not_true, or_self, if_false]

/-- `Work.admitFirst` for any examination of a head: the kernel would run the one of the model. -/
def takeFirst (head : Work → Nat → HeadEnd) (w : Work) : List Nat → Work
  | [] => w
  | q :: t =>
    match head w q with
    | .wait w => takeFirst head w t
    | .taken w => { w.distDrop with admitAt := w.tempo + 1 }

theorem admitFirst_eq_takeFirst : Work.admitFirst = takeFirst Work.admitHead := by
  delta Work.admitFirst Work.admitFirst._f takeFirst takeFirst._f
  rfl

theorem launches_takeFirst_of_taken {head : Work → Nat → HeadEnd} {w w' : Work} {q : Nat}
    {t : List Nat} (h : head w q = .taken w') :
    (takeFirst head w (q :: t)).launches = w'.launches := by
  rw [takeFirst, h]
  exact launches_distDrop w'

/-- R304: the distributor takes a turn at which no launch is too many. -/
theorem launchesAfter_launchAdmit {s : State} (h32 : s.tempo % 32 = 0) (hat : s.admitAt ≤ s.tempo)
    (hopen : s.work.openLaunches < 64) :
    launchesAfter (exec .launchAdmit s) =
      (takeFirst Work.admitHead s.work s.work.queueOrder).launches := by
  have hturn : ¬(s.tempo % 32 ≠ 0 ∨ s.tempo < s.admitAt ∨ 64 ≤ s.work.openLaunches) := by omega
  rw [← admitFirst_eq_takeFirst]
  exact congrArg (fun w : Work => w.launches) (if_neg hturn)

theorem refusing_admitHead : refusing.work.admitHead 0 =
    (refusingRead.work refusing.work).admitRecord 0 0x50000 refusingRecord :=
  admitHead_of_record (x := refusingQueue) rfl (by decide) (by decide) refusingEntry_eq
    refusingRead_eq

theorem refusing_admitRecord :
    (refusingRead.work refusing.work).admitRecord 0 0x50000 refusingRecord =
      .taken ((refusingChecked.consume 0 false).putCompletion refusingQueue.owner
        (lrCpl refusingRecord) refusingObject) :=
  admitRecord_of_refuse refusingPage_found.1 refusing_queue refusingPage_eq refusingCheck_eq

theorem refusing_launches : tkeys (launchesAfter (exec .launchAdmit refusing)) = [3, 5, 3] := by
  rw [launchesAfter_launchAdmit (by decide) (by decide) refusing_openLaunches, refusing_queueOrder,
    launches_takeFirst_of_taken (refusing_admitHead.trans refusing_admitRecord),
    launches_putCompletion refusingTarget_eq, refusing_rekeyed]

/-- Refutes O33: the launches of `refusing` do not stand in rising order, and the read of the head
entry flushes an update of one of them, whose flags go to a second entry; the statement has the keys
as they were. -/
theorem not_admissionAndPlacement : ¬ Obligations.AdmissionAndPlacement := by
  unfold Obligations.AdmissionAndPlacement
  rintro ⟨hadmission, -⟩
  have hturn := hadmission refusing 0 [] (refusingEntry.work refusing.work) 0x50000
    (refusingRead.work refusing.work) refusingRead.number (0x60000, 0) refusingPage.2 (by decide)
    (by decide) refusing_openLaunches refusing_queueOrder
  rw [show refusing.work.queue 0 = refusingQueue from rfl,
    show BitVec.ofNat 1024 refusingRead.number = refusingRecord from rfl] at hturn
  obtain ⟨-, hrefuse⟩ := hturn refusingEntry_eq (by decide) (by decide) refusingRead_eq
    refusingPage_found.1 refusingPage_eq
  obtain ⟨t, hexec, hkeys, -⟩ := hrefuse _ _ refusingCheck_eq
  have hlaunches := refusing_launches
  rw [hexec, launchesAfter, hkeys] at hlaunches
  exact absurd hlaunches (by decide)

end Sys2Proof.Machine
end

section
/-!
SUPPORT. Groups, cores, teams and launches after the operations that the earlier laws do not name: a
group that is changed where it stands, one that an event makes able to run (R18, R321), and the table
entries of teams and launches.
-/

namespace Sys2Proof.Machine

/-! ## Folds -/

/-- The last put that hits decides what is read, where no two different ones hit. -/
theorem foldl_written {σ α : Type} {get : σ → α} {put : σ → Nat → σ} {hit : Nat → Prop}
    [DecidablePred hit] {val : Nat → α}
    (hput : ∀ s j, get (put s j) = if hit j then val j else get s) {i : Nat} (hi : hit i)
    {l : List Nat} (h : ∀ j ∈ l, hit j → j = i) (s : σ) :
    get (l.foldl put s) = if i ∈ l then val i else get s := by
  induction l generalizing s with
  | nil => simp
  | cons j l ih =>
    rw [List.foldl_cons, ih fun k hk => h k (List.mem_cons_of_mem j hk), hput]
    by_cases hil : i ∈ l
    · simp [hil]
    · by_cases hj : i = j
      · subst hj
        simp [hil, hi]
      · have hno : ¬hit j := fun e => hj (h j List.mem_cons_self e).symm
        simp [hil, hj, hno]

/-- No put hits. -/
theorem foldl_unwritten {σ α β : Type} {get : σ → α} {put : σ → β → σ} {l : List β}
    (hput : ∀ s, ∀ j ∈ l, get (put s j) = get s) (s : σ) : get (l.foldl put s) = get s := by
  induction l generalizing s with
  | nil => rfl
  | cons j l ih =>
    rw [List.foldl_cons, ih fun s k hk => hput s k (List.mem_cons_of_mem j hk)]
    exact hput s j List.mem_cons_self

/-! ## Tables -/

theorem tfind_tmod {α : Type} (k j : Nat) (f : α → α) (t : Tab α) :
    tfind j (tmod k f t) = if j = k then (tfind k t).map f else tfind j t := by
  unfold tmod
  split
  · next v hv =>
    rw [tfind_tins, hv]
    rfl
  · next hv =>
    split
    · next e => rw [e, hv]; rfl
    · rfl

theorem team_setTeam (w : Work) (t : Team) (l i : Nat) :
    (w.setTeam t).team l i = if teamKey l i = teamKey t.launch t.lin then some t else w.team l i :=
  tfind_tins _ _ _ _

@[simp] theorem team_setTeam_same (w : Work) (t : Team) :
    (w.setTeam t).team t.launch t.lin = some t := by simp [team_setTeam]

theorem launch_modLaunch (w : Work) (l j : Nat) (f : Launch → Launch) :
    (w.modLaunch l f).launch? j = if j = l then (w.launch? l).map f else w.launch? j :=
  tfind_tmod _ _ _ _

/-! ## Groups -/

theorem grp_setCore (w : Work) (c d m : Nat) (k : Core) :
    (w.setCore c k).grp d m = if d = c then tfind m k.groups else w.grp d m := by
  unfold Work.grp
  rw [core_setCore]
  split <;> rfl

/-- A change of a core that is none of its groups. -/
theorem grp_setCore_of_groups {w : Work} {c : Nat} {k : Core} (h : k.groups = (w.core c).groups)
    (d m : Nat) : (w.setCore c k).grp d m = w.grp d m := by
  rw [grp_setCore]
  split
  · next e => rw [h, e]; rfl
  · rfl

theorem grp_modCore_of_groups {w : Work} {c : Nat} {f : Core → Core}
    (h : (f (w.core c)).groups = (w.core c).groups) (d m : Nat) :
    (w.modCore c f).grp d m = w.grp d m := grp_setCore_of_groups h d m

theorem grp_modGrp (w : Work) (c n d m : Nat) (f : Group → Group) :
    (w.modGrp c n f).grp d m = if d = c ∧ m = n then (w.grp c n).map f else w.grp d m := by
  unfold Work.modGrp
  split
  · next g hg =>
    rw [grp_setGrp, hg]
    rfl
  · next hg =>
    split
    · next e => rw [e.1, e.2, hg]; rfl
    · rfl

theorem core_modGrp_rest (w : Work) (c n d : Nat) (f : Group → Group) :
    ((w.modGrp c n f).core d).rest = (w.core d).rest := by
  unfold Work.modGrp
  split
  · exact core_setGrp_rest _ _ _ _ _
  · rfl

@[simp] theorem log_modGrp (w : Work) (c n : Nat) (f : Group → Group) :
    (w.modGrp c n f).log = w.log := by
  unfold Work.modGrp
  split <;> rfl

/-! ## An event makes a group able to run (R321) -/

/-- A group of core `c` that an event makes able to run: in an idle cluster it waits for admission. -/
def Work.woken (w : Work) (c : Nat) (g : Group) : Group :=
  if w.idle (Config.clusterOf c) then { g with slewed := true } else g

/-- The machine but for its cores and dies. -/
def Mach.central (m : Mach) : Mach := { m with cores := [], dies := [] }

theorem grp_gate (w : Work) (c n key d m : Nat) :
    (w.gate c n key).grp d m = if d = c ∧ m = n then (w.grp c n).map (w.woken c) else w.grp d m := by
  unfold Work.gate
  dsimp only
  split
  · next h =>
    refine (grp_modGrp w c n d m fun g => { g with slewed := true }).trans ?_
    rw [show w.woken c = fun g => { g with slewed := true } from funext fun _ => if_pos h]
  · next h =>
    split
    · next e =>
      rw [show w.woken c = id from funext fun _ => if_neg h, Option.map_id, e.1, e.2]
      rfl
    · rfl

theorem core_gate_rest (w : Work) (c n key d : Nat) :
    ((w.gate c n key).core d).rest = (w.core d).rest := by
  unfold Work.gate
  dsimp only
  split
  · exact core_modGrp_rest w c n d fun g => { g with slewed := true }
  · rfl

theorem central_gate (w : Work) (c n key : Nat) :
    (w.gate c n key).toMach.central = w.toMach.central := by
  unfold Work.gate Work.modGrp
  dsimp only
  split
  · split <;> rfl
  · rfl

@[simp] theorem log_gate (w : Work) (c n key : Nat) : (w.gate c n key).log = w.log := by
  unfold Work.gate
  dsimp only
  split
  · exact log_modGrp w c n fun g => { g with slewed := true }
  · rfl

/-! ## A group is placed (R315) -/

/-- A core but for its groups, the issue slots of its cycle, the results on their way and the order of
return. -/
def Core.offSeats (k : Core) : Core := { k.rest with xcs := [], returned := [] }

theorem offSeats_of_rest {k l : Core} (h : k.rest = l.rest) : k.offSeats = l.offSeats :=
  congrArg (fun k : Core => { k with xcs := [], returned := [] }) h

theorem core_modCore_offSeats {w : Work} {c : Nat} {f : Core → Core}
    (h : ∀ k, (f k).offSeats = k.offSeats) (d : Nat) :
    ((w.modCore c f).core d).offSeats = (w.core d).offSeats := by
  rw [core_modCore]
  split
  · next e => rw [h, e]
  · rfl

/-- A group but for its quarter, its issue entry and when it may issue. -/
def Group.offSeat (g : Group) : Group :=
  { g with qbase := 0, entry := false, parked := false, born := 0, readyAt := 0, slewed := false }

theorem offSeat_woken (w : Work) (c : Nat) (g : Group) : (w.woken c g).offSeat = g.offSeat := by
  unfold Work.woken
  split <;> rfl

/-- A group with the quarter that it binds to (R16), and an issue entry where one is free. -/
def Work.seated (w : Work) (c : Nat) (g : Group) : Group :=
  let k := w.core c
  let now := decide (k.entriesUsed < Config.entries) && k.returned.isEmpty
  { g with
    qbase := k.bind g.width, entry := now, parked := !now, born := k.opSeq, readyAt := k.cycle + 2 }

theorem offSeat_seated (w : Work) (c : Nat) (g : Group) : (w.seated c g).offSeat = g.offSeat := rfl

/-- A slot joins the order of return where its group has no issue entry. -/
def Work.queued (w : Work) (c n : Nat) (now : Bool) : Work :=
  if now then w else w.modCore c fun k => { k with returned := k.returned ++ [n] }

theorem placeGroup_eq (w : Work) (c n : Nat) (g : Group) :
    w.placeGroup c n g =
      (((w.modCore c fun k => { k with xcs := k.xcs.filter fun x => decide (x.2.slot ≠ n) }).setGrp c n
        (w.seated c g)).queued c n (w.seated c g).entry).gate c n (Config.clusterOf c % 12) := rfl

theorem grp_queued (w : Work) (c n d m : Nat) (b : Bool) : (w.queued c n b).grp d m = w.grp d m := by
  unfold Work.queued
  split
  · rfl
  · exact grp_modCore_of_groups (f := fun k => { k with returned := k.returned ++ [n] }) rfl d m

theorem core_queued_offSeats (w : Work) (c n d : Nat) (b : Bool) :
    ((w.queued c n b).core d).offSeats = (w.core d).offSeats := by
  unfold Work.queued
  split
  · rfl
  · refine core_modCore_offSeats (fun k => ?_) d
    rfl

/-- A group as it stands in its slot when it has been placed. -/
theorem grp_placeGroup (w : Work) (c n : Nat) (g : Group) :
    ∃ h, (w.placeGroup c n g).grp c n = some h ∧ h.offSeat = g.offSeat := by
  rw [placeGroup_eq, grp_gate, if_pos ⟨rfl, rfl⟩, grp_queued, grp_setGrp_same]
  exact ⟨_, rfl, (offSeat_woken _ _ _).trans (offSeat_seated w c g)⟩

theorem core_placeGroup_offSeats (w : Work) (c n d : Nat) (g : Group) :
    ((w.placeGroup c n g).core d).offSeats = (w.core d).offSeats := by
  rw [placeGroup_eq, offSeats_of_rest (core_gate_rest _ _ _ _ _), core_queued_offSeats,
    offSeats_of_rest (core_setGrp_rest _ _ _ _ _)]
  refine core_modCore_offSeats (fun k => ?_) d
  rfl

@[simp] theorem log_placeGroup (w : Work) (c n : Nat) (g : Group) :
    (w.placeGroup c n g).log = w.log := by
  rw [placeGroup_eq, log_gate]
  unfold Work.queued
  split <;> rfl

end Sys2Proof.Machine
end

section
/-!
SUPPORT. What a walk of the page tables and the handler table leaves alone (R33, R332, R334): the
cores, and all else of the machine but memory, its caches, the logs and the free values used.
-/

namespace Sys2Proof.Machine

/-- The machine but for what an access at its home changes, the logs and the free values used. -/
def Work.offRead (w : Work) : Mach :=
  { w.offHome with obs := State.reset.obs, errlog := [], errNext := 0, errCount := 0, fresh := 0 }

theorem offRead_of_offHome {v w : Work} (h : v.offHome = w.offHome) : v.offRead = w.offRead := by
  unfold Work.offRead
  rw [h]

theorem offRead_foldl {β : Type} (f : Work → β → Work) (h : ∀ w x, (f w x).offRead = w.offRead)
    (l : List β) (w : Work) : (l.foldl f w).offRead = w.offRead := by
  induction l generalizing w with
  | nil => rfl
  | cons x l ih => exact (ih _).trans (h w x)

theorem offRead_logError (w : Work) (unit : Nat) (unc : Bool) (where_ addr bit : Nat) :
    (w.logError unit unc where_ addr bit).offRead = w.offRead := by
  unfold Work.logError
  dsimp only
  split <;> rfl

theorem offRead_logLine (w : Work) (line : Nat) : (w.logLine line).offRead = w.offRead := by
  unfold Work.logLine
  split
  · exact offRead_logError _ _ _ _ _ _
  · rfl

theorem offRead_logLines (w : Work) (l : List Nat) : (w.logLines l).offRead = w.offRead :=
  offRead_foldl _ (fun w n => offRead_logLine w n) _ w

theorem offRead_farData (w : Work) (n : Nat) : (w.farData n).2.offRead = w.offRead := by
  have fold : ∀ (l : List Nat) (q : List Byte × Work), q.2.offRead = w.offRead →
      (l.foldl (fun (q : List Byte × Work) _ =>
        (q.1 ++ [q.2.draw.1.truncate 8], q.2.draw.2)) q).2.offRead = w.offRead := by
    intro l
    induction l with
    | nil => exact fun _ h => h
    | cons _ l ih => exact fun q h => ih _ h
  exact fold _ ([], w) rfl

theorem offRead_tableRead {w v : Work} {a n e : Nat} (h : w.tableRead a n = some (e, v)) :
    v.offRead = w.offRead := by
  have hdef : Work.tableRead = Work.tableRead := rfl
  conv at hdef => rhs; delta Work.tableRead
  rw [hdef] at h
  beta_reduce at h
  split at h
  · cases h
    exact (offRead_logLines _ _).trans (offRead_of_offHome (offHome_homeTouch w false false _))
  · cases h
  · cases h
  · cases h
    exact offRead_farData w n

/-- `Work.walkFrom` for any way of reading a table: the kernel would run the one of the model. -/
def walkWith (read : Work → Nat → Nat → Option (Nat × Work)) (owner va : Nat) :
    Nat → Nat → Work → WalkEnd × Work
  | 0, _, w => (.accessFault, w)
  | n + 1, tab, w =>
    match read w (tab + 8 * (va / 2 ^ (levelShift n).1 % 2 ^ (levelShift n).2)) 8 with
    | none => (.accessFault, w)
    | some (e, w) =>
      match levelEntry owner va n (BitVec.ofNat 64 e) with
      | .inl r => (r, w)
      | .inr addr => walkWith read owner va n addr w

theorem walkFrom_eq_walkWith : Work.walkFrom = walkWith Work.tableRead := by
  have hdef : Work.walkFrom = Work.walkFrom := rfl
  conv at hdef => rhs; delta Work.walkFrom Work.walkFrom._f
  obtain ⟨read, hread⟩ : ∃ f, f = Work.tableRead := ⟨_, rfl⟩
  rw [hdef, ← hread]
  delta walkWith walkWith._f
  rfl

/-- What every read of a table keeps, a walk keeps. -/
theorem walkWith_keeps {β : Type} {φ : Work → β} {read : Work → Nat → Nat → Option (Nat × Work)}
    (h : ∀ w a n e v, read w a n = some (e, v) → φ v = φ w) (owner va n tab : Nat) (w : Work) :
    φ (walkWith read owner va n tab w).2 = φ w := by
  induction n generalizing tab w with
  | zero => rfl
  | succ n ih =>
    unfold walkWith
    split
    · rfl
    · next hr =>
      split
      · exact h _ _ _ _ _ hr
      · exact (ih _ _).trans (h _ _ _ _ _ hr)

theorem offRead_rootEntry {w v : Work} {owner : Nat} {e : BitVec 256}
    (h : w.rootEntry owner = some (e, v)) : v.offRead = w.offRead := by
  have hdef : Work.rootEntry = Work.rootEntry := rfl
  conv at hdef => rhs; delta Work.rootEntry
  rw [hdef] at h
  obtain ⟨⟨e, v⟩, hroot, heq⟩ := Option.map_eq_some_iff.1 h
  cases heq
  exact offRead_tableRead hroot

theorem offRead_walkFrom (owner va n tab : Nat) (w : Work) :
    (Work.walkFrom owner va n tab w).2.offRead = w.offRead := by
  rw [walkFrom_eq_walkWith]
  exact walkWith_keeps (φ := Work.offRead) (read := Work.tableRead)
    (fun _ _ _ _ _ => offRead_tableRead) owner va n tab w

/-- R332, R333. -/
theorem offRead_walk (w : Work) (owner va : Nat) : (w.walk owner va).2.offRead = w.offRead := by
  have hdef : Work.walk = Work.walk := rfl
  conv at hdef => rhs; delta Work.walk
  obtain ⟨root, hroot⟩ : ∃ f, f = Work.rootEntry := ⟨_, rfl⟩
  obtain ⟨from_, hfrom⟩ : ∃ f, f = Work.walkFrom := ⟨_, rfl⟩
  have hroots : ∀ e v, root w owner = some (e, v) → v.offRead = w.offRead :=
    hroot ▸ fun _ _ => offRead_rootEntry
  have hwalks : ∀ n tab w, (from_ owner va n tab w).2.offRead = w.offRead :=
    hfrom ▸ offRead_walkFrom owner va
  rw [hdef, ← hroot, ← hfrom]
  beta_reduce
  split
  · rfl
  · next h =>
    split
    · exact (hwalks _ _ _).trans (hroots _ _ h)
    · exact hroots _ _ h

/-- R33: the table at CODE is read. -/
theorem offRead_handlerEntry (w : Work) (r : BitVec 1024) (h : Nat) :
    (w.handlerEntry r h).2.offRead = w.offRead := by
  have hdef : Work.handlerEntry = Work.handlerEntry := rfl
  conv at hdef => rhs; delta Work.handlerEntry
  obtain ⟨walk, hwalk⟩ : ∃ f, f = Work.walk := ⟨_, rfl⟩
  have hkeeps : ∀ (w : Work) (owner va : Nat), (walk w owner va).2.offRead = w.offRead := by
    rw [hwalk]
    exact offRead_walk
  rw [hdef, ← hwalk]
  dsimp only
  split
  · next e _ =>
    split
    · exact (offRead_of_offHome (offHome_homeRead _ e.key _ _ _)).trans (hkeeps _ _ _)
    · exact (offRead_farData _ _).trans (hkeeps _ _ _)
  · exact hkeeps _ _ _

theorem core_of_offRead {v w : Work} (h : v.offRead = w.offRead) (c : Nat) : v.core c = w.core c :=
  have hcores : v.offRead.cores = w.offRead.cores := congrArg (·.cores) h
  congrArg (tget Core.init c) hcores

end Sys2Proof.Machine
end

section
/-!
PROOFS. Issue entries, promotion (R18, R36), arriving messages and handler groups (R33, R34, R310).
-/

namespace Sys2Proof.Machine

open Sys2Proof.Claim

/-- A parked group with an issue entry again. -/
def Group.reclaimed (g : Group) (cycle : Nat) : Group :=
  { g with entry := true, parked := false, readyAt := max g.readyAt cycle }

/-- R18. -/
theorem reclaims {s : State} {c n : Nat} {rest : List Nat} {g : Group}
    (hreturned : (s.work.core c).returned = n :: rest)
    (hroom : (s.work.core c).entriesUsed < Config.entries) (hg : s.work.grp c n = some g) :
    ∃ t, Occurs s t (.parkedGroupReclaim c) ∧ (t.work.core c).returned = rest ∧
      t.work.grp c n = some (g.reclaimed (s.work.core c).cycle) := by
  have hexec : exec (.parkedGroupReclaim c) s =
      .next (commit s ((s.work.modCore c fun k => { k with returned := rest }).modGrp c n
        (·.reclaimed (s.work.core c).cycle))) := by
    refine congrArg (fun w => Host.Outcome.next (commit s w)) ?_
    dsimp only
    rw [hreturned]
    exact if_neg (Nat.not_le.2 hroom)
  refine ⟨_, ⟨hexec, commit_mem _ _ (log_modGrp _ _ _ _)⟩, ?_, ?_⟩
  · exact (congrArg Core.returned (core_modGrp_rest _ _ _ _ _)).trans
      (congrArg Core.returned (core_setCore_same _ _ _))
  · rw [commit_grp, grp_modGrp, if_pos ⟨rfl, rfl⟩, grp_modCore_of_groups, hg]
    · rfl
    · rfl

/-- R36. -/
theorem promotes {s : State} {c n : Nat} {g : Group} (hg : s.work.grp c n = some g)
    (hopps : 32 ≤ g.opps) (hpromo : g.promo = none) (hkind : g.kind ≠ .supervisor) :
    ∃ t, Occurs s t (.groupPromote c n) ∧
      t.work.grp c n = some { g with promo := some (s.work.core c).promoSeq } ∧
      (t.work.core c).promoSeq = (s.work.core c).promoSeq + 1 := by
  let w := s.work.setCore c { s.work.core c with promoSeq := (s.work.core c).promoSeq + 1 }
  have hexec : exec (.groupPromote c n) s =
      .next (commit s (w.setGrp c n { g with promo := some (s.work.core c).promoSeq })) := by
    refine congrArg (fun w => Host.Outcome.next (commit s w)) ?_
    dsimp only
    rw [hg]
    exact if_neg (by simp [Nat.not_lt.2 hopps, hpromo, hkind])
  refine ⟨_, ⟨hexec, commit_mem _ _ rfl⟩, grp_setGrp_same _ _ _ _, ?_⟩
  have hrest := congrArg Core.promoSeq (core_setGrp_rest w c n c { g with promo := some (s.work.core c).promoSeq })
  exact hrest.trans (congrArg Core.promoSeq (core_setCore_same _ _ _))

/-! ## A message reaches its receiver (R33, R310) -/

section Route

variable {w : Work} {c : Nat} {m : AmMsg} {x : Launch}

theorem amRoute_toCore (h : m.toCore = true) : w.amRoute c m = w.modCore c (·.amArrive m) := by
  unfold Work.amRoute
  rw [if_pos h]

theorem amRoute_gone (h : m.toCore = false) (hx : w.launch? m.launch = some x) (hgone : m.idx ∈ x.gone) :
    w.amRoute c m =
      w.modLaunch m.launch fun x => { x with dropped := min (x.dropped + 1) 0xFFFFFFFF } := by
  unfold Work.amRoute
  simp [h, hx, hgone]

theorem amRoute_absent (h : m.toCore = false) (hx : w.launch? m.launch = some x) (hgone : m.idx ∉ x.gone)
    (hy : w.team m.launch m.idx = none) :
    w.amRoute c m = w.modLaunch m.launch fun x => { x with heldAm := x.heldAm ++ [m] } := by
  unfold Work.amRoute
  simp [h, hx, hgone, hy]

theorem amRoute_held {y : Team} (h : m.toCore = false) (hx : w.launch? m.launch = some x)
    (hgone : m.idx ∉ x.gone) (hy : w.team m.launch m.idx = some y)
    (hheld : m.ord = true ∨ y.resident = false ∨ y.loaded = true) :
    w.amRoute c m = w.setTeam { y with heldAm := y.heldAm ++ [m] } := by
  unfold Work.amRoute Work.modTeam
  rcases hheld with hord | hres | hloaded
  · simp [h, hx, hgone, hy, hord]
  · simp [h, hx, hgone, hy, hres]
  · simp [h, hx, hgone, hy, hloaded]

theorem amRoute_home {y : Team} (h : m.toCore = false) (hx : w.launch? m.launch = some x)
    (hgone : m.idx ∉ x.gone) (hy : w.team m.launch m.idx = some y) (hord : m.ord = false)
    (hres : y.resident = true) (hloaded : y.loaded = false) :
    w.amRoute c m = w.modCore y.home (·.amArrive m) := by
  unfold Work.amRoute
  simp [h, hx, hgone, hy, hord, hres, hloaded]

end Route

theorem inbox_amArrive (k : Core) (m : AmMsg) : (k.amArrive m).inbox = k.inbox := by
  unfold Core.amArrive
  split <;> rfl

theorem inbox_modCore_amArrive (w : Work) (c d : Nat) (m : AmMsg) :
    ((w.modCore c (·.amArrive m)).core d).inbox = (w.core d).inbox := by
  rw [core_modCore]
  split
  · next e => rw [inbox_amArrive, e]
  · rfl

/-- What a message does when it reaches its receiver is no change of memory nor of what is on its way. -/
theorem amRoute_frame (w : Work) (c d : Nat) (m : AmMsg) :
    (w.amRoute c m).log = w.log ∧ ((w.amRoute c m).core d).inbox = (w.core d).inbox := by
  unfold Work.amRoute Work.modTeam
  dsimp only
  split
  · exact ⟨rfl, inbox_modCore_amArrive _ _ _ _⟩
  · split
    · exact ⟨rfl, rfl⟩
    · split
      · exact ⟨rfl, rfl⟩
      · split
        · exact ⟨rfl, rfl⟩
        · split
          · split <;> exact ⟨rfl, rfl⟩
          · exact ⟨rfl, inbox_modCore_amArrive _ _ _ _⟩

/-- The machine when the first message that has crossed the network to a core is taken. -/
def Work.takenAm (w : Work) (c : Nat) (rest : List AmMsg) : Work :=
  w.modCore c fun k => { k with inbox := { k.inbox with ams := rest } }

theorem core_takenAm (w : Work) (c d : Nat) (rest : List AmMsg) :
    ((w.takenAm c rest).core d).arrivals = (w.core d).arrivals ∧
      ((w.takenAm c rest).core d).amOver = (w.core d).amOver := by
  unfold Work.takenAm
  rw [core_modCore]
  split
  · next e => rw [e]; exact ⟨rfl, rfl⟩
  · exact ⟨rfl, rfl⟩

theorem exec_amArrival {s : State} {c : Nat} {m : AmMsg} {rest : List AmMsg}
    (hams : (s.work.core c).inbox.ams = m :: rest) (hbehind : s.work.amBehind m = false) :
    exec (.amArrival c) s = .next (commit s ((s.work.takenAm c rest).amRoute c m)) := by
  refine congrArg (fun w => Host.Outcome.next (commit s w)) ?_
  have hfind : ((s.work.core c).inbox.ams.find? fun m => !s.work.amBehind m) = some m := by
    rw [hams]
    exact List.find?_cons_of_pos (by simp [hbehind])
  have herase : (s.work.core c).inbox.ams.erase m = rest := by
    rw [hams, List.erase_cons_head]
  dsimp only
  rw [hfind]
  simp only [Work.takenAm, Work.modCore, herase]

/-- A message joins the arrival queue of its core, or waits for room in it. -/
theorem core_arrived {w : Work} {c : Nat} {m : AmMsg} {rest : List AmMsg} (d : Nat) :
    (((w.core d).arrivals.length < 16 → (w.core d).amOver = [] →
      (((w.takenAm c rest).modCore d (·.amArrive m)).core d).arrivals = (w.core d).arrivals ++ [m])) ∧
    ((16 ≤ (w.core d).arrivals.length ∨ (w.core d).amOver ≠ []) →
      (((w.takenAm c rest).modCore d (·.amArrive m)).core d).amOver = (w.core d).amOver ++ [m]) := by
  obtain ⟨harr, hover⟩ := core_takenAm w c d rest
  rw [core_modCore, if_pos rfl, ← harr, ← hover]
  unfold Core.amArrive
  refine ⟨fun hroom hempty => ?_, fun hfull => ?_⟩
  · rw [if_pos ⟨hroom, hempty⟩]
  · rw [if_neg fun h => hfull.elim (Nat.not_le.2 h.1) fun hne => hne h.2]

/-- R33, R310. -/
theorem messageArrives {s : State} {c : Nat} {m : AmMsg} {rest : List AmMsg}
    (hams : (s.work.core c).inbox.ams = m :: rest) (hbehind : s.work.amBehind m = false) :
    ∃ t, Occurs s t (.amArrival c) ∧ (t.work.core c).inbox.ams = rest ∧
      (m.toCore = true → (s.work.core c).arrivals.length < 16 → (s.work.core c).amOver = [] →
        (t.work.core c).arrivals = (s.work.core c).arrivals ++ [m]) ∧
      (m.toCore = true → 16 ≤ (s.work.core c).arrivals.length ∨ (s.work.core c).amOver ≠ [] →
        (t.work.core c).amOver = (s.work.core c).amOver ++ [m]) ∧
      ∀ x, m.toCore = false → s.work.launch? m.launch = some x →
        (m.idx ∈ x.gone → ∃ z, t.work.launch? m.launch = some z ∧
          z.dropped = min (x.dropped + 1) 0xFFFFFFFF) ∧
        (m.idx ∉ x.gone → s.work.team m.launch m.idx = none →
          ∃ z, t.work.launch? m.launch = some z ∧ z.heldAm = x.heldAm ++ [m]) ∧
        ∀ y, m.idx ∉ x.gone → s.work.team m.launch m.idx = some y → y.launch = m.launch →
          y.lin = m.idx →
          (m.ord = true ∨ y.resident = false ∨ y.loaded = true →
            ∃ z, t.work.team m.launch m.idx = some z ∧ z.heldAm = y.heldAm ++ [m]) ∧
          (m.ord = false → y.resident = true → y.loaded = false →
            (s.work.core y.home).arrivals.length < 16 → (s.work.core y.home).amOver = [] →
            (t.work.core y.home).arrivals = (s.work.core y.home).arrivals ++ [m]) := by
  obtain ⟨hlog, hinbox⟩ := amRoute_frame (s.work.takenAm c rest) c c m
  refine ⟨_, ⟨exec_amArrival hams hbehind, commit_mem _ _ hlog⟩, ?_, ?_, ?_, ?_⟩
  · rw [commit_core, hinbox]
    exact congrArg (·.inbox.ams) (core_setCore_same _ _ _)
  · intro hcore
    rw [commit_core, amRoute_toCore hcore]
    exact (core_arrived c).1
  · intro hcore
    rw [commit_core, amRoute_toCore hcore]
    exact (core_arrived c).2
  intro x hteam hx
  have hx' : (s.work.takenAm c rest).launch? m.launch = some x := hx
  have launched : ∀ f, ((s.work.takenAm c rest).modLaunch m.launch f).launch? m.launch = some (f x) := by
    intro f
    rw [launch_modLaunch, if_pos rfl, hx']
    rfl
  refine ⟨fun hgone => ?_, fun hgone hy => ?_, fun y hgone hy hl hi => ⟨fun hheld => ?_, ?_⟩⟩
  · rw [amRoute_gone hteam hx' hgone]
    exact ⟨_, launched _, rfl⟩
  · rw [amRoute_absent hteam hx' hgone hy]
    exact ⟨_, launched _, rfl⟩
  · rw [amRoute_held hteam hx' hgone hy hheld, ← hl, ← hi]
    exact ⟨_, team_setTeam_same _ _, rfl⟩
  · intro hord hres hloaded
    rw [commit_core, amRoute_home hteam hx' hgone hy hord hres hloaded]
    exact (core_arrived y.home).1

/-! ## The oldest message of a core spawns its handler group (R33) -/

section Handler

variable (r : BitVec 1024) (ent : Nat) (m : AmMsg)

theorem handlerGroup_s : (handlerGroup r ent m).s 0 = natWord (lrArgs r) ∧
    (handlerGroup r ent m).s 1 = natWord m.srcLin ∧
      (handlerGroup r ent m).s 2 = natWord m.srcCore := by
  have hs : ∀ i, (handlerGroup r ent m).s i = tget 0 i (tput 0 0 (natWord (lrArgs r))
      (tput 0 1 (natWord m.srcLin) (tput 0 2 (natWord m.srcCore) []))) := fun _ => rfl
  simp [hs, tget_tput]

theorem handlerGroup_v (i : Nat) (hi : i < 16) :
    (handlerGroup r ent m).v (i % 4) (i / 4) = m.words.getD i 0 := by
  have hput : ∀ (t : Tab Lane) (j : Nat),
      tget 0 (64 * (i % 4) + i / 4) (tput 0 (64 * (j % 4) + j / 4) (m.words.getD j 0) t) =
        if 64 * (i % 4) + i / 4 = 64 * (j % 4) + j / 4 then m.words.getD j 0
        else tget 0 (64 * (i % 4) + i / 4) t := fun _ _ => tget_tput _ _ _ _ _
  have hkeys : ∀ j ∈ upto 16, 64 * (i % 4) + i / 4 = 64 * (j % 4) + j / 4 → j = i := by
    intro j hj he
    simp [upto] at hj
    omega
  exact (foldl_written (get := tget 0 (64 * (i % 4) + i / 4)) hput rfl hkeys []).trans
    (if_pos (by simp [upto, hi]))

end Handler

/-- A group but for its seat, and for the stop with which it is spawned (R330, R352). -/
def Group.offSpawn (g : Group) : Group := { g.offSeat with stopped := false, hpc := 0 }

theorem offSpawn_of_offSeat {g h : Group} (e : g.offSeat = h.offSeat) : g.offSpawn = h.offSpawn := by
  unfold Group.offSpawn
  rw [e]

theorem offSpawn_spawnAs (w : Work) (m : AmMsg) (g : Group) :
    (w.spawnAs m g).offSpawn = g.offSpawn := by
  unfold Work.spawnAs
  dsimp only
  split <;> rfl

/-- A core but for its L1, its fills and the filters of its acquires (R191). -/
def Core.offL1 (k : Core) : Core := { k with l1 := [], l1rec := [], fills := [], acqMark := none, inb := 0 }

theorem offL1_l1Invalidate (k : Core) (p : Nat → L1Line → Bool) (f : Fill → Bool) :
    (k.l1Invalidate p f).offL1 = k.offL1 := by
  have dropped : ∀ (l : List (Nat × L1Line)) (k : Core),
      (l.foldl (fun k x => k.l1Drop x.1) k).offL1 = k.offL1 := by
    intro l
    induction l with
    | nil => exact fun _ => rfl
    | cons x l ih => exact fun k => (ih _).trans rfl
  exact dropped (k.l1.filter fun x => p x.2.line x.2) k

theorem core_acquire_offL1 (w : Work) (c : Nat) (sys : Bool) :
    ((w.acquire c sys).core c).offL1 = (w.core c).offL1 := by
  unfold Work.acquire
  dsimp only
  rw [core_setCore_same]
  exact offL1_l1Invalidate _ _ _

theorem arrivals_acquire (w : Work) (c : Nat) (sys : Bool) :
    ((w.acquire c sys).core c).arrivals = (w.core c).arrivals :=
  (congrArg Core.arrivals (core_acquire_offL1 w c sys) :)

theorem arrivals_placeGroup (w : Work) (c n d : Nat) (g : Group) :
    ((w.placeGroup c n g).core d).arrivals = (w.core d).arrivals :=
  (congrArg Core.arrivals (core_placeGroup_offSeats w c n d g) :)

/-- The core when its oldest message leaves the arrival queue (R34). -/
def Core.tookMessage (k : Core) (rest : List AmMsg) : Core :=
  { k with arrivals := rest ++ k.amOver.take 1, amOver := k.amOver.drop 1 }

/-- R35: the core has run the grid. -/
def Work.ranOn (w : Work) (c l : Nat) : Work :=
  w.modLaunch l fun x => { x with cores := ninsert c x.cores }

theorem exec_handlerSpawn {s : State} {c slot : Nat} {m : AmMsg} {rest : List AmMsg} {x : Launch}
    {ent : Nat} {w : Work} (harr : (s.work.core c).arrivals = m :: rest)
    (hslot : (s.work.core c).handlerSlot = some slot) (hx : s.work.launch? m.launch = some x)
    (he : (s.work.setCore c ((s.work.core c).tookMessage rest)).handlerEntry x.record m.hidx =
      (ent, w)) :
    exec (.handlerSpawn c) s =
      .next (commit s (((w.ranOn c m.launch).acquire c false).placeGroup c slot
        ((w.ranOn c m.launch).spawnAs m (handlerGroup x.record ent m)))) := by
  refine congrArg (fun w => Host.Outcome.next (commit s w)) ?_
  have hx' : (s.work.setCore c ((s.work.core c).tookMessage rest)).launch? m.launch = some x := hx
  unfold Core.tookMessage at he hx'
  dsimp only
  rw [harr, hslot]
  dsimp only
  rw [hx']
  dsimp only
  rw [he]
  rfl

/-- R33, R34. -/
theorem handlerSpawns {s : State} {c slot : Nat} {m : AmMsg} {rest : List AmMsg} {x : Launch}
    {ent : Nat} {w : Work} (harr : (s.work.core c).arrivals = m :: rest)
    (hslot : (s.work.core c).handlerSlot = some slot) (hx : s.work.launch? m.launch = some x)
    (he : (s.work.setCore c ((s.work.core c).tookMessage rest)).handlerEntry x.record m.hidx =
      (ent, w)) :
    ∃ t g, exec (.handlerSpawn c) s = .next t ∧ t.mem = (commit s w).mem ∧
      t.work.grp c slot = some g ∧
      (t.work.core c).arrivals = rest ++ (s.work.core c).amOver.take 1 ∧
      g.offSpawn = (handlerGroup x.record ent m).offSpawn := by
  obtain ⟨g, hg, hoff⟩ := grp_placeGroup ((w.ranOn c m.launch).acquire c false) c slot
    ((w.ranOn c m.launch).spawnAs m (handlerGroup x.record ent m))
  have hread : w.offRead = (s.work.setCore c ((s.work.core c).tookMessage rest)).offRead := by
    have h := offRead_handlerEntry (s.work.setCore c ((s.work.core c).tookMessage rest)) x.record m.hidx
    rwa [he] at h
  have hcore : w.core c = (s.work.core c).tookMessage rest :=
    (core_of_offRead hread c).trans (core_setCore_same _ _ _)
  refine ⟨_, g, exec_handlerSpawn harr hslot hx he, ?_, (commit_grp _ _ _ _).trans hg, ?_, ?_⟩
  · exact congrArg (applyLog s.mem) (log_placeGroup ((w.ranOn c m.launch).acquire c false) c slot _)
  · rw [commit_core, arrivals_placeGroup, arrivals_acquire]
    exact congrArg Core.arrivals hcore
  · exact (offSpawn_of_offSeat hoff).trans (offSpawn_spawnAs _ _ _)

/-- What the handler group that is spawned holds of its message. -/
theorem handlerGroup_of_offSpawn {g : Group} {r : BitVec 1024} {ent : Nat} {m : AmMsg}
    (h : g.offSpawn = (handlerGroup r ent m).offSpawn) :
    g.kind = (if m.toCore then .handlerCore else .handlerTeam) ∧ g.launch = m.launch ∧
      g.width = 16 ∧ g.live = 0xFFFF ∧ g.exec = 0xFFFF ∧
      g.pc = BitVec.ofNat 52 (lrCode r + 2 * ent) ∧
      g.s 0 = natWord (lrArgs r) ∧ g.s 1 = natWord m.srcLin ∧ g.s 2 = natWord m.srcCore ∧
      ∀ i < 16, g.v (i % 4) (i / 4) = m.words.getD i 0 := by
  obtain ⟨hs0, hs1, hs2⟩ := handlerGroup_s r ent m
  exact ⟨congrArg (·.kind) h, congrArg (·.launch) h, congrArg (·.width) h, congrArg (·.live) h,
    congrArg (·.exec) h, congrArg (·.pc) h, (congrArg (·.s 0) h).trans hs0,
    (congrArg (·.s 1) h).trans hs1, (congrArg (·.s 2) h).trans hs2,
    fun i hi => (congrArg (·.v (i % 4) (i / 4)) h).trans (handlerGroup_v r ent m i hi)⟩

/-- Settles O35: each event is its own case; a walk to the handler table leaves the cores alone. -/
theorem entriesAndArrivals : Obligations.EntriesAndArrivals := by
  unfold Obligations.EntriesAndArrivals
  refine ⟨⟨fun s c n rest g => reclaims, fun s c n g => promotes⟩,
    fun s c m rest => messageArrives, fun s c m rest slot x harr hslot hx => ?_⟩
  obtain ⟨t, g, hexec, hmem, hg, hrest, hoff⟩ := handlerSpawns harr hslot hx Prod.mk.eta.symm
  exact ⟨t, g, hexec, hmem, hg, hrest, handlerGroup_of_offSpawn hoff⟩

end Sys2Proof.Machine
end

section
/-!
SUPPORT. What an issue gives in the words of the statements (`Goes`): its group four bytes further, and
the machine as the instruction's own part leaves it. Groups that wait return (R18).
-/

namespace Sys2Proof.Machine

open Sys2Proof.Claim

/-! ## A group without writes in flight -/

theorem sflNow_of_quiet {g : Group} (hq : g.flights = []) (v : BitVec 4) :
    g.sflNow v = { g with sfl := v } := by
  unfold Group.sflNow Group.putSfl
  rw [cancel_of_no_flights _ hq]

theorem landed_of_quiet {g : Group} (hq : g.flights = []) : ({ g with flights := [] } : Group) = g := by
  cases g
  simp only at hq
  subst hq
  rfl

theorem after_of_quiet {g : Group} (hq : g.flights = []) (step cycle : Nat) (pc : Pc) :
    g.after step cycle pc = g.moved step cycle pc := by
  rw [after_eq, age_of_no_flights _ hq]

/-! ## An instruction of four bytes completes -/

variable {s : State} {c n : Nat} {g g' : Group} {f : Form} {need : Work → Group → Need}
  {body : Work → Nat → Nat → Group → Res} {w' : Work} {i : Instr} {d : Dst} {L : Nat}

/-- The state that an instruction of four bytes leaves. -/
def gone (f : Form) (s : State) (w' : Work) (c n : Nat) (g g' : Group) : State :=
  commit s (finish f w' c n g' (g.pc + 4))

theorem exec_gone (hr : Ready s c n g) (hi : exec i s = issue f need body s)
    (h1 : (need s.work g).codes = true) (h2 : (need s.work g).regs = true)
    (h3 : (need s.work g).ctx = true) (hb : body s.work c n g = .done w' g') (hlen : f.len = 4)
    (hpc : g'.pc = g.pc) : exec i s = .next (gone f s w' c n g g') := by
  have hnext : g'.nextPc f.len = g.pc + 4 := by
    unfold Group.nextPc
    rw [hpc, hlen]
    rfl
  rw [hi, issue_done hr.cur hr.here (passes_quiet _ _ _ _ hr.quiet h1 h2 h3) hb, hnext]
  rfl

/-- The instruction completes where the writes it has put in flight have one latency. -/
theorem goes_of_done (he : exec i s = .next (gone f s w' c n g g')) (hlog : w'.log = []) (hL : L ≤ 8)
    (hfl : ∀ x ∈ g'.flights, x.left = L) (hk : Keeps g g'.flown d) :
    ∃ h, Goes s (gone f s w' c n g g') c n g i d h ∧ h.settled.SameRegs g'.flown ∧
      h.settled.fixed = ({ g' with flights := [] } : Group).fixed := by
  obtain ⟨hregs, hfix⟩ := after_settled g' f.step (w'.core c).cycle (g.pc + 4) L hL hfl
  refine ⟨_, ⟨he, commit_mem _ _ ((log_finish _ _ _ _ _ _).trans hlog), grp_finish _ _ _ _ _ _, ?_, ?_⟩,
    hregs, hfix⟩
  · rw [after_eq]
    rfl
  · exact ⟨fun b r h => (hregs.sIn b r).trans (hk.1 b r h),
      fun b r h => (hregs.mIn b r).trans (hk.2 b r h),
      fun r l hl h => (hregs.v r l).trans (hk.3 r l hl h), fun h => hregs.sfl.trans (hk.4 h)⟩

/-- The instruction completes with its flags written at issue. -/
theorem goes_sflNow {v : BitVec 4} (hr : Ready s c n g)
    (he : exec i s = .next (gone f s w' c n g (g.sflNow v))) (hlog : w'.log = []) :
    ∃ h, Goes s (gone f s w' c n g (g.sflNow v)) c n g i { fl := true } h ∧ h.settled.sfl = v := by
  have hq := hr.quiet.flights
  have hnow := sflNow_of_quiet hq v
  have hflown : (g.sflNow v).flown = { g with sfl := v } := by
    rw [hnow]
    exact flown_of_no_flights _ hq
  obtain ⟨h, hgoes, hregs, -⟩ := goes_of_done he hlog (Nat.zero_le 8)
    (by rw [hnow, hq]; simp)
    (hflown ▸ (⟨fun _ _ _ => rfl, fun _ _ _ => rfl, fun _ _ _ _ => rfl, by simp⟩ :
      Keeps g { g with sfl := v } { fl := true }))
  exact ⟨h, hgoes, hregs.sfl.trans (by rw [hflown])⟩

theorem sflNow_pc (hq : g.flights = []) (v : BitVec 4) : (g.sflNow v).pc = g.pc := by
  rw [sflNow_of_quiet hq]

/-- An instruction that changes nothing but the flags, at issue. -/
theorem completes_sflNow {v : BitVec 4} (hr : Ready s c n g)
    (he : exec i s = .next (gone f s s.work c n g (g.sflNow v))) :
    Completes s c n g i (g.pc + 4) g { fl := true } fun h => h.sfl = v := by
  have hq := hr.quiet.flights
  have hnow := sflNow_of_quiet hq v
  have hflown : (g.sflNow v).flown = { g with sfl := v } := by
    rw [hnow]
    exact flown_of_no_flights _ hq
  refine completesIn_of_finish he rfl elsewhere_finish 0 (by decide) (by rw [hnow, hq]; simp)
    ?_ ?_ fun h hs _ => hs.sfl.trans (by rw [hflown])
  · rw [hnow, landed_of_quiet (g := { g with sfl := v }) hq]
    rfl
  · rw [hflown]
    exact ⟨fun _ _ _ => rfl, fun _ _ _ => rfl, fun _ _ _ _ => rfl, by simp⟩

/-! ## A group is held, or waits in its instruction -/

theorem exec_applyRes (hr : Ready s c n g) (hi : exec i s = issue f need body s)
    (h1 : (need s.work g).codes = true) (h2 : (need s.work g).regs = true)
    (h3 : (need s.work g).ctx = true) :
    exec i s = .next (commit s (applyRes f s.work c n g (body s.work c n g))) := by
  rw [hi, issue_eq hr.cur hr.here,
    issueGroup_passes _ (passes_quiet _ _ _ _ hr.quiet h1 h2 h3)]

/-- From `w` to `t` nothing differs but the group in slot `n` of core `c`, the issue slots of the core's
cycle, and the power allowance of its cluster. -/
structure After (w : Work) (t : State) (c n : Nat) : Prop where
  rest : t.toMach.rest = w.toMach.rest
  core : ∀ j, (t.work.core j).rest = (w.core j).rest
  other : ∀ j m, ¬(j = c ∧ m = n) → t.work.grp j m = w.grp j m

theorem After.team {w : Work} {t : State} (h : After w t c n) (l k : Nat) :
    t.work.team l k = w.team l k :=
  (congrArg (fun m : Mach => tfind (teamKey l k) m.teams) h.rest :)

theorem After.gone : After w' (gone f s w' c n g g') c n :=
  ⟨rest_finish _ _ _ _ _ _, fun _ => core_finish_rest _ _ _ _ _ _ _,
    fun _ _ h => grp_finish_other _ _ _ _ _ _ _ _ h⟩

/-- A group that parks at its instruction. -/
def Group.waits (g : Group) (cycle : Nat) (wt : Wait) : Group :=
  ({ g.unready with readyAt := cycle + 1, held := true } : Group).park wt

/-- A group that R18 names parks at its instruction. -/
theorem parks_of_hold {wt : Wait} (hr : Ready s c n g) (hi : exec i s = issue f need body s)
    (h1 : (need s.work g).codes = true) (h2 : (need s.work g).regs = true)
    (h3 : (need s.work g).ctx = true) (hb : body s.work c n g = .hold w' g' (some wt))
    (hlog : w'.log = []) :
    ∃ t, Occurs s t i ∧ t.work.grp c n = some (g'.waits (w'.core c).cycle wt) ∧ After w' t c n := by
  have he := exec_applyRes hr hi h1 h2 h3
  rw [hb] at he
  refine ⟨_, ⟨he, commit_mem _ _ hlog⟩, (commit_grp _ _ _ _).trans (grp_setGrp_same _ _ _ _), rfl,
    fun j => core_setGrp_rest _ _ _ _ _, fun j m h => ?_⟩
  exact (grp_setGrp _ _ _ _ _ _).trans (if_neg h)

/-- A group issues an instruction in which it waits. -/
theorem parks_of_wait {wt : Wait} (hr : Ready s c n g) (hi : exec i s = issue f need body s)
    (h1 : (need s.work g).codes = true) (h2 : (need s.work g).regs = true)
    (h3 : (need s.work g).ctx = true) (hb : body s.work c n g = .wait w' g' wt)
    (hlog : w'.log = []) :
    ∃ t h, Occurs s t i ∧ t.work.grp c n = some h ∧ h.pc = g'.pc ∧ h.wait = wt ∧
      h.parked = decide (g'.kind ≠ .supervisor) ∧ After w' t c n := by
  have he := exec_applyRes hr hi h1 h2 h3
  rw [hb] at he
  refine ⟨_, _, ⟨he, commit_mem _ _ ((log_account _ _ _ _ _).trans hlog)⟩,
    (commit_grp _ _ _ _).trans ((grp_account _ _ _ _ _ _ _).trans (grp_setGrp_same _ _ _ _)),
    rfl, rfl, rfl, rest_account _ _ _ _ _,
    fun j => (core_account_rest _ _ _ _ _ _).trans (core_setGrp_rest _ _ _ _ _), fun j m h => ?_⟩
  exact (grp_account _ _ _ _ _ _ _).trans ((grp_setGrp _ _ _ _ _ _).trans (if_neg h))

/-! ## An event returns (R18) -/

/-- A group to which an event has returned. -/
def Group.returned (from_ : Nat) (g : Group) : Group :=
  { g with wait := .none, readyAt := max g.readyAt from_ }

theorem grp_returnAt (w : Work) (c n key from_ d m : Nat) (f : Group → Group) :
    (w.returnAt c n key from_ f).grp d m =
      if d = c ∧ m = n then (w.grp c n).map fun g => w.woken c ((f g).returned from_)
      else w.grp d m := by
  have joined : ∀ (v : Work) (b : Bool) (d m : Nat),
      (if b then v.modCore c fun k =>
        if k.returned.contains n then k else { k with returned := k.returned ++ [n] } else v).grp d m =
        v.grp d m := by
    intro v b d m
    split
    · rw [grp_modCore_of_groups]
      split <;> rfl
    · rfl
  unfold Work.returnAt
  split
  · next hg =>
    split
    · next e => rw [e.1, e.2, hg]; rfl
    · rfl
  · next g hg =>
    rw [grp_gate, joined, joined, hg]
    split
    · rw [grp_setGrp_same]
      have hidle : ∀ v : Work, v.clusters = w.clusters → v.tempo = w.tempo → v.woken c = w.woken c := by
        intro v hc ht
        unfold Work.woken Work.idle Work.cluster
        rw [hc, ht]
      simp only [Option.map_some]
      rw [hidle]
      · rfl
      · split <;> rfl
      · split <;> rfl
    · next h => rw [grp_setGrp, if_neg h]

theorem core_returnAt_offSeats (w : Work) (c n key from_ d : Nat) (f : Group → Group) :
    ((w.returnAt c n key from_ f).core d).offSeats = (w.core d).offSeats := by
  have joined : ∀ (v : Work) (b : Bool),
      ((if b then v.modCore c fun k =>
        if k.returned.contains n then k else { k with returned := k.returned ++ [n] } else v).core d).offSeats =
        (v.core d).offSeats := by
    intro v b
    split
    · refine core_modCore_offSeats (fun k => ?_) d
      split <;> rfl
    · rfl
  unfold Work.returnAt
  split
  · rfl
  · dsimp only
    rw [offSeats_of_rest (core_gate_rest _ _ _ _ _), joined,
      offSeats_of_rest (core_setGrp_rest _ _ _ _ _)]

theorem central_returnAt (w : Work) (c n key from_ : Nat) (f : Group → Group) :
    (w.returnAt c n key from_ f).toMach.central = w.toMach.central := by
  unfold Work.returnAt
  split
  · rfl
  · dsimp only
    rw [central_gate]
    split <;> rfl

theorem team_of_central {v w : Work} (h : v.toMach.central = w.toMach.central) (l k : Nat) :
    v.team l k = w.team l k :=
  (congrArg (fun m : Mach => tfind (teamKey l k) m.teams) h :)

theorem log_returnAt (w : Work) (c n key from_ : Nat) (f : Group → Group) :
    (w.returnAt c n key from_ f).log = w.log := by
  unfold Work.returnAt
  split
  · rfl
  · dsimp only
    rw [log_gate]
    split <;> rfl

end Sys2Proof.Machine
end

section
/-!
SUPPORT. Numbers in the byte buffers of a core (R58): what a read gives after a write.
-/

namespace Sys2Proof.Machine

/-! ## Little-endian numbers -/

theorem leNat_bytes (n v : Nat) :
    leNat ((List.range n).map fun i => BitVec.ofNat 8 (v / 256 ^ i)) = v % 256 ^ n := by
  induction n generalizing v with
  | zero => simp [leNat, Nat.mod_one]
  | succ n ih =>
    have htail : (List.range n).map ((fun i => BitVec.ofNat 8 (v / 256 ^ i)) ∘ Nat.succ) =
        (List.range n).map fun i => BitVec.ofNat 8 (v / 256 / 256 ^ i) := by
      refine List.map_congr_left fun i _ => ?_
      simp only [Function.comp, Nat.succ_eq_add_one, Nat.pow_succ', Nat.div_div_eq_div_mul]
    rw [List.range_succ_eq_map, List.map_cons, List.map_map, htail, leNat, ih, Nat.pow_zero,
      Nat.div_one, BitVec.toNat_ofNat, show 256 ^ (n + 1) = 256 * 256 ^ n from Nat.pow_succ',
      Nat.mod_mul (x := v) (a := 256)]

/-- A number below a bound, in parts: the part from byte `i` on. -/
theorem leNat_part (n v i : Nat) :
    leNat ((List.range n).map fun j => BitVec.ofNat 8 (v / 256 ^ (i + j))) = v / 256 ^ i % 256 ^ n := by
  rw [← leNat_bytes n (v / 256 ^ i)]
  refine congrArg leNat (List.map_congr_left fun j _ => ?_)
  rw [Nat.pow_add, Nat.div_div_eq_div_mul]

/-! ## The byte buffers -/

theorem bufByte_setBufByte (k : Core) (buf a x : Nat) (b : Byte) :
    (k.setBufByte buf a b).bufByte buf x = if x = a then b else k.bufByte buf x := by
  unfold Core.setBufByte Core.bufByte
  match buf with
  | 0 => exact tget_tput _ _ _ _ _
  | 1 => exact tget_tput _ _ _ _ _
  | n + 2 => exact tget_tput _ _ _ _ _

theorem setBufNum_eq (k : Core) (buf a n v : Nat) (skip : Nat → Bool) :
    k.setBufNum buf a n v skip =
      (List.range n).foldl (fun k i => if skip (a + i) then k
        else k.setBufByte buf (a + i) (BitVec.ofNat 8 (v / 256 ^ i))) k := by
  have hlist : ((leBytes n v).mapIdx fun i b => (a + i, b)) =
      (List.range n).map fun i => (a + i, (BitVec.ofNat 8 (v / 256 ^ i) : Byte)) := by
    refine List.ext_getElem (by simp [leBytes, upto]) fun i h₁ h₂ => ?_
    simp [leBytes, upto]
  unfold Core.setBufNum
  rw [hlist, List.foldl_map]

/-- R213: each byte of the number is written but those that are skipped. -/
theorem bufByte_setBufNum (k : Core) (buf a n v x : Nat) (skip : Nat → Bool) :
    (k.setBufNum buf a n v skip).bufByte buf x =
      if a ≤ x ∧ x < a + n ∧ skip x = false then BitVec.ofNat 8 (v / 256 ^ (x - a))
      else k.bufByte buf x := by
  rw [setBufNum_eq]
  by_cases hx : a ≤ x ∧ skip x = false
  · obtain ⟨ha, hskip⟩ := hx
    refine (foldl_written (get := fun k : Core => k.bufByte buf x) (hit := fun i => a + i = x)
      (val := fun i => BitVec.ofNat 8 (v / 256 ^ i)) (i := x - a) ?_ (by omega) (fun j _ hj => by omega)
      k).trans ?_
    · intro k j
      by_cases hj : a + j = x
      · simp [hj, hskip, bufByte_setBufByte]
      · have hj' : ¬x = a + j := fun e => hj e.symm
        rw [if_neg hj]
        split
        · rfl
        · rw [bufByte_setBufByte, if_neg hj']
    · have hiff : x - a ∈ List.range n ↔ a ≤ x ∧ x < a + n ∧ skip x = false := by
        simp only [List.mem_range, ha, hskip, true_and, and_true]
        omega
      simp only [hiff]
  · rw [if_neg fun h => hx ⟨h.1, h.2.2⟩]
    refine foldl_unwritten (get := fun k : Core => k.bufByte buf x) (fun k j _ => ?_) k
    by_cases hs : skip (a + j) = true
    · simp [hs]
    · have hj : ¬x = a + j := fun e => hx ⟨by omega, by simpa [e] using hs⟩
      simp only [hs, Bool.false_eq_true, if_false, bufByte_setBufByte, if_neg hj]

/-- A part of a number that has been written whole. -/
theorem bufNum_setBufNum (k : Core) (buf a n v : Nat) {b m : Nat} (ha : a ≤ b) (hb : b + m ≤ a + n) :
    (k.setBufNum buf a n v fun _ => false).bufNum buf b m = v / 256 ^ (b - a) % 256 ^ m := by
  rw [← leNat_part]
  unfold Core.bufNum upto
  rw [List.map_map]
  refine congrArg leNat (List.map_congr_left fun j hj => ?_)
  have hj : j < m := List.mem_range.1 hj
  simp only [Function.comp, bufByte_setBufNum]
  rw [if_pos ⟨by omega, by omega, trivial⟩, show j + b - a = b - a + j by omega]

/-- A core but for its byte buffers and the errors of its arrays. -/
def Core.offBytes (k : Core) : Core := { k with wbuf := [], abuf := [], sbuf := [], upset := [] }

theorem offBytes_setBufByte (k : Core) (buf a : Nat) (b : Byte) :
    (k.setBufByte buf a b).offBytes = k.offBytes := by
  unfold Core.setBufByte
  match buf with
  | 0 => rfl
  | 1 => rfl
  | n + 2 => rfl

theorem offBytes_setBufNum (k : Core) (buf a n v : Nat) (skip : Nat → Bool) :
    (k.setBufNum buf a n v skip).offBytes = k.offBytes := by
  rw [setBufNum_eq]
  refine foldl_unwritten (get := Core.offBytes) (fun k j _ => ?_) k
  split
  · rfl
  · exact offBytes_setBufByte _ _ _ _

end Sys2Proof.Machine
end

section
/-!
PROOFS. The mailbox of a core (R32, R345, R346): SVCALL, MBPOP and MBREPLY.
-/

namespace Sys2Proof.Machine

open Sys2Proof.Claim

/-! ## Requests and events -/

theorem wordsNat_word (l : List Lane) (k : Nat) :
    wordsNat l / 256 ^ (4 * k) % 256 ^ 4 = (l.getD k 0).toNat := by
  induction l generalizing k with
  | nil => simp [wordsNat]
  | cons x l ih =>
    have hx : x.toNat < 2 ^ 32 := x.isLt
    have hcons : wordsNat (x :: l) = x.toNat + 2 ^ 32 * wordsNat l := rfl
    cases k with
    | zero =>
      rw [hcons, List.getD_cons_zero, Nat.mul_zero, Nat.pow_zero, Nat.div_one,
        show 256 ^ 4 = 2 ^ 32 from rfl, Nat.add_mul_mod_self_left, Nat.mod_eq_of_lt hx]
    | succ k =>
      have hshift : wordsNat (x :: l) / 256 ^ (4 * (k + 1)) = wordsNat l / 256 ^ (4 * k) := by
        rw [hcons, show 4 * (k + 1) = 4 + 4 * k by omega, Nat.pow_add, ← Nat.div_div_eq_div_mul,
          show 256 ^ 4 = 2 ^ 32 from rfl, Nat.add_mul_div_left _ _ (by decide), Nat.div_eq_of_lt hx,
          Nat.zero_add]
      rw [hshift, ih, List.getD_cons_succ]

theorem mem_insBy {α : Type} (lt : α → α → Bool) (a : α) (l : List α) : a ∈ insBy lt a l := by
  induction l with
  | nil => exact List.mem_cons_self
  | cons b l ih =>
    unfold insBy
    split
    · exact List.mem_cons_of_mem b ih
    · exact List.mem_cons_self

/-- A core with other supervisor events. -/
def Core.withEvq (k : Core) (q : List Event) : Core := { k with evq := q }

theorem withEvq_fields (k : Core) (q : List Event) :
    (k.withEvq q).evq = q ∧ (k.withEvq q).sbuf = k.sbuf ∧ (k.withEvq q).mail = k.mail :=
  ⟨rfl, rfl, rfl⟩

/-- R331: an event enters the queue of its core. -/
theorem core_supEvent (w : Work) (c kind slot record cause : Nat) (detail : Word)
    (h : (w.core c).evq.length < 64) :
    ∃ q e, (w.supEvent c kind slot record cause detail).core c = (w.core c).withEvq q ∧
      e ∈ q ∧ e.kind = kind ∧ e.slot = slot ∧ e.record = record := by
  unfold Work.supEvent
  rw [core_modCore, if_pos rfl]
  dsimp only
  rw [if_pos h]
  exact ⟨_, _, rfl, mem_insBy _ _ _, rfl, rfl, rfl⟩

theorem awaitRegs_pc_kind (g : Group) (r n op : Nat) (lanes : Word) :
    (g.awaitRegs r n lanes op).pc = g.pc ∧ (g.awaitRegs r n lanes op).kind = g.kind := by
  unfold Group.awaitRegs
  generalize upto n r = l
  induction l generalizing g with
  | nil => exact ⟨rfl, rfl⟩
  | cons x l ih => exact ih _

/-- A core with other mail records. -/
def Core.withMail (k : Core) (t : Tab MailRec) : Core := { k with mail := t }

/-- A core when a request has taken a record. -/
def Core.tookMail (k : Core) (i : Nat) (m : MailRec) : Core :=
  (k.setBufNum 3 (mailAddr i) 64 (wordsNat m.req) fun _ => false).withMail (tins i m k.mail)

theorem bufNum_of_sbuf {k l : Core} (h : k.sbuf = l.sbuf) (a n : Nat) :
    k.bufNum 3 a n = l.bufNum 3 a n := by
  unfold Core.bufNum
  exact congrArg leNat (List.map_congr_left fun b _ => congrArg (tget 0 b) h)

theorem withMail_fields (k : Core) (t : Tab MailRec) :
    (k.withMail t).evq = k.evq ∧ (k.withMail t).sbuf = k.sbuf ∧ (k.withMail t).mail = t :=
  ⟨rfl, rfl, rfl⟩

theorem tookMail_fields (k : Core) (i : Nat) (m : MailRec) :
    (k.tookMail i m).evq = k.evq ∧ (k.tookMail i m).mail = tins i m k.mail ∧
      ∀ j < 16, (k.tookMail i m).bufNum 3 (mailAddr i + 4 * j) 4 = (m.req.getD j 0).toNat := by
  have hbytes := offBytes_setBufNum k 3 (mailAddr i) 64 (wordsNat m.req) fun _ => false
  have hpart : ∀ j < 16, _ = _ := fun j hj => bufNum_setBufNum k 3 (mailAddr i) 64 (wordsNat m.req)
    (b := mailAddr i + 4 * j) (m := 4) (by omega) (by omega)
  unfold Core.tookMail
  obtain ⟨l, hl⟩ : ∃ l, l = k.setBufNum 3 (mailAddr i) 64 (wordsNat m.req) fun _ => false := ⟨_, rfl⟩
  rw [← hl] at hbytes hpart ⊢
  obtain ⟨hevq, hsbuf, hmail⟩ := withMail_fields l (tins i m k.mail)
  refine ⟨hevq.trans (congrArg Core.evq hbytes :), hmail, fun j hj => ?_⟩
  have hword := hpart j hj
  rw [Nat.add_sub_cancel_left, wordsNat_word] at hword
  exact (bufNum_of_sbuf hsbuf _ _).trans hword

theorem postMail_eq (w : Work) (c slot i va op : Nat) (words : List Lane) :
    w.postMail c slot i va op words =
      (w.modCore c (·.tookMail i { slot, va, req := words, op })).supEvent c 1 slot i 0 0 := by
  unfold Work.postMail Core.tookMail Core.withMail
  dsimp only

/-- Core `l` is core `k` with request `m` in record `i`, of which an event tells. -/
structure Posted (k l : Core) (i : Nat) (m : MailRec) : Prop where
  mail : l.mail = tins i m k.mail
  words : ∀ j < 16, l.bufNum 3 (mailAddr i + 4 * j) 4 = (m.req.getD j 0).toNat
  event : ∃ e ∈ l.evq, e.kind = 1 ∧ e.slot = m.slot ∧ e.record = i

/-- R345: a request takes a record. -/
theorem core_postMail (w : Work) (c slot i va op : Nat) (words : List Lane)
    (hq : (w.core c).evq.length < 64) :
    Posted (w.core c) ((w.postMail c slot i va op words).core c) i { slot, va, req := words, op } := by
  have hcore : (w.modCore c (·.tookMail i { slot, va, req := words, op })).core c =
      (w.core c).tookMail i { slot, va, req := words, op } := by rw [core_modCore, if_pos rfl]
  obtain ⟨hevq, hmail, hwords⟩ := tookMail_fields (w.core c) i { slot, va, req := words, op }
  rw [← hcore] at hevq hmail hwords
  obtain ⟨q, e, hk, he, hkind, hslot, hrecord⟩ := core_supEvent
    (w.modCore c (·.tookMail i { slot, va, req := words, op })) c 1 slot i 0 0 (by rw [hevq]; exact hq)
  obtain ⟨hevq', hsbuf, hmail'⟩ := withEvq_fields
    ((w.modCore c (·.tookMail i { slot, va, req := words, op })).core c) q
  rw [postMail_eq, hk]
  exact ⟨hmail'.trans hmail, fun j hj => (bufNum_of_sbuf hsbuf _ _).trans (hwords j hj),
    e, by rw [hevq']; exact he, hkind, hslot, hrecord⟩

theorem mailbox_of_rest {k l : Core} (h : k.rest = l.rest) :
    k.evq = l.evq ∧ k.sbuf = l.sbuf ∧ k.mail = l.mail :=
  ⟨(congrArg Core.evq h :), (congrArg Core.sbuf h :), (congrArg Core.mail h :)⟩

theorem kind_ne_supervisor {g : Group} (h : g.isTeamCode = true) : g.kind ≠ .supervisor := by
  intro hk
  rw [Group.isTeamCode, hk] at h
  exact Bool.noConfusion h

/-- R345: SVCALL fills the lowest free record and parks. -/
theorem svcall_posts {s : State} {c n : Nat} {g : Group} (hr : Ready s c n g)
    (hteam : g.isTeamCode = true) (x : BitVec 2) (v : BitVec 6) {i : Nat}
    (hquad : g.hasQuad v.toNat = true) (hservice : reqWord (g.payload v.toNat) 0 % 2 ^ 16 ≠ 2)
    (hfree : (s.work.core c).freeMail = some i) (hq : (s.work.core c).evq.length < 64) :
    ∃ t h m e, Occurs s t (.svcall x v) ∧ t.work.grp c n = some h ∧ h.pc = g.pc ∧
      h.wait = .svcall i v.toNat ∧ h.parked = true ∧
      tfind i (t.work.core c).mail = some m ∧ m.slot = n ∧ m.va = v.toNat ∧
      m.req = g.payload v.toNat ∧ e ∈ (t.work.core c).evq ∧ e.kind = 1 ∧ e.slot = n ∧
      e.record = i ∧
      ∀ k < 16, (t.work.core c).bufNum 3 (mailAddr i + 4 * k) 4 =
        ((g.payload v.toNat).getD k 0).toNat := by
  have hnew : (s.work.newOp c).2.core c = { s.work.core c with opSeq := (s.work.core c).opSeq + 1 } :=
    core_setCore_same _ _ _
  obtain ⟨hmail, hwords, e, he, hkind, hslot, hrecord⟩ := core_postMail (s.work.newOp c).2 c n i
    v.toNat (s.work.newOp c).1 (g.payload v.toNat) (by rw [hnew]; exact hq)
  obtain ⟨hpc, hk⟩ := awaitRegs_pc_kind g v.toNat 4 (s.work.newOp c).1 0xF
  obtain ⟨t, h, hoccurs, hg, hhpc, hwait, hparked, hafter⟩ := parks_of_wait hr (i := .svcall x v)
    (w' := (s.work.newOp c).2.postMail c n i v.toNat (s.work.newOp c).1 (g.payload v.toNat))
    (g' := g.awaitRegs v.toNat 4 0xF (s.work.newOp c).1) (wt := .svcall i v.toNat)
    rfl rfl hquad hteam (by
      have hfree' : ((s.work.newOp c).2.core c).freeMail = some i := by rw [hnew]; exact hfree
      dsimp only
      rw [if_neg hservice, hfree']) rfl
  obtain ⟨hevq, hsbuf, hmails⟩ := mailbox_of_rest (hafter.core c)
  refine ⟨t, h, { slot := n, va := v.toNat, req := g.payload v.toNat, op := (s.work.newOp c).1 }, e, hoccurs, hg, hhpc.trans hpc, hwait, hparked.trans ?_, ?_, rfl, rfl, rfl, ?_,
    hkind, hslot, hrecord, fun j hj => (bufNum_of_sbuf hsbuf _ _).trans (hwords j hj)⟩
  · rw [hk]
    exact decide_eq_true (kind_ne_supervisor hteam)
  · rw [hmails, hmail, tfind_tins_same]
  · rw [hevq]
    exact he

/-! ## MBPOP -/

section TwoScalars

variable {g : Group}

/-- A write of a whole scalar register in flight. -/
def Group.scalarFlight (g : Group) (L r : Nat) (v : Word) : Flight :=
  { kind := .scalar, reg := r, bank := g.banked .scalar r, lanes := BitVec.allOnes 64, left := L
    val := v, vec := [] }

theorem flyS_of_quiet (hq : g.flights = []) (L r : Nat) (v : Word) :
    g.flyS L r v = { g with flights := [g.scalarFlight L r v] } := by
  unfold Group.flyS
  rw [fly_of_no_flights g hq, if_neg (by decide)]
  rfl

/-- Two scalar registers are written at once. -/
theorem flyS_flyS (hq : g.flights = []) {q r : Nat} (hne : r ≠ q) (L : Nat) (v u : Word) :
    (g.flyS L r v).flyS L q u =
      { g with flights := [g.scalarFlight L r v, g.scalarFlight L q u] } := by
  rw [flyS_of_quiet hq]
  simp [Group.flyS, Group.fly, Group.cancel, Group.scalarFlight, hne, Group.banked]

theorem flown_two (hq : g.flights = []) {q r : Nat} (hne : r ≠ q) (L : Nat) (v u : Word) :
    ((g.flyS L r v).flyS L q u).flown =
      (g.setS (g.banked .scalar r) r (BitVec.allOnes 64) v).setS (g.banked .scalar q) q
        (BitVec.allOnes 64) u := by
  rw [flyS_flyS hq hne]
  unfold Group.flown
  simp only [List.foldl_cons, List.foldl_nil]
  rw [show ({ ({ g with flights := [g.scalarFlight L r v, g.scalarFlight L q u] } : Group) with
    flights := [] } : Group) = { g with flights := [] } from rfl, landed_of_quiet hq]
  rfl

theorem setS_whole (b : Bool) (r : Nat) (v : Word) (c : Bool) (j : Nat) :
    (g.setS b r (BitVec.allOnes 64) v).sIn c j = if c = b ∧ j = r then v else g.sIn c j := by
  rw [setS_sIn, BitVec.not_allOnes, BitVec.and_allOnes, BitVec.and_zero, BitVec.zero_or]

/-- A scalar write touches no mask, no vector and no flag. -/
theorem setS_others (b : Bool) (r : Nat) (lanes v : Word) :
    (∀ c j, (g.setS b r lanes v).mIn c j = g.mIn c j) ∧ (∀ j l, (g.setS b r lanes v).v j l = g.v j l) ∧
      (g.setS b r lanes v).sfl = g.sfl := by
  unfold Group.setS
  cases b <;> exact ⟨fun _ _ => rfl, fun _ _ => rfl, rfl⟩

/-- The instruction completes with two scalar registers written. -/
theorem goes_two {s : State} {c n : Nat} {f : Form} {w' : Work} {i : Instr} {L q r : Nat} {v u : Word}
    (hr : Ready s c n g) (he : exec i s = .next (gone f s w' c n g ((g.flyS L r v).flyS L q u)))
    (hlog : w'.log = []) (hL : L ≤ 8) (hne : r ≠ q) :
    ∃ h, Goes s (gone f s w' c n g ((g.flyS L r v).flyS L q u)) c n g i { ss := [r, q] } h ∧
      h.settled.s r = v ∧ h.settled.s q = u := by
  have hq := hr.quiet.flights
  have hs : ∀ b j, ((g.flyS L r v).flyS L q u).flown.sIn b j =
      if b = g.banked .scalar q ∧ j = q then u
      else if b = g.banked .scalar r ∧ j = r then v else g.sIn b j := by
    intro b j
    rw [flown_two hq hne, setS_whole, setS_whole]
  obtain ⟨hm₁, hv₁, hf₁⟩ := setS_others (g := g) (g.banked .scalar r) r (BitVec.allOnes 64) v
  obtain ⟨hm₂, hv₂, hf₂⟩ := setS_others (g := g.setS (g.banked .scalar r) r (BitVec.allOnes 64) v)
    (g.banked .scalar q) q (BitVec.allOnes 64) u
  obtain ⟨h, hgoes, hregs, hfix⟩ := goes_of_done (d := { ss := [r, q] }) he hlog hL
    (by rw [flyS_flyS hq hne]; simp [Group.scalarFlight])
    ⟨fun b j hj => by
        rw [hs, if_neg fun e => hj ⟨by simp [e.2], by rw [e.1, e.2]⟩,
          if_neg fun e => hj ⟨by simp [e.2], by rw [e.1, e.2]⟩],
      fun b j _ => by rw [flown_two hq hne, hm₂, hm₁],
      fun j l _ _ => by rw [flown_two hq hne, hv₂, hv₁],
      fun _ => by rw [flown_two hq hne, hf₂, hf₁]⟩
  have hin : h.settled.inHandler = g.inHandler := by
    rw [flyS_flyS hq hne] at hfix
    exact (congrArg Group.inHandler hfix :)
  have hbank : ∀ j, h.settled.banked .scalar j = g.banked .scalar j := by
    intro j
    unfold Group.banked
    rw [hin]
  refine ⟨h, hgoes, ?_, ?_⟩
  · rw [s_eq_sIn, hregs.sIn, hs, hbank, if_neg fun e => hne e.2, if_pos ⟨rfl, rfl⟩]
  · rw [s_eq_sIn, hregs.sIn, hs, hbank, if_pos ⟨rfl, rfl⟩]

end TwoScalars

/-- R344: guarded issue delays the core alone. -/
theorem core_guarded (w : Work) (c : Nat) :
    (w.guarded c).core c = { w.core c with blocked := max (w.core c).blocked ((w.core c).cycle + 2) } :=
  core_setCore_same _ _ _

/-- R345: MBPOP takes the oldest event. -/
theorem mbpop_takes {s : State} {c n : Nat} {g : Group} (hr : Ready s c n g)
    (hk : g.kind = .supervisor) (x : BitVec 2) (d : BitVec 6) {e : Event} {rest : List Event}
    (hd : d.toNat < 63) (hevq : (s.work.core c).evq = e :: rest) (hheld : (s.work.core c).evHeld = []) :
    ∃ t h, Goes s t c n g (.mbpop x d) { ss := [d.toNat, d.toNat + 1] } h ∧
      h.settled.s d.toNat = e.word ∧ h.settled.s (d.toNat + 1) = e.detail ∧
      (t.work.core c).evq = rest ∧ (s.work.core c).cycle + 2 ≤ (t.work.core c).blocked := by
  have hsup : supCtx g = true := decide_eq_true hk
  have hregs : scalarRun d.toNat 2 = true := decide_eq_true (by omega)
  have hpop : ({ s.work.core c with evq := rest } : Core).refillEvents =
      (s.work.core c).withEvq rest := by
    unfold Core.refillEvents
    rw [show ({ s.work.core c with evq := rest } : Core).evHeld = [] from hheld]
    rfl
  have he := exec_gone hr (i := .mbpop x d)
    (w' := (s.work.setCore c ((s.work.core c).withEvq rest)).guarded c)
    (g' := (g.flyS 0 d.toNat e.word).flyS 0 (d.toNat + 1) e.detail) rfl rfl hregs hsup (by
      rw [hevq]
      dsimp only [Work.modCore]
      rw [hpop]) rfl (by rw [flyS_flyS hr.quiet.flights (Nat.ne_of_lt (Nat.lt_succ_self _))])
  obtain ⟨h, hgoes, hs₁, hs₂⟩ := goes_two hr he rfl (Nat.zero_le 8)
    (Nat.ne_of_lt (Nat.lt_succ_self d.toNat))
  have hafter := After.gone (f := wordForm (wMbpop x d) x none wtScalar) (s := s) (c := c) (n := n)
    (g := g) (w' := (s.work.setCore c ((s.work.core c).withEvq rest)).guarded c)
    (g' := (g.flyS 0 d.toNat e.word).flyS 0 (d.toNat + 1) e.detail)
  have hcore := hafter.core c
  rw [core_guarded, core_setCore_same] at hcore
  exact ⟨_, h, hgoes, hs₁, hs₂, (congrArg Core.evq hcore :),
    (Nat.le_max_right _ _).trans_eq (congrArg Core.blocked hcore :).symm⟩

/-- R345: with no event the supervisor waits. -/
theorem mbpop_waits {s : State} {c n : Nat} {g : Group} (hr : Ready s c n g)
    (hk : g.kind = .supervisor) (x : BitVec 2) (d : BitVec 6) (hd : d.toNat < 63)
    (hevq : (s.work.core c).evq = []) :
    ∃ t h, Occurs s t (.mbpop x d) ∧ t.work.grp c n = some h ∧ h.pc = g.pc ∧
      h.wait = .mbpop d.toNat := by
  obtain ⟨t, hoccurs, hg, -⟩ := parks_of_hold hr (i := .mbpop x d) (w' := s.work) (g' := g)
    (wt := .mbpop d.toNat) rfl rfl (decide_eq_true (by omega)) (decide_eq_true hk) (by
      rw [hevq]) rfl
  exact ⟨t, _, hoccurs, hg, rfl, rfl⟩

/-! ## MBREPLY -/

/-- What MBREPLY does with the answer `v` (R346). -/
def Work.mbreplied (w : Work) (c v : Nat) : Option Work :=
  match v / 64 % 4 with
  | 0 => w.replyMail c (v % 16)
  | 1 => w.endFault c (v % 64) true
  | 2 => w.endFault c (v % 64) false
  | _ => w.releaseTeam c (v % 64)

/-- The form of MBREPLY. -/
def mbreplyForm (x : BitVec 2) (a : BitVec 6) : Form := wordForm (wMbreply x a) x none wtScalar

section Reply

variable {s : State} {c n : Nat} {g : Group} {x : BitVec 2} {a : BitVec 6} {w' : Work}

/-- MBREPLY that has something to answer sets Z. -/
theorem mbreply_some (hr : Ready s c n g) (hk : g.kind = .supervisor)
    (h : s.work.mbreplied c (g.s a.toNat).toNat = some w') (hlog : w'.log = []) :
    ∃ t h, Goes s t c n g (.mbreply x a) { fl := true } h ∧
      h.settled.sfl = mkSfl true false false false ∧ After w' t c n := by
  have he := exec_gone hr (i := .mbreply x a) (f := mbreplyForm x a) (w' := w')
    (g' := g.sflNow (mkSfl true false false false)) rfl rfl rfl (decide_eq_true hk) (by
      show (match s.work.mbreplied c (g.s a.toNat).toNat with
        | some w => Res.done w (g.sflNow (mkSfl true false false false))
        | none => .done s.work (g.sflNow (mkSfl false false false true))) = _
      rw [h]) rfl (sflNow_pc hr.quiet.flights _)
  obtain ⟨h, hgoes, hsfl⟩ := goes_sflNow hr he hlog
  exact ⟨_, h, hgoes, hsfl, After.gone⟩

/-- MBREPLY that has nothing to answer sets V. -/
theorem mbreply_none (hr : Ready s c n g) (hk : g.kind = .supervisor)
    (h : s.work.mbreplied c (g.s a.toNat).toNat = none) :
    Completes s c n g (.mbreply x a) (g.pc + 4) g { fl := true } fun h =>
      h.sfl = mkSfl false false false true :=
  completes_sflNow hr (exec_gone hr (i := .mbreply x a) (f := mbreplyForm x a) (w' := s.work)
    (g' := g.sflNow (mkSfl false false false true)) rfl rfl rfl (decide_eq_true hk) (by
      show (match s.work.mbreplied c (g.s a.toNat).toNat with
        | some w => Res.done w (g.sflNow (mkSfl true false false false))
        | none => .done s.work (g.sflNow (mkSfl false false false true))) = _
      rw [h]) rfl (sflNow_pc hr.quiet.flights _))

end Reply

end Sys2Proof.Machine
end

section
/-!
PROOFS. MBREPLY (R346): a record is answered, a page fault ends, a stopped team is released; with it,
the mailbox as a whole.
-/

namespace Sys2Proof.Machine

open Sys2Proof.Claim

/-! ## A record is answered -/

/-- A group whose request has been answered: the sixteen words of the record land in its registers. -/
def Group.answered (g : Group) (va op : Nat) (word : Nat → Nat) : Group :=
  (upto 16).foldl (fun g n => g.setV1 (va + n % 4) (n / 4) (BitVec.ofNat 32 (word n))) (g.unpend op)

/-- A group but for its vector registers. -/
def Group.offVector (g : Group) : Group := { g with vreg := [], poison := [] }

theorem offVector_answered (g : Group) (va op : Nat) (word : Nat → Nat) :
    (g.answered va op word).offVector = (g.unpend op).offVector := by
  unfold Group.answered
  refine foldl_unwritten (get := Group.offVector) (fun g n _ => ?_) (g.unpend op)
  rfl

theorem fields_of_offVector {g h : Group} (e : g.offVector = h.offVector) :
    g.flights = h.flights ∧ g.pc = h.pc ∧ g.pend = h.pend :=
  ⟨(congrArg Group.flights e :), (congrArg Group.pc e :), (congrArg Group.pend e :)⟩

theorem v_answered (g : Group) (va op : Nat) (word : Nat → Nat) {j : Nat} (hj : j < 16) :
    (g.answered va op word).v (va + j % 4) (j / 4) = BitVec.ofNat 32 (word j) := by
  unfold Group.answered
  have h := foldl_written (get := fun g : Group => g.v (va + j % 4) (j / 4))
    (put := fun g n => g.setV1 (va + n % 4) (n / 4) (BitVec.ofNat 32 (word n)))
    (hit := fun n => 64 * (va + j % 4) + j / 4 = 64 * (va + n % 4) + n / 4)
    (val := fun n => BitVec.ofNat 32 (word n)) (fun g n => setV1_v g _ _ _ _ _) (i := j) rfl
    (l := upto 16) (fun n hn hhit => by
      have : n < 16 := by simpa [upto] using hn
      omega) (g.unpend op)
  rw [h, if_pos (by simpa [upto] using hj)]

theorem pend_unpend (g : Group) (op : Nat) : ∀ p ∈ (g.unpend op).pend, p.op ≠ op := by
  intro p hp
  simpa using (List.mem_filter.mp hp).2

/-- The wait of an issued instruction ends, in a group that is as `f` leaves it. -/
theorem grp_completeNext {w : Work} {c n : Nat} {f : Group → Group} {g : Group}
    (hg : w.grp c n = some g) (hq : (f g).flights = []) :
    ∃ h, (w.completeNext c n f).grp c n = some h ∧ h.pc = (f g).pc + 4 ∧ h.wait = .none ∧
      h.pend = (f g).pend ∧ h.vreg = (f g).vreg := by
  unfold Work.completeNext Work.completeWait Work.return_ Work.returnKey
  rw [grp_returnAt, if_pos ⟨rfl, rfl⟩, hg, Option.map_some, after_of_quiet hq]
  refine ⟨_, rfl, ?_⟩
  unfold Work.woken
  split <;> exact ⟨rfl, rfl, rfl, rfl⟩

theorem core_completeNext_offSeats (w : Work) (c n d : Nat) (f : Group → Group) :
    ((w.completeNext c n f).core d).offSeats = (w.core d).offSeats := core_returnAt_offSeats _ _ _ _ _ _ _

theorem team_completeNext (w : Work) (c n : Nat) (f : Group → Group) (l k : Nat) :
    (w.completeNext c n f).team l k = w.team l k := team_of_central (central_returnAt _ _ _ _ _ _) l k

theorem grp_of_cores {v w : Work} (h : v.cores = w.cores) (c n : Nat) : v.grp c n = w.grp c n := by
  unfold Work.grp Work.core
  rw [h]

theorem grp_tookRecord (w : Work) (c d m : Nat) (t : Tab MailRec) :
    (w.setCore c ((w.core c).withMail t)).grp d m = w.grp d m :=
  grp_setCore_of_groups (w := w) (c := c) (k := (w.core c).withMail t) rfl d m

theorem cores_registerTent (w : Work) (g : Group) (req : List Lane) (status : Nat) :
    (w.registerTent g req status).cores = w.cores := by
  unfold Work.registerTent Work.modTeam
  split
  · split <;> rfl
  · rfl

theorem log_registerTent (w : Work) (g : Group) (req : List Lane) (status : Nat) :
    (w.registerTent g req status).log = w.log := by
  unfold Work.registerTent Work.modTeam
  split
  · split <;> rfl
  · rfl

/-- R345: service 1 answered with status 0 registers the trap entry of the team, unless it is odd. -/
theorem team_registerTent {w : Work} {g : Group} {req : List Lane} {q : Team}
    (hkind : g.kind = .user) (hq : w.team g.launch g.lin = some q) (hl : q.launch = g.launch)
    (hn : q.lin = g.lin) (hservice : reqWord req 0 % 2 ^ 16 = 1) :
    ((w.registerTent g req 0).team g.launch g.lin).map (·.tent) =
      some (if reqWord req 2 % 2 = 0 then BitVec.ofNat 52 (reqWord req 2 + 2 ^ 32 * reqWord req 3)
        else q.tent) := by
  have hteam : g.hasTeam = true := by rw [Group.hasTeam, hkind]
  unfold Work.registerTent
  by_cases he : reqWord req 2 % 2 = 0
  · rw [if_pos ⟨hservice, rfl, hteam, he⟩, if_pos he]
    unfold Work.modTeam
    rw [hq, team_setTeam, hl, hn, if_pos rfl]
    rfl
  · rw [if_neg fun e => he e.2.2.2, if_neg he, hq]
    rfl

/-- R346 action 0: the machine when record `m`, of the group `y`, has been answered with `word`. -/
def Work.replied (w : Work) (c i : Nat) (m : MailRec) (y : Group) (word : Nat → Nat) : Work :=
  ((w.setCore c ((w.core c).withMail (tdel i (w.core c).mail))).registerTent y m.req
    (word 0 % 2 ^ 16)).completeNext c m.slot fun g => g.answered m.va m.op word

section Answer

variable {w : Work} {c i : Nat} {m : MailRec} {y : Group} {word : Nat → Nat}

theorem core_replied_offSeats (w : Work) (c i : Nat) (m : MailRec) (y : Group) (word : Nat → Nat) :
    ((w.replied c i m y word).core c).offSeats =
      ((w.core c).withMail (tdel i (w.core c).mail)).offSeats := by
  unfold Work.replied
  rw [core_completeNext_offSeats]
  unfold Work.core
  rw [cores_registerTent]
  exact congrArg Core.offSeats (core_setCore_same _ _ _)

theorem log_replied (w : Work) (c i : Nat) (m : MailRec) (y : Group) (word : Nat → Nat) :
    (w.replied c i m y word).log = w.log :=
  (log_returnAt _ _ _ _ _ _).trans (log_registerTent _ _ _ _)

theorem grp_replied (hy : w.grp c m.slot = some y) (hq : y.flights = []) :
    ∃ z, (w.replied c i m y word).grp c m.slot = some z ∧ z.pc = y.pc + 4 ∧ z.wait = .none ∧
      (∀ p ∈ z.pend, p.op ≠ m.op) ∧
      ∀ j < 16, z.v (m.va + j % 4) (j / 4) = BitVec.ofNat 32 (word j) := by
  obtain ⟨hflights, hpc', hpend'⟩ := fields_of_offVector (offVector_answered y m.va m.op word)
  have hgrp : ((w.setCore c ((w.core c).withMail (tdel i (w.core c).mail))).registerTent y m.req
      (word 0 % 2 ^ 16)).grp c m.slot = some y := by
    rw [grp_of_cores (cores_registerTent _ _ _ _), grp_tookRecord, hy]
  obtain ⟨z, hz, hpc, hwait, hpend, hv⟩ := grp_completeNext (f := fun g => g.answered m.va m.op word)
    hgrp (hflights.trans hq)
  refine ⟨z, hz, hpc.trans (by rw [hpc']; rfl), hwait, fun p hp => ?_,
    fun j hj => ?_⟩
  · rw [hpend.trans hpend'] at hp
    exact pend_unpend y m.op p hp
  · exact (congrArg (tget 0 _) hv).trans (v_answered y m.va m.op word hj)

theorem team_replied (hkind : y.kind = .user) {q : Team} (hq : w.team y.launch y.lin = some q)
    (hl : q.launch = y.launch) (hn : q.lin = y.lin) (hservice : reqWord m.req 0 % 2 ^ 16 = 1)
    (hstatus : word 0 % 2 ^ 16 = 0) :
    ((w.replied c i m y word).team y.launch y.lin).map (·.tent) =
      some (if reqWord m.req 2 % 2 = 0
        then BitVec.ofNat 52 (reqWord m.req 2 + 2 ^ 32 * reqWord m.req 3) else q.tent) := by
  unfold Work.replied
  rw [hstatus, team_completeNext]
  exact team_registerTent hkind hq hl hn hservice

theorem replyMail_eq (hm : tfind i (w.core c).mail = some m) (hq : (w.core c).mailq = [])
    (hy : w.grp c m.slot = some y) :
    w.replyMail c i =
      some (w.replied c i m y fun j => (w.core c).bufNum 3 (mailAddr i + 4 * j) 4) := by
  have hqueue : ∀ word, ((w.replied c i m y word).core c).mailq = [] := fun word =>
    (congrArg Core.mailq (core_replied_offSeats w c i m y word) :).trans hq
  have hgrp : (w.setCore c ((w.core c).withMail (tdel i (w.core c).mail))).grp c m.slot = some y := by
    rw [grp_tookRecord, hy]
  have hnext : ∀ v : Work, (v.core c).mailq = [] → v.nextCaller c i = v := by
    intro v hv
    unfold Work.nextCaller
    rw [hv]
  unfold Work.replyMail
  rw [hm]
  dsimp only
  rw [show ∀ k : Core, ({ k with mail := tdel i k.mail } : Core) = k.withMail (tdel i k.mail) from
    fun _ => rfl, hgrp]
  exact congrArg some (hnext (w.replied c i m y fun j => (w.core c).bufNum 3 (mailAddr i + 4 * j) 4)
    (hqueue _))

end Answer

end Sys2Proof.Machine
end

section
/-!
PROOFS. MBREPLY (R346) ends the page fault of a group and releases a stopped team; the mailbox as a
whole.
-/

namespace Sys2Proof.Machine

open Sys2Proof.Claim

/-! ## A page fault ends -/

/-- A group whose page fault has been answered: it goes on, or traps where the page is not there. -/
def Group.faultEnded (va : Word) (lanes : Word) (resolved : Bool) (g : Group) : Group :=
  if resolved then g else { g with raise := some (0x0A, va, lanes) }

theorem endFault_eq {w : Work} {c n va : Nat} {y : Group} {wr : Bool} {lanes : Word} (b : Bool)
    (hy : w.grp c n = some y) (hw : y.wait = .fault va wr lanes) :
    w.endFault c n b = some (w.return_ c n (Group.faultEnded (natWord va) lanes b)) := by
  unfold Work.endFault
  simp only [hy, hw]
  rfl

theorem grp_faultEnded {w : Work} {c n : Nat} {y : Group} (va lanes : Word) (b : Bool)
    (hy : w.grp c n = some y) :
    ∃ z, (w.return_ c n (Group.faultEnded va lanes b)).grp c n = some z ∧ z.wait = .none ∧
      z.pc = y.pc ∧ z.raise = if b then y.raise else some (0x0A, va, lanes) := by
  unfold Work.return_ Work.returnKey
  rw [grp_returnAt, if_pos ⟨rfl, rfl⟩, hy, Option.map_some]
  refine ⟨_, rfl, ?_⟩
  unfold Work.woken
  cases b <;> split <;> exact ⟨rfl, rfl, rfl⟩

/-! ## A stopped team is released -/

/-- The group in place `m` is released; one of another core than `c` 8 cycles later. -/
def Work.releasedAt (w : Work) (c : Nat) (m : Nat × Nat) : Work :=
  (w.modGrp m.1 m.2 fun g => g.release ((w.core m.1).cycle + if m.1 = c then 0 else 8)).gate m.1 m.2
    (Config.clusterOf m.1 % 12)

theorem grp_releasedAt_other {w : Work} {c d k : Nat} {m : Nat × Nat} (h : ¬(d = m.1 ∧ k = m.2)) :
    (w.releasedAt c m).grp d k = w.grp d k := by
  unfold Work.releasedAt
  rw [grp_gate, if_neg h, grp_modGrp, if_neg h]

theorem grp_releasedAt_same {w : Work} {c : Nat} {m : Nat × Nat} {y : Group}
    (hy : w.grp m.1 m.2 = some y) :
    ∃ z, (w.releasedAt c m).grp m.1 m.2 = some z ∧ z.stopped = false ∧
      z.pc = if y.trapStop then y.pc else y.hpc := by
  unfold Work.releasedAt
  rw [grp_gate, if_pos ⟨rfl, rfl⟩, grp_modGrp, hy]
  simp only [and_self, if_true, Option.map_some]
  have hoff := offSeat_woken (w.modGrp m.1 m.2 fun g =>
    g.release ((w.core m.1).cycle + if m.1 = c then 0 else 8)) m.1
    (y.release ((w.core m.1).cycle + if m.1 = c then 0 else 8))
  exact ⟨_, rfl, (congrArg Group.stopped hoff :), (congrArg Group.pc hoff :)⟩

theorem central_releasedAt (w : Work) (c : Nat) (m : Nat × Nat) :
    (w.releasedAt c m).toMach.central = w.toMach.central := by
  unfold Work.releasedAt
  rw [central_gate]
  unfold Work.modGrp
  split <;> rfl

theorem log_releasedAt (w : Work) (c : Nat) (m : Nat × Nat) : (w.releasedAt c m).log = w.log :=
  (log_gate _ _ _ _).trans (log_modGrp _ _ _ _)

/-- Each of the places is released once. -/
theorem grp_releasedAt_fold (c : Nat) {l : List (Nat × Nat)} (hl : l.Nodup) {m : Nat × Nat} (hm : m ∈ l)
    {w : Work} {y : Group} (hy : w.grp m.1 m.2 = some y) :
    ∃ z, (l.foldl (fun w m => w.releasedAt c m) w).grp m.1 m.2 = some z ∧ z.stopped = false ∧
      z.pc = if y.trapStop then y.pc else y.hpc := by
  induction l generalizing w with
  | nil => cases hm
  | cons p l ih =>
    obtain ⟨hp, hnd⟩ := List.nodup_cons.mp hl
    rw [List.foldl_cons]
    by_cases hmp : m = p
    · subst hmp
      obtain ⟨z, hz, hfix⟩ := grp_releasedAt_same (c := c) hy
      refine ⟨z, ?_, hfix⟩
      rw [foldl_unwritten (get := fun v : Work => v.grp m.1 m.2) fun v q hq =>
        grp_releasedAt_other fun e => hp (Prod.ext e.1 e.2 ▸ hq)]
      exact hz
    · refine ih hnd ((List.mem_cons.mp hm).resolve_left hmp) ?_
      rw [grp_releasedAt_other fun e => hmp (Prod.ext e.1 e.2)]
      exact hy

/-- R34: messages that a save has held arrive at the team's core. -/
def Work.arrived (w : Work) (c : Nat) (ams : List AmMsg) : Work :=
  ams.foldl (fun w m => w.modCore c fun k => k.amArrive m) w

theorem groups_amArrive (k : Core) (m : AmMsg) : (k.amArrive m).groups = k.groups := by
  unfold Core.amArrive
  split <;> rfl

theorem groups_arrived (w : Work) (c d : Nat) (ams : List AmMsg) :
    ((w.arrived c ams).core d).groups = (w.core d).groups := by
  unfold Work.arrived
  refine foldl_unwritten (get := fun v : Work => (v.core d).groups) (fun v m _ => ?_) w
  rw [core_modCore]
  split
  · next e => rw [groups_amArrive, e]
  · rfl

theorem central_arrived (w : Work) (c : Nat) (ams : List AmMsg) :
    (w.arrived c ams).toMach.central = w.toMach.central := by
  unfold Work.arrived
  refine foldl_unwritten (get := fun v : Work => v.toMach.central) (fun v m _ => ?_) w
  rfl

theorem log_arrived (w : Work) (c : Nat) (ams : List AmMsg) : (w.arrived c ams).log = w.log := by
  unfold Work.arrived
  refine foldl_unwritten (get := fun v : Work => v.log) (fun v m _ => ?_) w
  rfl

theorem members_of_groups {v w : Work} (h : ∀ d, (v.core d).groups = (w.core d).groups) (t : Team)
    (f : Group → Bool) : v.members t f = w.members t f := by
  unfold Work.members Core.slotsOf
  simp only [h]

/-- R346 action 3: the team is no longer stopped. -/
def Team.released (t : Team) : Team :=
  { t with
    stop := none, loaded := false
    heldAm := if t.loaded then t.heldAm.filter (·.ord) else t.heldAm }

/-- The messages that a release sends on. -/
def Team.sentOn (t : Team) : List AmMsg := if t.loaded then t.heldAm.filter fun m => !m.ord else []

theorem releaseTeam_eq {w : Work} {c n : Nat} {y : Group} {q : Team} (hy : w.grp c n = some y)
    (hstop : y.stopped = true) (hkind : y.kind ≠ .handlerCore) (hq : w.team y.launch y.lin = some q)
    (hall : w.members q (fun z => !z.stopped) = []) :
    w.releaseTeam c n = some
      ((((w.setTeam q.released).arrived q.home q.sentOn).members q.released fun _ => true).foldl
        (fun w m => w.releasedAt c m) ((w.setTeam q.released).arrived q.home q.sentOn)) := by
  unfold Work.releaseTeam
  rw [hy]
  dsimp only
  rw [hstop, if_neg (by decide), if_neg hkind, hq]
  dsimp only
  rw [hall]
  rfl

theorem members_single {w : Work} {t : Team} (h : t.twin = false) (f : Group → Bool) :
    w.members t f = ((w.core t.home).slotsOf fun g => decide (g.kind ≠ .run) &&
      decide (g.launch = t.launch) && decide (g.lin = t.lin) && f g).map fun n => (t.home, n) := by
  unfold Work.members Team.cores
  simp [h]

theorem mem_slotsOf {w : Work} {c n : Nat} {y : Group} {f : Group → Bool} (hy : w.grp c n = some y)
    (hf : f y = true) : n ∈ (w.core c).slotsOf f := by
  unfold Core.slotsOf
  exact List.mem_map.mpr ⟨(n, y), List.mem_filter.mpr ⟨mem_of_tfind hy, hf⟩, rfl⟩

theorem nodup_slotsOf {k : Core} (h : (tkeys k.groups).Nodup) (f : Group → Bool) :
    (k.slotsOf f).Nodup := List.Nodup.sublist (List.filter_sublist.map _) h

/-- R346 action 3: the groups of a stopped team go on. -/
theorem releaseTeam_goes {s : State} {c n : Nat} {y : Group} {q : Team}
    (hy : s.work.grp c n = some y) (hstop : y.stopped = true) (hm : Member s y q) (hhome : q.home = c)
    (hnd : (tkeys (s.work.core c).groups).Nodup)
    (hall : s.work.members q (fun z => !z.stopped) = []) :
    ∃ w' z r, s.work.releaseTeam c n = some w' ∧ w'.log = [] ∧ w'.grp c n = some z ∧
      z.stopped = false ∧ z.pc = (if y.trapStop then y.pc else y.hpc) ∧
      w'.team y.launch y.lin = some r ∧ r.stop = none := by
  obtain ⟨hkind, hteam, hlaunch, hlin, htwin⟩ := hm
  subst hhome
  have hgroups : ∀ d, ((((s.work.setTeam q.released).arrived q.home q.sentOn).core d).groups) =
      (s.work.core d).groups := fun d => groups_arrived _ _ _ _
  have hgrp : ((s.work.setTeam q.released).arrived q.home q.sentOn).grp q.home n = some y :=
    (congrArg (tfind n) (hgroups q.home)).trans hy
  have hmembers := members_single (w := (s.work.setTeam q.released).arrived q.home q.sentOn)
    (t := q.released) htwin fun _ => true
  have hin : (q.home, n) ∈
      ((s.work.setTeam q.released).arrived q.home q.sentOn).members q.released fun _ => true := by
    rw [hmembers]
    refine List.mem_map.mpr ⟨n, mem_slotsOf hgrp ?_, rfl⟩
    simp [hkind, Team.released, hlaunch, hlin]
  have hnodup : (((s.work.setTeam q.released).arrived q.home q.sentOn).members q.released
      fun _ => true).Nodup := by
    rw [hmembers]
    refine List.Nodup.map (fun _ _ e => (Prod.mk.inj e).2) (nodup_slotsOf ?_ _)
    rw [show q.released.home = q.home from rfl, hgroups]
    exact hnd
  obtain ⟨z, hz, hzstop, hzpc⟩ := grp_releasedAt_fold q.home hnodup hin hgrp
  refine ⟨_, z, q.released, releaseTeam_eq hy hstop (by rw [hkind]; decide) hteam hall, ?_, hz, hzstop, hzpc, ?_, rfl⟩
  · rw [foldl_unwritten (get := fun v : Work => v.log) fun v m _ => log_releasedAt v _ m, log_arrived]
    rfl
  · have hcentral := (foldl_unwritten (get := fun v : Work => v.toMach.central)
      (l := ((s.work.setTeam q.released).arrived q.home q.sentOn).members q.released fun _ => true)
      (fun v m _ => central_releasedAt v q.home m) _).trans
      (central_arrived (s.work.setTeam q.released) q.home q.sentOn)
    rw [team_of_central hcentral, ← hlaunch, ← hlin]
    exact team_setTeam_same _ _

/-! ## The mailbox -/

section Answered

variable {s : State} {c n : Nat} {g : Group}

theorem mail_of_offSeats {k l : Core} {t : Tab MailRec} (h : k.offSeats = (l.withMail t).offSeats) :
    k.mail = t := (congrArg Core.mail h :)

theorem supervisor_slot_ne {m : Nat} {y : Group} (hr : Ready s c n g) (hk : g.kind = .supervisor)
    (hy : s.work.grp c m = some y) (hkind : y.kind ≠ .supervisor) : m ≠ n := by
  rintro rfl
  rw [hr.here] at hy
  exact hkind (Option.some.inj hy ▸ hk)

/-- R346 action 0: MBREPLY answers a record. -/
theorem mbreply_answers (hr : Ready s c n g) (hk : g.kind = .supervisor) (x : BitVec 2) (a : BitVec 6)
    {m : MailRec} {y : Group} (ha : (g.s a.toNat).toNat / 64 % 4 = 0)
    (hm : tfind ((g.s a.toNat).toNat % 16) (s.work.core c).mail = some m)
    (hq : (s.work.core c).mailq = []) (hne : m.slot ≠ n) (hy : s.work.grp c m.slot = some y)
    (hflights : y.flights = []) :
    let word := fun j =>
      (s.work.core c).bufNum 3 (mailAddr ((g.s a.toNat).toNat % 16) + 4 * j) 4
    ∃ t h z, Goes s t c n g (.mbreply x a) { fl := true } h ∧
      h.settled.sfl = mkSfl true false false false ∧
      tfind ((g.s a.toNat).toNat % 16) (t.work.core c).mail = none ∧
      t.work.grp c m.slot = some z ∧
      z.pc = y.pc + 4 ∧ z.wait = .none ∧ (∀ p ∈ z.pend, p.op ≠ m.op) ∧
      (∀ j < 16, z.v (m.va + j % 4) (j / 4) = BitVec.ofNat 32 (word j)) ∧
      ∀ q, Member s y q → reqWord m.req 0 % 2 ^ 16 = 1 → word 0 % 2 ^ 16 = 0 →
        (t.work.team y.launch y.lin).map (·.tent) =
          some (if reqWord m.req 2 % 2 = 0
            then BitVec.ofNat 52 (reqWord m.req 2 + 2 ^ 32 * reqWord m.req 3) else q.tent) := by
  intro word
  have hreply : s.work.mbreplied c (g.s a.toNat).toNat =
      some (s.work.replied c ((g.s a.toNat).toNat % 16) m y word) := by
    unfold Work.mbreplied
    rw [ha]
    exact replyMail_eq hm hq hy
  obtain ⟨t, h, hgoes, hsfl, hafter⟩ := mbreply_some (x := x) hr hk hreply (log_replied _ _ _ _ _ _)
  obtain ⟨z, hz, hfields⟩ := grp_replied (i := (g.s a.toNat).toNat % 16) (word := word) hy hflights
  have hmail := mail_of_offSeats ((offSeats_of_rest (hafter.core c)).trans
    (core_replied_offSeats s.work c ((g.s a.toNat).toNat % 16) m y word))
  obtain ⟨hpc, hwait, hpend, hv⟩ := hfields
  refine ⟨t, h, z, hgoes, hsfl, ?_, (hafter.other c m.slot fun e => hne e.2).trans hz, hpc, hwait,
    hpend, hv, fun q hmem hservice hstatus => ?_⟩
  · rw [hmail]
    exact tfind_tdel_same _ _
  · rw [hafter.team]
    exact team_replied hmem.kind hmem.team hmem.launch hmem.lin hservice hstatus

/-- R346 actions 1 and 2: MBREPLY ends the page fault of a group. -/
theorem mbreply_endsFault (hr : Ready s c n g) (hk : g.kind = .supervisor) (x : BitVec 2)
    (a : BitVec 6) {y : Group} {va : Nat} {wr : Bool} {lanes : Word}
    (ha : (g.s a.toNat).toNat / 64 % 4 = 1 ∨ (g.s a.toNat).toNat / 64 % 4 = 2)
    (hne : (g.s a.toNat).toNat % 64 ≠ n) (hy : s.work.grp c ((g.s a.toNat).toNat % 64) = some y)
    (hw : y.wait = .fault va wr lanes) :
    ∃ t h z, Goes s t c n g (.mbreply x a) { fl := true } h ∧
      h.settled.sfl = mkSfl true false false false ∧
      t.work.grp c ((g.s a.toNat).toNat % 64) = some z ∧ z.wait = .none ∧ z.pc = y.pc ∧
      z.raise = if (g.s a.toNat).toNat / 64 % 4 = 1 then y.raise
        else some (0x0A, natWord va, lanes) := by
  obtain ⟨b, hb, hreply⟩ : ∃ b : Bool, (b = true ↔ (g.s a.toNat).toNat / 64 % 4 = 1) ∧
      s.work.mbreplied c (g.s a.toNat).toNat =
        s.work.endFault c ((g.s a.toNat).toNat % 64) b := by
    unfold Work.mbreplied
    rcases ha with ha | ha <;> rw [ha]
    · exact ⟨true, by simp, rfl⟩
    · exact ⟨false, by simp, rfl⟩
  obtain ⟨t, h, hgoes, hsfl, hafter⟩ := mbreply_some (x := x) hr hk (hreply.trans (endFault_eq b hy hw))
    (log_returnAt _ _ _ _ _ _)
  obtain ⟨z, hz, hwait, hpc, hraise⟩ := grp_faultEnded (natWord va) lanes b hy
  refine ⟨t, h, z, hgoes, hsfl, (hafter.other c _ fun e => hne e.2).trans hz, hwait, hpc, ?_⟩
  simpa [hb] using hraise

/-- R346 action 3: MBREPLY releases a stopped team. -/
theorem mbreply_releases (hr : Ready s c n g) (hk : g.kind = .supervisor) (x : BitVec 2)
    (a : BitVec 6) {y : Group} {q : Team} (ha : (g.s a.toNat).toNat / 64 % 4 = 3)
    (hy : s.work.grp c ((g.s a.toNat).toNat % 64) = some y) (hstop : y.stopped = true)
    (hm : Member s y q) (hhome : q.home = c) (hnd : (tkeys (s.work.core c).groups).Nodup)
    (hall : s.work.members q (fun z => !z.stopped) = []) :
    ∃ t h z r, Goes s t c n g (.mbreply x a) { fl := true } h ∧
      h.settled.sfl = mkSfl true false false false ∧
      t.work.grp c ((g.s a.toNat).toNat % 64) = some z ∧ z.stopped = false ∧
      z.pc = (if y.trapStop then y.pc else y.hpc) ∧
      t.work.team y.launch y.lin = some r ∧ r.stop = none := by
  obtain ⟨w', z, r, hw, hlog, hz, hzstop, hzpc, hteam, hr'⟩ :=
    releaseTeam_goes hy hstop hm hhome hnd hall
  have hreply : s.work.mbreplied c (g.s a.toNat).toNat = some w' := by
    unfold Work.mbreplied
    rw [ha]
    exact hw
  obtain ⟨t, h, hgoes, hsfl, hafter⟩ := mbreply_some (x := x) hr hk hreply hlog
  have hne := supervisor_slot_ne hr hk hy (by rw [hm.kind]; decide)
  exact ⟨t, h, z, r, hgoes, hsfl, (hafter.other c _ fun e => hne e.2).trans hz, hzstop, hzpc,
    (hafter.team _ _).trans hteam, hr'⟩

/-- R346 action 0: MBREPLY finds no such record. -/
theorem mbreply_misses (hr : Ready s c n g) (hk : g.kind = .supervisor) (x : BitVec 2)
    (a : BitVec 6) (ha : (g.s a.toNat).toNat / 64 % 4 = 0)
    (hm : tfind ((g.s a.toNat).toNat % 16) (s.work.core c).mail = none) :
    Completes s c n g (.mbreply x a) (g.pc + 4) g { fl := true } fun h =>
      h.sfl = mkSfl false false false true :=
  mbreply_none hr hk (by
    unfold Work.mbreplied
    rw [ha]
    show s.work.replyMail c _ = none
    unfold Work.replyMail
    rw [hm])

end Answered

/-- Settles O37: each instruction's step is followed through, and what a reply does to its caller, to a
faulting group and to a stopped team stands apart from what the issue itself does. -/
theorem mailbox : Obligations.Mailbox := by
  unfold Obligations.Mailbox
  refine ⟨fun s c n g hr hteam x v i hquad hservice hfree hq =>
    svcall_posts hr hteam x v hquad hservice hfree hq, fun s c n g hr hk x a d => ?_⟩
  refine ⟨fun e rest hd hevq hheld => mbpop_takes hr hk x d hd hevq hheld,
    fun hd hevq => mbpop_waits hr hk x d hd hevq, fun ha hm => mbreply_misses hr hk x a ha hm,
    fun m y ha hm hq hne hy hflights _ => mbreply_answers hr hk x a ha hm hq hne hy hflights,
    fun y va wr lanes ha hne hy hw => mbreply_endsFault hr hk x a ha hne hy hw,
    fun y q ha hy hstop hm hhome hnd hall => mbreply_releases hr hk x a ha hy hstop hm hhome hnd hall⟩

end Sys2Proof.Machine
end

section
/-!
SUPPORT. Fences inside other instructions: a release that has nothing to wait for (R190, R203), an
acquire (R191), and an issue that changes no register.
-/

namespace Sys2Proof.Machine

open Sys2Proof.Claim

/-! ## An instruction of four bytes that changes no register -/

variable {s : State} {c n : Nat} {g g' : Group} {f : Form} {w w' : Work} {i : Instr}

theorem keeps_of_sameRegs {h : Group} (e : g.SameRegs h) (d : Dst) : Keeps g h d :=
  ⟨fun b r _ => (e.sIn b r).symm, fun b r _ => (e.mIn b r).symm, fun r l _ _ => (e.v r l).symm,
    fun _ => e.sfl.symm⟩

theorem sameRegs_moved (g : Group) (step cycle : Nat) (pc : Pc) : g.SameRegs (g.moved step cycle pc) :=
  ⟨rfl, rfl, rfl, rfl, rfl, rfl, rfl, rfl⟩

theorem settled_moved (hq : g.flights = []) (step cycle : Nat) (pc : Pc) :
    (g.moved step cycle pc).settled = g.moved step cycle pc :=
  age_of_no_flights _ ((moved_flights g step cycle pc).trans hq) 8

theorem fixed_of_moved (g : Group) (step cycle : Nat) (pc : Pc) :
    (g.moved step cycle pc).fixed = g.fixed := fixed_moved g step cycle pc

/-- The group of a completed instruction, where that has put no write in flight. -/
theorem grp_gone (hq : g'.flights = []) :
    (gone f s w' c n g g').work.grp c n =
      some (g'.moved f.step (w'.core c).cycle (g.pc + 4)) := by
  unfold gone
  rw [commit_grp, grp_finish, after_of_quiet hq]

theorem goes_still (he : exec i s = .next (gone f s w' c n g g')) (hlog : w'.log = [])
    (hq : g'.flights = []) (hregs : g.SameRegs g') :
    Goes s (gone f s w' c n g g') c n g i {} (g'.moved f.step (w'.core c).cycle (g.pc + 4)) := by
  refine ⟨he, commit_mem _ _ ((log_finish _ _ _ _ _ _).trans hlog), grp_gone hq, rfl, ?_⟩
  rw [settled_moved hq]
  exact keeps_of_sameRegs (hregs.trans (sameRegs_moved g' _ _ _)) _

theorem issues_still {e : Group} (hlog : w'.log = []) (hq : g'.flights = []) (hregs : g.SameRegs g')
    (hfix : g'.fixed = e.fixed) (hother : ∀ j m, w'.grp j m = s.work.grp j m) :
    Issues s (gone f s w' c n g g') c n g 4 e := by
  refine ⟨⟨_, grp_gone hq, rfl, ?_, ?_⟩, commit_mem _ _ ((log_finish _ _ _ _ _ _).trans hlog),
    fun j m h => (grp_finish_other _ _ _ _ _ _ _ _ fun e => h (Prod.ext e.1 e.2)).trans (hother j m)⟩
  · rw [settled_moved hq, fixed_of_moved, hfix]
  · rw [settled_moved hq]
    exact keeps_of_sameRegs (hregs.trans (sameRegs_moved g' _ _ _)) _

/-! ## Releases -/

theorem teamOf_member {y : Team} (hm : Member s g y) : s.work.teamOf g = some y := by
  rw [Work.teamOf, hm.kind]
  exact hm.team

theorem recOf_member {y : Team} (hm : Member s g y) :
    s.work.recOf g = ((s.work.launch? g.launch).map (·.record)).getD 0 := by
  rw [Work.recOf, if_neg (by rw [hm.kind]; decide)]

/-- A group whose release has ended. -/
def Group.unreleased (g : Group) : Group := { g with rel := none }

/-- R183: TEAM asks nothing of the release of a team on one core. -/
theorem release_team {y : Team} (hm : Member s g y) (c : Nat) :
    s.work.release c g 1 = .done s.work g.unreleased := by
  have h : s.work.relScope g 1 = 0 := by
    unfold Work.relScope
    rw [teamOf_member hm]
    simp [hm.single]
  unfold Work.release
  rw [h]
  rfl

/-- R190, R203: the release is over. -/
theorem release_over {k : Nat} (hr : Released s g k) (hcur : s.cur = (c, n)) :
    s.work.release c g k = .done s.work g.unreleased := by
  unfold Work.release
  rcases hr with h | ⟨r, hrel, hphase, hacks, hafter⟩
  · rw [h]
    rfl
  · dsimp only
    split
    · rfl
    · have hover : (s.work.core c).relOver r = true := by
        unfold Core.relOver
        rw [hacks, decide_eq_true rfl, Bool.true_and, List.all_eq_true]
        intro t ht
        rw [show c = s.cur.1 by rw [hcur], hafter t ht]
        rfl
      rw [hrel]
      simp only [hphase]
      rw [if_pos hover]
      rfl

/-! ## Acquires -/

theorem mem_tdel_key {α : Type} {p : Nat × α} {k : Nat} {t : Tab α} (h : p ∈ tdel k t) : p.1 ≠ k := by
  induction t with
  | nil => simp [tdel] at h
  | cons q t ih =>
    obtain ⟨i, x⟩ := q
    simp only [tdel] at h
    split at h
    · exact ih h
    · next hne =>
      rcases List.mem_cons.1 h with h | h
      · rw [h]
        exact hne
      · exact ih h

theorem mem_l1_dropped {l : List (Nat × L1Line)} {k : Core} {q : Nat × L1Line}
    (h : q ∈ (l.foldl (fun k x => k.l1Drop x.1) k).l1) : q ∈ k.l1 ∧ ∀ x ∈ l, q.1 ≠ x.1 := by
  induction l generalizing k with
  | nil => exact ⟨h, by simp⟩
  | cons x l ih =>
    obtain ⟨hmem, hkeys⟩ := ih h
    have hin : q ∈ tdel x.1 k.l1 := hmem
    exact ⟨mem_tdel hin, List.forall_mem_cons.mpr ⟨mem_tdel_key hin, hkeys⟩⟩

/-- R191: no line with the property is left in L1, and no fill in flight of such a line is installed. -/
theorem l1Invalidate_leaves (k : Core) (p : Nat → L1Line → Bool) (f : Fill → Bool) :
    (∀ q ∈ (k.l1Invalidate p f).l1, p q.2.line q.2 = false) ∧
      ∀ q ∈ (k.l1Invalidate p f).fills, f q.2 = true → q.2.install = false := by
  unfold Core.l1Invalidate
  dsimp only
  refine ⟨fun q hq => ?_, fun q hq => ?_⟩
  · obtain ⟨hmem, hkeys⟩ := mem_l1_dropped hq
    by_contra hp
    exact hkeys q (List.mem_filter.mpr ⟨hmem, by simpa using hp⟩) rfl
  · obtain ⟨x, -, rfl⟩ := List.mem_map.mp hq
    dsimp only
    split
    · exact fun _ => rfl
    · next h => exact fun e => absurd e h

theorem inb_l1Invalidate (k : Core) (p : Nat → L1Line → Bool) (f : Fill → Bool) :
    (k.l1Invalidate p f).inb = k.inb := by
  unfold Core.l1Invalidate
  refine foldl_unwritten (get := Core.inb) (l := k.l1.filter fun x => p x.2.line x.2)
    (fun k x _ => ?_) k
  rfl

/-- The core as an acquire takes it up: it remembers its filter, which is cleared. -/
def Core.acquiring (k : Core) : Core := { k.markAcquire k.inb with inb := 0 }

theorem acquire_eq (w : Work) (c : Nat) :
    w.acquire c false = w.setCore c ((w.core c).acquiring.l1Invalidate
      (fun line l => !l.ro && (sigLine (w.core c).inb line || (false && (w.place (128 * line)).isRemote)))
      fun f => sigLine (w.core c).inb f.req.line) := rfl

theorem grp_acquire (w : Work) (c d m : Nat) : (w.acquire c false).grp d m = w.grp d m := by
  have h : ((w.acquire c false).core c).groups = (w.core c).groups :=
    (congrArg Core.groups (core_acquire_offL1 w c false) :)
  rw [acquire_eq] at h ⊢
  rw [core_setCore_same] at h
  exact grp_setCore_of_groups h d m

theorem log_acquire (w : Work) (c : Nat) : (w.acquire c false).log = w.log := by
  rw [acquire_eq]
  rfl

theorem team_acquire (w : Work) (c l k : Nat) : (w.acquire c false).team l k = w.team l k := by
  rw [acquire_eq]
  rfl

/-- R191: what an acquire leaves, seen from a machine that has the same filter in the core. -/
theorem acquired_of_rest {t : State} (hinb : (w.core c).inb = (s.work.core c).inb)
    (h : (t.work.core c).rest = ((w.acquire c false).core c).rest) : Acquired s t c false := by
  obtain ⟨hl1, hfills⟩ := l1Invalidate_leaves (w.core c).acquiring
    (fun line l => !l.ro && (sigLine (w.core c).inb line || (false && (w.place (128 * line)).isRemote)))
    (fun f => sigLine (w.core c).inb f.req.line)
  have hinb' := inb_l1Invalidate (w.core c).acquiring
    (fun line l => !l.ro && (sigLine (w.core c).inb line || (false && (w.place (128 * line)).isRemote)))
    (fun f => sigLine (w.core c).inb f.req.line)
  rw [acquire_eq, core_setCore_same] at h
  refine ⟨(congrArg Core.inb h :).trans hinb', fun q hq => ?_, fun q hq hsig => ?_⟩
  · have hl := hl1 q ((congrArg Core.l1 h :) ▸ hq)
    cases hro : q.2.ro
    · refine .inr ⟨?_, fun e => Bool.noConfusion e⟩
      simpa [hro, hinb] using hl
    · exact .inl rfl
  · exact hfills q ((congrArg Core.fills h :) ▸ hq) (by rw [hinb]; exact hsig)

theorem acquireThen_quiet {c n k : Nat} {next : Work → Group → Res} (hk : k ≠ 0) (hk' : k ≠ 4)
    (h : (w.core c).loading n g = false) :
    acquireThen w c n g k next = next (w.acquire c false) g := by
  unfold acquireThen
  rw [h, if_neg hk, decide_eq_false hk']
  rfl

end Sys2Proof.Machine
end

section
/-!
PROOFS. Barriers of a team (R241, R242): BARA, BAR and BARW.
-/

namespace Sys2Proof.Machine

open Sys2Proof.Claim

/-! ## Sets of group indices -/

theorem has_with (a i j : Nat) : has (with_ a i) j = (has a j || decide (i = j)) := by
  unfold has with_
  rw [Nat.testBit_or, Nat.testBit_two_pow]

theorem has_with_same (a i : Nat) : has (with_ a i) i = true := by simp [has_with]

theorem with_ne_zero (a i : Nat) : with_ a i ≠ 0 := by
  intro h
  have := has_with_same a i
  rw [h] at this
  simp [has] at this

theorem has_zero (i : Nat) : has 0 i = false := Nat.zero_testBit i

/-! ## Groups of a team return -/

theorem core_wakeTeam_offSeats (w : Work) (t : Team) (p : Group → Bool) (d : Nat) :
    ((w.wakeTeam t p).core d).offSeats = (w.core d).offSeats := by
  unfold Work.wakeTeam
  refine foldl_unwritten (get := fun v : Work => (v.core d).offSeats) (fun v m _ => ?_) w
  exact core_returnAt_offSeats _ _ _ _ _ _ _

theorem central_wakeTeam (w : Work) (t : Team) (p : Group → Bool) :
    (w.wakeTeam t p).toMach.central = w.toMach.central := by
  unfold Work.wakeTeam
  refine foldl_unwritten (get := fun v : Work => v.toMach.central) (fun v m _ => ?_) w
  exact central_returnAt _ _ _ _ _ _

theorem log_wakeTeam (w : Work) (t : Team) (p : Group → Bool) : (w.wakeTeam t p).log = w.log := by
  unfold Work.wakeTeam
  refine foldl_unwritten (get := fun v : Work => v.log) (fun v m _ => ?_) w
  exact log_returnAt _ _ _ _ _ _

theorem team_modTeam (w : Work) {t : Team} {l i : Nat} (h : w.team l i = some t) (f : Team → Team)
    (hl : (f t).launch = l) (hi : (f t).lin = i) : (w.modTeam l i f).team l i = some (f t) := by
  unfold Work.modTeam
  rw [h]
  simp [team_setTeam, hl, hi]

theorem cores_modTeam (w : Work) (l i : Nat) (f : Team → Team) : (w.modTeam l i f).cores = w.cores := by
  unfold Work.modTeam
  split <;> rfl

theorem log_modTeam (w : Work) (l i : Nat) (f : Team → Team) : (w.modTeam l i f).log = w.log := by
  unfold Work.modTeam
  split <;> rfl

theorem core_of_cores {v w : Work} (h : v.cores = w.cores) (c : Nat) : v.core c = w.core c :=
  congrArg (tget Core.init c) h

/-! ## A phase completes -/

/-- A barrier whose phase has completed. -/
def Barrier.flipped (x : Barrier) : Barrier := { x with phase := !x.phase, arr := 0 }

theorem bar_setBar (t : Team) (b : Nat) (x : Barrier) : (t.setBar b x).bar b = x :=
  tget_tput_same _ _ _ _

theorem loads_releaseAms (w : Work) (t : Team) (d : Nat) :
    ((w.releaseAms t).core d).loads = (w.core d).loads := by
  have arrive : ∀ (l : List AmMsg) (k : Core), (l.foldl Core.amArrive k).loads = k.loads := by
    intro l k
    refine foldl_unwritten (get := Core.loads) (fun k m _ => ?_) k
    unfold Core.amArrive
    split <;> rfl
  unfold Work.releaseAms
  dsimp only
  rw [core_modCore]
  split
  · next e => rw [arrive, core_of_cores (cores_modTeam _ _ _ _), e]
  · rw [core_of_cores (cores_modTeam _ _ _ _)]

theorem log_releaseAms (w : Work) (t : Team) : (w.releaseAms t).log = w.log := log_modTeam _ _ _ _

theorem team_releaseAms {w : Work} {t : Team} (h : w.team t.launch t.lin = some t) :
    (w.releaseAms t).team t.launch t.lin = some { t with heldAm := [] } :=
  team_modTeam w h (fun t => { t with heldAm := [] }) rfl rfl

theorem loads_phaseChange (w : Work) (t : Team) (b d : Nat) :
    ((w.phaseChange t b).core d).loads = (w.core d).loads := by
  have woken : ∀ (v : Work) (z : Team) (p : Group → Bool),
      ((v.wakeTeam z p).core d).loads = (v.core d).loads :=
    fun v z p => (congrArg Core.loads (core_wakeTeam_offSeats v z p d) :)
  unfold Work.phaseChange
  dsimp only
  split
  · rw [loads_releaseAms, woken]
    rfl
  · rw [woken]
    rfl

theorem log_phaseChange (w : Work) (t : Team) (b : Nat) : (w.phaseChange t b).log = w.log := by
  unfold Work.phaseChange
  dsimp only
  split
  · rw [log_releaseAms, log_wakeTeam]
    rfl
  · rw [log_wakeTeam]
    rfl

theorem team_phaseChange (w : Work) (t : Team) (b : Nat) :
    ∃ z, (w.phaseChange t b).team t.launch t.lin = some z ∧ z.bar b = (t.bar b).flipped := by
  have woken : ∀ p, ((w.setTeam (t.setBar b (t.bar b).flipped)).wakeTeam
      (t.setBar b (t.bar b).flipped) p).team t.launch t.lin = some (t.setBar b (t.bar b).flipped) :=
    fun p => (team_of_central (central_wakeTeam _ _ _) _ _).trans
      (team_setTeam_same w (t.setBar b (t.bar b).flipped))
  unfold Work.phaseChange
  dsimp only
  split
  · exact ⟨_, team_releaseAms (t := t.setBar b (t.bar b).flipped) (woken _), bar_setBar _ _ _⟩
  · exact ⟨_, woken _, bar_setBar _ _ _⟩

/-! ## A group arrives -/

/-- A team of which group `i` has arrived at barrier `b`. -/
def Team.barred (t : Team) (b m i : Nat) : Team :=
  t.setBar b { t.bar b with arr := with_ (t.bar b).arr i, rm := m }

/-- A group that has arrived at barrier `b` in a phase. -/
def Group.barring (g : Group) (b : Nat) (phase : Bool) : Group :=
  let rest : BitVec 16 := g.phases &&& ~~~(1#16 <<< b)
  { g.unreleased with phases := if phase then rest ||| (1#16 <<< b) else rest }

theorem barring_phase (g : Group) {b : Nat} (hb : b < 16) (phase : Bool) :
    (g.barring b phase).phases.getLsbD b = phase := by
  unfold Group.barring
  cases phase <;> simp [hb]

section Arrive

variable {s : State} {c n : Nat} {g : Group} {y : Team} {b m : Nat}

/-- What R242 asks of a group that arrives. -/
def Team.admits (y : Team) (g : Group) (b m : Nat) : Prop :=
  has (y.bar b).arr g.gidx = false ∧ ((y.bar b).arr = 0 ∨ (y.bar b).rm = m) ∧
    (m = 0 ∨ has m g.role = true)

theorem barArrive_eq (hm : Member s g y) (ha : y.admits g b m) (next : Work → Group → Res) :
    barArrive s.work c g b m next =
      next ((s.work.setTeam (y.barred b m g.gidx)).barTest y.launch y.lin b)
        (g.barring b (y.bar b).phase) := by
  obtain ⟨hnew, hmask, hrole⟩ := ha
  unfold barArrive
  rw [teamOf_member hm]
  dsimp only
  rw [if_neg (by simp [hnew]), if_neg (by rintro ⟨h, h'⟩; exact hmask.elim h h'),
    if_neg (by rintro ⟨h, h'⟩; exact hrole.elim h fun e => by simp [e] at h'), release_team hm]
  rfl

theorem barred_barTest (w : Work) (y : Team) (b m i : Nat) :
    (w.setTeam (y.barred b m i)).barTest y.launch y.lin b =
      if (w.participants y m).all (has (with_ (y.bar b).arr i)) = true then
        (w.setTeam (y.barred b m i)).phaseChange (y.barred b m i) b
      else w.setTeam (y.barred b m i) := by
  have hbar : (y.barred b m i).bar b = { y.bar b with arr := with_ (y.bar b).arr i, rm := m } :=
    bar_setBar _ _ _
  unfold Work.barTest
  rw [show (w.setTeam (y.barred b m i)).team y.launch y.lin = some (y.barred b m i) from
    team_setTeam_same w (y.barred b m i)]
  dsimp only
  rw [hbar]
  simp only [with_ne_zero, ne_eq, not_false_eq_true, true_and]
  rfl

theorem syncCtx_member (hm : Member s g y) : syncCtx g = true := decide_eq_true hm.kind

/-- The participants have all arrived with the last one. -/
theorem all_with {l : List Nat} {a i : Nat}
    (h : (l.filter fun j => decide (j ≠ i)).all (has a) = true) : l.all (has (with_ a i)) = true := by
  rw [List.all_eq_true] at h ⊢
  intro j hj
  rw [has_with]
  by_cases hji : i = j
  · simp [hji]
  · simp [h j (List.mem_filter.mpr ⟨hj, decide_eq_true (Ne.symm hji)⟩)]

theorem not_all_with {l : List Nat} {a i : Nat}
    (h : ∃ j ∈ l.filter fun j => decide (j ≠ i), has a j = false) :
    ¬l.all (has (with_ a i)) = true := by
  obtain ⟨j, hj, hno⟩ := h
  obtain ⟨hmem, hne⟩ := List.mem_filter.mp hj
  rw [List.all_eq_true]
  intro hall
  have := hall j hmem
  rw [has_with, hno, decide_eq_false fun e => of_decide_eq_true hne e.symm] at this
  exact Bool.noConfusion this

theorem waits_fields (g : Group) (cycle : Nat) (wt : Wait) :
    (g.waits cycle wt).pc = g.pc ∧ (g.waits cycle wt).wait = wt ∧ (g.waits cycle wt).half = g.half ∧
      (g.waits cycle wt).acquired = g.acquired := ⟨rfl, rfl, rfl, rfl⟩

theorem parked_waits {g : Group} (hk : g.kind = .user) (cycle : Nat) (wt : Wait) :
    (g.waits cycle wt).parked = true := by
  show decide (g.kind ≠ .supervisor) = true
  rw [hk]
  rfl

theorem barring_sameRegs (g : Group) (b : Nat) (p : Bool) : g.SameRegs (g.barring b p) :=
  ⟨rfl, rfl, rfl, rfl, rfl, rfl, rfl, rfl⟩

/-- A group in the second half of its instruction. -/
def Group.halfway (g : Group) : Group := { g with half := 1 }

theorem halfway_sameRegs {h : Group} (e : g.SameRegs h) : g.SameRegs h.halfway :=
  ⟨e.1, e.2, e.3, e.4, e.5, e.6, e.7, e.8⟩

/-- R242: BARA of the last participant. -/
theorem bara_completes (hr : Ready s c n g) (hm : Member s g y) (x : BitVec 2) (b m : BitVec 4)
    (ha : y.admits g b.toNat m.toNat)
    (hall : (s.work.participants y m.toNat).all (has (with_ (y.bar b.toNat).arr g.gidx)) = true) :
    ∃ t h, Goes s t c n g (.bara x b m) {} h ∧ ∃ z, t.work.team g.launch g.lin = some z ∧
      z.bar b.toNat = { y.bar b.toNat with phase := !(y.bar b.toNat).phase, arr := 0, rm := m.toNat } := by
  obtain ⟨z, hz, hbar⟩ := team_phaseChange (s.work.setTeam (y.barred b.toNat m.toNat g.gidx))
    (y.barred b.toNat m.toNat g.gidx) b.toNat
  have he := exec_gone hr (i := .bara x b m)
    (w' := (s.work.setTeam (y.barred b.toNat m.toNat g.gidx)).phaseChange
      (y.barred b.toNat m.toNat g.gidx) b.toNat)
    (g' := g.barring b.toNat (y.bar b.toNat).phase) rfl rfl rfl (syncCtx_member hm) (by
      rw [barArrive_eq hm ha, barred_barTest, if_pos hall]) rfl rfl
  refine ⟨_, _, goes_still he (log_phaseChange _ _ _) hr.quiet.flights (barring_sameRegs _ _ _), z, ?_, ?_⟩
  · rw [After.gone.team, ← hm.launch, ← hm.lin]
    exact hz
  · rw [hbar, show (y.barred b.toNat m.toNat g.gidx).bar b.toNat = _ from bar_setBar _ _ _]
    rfl

/-- R242: BAR of the last participant. -/
theorem bar_completes (hr : Ready s c n g) (hm : Member s g y) (x : BitVec 2) (b m : BitVec 4)
    (hhalf : g.half = 0) (hload : (s.work.core c).loading n g = false)
    (ha : y.admits g b.toNat m.toNat)
    (hall : (s.work.participants y m.toNat).all (has (with_ (y.bar b.toNat).arr g.gidx)) = true) :
    ∃ t h, Goes s t c n g (.bar x b m) {} h ∧ ∃ z, t.work.team g.launch g.lin = some z ∧
      z.bar b.toNat = { y.bar b.toNat with phase := !(y.bar b.toNat).phase, arr := 0, rm := m.toNat } := by
  obtain ⟨v, hv⟩ : ∃ v, v = (s.work.setTeam (y.barred b.toNat m.toNat g.gidx)).phaseChange
    (y.barred b.toNat m.toNat g.gidx) b.toNat := ⟨_, rfl⟩
  obtain ⟨z, hz, hbar⟩ := team_phaseChange (s.work.setTeam (y.barred b.toNat m.toNat g.gidx))
    (y.barred b.toNat m.toNat g.gidx) b.toNat
  rw [← hv] at hz
  have hbar' : z.bar b.toNat =
      { y.bar b.toNat with phase := !(y.bar b.toNat).phase, arr := 0, rm := m.toNat } := by
    rw [hbar, show (y.barred b.toNat m.toNat g.gidx).bar b.toNat = _ from bar_setBar _ _ _]
    rfl
  have hteam : v.team g.launch g.lin = some z := by
    rw [← hm.launch, ← hm.lin]
    exact hz
  have hteamOf : v.teamOf (g.barring b.toNat (y.bar b.toNat).phase).halfway = some z := by
    rw [Work.teamOf, show (g.barring b.toNat (y.bar b.toNat).phase).halfway.kind = .user from hm.kind]
    exact hteam
  have hload' : (v.core c).loading n (g.barring b.toNat (y.bar b.toNat).phase).halfway = false := by
    unfold Core.loading
    rw [hv, loads_phaseChange]
    exact hload
  have he := exec_gone hr (i := .bar x b m) (w' := v.acquire c false)
    (g' := (g.barring b.toNat (y.bar b.toNat).phase).halfway) rfl rfl rfl (syncCtx_member hm) (by
      rw [hhalf, if_neg (by decide), barArrive_eq hm ha, barred_barTest, if_pos hall, ← hv]
      unfold barWait
      rw [show ({ g.barring b.toNat (y.bar b.toNat).phase with half := 1 } : Group) =
        (g.barring b.toNat (y.bar b.toNat).phase).halfway from rfl, hteamOf]
      dsimp only
      rw [hbar', has_zero, Bool.and_false, if_neg Bool.false_ne_true,
        acquireThen_quiet (by decide) (by decide) hload']) rfl rfl
  refine ⟨_, _, goes_still he ((log_acquire _ _).trans ?_) hr.quiet.flights
    (halfway_sameRegs (barring_sameRegs _ _ _)), z, ?_, hbar'⟩
  · rw [hv, log_phaseChange]
    rfl
  · rw [After.gone.team, team_acquire, hteam]

theorem team_barred (hm : Member s g y) (b m i : Nat) :
    (s.work.setTeam (y.barred b m i)).team g.launch g.lin = some (y.barred b m i) := by
  rw [← hm.launch, ← hm.lin]
  exact team_setTeam_same s.work (y.barred b m i)

/-- R242: BARA of another participant. -/
theorem bara_arrives (hr : Ready s c n g) (hm : Member s g y) (x : BitVec 2) (b m : BitVec 4)
    (ha : y.admits g b.toNat m.toNat)
    (hnot : ¬(s.work.participants y m.toNat).all (has (with_ (y.bar b.toNat).arr g.gidx)) = true) :
    ∃ t h, Goes s t c n g (.bara x b m) {} h ∧
      t.work.team g.launch g.lin = some (y.barred b.toNat m.toNat g.gidx) := by
  have he := exec_gone hr (i := .bara x b m)
    (w' := s.work.setTeam (y.barred b.toNat m.toNat g.gidx))
    (g' := g.barring b.toNat (y.bar b.toNat).phase) rfl rfl rfl (syncCtx_member hm) (by
      rw [barArrive_eq hm ha, barred_barTest, if_neg hnot]) rfl rfl
  refine ⟨_, _, goes_still he rfl hr.quiet.flights (barring_sameRegs _ _ _), ?_⟩
  rw [After.gone.team]
  exact team_barred hm _ _ _

/-- R242: BAR of another participant. -/
theorem bar_parks (hr : Ready s c n g) (hm : Member s g y) (x : BitVec 2) (b m : BitVec 4)
    (hhalf : g.half = 0) (ha : y.admits g b.toNat m.toNat)
    (hnot : ¬(s.work.participants y m.toNat).all (has (with_ (y.bar b.toNat).arr g.gidx)) = true) :
    ∃ t h, Occurs s t (.bar x b m) ∧ t.work.grp c n = some h ∧ h.pc = g.pc ∧
      h.wait = .barrier b.toNat ∧ h.parked = true := by
  have hteamOf : (s.work.setTeam (y.barred b.toNat m.toNat g.gidx)).teamOf
      (g.barring b.toNat (y.bar b.toNat).phase).halfway = some (y.barred b.toNat m.toNat g.gidx) := by
    rw [Work.teamOf, show (g.barring b.toNat (y.bar b.toNat).phase).halfway.kind = .user from hm.kind]
    exact team_barred hm _ _ _
  have hbar : (y.barred b.toNat m.toNat g.gidx).bar b.toNat =
      { y.bar b.toNat with arr := with_ (y.bar b.toNat).arr g.gidx, rm := m.toNat } := bar_setBar _ _ _
  have hphase : (g.barring b.toNat (y.bar b.toNat).phase).halfway.phases.getLsbD b.toNat =
      (y.bar b.toNat).phase := barring_phase g b.isLt _
  have hgidx : (g.barring b.toNat (y.bar b.toNat).phase).halfway.gidx = g.gidx := rfl
  obtain ⟨t, hoccurs, hg, -⟩ := parks_of_hold hr (i := .bar x b m) (wt := .barrier b.toNat)
    (w' := s.work.setTeam (y.barred b.toNat m.toNat g.gidx))
    (g' := (g.barring b.toNat (y.bar b.toNat).phase).halfway) rfl rfl rfl (syncCtx_member hm) (by
      rw [hhalf, if_neg (by decide), barArrive_eq hm ha, barred_barTest, if_neg hnot]
      unfold barWait
      rw [show ({ g.barring b.toNat (y.bar b.toNat).phase with half := 1 } : Group) =
        (g.barring b.toNat (y.bar b.toNat).phase).halfway from rfl, hteamOf]
      dsimp only
      rw [hbar, hphase, hgidx, has_with_same, decide_eq_true rfl]
      rfl) rfl
  have hkind : (g.barring b.toNat (y.bar b.toNat).phase).halfway.kind = .user := hm.kind
  obtain ⟨hpc, hwait, -⟩ := waits_fields (g.barring b.toNat (y.bar b.toNat).phase).halfway
    ((s.work.setTeam (y.barred b.toNat m.toNat g.gidx)).core c).cycle (.barrier b.toNat)
  exact ⟨t, _, hoccurs, hg, hpc, hwait, parked_waits hkind _ _⟩

/-- R242: BARW does not wait for a phase that has changed. -/
theorem barw_goes (hr : Ready s c n g) (hm : Member s g y) (x : BitVec 2) (b : BitVec 4)
    (hload : (s.work.core c).loading n g = false)
    (hover : g.phases.getLsbD b.toNat ≠ (y.bar b.toNat).phase ∨ has (y.bar b.toNat).arr g.gidx = false) :
    ∃ t, exec (.barw x b) s = .next t ∧ Issues s t c n g 4 g ∧ Acquired s t c false := by
  have he := exec_gone hr (i := .barw x b) (w' := s.work.acquire c false) (g' := g) rfl rfl rfl
    (syncCtx_member hm) (by
      unfold barWait
      rw [teamOf_member hm]
      dsimp only
      rw [if_neg (by rcases hover with h | h <;> simp [h]),
        acquireThen_quiet (by decide) (by decide) hload]) rfl rfl
  exact ⟨_, he, issues_still (log_acquire _ _) hr.quiet.flights (.refl g) rfl
    (grp_acquire _ _), acquired_of_rest rfl (After.gone.core c)⟩

/-- R242: BARW parks a group whose phase still stands. -/
theorem barw_parks (hr : Ready s c n g) (hm : Member s g y) (x : BitVec 2) (b : BitVec 4)
    (hphase : g.phases.getLsbD b.toNat = (y.bar b.toNat).phase)
    (harr : has (y.bar b.toNat).arr g.gidx = true) :
    ∃ t h, exec (.barw x b) s = .next t ∧ t.work.grp c n = some h ∧ h.pc = g.pc ∧
      h.wait = .barrier b.toNat := by
  obtain ⟨t, hoccurs, hg, -⟩ := parks_of_hold hr (i := .barw x b) (wt := .barrier b.toNat)
    (w' := s.work) (g' := g) rfl rfl rfl (syncCtx_member hm) (by
      unfold barWait
      rw [teamOf_member hm]
      dsimp only
      rw [hphase, harr, decide_eq_true rfl]
      rfl) rfl
  exact ⟨t, _, hoccurs.1, hg, rfl, rfl⟩

end Arrive

/-- R242: the barriers of a team. -/
theorem teamBarriers : TeamBarriers := by
  intro s c n g y hr hm hload hhalf x b m k others may bar
  refine ⟨fun ha hothers hin i hi => ?_, fun ha hno => ⟨?_, ?_⟩, barw_goes hr hm x b hload,
    barw_parks hr hm x b⟩
  · have hall := all_with hothers
    obtain ⟨t, h, ⟨he, hmem, hg, hpc, hkeeps⟩, z, hz, hbar⟩ :
        ∃ t h, Goes s t c n g i {} h ∧ ∃ z, t.work.team g.launch g.lin = some z ∧
          z.bar b.toNat = { k with phase := !k.phase, arr := 0, rm := m.toNat } := by
      rcases hi with rfl | rfl
      · exact bar_completes hr hm x b m hhalf hload ha hall
      · exact bara_completes hr hm x b m ha hall
    exact ⟨t, h, he, hmem, hg, hpc, by simp only [bar, hz, Option.map_some, hbar], hkeeps⟩
  · obtain ⟨t, h, ⟨he, hmem, hg, hpc, -⟩, hz⟩ := bara_arrives hr hm x b m ha (not_all_with hno)
    exact ⟨t, h, he, hmem, hg, hpc, by
      simp only [bar, hz, Option.map_some, Team.barred, bar_setBar, k]⟩
  · obtain ⟨t, h, ⟨he, hmem⟩, hg, hrest⟩ := bar_parks hr hm x b m hhalf ha (not_all_with hno)
    exact ⟨t, h, he, hmem, hg, hrest⟩

end Sys2Proof.Machine
end

section
/-!
PROOFS. Barriers of a gang and of a grid (R243, R37, R224, R373): GANGBAR, GRIDBAR and the completion of
a grid's barrier.
-/

namespace Sys2Proof.Machine

open Sys2Proof.Claim

theorem modTeam_eq {w : Work} {l i : Nat} {t : Team} (h : w.team l i = some t) (f : Team → Team) :
    w.modTeam l i f = w.setTeam (f t) := by
  unfold Work.modTeam
  rw [h]

section Gang

variable {s : State} {c n : Nat} {g : Group} {y : Team}

theorem teamOf_user {w : Work} {h : Group} (hk : h.kind = .user) : w.teamOf h = w.team h.launch h.lin := by
  rw [Work.teamOf, hk]

/-- A group that has passed its release, in the second half of its instruction. -/
theorem halfway_fields (g : Group) : g.unreleased.halfway.kind = g.kind ∧
    g.unreleased.halfway.launch = g.launch ∧ g.unreleased.halfway.lin = g.lin ∧
    g.unreleased.halfway.born = g.born := ⟨rfl, rfl, rfl, rfl⟩

theorem loading_of {v : Work} {h : Group} (hloads : (v.core c).loads = (s.work.core c).loads)
    (hborn : h.born = g.born) (hload : (s.work.core c).loading n g = false) :
    (v.core c).loading n h = false := by
  unfold Core.loading
  rw [hloads, hborn]
  exact hload

/-! ## GANGBAR -/

/-- The second half of GANGBAR. -/
def gangWait (w : Work) (c n : Nat) (g : Group) : Res :=
  match w.teamOf g with
  | none => .illegal 6
  | some t =>
    if has t.gangArr g.gidx then .hold w g (some .gangbar) else acquireThen w c n g 2 .done

/-- A team of which group `i` has arrived at its gang's barrier. -/
def Team.ganged (t : Team) (i : Nat) : Team := { t with gangArr := with_ t.gangArr i }

/-- A team whose gang's barrier is over. -/
def Team.gangOver (t : Team) : Team := { t with gangArr := 0 }

theorem participants_of_team {w v : Work} {t u : Team} (hl : w.launches = v.launches)
    (ht : t.launch = u.launch) (hr : t.retired = u.retired) (m : Nat) :
    w.participants t m = v.participants u m := by
  unfold Work.participants Work.launch?
  rw [hl, ht, hr]

/-- R243: the barrier of a gang of one team. -/
theorem gangTest_single {w : Work} {y : Team} {i : Nat} (hteams : w.teams = [(teamKey y.launch y.lin, y)])
    (hall : (w.participants y 0).all (has (with_ y.gangArr i)) = true) :
    (w.setTeam (y.ganged i)).gangTest y.launch y.gang =
      (((w.setTeam (y.ganged i)).setTeam (y.ganged i).gangOver).wakeTeam (y.ganged i) fun g =>
        decide (g.wait = .gangbar)) := by
  have hset : (w.setTeam (y.ganged i)).teams = [(teamKey y.launch y.lin, y.ganged i)] := by
    unfold Work.setTeam
    rw [hteams]
    simp [tins, Team.ganged]
  have hgang : (w.setTeam (y.ganged i)).gangTeams y.launch y.gang = [y.ganged i] := by
    unfold Work.gangTeams
    rw [hset]
    simp [Team.ganged]
  have harr : (w.setTeam (y.ganged i)).allArrived (y.ganged i) (y.ganged i).gangArr = true := by
    unfold Work.allArrived
    rw [participants_of_team (w := w.setTeam (y.ganged i)) (t := y.ganged i) (v := w) (u := y) rfl rfl rfl]
    exact hall
  have hteam : (w.setTeam (y.ganged i)).team y.launch y.lin = some (y.ganged i) :=
    team_setTeam_same w (y.ganged i)
  have hcond : (([y.ganged i].any fun t => decide (t.gangArr ≠ 0)) &&
      [y.ganged i].all fun t => (w.setTeam (y.ganged i)).allArrived t t.gangArr) = true := by
    have hne : (y.ganged i).gangArr ≠ 0 := with_ne_zero y.gangArr i
    simpa [hne] using harr
  unfold Work.gangTest
  rw [hgang]
  dsimp only
  rw [if_pos hcond, List.foldl_cons, List.foldl_nil, show (y.ganged i).launch = y.launch from rfl,
    show (y.ganged i).lin = y.lin from rfl, modTeam_eq hteam]
  rfl

/-- R243: GANGBAR by the last group of the only team of its gang. -/
theorem gangbar_completes (hr : Ready s c n g) (hm : Member s g y) (x : BitVec 2)
    (hload : (s.work.core c).loading n g = false) (hhalf : g.half = 0) (hrel : Released s g 2)
    (hnew : has y.gangArr g.gidx = false) (hteams : s.work.teams = [(teamKey g.launch g.lin, y)])
    (hall : (s.work.participants y 0).all (has (with_ y.gangArr g.gidx)) = true) :
    ∃ t h, exec (.gangbar x) s = .next t ∧ t.mem = s.mem ∧ t.work.grp c n = some h ∧
      h.pc = g.pc + 4 ∧ (t.work.team g.launch g.lin).map (·.gangArr) = some 0 ∧
      Keeps g h.settled {} ∧ Acquired s t c false := by
  obtain ⟨v, hv⟩ : ∃ v, v = ((s.work.setTeam (y.ganged g.gidx)).setTeam
    (y.ganged g.gidx).gangOver).wakeTeam (y.ganged g.gidx) fun g => decide (g.wait = .gangbar) :=
      ⟨_, rfl⟩
  have htest : (s.work.setTeam (y.ganged g.gidx)).gangTest y.launch y.gang = v := by
    rw [hv, gangTest_single (by rw [hm.launch, hm.lin]; exact hteams) hall]
  have hteam : v.team g.launch g.lin = some (y.ganged g.gidx).gangOver := by
    rw [hv, team_of_central (central_wakeTeam _ _ _), ← hm.launch, ← hm.lin]
    exact team_setTeam_same _ (y.ganged g.gidx).gangOver
  have hcore : (v.core c).loads = (s.work.core c).loads ∧ (v.core c).inb = (s.work.core c).inb := by
    have h := core_wakeTeam_offSeats ((s.work.setTeam (y.ganged g.gidx)).setTeam
      (y.ganged g.gidx).gangOver) (y.ganged g.gidx) (fun g => decide (g.wait = .gangbar)) c
    rw [← hv] at h
    exact ⟨(congrArg Core.loads h :), (congrArg Core.inb h :)⟩
  obtain ⟨hkind, hlaunch, hlin, hborn⟩ := halfway_fields g
  have he := exec_gone hr (i := .gangbar x) (w' := v.acquire c false)
    (g' := g.unreleased.halfway) rfl rfl rfl (syncCtx_member hm) (by
      dsimp only
      rw [hhalf, if_neg (by decide), teamOf_member hm]
      dsimp only
      rw [if_neg (by simp [hnew]), release_over hrel hr.cur]
      show gangWait ((s.work.modTeam y.launch y.lin (·.ganged g.gidx)).gangTest y.launch y.gang) c n
        g.unreleased.halfway = _
      rw [modTeam_eq (t := y) (by rw [hm.launch, hm.lin]; exact hm.team), htest]
      unfold gangWait
      rw [teamOf_user (hkind.trans hm.kind), hlaunch, hlin, hteam]
      dsimp only
      rw [if_neg (by rw [show (y.ganged g.gidx).gangOver.gangArr = 0 from rfl, has_zero]; decide),
        acquireThen_quiet (by decide) (by decide) (loading_of hcore.1 hborn hload)]) rfl rfl
  obtain ⟨-, hmem, hg, hpc, hkeeps⟩ := goes_still he ((log_acquire _ _).trans (by
    rw [hv, log_wakeTeam]
    rfl)) hr.quiet.flights (halfway_sameRegs (g := g) (h := g.unreleased) ⟨rfl, rfl, rfl, rfl, rfl, rfl, rfl, rfl⟩)
  refine ⟨_, _, he, hmem, hg, hpc, ?_, hkeeps, acquired_of_rest hcore.2 (After.gone.core c)⟩
  rw [After.gone.team, team_acquire, hteam]
  rfl

end Gang

end Sys2Proof.Machine
end

section
/-!
PROOFS. The barrier of a grid (R243, R37, R224, R373): GRIDBAR and the completion of the barrier.
-/

namespace Sys2Proof.Machine

open Sys2Proof.Claim

/-! ## GRIDBAR -/

/-- The second half of GRIDBAR. -/
def gridWait (w : Work) (c n : Nat) (g : Group) : Res :=
  match w.teamOf g with
  | none => .illegal 6
  | some t =>
    if has t.gridArr g.gidx then .hold w g (some .gridbar)
    else acquireThen w c n g 3 fun w g => .done w g.endGridbar

/-- A team of which group `i` has arrived at the grid's barrier. -/
def Team.gridded (t : Team) (i : Nat) : Team := { t with gridArr := with_ t.gridArr i }

theorem endGridbar_quiet {g : Group} (h : g.deferred = []) : g.endGridbar = { g with ordSeq := 0 } := by
  cases g
  simp only at h
  subst h
  rfl

section Grid

variable {s : State} {c n : Nat} {g : Group} {y : Team}

/-- R243: GRIDBAR arrives and parks. -/
theorem gridbar_arrives (hr : Ready s c n g) (hm : Member s g y) (x : BitVec 2)
    (hgrid : lrGridb (s.work.recOf g) = true) (hhalf : g.half = 0) (hrel : Released s g 3)
    (hnew : has y.gridArr g.gidx = false) :
    ∃ t h, exec (.gridbar x) s = .next t ∧ t.mem = s.mem ∧ t.work.grp c n = some h ∧
      h.pc = g.pc ∧ h.wait = .gridbar ∧ h.half = 1 ∧
      (t.work.team g.launch g.lin).map (·.gridArr) = some (with_ y.gridArr g.gidx) := by
  obtain ⟨hkind, hlaunch, hlin, -⟩ := halfway_fields g
  have hteam : (s.work.setTeam (y.gridded g.gidx)).team g.launch g.lin = some (y.gridded g.gidx) := by
    rw [← hm.launch, ← hm.lin]
    exact team_setTeam_same s.work (y.gridded g.gidx)
  obtain ⟨t, hoccurs, hg, hafter⟩ := parks_of_hold hr (i := .gridbar x) (wt := .gridbar)
    (w' := s.work.setTeam (y.gridded g.gidx)) (g' := g.unreleased.halfway) rfl rfl rfl
    (by simp [syncCtx_member hm, hgrid]) (by
      dsimp only
      rw [hhalf, if_neg (by decide), teamOf_member hm]
      dsimp only
      rw [if_neg (by simp [hnew]), release_over hrel hr.cur]
      show gridWait (s.work.modTeam y.launch y.lin (·.gridded g.gidx)) c n g.unreleased.halfway = _
      rw [modTeam_eq (t := y) (by rw [hm.launch, hm.lin]; exact hm.team)]
      unfold gridWait
      rw [teamOf_user (hkind.trans hm.kind), hlaunch, hlin, hteam]
      exact if_pos (has_with_same y.gridArr g.gidx)) rfl
  obtain ⟨hpc, hwait, hh, -⟩ := waits_fields g.unreleased.halfway
    ((s.work.setTeam (y.gridded g.gidx)).core c).cycle .gridbar
  refine ⟨t, _, hoccurs.1, hoccurs.2, hg, hpc, hwait, hh, ?_⟩
  rw [hafter.team, hteam]
  rfl

/-- R243, R224: GRIDBAR goes on once the grid's barrier is over. -/
theorem gridbar_goes (hr : Ready s c n g) (hm : Member s g y) (x : BitVec 2)
    (hgrid : lrGridb (s.work.recOf g) = true) (hload : (s.work.core c).loading n g = false)
    (hhalf : g.half = 1) (hover : has y.gridArr g.gidx = false) :
    ∃ t, exec (.gridbar x) s = .next t ∧ Issues s t c n g 4 { g with ordSeq := 0 } ∧
      Acquired s t c false := by
  have hend := endGridbar_quiet hr.quiet.deferred
  have he := exec_gone hr (i := .gridbar x) (w' := s.work.acquire c false)
    (g' := { g with ordSeq := 0 }) rfl rfl rfl (by simp [syncCtx_member hm, hgrid]) (by
      dsimp only
      rw [if_pos hhalf, teamOf_member hm]
      dsimp only
      rw [if_neg (by simp [hover]), acquireThen_quiet (by decide) (by decide) hload, hend]) rfl rfl
  exact ⟨_, he, issues_still (log_acquire _ _) hr.quiet.flights ⟨rfl, rfl, rfl, rfl, rfl, rfl, rfl, rfl⟩
    rfl (grp_acquire _ _), acquired_of_rest rfl (After.gone.core c)⟩

end Grid

/-! ## The barrier of a grid completes -/

section Complete

variable {w : Work}

/-- No unit of the memory side holds an update. -/
def Work.unitsIdle (w : Work) : Prop := ∀ d u, (w.unit d u).held = [] ∧ (w.unit d u).atoms = []

theorem unit_setUnit_self (w : Work) (d u e v : Nat) :
    (w.setUnit d u (w.unit d u)).unit e v = w.unit e v := by
  unfold Work.unit Work.setUnit Work.modDie
  rw [die_setDie]
  split
  · next h =>
    subst h
    unfold Die.unit Die.setUnit
    rw [tget_tput]
    split
    · next h => rw [h]
    · rfl
  · rfl

theorem flushUnit_idle (h : w.unitsIdle) (d u : Nat) (p : Held → Bool) : w.flushUnit d u p = w := by
  unfold Work.flushUnit
  rw [(h d u).1]
  rfl

theorem flushGrid_idle (h : w.unitsIdle) (l : Nat) : w.flushGrid l = w := by
  unfold Work.flushGrid
  exact List.foldlRecOn (motive := fun v => v = w) allUnits _ rfl fun v hv u _ => by
    rw [hv, flushUnit_idle h]

theorem applyAtoms_idle (h : w.unitsIdle) (d u l : Nat) (b : Bool) :
    w.applyAtoms d u l b = w.setUnit d u (w.unit d u) := by
  obtain ⟨x, hx⟩ : ∃ x, x = w.unit d u := ⟨_, rfl⟩
  have hatoms : x.atoms = [] := hx ▸ (h d u).2
  unfold Work.applyAtoms
  rw [← hx]
  dsimp only
  rw [hatoms]
  cases x
  simp only at hatoms
  subst hatoms
  rfl

/-- A machine as `w` but for the form of its dies. -/
structure Work.SameButDies (v w : Work) : Prop where
  unit : ∀ d u, v.unit d u = w.unit d u
  log : v.log = w.log
  cores : v.cores = w.cores
  teams : v.teams = w.teams
  launches : v.launches = w.launches

theorem flushAll_idle (h : w.unitsIdle) (l : Nat) (b : Bool) : (w.flushAll l b).SameButDies w := by
  unfold Work.flushAll
  rw [flushGrid_idle h]
  refine List.foldlRecOn (motive := fun v : Work => v.SameButDies w) allUnits _ ⟨fun _ _ => rfl, rfl, rfl, rfl, rfl⟩
    fun v hv u _ => ?_
  rw [applyAtoms_idle fun d u => by rw [hv.unit]; exact h d u]
  exact ⟨fun d e => (unit_setUnit_self _ _ _ _ _).trans (hv.unit d e), hv.log, hv.cores, hv.teams,
    hv.launches⟩

/-- A team whose grid's barrier is over. -/
def Team.gridOver (t : Team) : Team := { t with gridArr := 0 }

/-- R243: the barrier releases a team. -/
def Work.gridReleased (w : Work) (gen : Nat) (t : Team) : Work :=
  (w.members t fun g => decide (g.wait = .gridbar)).foldl (fun w m =>
    w.returnKey m.1 m.2 ((Config.clusterOf m.1 % 12 + 12 - gen % 12) % 12) fun g => g)
    ((w.members t fun g => decide (g.kind = .handlerTeam)).foldl
      (fun w m => w.modGrp m.1 m.2 Group.gridOver) (w.modTeam t.launch t.lin Team.gridOver))

theorem central_modGrp (w : Work) (c n : Nat) (f : Group → Group) :
    (w.modGrp c n f).toMach.central = w.toMach.central := by
  unfold Work.modGrp
  split <;> rfl

theorem central_gridReleased (w : Work) (gen : Nat) (t : Team) :
    (w.gridReleased gen t).toMach.central = (w.modTeam t.launch t.lin Team.gridOver).toMach.central := by
  unfold Work.gridReleased
  rw [foldl_unwritten (get := fun v : Work => v.toMach.central) fun v m _ =>
      central_returnAt v m.1 m.2 _ _ fun g => g,
    foldl_unwritten (get := fun v : Work => v.toMach.central) fun v m _ =>
      central_modGrp v m.1 m.2 Group.gridOver]

theorem log_gridReleased (w : Work) (gen : Nat) (t : Team) : (w.gridReleased gen t).log = w.log := by
  unfold Work.gridReleased
  rw [foldl_unwritten (get := fun v : Work => v.log) fun v m _ =>
      log_returnAt v m.1 m.2 _ _ fun g => g,
    foldl_unwritten (get := fun v : Work => v.log) fun v m _ => log_modGrp v m.1 m.2 Group.gridOver,
    log_modTeam]

theorem launches_gridReleased (w : Work) (gen : Nat) (t : Team) :
    (w.gridReleased gen t).launches = w.launches := by
  have h : (w.gridReleased gen t).launches = (w.modTeam t.launch t.lin Team.gridOver).launches :=
    (congrArg (fun m : Mach => m.launches) (central_gridReleased w gen t) :)
  rw [h]
  unfold Work.modTeam
  split <;> rfl

/-- The team stands at its place, with its barrier over where `b`. -/
def Work.TeamAt (w : Work) (l i : Nat) (b : Bool) : Prop :=
  ∃ z, w.team l i = some z ∧ teamKey z.launch z.lin = teamKey l i ∧ (b = true → z.gridArr = 0)

theorem teamAt_gridReleased {l i : Nat} {b : Bool} (h : w.TeamAt l i b) (gen : Nat) (t : Team) :
    (w.gridReleased gen t).TeamAt l i b := by
  obtain ⟨z, hz, hkey, hb⟩ := h
  unfold Work.TeamAt
  rw [team_of_central (central_gridReleased w gen t)]
  unfold Work.modTeam
  split
  · next u hu =>
    rw [team_setTeam]
    split
    · next e => exact ⟨_, rfl, e.symm, fun _ => rfl⟩
    · exact ⟨z, hz, hkey, hb⟩
  · exact ⟨z, hz, hkey, hb⟩

theorem teamAt_gridReleased_same {t : Team} {b : Bool} (h : w.TeamAt t.launch t.lin b) (gen : Nat) :
    (w.gridReleased gen t).TeamAt t.launch t.lin true := by
  obtain ⟨z, hz, hkey, -⟩ := h
  unfold Work.TeamAt
  rw [team_of_central (central_gridReleased w gen t), modTeam_eq hz, team_setTeam,
    if_pos (show teamKey t.launch t.lin = teamKey z.gridOver.launch z.gridOver.lin from hkey.symm)]
  exact ⟨_, rfl, hkey, fun _ => rfl⟩

theorem teamAt_fold {l i : Nat} {b : Bool} (gen : Nat) (ts : List Team) (h : w.TeamAt l i b) :
    (ts.foldl (fun w t => w.gridReleased gen t) w).TeamAt l i b :=
  List.foldlRecOn (motive := fun v : Work => v.TeamAt l i b) ts _ h
    fun _ hv t _ => teamAt_gridReleased hv gen t

theorem gridOver_fold {t : Team} (gen : Nat) {ts : List Team} (ht : t ∈ ts)
    (h : w.TeamAt t.launch t.lin false) :
    (ts.foldl (fun w t => w.gridReleased gen t) w).TeamAt t.launch t.lin true := by
  obtain ⟨as, bs, rfl⟩ := List.append_of_mem ht
  rw [List.foldl_append, List.foldl_cons]
  exact teamAt_fold gen bs (teamAt_gridReleased_same (teamAt_fold gen as h) gen)

/-- The barrier of grid `l`, in the machine `w` in which every team of it has arrived. -/
def Work.gridCompleted (w : Work) (l : Nat) (r : Launch) : Work :=
  let v := ((w.flushAll l true).atomsPublished l).modLaunch l fun x => { x with gen := x.gen + 1 }
  ((v.teams.map Prod.snd).filter fun t => decide (t.launch = l)).foldl
    (fun w t => w.gridReleased r.gen t) v

end Complete

theorem published_fields (w : Work) (l : Nat) (f : Launch → Launch) :
    ((w.atomsPublished l).modLaunch l f).log = w.log ∧
      ((w.atomsPublished l).modLaunch l f).teams = w.teams ∧
      ((w.atomsPublished l).modLaunch l f).launch? l = (w.launch? l).map f :=
  ⟨rfl, rfl, (launch_modLaunch _ l l f).trans (if_pos rfl)⟩

/-- R243, R373: the barrier of a grid completes. -/
theorem gridbarComplete_completes {s : State} {l : Nat} {r : Launch} (hl : s.work.launch? l = some r)
    (harr : s.work.gridArrived l r = true) (hidle : s.work.unitsIdle) :
    ∃ t q, exec (.gridbarComplete l) s = .next t ∧ t.mem = s.mem ∧ t.work.launch? l = some q ∧
      q.gen = r.gen + 1 ∧
      ∀ lin y, s.work.team l lin = some y → y.launch = l → y.lin = lin →
        (t.work.team l lin).map (·.gridArr) = some 0 := by
  have he : exec (.gridbarComplete l) s = .next (commit s (s.work.gridCompleted l r)) := by
    rw [show exec (.gridbarComplete l) s = execGridbarComplete l s from rfl]
    unfold execGridbarComplete event
    beta_reduce
    rw [hl]
    dsimp only
    rw [harr]
    rfl
  obtain ⟨-, hlog, -, hteams, hlaunches⟩ := flushAll_idle hidle l true
  obtain ⟨v, hv⟩ : ∃ v, v = ((s.work.flushAll l true).atomsPublished l).modLaunch l
    fun x => { x with gen := x.gen + 1 } := ⟨_, rfl⟩
  have hdone : s.work.gridCompleted l r = ((v.teams.map Prod.snd).filter fun t =>
      decide (t.launch = l)).foldl (fun w t => w.gridReleased r.gen t) v := by
    rw [hv]
    rfl
  obtain ⟨hvlog, hvteams, hvlaunch⟩ := published_fields (s.work.flushAll l true) l
    fun x : Launch => { x with gen := x.gen + 1 }
  rw [← hv] at hvlog hvteams hvlaunch
  rw [hlog] at hvlog
  rw [hteams] at hvteams
  have hvl : v.launch? l = some { r with gen := r.gen + 1 } := by
    unfold Work.launch? at hl hvlaunch ⊢
    rw [hvlaunch, hlaunches, hl]
    rfl
  rw [hdone] at he
  refine ⟨_, { r with gen := r.gen + 1 }, he, ?_, ?_, rfl, fun lin y hy hyl hyi => ?_⟩
  · refine commit_mem _ _ ?_
    rw [foldl_unwritten (get := fun w : Work => w.log) fun w t _ => log_gridReleased w r.gen t, hvlog]
    rfl
  · rw [show ∀ w : Work, (commit s w).work.launch? l = w.launch? l from fun _ => rfl]
    unfold Work.launch? at hvl ⊢
    rw [foldl_unwritten (get := fun w : Work => w.launches) fun w t _ =>
      launches_gridReleased w r.gen t, hvl]
  · subst hyl hyi
    have hmem : y ∈ (v.teams.map Prod.snd).filter fun t => decide (t.launch = y.launch) := by
      rw [hvteams]
      exact List.mem_filter.mpr ⟨List.mem_map.mpr ⟨_, mem_of_tfind hy, rfl⟩, decide_eq_true rfl⟩
    obtain ⟨z, hz, -, hzero⟩ := gridOver_fold (w := v) r.gen hmem
      ⟨y, by unfold Work.team; rw [hvteams]; exact hy, rfl, fun e => Bool.noConfusion e⟩
    rw [show ∀ w : Work, (commit s w).work.team y.launch y.lin = w.team y.launch y.lin from
      fun _ => rfl, hz]
    exact congrArg some (hzero rfl)

/-- R243, R37, R224, R373: the barriers of a gang and of a grid. -/
theorem wideBarriers : WideBarriers :=
  ⟨fun _ _ _ _ _ hr hm hload x =>
    ⟨fun hhalf hrel hnew hteams hall => gangbar_completes hr hm x hload hhalf hrel hnew hteams hall,
      fun hgrid => ⟨fun hhalf hrel hnew => gridbar_arrives hr hm x hgrid hhalf hrel hnew,
        fun hhalf hover => gridbar_goes hr hm x hgrid hload hhalf hover⟩⟩,
    fun _ _ _ hl harr hidle => gridbarComplete_completes hl harr hidle⟩

end Sys2Proof.Machine
end

section
/-!
PROOFS. The stage ring (R29, R30, R244): STAGEACQ and STAGEREL; with it, the barriers as a whole.
-/

namespace Sys2Proof.Machine

open Sys2Proof.Claim

theorem lrRorder_lt (r : BitVec 1024) (i : Nat) : lrRorder r i < 4 := by
  unfold lrRorder recBits
  refine (Nat.mod_lt _ (Nat.two_pow_pos _)).trans_le ?_
  rw [show 2 * i + 247 - (2 * i + 246) + 1 = 2 by omega]

/-- The number of a control word (R30). -/
def ringNumber (full : Bool) (owner : Nat) : Nat := (if full then 1 else 0) + 2 * (owner % 4)

theorem ringNumber_parts (full : Bool) {owner : Nat} (h : owner < 4) :
    ringNumber full owner % 256 ^ 8 = ringNumber full owner ∧
      decide (ringNumber full owner % 2 = 1) = full ∧ ringNumber full owner / 2 % 4 = owner := by
  unfold ringNumber
  cases full <;> refine ⟨?_, ?_, ?_⟩ <;> simp <;> omega

theorem ringWord_setRingWord (w : Work) (t : Team) (i : Nat) (full : Bool) {owner : Nat}
    (h : owner < 4) : (w.setRingWord t i full owner).ringWord t i = (full, owner) := by
  obtain ⟨hmod, hfull, howner⟩ := ringNumber_parts full h
  have hnum : ((w.setRingWord t i full owner).core t.home).bufNum 3 (t.sb + 8 * i) 8 =
      ringNumber full owner := by
    unfold Work.setRingWord
    rw [core_modCore, if_pos rfl, bufNum_setBufNum _ _ _ _ _ le_rfl le_rfl, Nat.sub_self,
      Nat.pow_zero, Nat.div_one]
    exact hmod
  unfold Work.ringWord
  rw [hnum]
  exact Prod.ext hfull howner

/-- A control word as it stands in its core. -/
theorem ringWord_of_sbuf {v w : Work} {t u : Team} (hhome : u.home = t.home) (hsb : u.sb = t.sb)
    (h : (v.core t.home).sbuf = (w.core t.home).sbuf) (i : Nat) : v.ringWord u i = w.ringWord t i := by
  unfold Work.ringWord
  rw [hhome, hsb, bufNum_of_sbuf h]

section Stage

variable {s : State} {c n : Nat} {g : Group} {y : Team} {pos : Nat}

theorem ringCtx_member (hm : Member s g y) (hpos : lrRingPos (s.work.recOf g) g.role = some pos) :
    ringCtx s.work g = true := by
  unfold ringCtx
  rw [syncCtx_member hm, hpos]
  rfl

/-! ## STAGEACQ -/

/-- A group that has taken its slot. -/
def Group.staged (g : Group) : Group := { g with acquired := true, half := 1 }

/-- R244: STAGEACQ takes a slot that is ready. -/
theorem stageacq_takes (hr : Ready s c n g) (hm : Member s g y) (x : BitVec 2)
    (hpos : lrRingPos (s.work.recOf g) g.role = some pos) (hacq : g.acquired = false)
    (hhalf : g.half = 0) (hready : s.work.ringReady y (s.work.recOf g) g.cursor g.role = true)
    (hload : (s.work.core c).loading n g = false) :
    ∃ t, exec (.stageacq x) s = .next t ∧ Issues s t c n g 4 { g with acquired := true } ∧
      Acquired s t c false := by
  have hload' : (s.work.core c).loading n g.staged = false := loading_of rfl rfl hload
  have he := exec_gone hr (i := .stageacq x) (w' := s.work.acquire c false) (g' := g.staged) rfl rfl rfl
    (by simp [ringCtx_member hm hpos, hacq]) (by
      rw [teamOf_member hm]
      dsimp only
      rw [if_neg (by rw [hhalf]; decide), if_pos hready]
      exact acquireThen_quiet (by decide) (by decide) hload') rfl rfl
  exact ⟨_, he, issues_still (log_acquire _ _) hr.quiet.flights ⟨rfl, rfl, rfl, rfl, rfl, rfl, rfl, rfl⟩
    rfl (grp_acquire _ _), acquired_of_rest rfl (After.gone.core c)⟩

/-- R244: STAGEACQ parks on a slot that is not ready. -/
theorem stageacq_parks (hr : Ready s c n g) (hm : Member s g y) (x : BitVec 2)
    (hpos : lrRingPos (s.work.recOf g) g.role = some pos) (hacq : g.acquired = false)
    (hhalf : g.half = 0) (hready : s.work.ringReady y (s.work.recOf g) g.cursor g.role = false) :
    ∃ t h, exec (.stageacq x) s = .next t ∧ t.work.grp c n = some h ∧ h.pc = g.pc ∧
      h.wait = .stage ∧ h.acquired = false := by
  obtain ⟨t, hoccurs, hg, -⟩ := parks_of_hold hr (i := .stageacq x) (wt := .stage) (w' := s.work)
    (g' := g) rfl rfl rfl (by simp [ringCtx_member hm hpos, hacq]) (by
      rw [teamOf_member hm]
      dsimp only
      rw [if_neg (by rw [hhalf]; decide), if_neg (by rw [hready]; decide)]) rfl
  obtain ⟨hpc, hwait, -, ha⟩ := waits_fields g (s.work.core c).cycle .stage
  exact ⟨t, _, hoccurs.1, hg, hpc, hwait, ha.trans hacq⟩

/-! ## STAGEREL -/

/-- A team of which group `i` has released slot `k`. -/
def Team.slotReleased (t : Team) (k i : Nat) : Team :=
  { t with ringRel := tins k (with_ (tget 0 k t.ringRel) i) t.ringRel }

/-- A team whose slot `k` has passed on. -/
def Team.slotPassed (t : Team) (k : Nat) : Team := { t with ringRel := tdel k t.ringRel }

theorem ringSettle_succ {w : Work} {l j i : Nat} {t : Team} (h : w.team l j = some t) (f : Nat) :
    w.ringSettle l j i (f + 1) =
      if (roleGroups t (((w.launch? l).map (·.record)).getD 0) (w.ringWord t i).2).all
          (has (tget 0 i t.ringRel)) = true then
        (w.ringPass t (((w.launch? l).map (·.record)).getD 0) i).ringSettle l j i f
      else w := by
  rw [Work.ringSettle, h]

/-- The machine when slot `k` of team `t` has passed to the role at the next ring position. -/
def Work.slotPassed (w : Work) (t : Team) (r : BitVec 1024) (next k : Nat) : Work :=
  (w.setRingWord t k (decide (next ≠ 0)) (lrRorder r next)).setTeam (t.slotPassed k)

/-- R30: the slot passes to the next role of the ring, and stays with it while that has groups left. -/
theorem ringSettle_passes {w : Work} {t : Team} {r : BitVec 1024} {pos k : Nat}
    (ht : w.team t.launch t.lin = some t)
    (hr : ((w.launch? t.launch).map (·.record)).getD 0 = r)
    (hpos : lrRingPos r (w.ringWord t k).2 = some pos)
    (hall : (roleGroups t r (w.ringWord t k).2).all (has (tget 0 k t.ringRel)) = true)
    (hnext : roleGroups t r (lrRorder r ((pos + 1) % (lrRlen r + 1))) ≠ []) (f : Nat) :
    w.ringSettle t.launch t.lin k (f + 1) = w.slotPassed t r ((pos + 1) % (lrRlen r + 1)) k := by
  obtain ⟨v, hv⟩ : ∃ v, v = w.slotPassed t r ((pos + 1) % (lrRlen r + 1)) k := ⟨_, rfl⟩
  have hteam : v.team t.launch t.lin = some (t.slotPassed k) := by
    rw [hv]
    exact team_setTeam_same _ (t.slotPassed k)
  have hpass : w.ringPass t r k = v := by
    unfold Work.ringPass
    rw [hpos]
    dsimp only [Option.getD_some]
    rw [hv]
    exact modTeam_eq (w := w.setRingWord t k (decide ((pos + 1) % (lrRlen r + 1) ≠ 0))
      (lrRorder r ((pos + 1) % (lrRlen r + 1)))) (t := t) ht fun t => t.slotPassed k
  have hword : v.ringWord (t.slotPassed k) k =
      (decide ((pos + 1) % (lrRlen r + 1) ≠ 0), lrRorder r ((pos + 1) % (lrRlen r + 1))) := by
    rw [hv]
    exact ringWord_setRingWord w t k _ (lrRorder_lt _ _)
  rw [ringSettle_succ ht, hr, if_pos hall, hpass, ← hv]
  cases f with
  | zero => rfl
  | succ f =>
    have hlaunch : v.launch? t.launch = w.launch? t.launch := by
      rw [hv]
      rfl
    have hno : ¬(roleGroups (t.slotPassed k) r (v.ringWord (t.slotPassed k) k).2).all
        (has (tget 0 k (t.slotPassed k).ringRel)) = true := by
      rw [hword]
      unfold tget Team.slotPassed
      rw [tfind_tdel_same]
      intro hall
      obtain ⟨i, hi⟩ := List.exists_mem_of_ne_nil _ hnext
      have := List.all_eq_true.mp hall i hi
      rw [Option.getD_none, has_zero] at this
      exact Bool.noConfusion this
    rw [ringSettle_succ hteam, hlaunch, hr, if_neg hno]

/-- The team stands at its place. -/
def Work.Stands (w : Work) (l j : Nat) : Prop := ∃ t, w.team l j = some t ∧ t.launch = l ∧ t.lin = j

theorem stands_ringPass {w : Work} {t : Team} (h : w.team t.launch t.lin = some t) (r : BitVec 1024)
    (k : Nat) : (w.ringPass t r k).Stands t.launch t.lin :=
  ⟨t.slotPassed k, (congrArg (Work.team · t.launch t.lin)
    (modTeam_eq (w := w.setRingWord t k _ _) (t := t) h fun t => t.slotPassed k)).trans
      (team_setTeam_same _ (t.slotPassed k)), rfl, rfl⟩

theorem log_ringPass (w : Work) (t : Team) (r : BitVec 1024) (k : Nat) :
    (w.ringPass t r k).log = w.log := log_modTeam _ _ _ _

theorem ringSettle_stands {w : Work} {l j : Nat} (h : w.Stands l j) (k f : Nat) :
    (w.ringSettle l j k f).Stands l j ∧ (w.ringSettle l j k f).log = w.log := by
  induction f generalizing w with
  | zero => exact ⟨h, rfl⟩
  | succ f ih =>
    obtain ⟨t, ht, rfl, rfl⟩ := h
    rw [ringSettle_succ ht]
    split
    · obtain ⟨hstands, hlog⟩ := ih (stands_ringPass ht _ k)
      exact ⟨hstands, hlog.trans (log_ringPass _ _ _ _)⟩
    · exact ⟨⟨t, ht, rfl, rfl⟩, rfl⟩

theorem core_ringWake_offSeats (w : Work) (l j d : Nat) :
    ((w.ringWake l j).core d).offSeats = (w.core d).offSeats := by
  unfold Work.ringWake
  split
  · rfl
  · exact core_wakeTeam_offSeats _ _ _ _

theorem central_ringWake (w : Work) (l j : Nat) : (w.ringWake l j).toMach.central = w.toMach.central := by
  unfold Work.ringWake
  split
  · rfl
  · exact central_wakeTeam _ _ _

theorem log_ringWake (w : Work) (l j : Nat) : (w.ringWake l j).log = w.log := by
  unfold Work.ringWake
  split
  · rfl
  · exact log_wakeTeam _ _ _

/-- A group that has released its slot: its next slot is the following one (R244). -/
def Group.stepped (g : Group) (ringn : Nat) : Group :=
  { g.unreleased with acquired := false, cursor := (g.cursor + 1) % max ringn 1 }

theorem stepped_fields (g : Group) (ringn step cycle : Nat) (pc : Pc) :
    ((g.stepped ringn).moved step cycle pc).acquired = false ∧
      ((g.stepped ringn).moved step cycle pc).cursor = (g.cursor + 1) % max ringn 1 := ⟨rfl, rfl⟩

/-- R30: what a release of slot `k` makes of it: where every group of the role has released it, the next
role of the ring has it. -/
theorem slot_settles {w : Work} {t : Team} {r : BitVec 1024} {pos k i role : Nat}
    (hr : ((w.launch? t.launch).map (·.record)).getD 0 = r)
    (howner : (w.ringWord t k).2 = role) (hpos : lrRingPos r role = some pos) (f : Nat) :
    let v := (w.setTeam (t.slotReleased k i)).ringSettle t.launch t.lin k (f + 1)
    let next := (pos + 1) % (lrRlen r + 1)
    v.log = w.log ∧ ∃ z, v.team t.launch t.lin = some z ∧
      ((roleGroups t r role).all (has (with_ (tget 0 k t.ringRel) i)) = true →
        roleGroups t r (lrRorder r next) ≠ [] →
        v.ringWord z k = (decide (next ≠ 0), lrRorder r next) ∧ tget 0 k z.ringRel = 0) ∧
      ((roleGroups t r role).all (has (with_ (tget 0 k t.ringRel) i)) = false →
        v.ringWord z k = w.ringWord t k ∧ tget 0 k z.ringRel = with_ (tget 0 k t.ringRel) i) := by
  intro v next
  have hteam : (w.setTeam (t.slotReleased k i)).team t.launch t.lin = some (t.slotReleased k i) :=
    team_setTeam_same w (t.slotReleased k i)
  have hrel : tget 0 k (t.slotReleased k i).ringRel = with_ (tget 0 k t.ringRel) i := by
    unfold tget Team.slotReleased
    rw [tfind_tins_same]
    rfl
  have howner' : ((w.setTeam (t.slotReleased k i)).ringWord (t.slotReleased k i) k).2 = role := howner
  obtain ⟨⟨z, hz, -, -⟩, hlog⟩ := ringSettle_stands
    (⟨_, hteam, rfl, rfl⟩ : (w.setTeam (t.slotReleased k i)).Stands t.launch t.lin) k (f + 1)
  refine ⟨hlog, z, hz, fun hall hnext => ?_, fun hnot => ?_⟩
  · have hv : v = (w.setTeam (t.slotReleased k i)).slotPassed (t.slotReleased k i) r next k :=
      ringSettle_passes (t := t.slotReleased k i) hteam hr (by rw [howner', hpos])
        (by rw [howner', hrel]; exact hall) hnext f
    have hz' : v.team t.launch t.lin = some ((t.slotReleased k i).slotPassed k) := by
      rw [hv]
      exact team_setTeam_same _ ((t.slotReleased k i).slotPassed k)
    obtain rfl := Option.some.inj (hz.symm.trans hz')
    refine ⟨?_, ?_⟩
    · rw [hv]
      exact ringWord_setRingWord (w.setTeam (t.slotReleased k i)) (t.slotReleased k i) k _
        (lrRorder_lt _ _)
    · unfold tget Team.slotPassed
      rw [tfind_tdel_same]
      rfl
  · have hv : v = w.setTeam (t.slotReleased k i) := by
      refine (ringSettle_succ hteam f).trans (if_neg ?_)
      rw [show ((w.setTeam (t.slotReleased k i)).launch? t.launch) = w.launch? t.launch from rfl, hr,
        howner', hrel]
      rw [show roleGroups (t.slotReleased k i) r role = roleGroups t r role from rfl, hnot]
      decide
    obtain rfl := Option.some.inj (hz.symm.trans (hv ▸ hteam))
    rw [hv]
    exact ⟨rfl, hrel⟩

/-- The machine when group `g` of a team has released its slot. -/
def Work.stagereled (w : Work) (t : Team) (g : Group) : Work :=
  ((w.modTeam t.launch t.lin (·.slotReleased g.cursor g.gidx)).ringSettle t.launch t.lin g.cursor
    (lrRlen ((w.modTeam t.launch t.lin (·.slotReleased g.cursor g.gidx)).recOf g) + 1)).ringWake
      t.launch t.lin

/-- R244: STAGEREL releases its slot. -/
theorem stagerel_releases (hr : Ready s c n g) (hm : Member s g y) (x : BitVec 2)
    (hpos : lrRingPos (s.work.recOf g) g.role = some pos) (hacq : g.acquired = true)
    (howner : (s.work.ringWord y g.cursor).2 = g.role) :
    let r := s.work.recOf g
    let i := g.cursor
    let next := (pos + 1) % (lrRlen r + 1)
    let mine := roleGroups y r g.role
    ∃ t h z, exec (.stagerel x) s = .next t ∧ t.mem = s.mem ∧ t.work.grp c n = some h ∧
      h.pc = g.pc + 4 ∧ h.acquired = false ∧ h.cursor = (i + 1) % max (lrRingn r) 1 ∧
      t.work.team g.launch g.lin = some z ∧
      (mine.all (has (with_ (tget 0 i y.ringRel) g.gidx)) = true →
        roleGroups y r (lrRorder r next) ≠ [] → lrRorder r next ≠ g.role →
        t.work.ringWord z i = (decide (next ≠ 0), lrRorder r next) ∧ tget 0 i z.ringRel = 0) ∧
      (mine.all (has (with_ (tget 0 i y.ringRel) g.gidx)) = false →
        t.work.ringWord z i = s.work.ringWord y i ∧
        tget 0 i z.ringRel = with_ (tget 0 i y.ringRel) g.gidx) := by
  intro r i next mine
  have hteam : s.work.team y.launch y.lin = some y := by
    rw [hm.launch, hm.lin]
    exact hm.team
  have hrec : ((s.work.launch? y.launch).map (·.record)).getD 0 = r := by
    rw [hm.launch]
    exact (recOf_member hm).symm
  obtain ⟨hlog, z, hz, hpass, hstay⟩ := slot_settles (i := g.gidx) (k := i) hrec howner hpos
    (lrRlen r)
  obtain ⟨v, hv⟩ : ∃ v, v = (s.work.setTeam (y.slotReleased i g.gidx)).ringSettle y.launch y.lin i
    (lrRlen r + 1) := ⟨_, rfl⟩
  rw [← hv] at hlog hz hpass hstay
  have he := exec_gone hr (i := .stagerel x) (w' := v.ringWake y.launch y.lin)
    (g' := g.stepped (lrRingn r)) rfl rfl rfl (by simp [ringCtx_member hm hpos, hacq]) (by
      dsimp only
      rw [teamOf_member hm]
      dsimp only
      rw [release_team hm]
      show Res.done (s.work.stagereled y g.unreleased) (g.stepped (lrRingn (s.work.recOf g.unreleased))) = _
      unfold Work.stagereled
      rw [show s.work.recOf g.unreleased = r from rfl, modTeam_eq hteam,
        show (s.work.setTeam (y.slotReleased g.unreleased.cursor g.unreleased.gidx)).recOf g.unreleased = r
          from rfl, hv]
      rfl) rfl rfl
  obtain ⟨-, hmem, hg, hpc, -⟩ := goes_still he ((log_ringWake _ _ _).trans hlog) hr.quiet.flights
    (g' := g.stepped (lrRingn r)) ⟨rfl, rfl, rfl, rfl, rfl, rfl, rfl, rfl⟩
  obtain ⟨ha, hcursor⟩ := stepped_fields g (lrRingn r) (wordForm (wStagerel x) x none wtScalar).step
    ((v.ringWake y.launch y.lin).core c).cycle (g.pc + 4)
  have hafter := After.gone (f := wordForm (wStagerel x) x none wtScalar) (s := s) (c := c) (n := n)
    (g := g) (w' := v.ringWake y.launch y.lin) (g' := g.stepped (lrRingn r))
  have hword := ringWord_of_sbuf (t := z) (u := z) rfl rfl
    ((congrArg Core.sbuf ((offSeats_of_rest (hafter.core z.home)).trans
      (core_ringWake_offSeats v y.launch y.lin z.home)) :)) i
  refine ⟨_, _, z, he, hmem, hg, hpc, ha, hcursor, ?_, fun hall hnext _ => ?_, fun hnot => ?_⟩
  · rw [hafter.team, team_of_central (central_ringWake _ _ _), ← hm.launch, ← hm.lin]
    exact hz
  · rw [hword]
    exact hpass hall hnext
  · rw [hword]
    exact hstay hnot

end Stage

/-- R29, R30, R244: the stage ring. -/
theorem stageRing : StageRing :=
  fun _ _ _ _ _ _ hr hm x hpos =>
    ⟨fun hacq hhalf hready hload => stageacq_takes hr hm x hpos hacq hhalf hready hload,
      fun hacq hhalf hready => stageacq_parks hr hm x hpos hacq hhalf hready,
      fun hacq howner => stagerel_releases hr hm x hpos hacq howner⟩

/-- Settles O23: an arrival either completes its barrier, which lets the team go on, or parks; releases
and acquires inside these instructions go by their own lemmas. -/
theorem barriers : Obligations.Barriers := by
  unfold Obligations.Barriers
  exact ⟨teamBarriers, wideBarriers, stageRing⟩

end Sys2Proof.Machine
end

section
/-!
SUPPORT. What the accesses of engines and of the distributor (R196, R332, R333) leave alone: the teams,
the suspended owners, and the groups of every core.
-/

namespace Sys2Proof.Machine

/-- The teams, the suspended owners, and the groups of every core. -/
def Work.kept (w : Work) : Tab Team × List Nat × (Nat → Tab Group) :=
  (w.teams, w.suspended, fun c => (w.core c).groups)

theorem kept_of_offRead {v w : Work} (h : v.offRead = w.offRead) : v.kept = w.kept := by
  have hcores := core_of_offRead h
  unfold Work.kept
  rw [show v.teams = w.teams from (congrArg (fun m : Mach => m.teams) h :),
    show v.suspended = w.suspended from (congrArg (fun m : Mach => m.suspended) h :), funext hcores]

theorem kept_of_offHome {v w : Work} (h : v.offHome = w.offHome) : v.kept = w.kept :=
  kept_of_offRead (offRead_of_offHome h)

theorem teams_of_kept {v w : Work} (h : v.kept = w.kept) : v.teams = w.teams :=
  (congrArg Prod.fst h :)

theorem suspended_of_kept {v w : Work} (h : v.kept = w.kept) : v.suspended = w.suspended :=
  (congrArg (fun x => x.2.1) h :)

theorem grp_of_kept {v w : Work} (h : v.kept = w.kept) (c n : Nat) : v.grp c n = w.grp c n :=
  (congrArg (fun x : Tab Team × List Nat × (Nat → Tab Group) => tfind n (x.2.2 c)) h :)

theorem kept_foldl {β : Type} (f : Work → β → Work) (h : ∀ w x, (f w x).kept = w.kept) (l : List β)
    (w : Work) : (l.foldl f w).kept = w.kept :=
  foldl_unwritten (get := Work.kept) (fun v x _ => h v x) w

theorem kept_setCore {w : Work} {c : Nat} {k : Core} (h : k.groups = (w.core c).groups) :
    (w.setCore c k).kept = w.kept := by
  unfold Work.kept
  refine Prod.ext rfl (Prod.ext rfl (funext fun d => ?_))
  dsimp only
  rw [core_setCore]
  split
  · next e => rw [h, e]
  · rfl

theorem kept_modCore {w : Work} {c : Nat} {f : Core → Core} (h : ∀ k, (f k).groups = k.groups) :
    (w.modCore c f).kept = w.kept := kept_setCore (h _)

theorem kept_modDie (w : Work) (d : Nat) (f : Die → Die) : (w.modDie d f).kept = w.kept := rfl

theorem kept_request (w : Work) (r : Req) : (w.request r).kept = w.kept := kept_modDie _ _ _

theorem kept_startStore (w : Work) (c slot : Nat) (g : Group) (n : Nat) (secs : List Nat) (ord : Nat) :
    (w.startStore c slot g n secs ord).2.kept = w.kept := by
  unfold Work.startStore
  refine kept_setCore ?_
  rfl

theorem kept_newOp (w : Work) (c : Nat) : (w.newOp c).2.kept = w.kept := by
  unfold Work.newOp
  refine kept_setCore ?_
  rfl

theorem kept_homeWrite (w : Work) (key : Nat) (ef : Bool) (l : List Host.Cell) :
    (w.homeWrite key ef l).kept = w.kept :=
  kept_of_offHome ((offHome_performed _ _ _).trans (offHome_homeTouch _ _ _ _))

theorem kept_mergeSectors (w : Work) (l i : Nat) (secs : List Nat) :
    (w.mergeSectors l i secs).kept = w.kept := by
  unfold Work.mergeSectors
  split
  · refine kept_foldl _ (fun w c => ?_) _ w
    refine kept_modCore fun k => ?_
    rfl
  · rfl

/-- A fold that carries a result beside the machine keeps what each step keeps. -/
theorem kept_foldl_fst {α β : Type} (f : Work × α → β → Work × α)
    (h : ∀ q x, (f q x).1.kept = q.1.kept) (l : List β) (q : Work × α) :
    (l.foldl f q).1.kept = q.1.kept :=
  foldl_unwritten (get := fun q : Work × α => q.1.kept) (fun q x _ => h q x) q

/-- R196: an engine's write. -/
theorem kept_engineWrite (w : Work) (c u l i pri : Nat) (ef : Bool) (spans : List Span)
    (data : List Byte) : (w.engineWrite c u l i pri ef spans data).1.kept = w.kept := by
  unfold Work.engineWrite
  refine kept_foldl_fst _ (fun q x => ?_) _ (w, [])
  split
  · rfl
  · split
    · exact (kept_mergeSectors _ _ _ _).trans (kept_homeWrite _ _ _ _)
    · refine kept_foldl_fst _ (fun q line => ?_) _ q
      exact (kept_request _ _).trans (kept_startStore _ _ _ _ _ _ _)

theorem kept_savePut (w : Work) (c owner pa : Nat) (l : List Byte) :
    (w.savePut c owner pa l).kept = w.kept := kept_engineWrite _ _ _ _ _ _ _ _ _

/-- An engine's read that asks for what has not come. -/
theorem kept_engineLook (w : Work) (c u l i pri : Nat) (ef : Bool) (spans : List Span) (tag : Nat) :
    (w.engineLook c u l i pri ef spans tag).1.kept = w.kept := by
  unfold Work.engineLook
  extract_lets home far ask asked have_ r v
  have hasked : asked.kept = w.kept := by
    refine kept_foldl _ (fun w n => ?_) _ w
    refine (kept_request _ _).trans ((kept_modCore fun k => ?_).trans (kept_newOp w c))
    rfl
  split
  · exact hasked
  · have hread : v.kept = w.kept := by
      refine (kept_foldl_fst _ (fun q x => ?_) _ (asked, [], false)).trans hasked
      dsimp only
      split
      · exact kept_of_offHome (offHome_homeRead _ x.key _ _ _)
      · rfl
    split
    · exact (kept_of_offRead (offRead_logLine _ _)).trans hread
    · exact hread

theorem kept_saveGet (w : Work) (c owner pa n : Nat) : (w.saveGet c owner pa n).1.kept = w.kept := by
  have hdef : Work.saveGet = Work.saveGet := rfl
  conv at hdef => rhs; delta Work.saveGet
  obtain ⟨look, hlook⟩ : ∃ f, f = @Work.engineLook := ⟨_, rfl⟩
  have hkeeps : ∀ spans, (look w c saveUnit 0 0 3 false spans 0).1.kept = w.kept := by
    rw [hlook]
    exact fun spans => kept_engineLook w c saveUnit 0 0 3 false spans 0
  rw [hdef, ← hlook]
  beta_reduce
  have h := hkeeps [{ pa, len := n, key := owner }]
  split
  · next e => rw [e] at h; exact h
  · next e => rw [e] at h; exact h

theorem offRead_saveArea (w : Work) (owner : Nat) : (w.saveArea owner).2.offRead = w.offRead := by
  have hdef : Work.saveArea = Work.saveArea := rfl
  conv at hdef => rhs; delta Work.saveArea
  obtain ⟨read, hread⟩ : ∃ f, f = Work.tableRead := ⟨_, rfl⟩
  rw [hdef, ← hread]
  beta_reduce
  split
  · next h => exact offRead_tableRead (hread ▸ h)
  · rfl

/-- R332: the block of an owner's save area is found in its table. -/
theorem offRead_saveBlock (w : Work) (owner bytes : Nat) :
    (w.saveBlock owner bytes).2.offRead = w.offRead := by
  have hdef : Work.saveBlock = Work.saveBlock := rfl
  conv at hdef => rhs; delta Work.saveBlock
  obtain ⟨area, harea⟩ : ∃ f, f = Work.saveArea := ⟨_, rfl⟩
  have hkeeps : (area w owner).2.offRead = w.offRead := by
    rw [harea]
    exact offRead_saveArea w owner
  rw [hdef, ← harea]
  exact hkeeps

theorem kept_distPage (w : Work) (owner va n : Nat) (acc : Acc) :
    (w.distPage owner va n acc).2.kept = w.kept := by
  have hdef : Work.distPage = Work.distPage := rfl
  conv at hdef => rhs; delta Work.distPage
  obtain ⟨walk, hwalk⟩ : ∃ f, f = Work.walk := ⟨_, rfl⟩
  have hkeeps : ∀ va, (walk w owner va).2.kept = w.kept := by
    rw [hwalk]
    exact fun va => kept_of_offRead (offRead_walk w owner va)
  rw [hdef, ← hwalk]
  dsimp only
  split
  · split
    · exact hkeeps _
    · exact hkeeps _
  · exact hkeeps _

theorem kept_inbAll (w : Work) (secs : List Nat) : (w.inbAll secs).kept = w.kept := by
  unfold Work.inbAll
  refine kept_foldl _ (fun w c => ?_) _ w
  refine kept_modCore fun k => ?_
  rfl

theorem kept_distPut (w : Work) (owner va : Nat) (data : List Byte) :
    (w.distPut owner va data).kept = w.kept := by
  have hdef : Work.distPut = Work.distPut := rfl
  conv at hdef => rhs; delta Work.distPut
  obtain ⟨page, hpage⟩ : ∃ f, f = Work.distPage := ⟨_, rfl⟩
  have hkeeps : ∀ va n acc, (page w owner va n acc).2.kept = w.kept := by
    rw [hpage]
    exact kept_distPage w owner
  rw [hdef, ← hpage]
  beta_reduce
  have h := hkeeps va data.length .store
  split
  · next e => rw [e] at h; exact h
  · next e =>
    rw [e] at h
    exact (kept_inbAll _ _).trans ((kept_engineWrite _ _ _ _ _ _ _ _ _).trans h)

theorem kept_reread (w : Work) (p : Queue → Bool) (lines : Nat → Bool) :
    (w.reread p lines).kept = w.kept := by
  have hcore : (w.modCore 0 fun k =>
      { k with fills := k.fills.filter fun f =>
          !(f.2.req.eng && decide (f.2.req.slot = distUnit) && lines f.2.req.line) }).kept = w.kept := by
    refine kept_modCore fun k => ?_
    rfl
  exact hcore

theorem kept_finishBook (w : Work) (x : Launch) : (w.finishBook x).kept = w.kept := by
  unfold Work.finishBook
  split
  · rfl
  · exact (kept_distPut _ _ _ _).trans ((kept_distPut _ _ _ _).trans (kept_distPut _ _ _ _))

theorem kept_modLaunch (w : Work) (l : Nat) (f : Launch → Launch) : (w.modLaunch l f).kept = w.kept := rfl

/-- R306: the final write of a launch. -/
theorem kept_finishLaunch (w : Work) (l : Nat) (x : Launch) (status : Nat) :
    (w.finishLaunch l x status).kept = w.kept :=
  (kept_modLaunch _ _ _).trans ((kept_reread _ _ _).trans ((kept_distPut _ _ _ _).trans
    (kept_finishBook w x)))

end Sys2Proof.Machine
end

section
/-!
PROOFS. Pre-emption (R338 to R341): GO, RESUME, and the deadlines of PRETIME.
-/

namespace Sys2Proof.Machine

open Sys2Proof.Claim

/-! ## GO and RESUME -/

/-- A resident team of an owner. -/
def Work.holdsTeam (w : Work) (own : Nat) : Bool :=
  w.teams.any fun t => t.2.resident && decide (((w.launch? t.2.launch).map (·.owner)) = some own)

/-- R339: the pre-emption ends where no resident team of the owner remains. -/
theorem preemptSettle_eq {w : Work} (h : w.preempt.stage = 1 ∨ w.preempt.stage = 2) :
    w.preemptSettle = if w.holdsTeam w.preempt.owner then w
      else { w with preempt := { w.preempt with stage := 0, result := 1 } } := by
  have hany : (w.teams.any fun t =>
      t.2.resident && ((w.launch? t.2.launch).map (·.owner)) == some w.preempt.owner) =
      w.holdsTeam w.preempt.owner := by
    unfold Work.holdsTeam
    refine congrArg w.teams.any (funext fun t => ?_)
    rw [beq_eq_decide]
  unfold Work.preemptSettle
  dsimp only
  rw [hany, decide_eq_true h, Bool.true_and]
  cases w.holdsTeam w.preempt.owner <;> rfl

theorem mem_ninsert (k : Nat) (l : List Nat) : k ∈ ninsert k l := by
  induction l with
  | nil => exact List.mem_cons_self
  | cons j l ih =>
    unfold ninsert
    split
    · next h => rw [h]; exact List.mem_cons_self
    · split
      · exact List.mem_cons_self
      · exact List.mem_cons_of_mem j ih

/-- The machine when GO has been given for an owner. -/
def Work.preempting (w : Work) (own : Nat) : Work :=
  { w with
    preempt := { owner := own, t0 := w.tempo, stage := 1, grace := false, result := 0, cmd := 1 }
    suspended := ninsert own w.suspended }

/-- The state when GO has been given (R338). -/
theorem exec_preemptGo {s : State} {path : Path} {v : Word} (hpath : path ≠ .supervisor)
    (hstage : s.preempt.stage = 0) (hgo : v.getLsbD 10 = true) :
    exec (.preemptGo path v) s =
      .next (commit s (if s.work.holdsTeam (field v 9 0) then s.work.preempting (field v 9 0)
        else { s.work.preempting (field v 9 0) with
          preempt := { (s.work.preempting (field v 9 0)).preempt with stage := 0, result := 1 } })) := by
  rw [show exec (.preemptGo path v) s = execPreemptGo path v s from rfl]
  unfold execPreemptGo event
  beta_reduce
  rw [if_neg (by simp [hpath, hgo, hstage])]
  exact congrArg (fun w => Host.Outcome.next (commit s w))
    (preemptSettle_eq (w := s.work.preempting (field v 9 0)) (.inl rfl))

/-- The machine when RESUME has been given for an owner. -/
def Work.resuming (w : Work) (own : Nat) : Work :=
  { w with
    preempt := { owner := own, t0 := w.tempo, stage := 3, grace := false, result := 0, cmd := 2 }
    suspended := w.suspended.filter (· ≠ own)
    teams := tmap (fun _ t =>
      if !t.resident ∧ w.ownerOf t = own then { t with waitingRestore := true } else t) w.teams }

theorem exec_preemptResume {s : State} {path : Path} {v : Word} (hpath : path ≠ .supervisor)
    (hstage : s.preempt.stage = 0) (hgo : v.getLsbD 11 = true) :
    exec (.preemptResume path v) s =
      .next (commit s (s.work.resuming (field v 9 0)).resumeSettle) := by
  rw [show exec (.preemptResume path v) s = execPreemptResume path v s from rfl]
  unfold execPreemptResume event
  beta_reduce
  rw [if_neg (by simp [hpath, hgo, hstage])]
  rfl

/-- A team of the owner is still to be restored. -/
def Work.restoring (w : Work) : Bool :=
  w.teams.any fun t => (t.2.waitingRestore || t.2.loaded) && decide (w.ownerOf t.2 = w.preempt.owner)

theorem resumeSettle_eq {w : Work} (h : w.preempt.stage = 3) :
    w.resumeSettle = if w.restoring then w
      else { w with preempt := { w.preempt with stage := 0, result := 3 } } := by
  unfold Work.resumeSettle
  dsimp only
  rw [h, decide_eq_true rfl, Bool.true_and, show (w.teams.any fun t =>
    (t.2.waitingRestore || t.2.loaded) && decide (w.ownerOf t.2 = w.preempt.owner)) = w.restoring from rfl]
  cases w.restoring <;> rfl

/-- A team after RESUME for an owner. -/
def Work.resumed (w : Work) (own : Nat) (t : Team) : Team :=
  if !t.resident ∧ w.ownerOf t = own then { t with waitingRestore := true } else t

theorem ownerOf_resumed (w : Work) (own : Nat) (t : Team) :
    w.ownerOf (w.resumed own t) = w.ownerOf t ∧ (w.resumed own t).resident = t.resident ∧
      (w.resumed own t).loaded = t.loaded := by
  unfold Work.resumed
  split <;> exact ⟨rfl, rfl, rfl⟩

theorem teams_resuming (w : Work) (own : Nat) :
    (w.resuming own).teams = w.teams.map fun p => (p.1, w.resumed own p.2) := rfl

theorem mem_teams_resuming {w : Work} {own : Nat} {p : Nat × Team} (h : p ∈ (w.resuming own).teams) :
    ∃ q ∈ w.teams, p.2 = w.resumed own q.2 := by
  rw [teams_resuming] at h
  obtain ⟨q, hq, rfl⟩ := List.mem_map.mp h
  exact ⟨q, hq, rfl⟩

theorem resumed_waits {w : Work} {own : Nat} {t : Team} (hres : t.resident = false)
    (hown : w.ownerOf t = own) : (w.resumed own t).waitingRestore = true := by
  unfold Work.resumed
  rw [if_pos ⟨by rw [hres]; rfl, hown⟩]

/-- R341: nothing is to be restored. -/
theorem not_restoring {w : Work} {own : Nat}
    (h : ∀ p ∈ w.teams, w.ownerOf p.2 = own → p.2.resident = true ∧
      p.2.waitingRestore = false ∧ p.2.loaded = false) : (w.resuming own).restoring = false := by
  unfold Work.restoring
  rw [List.any_eq_false]
  intro p hp
  obtain ⟨q, hq, hpq⟩ := mem_teams_resuming hp
  obtain ⟨hown, -, -⟩ := ownerOf_resumed w own q.2
  by_cases ho : w.ownerOf q.2 = own
  · obtain ⟨hres, hwait, hload⟩ := h q hq ho
    have hsame : w.resumed own q.2 = q.2 := if_neg fun e => by simp [hres] at e
    simp [hpq, hsame, hwait, hload]
  · have hne : (w.resuming own).ownerOf p.2 ≠ own := by
      rw [hpq]
      exact fun e => ho (hown.symm.trans e)
    simp [show (w.resuming own).preempt.owner = own from rfl, hne]

theorem restoring_of_saved {w : Work} {own : Nat}
    (h : ∃ p ∈ w.teams, w.ownerOf p.2 = own ∧ p.2.resident = false) :
    (w.resuming own).restoring = true := by
  obtain ⟨p, hp, hown, hres⟩ := h
  unfold Work.restoring
  rw [List.any_eq_true]
  refine ⟨(p.1, w.resumed own p.2), List.mem_map.mpr ⟨p, hp, rfl⟩, ?_⟩
  have ho : (w.resuming own).ownerOf (w.resumed own p.2) = own := (ownerOf_resumed w own p.2).1.trans hown
  simp [resumed_waits hres hown, ho, show (w.resuming own).preempt.owner = own from rfl]

/-- R338: GO suspends the owner. -/
theorem preemptGo_suspends {s : State} {path : Path} {v : Word} (hpath : path ≠ .supervisor)
    (hstage : s.preempt.stage = 0) (hgo : v.getLsbD 10 = true) :
    ∃ t, Occurs s t (.preemptGo path v) ∧ field v 9 0 ∈ t.suspended ∧
      t.preempt.owner = field v 9 0 ∧ t.preempt.t0 = s.tempo ∧ t.preempt.grace = false ∧
      t.preempt.stage = (if s.work.holdsTeam (field v 9 0) then 1 else 0) ∧
      t.preempt.result = (if s.work.holdsTeam (field v 9 0) then 0 else 1) := by
  refine ⟨_, ⟨exec_preemptGo hpath hstage hgo, commit_mem _ _ ?_⟩, ?_⟩
  · split <;> rfl
  · split <;> exact ⟨mem_ninsert _ _, rfl, rfl, rfl, rfl, rfl⟩

/-- R338, R341: RESUME ends the suspension. -/
theorem preemptResume_resumes {s : State} {path : Path} {v : Word} (hpath : path ≠ .supervisor)
    (hstage : s.preempt.stage = 0) (hgo : v.getLsbD 11 = true) :
    ∃ t, Occurs s t (.preemptResume path v) ∧ field v 9 0 ∉ t.suspended ∧
      ((∀ p ∈ s.teams, s.work.ownerOf p.2 = field v 9 0 → p.2.resident = true ∧
          p.2.waitingRestore = false ∧ p.2.loaded = false) →
        t.preempt.stage = 0 ∧ t.preempt.result = 3) ∧
      ((∃ p ∈ s.teams, s.work.ownerOf p.2 = field v 9 0 ∧ p.2.resident = false) →
        t.preempt.stage = 3 ∧ ∀ p ∈ t.teams, s.work.ownerOf p.2 = field v 9 0 →
          p.2.resident = false → p.2.waitingRestore = true) := by
  have hsettle := resumeSettle_eq (w := s.work.resuming (field v 9 0)) rfl
  have he := exec_preemptResume hpath hstage hgo
  rw [hsettle] at he
  refine ⟨_, ⟨he, commit_mem _ _ ?_⟩, ?_, fun hall => ?_, fun hsaved => ?_⟩
  · split <;> rfl
  · have hout : field v 9 0 ∉ s.work.suspended.filter (· ≠ field v 9 0) := by simp
    split <;> exact hout
  · rw [if_neg (by rw [not_restoring hall]; decide)]
    exact ⟨rfl, rfl⟩
  · rw [if_pos (restoring_of_saved hsaved)]
    refine ⟨rfl, fun p hp hown hres => ?_⟩
    obtain ⟨q, hq, hpq⟩ := mem_teams_resuming hp
    obtain ⟨ho, hr, -⟩ := ownerOf_resumed s.work (field v 9 0) q.2
    rw [hpq] at hown hres ⊢
    exact resumed_waits (hr.symm.trans hres) (ho.symm.trans hown)

/-! ## The deadlines -/

/-- The machine when stage 2 of a pre-emption has begun. -/
def Work.draining (w : Work) : Work := { w with preempt := { w.preempt with stage := 2 } }

theorem drainDeadline_ends {s : State} (hstage : s.preempt.stage = 1)
    (hdue : s.work.deadline (field s.pretime 15 0) ≤ s.tempo)
    (hthere : s.work.holdsTeam s.preempt.owner = true) :
    ∃ t, Occurs s t .drainDeadline ∧ t.preempt = { s.preempt with stage := 2 } := by
  have he : exec .drainDeadline s = .next (commit s s.work.draining) := by
    rw [show exec .drainDeadline s = execDrainDeadline s from rfl]
    unfold execDrainDeadline event
    beta_reduce
    rw [if_pos ⟨hstage, hdue⟩]
    exact congrArg (fun w => Host.Outcome.next (commit s w))
      ((preemptSettle_eq (w := s.work.draining) (.inr rfl)).trans (if_pos hthere))
  exact ⟨_, ⟨he, commit_mem _ _ rfl⟩, rfl⟩

theorem graceDeadline_ends {s : State} (hstage : s.preempt.stage = 2)
    (hdue : s.work.deadline (field s.pretime 15 0 + field s.pretime 31 16) ≤ s.tempo) :
    ∃ t, Occurs s t .graceDeadline ∧ t.preempt = { s.preempt with grace := true } := by
  have he : exec .graceDeadline s = .next (commit s
      { s.work with preempt := { s.work.preempt with grace := true } }) := by
    rw [show exec .graceDeadline s = execGraceDeadline s from rfl]
    unfold execGraceDeadline event
    beta_reduce
    rw [if_pos ⟨hstage, hdue⟩]
  exact ⟨_, ⟨he, commit_mem _ _ rfl⟩, rfl⟩

/-- R340: the context reset of an owner leaves none of its teams, nor its suspension. -/
theorem contextReset_clears (w : Work) (owner status : Nat) :
    owner ∉ (w.contextReset owner status).suspended ∧
      ∀ p ∈ w.launches, p.2.complete = false → p.2.owner = owner →
        ∀ q ∈ (w.contextReset owner status).teams, q.2.launch ≠ p.1 := by
  unfold Work.contextReset
  extract_lets ls mine v1 v2 v3
  have hkept : (ls.foldl (fun w l =>
      match w.launch? l with
      | some x => w.finishLaunch l x status
      | none => w) v3).kept = v3.kept := by
    refine kept_foldl _ (fun w l => ?_) ls v3
    split
    · exact kept_finishLaunch _ _ _ _
    · rfl
  refine ⟨fun hin => ?_, fun p hp hnot hown q hq => ?_⟩
  · have hin' : owner ∈ v2.suspended.filter (· ≠ owner) :=
      (suspended_of_kept hkept).subst (motive := fun l => owner ∈ l) hin
    simp at hin'
  · have hq' : q ∈ tfilter (fun _ t => !mine t.launch) v2.teams :=
      (teams_of_kept hkept).subst (motive := fun l => q ∈ l) hq
    have hmine : mine q.2.launch = false := by
      have := (List.mem_filter.mp hq').2
      simpa using this
    have hlist : p.1 ∈ ls := by
      refine List.mem_map.mpr ⟨p, List.mem_filter.mpr ⟨hp, ?_⟩, rfl⟩
      simp [hnot, hown]
    rintro h
    rw [h] at hmine
    have : mine p.1 = true := List.contains_iff_mem.mpr hlist
    rw [this] at hmine
    exact Bool.noConfusion hmine

theorem saveDeadline_ends {s : State} (hstage : s.preempt.stage = 1 ∨ s.preempt.stage = 2)
    (hdue : s.work.deadline (field s.pretime 47 32) ≤ s.tempo) :
    ∃ t, exec .saveDeadline s = .next t ∧ t.preempt.stage = 0 ∧ t.preempt.result = 2 ∧
      s.preempt.owner ∉ t.suspended ∧
      ∀ p ∈ s.launches, p.2.complete = false → p.2.owner = s.preempt.owner →
        ∀ q ∈ t.teams, q.2.launch ≠ p.1 := by
  obtain ⟨v, hv⟩ : ∃ v, v = s.work.contextReset s.work.preempt.owner 0x20 := ⟨_, rfl⟩
  have he : exec .saveDeadline s = .next (commit s
      { v with preempt := { v.preempt with stage := 0, result := 2 } }) := by
    rw [show exec .saveDeadline s = execSaveDeadline s from rfl]
    unfold execSaveDeadline event
    dsimp only
    rw [if_pos ⟨hstage, hdue⟩, hv]
  obtain ⟨hsuspended, hteams⟩ := contextReset_clears s.work s.work.preempt.owner 0x20
  rw [← hv] at hsuspended hteams
  exact ⟨_, he, rfl, rfl, hsuspended, hteams⟩

/-- R338 to R341: pre-emption. -/
theorem preemption : Preemption :=
  ⟨fun _ _ _ hpath hstage => ⟨preemptGo_suspends hpath hstage, preemptResume_resumes hpath hstage⟩,
    fun _ => ⟨drainDeadline_ends, graceDeadline_ends, saveDeadline_ends⟩⟩

end Sys2Proof.Machine
end

section
/-!
PROOFS. A team is halted and saved (R39, R339, R341, R350).
-/

namespace Sys2Proof.Machine

open Sys2Proof.Claim

/-- What one step of a fold establishes and every step keeps holds at its end. -/
theorem foldl_settles {σ β : Type} {P : σ → Prop} {f : σ → β → σ} (hkeep : ∀ w x, P w → P (f w x))
    {l : List β} {x : β} (hx : x ∈ l) (hset : ∀ w, P (f w x)) (w : σ) : P (l.foldl f w) := by
  obtain ⟨as, bs, rfl⟩ := List.append_of_mem hx
  rw [List.foldl_append, List.foldl_cons]
  exact List.foldlRecOn bs f (hset _) fun w hw x _ => hkeep w x hw

section Save

variable {s : State} {l lin : Nat} {y : Team} {x : Launch}

/-! ## The halt broadcast -/

/-- A group that has stopped, or that a halt has been sent to. -/
def Group.Halts (g : Group) : Prop := g.stopped = true ∨ g.haltDue.isSome = true ∨ g.haltAt.isSome = true

/-- The halt broadcast reaches a group (R339). -/
def Group.halted (at_ : Nat) (g : Group) : Group :=
  if g.stopped || g.haltAt.isSome then g
  else { g with haltDue := some ((g.haltDue.map (min at_)).getD at_) }

theorem halts_halted (at_ : Nat) (g : Group) : (g.halted at_).Halts := by
  unfold Group.halted
  split
  · next h =>
    rcases Bool.or_eq_true_iff.mp h with h | h
    · exact .inl h
    · exact .inr (.inr h)
  · exact .inr (.inl rfl)

/-- The halt broadcast, from each core to the groups of a team on it. -/
def Work.broadcastHalt (w : Work) (m : Nat × Nat) : Work :=
  w.modGrp m.1 m.2 (Group.halted ((w.core m.1).cycle + 2))

/-- Every group that stands in the place halts. -/
def Work.HaltsAt (w : Work) (m : Nat × Nat) : Prop := ∀ h, w.grp m.1 m.2 = some h → h.Halts

theorem haltsAt_same (w : Work) (m : Nat × Nat) : (w.broadcastHalt m).HaltsAt m := by
  intro h hh
  unfold Work.broadcastHalt at hh
  rw [grp_modGrp, if_pos ⟨rfl, rfl⟩] at hh
  obtain ⟨g, -, rfl⟩ := Option.map_eq_some_iff.mp hh
  exact halts_halted _ g

theorem haltsAt_keeps {w : Work} {m : Nat × Nat} (p : Nat × Nat) (hw : w.HaltsAt m) :
    (w.broadcastHalt p).HaltsAt m := by
  by_cases hmp : m = p
  · exact hmp ▸ haltsAt_same w m
  · intro h hh
    unfold Work.broadcastHalt at hh
    rw [grp_modGrp, if_neg fun e => hmp (Prod.ext e.1 e.2)] at hh
    exact hw h hh

theorem startSave_eq (w : Work) (t : Team) :
    w.startSave t = (((w.setTeam { t with saving := true }).members t fun _ => true).foldl
      Work.broadcastHalt (w.setTeam { t with saving := true })).haltSweeps t := rfl

theorem central_broadcastHalt (w : Work) (m : Nat × Nat) :
    (w.broadcastHalt m).toMach.central = w.toMach.central := central_modGrp _ _ _ _

/-- R339: the save of a team starts. -/
theorem teamSave_starts (hy : s.work.team l lin = some y) (hx : s.work.launch? l = some x)
    (hl : y.launch = l) (hn : y.lin = lin) (hsaving : y.saving = false)
    (hmust : s.work.mustSave y = true) :
    ∃ t z, Occurs s t (.teamSave l lin) ∧ t.work.team l lin = some z ∧ z.saving = true ∧
      ∀ m ∈ s.work.members y fun _ => true, ∀ h, t.work.grp m.1 m.2 = some h →
        h.stopped = true ∨ h.haltDue.isSome = true ∨ h.haltAt.isSome = true := by
  subst hl hn
  have he : exec (.teamSave y.launch y.lin) s = .next (commit s (s.work.startSave y)) := by
    rw [show exec (.teamSave y.launch y.lin) s = execTeamSave y.launch y.lin s from rfl]
    unfold execTeamSave event
    beta_reduce
    rw [hy, hx]
    dsimp only
    rw [hsaving, hmust]
    rfl
  rw [startSave_eq] at he
  refine ⟨_, { y with saving := true }, ⟨he, commit_mem _ _ ?_⟩, ?_, rfl, fun m hm => ?_⟩
  · exact foldl_unwritten (get := fun w : Work => w.log) (fun w m _ => log_modGrp w m.1 m.2 _) _
  · refine (team_of_central (foldl_unwritten (get := fun w : Work => w.toMach.central)
      (fun w m _ => central_broadcastHalt w m) _) _ _).trans ?_
    exact team_setTeam_same s.work { y with saving := true }
  · exact foldl_settles (P := fun w : Work => w.HaltsAt m) (f := Work.broadcastHalt)
      (l := s.work.members y fun _ => true) (fun w p hw => haltsAt_keeps p hw) hm
      (fun w => haltsAt_same w m) (s.work.setTeam { y with saving := true })

/-! ## The supervisors are asked -/

/-- What the step of a save does once the team has come to rest. -/
theorem exec_teamSave (hy : s.work.team l lin = some y) (hx : s.work.launch? l = some x)
    (hsaving : y.saving = true) (hready : (s.work.haltSweeps y).saveReady y = true) :
    exec (.teamSave l lin) s = .next (commit s (if y.asked then (s.work.haltSweeps y).finishSave y x
      else (s.work.haltSweeps y).askSave y x)) := by
  rw [show exec (.teamSave l lin) s = execTeamSave l lin s from rfl]
  unfold execTeamSave event
  beta_reduce
  rw [hy, hx]
  dsimp only
  rw [if_pos hsaving, if_neg (by rw [hready]; decide)]

/-- The core has been asked to save a team to an image. -/
def Core.AskedToSave (k : Core) (image : Nat) : Prop :=
  ∃ e ∈ k.evq, e.kind = 6 ∧ e.detail = natWord image

/-- The supervisor of a core is asked to save a team, where it holds groups of it (R339). -/
def Work.asksCore (gs : List (Nat × Nat × Nat × Group)) (image : Nat) (w : Work) (c : Nat) : Work :=
  if (w.core c).mgn.quar then w
  else
    match gs.find? fun m => decide (m.2.1 = c) with
    | some m => w.supEvent c 6 m.2.2.1 0 0 (natWord image)
    | none => w

theorem core_supEvent_other {w : Work} {c d : Nat} (h : d ≠ c) (kind slot record cause : Nat)
    (detail : Word) : (w.supEvent c kind slot record cause detail).core d = w.core d := by
  unfold Work.supEvent
  rw [core_modCore, if_neg h]

theorem mem_insBy_of_mem {α : Type} {lt : α → α → Bool} {a b : α} {q : List α} (h : b ∈ q) :
    b ∈ insBy lt a q := by
  induction q with
  | nil => cases h
  | cons e q ih =>
    unfold insBy
    split
    · rcases List.mem_cons.mp h with rfl | h
      · exact List.mem_cons_self
      · exact List.mem_cons_of_mem _ (ih h)
    · exact List.mem_cons_of_mem _ h

/-- An event stands in the queue when others have come. -/
theorem evq_supEvent {w : Work} {c d : Nat} {e : Event} (h : e ∈ (w.core d).evq)
    (kind slot record cause : Nat) (detail : Word) :
    e ∈ ((w.supEvent c kind slot record cause detail).core d).evq := by
  by_cases hd : d = c
  · subst hd
    unfold Work.supEvent
    rw [core_modCore, if_pos rfl]
    dsimp only
    split
    · exact mem_insBy_of_mem h
    · exact h
  · rw [core_supEvent_other hd]
    exact h

theorem askedToSave_keeps {w : Work} {c d image : Nat} (gs : List (Nat × Nat × Nat × Group))
    (h : (w.core d).AskedToSave image) : ((w.asksCore gs image c).core d).AskedToSave image := by
  obtain ⟨e, he, hfields⟩ := h
  unfold Work.asksCore
  split
  · exact ⟨e, he, hfields⟩
  · split
    · exact ⟨e, evq_supEvent he _ _ _ _ _, hfields⟩
    · exact ⟨e, he, hfields⟩

theorem askedToSave_same {w : Work} {c image : Nat} {gs : List (Nat × Nat × Nat × Group)}
    (hquar : (w.core c).mgn.quar = false) (hq : (w.core c).evq.length < 64)
    (hgs : ∃ m ∈ gs, m.2.1 = c) : ((w.asksCore gs image c).core c).AskedToSave image := by
  unfold Work.asksCore
  rw [hquar, if_neg Bool.false_ne_true]
  split
  · unfold Work.supEvent
    rw [core_modCore, if_pos rfl]
    dsimp only
    rw [if_pos hq]
    exact ⟨_, mem_insBy _ _ _, rfl, rfl⟩
  · next hnone =>
    obtain ⟨m, hm, hc⟩ := hgs
    exact absurd (decide_eq_true hc) (by simpa using List.find?_eq_none.mp hnone m hm)

theorem core_asksCore_other {w : Work} {c d : Nat} (gs : List (Nat × Nat × Nat × Group)) (image : Nat)
    (h : d ≠ c) : (w.asksCore gs image c).core d = w.core d := by
  unfold Work.asksCore
  split
  · rfl
  · split
    · exact core_supEvent_other h _ _ _ _ _
    · rfl

/-- Every core of a list that can take the event has been asked. -/
theorem askedToSave_fold {cs : List Nat} {c image : Nat} {gs : List (Nat × Nat × Nat × Group)}
    (hc : c ∈ cs) {w : Work} (hquar : (w.core c).mgn.quar = false) (hq : (w.core c).evq.length < 64)
    (hgs : ∃ m ∈ gs, m.2.1 = c) :
    ((cs.foldl (Work.asksCore gs image) w).core c).AskedToSave image := by
  induction cs generalizing w with
  | nil => cases hc
  | cons d cs ih =>
    rw [List.foldl_cons]
    by_cases hd : c = d
    · subst hd
      exact List.foldlRecOn (motive := fun w : Work => (w.core c).AskedToSave image) cs _
        (askedToSave_same hquar hq hgs) fun w hw d _ => askedToSave_keeps gs hw
    · have hcore := core_asksCore_other (w := w) gs image hd
      exact ih ((List.mem_cons.mp hc).resolve_left hd) (by rw [hcore]; exact hquar)
        (by rw [hcore]; exact hq)

theorem central_asksCore (gs : List (Nat × Nat × Nat × Group)) (image : Nat) (w : Work) (c : Nat) :
    (w.asksCore gs image c).toMach.central = w.toMach.central := by
  unfold Work.asksCore
  split
  · rfl
  · split <;> rfl

/-- A team whose supervisors have been asked to save it. -/
def Team.askedFor (t : Team) (image : Nat) (recs : Tab Nat) : Team := { t with asked := true, image, recs }

theorem askSave_eq {w v : Work} {t : Team} {image : Nat}
    (h : w.saveBlock x.owner (imageSize x.record + recStride * (w.teamGroups t).length) =
      (some image, v)) :
    ∃ recs, w.askSave t x = t.cores.foldl (Work.asksCore (w.teamGroups t) image)
      (v.setTeam (t.askedFor image recs)) := by
  have hdef : Work.askSave = Work.askSave := rfl
  conv at hdef => rhs; delta Work.askSave
  obtain ⟨block, hblock⟩ : ∃ f, f = Work.saveBlock := ⟨_, rfl⟩
  rw [← hblock] at h
  rw [hdef, ← hblock]
  dsimp only
  rw [h]
  exact ⟨_, rfl⟩

/-- R339 step 7: the supervisors of the team's cores are told where its image goes. -/
theorem teamSave_asks (hy : s.work.team l lin = some y) (hx : s.work.launch? l = some x)
    (hl : y.launch = l) (hn : y.lin = lin) (hsaving : y.saving = true)
    (hready : (s.work.haltSweeps y).saveReady y = true) (hasked : y.asked = false) {image : Nat}
    {w1 : Work}
    (hblock : (s.work.haltSweeps y).saveBlock x.owner (imageSize x.record +
      recStride * ((s.work.haltSweeps y).teamGroups y).length) = (some image, w1)) :
    ∃ t z, exec (.teamSave l lin) s = .next t ∧ t.work.team l lin = some z ∧
      z.asked = true ∧ z.image = image ∧
      ∀ c ∈ y.cores, (s.work.core c).mgn.quar = false → (s.work.core c).evq.length < 64 →
        (∃ m ∈ s.work.teamGroups y, m.2.1 = c) →
        ∃ e ∈ (t.work.core c).evq, e.kind = 6 ∧ e.detail = natWord image := by
  subst hl hn
  have he := exec_teamSave hy hx hsaving hready
  obtain ⟨recs, hask⟩ := askSave_eq hblock
  rw [if_neg (by rw [hasked]; decide), hask] at he
  have hoff := offRead_saveBlock (s.work.haltSweeps y) x.owner (imageSize x.record +
    recStride * ((s.work.haltSweeps y).teamGroups y).length)
  rw [hblock] at hoff
  have hcore : ∀ c, w1.core c = s.work.core c := fun c => core_of_offRead hoff c
  refine ⟨_, y.askedFor image recs, he, ?_, rfl, rfl, fun c hc hquar hq hgs => ?_⟩
  · refine (team_of_central (foldl_unwritten (get := fun w : Work => w.toMach.central)
      (fun w c _ => central_asksCore _ image w c) _) _ _).trans ?_
    exact team_setTeam_same w1 (y.askedFor image recs)
  · refine askedToSave_fold (w := w1.setTeam (y.askedFor image recs)) hc ?_ ?_ hgs
    · exact (congrArg (fun k : Core => k.mgn.quar) (hcore c)).trans hquar
    · exact (congrArg (fun k : Core => k.evq.length) (hcore c)).trans_lt hq

end Save

end Sys2Proof.Machine
end

section
/-!
PROOFS. What supervisors do for a saved team (R339, R341, R346): its image and its records are written,
and its groups leave their cores.
-/

namespace Sys2Proof.Machine

open Sys2Proof.Claim

/-! ## A slot stays empty -/

theorem groups_tookMail (k : Core) (i : Nat) (m : MailRec) : (k.tookMail i m).groups = k.groups := by
  have hbytes := offBytes_setBufNum k 3 (mailAddr i) 64 (wordsNat m.req) fun _ => false
  unfold Core.tookMail
  obtain ⟨l, hl⟩ : ∃ l, l = k.setBufNum 3 (mailAddr i) 64 (wordsNat m.req) fun _ => false := ⟨_, rfl⟩
  rw [← hl] at hbytes ⊢
  exact (congrArg Core.groups hbytes :)

theorem kept_supEvent (w : Work) (c kind slot record cause : Nat) (detail : Word) :
    (w.supEvent c kind slot record cause detail).kept = w.kept := by
  unfold Work.supEvent
  refine kept_modCore fun k => ?_
  dsimp only
  split <;> rfl

theorem kept_postMail (w : Work) (c slot i va op : Nat) (words : List Lane) :
    (w.postMail c slot i va op words).kept = w.kept := by
  rw [postMail_eq, kept_supEvent]
  exact kept_modCore fun k => groups_tookMail k i _

theorem empty_setGrp {w : Work} {c n d m : Nat} (hg : w.grp c n ≠ none) (g : Group)
    (he : w.grp d m = none) : (w.setGrp c n g).grp d m = none := by
  rw [grp_setGrp, if_neg fun e => hg (by rw [← e.1, ← e.2]; exact he)]
  exact he

/-- R32: the caller that has waited longest takes a record: no slot fills. -/
theorem empty_nextCaller {w : Work} {d m : Nat} (c i : Nat) (he : w.grp d m = none) :
    (w.nextCaller c i).grp d m = none := by
  unfold Work.nextCaller
  split
  · exact he
  · next slot rest _ =>
    have he' : (w.modCore c fun k => { k with mailq := rest }).grp d m = none := by
      rw [grp_modCore_of_groups rfl]
      exact he
    dsimp only
    split
    · next g hg =>
      split
      · rw [grp_of_kept (kept_postMail _ _ _ _ _ _ _)]
        exact empty_setGrp (by rw [hg]; simp) _ he'
      · exact he'
    · exact he'

theorem empty_endWait {w : Work} {d m : Nat} (c n : Nat) (g : Group) (he : w.grp d m = none) :
    (w.endWait c n g).grp d m = none := by
  have hdef : Work.endWait = Work.endWait := rfl
  conv at hdef => rhs; delta Work.endWait
  obtain ⟨armed, harmed⟩ : ∃ f, f = Work.armed := ⟨_, rfl⟩
  rw [hdef, ← harmed]
  beta_reduce
  split
  · split
    · rw [grp_of_kept (kept_of_offHome (offHome_freeMonitor _ _ _ _))]
      exact he
    · exact he
  · refine empty_nextCaller _ _ ?_
    rw [grp_modCore_of_groups rfl]
    exact he
  · rw [grp_modCore_of_groups rfl]
    exact he
  · exact he

theorem grp_vacate (w : Work) (c n d m : Nat) :
    (w.vacate c n).grp d m = if d = c ∧ m = n then none else w.grp d m := by
  unfold Work.vacate
  rw [grp_modCore_of_groups rfl]
  unfold Work.delGrp Work.modCore
  rw [grp_setCore]
  by_cases hd : d = c
  · subst hd
    rw [if_pos rfl, tfind_tdel]
    by_cases hm : m = n <;> simp [hm, Work.grp]
  · rw [if_neg hd, if_neg fun e => hd e.1]

/-- The machine when the record of a group has been written, and its slot not yet left. -/
def Work.recordedGroup (w : Work) (c n : Nat) (g : Group) (pa : Nat) : Work :=
  let w := w.endWait c n g
  let wt := g.wait
  let ended := (w.core c).mx.ended
  let g := { g.forSave (w.core c).cycle with locked := g.locked.filter fun x => !ended.contains x.2 }
  let q := w.tick
  let w := q.2.savePut c g.owner pa
    (g.record wt (w.core c).cycle n (w.tent g).toNat (q.1 + 1))
  { w with shadow := tins (q.1 + 1) g w.shadow }

theorem saveGroup_eq (w : Work) (c n : Nat) (g : Group) (pa : Nat) :
    w.saveGroup c n g pa = (w.recordedGroup c n g pa).vacate c n := rfl

theorem kept_shadow (w : Work) (t : Tab Group) : ({ w with shadow := t } : Work).kept = w.kept := rfl

theorem kept_tick (w : Work) : w.tick.2.kept = w.kept := rfl

theorem kept_recordedGroup (w : Work) (c n : Nat) (g : Group) (pa : Nat) :
    (w.recordedGroup c n g pa).kept = (w.endWait c n g).kept := by
  unfold Work.recordedGroup
  exact (kept_shadow _ _).trans ((kept_savePut _ _ _ _ _).trans (kept_tick _))

/-- R346: a saved group leaves its slot, and none fills. -/
theorem empty_saveGroup {w : Work} {d m : Nat} (c n : Nat) (g : Group) (pa : Nat)
    (he : w.grp d m = none) : (w.saveGroup c n g pa).grp d m = none := by
  rw [saveGroup_eq, grp_vacate]
  split
  · rfl
  · rw [grp_of_kept (kept_recordedGroup _ _ _ _ _)]
    exact empty_endWait c n g he

theorem empty_saveGroup_same (w : Work) (c n : Nat) (g : Group) (pa : Nat) :
    (w.saveGroup c n g pa).grp c n = none := by
  rw [saveGroup_eq, grp_vacate, if_pos ⟨rfl, rfl⟩]

theorem teams_nextCaller (w : Work) (c i : Nat) : (w.nextCaller c i).teams = w.teams := by
  unfold Work.nextCaller
  split
  · rfl
  · dsimp only
    split
    · split
      · exact (teams_of_kept (kept_postMail _ _ _ _ _ _ _)).trans rfl
      · rfl
    · rfl

theorem teams_endWait (w : Work) (c n : Nat) (g : Group) : (w.endWait c n g).teams = w.teams := by
  have hdef : Work.endWait = Work.endWait := rfl
  conv at hdef => rhs; delta Work.endWait
  obtain ⟨armed, harmed⟩ : ∃ f, f = Work.armed := ⟨_, rfl⟩
  rw [hdef, ← harmed]
  beta_reduce
  split
  · split
    · exact teams_of_kept (kept_of_offHome (offHome_freeMonitor _ _ _ _))
    · rfl
  · exact teams_nextCaller _ _ _
  · rfl
  · rfl

theorem teams_vacate (w : Work) (c n : Nat) : (w.vacate c n).teams = w.teams := rfl

theorem teams_saveGroup (w : Work) (c n : Nat) (g : Group) (pa : Nat) :
    (w.saveGroup c n g pa).teams = w.teams := by
  rw [saveGroup_eq, teams_vacate, teams_of_kept (kept_recordedGroup w c n g pa), teams_endWait]

/-! ## The image is written -/

theorem teams_foldl {β : Type} (f : Work → β → Work) (h : ∀ w x, (f w x).teams = w.teams) (l : List β)
    (w : Work) : (l.foldl f w).teams = w.teams :=
  foldl_unwritten (get := fun w : Work => w.teams) (fun v x _ => h v x) w

theorem teams_modGrp (w : Work) (c n : Nat) (f : Group → Group) : (w.modGrp c n f).teams = w.teams := by
  unfold Work.modGrp
  split <;> rfl

theorem teams_clearFilters (w : Work) (c : Nat) : (w.clearFilters c).teams = w.teams := by
  unfold Work.clearFilters
  dsimp only
  rw [show ∀ (v : Work) (f : Core → Core), (v.modCore c f).teams = v.teams from fun _ _ => rfl,
    acquire_eq]
  rfl

theorem teams_pullAms (w : Work) (t : Team) : (w.pullAms t).2.teams = w.teams := by
  unfold Work.pullAms
  dsimp only
  split <;> rfl

theorem teams_saveEngines (w : Work) (t : Team) (c : Nat) :
    (w.saveEngines t c).2.2.teams = w.teams := teams_modGrp _ _ _ _

/-- R341: the record of one group of a team, where it still stands. -/
def Work.saveMember (recs : Tab Nat) (w : Work) (m : Nat × Nat × Nat × Group) : Work :=
  match w.grp m.2.1 m.2.2.1 with
  | some g => w.saveGroup m.2.1 m.2.2.1 g (tget 0 m.1 recs)
  | none => w

theorem teams_saveMember (recs : Tab Nat) (w : Work) (m : Nat × Nat × Nat × Group) :
    (w.saveMember recs m).teams = w.teams := by
  unfold Work.saveMember
  split
  · exact teams_saveGroup _ _ _ _ _
  · rfl

theorem empty_saveMember {recs : Tab Nat} {w : Work} {d n : Nat} (m : Nat × Nat × Nat × Group)
    (he : w.grp d n = none) : (w.saveMember recs m).grp d n = none := by
  unfold Work.saveMember
  split
  · exact empty_saveGroup _ _ _ _ he
  · exact he

theorem empty_saveMember_same (recs : Tab Nat) (w : Work) (m : Nat × Nat × Nat × Group) :
    (w.saveMember recs m).grp m.2.1 m.2.2.1 = none := by
  unfold Work.saveMember
  split
  · exact empty_saveGroup_same _ _ _ _ _
  · next h => exact h

/-- A team that has been saved. -/
def Team.savedWith (t : Team) (mx : Tab MxEngine) (kicks : Tab (List Kick)) (engine : List Byte)
    (ams : List AmMsg) (waiting : Bool) : Team :=
  { t with
    resident := false, saving := false, asked := false, stop := none, savedMx := mx
    savedKicks := kicks, savedEngine := engine, heldAm := t.heldAm ++ ams, waitingRestore := waiting }

theorem preemptSettle_frame (w : Work) :
    w.preemptSettle.teams = w.teams ∧ w.preemptSettle.cores = w.cores := by
  unfold Work.preemptSettle
  dsimp only
  split <;> exact ⟨rfl, rfl⟩

theorem teams_savePut (w : Work) (c owner pa : Nat) (l : List Byte) :
    (w.savePut c owner pa l).teams = w.teams := teams_of_kept (kept_savePut _ _ _ _ _)

theorem teams_ite_savePut (p : Prop) [Decidable p] (w : Work) (c owner pa : Nat) (l : List Byte) :
    (if p then w else w.savePut c owner pa l).teams = w.teams := by
  split
  · rfl
  · exact teams_savePut _ _ _ _ _

theorem teams_engines (t : Team) (w : Work) (cs : List Nat) (mx : Tab MxEngine) (kicks : Tab (List Kick)) :
    (cs.foldl (fun (q : Tab MxEngine × Tab (List Kick) × Work) c =>
      let e := q.2.2.saveEngines t c
      (tins c e.1 q.1, tins c e.2.1 q.2.1, e.2.2)) (mx, kicks, w)).2.2.teams = w.teams :=
  foldl_unwritten (get := fun q : Tab MxEngine × Tab (List Kick) × Work => q.2.2.teams)
    (fun q c _ => teams_saveEngines q.2.2 t c) (mx, kicks, w)

/-- A save in its parts: from a machine with the same teams, the groups of the team leave, and the team
is marked as saved. -/
theorem finishSave_eq (w : Work) (t : Team) (x : Launch) :
    ∃ (v : Work) (mx : Tab MxEngine) (kicks : Tab (List Kick)) (engine : List Byte) (ams : List AmMsg)
      (waiting : Team → Bool), v.teams = w.teams ∧ w.finishSave t x =
        (((w.teamGroups t).foldl (Work.saveMember t.recs) v).modTeam t.launch t.lin fun u =>
          u.savedWith mx kicks engine ams (waiting u)).preemptSettle := by
  refine ⟨_, _, _, _, _, _, ?_, rfl⟩
  rw [teams_savePut, teams_ite_savePut, teams_savePut, teams_engines, teams_pullAms,
    teams_foldl _ fun w c => teams_clearFilters w c]

/-- R339, R341: a team is saved, and its groups have left their cores. -/
theorem teamSave_saves {s : State} {l lin : Nat} {y : Team} {x : Launch}
    (hy : s.work.team l lin = some y) (hx : s.work.launch? l = some x)
    (hl : y.launch = l) (hn : y.lin = lin) (hsaving : y.saving = true)
    (hready : (s.work.haltSweeps y).saveReady y = true) (hasked : y.asked = true) :
    ∃ t z, exec (.teamSave l lin) s = .next t ∧ t.work.team l lin = some z ∧
      z.resident = false ∧ z.saving = false ∧ z.stop = none ∧ z.image = y.image ∧
      ∀ m ∈ s.work.teamGroups y, t.work.grp m.2.1 m.2.2.1 = none := by
  subst hl hn
  have he := exec_teamSave hy hx hsaving hready
  rw [if_pos hasked] at he
  obtain ⟨v, mx, kicks, engine, ams, waiting, hv, hfinish⟩ := finishSave_eq (s.work.haltSweeps y) y x
  obtain ⟨u, hu⟩ : ∃ u, u = ((s.work.haltSweeps y).teamGroups y).foldl (Work.saveMember y.recs) v := ⟨_, rfl⟩
  rw [← hu] at hfinish
  rw [hfinish] at he
  obtain ⟨hteams, hcores⟩ := preemptSettle_frame (u.modTeam y.launch y.lin fun u =>
    u.savedWith mx kicks engine ams (waiting u))
  have huteam : u.team y.launch y.lin = some y := by
    unfold Work.team
    rw [hu, teams_foldl _ fun w m => teams_saveMember y.recs w m, hv]
    exact hy
  refine ⟨_, y.savedWith mx kicks engine ams (waiting y), he, ?_, rfl, rfl, rfl, rfl, fun m hm => ?_⟩
  · refine (congrArg (tfind (teamKey y.launch y.lin)) hteams).trans ?_
    exact team_modTeam u huteam (fun u => u.savedWith mx kicks engine ams (waiting u)) rfl rfl
  · rw [commit_grp, grp_of_cores hcores, grp_of_cores (cores_modTeam _ _ _ _), hu]
    exact foldl_settles (P := fun w : Work => w.grp m.2.1 m.2.2.1 = none)
      (f := Work.saveMember y.recs) (fun w p hw => empty_saveMember p hw) hm
      (fun w => empty_saveMember_same y.recs w m) v

end Sys2Proof.Machine
end

section
/-!
PROOFS. A saved team is restored (R39, R341, R353): what a restore does beside placing its team leaves
the team where it has been placed.
-/

namespace Sys2Proof.Machine

open Sys2Proof.Claim

/-! ## A placed team -/

/-- Where a team stands, and how it waits for its release. -/
def Team.place (t : Team) : Bool × Nat × Nat × Bool × Bool :=
  (t.resident, t.home, t.sb, t.waitingRestore, t.loaded)

/-- Every team stands under its own key. -/
def Work.Keyed (w : Work) : Prop := ∀ k t, tfind k w.teams = some t → k = teamKey t.launch t.lin

/-- Team `i` of launch `l` is placed as `p` says. -/
structure Work.Placed (w : Work) (l i : Nat) (p : Bool × Nat × Nat × Bool × Bool) : Prop where
  team : ∃ z, w.team l i = some z ∧ z.place = p
  keyed : w.Keyed

section Placed

variable {v w : Work} {l i : Nat} {p : Bool × Nat × Nat × Bool × Bool}

theorem keyed_of_teams (h : v.teams = w.teams) (hw : w.Keyed) : v.Keyed := by
  unfold Work.Keyed
  rw [h]
  exact hw

theorem placed_of_teams (h : v.teams = w.teams) (hw : w.Placed l i p) : v.Placed l i p := by
  obtain ⟨⟨z, hz, hp⟩, hkeyed⟩ := hw
  exact ⟨⟨z, (congrArg (tfind (teamKey l i)) h).trans hz, hp⟩, keyed_of_teams h hkeyed⟩

theorem keyed_setTeam (hw : w.Keyed) (t : Team) : (w.setTeam t).Keyed := by
  intro k u h
  unfold Work.setTeam at h
  dsimp only at h
  rw [tfind_tins] at h
  split at h
  · next e => rw [e, Option.some.inj h]
  · exact hw k u h

/-- A change of a team that leaves it where it stands. -/
theorem placed_setTeam {t u : Team} {a b : Nat} (hw : w.Placed l i p) (ht : w.team a b = some t)
    (hl : u.launch = t.launch) (hi : u.lin = t.lin) (hp : u.place = t.place) :
    (w.setTeam u).Placed l i p := by
  obtain ⟨⟨z, hz, hzp⟩, hkeyed⟩ := hw
  refine ⟨?_, keyed_setTeam hkeyed u⟩
  rw [team_setTeam]
  split
  · next e =>
    have hkey : teamKey l i = teamKey a b := by rw [e, hl, hi, ← hkeyed _ _ ht]
    have htz : t = z := Option.some.inj (ht.symm.trans ((congrArg (tfind · w.teams) hkey).symm.trans hz))
    exact ⟨u, rfl, by rw [hp, htz, hzp]⟩
  · exact ⟨z, hz, hzp⟩

theorem placed_fold {β : Type} {f : Work → β → Work} (h : ∀ w x, (f w x).teams = w.teams) (xs : List β)
    (hw : w.Placed l i p) : (xs.foldl f w).Placed l i p := placed_of_teams (teams_foldl f h xs w) hw

/-! ## Buffers and filters -/

theorem teams_loadAllots (w : Work) (t : Team) (r : BitVec 1024) (b : List Byte) :
    (w.loadAllots t r b).teams = w.teams := by
  unfold Work.loadAllots
  refine (foldl_unwritten (get := fun q : Work × List Byte => q.1.teams) (fun q c _ => ?_) _).trans rfl
  refine foldl_unwritten (get := fun q : Work × List Byte => q.1.teams) (fun q b _ => ?_) q
  rfl

theorem teams_startAcquire (w : Work) (c : Nat) : (w.startAcquire c).teams = w.teams := rfl

/-! ## Groups -/

theorem teams_placeGroup (w : Work) (c n : Nat) (g : Group) : (w.placeGroup c n g).teams = w.teams := by
  rw [placeGroup_eq]
  have hgate : ∀ (v : Work) (key : Nat), (v.gate c n key).teams = v.teams := fun v key =>
    (congrArg (fun m : Mach => m.teams) (central_gate v c n key) :)
  rw [hgate]
  unfold Work.queued
  split <;> rfl

theorem placed_loadTent (hw : w.Placed l i p) (g : Group) (b : List Byte) :
    (w.loadTent g b).Placed l i p := by
  unfold Work.loadTent
  split
  · unfold Work.modTeam
    split
    · next t ht => exact placed_setTeam (u := { t with tent := recordTent b }) hw ht rfl rfl rfl
    · exact hw
  · exact hw

theorem team_of_teamOf {g : Group} {t : Team} (h : w.teamOf g = some t) :
    w.team g.launch g.lin = some t := by
  unfold Work.teamOf at h
  split at h
  · exact h
  · exact h
  · exact h
  · cases h

theorem placed_takeLate (hw : w.Placed l i p) (g : Group) : (w.takeLate g).2.Placed l i p := by
  unfold Work.takeLate
  split
  · exact hw
  · next t ht =>
    exact placed_setTeam (u := { t with late := t.late.filter fun e => !g.awaits e }) hw
      (team_of_teamOf ht) rfl rfl rfl

theorem placed_loadGroup (hw : w.Placed l i p) (c n : Nat) (g : Group) :
    (w.loadGroup c n g).Placed l i p := by
  have hlate := placed_takeLate hw g
  have hplace := fun h => placed_of_teams (teams_placeGroup (w.takeLate g).2 c n h) hlate
  unfold Work.loadGroup
  dsimp only
  split
  · exact placed_of_teams (teams_modGrp _ _ _ _) (hplace _)
  · exact hplace _

theorem placed_restoreGroups (hw : w.Placed l i p) (t : Team) (r : BitVec 1024)
    (gs : List (Nat × Group × List Byte)) : (w.restoreGroups t r gs).1.Placed l i p := by
  unfold Work.restoreGroups
  refine List.foldlRecOn (motive := fun q : Work × List (Nat × Nat × Nat) => q.1.Placed l i p) gs _ hw
    fun q hq m _ => ?_
  dsimp only
  generalize (if m.1 < 32 ∧ (teamSplit r).2.contains m.1 then Config.partner t.home else t.home) = c
  split
  · exact hq
  · exact placed_loadGroup (placed_loadTent hq _ _) _ _ _

/-! ## Engines -/

theorem teams_contQueue (w : Work) (c n ls : Nat) (o : MxOp) :
    (w.contQueue c n ls o).teams = w.teams := by
  unfold Work.contQueue
  dsimp only
  rw [teams_modGrp]
  split <;> rfl

theorem teams_firmwareCont {t : Team} {b : List Word} (h : w.firmwareCont t b = some v) :
    v.teams = w.teams := by
  have hdef : Work.firmwareCont = Work.firmwareCont := rfl
  conv at hdef => rhs; delta Work.firmwareCont
  obtain ⟨check, hcheck⟩ : ∃ f, f = Work.contCheck := ⟨_, rfl⟩
  rw [hdef, ← hcheck] at h
  dsimp only at h
  split at h
  · cases h
    rfl
  · split at h
    · cases h
    · cases h
      rw [teams_modGrp, teams_contQueue]

/-- What each step keeps, where it succeeds, the chain of them keeps. -/
theorem bindFold_keeps {β : Type} {P : Work → Prop} {f : Work → β → Option Work}
    (h : ∀ w x v, P w → f w x = some v → P v) {xs : List β} {o : Option Work}
    (ho : ∀ w, o = some w → P w) : ∀ v, xs.foldl (fun a x => a.bind fun w => f w x) o = some v → P v := by
  induction xs generalizing o with
  | nil => exact ho
  | cons x xs ih =>
    refine ih fun v hv => ?_
    obtain ⟨w, hw, hf⟩ := Option.bind_eq_some_iff.mp hv
    exact h w x v (ho w hw) hf

theorem placed_firmwareConts {t : Team} {bs : List (List Word)} (hw : w.Placed l i p)
    (h : w.firmwareConts t bs = some v) : v.Placed l i p :=
  bindFold_keeps (P := fun w => w.Placed l i p) (f := fun w b => w.firmwareCont t b)
    (fun _ _ _ hw hv => placed_of_teams (teams_firmwareCont hv) hw)
    (fun _ hv => Option.some.inj hv ▸ hw) v h

/-! ## Sweeps -/

theorem teams_modTensor (w : Work) (id : Nat) (f : Tensor → Tensor) :
    (w.modTensor id f).teams = w.teams := rfl

theorem teams_setUnit (w : Work) (d u : Nat) (k : Unit) : (w.setUnit d u k).teams = w.teams := rfl

theorem teams_setSlice (w : Work) (d n : Nat) (k : Slice) : (w.setSlice d n k).teams = w.teams := rfl

theorem teams_rearmCell (w : Work) (id j : Nat) (a : Arm) (core : Nat) :
    (w.rearmCell id j a core).teams = w.teams := by
  have htouch : ∀ l, (w.homeTouch false false l).teams = w.teams :=
    fun l => teams_of_kept (kept_of_offHome (offHome_homeTouch w false false l))
  have hdef : Work.rearmCell = Work.rearmCell := rfl
  conv at hdef => rhs; delta Work.rearmCell
  obtain ⟨home, hhome⟩ : ∃ f, f = Work.home? := ⟨_, rfl⟩
  rw [hdef, ← hhome]
  beta_reduce
  split
  · rfl
  · dsimp only
    split
    · rw [teams_modTensor, htouch]
    · split
      · rw [teams_modTensor, htouch]
      · rw [teams_modTensor, teams_setUnit, teams_setSlice, htouch]

theorem teams_restoreSweeps (w : Work) (t : Team) : (w.restoreSweeps t).teams = w.teams := by
  have hdef : Work.restoreSweeps = Work.restoreSweeps := rfl
  conv at hdef => rhs; delta Work.restoreSweeps
  obtain ⟨rearm, hrearm⟩ : ∃ f, f = Work.rearmCell := ⟨_, rfl⟩
  have hkeeps : ∀ w id j a core, (rearm w id j a core).teams = w.teams := by
    rw [hrearm]
    exact teams_rearmCell
  rw [hdef, ← hrearm]
  refine teams_foldl _ (fun w p => ?_) _ w
  dsimp only
  split
  · rfl
  · split
    · exact (teams_foldl _ (fun w a => hkeeps w _ _ _ _) _ _).trans rfl
    · rfl

end Placed

end Sys2Proof.Machine
end

section
/-!
PROOFS. A saved team is restored, and then released (R39, R341, R346, R353); with it, saving and
pre-emption as a whole.
-/

namespace Sys2Proof.Machine

open Sys2Proof.Claim

/-! ## The records are read -/

/-- `Work.readRecords` for any way of reading a save area: the kernel would run the one of the model. -/
def readWith (get : Work → Nat → Nat → Nat → Nat → Work × Option (List Byte)) (c owner : Nat) :
    List (Nat × Nat) → Work → Work × Option (List (Nat × Group × List Byte))
  | [], w => (w, some [])
  | (i, pa) :: rest, w =>
    match readWith get c owner rest w with
    | (w, none) => (w, none)
    | (w, some l) =>
      match get w c owner pa recStride with
      | (w, none) => (w, none)
      | (w, some b) =>
        match w.decodeRecord b with
        | some x => (w, some ((i, x, b) :: l))
        | none => (w, some l)

theorem readWith_keeps {β : Type} {φ : Work → β}
    {get : Work → Nat → Nat → Nat → Nat → Work × Option (List Byte)}
    (h : ∀ w c o pa n, φ (get w c o pa n).1 = φ w) (c owner : Nat) (recs : List (Nat × Nat)) (w : Work) :
    φ (readWith get c owner recs w).1 = φ w := by
  induction recs with
  | nil => rfl
  | cons x recs ih =>
    obtain ⟨i, pa⟩ := x
    unfold readWith
    split
    · next e => rw [e] at ih; exact ih
    · next v _ e =>
      rw [e] at ih
      have hget := h v c owner pa recStride
      split
      · next e' => rw [e'] at hget; exact hget.trans ih
      · next e' =>
        rw [e'] at hget
        split
        · exact hget.trans ih
        · exact hget.trans ih

theorem readRecords_eq (w : Work) (c owner : Nat) (recs : List (Nat × Nat)) :
    w.readRecords c owner recs = readWith Work.saveGet c owner recs w := by
  have hdef : Work.readRecords = Work.readRecords := rfl
  conv at hdef => rhs; delta Work.readRecords Work.readRecords._f
  obtain ⟨get, hget⟩ : ∃ f, f = Work.saveGet := ⟨_, rfl⟩
  rw [hdef, ← hget]
  induction recs with
  | nil => rfl
  | cons x recs ih =>
    unfold readWith
    rw [← ih] <;> rfl

theorem kept_readRecords (w : Work) (c owner : Nat) (recs : List (Nat × Nat)) :
    (w.readRecords c owner recs).1.kept = w.kept := by
  rw [readRecords_eq]
  exact readWith_keeps kept_saveGet c owner recs w

/-! ## The team is placed -/

theorem teams_modLaunch (w : Work) (l : Nat) (f : Launch → Launch) : (w.modLaunch l f).teams = w.teams := rfl

theorem teams_setCore (w : Work) (c : Nat) (k : Core) : (w.setCore c k).teams = w.teams := rfl

theorem teams_modCore (w : Work) (c : Nat) (f : Core → Core) : (w.modCore c f).teams = w.teams := rfl

/-- R341 step 2: buffers, groups, engines and sweeps leave the team where it has been placed. -/
theorem placed_restoreOn {w v : Work} {y : Team} {x : Launch} {home : Nat}
    {room : Nat × List (Nat × List Nat × Nat × Nat × Nat)} {image : List Byte}
    {gs : List (Nat × Group × List Byte)} (hw : w.Keyed)
    (h : w.restoreOn y x home room image gs = some v) :
    v.Placed y.launch y.lin (true, home, room.1, false, true) := by
  unfold Work.restoreOn at h
  extract_lets r col old engine e t' cores used w1 w2 w3 q slotOf step at h
  have h0 : (w.setTeam t').Placed y.launch y.lin (true, home, room.1, false, true) :=
    ⟨⟨t', team_setTeam_same w t', rfl⟩, keyed_setTeam hw t'⟩
  have h2 : w2.Placed y.launch y.lin (true, home, room.1, false, true) :=
    placed_of_teams ((teams_modLaunch w1 y.launch _).trans
      (teams_loadAllots (w.setTeam t') t' r (image.drop 0x1000))) h0
  have h3 : w3.Placed y.launch y.lin (true, home, room.1, false, true) := by
    refine placed_fold (fun u c => ?_) used h2
    rw [teams_modCore, teams_clearFilters, teams_startAcquire]
  have hq : q.1.Placed y.launch y.lin (true, home, room.1, false, true) :=
    placed_restoreGroups h3 t' r gs
  obtain ⟨w5, h5, rfl⟩ := Option.map_eq_some_iff.mp h
  obtain ⟨w4, h4, hconts⟩ := Option.bind_eq_some_iff.mp h5
  have hw4 : w4.Placed y.launch y.lin (true, home, room.1, false, true) := by
    refine bindFold_keeps (P := fun w => w.Placed y.launch y.lin (true, home, room.1, false, true))
      (fun u oc u' hu hstep => ?_) (fun u hu => Option.some.inj hu ▸ hq) w4 h4
    split at hstep
    · exact Option.some.inj hstep ▸ hu
    · obtain ⟨k, -, rfl⟩ := Option.map_eq_some_iff.mp hstep
      exact placed_of_teams (teams_setCore _ _ _) hu
  refine placed_of_teams (teams_restoreSweeps _ _) (placed_fold (fun u oc => ?_) _
    (placed_firmwareConts hw4 hconts))
  rfl

theorem keyed_of_teamsKeyed {s : State} (h : TeamsKeyed s) : s.work.Keyed :=
  fun _ _ ht => h.2 _ (mem_of_tfind ht)

/-- What a restore does where its team has a place and its image is at hand. -/
theorem exec_teamRestore {s : State} {l lin home : Nat} {y : Team} {x : Launch}
    {room : Nat × List (Nat × List Nat × Nat × Nat × Nat)} {w1 w2 w3 : Work} {bytes : List Byte}
    {gs : List (Nat × Group × List Byte)} (hy : s.work.team l lin = some y)
    (hx : s.work.launch? l = some x) (hloaded : y.loaded = false)
    (hwants : s.work.wantsRestore y = true)
    (hfirst : ∀ p ∈ s.teams, p.2.launch = l → p.2.lin < lin → s.work.wantsRestore p.2 = false)
    (hhome : s.work.firstHome x.record y.savedHandlers = some (home, room))
    (hget : s.work.saveGet home x.owner y.image (engineAt x.record + 0x800) = (w1, some bytes))
    (hread : w1.readRecords home x.owner y.recs = (w2, some gs))
    (hon : (w2.supEvent home 7 0 0 0 (natWord y.image)).restoreOn y x home room bytes gs = some w3) :
    exec (.teamRestore l lin) s = .next (commit s (w3.saveForget home)) := by
  have hno : (s.work.teams.any fun p =>
      decide (p.2.launch = l) && decide (p.2.lin < lin) && s.work.wantsRestore p.2) = false := by
    rw [List.any_eq_false]
    intro p hp
    by_cases h : p.2.launch = l ∧ p.2.lin < lin
    · simp [hfirst p hp h.1 h.2]
    · rw [Bool.and_eq_true, Bool.and_eq_true, decide_eq_true_iff, decide_eq_true_iff]
      exact fun e => h e.1
  have hdef : execTeamRestore = execTeamRestore := rfl
  conv at hdef => rhs; delta execTeamRestore
  obtain ⟨first, hf⟩ : ∃ f, f = Work.firstHome := ⟨_, rfl⟩
  obtain ⟨get, hg⟩ : ∃ f, f = Work.saveGet := ⟨_, rfl⟩
  obtain ⟨read, hr⟩ : ∃ f, f = Work.readRecords := ⟨_, rfl⟩
  obtain ⟨restore, ho⟩ : ∃ f, f = Work.restoreOn := ⟨_, rfl⟩
  rw [← hf] at hhome
  rw [← hg] at hget
  rw [← hr] at hread
  rw [← ho] at hon
  rw [show exec (.teamRestore l lin) s = execTeamRestore l lin s from rfl, hdef, ← hf, ← hg, ← hr, ← ho]
  unfold event
  beta_reduce
  rw [hy, hx]
  dsimp only
  rw [if_neg (by rw [hloaded]; decide), if_neg (by rw [hno, hwants]; decide), hhome]
  dsimp only
  rw [hget]
  dsimp only
  rw [hread]
  dsimp only
  rw [hon]

/-- R39, R341: a saved team is restored on the first core with room. -/
theorem teamRestore_restores {s : State} {l lin home : Nat} {y : Team} {x : Launch}
    {room : Nat × List (Nat × List Nat × Nat × Nat × Nat)} {w1 w2 w3 : Work} {bytes : List Byte}
    {gs : List (Nat × Group × List Byte)} (hy : s.work.team l lin = some y)
    (hx : s.work.launch? l = some x) (hl : y.launch = l) (hn : y.lin = lin) (hkeyed : TeamsKeyed s)
    (hloaded : y.loaded = false) (hwants : s.work.wantsRestore y = true)
    (hfirst : ∀ p ∈ s.teams, p.2.launch = l → p.2.lin < lin → s.work.wantsRestore p.2 = false)
    (hhome : s.work.firstHome x.record y.savedHandlers = some (home, room))
    (hget : s.work.saveGet home x.owner y.image (engineAt x.record + 0x800) = (w1, some bytes))
    (hread : w1.readRecords home x.owner y.recs = (w2, some gs))
    (hon : (w2.supEvent home 7 0 0 0 (natWord y.image)).restoreOn y x home room bytes gs = some w3) :
    ∃ t z, exec (.teamRestore l lin) s = .next t ∧ t.work.team l lin = some z ∧
      z.resident = true ∧ z.home = home ∧ z.sb = room.1 ∧ z.waitingRestore = false ∧
      z.loaded = true := by
  have he := exec_teamRestore hy hx hloaded hwants hfirst hhome hget hread hon
  subst hl hn
  have h1 := kept_saveGet s.work home x.owner y.image (engineAt x.record + 0x800)
  have h2 := kept_readRecords w1 home x.owner y.recs
  rw [hget] at h1
  rw [hread] at h2
  have hteams : (w2.supEvent home 7 0 0 0 (natWord y.image)).teams = s.work.teams :=
    teams_of_kept ((kept_supEvent _ _ _ _ _ _ _).trans (h2.trans h1))
  obtain ⟨⟨z, hz, hplace⟩, -⟩ :=
    placed_restoreOn (keyed_of_teams hteams (keyed_of_teamsKeyed hkeyed)) hon
  simp only [Team.place, Prod.mk.injEq] at hplace
  exact ⟨_, z, he, hz, hplace⟩

/-! ## The release of a restored team -/

theorem tfind_of_mem {α : Type} {t : Tab α} (hn : (tkeys t).Nodup) {k : Nat} {v : α} (h : (k, v) ∈ t) :
    tfind k t = some v := by
  obtain ⟨u, hu⟩ := Option.isSome_iff_exists.mp (tfind_isSome_of_mem (List.mem_map_of_mem h))
  have := List.inj_on_of_nodup_map hn (mem_of_tfind hu) h rfl
  rw [hu, (Prod.mk.inj this).2]

theorem mem_members {w : Work} {t : Team} {f : Group → Bool} {m : Nat × Nat} :
    m ∈ w.members t f ↔ m.1 ∈ t.cores ∧ ∃ g, (m.2, g) ∈ (w.core m.1).groups ∧ g.kind ≠ .run ∧
      g.launch = t.launch ∧ g.lin = t.lin ∧ f g = true := by
  unfold Work.members Core.slotsOf
  constructor
  · intro h
    obtain ⟨c, hc, h⟩ := List.mem_flatMap.mp h
    obtain ⟨n, hn, rfl⟩ := List.mem_map.mp h
    obtain ⟨q, hq, rfl⟩ := List.mem_map.mp hn
    obtain ⟨hq, hp⟩ := List.mem_filter.mp hq
    simp only [Bool.and_eq_true, decide_eq_true_eq] at hp
    exact ⟨hc, q.2, hq, hp.1.1.1, hp.1.1.2, hp.1.2, hp.2⟩
  · rintro ⟨hc, g, hg, hkind, hl, hn, hf⟩
    refine List.mem_flatMap.mpr ⟨m.1, hc, List.mem_map.mpr ⟨m.2, List.mem_map.mpr ⟨(m.2, g),
      List.mem_filter.mpr ⟨hg, ?_⟩, rfl⟩, rfl⟩⟩
    simp [hkind, hl, hn, hf]

/-- No group that stands in the place is stopped. -/
def Work.RunsAt (w : Work) (m : Nat × Nat) : Prop := ∀ h, w.grp m.1 m.2 = some h → h.stopped = false

theorem runsAt_same (w : Work) (c : Nat) (m : Nat × Nat) : (w.releasedAt c m).RunsAt m := by
  intro h hh
  cases hg : w.grp m.1 m.2 with
  | none =>
    unfold Work.releasedAt at hh
    rw [grp_gate, if_pos ⟨rfl, rfl⟩, grp_modGrp, hg] at hh
    simp at hh
  | some g =>
    obtain ⟨z, hz, hstop, -⟩ := grp_releasedAt_same (c := c) hg
    rw [hz] at hh
    exact Option.some.inj hh ▸ hstop

theorem runsAt_keeps {w : Work} {c : Nat} {m : Nat × Nat} (p : Nat × Nat) (hw : w.RunsAt m) :
    (w.releasedAt c p).RunsAt m := by
  by_cases hmp : m = p
  · exact hmp ▸ runsAt_same w c m
  · intro h hh
    rw [grp_releasedAt_other fun e => hmp (Prod.ext e.1 e.2)] at hh
    exact hw h hh

theorem resumeSettle_frame (w : Work) : w.resumeSettle.teams = w.teams ∧
    w.resumeSettle.cores = w.cores ∧ w.resumeSettle.log = w.log := by
  unfold Work.resumeSettle
  dsimp only
  split <;> exact ⟨rfl, rfl, rfl⟩

/-- The release of a loaded team: none of its groups is stopped any more. -/
theorem releaseLoaded_releases {w : Work} {y : Team} (hlog : w.log = [])
    (hy : w.team y.launch y.lin = some y)
    (hnd : ∀ c, (tkeys (w.core c).groups).Nodup)
    (hall : w.members y (fun g => !g.stopped || decide (g.kind = .handlerCore)) = []) :
    ∃ z, (w.releaseLoaded y).team y.launch y.lin = some z ∧ z.loaded = false ∧
      (w.releaseLoaded y).log = [] ∧
      ∀ m ∈ w.members y fun _ => true, (w.releaseLoaded y).RunsAt m := by
  have hstopped : ∀ (m : Nat × Nat) (g : Group), m.1 ∈ y.cores → (m.2, g) ∈ (w.core m.1).groups → g.kind ≠ .run →
      g.launch = y.launch → g.lin = y.lin → g.stopped = true ∧ g.kind ≠ .handlerCore := by
    intro m g hc hg hkind hl hn
    by_contra hno
    have : m ∈ w.members y (fun g => !g.stopped || decide (g.kind = .handlerCore)) := by
      refine mem_members.mpr ⟨hc, g, hg, hkind, hl, hn, ?_⟩
      by_cases hs : g.stopped = true <;> simp_all
    rw [hall] at this
    cases this
  unfold Work.releaseLoaded
  cases hmem : w.members y fun _ => true with
  | nil =>
    obtain ⟨hteams, -, hlog'⟩ := resumeSettle_frame
      (w.modTeam y.launch y.lin fun t => { t with loaded := false })
    refine ⟨{ y with loaded := false }, (congrArg (tfind (teamKey y.launch y.lin)) hteams).trans ?_, rfl,
      hlog'.trans ((log_modTeam _ _ _ _).trans hlog), by simp⟩
    exact team_modTeam w hy (fun t => { t with loaded := false }) rfl rfl
  | cons m ms =>
    have hm : m ∈ w.members y fun _ => true := by rw [hmem]; exact List.mem_cons_self
    obtain ⟨hc, g, hg, hkind, hl, hn, -⟩ := mem_members.mp hm
    obtain ⟨hs, hcore⟩ := hstopped m g hc hg hkind hl hn
    have hnone : w.members y (fun g => !g.stopped) = [] := by
      refine List.eq_nil_iff_forall_not_mem.mpr fun p hp => ?_
      obtain ⟨hc, g, hg, hkind, hl, hn, hns⟩ := mem_members.mp hp
      rw [(hstopped p g hc hg hkind hl hn).1] at hns
      exact Bool.noConfusion hns
    have hrelease := releaseTeam_eq (w := w) (c := m.1) (n := m.2) (y := g) (q := y)
      (tfind_of_mem (hnd _) hg) hs hcore (by rw [hl, hn]; exact hy) hnone
    obtain ⟨v, hv⟩ : ∃ v, v = (w.setTeam y.released).arrived y.home y.sentOn := ⟨_, rfl⟩
    have hmembers : v.members y.released (fun _ => true) = w.members y fun _ => true := by
      rw [hv]
      exact members_of_groups (fun d => groups_arrived (w.setTeam y.released) y.home d y.sentOn) y _
    rw [← hv, hmembers] at hrelease
    dsimp only
    rw [hrelease, Option.getD_some]
    obtain ⟨hteams, hcores, hlog'⟩ := resumeSettle_frame
      ((w.members y fun _ => true).foldl (fun w p => w.releasedAt m.1 p) v)
    refine ⟨y.released, (congrArg (tfind (teamKey y.launch y.lin)) hteams).trans ?_, rfl,
      hlog'.trans ?_, fun p hp h hh => ?_⟩
    · have hcentral := (foldl_unwritten (get := fun v : Work => v.toMach.central)
        (l := w.members y fun _ => true) (fun v p _ => central_releasedAt v m.1 p) v).trans
        (hv ▸ central_arrived (w.setTeam y.released) y.home y.sentOn)
      exact (team_of_central hcentral _ _).trans (team_setTeam_same w y.released)
    · rw [foldl_unwritten (get := fun v : Work => v.log) fun v p _ => log_releasedAt v m.1 p, hv, log_arrived]
      exact hlog
    · rw [grp_of_cores hcores] at hh
      rw [← hmem] at hp
      exact foldl_settles (P := fun w : Work => w.RunsAt p) (f := fun w p => w.releasedAt m.1 p)
        (fun w q hw => runsAt_keeps q hw) hp (fun w => runsAt_same w m.1 p) v h hh

/-- R341 step 3: a restored team is released. -/
theorem teamRestore_releases {s : State} {l lin : Nat} {y : Team} {x : Launch}
    (hy : s.work.team l lin = some y) (hx : s.work.launch? l = some x) (hl : y.launch = l)
    (hn : y.lin = lin) (hloaded : y.loaded = true) (hnd : ∀ c, (tkeys (s.work.core c).groups).Nodup)
    (hall : s.work.members y (fun g => !g.stopped || decide (g.kind = .handlerCore)) = []) :
    ∃ t z, Occurs s t (.teamRestore l lin) ∧ t.work.team l lin = some z ∧ z.loaded = false ∧
      ∀ m ∈ s.work.members y fun _ => true, ∀ h, t.work.grp m.1 m.2 = some h → h.stopped = false := by
  subst hl hn
  have he : exec (.teamRestore y.launch y.lin) s = .next (commit s (s.work.releaseLoaded y)) := by
    have hdef : execTeamRestore = execTeamRestore := rfl
    conv at hdef => rhs; delta execTeamRestore
    obtain ⟨first, hf⟩ : ∃ f, f = Work.firstHome := ⟨_, rfl⟩
    obtain ⟨get, hg⟩ : ∃ f, f = Work.saveGet := ⟨_, rfl⟩
    obtain ⟨read, hr⟩ : ∃ f, f = Work.readRecords := ⟨_, rfl⟩
    obtain ⟨restore, ho⟩ : ∃ f, f = Work.restoreOn := ⟨_, rfl⟩
    rw [show exec (.teamRestore y.launch y.lin) s = execTeamRestore y.launch y.lin s from rfl, hdef,
      ← hf, ← hg, ← hr, ← ho]
    unfold event
    beta_reduce
    rw [hy, hx]
    dsimp only
    rw [if_pos hloaded]
  obtain ⟨z, hz, hnot, hlog, hruns⟩ := releaseLoaded_releases (w := s.work) rfl hy hnd hall
  exact ⟨_, z, ⟨he, commit_mem _ _ hlog⟩, hz, hnot, hruns⟩

/-- R39, R339, R341, R346, R350, R353: a team is halted, saved and restored. -/
theorem teamImages : TeamImages :=
  fun _ _ _ _ _ hy hx hl hn =>
    ⟨fun hsaving hmust => teamSave_starts hy hx hl hn hsaving hmust,
      fun hsaving hready =>
        ⟨fun hasked _ _ hblock => teamSave_asks hy hx hl hn hsaving hready hasked hblock,
          fun hasked => teamSave_saves hy hx hl hn hsaving hready hasked⟩,
      fun hkeyed hloaded hwants hfirst _ _ _ _ _ _ _ hhome hget hread hon =>
        teamRestore_restores hy hx hl hn hkeyed hloaded hwants hfirst hhome hget hread hon,
      fun hloaded hnd hall => teamRestore_releases hy hx hl hn hloaded hnd hall⟩

/-- Settles O40: what each step of a save and of a restore does to the team and its groups is stated by
itself, and what else it does keeps that. -/
theorem savingAndPreemption : Obligations.SavingAndPreemption := by
  unfold Obligations.SavingAndPreemption
  exact ⟨teamImages, preemption⟩

end Sys2Proof.Machine
end

section
/-!
PROOFS. COPYKICK, CDINIT and YIELDC (R232, R233, R237, R238).
-/

namespace Sys2Proof.Machine

open Sys2Proof.Claim

/-! ## An access takes its place in the order (R61) -/

/-- A core but for the last unit at its buffers. -/
def Core.offRank (k : Core) : Core := { k with unitRank := 0 }

theorem core_atRank_offRank (w : Work) (c r d : Nat) :
    ((w.atRank c r).core d).offRank = (w.core d).offRank := by
  unfold Work.atRank
  rw [core_modCore]
  split
  · next e => rw [e]; rfl
  · rfl

theorem fields_of_offRank {k l : Core} (h : k.offRank = l.offRank) :
    k.upset = l.upset ∧ k.kicks = l.kicks ∧ k.sbuf = l.sbuf :=
  ⟨(congrArg Core.upset h :), (congrArg Core.kicks h :), (congrArg Core.sbuf h :)⟩

theorem kept_atRank (w : Work) (c r : Nat) : (w.atRank c r).kept = w.kept := by
  unfold Work.atRank
  refine kept_modCore fun k => ?_
  rfl

theorem ranked_passes {w : Work} {c r : Nat} (h : (w.core c).unitRank ≤ r) (g : Group)
    (k : Work → Res) : w.ranked c r g k = k (w.atRank c r) := if_neg (Nat.not_lt.mpr h)

theorem upsetRow_clean {k : Core} (h : k.upset = []) (unit : Nat) (rows : List Nat) :
    k.upsetRow unit rows = none := by
  unfold Core.upsetRow
  rw [h]
  simp

theorem readRows_clean {w : Work} {c : Nat} (h : (w.core c).upset = []) (g : Group) (unit : Nat)
    (rows : List Nat) (k : Res) : w.readRows c g unit rows k = k := by
  unfold Work.readRows
  rw [upsetRow_clean h]

section Issue

variable {s : State} {c n : Nat} {g g' : Group} {f : Form} {need : Work → Group → Need}
  {body : Work → Nat → Nat → Group → Res} {w' : Work} {i : Instr}

/-- A group that is held at issue tries again in the next core cycle. -/
def Group.retries (g : Group) (cycle : Nat) : Group :=
  { g.unready with readyAt := cycle + 1, held := true }

theorem retries_fields (g : Group) (cycle : Nat) :
    (g.retries cycle).pc = g.pc ∧ (g.retries cycle).half = g.half := ⟨rfl, rfl⟩

theorem retries_of_hold (hr : Ready s c n g) (hi : exec i s = issue f need body s)
    (h1 : (need s.work g).codes = true) (h2 : (need s.work g).regs = true)
    (h3 : (need s.work g).ctx = true) (hb : body s.work c n g = .hold w' g' none) :
    ∃ t, exec i s = .next t ∧ t.work.grp c n = some (g'.retries (w'.core c).cycle) := by
  have he := exec_applyRes hr hi h1 h2 h3
  rw [hb] at he
  exact ⟨_, he, (commit_grp _ _ _ _).trans (grp_setGrp_same _ _ _ _)⟩

/-! ## COPYKICK -/

/-- The records of a kick, as SBUF holds them. -/
def Core.copyRecs (k : Core) (a m : Nat) : List CopyRec :=
  (List.range m).map fun i => k.copyRec (a + 32 * i)

theorem copyRec_of_sbuf {k l : Core} (h : k.sbuf = l.sbuf) (a : Nat) : k.copyRec a = l.copyRec a := by
  unfold Core.copyRec
  rw [bufNum_of_sbuf h]

/-- The kick that a group makes. -/
def Work.kickOf (w : Work) (c n : Nat) (g : Group) (recs : List CopyRec) (ord : Bool) : Kick :=
  { launch := g.launch, lin := g.lin, gidx := g.keyIdx n, slot := n
    sup := decide (g.kind = .supervisor), owner := g.owner, pri := g.prio
    recs, ord, seq := w.msgSeq * 2 ^ 48, fault := none, row := 0, pend := [], num := (w.core c).kickSeq }

/-- A core with another kick in its queue. -/
def Core.kicked (k : Core) (x : Kick) : Core :=
  { k with kicks := k.kicks ++ [x], kickSeq := k.kickSeq + 1 }

/-- The machine when a group has made its kick. -/
def Work.kicked (w : Work) (c : Nat) (x : Kick) : Work := w.tick.2.setCore c ((w.core c).kicked x)

theorem kept_kicked (w : Work) (c : Nat) (x : Kick) : (w.kicked c x).kept = w.kept := by
  unfold Work.kicked
  refine (kept_setCore ?_).trans (kept_tick w)
  rfl

theorem kicks_kicked (w : Work) (c : Nat) (x : Kick) :
    ((w.kicked c x).core c).kicks = (w.core c).kicks ++ [x] := by
  unfold Work.kicked
  rw [core_setCore_same]
  rfl

/-- The form of COPYKICK, whichever its order. -/
def kickBody (ord : Bool) (a b : BitVec 6) (w : Work) (c slot : Nat) (gr : Group) : Res :=
  let n := (gr.s b.toNat).toNat
  let off := (gr.s a.toNat).toNat
  if n < 1 ∨ 256 < n then .illegal 6
  else if off % 32 ≠ 0 then .trap 0x09 (natWord off) 0
  else
    match w.space c gr 3 with
    | none => .trap 0x09 (natWord off) 0
    | some (hc, base, size) =>
      if size < off + 32 * n then .trap 0x09 (natWord off) 0
      else if (w.core c).bufBusy slot then .hold w gr none
      else
        w.ranked hc 1 gr fun w =>
        w.readRows hc gr 7 (upto (32 * n) (base + off)) <|
        let recs := (upto n).map fun i => (w.core hc).copyRec (base + off + 32 * i)
        match recs.find? fun r => decide (size < 8 * crBits r 238 224 + 8) with
        | some r => .trap 0x09 (natWord (8 * crBits r 238 224)) 0
        | none =>
          if 64 ≤ (w.core c).kicks.length then .hold w gr none
          else if 4 * (gr.half + 1) < n then .hold w { gr with half := gr.half + 1 } none
          else .done (w.kicked c (w.kickOf c slot gr recs ord)) gr

theorem exec_copykickOrd (x : BitVec 2) (a b : BitVec 6) (s : State) :
    exec (.copykickOrd x a b) s =
      issue (wordForm (wCopykickOrd x a b) x none wtScalar)
        (fun _ gr => kickNeed gr true [useS a.toNat, useS b.toNat]) (kickBody true a b) s := rfl

theorem exec_copykickAny (x : BitVec 2) (a b : BitVec 6) (s : State) :
    exec (.copykickAny x a b) s =
      issue (wordForm (wCopykickAny x a b) x none wtScalar)
        (fun _ gr => kickNeed gr false [useS a.toNat, useS b.toNat]) (kickBody false a b) s := rfl

/-- What COPYKICK asks of a kick that it queues (R233). -/
structure KickFits (s : State) (c n hc base size : Nat) (g : Group) (off m : Nat) : Prop where
  space : s.work.space c g 3 = some (hc, base, size)
  atLeast : 1 ≤ m
  atMost : m ≤ 256
  aligned : off % 32 = 0
  within : off + 32 * m ≤ size
  idle : (s.work.core c).bufBusy n = false
  clean : (s.work.core hc).upset = []
  turn : (s.work.core hc).unitRank ≤ 1
  objects : ∀ r ∈ (s.work.core hc).copyRecs (base + off) m, 8 * crBits r 238 224 + 8 ≤ size
  room : (s.work.core c).kicks.length < 64

variable {hc base size : Nat} {a b : BitVec 6}

theorem kickBody_eq (ord : Bool) (h : KickFits s c n hc base size g (g.s a.toNat).toNat (g.s b.toNat).toNat) :
    kickBody ord a b s.work c n g =
      if 4 * (g.half + 1) < (g.s b.toNat).toNat then
        .hold (s.work.atRank hc 1) { g with half := g.half + 1 } none
      else .done ((s.work.atRank hc 1).kicked c ((s.work.atRank hc 1).kickOf c n g
        ((s.work.core hc).copyRecs (base + (g.s a.toNat).toNat) (g.s b.toNat).toNat) ord)) g := by
  obtain ⟨hup, -, hsbuf⟩ := fields_of_offRank (core_atRank_offRank s.work hc 1 hc)
  obtain ⟨-, hkicks, -⟩ := fields_of_offRank (core_atRank_offRank s.work hc 1 c)
  have hclean : ((s.work.atRank hc 1).core hc).upset = [] := hup.trans h.clean
  have hroom : ((s.work.atRank hc 1).core c).kicks.length = (s.work.core c).kicks.length :=
    congrArg List.length hkicks
  have hrecs : ((upto (g.s b.toNat).toNat).map fun i => ((s.work.atRank hc 1).core hc).copyRec
      (base + (g.s a.toNat).toNat + 32 * i)) =
      (s.work.core hc).copyRecs (base + (g.s a.toNat).toNat) (g.s b.toNat).toNat := by
    unfold Core.copyRecs upto
    rw [List.map_map]
    exact List.map_congr_left fun i _ => copyRec_of_sbuf hsbuf _
  have hfind : ((s.work.core hc).copyRecs (base + (g.s a.toNat).toNat) (g.s b.toNat).toNat).find?
      (fun r => decide (size < 8 * crBits r 238 224 + 8)) = none := by
    rw [List.find?_eq_none]
    intro r hr
    simpa using h.objects r hr
  unfold kickBody
  dsimp only
  rw [if_neg (by have := h.atLeast; have := h.atMost; omega), if_neg (by have := h.aligned; omega),
    h.space]
  dsimp only
  rw [if_neg (by have := h.within; omega), h.idle, if_neg Bool.false_ne_true, ranked_passes h.turn,
    readRows_clean hclean, hrecs, hfind]
  dsimp only
  rw [if_neg (by have := h.room; omega)]

/-- R233: COPYKICK is held while SBUF still gives its records. -/
theorem copyKick_held {i : Instr} {f : Form} {ord : Bool} (hr : Ready s c n g)
    (hi : exec i s = issue f (fun _ gr => kickNeed gr ord [useS a.toNat, useS b.toNat])
      (kickBody ord a b) s) (hctx : (kickNeed g ord [useS a.toNat, useS b.toNat]).ctx = true)
    (h : KickFits s c n hc base size g (g.s a.toNat).toNat (g.s b.toNat).toNat)
    (hmore : 4 * (g.half + 1) < (g.s b.toNat).toNat) :
    ∃ t h, exec i s = .next t ∧ t.work.grp c n = some h ∧ h.pc = g.pc ∧ h.half = g.half + 1 := by
  obtain ⟨t, he, hg⟩ := retries_of_hold hr hi rfl rfl hctx ((kickBody_eq ord h).trans (if_pos hmore))
  obtain ⟨hpc, hhalf⟩ := retries_fields { g with half := g.half + 1 }
    ((s.work.atRank hc 1).core c).cycle
  exact ⟨t, _, he, hg, hpc, hhalf⟩

theorem kickOf_fields (w : Work) (c n : Nat) (g : Group) (recs : List CopyRec) (ord : Bool) :
    let k := w.kickOf c n g recs ord
    k.launch = g.launch ∧ k.lin = g.lin ∧ k.recs = recs ∧ k.ord = ord ∧ k.row = 0 ∧ k.pend = [] ∧
      k.failed = 0 := ⟨rfl, rfl, rfl, rfl, rfl, rfl, rfl⟩

theorem kicks_of_rest {k l : Core} (h : k.rest = l.rest) : k.kicks = l.kicks :=
  (congrArg Core.kicks h :)

/-- R232, R233: COPYKICK queues its records. -/
theorem copyKick_queues {i : Instr} {f : Form} {ord : Bool} (hr : Ready s c n g) (hlen : f.len = 4)
    (hi : exec i s = issue f (fun _ gr => kickNeed gr ord [useS a.toNat, useS b.toNat])
      (kickBody ord a b) s) (hctx : (kickNeed g ord [useS a.toNat, useS b.toNat]).ctx = true)
    (h : KickFits s c n hc base size g (g.s a.toNat).toNat (g.s b.toNat).toNat)
    (hlast : (g.s b.toNat).toNat ≤ 4 * (g.half + 1)) :
    ∃ t k, exec i s = .next t ∧ Issues s t c n g 4 g ∧
      (t.work.core c).kicks = (s.work.core c).kicks ++ [k] ∧ k.launch = g.launch ∧
      k.lin = g.lin ∧
      k.recs = (s.work.core hc).copyRecs (base + (g.s a.toNat).toNat) (g.s b.toNat).toNat ∧
      k.ord = ord ∧ k.row = 0 ∧ k.pend = [] ∧ k.failed = 0 := by
  obtain ⟨k, hk⟩ : ∃ k, k = (s.work.atRank hc 1).kickOf c n g
    ((s.work.core hc).copyRecs (base + (g.s a.toNat).toNat) (g.s b.toNat).toNat) ord := ⟨_, rfl⟩
  have hbody := (kickBody_eq ord h).trans (if_neg (Nat.not_lt.mpr hlast))
  rw [← hk] at hbody
  obtain ⟨v, hv⟩ : ∃ v, v = (s.work.atRank hc 1).kicked c k := ⟨_, rfl⟩
  have hkept : v.kept = s.work.kept := hv ▸ (kept_kicked _ _ _).trans (kept_atRank _ _ _)
  have hkicks : (v.core c).kicks = (s.work.core c).kicks ++ [k] := by
    obtain ⟨-, hsame, -⟩ := fields_of_offRank (core_atRank_offRank s.work hc 1 c)
    rw [hv, kicks_kicked, hsame]
  have hlog : v.log = [] := by rw [hv]; rfl
  rw [← hv] at hbody
  have he := exec_gone hr hi rfl rfl hctx hbody hlen rfl
  have hafter : After v (gone f s v c n g g) c n := After.gone
  exact ⟨_, k, he, issues_still hlog hr.quiet.flights (.refl g) rfl (grp_of_kept hkept),
    (kicks_of_rest (hafter.core c)).trans hkicks, hk ▸ kickOf_fields _ _ _ _ _ _⟩

end Issue

end Sys2Proof.Machine
end

section
/-!
PROOFS. CDINIT and YIELDC (R237, R238), and the statement of the COPY instructions.
-/

namespace Sys2Proof.Machine

open Sys2Proof.Claim

section Issue

variable {s : State} {c n : Nat} {g g' : Group} {f : Form} {need : Work → Group → Need}
  {body : Work → Nat → Nat → Group → Res} {w' : Work} {i : Instr}

/-! ## Objects (R237) -/

variable {hc base size : Nat}

theorem cdObject_within {w : Work} (hs : w.space c g 3 = some (hc, base, size)) {off : Nat}
    (ha : off % 8 = 0) (hin : off + 8 ≤ size) : w.cdObject c g off = some (hc, base + off) := by
  unfold Work.cdObject
  rw [hs]
  exact if_pos ⟨ha, hin⟩

/-! ## CDINIT -/

/-- The store that makes an object. -/
def objectStore (slot hc addr v : Nat) : TAccess :=
  { slot, store := true, buf := 3, code := 5, core := hc, addr := [(0, addr)], reg := 0
    bank := false, lanes := 1, vals := [(0, natWord (v % 2 ^ 40))], hi := [] }

/-- The machine with another access to the buffers on its way. -/
def Work.accesses (w : Work) (c : Nat) (t : TAccess) : Work :=
  (w.newOp c).2.modCore c fun z => { z with taccs := z.taccs ++ [((w.core c).opSeq, t)] }

theorem kept_accesses (w : Work) (c : Nat) (t : TAccess) : (w.accesses c t).kept = w.kept := by
  unfold Work.accesses
  refine (kept_modCore fun k => ?_).trans (kept_newOp w c)
  rfl

theorem taccs_accesses (w : Work) (c : Nat) (t : TAccess) :
    ((w.accesses c t).core c).taccs = (w.core c).taccs ++ [((w.core c).opSeq, t)] := by
  unfold Work.accesses
  rw [core_modCore, if_pos rfl]
  unfold Work.newOp
  dsimp only
  rw [core_setCore_same]

/-- A group that has one more access to the buffers to be performed. -/
def Group.counted (g : Group) : Group := { g with tc := g.tc + 1 }

theorem counted_sameRegs (g : Group) : g.SameRegs g.counted := ⟨rfl, rfl, rfl, rfl, rfl, rfl, rfl, rfl⟩

/-- CDINIT's own part. -/
def cdinitBody (a b : BitVec 6) (w : Work) (c slot : Nat) (gr : Group) : Res :=
  let off := (gr.s a.toNat).toNat
  if 63 ≤ gr.tc then .hold w gr none
  else
    match w.cdObject c gr off with
    | none => .trap 0x09 (natWord off) 0
    | some (hc, at_) => .done (w.accesses c (objectStore slot hc at_ (gr.s b.toNat).toNat)) gr.counted

def cdinitForm (x : BitVec 2) (a b : BitVec 6) : Form := wordForm (wCdinit x a b) x none 100

theorem exec_cdinit (x : BitVec 2) (a b : BitVec 6) (s : State) :
    exec (.cdinit x a b) s = issue (cdinitForm x a b)
      (fun _ gr => copyNeed gr [useS a.toNat, useS b.toNat]) (cdinitBody a b) s := rfl

theorem taccs_of_rest {k l : Core} (h : k.rest = l.rest) : k.taccs = l.taccs :=
  (congrArg Core.taccs h :)

theorem copyNeed_ctx {g : Group} (hk : g.kind ≠ .run) (l : List Use) : (copyNeed g l).ctx = true :=
  decide_eq_true hk

theorem objectStore_fields (slot hc addr v : Nat) :
    let y := objectStore slot hc addr v
    y.store = true ∧ y.buf = 3 ∧ y.core = hc ∧ y.addr = [(0, addr)] ∧
      y.vals = [(0, BitVec.ofNat 64 (v % 2 ^ 40))] := ⟨rfl, rfl, rfl, rfl, rfl⟩

/-- R237: CDINIT writes an object. -/
theorem cdinit_stores (hr : Ready s c n g) (hk : g.kind ≠ .run)
    (hs : s.work.space c g 3 = some (hc, base, size)) (x : BitVec 2) (a b : BitVec 6)
    (ha : (g.s a.toNat).toNat % 8 = 0) (hin : (g.s a.toNat).toNat + 8 ≤ size) (htc : g.tc < 63) :
    ∃ t y, exec (.cdinit x a b) s = .next t ∧ Issues s t c n g 4 g.counted ∧
      ((s.work.core c).opSeq, y) ∈ (t.work.core c).taccs ∧ y.store = true ∧ y.buf = 3 ∧
      y.core = hc ∧ y.addr = [(0, base + (g.s a.toNat).toNat)] ∧
      y.vals = [(0, BitVec.ofNat 64 ((g.s b.toNat).toNat % 2 ^ 40))] := by
  obtain ⟨y, hy⟩ : ∃ y, y = objectStore n hc (base + (g.s a.toNat).toNat) (g.s b.toNat).toNat :=
    ⟨_, rfl⟩
  have hbody : cdinitBody a b s.work c n g = .done (s.work.accesses c y) g.counted := by
    unfold cdinitBody
    dsimp only
    rw [if_neg (by omega), cdObject_within hs ha hin, hy]
  obtain ⟨v, hv⟩ : ∃ v, v = s.work.accesses c y := ⟨_, rfl⟩
  have hkept : v.kept = s.work.kept := hv ▸ kept_accesses _ _ _
  have htaccs : (v.core c).taccs = (s.work.core c).taccs ++ [((s.work.core c).opSeq, y)] :=
    hv ▸ taccs_accesses _ _ _
  have hlog : v.log = [] := by rw [hv]; rfl
  rw [← hv] at hbody
  have he := exec_gone hr (exec_cdinit x a b s) rfl rfl (copyNeed_ctx hk _) hbody rfl rfl
  have hafter : After v (gone (cdinitForm x a b) s v c n g g.counted) c n := After.gone
  refine ⟨_, y, he, issues_still hlog hr.quiet.flights (counted_sameRegs g) rfl (grp_of_kept hkept),
    ?_, hy ▸ objectStore_fields _ _ _ _⟩
  rw [taccs_of_rest (hafter.core c), htaccs]
  exact List.mem_append_right _ (List.mem_singleton_self _)

/-! ## YIELDC -/

/-- An instruction that transfers control and changes no register. -/
theorem jumps_of_jump {pc : Pc} (hr : Ready s c n g) (hi : exec i s = issue f need body s)
    (h1 : (need s.work g).codes = true) (h2 : (need s.work g).regs = true)
    (h3 : (need s.work g).ctx = true) (hb : body s.work c n g = .jump w' g pc) (hlog : w'.log = [])
    (hother : ∀ j m, w'.grp j m = s.work.grp j m) :
    ∃ t h, exec i s = .next t ∧ t.mem = s.mem ∧ t.work.grp c n = some h ∧ h.pc = pc ∧
      h.settled.fixed = g.fixed ∧ Keeps g h.settled {} ∧
      ∀ j m, (j, m) ≠ (c, n) → t.work.grp j m = s.work.grp j m := by
  have hq := hr.quiet.flights
  have he := hi.trans (issue_jump hr.cur hr.here (passes_quiet _ _ _ _ hr.quiet h1 h2 h3) hb)
  have hgrp : (commit s (finish f w' c n g pc)).work.grp c n =
      some (g.moved f.step (w'.core c).cycle pc) := by
    rw [commit_grp, grp_finish, after_of_quiet hq]
  refine ⟨_, _, he, commit_mem _ _ ((log_finish _ _ _ _ _ _).trans hlog), hgrp, rfl, ?_, ?_,
    fun j m h => (grp_finish_other _ _ _ _ _ _ _ _ fun e => h (Prod.ext e.1 e.2)).trans (hother j m)⟩
  · rw [settled_moved hq, fixed_of_moved]
  · rw [settled_moved hq]
    exact keeps_of_sameRegs (sameRegs_moved g _ _ _) _

/-- YIELDC's own part. -/
def yieldcBody (a b : BitVec 6) (w : Work) (c slot : Nat) (gr : Group) : Res :=
  let off := (gr.s a.toNat).toNat
  let target : Pc := (gr.s b.toNat).truncate 52
  if target.getLsbD 0 then .trap 0x05 (zext64 target) 0
  else
    match w.cdObject c gr off with
    | none => .trap 0x09 (natWord off) 0
    | some (hc, at_) =>
      if (w.core c).bufBusy slot then .hold w gr none
      else
        w.ranked hc (unitPlace slot) gr fun w =>
        w.readRows hc gr 7 (upto 8 at_) <|
        if (w.core hc).remain at_ = 0 then .jump w gr target
        else .wait w gr (.yieldc off target)

def yieldcForm (x : BitVec 2) (a b : BitVec 6) : Form := wordForm (wYieldc x a b) x none wtScalar

theorem exec_yieldc (x : BitVec 2) (a b : BitVec 6) (s : State) :
    exec (.yieldc x a b) s = issue (yieldcForm x a b)
      (fun _ gr => copyNeed gr [useS a.toNat, useS b.toNat]) (yieldcBody a b) s := rfl

/-- What YIELDC asks of an object that it reads. -/
structure ObjectReads (s : State) (c n hc base size : Nat) (g : Group) (off : Nat) : Prop where
  space : s.work.space c g 3 = some (hc, base, size)
  aligned : off % 8 = 0
  within : off + 8 ≤ size
  idle : (s.work.core c).bufBusy n = false
  clean : (s.work.core hc).upset = []
  turn : (s.work.core hc).unitRank ≤ unitPlace n

theorem remain_of_sbuf {k l : Core} (h : k.sbuf = l.sbuf) (a : Nat) : k.remain a = l.remain a := by
  unfold Core.remain
  rw [bufNum_of_sbuf h]

theorem yieldcBody_eq {a b : BitVec 6} (h : ObjectReads s c n hc base size g (g.s a.toNat).toNat)
    (heven : (g.s b.toNat).getLsbD 0 = false) :
    yieldcBody a b s.work c n g =
      if (s.work.core hc).remain (base + (g.s a.toNat).toNat) = 0 then
        .jump (s.work.atRank hc (unitPlace n)) g ((g.s b.toNat).truncate 52)
      else .wait (s.work.atRank hc (unitPlace n)) g
        (.yieldc (g.s a.toNat).toNat ((g.s b.toNat).truncate 52)) := by
  obtain ⟨u, hu⟩ : ∃ u, u = unitPlace n := ⟨_, rfl⟩
  have hturn := h.turn
  rw [← hu] at hturn
  obtain ⟨hup, -, hsbuf⟩ := fields_of_offRank (core_atRank_offRank s.work hc u hc)
  have hclean : ((s.work.atRank hc u).core hc).upset = [] := hup.trans h.clean
  have hremain := remain_of_sbuf hsbuf (base + (g.s a.toNat).toNat)
  have heven' : ((g.s b.toNat).truncate 52 : Pc).getLsbD 0 = false := by
    simpa using heven
  unfold yieldcBody
  dsimp only
  rw [if_neg (by rw [heven']; decide), cdObject_within h.space h.aligned h.within, ← hu]
  dsimp only
  rw [h.idle, if_neg Bool.false_ne_true, ranked_passes hturn, readRows_clean hclean, hremain]

variable {a b : BitVec 6}

/-- R238: YIELDC goes on at its target when all bytes have been counted. -/
theorem yieldc_jumps (hr : Ready s c n g) (hk : g.kind ≠ .run) (x : BitVec 2)
    (h : ObjectReads s c n hc base size g (g.s a.toNat).toNat)
    (heven : (g.s b.toNat).getLsbD 0 = false)
    (hzero : (s.work.core hc).remain (base + (g.s a.toNat).toNat) = 0) :
    ∃ t h, exec (.yieldc x a b) s = .next t ∧ t.mem = s.mem ∧ t.work.grp c n = some h ∧
      h.pc = (g.s b.toNat).truncate 52 ∧ h.settled.fixed = g.fixed ∧ Keeps g h.settled {} ∧
      ∀ j m, (j, m) ≠ (c, n) → t.work.grp j m = s.work.grp j m := by
  have hbody := (yieldcBody_eq h heven).trans (if_pos hzero)
  exact jumps_of_jump hr (exec_yieldc x a b s) rfl rfl (copyNeed_ctx hk _) hbody rfl
    (grp_of_kept (kept_atRank _ _ _))

/-- R238: YIELDC waits while bytes are still to be counted. -/
theorem yieldc_waits (hr : Ready s c n g) (hk : g.kind ≠ .run) (x : BitVec 2)
    (h : ObjectReads s c n hc base size g (g.s a.toNat).toNat)
    (heven : (g.s b.toNat).getLsbD 0 = false)
    (hmore : (s.work.core hc).remain (base + (g.s a.toNat).toNat) ≠ 0) :
    ∃ t h, exec (.yieldc x a b) s = .next t ∧ t.work.grp c n = some h ∧ h.pc = g.pc ∧
      h.wait = .yieldc (g.s a.toNat).toNat ((g.s b.toNat).truncate 52) := by
  have hbody := (yieldcBody_eq h heven).trans (if_neg hmore)
  obtain ⟨t, h, ⟨he, -⟩, hg, hpc, hw, -⟩ :=
    parks_of_wait hr (exec_yieldc x a b s) rfl rfl (copyNeed_ctx hk _) hbody rfl
  exact ⟨t, h, he, hg, hpc, hw⟩

end Issue

/-! ## The statement -/

theorem kickNeed_ctx {g : Group} (hk : g.kind ≠ .run) {ord : Bool}
    (ho : ord = true → g.kind ≠ .handlerCore) (l : List Use) : (kickNeed g ord l).ctx = true := by
  have hnot : notRoutine g = true := decide_eq_true hk
  show (notRoutine g && (!ord || decide (g.kind ≠ .handlerCore))) = true
  rw [hnot]
  cases ord
  · rfl
  · simpa using ho rfl

theorem copyInstructions : CopyInstructions := by
  intro s c n g hc base size hr hk hs x a b
  dsimp only
  have kick : ∀ (ord : Bool) (i : Instr) (f : Form), f.len = 4 →
      exec i s = issue f (fun _ gr => kickNeed gr ord [useS a.toNat, useS b.toNat])
        (kickBody ord a b) s → (ord = true → g.kind ≠ .handlerCore) →
      KickFits s c n hc base size g (g.s a.toNat).toNat (g.s b.toNat).toNat →
      (4 * (g.half + 1) < (g.s b.toNat).toNat →
        ∃ t h, exec i s = .next t ∧ t.work.grp c n = some h ∧ h.pc = g.pc ∧ h.half = g.half + 1) ∧
      ((g.s b.toNat).toNat ≤ 4 * (g.half + 1) → ∃ t k, exec i s = .next t ∧ Issues s t c n g 4 g ∧
        (t.work.core c).kicks = (s.work.core c).kicks ++ [k] ∧ k.launch = g.launch ∧
        k.lin = g.lin ∧
        k.recs = (s.work.core hc).copyRecs (base + (g.s a.toNat).toNat) (g.s b.toNat).toNat ∧
        k.ord = ord ∧ k.row = 0 ∧ k.pend = [] ∧ k.failed = 0) := by
    intro ord i f hlen hi hctx hfit
    exact ⟨copyKick_held hr hi (kickNeed_ctx hk hctx _) hfit,
      copyKick_queues hr hlen hi (kickNeed_ctx hk hctx _) hfit⟩
  refine ⟨fun h1 h2 h3 h4 h5 h6 h7 h8 h9 h10 => ?_, fun h1 h2 h3 h4 h5 h6 h7 h8 h9 h10 => ?_,
    fun h1 h2 => ⟨fun h3 => ?_, fun h3 h4 h5 h6 => ⟨fun h7 => ?_, fun h7 => ?_⟩⟩⟩
  · exact kick true _ _ rfl (exec_copykickOrd x a b s) h8 ⟨hs, h1, h2, h3, h4, h5, h6, h7, h9, h10⟩
  · exact kick false _ _ rfl (exec_copykickAny x a b s) h8 ⟨hs, h1, h2, h3, h4, h5, h6, h7, h9, h10⟩
  · exact cdinit_stores hr hk hs x a b h1 h2 h3
  · exact yieldc_jumps hr hk x ⟨hs, h1, h2, h4, h5, h6⟩ h3 h7
  · exact yieldc_waits hr hk x ⟨hs, h1, h2, h4, h5, h6⟩ h3 h7

end Sys2Proof.Machine
end

section
/-!
PROOFS. Retention windows (R239, R240, R366).
-/

namespace Sys2Proof.Machine

open Sys2Proof.Claim

/-! ## The highest free ways (R366) -/

theorem mem_upto {u m : Nat} : u ∈ upto m ↔ u < m := by
  unfold upto
  simp

/-- Descending order. -/
theorem upto_reverse_descends (m : Nat) : (upto m).reverse.Pairwise (fun a b => b < a) := by
  rw [List.pairwise_reverse]
  unfold upto
  simpa using List.pairwise_lt_range

theorem mem_freeWays {d : Die} {m v : Nat} (h : v ∈ d.freeWays m) :
    v < 16 ∧ v ∉ d.rtw.flatMap fun p => p.2.ways := by
  unfold Die.freeWays at h
  have hmem := List.mem_of_mem_take (List.mem_reverse.mp h)
  obtain ⟨hlt, hfree⟩ := List.mem_filter.mp hmem
  exact ⟨mem_upto.mp (List.mem_reverse.mp hlt), by simpa using hfree⟩

/-- A free way that is not among them is lower than each of them. -/
theorem freeWays_highest {d : Die} {m u : Nat} (hu : u < 16)
    (hfree : u ∉ d.rtw.flatMap fun p => p.2.ways) :
    u ∈ d.freeWays m ∨ ∀ v ∈ d.freeWays m, u < v := by
  unfold Die.freeWays
  dsimp only
  obtain ⟨l, hl⟩ : ∃ l, l = (upto 16).reverse.filter fun x =>
    !(d.rtw.flatMap fun p => p.2.ways).contains x := ⟨_, rfl⟩
  have hmem : u ∈ l := by
    rw [hl, List.mem_filter]
    exact ⟨List.mem_reverse.mpr (mem_upto.mpr hu), by simpa using hfree⟩
  have hdesc : l.Pairwise fun a b => b < a := by
    rw [hl]
    exact (upto_reverse_descends 16).filter _
  rw [← hl]
  simp only [List.mem_reverse]
  rw [← List.take_append_drop m l] at hmem hdesc
  rcases List.mem_append.mp hmem with hin | hout
  · exact .inl hin
  · exact .inr fun v hv => (List.pairwise_append.mp hdesc).2.2 v hv u hout

/-! ## PIN -/

/-- The machine when a core's TLB has given an entry. -/
def Work.tlbHit (w : Work) (c : Nat) (tl : List (Nat × TlbEnt)) : Work :=
  w.setCore c { w.core c with tlb := tl }

theorem translate_hit {w : Work} {c owner va : Nat} {walked : Tab Nat} {e : TlbEnt}
    {tl : List (Nat × TlbEnt)} (h : tlbLook owner va (w.core c).tlb = some (e, tl)) :
    w.translate c owner va walked = (.page e, w.tlbHit c tl) := by
  unfold Work.translate
  dsimp only
  rw [h]
  rfl

/-- Another launch holds the window of a number. -/
def Die.heldByOther (d : Die) (ki launch : Nat) : Bool :=
  match tfind ki d.rtw with
  | some x => decide (x.launch ≠ launch)
  | none => false

/-- The ways that the windows of a die ask for. -/
def Die.pinned (d : Die) : Nat := d.rtw.foldl (fun m p => m + p.2.n) 0

/-- The window that PIN makes. -/
def Die.window (d : Die) (launch ways base len : Nat) : Rtw :=
  { launch, n := ways, ways := d.freeWays ways, base, len }

/-- What PIN does with a range that it has found. -/
def pinRange (w : Work) (die : Nat) (g : Group) (ki ways base len : Nat) : Res :=
  let d := w.die die
  let d' := d.unpin ki
  if d.heldByOther ki g.launch then .done w (g.sflNow (mkSfl false false true false))
  else if 12 < d'.pinned + ways then .done w (g.sflNow 0)
  else
    .done (w.setDie die { d' with rtw := tins ki (d'.window g.launch ways base len) d'.rtw })
      (g.sflNow (mkSfl true false false false))

/-- PIN's own part. -/
def pinBody (k : BitVec 2) (n : BitVec 3) (a b : BitVec 6) (w : Work) (c slot : Nat) (gr : Group) :
    Res :=
  let va := (gr.s a.toNat).toNat
  let len := (gr.s b.toNat).toNat
  let bad := Res.trap 0x08 (natWord (va % 2 ^ 52)) 0
  if va % 4096 ≠ 0 ∨ len % 4096 ≠ 0 ∨ len < 4096 ∨ 2 ^ 30 < len then bad
  else
    let va := va % 2 ^ 52
    let t := w.translate c gr.owner va gr.walked
    let w := t.2
    match t.1 with
    | .miss => .hold (w.requestWalk c gr.owner va) gr (some (.walk gr.owner (va / 65536)))
    | .pageFault => pageFaultRes w c slot { gr with walked := [] } va false 0
    | .accessFault => bad
    | .page e =>
      let size := 2 ^ pageBits e.size
      if !w.permits gr e .load || decide (size < va % size + len) then bad
      else pinRange w (Config.dieOf c) gr k.toNat (n.toNat + 1) (e.phys va) len

def pinForm (x k : BitVec 2) (n : BitVec 3) (a b : BitVec 6) : Form :=
  wordForm (wPin x k n a b) x none wtScalar

theorem exec_pin (x k : BitVec 2) (n : BitVec 3) (a b : BitVec 6) (s : State) :
    exec (.pin x k n a b) s = issue (pinForm x k n a b)
      (fun _ gr => { copyNeed gr [useS a.toNat, useS b.toNat] with writes := [useF] })
      (pinBody k n a b) s := rfl

section Issue

variable {s : State} {c n : Nat} {g g' : Group} {f : Form} {need : Work → Group → Need}
  {body : Work → Nat → Nat → Group → Res} {w' : Work} {i : Instr}

/-- A range of one page that the core's TLB holds (R239). -/
structure PinFits (s : State) (c : Nat) (g : Group) (va len : Nat) (e : TlbEnt)
    (tl : List (Nat × TlbEnt)) : Prop where
  whole : va % 4096 = 0
  lenWhole : len % 4096 = 0
  atLeast : 4096 ≤ len
  atMost : len ≤ 2 ^ 30
  virtual : va < 2 ^ 52
  found : tlbLook g.owner va (s.work.core c).tlb = some (e, tl)
  permitted : s.work.permits g e .load = true
  onePage : va % 2 ^ pageBits e.size + len ≤ 2 ^ pageBits e.size

variable {a b : BitVec 6} {e : TlbEnt} {tl : List (Nat × TlbEnt)}

theorem permits_tlbHit (w : Work) (c : Nat) (tl : List (Nat × TlbEnt)) (g : Group) (e : TlbEnt)
    (acc : Acc) : (w.tlbHit c tl).permits g e acc = w.permits g e acc := rfl

theorem pinBody_eq (k : BitVec 2) (m : BitVec 3)
    (h : PinFits s c g (g.s a.toNat).toNat (g.s b.toNat).toNat e tl) :
    pinBody k m a b s.work c n g =
      pinRange (s.work.tlbHit c tl) (Config.dieOf c) g k.toNat (m.toNat + 1)
        (e.phys (g.s a.toNat).toNat) (g.s b.toNat).toNat := by
  obtain ⟨v, hv⟩ : ∃ v, v = s.work.tlbHit c tl := ⟨_, rfl⟩
  have hperm : v.permits g e .load = true :=
    (congrArg (fun w : Work => w.permits g e .load) hv).trans
      ((permits_tlbHit _ _ _ _ _ _).trans h.permitted)
  have hlen := h.atMost
  unfold pinBody
  dsimp only
  rw [if_neg (by have := h.whole; have := h.lenWhole; have := h.atLeast; omega),
    Nat.mod_eq_of_lt h.virtual, translate_hit h.found, ← hv]
  dsimp only
  rw [hperm, if_neg (by simpa using h.onePage)]

/-- R21: an instruction completes with its flags written at issue. -/
theorem flags_of_done {v : BitVec 4} (hr : Ready s c n g) (hi : exec i s = issue f need body s)
    (h1 : (need s.work g).codes = true) (h2 : (need s.work g).regs = true)
    (h3 : (need s.work g).ctx = true) (hb : body s.work c n g = .done w' (g.sflNow v))
    (hlen : f.len = 4) (hlog : w'.log = []) :
    ∃ t h, exec i s = .next t ∧ t.mem = s.mem ∧ t.work.grp c n = some h ∧ h.pc = g.pc + 4 ∧
      Keeps g h.settled { fl := true } ∧ h.settled.fixed = g.fixed ∧ h.settled.sfl = v ∧
      t.toMach.rest = w'.toMach.rest := by
  have hq := hr.quiet.flights
  have hnow := sflNow_of_quiet hq v
  rw [hnow] at hb
  have hflown : ({ g with sfl := v } : Group).flown = { g with sfl := v } :=
    flown_of_no_flights _ hq
  have he := exec_gone hr hi h1 h2 h3 hb hlen rfl
  obtain ⟨h, ⟨-, hmem, hgrp, hpc, hkeeps⟩, hregs, hfixed⟩ := goes_of_done (d := { fl := true }) he hlog
    (Nat.zero_le 8) (by rw [show ({ g with sfl := v } : Group).flights = [] from hq]; simp)
    (by rw [hflown]; exact ⟨fun _ _ _ => rfl, fun _ _ _ => rfl, fun _ _ _ _ => rfl, nofun⟩)
  have hafter : After w' (gone f s w' c n g { g with sfl := v }) c n := After.gone
  refine ⟨_, h, he, hmem, hgrp, hpc, hkeeps, hfixed.trans ?_, ?_, hafter.rest⟩
  · rw [landed_of_quiet (g := { g with sfl := v }) hq]
    rfl
  · exact hregs.sfl.trans (by rw [hflown])

theorem die_of_rest {t : State} {w : Work} (h : t.toMach.rest = w.toMach.rest) (d : Nat) :
    t.work.die d = w.die d := (congrArg (fun m : Mach => tget Die.init d m.dies) h :)

theorem heldByOther_iff {d : Die} {ki launch : Nat} :
    d.heldByOther ki launch = true ↔ ¬∀ y, tfind ki d.rtw = some y → y.launch = launch := by
  unfold Die.heldByOther
  cases tfind ki d.rtw <;> simp

theorem rtw_unpin (d : Die) (ki : Nat) : (d.unpin ki).rtw = tdel ki d.rtw := rfl

theorem die_tlbHit (w : Work) (c : Nat) (tl : List (Nat × TlbEnt)) (d : Nat) :
    (w.tlbHit c tl).die d = w.die d := rfl

/-- What PIN and UNPIN leave, with the flags that they write. -/
def FlagsThen (s : State) (c n : Nat) (g : Group) (i : Instr) (v : BitVec 4) (p : State → Prop) : Prop :=
  ∃ t h, exec i s = .next t ∧ t.mem = s.mem ∧ t.work.grp c n = some h ∧ h.pc = g.pc + 4 ∧
    Keeps g h.settled { fl := true } ∧ h.settled.fixed = g.fixed ∧ h.settled.sfl = v ∧ p t

variable {die ki ways base len : Nat}

section Pins

variable {k : BitVec 2} {m : BitVec 3} (x : BitVec 2) (hr : Ready s c n g) (hk : g.kind ≠ .run)
  (h : PinFits s c g (g.s a.toNat).toNat (g.s b.toNat).toNat e tl)

include hr hk h

/-- R240: PIN fails where another launch holds the number. -/
theorem pin_other
    (hother : ¬∀ y, tfind k.toNat (s.work.die (Config.dieOf c)).rtw = some y → y.launch = g.launch) :
    FlagsThen s c n g (.pin x k m a b) (mkSfl false false true false) fun t =>
      (t.work.die (Config.dieOf c)).rtw = (s.work.die (Config.dieOf c)).rtw := by
  have hbody := pinBody_eq (n := n) k m h
  rw [pinRange] at hbody
  rw [die_tlbHit, if_pos (heldByOther_iff.mpr hother)] at hbody
  obtain ⟨t, y, he, hmem, hg, hpc, hkeep, hfix, hsfl, hrest⟩ :=
    flags_of_done hr (exec_pin x k m a b s) rfl rfl (copyNeed_ctx hk []) hbody rfl rfl
  exact ⟨t, y, he, hmem, hg, hpc, hkeep, hfix, hsfl, congrArg Die.rtw (die_of_rest hrest _)⟩

/-- R240: PIN fails where the windows would hold more than 12 ways. -/
theorem pin_full
    (hmine : ∀ y, tfind k.toNat (s.work.die (Config.dieOf c)).rtw = some y → y.launch = g.launch)
    (hfull : 12 < ((s.work.die (Config.dieOf c)).unpin k.toNat).pinned + (m.toNat + 1)) :
    FlagsThen s c n g (.pin x k m a b) 0 fun t =>
      (t.work.die (Config.dieOf c)).rtw = (s.work.die (Config.dieOf c)).rtw := by
  have hbody := pinBody_eq (n := n) k m h
  rw [pinRange] at hbody
  rw [die_tlbHit, if_neg (fun hc => heldByOther_iff.mp hc hmine), if_pos hfull] at hbody
  obtain ⟨t, y, he, hmem, hg, hpc, hkeep, hfix, hsfl, hrest⟩ :=
    flags_of_done hr (exec_pin x k m a b s) rfl rfl (copyNeed_ctx hk []) hbody rfl rfl
  exact ⟨t, y, he, hmem, hg, hpc, hkeep, hfix, hsfl, congrArg Die.rtw (die_of_rest hrest _)⟩

/-- R239, R366: PIN makes a window. -/
theorem pin_takes
    (hmine : ∀ y, tfind k.toNat (s.work.die (Config.dieOf c)).rtw = some y → y.launch = g.launch)
    (hroom : ((s.work.die (Config.dieOf c)).unpin k.toNat).pinned + (m.toNat + 1) ≤ 12) :
    FlagsThen s c n g (.pin x k m a b) (mkSfl true false false false) fun t =>
      tfind k.toNat (t.work.die (Config.dieOf c)).rtw =
        some (((s.work.die (Config.dieOf c)).unpin k.toNat).window g.launch (m.toNat + 1)
          (e.phys (g.s a.toNat).toNat) (g.s b.toNat).toNat) := by
  have hbody := pinBody_eq (n := n) k m h
  rw [pinRange] at hbody
  rw [die_tlbHit, if_neg (fun hc => heldByOther_iff.mp hc hmine), if_neg (Nat.not_lt.mpr hroom)]
    at hbody
  obtain ⟨t, y, he, hmem, hg, hpc, hkeep, hfix, hsfl, hrest⟩ :=
    flags_of_done hr (exec_pin x k m a b s) rfl rfl (copyNeed_ctx hk []) hbody rfl rfl
  refine ⟨t, y, he, hmem, hg, hpc, hkeep, hfix, hsfl, ?_⟩
  dsimp only
  rw [die_of_rest hrest, die_setDie, if_pos rfl]
  exact tfind_tins_same _ _ _

end Pins

/-! ## UNPIN -/

/-- A launch holds the window of a number. -/
def Die.holds (d : Die) (ki launch : Nat) : Bool :=
  match tfind ki d.rtw with
  | some x => decide (x.launch = launch)
  | none => false

/-- UNPIN's own part. -/
def unpinBody (k : BitVec 2) (w : Work) (c _slot : Nat) (gr : Group) : Res :=
  let mine := (w.die (Config.dieOf c)).holds k.toNat gr.launch
  .done (if mine then w.modDie (Config.dieOf c) (·.unpin k.toNat) else w)
    (gr.sflNow (mkSfl mine false false false))

def unpinForm (x k : BitVec 2) : Form := wordForm (wUnpin x k) x none wtScalar

theorem exec_unpin (x k : BitVec 2) (s : State) :
    exec (.unpin x k) s = issue (unpinForm x k)
      (fun _ gr => { copyNeed gr [] with writes := [useF] }) (unpinBody k) s := rfl

/-- R240: UNPIN releases a window of its launch. -/
theorem unpin_releases (hr : Ready s c n g) (hk : g.kind ≠ .run) (x k : BitVec 2) {y : Rtw}
    (hy : tfind k.toNat (s.work.die (Config.dieOf c)).rtw = some y) (hmine : y.launch = g.launch) :
    FlagsThen s c n g (.unpin x k) (mkSfl true false false false) fun t =>
      tfind k.toNat (t.work.die (Config.dieOf c)).rtw = none := by
  have hholds : (s.work.die (Config.dieOf c)).holds k.toNat g.launch = true := by
    unfold Die.holds
    rw [hy]
    exact decide_eq_true hmine
  have hbody : unpinBody k s.work c n g =
      .done (s.work.modDie (Config.dieOf c) (·.unpin k.toNat))
        (g.sflNow (mkSfl true false false false)) := by
    unfold unpinBody
    rw [hholds]
    rfl
  obtain ⟨t, h, he, hmem, hg, hpc, hkeep, hfix, hsfl, hrest⟩ :=
    flags_of_done hr (exec_unpin x k s) rfl rfl (copyNeed_ctx hk []) hbody rfl rfl
  refine ⟨t, h, he, hmem, hg, hpc, hkeep, hfix, hsfl, ?_⟩
  dsimp only
  rw [die_of_rest hrest, Work.modDie, die_setDie, if_pos rfl, rtw_unpin]
  exact tfind_tdel_same _ _

/-- R240: UNPIN of a number that its launch does not hold changes nothing. -/
theorem unpin_nothing (hr : Ready s c n g) (hk : g.kind ≠ .run) (x k : BitVec 2)
    (hnone : ∀ y, tfind k.toNat (s.work.die (Config.dieOf c)).rtw = some y → y.launch ≠ g.launch) :
    FlagsThen s c n g (.unpin x k) 0 fun t =>
      (t.work.die (Config.dieOf c)).rtw = (s.work.die (Config.dieOf c)).rtw := by
  have hholds : (s.work.die (Config.dieOf c)).holds k.toNat g.launch = false := by
    unfold Die.holds
    split
    · next y hy => exact decide_eq_false (hnone y hy)
    · rfl
  have hbody : unpinBody k s.work c n g = .done s.work (g.sflNow 0) := by
    unfold unpinBody
    rw [hholds]
    rfl
  obtain ⟨t, h, he, hmem, hg, hpc, hkeep, hfix, hsfl, hrest⟩ :=
    flags_of_done hr (exec_unpin x k s) rfl rfl (copyNeed_ctx hk []) hbody rfl rfl
  exact ⟨t, h, he, hmem, hg, hpc, hkeep, hfix, hsfl, congrArg Die.rtw (die_of_rest hrest _)⟩

end Issue

theorem window_ways (d : Die) (launch ways base len : Nat) :
    (∀ v ∈ (d.window launch ways base len).ways, v < 16 ∧ v ∉ d.rtw.flatMap fun q => q.2.ways) ∧
    ∀ u < 16, u ∉ (d.rtw.flatMap fun q => q.2.ways) →
      u ∈ (d.window launch ways base len).ways ∨
        ∀ v ∈ (d.window launch ways base len).ways, u < v :=
  ⟨fun _ h => mem_freeWays h, fun _ hu hfree => freeWays_highest hu hfree⟩

theorem retentionWindows : RetentionWindows := by
  intro s c n g hr hk x k m a b
  dsimp only
  refine ⟨fun e tl h1 h2 h3 h4 h5 h6 h7 h8 => ?_, fun y hy hm => unpin_releases hr hk x k hy hm,
    unpin_nothing hr hk x k⟩
  have hfit : PinFits s c g (g.s a.toNat).toNat (g.s b.toNat).toNat e tl := ⟨h1, h2, h3, h4, h5, h6, h7, h8⟩
  refine ⟨fun hm hroom => ?_, pin_full x hr hk hfit, pin_other x hr hk hfit⟩
  obtain ⟨t, h, he, hmem, hg, hpc, hkeep, hfix, hsfl, hw⟩ := pin_takes x hr hk hfit hm hroom
  exact ⟨t, h, he, hmem, hg, hpc, hkeep, hfix, hsfl, _, hw, rfl, rfl, rfl, rfl, window_ways _ _ _ _ _⟩

end Sys2Proof.Machine
end

section
/-!
SUPPORT. What the copy engine looks up, and the objects that copies count down (R236 to R238).
-/

namespace Sys2Proof.Machine

open Sys2Proof.Claim

/-! ## What the engine looks up -/

/-- The teams, the launches, and the bytes performed so far. -/
def Work.lookups (w : Work) : Tab Team × Tab Launch × List (Nat × Byte) := (w.teams, w.launches, w.log)

section Lookups

variable {v w : Work} (h : v.lookups = w.lookups)

include h

theorem team_of_lookups (l i : Nat) : v.team l i = w.team l i :=
  congrArg (fun x : Tab Team × Tab Launch × List (Nat × Byte) => tfind (teamKey l i) x.1) h

theorem launch_of_lookups (l : Nat) : v.launch? l = w.launch? l :=
  congrArg (fun x : Tab Team × Tab Launch × List (Nat × Byte) => tfind l x.2.1) h

theorem log_of_lookups : v.log = w.log := congrArg (fun x => x.2.2) h

theorem kickSpace_of_lookups (c : Nat) (x : Kick) (buf : Nat) :
    v.kickSpace c x buf = w.kickSpace c x buf := by
  unfold Work.kickSpace Work.space Work.recOf
  rw [team_of_lookups h, launch_of_lookups h]

theorem ringByte_of_lookups (hc : Nat) : v.ringByte hc = w.ringByte hc := by
  funext a
  unfold Work.ringByte
  rw [show v.teams = w.teams from congrArg Prod.fst h]
  refine congrArg (w.teams.any ·) (funext fun p => ?_)
  dsimp only
  rw [launch_of_lookups h]

theorem kickHeld_of_lookups (x : Kick) : v.kickHeld x = w.kickHeld x := by
  unfold Work.kickHeld
  rw [team_of_lookups h]

end Lookups

theorem lookups_modCore (w : Work) (c : Nat) (f : Core → Core) : (w.modCore c f).lookups = w.lookups := rfl

theorem lookups_logError (w : Work) (unit : Nat) (unc : Bool) (where_ addr bit : Nat) :
    (w.logError unit unc where_ addr bit).lookups = w.lookups := by
  unfold Work.logError
  dsimp only
  split
  · rfl
  · rfl

theorem core_logError (w : Work) (unit : Nat) (unc : Bool) (where_ addr bit d : Nat) :
    (w.logError unit unc where_ addr bit).core d = w.core d :=
  core_of_offRead (offRead_logError _ _ _ _ _ _) d

theorem lookups_debits (w : Work) (c n wt : Nat) : (w.debits c n wt).lookups = w.lookups := by
  unfold Work.debits
  split
  · rfl
  · rfl

theorem core_debits (w : Work) (c n wt d : Nat) : (w.debits c n wt).core d = w.core d := by
  unfold Work.debits
  split
  · rfl
  · rfl

/-- One core but for its groups and their order of return, and what the engine looks up. -/
def Work.engineView (w : Work) (d : Nat) : Core × Tab Team × Tab Launch × List (Nat × Byte) :=
  ((w.core d).offSeats, w.lookups)

theorem engineView_completeWait (w : Work) (c n d : Nat) (pc : Group → Pc) (f : Group → Group) :
    (w.completeWait c n pc f).engineView d = w.engineView d := by
  have hmach : (w.completeWait c n pc f).toMach.central = w.toMach.central := central_returnAt _ _ _ _ _ _
  unfold Work.engineView Work.lookups
  rw [show ((w.completeWait c n pc f).core d).offSeats = (w.core d).offSeats from
      core_returnAt_offSeats _ _ _ _ _ _ _,
    show (w.completeWait c n pc f).teams = w.teams from (congrArg (fun m : Mach => m.teams) hmach :),
    show (w.completeWait c n pc f).launches = w.launches from (congrArg (fun m : Mach => m.launches) hmach :),
    show (w.completeWait c n pc f).log = w.log from log_returnAt _ _ _ _ _ _]

/-- R238: the groups that go on change nothing that the engine looks up. -/
theorem engineView_yieldTest (w : Work) (hc d : Nat) : (w.yieldTest hc).engineView d = w.engineView d := by
  unfold Work.yieldTest
  refine foldl_unwritten (get := fun v : Work => v.engineView d) (fun v e _ => ?_) w
  refine foldl_unwritten (get := fun v : Work => v.engineView d) (fun u m _ => ?_) v
  split
  · split
    · split
      · exact engineView_completeWait _ _ _ _ _ _
      · rfl
    · rfl
  · rfl

theorem lookups_yieldTest (w : Work) (hc : Nat) : (w.yieldTest hc).lookups = w.lookups :=
  congrArg Prod.snd (engineView_yieldTest w hc 0)

theorem core_yieldTest_offSeats (w : Work) (hc d : Nat) :
    ((w.yieldTest hc).core d).offSeats = (w.core d).offSeats :=
  congrArg Prod.fst (engineView_yieldTest w hc d)

/-! ## The word of an object (R236) -/

/-- The word of an object when bytes are counted, or an error code is recorded. -/
def countedWord (v bytes code : Nat) : Nat :=
  (if code = 0 then v % 2 ^ 40 - bytes else 0) +
    (if v / 2 ^ 40 % 256 = 0 then code else v / 2 ^ 40 % 256) * 2 ^ 40 + v / 2 ^ 48 * 2 ^ 48

/-- A core in whose SBUF an object is counted down. -/
def Core.counted (k : Core) (a bytes code : Nat) (skip : Nat → Bool) : Core :=
  k.setBufNum 3 a 8 (countedWord (k.bufNum 3 a 8) bytes code) skip

theorem countedWord_zero {v bytes : Nat} (h : bytes ≤ v % 2 ^ 40) : countedWord v bytes 0 = v - bytes := by
  unfold countedWord
  rw [if_pos rfl]
  have herr : (if v / 2 ^ 40 % 256 = 0 then 0 else v / 2 ^ 40 % 256) = v / 2 ^ 40 % 256 := by
    split <;> omega
  rw [herr]
  omega

theorem countedWord_code {v bytes code : Nat} (h : code ≠ 0) :
    countedWord v bytes code =
      (if v / 2 ^ 40 % 256 = 0 then code else v / 2 ^ 40 % 256) * 2 ^ 40 + v / 2 ^ 48 * 2 ^ 48 := by
  unfold countedWord
  rw [if_neg h, Nat.zero_add]

theorem leNat_lt (l : List Byte) : leNat l < 256 ^ l.length := by
  induction l with
  | nil => simp [leNat]
  | cons b l ih =>
    have hb : b.toNat < 256 := b.isLt
    rw [leNat, List.length_cons, Nat.pow_succ]
    omega

theorem bufNum_lt (k : Core) (buf a n : Nat) : k.bufNum buf a n < 256 ^ n := by
  have h := leNat_lt ((upto n a).map (k.bufByte buf))
  rw [List.length_map, show (upto n a).length = n by simp [upto]] at h
  exact h

theorem countedWord_lt {v bytes code : Nat} (hv : v < 256 ^ 8) (hcode : code < 256) :
    countedWord v bytes code < 256 ^ 8 := by
  have hrest : (if code = 0 then v % 2 ^ 40 - bytes else 0) < 2 ^ 40 := by
    split
    · exact Nat.lt_of_le_of_lt (Nat.sub_le _ _) (Nat.mod_lt _ (by decide))
    · decide
  have herr : (if v / 2 ^ 40 % 256 = 0 then code else v / 2 ^ 40 % 256) < 256 := by
    split
    · exact hcode
    · exact Nat.mod_lt _ (by decide)
  unfold countedWord
  omega

/-- Numbers whose bytes agree. -/
theorem bufNum_congr {k l : Core} {buf a n : Nat}
    (h : ∀ i < n, k.bufByte buf (a + i) = l.bufByte buf (a + i)) :
    k.bufNum buf a n = l.bufNum buf a n := by
  unfold Core.bufNum upto
  rw [List.map_map, List.map_map]
  refine congrArg leNat (List.map_congr_left fun i hi => ?_)
  have hb := h i (List.mem_range.mp hi)
  rwa [Nat.add_comm a i] at hb

theorem bufNum_counted {k : Core} {a bytes code : Nat} {skip : Nat → Bool}
    (hfree : ∀ i < 8, skip (a + i) = false) (hcode : code < 256) :
    (k.counted a bytes code skip).bufNum 3 a 8 = countedWord (k.bufNum 3 a 8) bytes code := by
  obtain ⟨u, hu⟩ : ∃ u, u = countedWord (k.bufNum 3 a 8) bytes code := ⟨_, rfl⟩
  have hlt : u < 256 ^ 8 := hu ▸ countedWord_lt (bufNum_lt k 3 a 8) hcode
  unfold Core.counted
  rw [← hu]
  have hsame : (k.setBufNum 3 a 8 u skip).bufNum 3 a 8 =
      (k.setBufNum 3 a 8 u fun _ => false).bufNum 3 a 8 := by
    refine bufNum_congr fun i hi => ?_
    rw [bufByte_setBufNum, bufByte_setBufNum, if_pos ⟨by omega, by omega, hfree i hi⟩,
      if_pos ⟨by omega, by omega, rfl⟩]
  rw [hsame, bufNum_setBufNum k 3 a 8 u (Nat.le_refl a) (Nat.le_refl _), Nat.sub_self, Nat.pow_zero,
    Nat.div_one, Nat.mod_eq_of_lt hlt]

theorem bufByte_counted_apart {k : Core} {a bytes code j : Nat} {skip : Nat → Bool}
    (h : j < a ∨ a + 8 ≤ j) : (k.counted a bytes code skip).bufByte 3 j = k.bufByte 3 j := by
  unfold Core.counted
  rw [bufByte_setBufNum, if_neg (by omega)]

/-- What an object leaves alone: all but SBUF. -/
def Core.offSbuf (k : Core) : Core := { k with sbuf := [], upset := [] }

theorem offSbuf_setBufByte (k : Core) (a : Nat) (b : Byte) : (k.setBufByte 3 a b).offSbuf = k.offSbuf := rfl

theorem offSbuf_counted (k : Core) (a bytes code : Nat) (skip : Nat → Bool) :
    (k.counted a bytes code skip).offSbuf = k.offSbuf := by
  unfold Core.counted
  rw [setBufNum_eq]
  refine foldl_unwritten (get := Core.offSbuf) (fun k j _ => ?_) k
  split
  · rfl
  · exact offSbuf_setBufByte _ _ _

/-! ## An object is counted down -/

section CountDown

variable {w : Work} {c ho so no : Nat} {x : Kick}

theorem countDown_eq (h : w.kickSpace c x 3 = some (ho, so, no)) (r : CopyRec) (code : Nat) :
    w.countDown c x r code =
      (w.modCore ho fun m => m.counted (so + crObj r) (crBytes r) code (w.ringByte ho)).yieldTest ho := by
  unfold Work.countDown Work.modCore Core.counted countedWord
  rw [h]

theorem lookups_countDown (w : Work) (c : Nat) (x : Kick) (r : CopyRec) (code : Nat) :
    (w.countDown c x r code).lookups = w.lookups := by
  unfold Work.countDown
  split
  · rfl
  · exact (lookups_yieldTest _ _).trans (lookups_modCore _ _ _)

theorem core_countDown (h : w.kickSpace c x 3 = some (ho, so, no)) (r : CopyRec) (code d : Nat) :
    ((w.countDown c x r code).core d).offSeats =
      (if d = ho then (w.core ho).counted (so + crObj r) (crBytes r) code (w.ringByte ho)
        else w.core d).offSeats := by
  rw [countDown_eq h, core_yieldTest_offSeats, core_modCore]

theorem bufByte_of_offSeats {k l : Core} (h : k.offSeats = l.offSeats) (buf j : Nat) :
    k.bufByte buf j = l.bufByte buf j := by
  unfold Core.bufByte
  rw [show k.wbuf = l.wbuf from (congrArg Core.wbuf h :), show k.abuf = l.abuf from (congrArg Core.abuf h :),
    show k.sbuf = l.sbuf from (congrArg Core.sbuf h :)]

theorem bufNum_of_offSeats {k l : Core} (h : k.offSeats = l.offSeats) (buf a n : Nat) :
    k.bufNum buf a n = l.bufNum buf a n :=
  bufNum_congr fun _ _ => bufByte_of_offSeats h _ _

/-- The word of an object that is counted down. -/
theorem word_countDown (h : w.kickSpace c x 3 = some (ho, so, no)) {r : CopyRec} {code : Nat}
    (hfree : ∀ i < 8, w.ringByte ho (so + crObj r + i) = false) (hcode : code < 256) :
    ((w.countDown c x r code).core ho).bufNum 3 (so + crObj r) 8 =
      countedWord ((w.core ho).bufNum 3 (so + crObj r) 8) (crBytes r) code := by
  rw [bufNum_of_offSeats (core_countDown h r code ho), if_pos rfl, bufNum_counted hfree hcode]

/-- A byte of SBUF outside the object. -/
theorem bufByte_countDown_apart (h : w.kickSpace c x 3 = some (ho, so, no)) {r : CopyRec}
    {code d j : Nat} (hj : d = ho → j < so + crObj r ∨ so + crObj r + 8 ≤ j) :
    ((w.countDown c x r code).core d).bufByte 3 j = (w.core d).bufByte 3 j := by
  rw [bufByte_of_offSeats (core_countDown h r code d)]
  split
  · next e => rw [bufByte_counted_apart (hj e), e]
  · rfl

/-- The word of another object. -/
theorem word_countDown_apart (h : w.kickSpace c x 3 = some (ho, so, no)) {r y : CopyRec} {code : Nat}
    (hy : crObj r + 8 ≤ crObj y ∨ crObj y + 8 ≤ crObj r) :
    ((w.countDown c x r code).core ho).bufNum 3 (so + crObj y) 8 =
      (w.core ho).bufNum 3 (so + crObj y) 8 :=
  bufNum_congr fun _ _ => bufByte_countDown_apart h fun _ => by omega

/-- A core but for SBUF, its groups and their order of return. -/
def Core.offObject (k : Core) : Core := k.offSbuf.offSeats

theorem offObject_of_offSeats {k l : Core} (h : k.offSeats = l.offSeats) : k.offObject = l.offObject :=
  congrArg Core.offSbuf h

theorem core_countDown_offObject (w : Work) (c : Nat) (x : Kick) (r : CopyRec) (code d : Nat) :
    ((w.countDown c x r code).core d).offObject = (w.core d).offObject := by
  cases h : w.kickSpace c x 3 with
  | none =>
    unfold Work.countDown
    rw [h]
  | some sp =>
    obtain ⟨ho, so, no⟩ := sp
    rw [offObject_of_offSeats (core_countDown h r code d)]
    split
    · next e => rw [e]; exact congrArg Core.offSeats (offSbuf_counted _ _ _ _ _)
    · rfl

end CountDown

end Sys2Proof.Machine
end

section
/-!
SUPPORT. The copy engine takes a kick; the present record runs, and ends (R233, R236).
-/

namespace Sys2Proof.Machine

open Sys2Proof.Claim

/-! ## A kick is taken -/

/-- A core whose copy engine has taken a kick. -/
def Core.tookKick (k : Core) (x : Kick) : Core := { k with copying := some x, kicks := k.kicks.erase x }

theorem kickStarts {s : State} {c : Nat} {x : Kick} (hidle : (s.work.core c).copying = none)
    (hdelay : (s.work.core c).copyDelayed = false)
    (hfirst : (s.work.core c).kicks.find? (fun y => !s.work.kickHeld y) = some x) :
    ∃ t, exec (.copyKickStart c) s = .next t ∧ t.mem = s.mem ∧
      (t.work.core c).copying = some x ∧ (t.work.core c).kicks = (s.work.core c).kicks.erase x := by
  obtain ⟨k, hk⟩ : ∃ k, k = s.work.core c := ⟨_, rfl⟩
  rw [← hk] at hidle hfirst hdelay ⊢
  have he : exec (.copyKickStart c) s = .next (commit s (s.work.setCore c (k.tookKick x))) := by
    show execCopyKickStart c s = _
    unfold execCopyKickStart event
    beta_reduce
    rw [← hk, hdelay, if_neg Bool.false_ne_true]
    unfold Work.modCore
    rw [← hk]
    dsimp only
    rw [hidle, hfirst]
    rfl
  have hcore : ((commit s (s.work.setCore c (k.tookKick x))).work.core c) = k.tookKick x :=
    core_setCore_same _ _ _
  exact ⟨_, he, commit_mem _ _ rfl, by rw [hcore]; rfl, by rw [hcore]; rfl⟩

/-! ## The present record runs -/

/-- Writes of the present record are still to be performed. -/
def Work.opens (w : Work) (c : Nat) (x : Kick) : Bool :=
  x.pend.any fun op => (w.core c).stores.any fun p => decide (p.1 = op)

/-- The machine whose copy engine goes on with a kick. -/
def Work.keepsKick (w : Work) (c : Nat) (x : Kick) : Work :=
  w.modCore c fun k => { k with copying := some x }

/-- What the engine does when its rows have ended or stopped. -/
def Work.rowsEnded (c : Nat) (r : CopyRec) : RowEnd → Work
  | .wait w x => w.keepsKick c x
  | .fault w x va write =>
    (w.supEvent c 2 x.slot 0 0 (natWord (va + if write then 2 ^ 63 else 0))).keepsKick c
      { x with fault := some va }
  | .error w x code =>
    if w.opens c x then w.keepsKick c { x with failed := code } else w.copyFail c x code
  | .ok w x =>
    if w.opens c x then w.keepsKick c x
    else if w.countShort c x r then w.copyFail c x 2
    else (w.countDown c x r 0).copyNext c x

/-- The engine is at the first row of a record. -/
structure AtRecord (s : State) (c : Nat) (x : Kick) (r : CopyRec) (rest : List CopyRec) : Prop where
  copying : (s.work.core c).copying = some x
  recs : x.recs = r :: rest
  fault : x.fault = none
  failed : x.failed = 0
  pend : x.pend = []
  row : x.row = 0
  delayed : (s.work.core c).copyDelayed = false

variable {s : State} {c : Nat} {x : Kick} {r : CopyRec} {rest : List CopyRec}

theorem exec_copyRecordDone (h : AtRecord s c x r rest) :
    exec (.copyRecordDone c) s = .next (commit s
      (if crMalformed r x.ord then s.work.copyFail c x 4
        else Work.rowsEnded c r (s.work.copyRows c x r (crRows r)))) := by
  obtain ⟨rows, hrows⟩ : ∃ f, f = Work.copyRows := ⟨_, rfl⟩
  have hrun : execCopyRecordDone = execCopyRecordDone := rfl
  conv at hrun => rhs; delta execCopyRecordDone
  show execCopyRecordDone c s = _
  rw [hrun, ← hrows]
  beta_reduce
  unfold event
  dsimp only
  rw [h.copying]
  dsimp only
  rw [h.recs]
  dsimp only
  rw [h.fault, h.delayed, h.failed, h.row, Nat.sub_zero, if_neg (by decide), if_neg (by decide)]
  rfl

end Sys2Proof.Machine
end

section
/-!
SUPPORT. A row between two buffers (R234): its bytes, and what it leaves in the destination.
-/

namespace Sys2Proof.Machine

open Sys2Proof.Claim

/-! ## Lists of bytes -/

theorem flatMap_range_eight (m : Nat) (f : Nat → Byte) :
    ((List.range m).flatMap fun q => (List.range 8).map fun i => f (8 * q + i)) =
      (List.range (8 * m)).map f := by
  induction m with
  | zero => rfl
  | succ m ih =>
    rw [List.range_succ (n := m), List.flatMap_append, ih, Nat.mul_succ, List.range_add, List.map_append,
      List.map_map, List.flatMap_singleton]
    rfl

theorem leNat_map (n : Nat) (f : Nat → Byte) :
    leNat ((List.range n).map f) = ((List.range n).map fun i => (f i).toNat * 256 ^ i).sum := by
  induction n generalizing f with
  | zero => rfl
  | succ n ih =>
    have htail : ∀ i, (f (i + 1)).toNat * 256 ^ (i + 1) = 256 * ((f (i + 1)).toNat * 256 ^ i) := by
      intro i
      rw [Nat.pow_succ]
      ring
    rw [List.range_succ_eq_map, List.map_cons, List.map_map, List.map_cons, List.map_map, leNat,
      List.sum_cons, Nat.pow_zero, Nat.mul_one, ih]
    simp only [Function.comp_def, Nat.succ_eq_add_one, htail, List.sum_map_mul_left]

theorem mapIdx_map_range (n a : Nat) (f : Nat → Byte) :
    (((List.range n).map f).mapIdx fun i b => (a + i, b)) = (List.range n).map fun i => (a + i, f i) := by
  refine List.ext_getElem (by simp) fun i h₁ h₂ => ?_
  simp

/-- The elements of a row, as the numbers that their bytes make. -/
theorem elements_map_range (z m : Nat) (f : Nat → Byte) (hz : 0 < z) :
    elements z ((List.range (z * m)).map f) =
      (List.range m).map fun i => (z * i, ((List.range z).map fun j =>
        (f (z * i + j)).toNat * 256 ^ j).sum) := by
  unfold elements upto
  rw [List.length_map, List.length_range, Nat.mul_div_cancel_left m hz, List.map_map]
  refine List.map_congr_left fun i hi => ?_
  have hi : z * i + z ≤ z * m := by
    rw [← Nat.mul_succ]
    exact Nat.mul_le_mul_left z (List.mem_range.mp hi)
  have hpart : (((List.range (z * m)).map f).drop (z * i)).take z =
      (List.range z).map fun j => f (z * i + j) := by
    refine List.ext_getElem (by simp; omega) fun j h₁ h₂ => ?_
    simp
  simp only [Function.comp, Nat.add_zero]
  rw [hpart, leNat_map]

/-! ## A row of the source -/

/-- A byte of a row in a buffer; a cell of CBUF gives eight. -/
def Core.rowByte (k : Core) (kind buf a i : Nat) : Byte :=
  if kind = 3 then BitVec.ofNat 8 ((k.cell (a + i / 8)).toNat / 256 ^ (i % 8)) else k.bufByte buf (a + i)

/-- The bytes of a row in a buffer. -/
def Core.rowBytes (k : Core) (y : Side) (a len : Nat) : List Byte :=
  (List.range len).map (k.rowByte y.kind y.buf a)

theorem cells_bytes {k : Core} {y : Side} {a len : Nat} (hkind : y.kind = 3) (hlen : len % 8 = 0) :
    ((upto (len / 8) a).flatMap fun j => leBytes 8 (k.cell j).toNat) = k.rowBytes y a len := by
  have hcell : (fun q => leBytes 8 (k.cell (q + a)).toNat) =
      fun q => (List.range 8).map fun i => k.rowByte y.kind y.buf a (8 * q + i) := by
    funext q
    unfold leBytes upto
    rw [List.map_map]
    refine List.map_congr_left fun i hi => ?_
    have hi : i < 8 := List.mem_range.mp hi
    unfold Core.rowByte
    rw [if_pos hkind, show (8 * q + i) / 8 = q by omega, show (8 * q + i) % 8 = i by omega,
      Nat.add_comm a q]
    rfl
  unfold upto Core.rowBytes
  rw [List.flatMap_map, hcell, flatMap_range_eight, show 8 * (len / 8) = len by omega]

theorem bytes_bytes {k : Core} {y : Side} {a len : Nat} (hkind : y.kind ≠ 3) :
    (upto len a).map (k.bufByte y.buf) = k.rowBytes y a len := by
  unfold upto Core.rowBytes
  rw [List.map_map]
  refine List.map_congr_left fun i _ => ?_
  unfold Core.rowByte
  rw [if_neg hkind, Nat.add_comm a i]
  rfl

/-- The units of a row: cells of CBUF, bytes of the others. -/
def Side.units (y : Side) (len : Nat) : Nat := if y.kind = 3 then len / 8 else len

section Row

variable {w : Work} {c hb bb nb : Nat} {x : Kick} {r : CopyRec} {k : List Byte → Work → RowEnd}
  (hkind : (srcSide r).kind ≠ 0) (hs : w.kickSpace c x (srcSide r).buf = some (hb, bb, nb))

include hkind hs

theorem rowRead_outside (hout : (srcSide r).inAllot x.row (crLen r) nb = none) :
    w.rowRead c x r k = .error w x 3 := by
  unfold Work.rowRead
  dsimp only
  rw [if_neg hkind, hs]
  dsimp only
  rw [hout]

variable {ob : Nat} (hin : (srcSide r).inAllot x.row (crLen r) nb = some ob)

include hin

theorem rowRead_upset {row : Nat} (hup : (w.core hb).upsetRow (4 + (srcSide r).buf)
    (upto ((srcSide r).units (crLen r)) (bb + ob)) = some row) :
    w.rowRead c x r k = .error (w.logError (4 + (srcSide r).buf) true hb row 0) x 5 := by
  unfold Side.units at hup
  unfold Work.rowRead
  dsimp only
  rw [if_neg hkind, hs]
  dsimp only
  rw [hin]
  dsimp only
  rw [hup]

theorem rowRead_gives (hclean : (w.core hb).upset = [])
    (hlen : (srcSide r).kind = 3 → crLen r % 8 = 0) :
    w.rowRead c x r k = k ((w.core hb).rowBytes (srcSide r) (bb + ob) (crLen r)) w := by
  unfold Work.rowRead
  dsimp only
  rw [if_neg hkind, hs]
  dsimp only
  rw [hin]
  dsimp only
  rw [upsetRow_clean hclean]
  dsimp only
  split
  · next e => rw [cells_bytes e (hlen e)]
  · next e => rw [bytes_bytes e]

end Row

/-! ## A row of the destination -/

/-- A core that takes bytes into a byte buffer, but for those that a test picks. -/
def Core.takesBytes (k : Core) (buf a : Nat) (skip : Nat → Bool) (data : List Byte) : Core :=
  (data.mapIdx fun i b => (a + i, b)).foldl (fun m e =>
    if skip e.1 then m else m.setBufByte buf e.1 e.2) k

/-- A core that takes bytes into CBUF. -/
def Core.takesCells (k : Core) (a : Nat) (data : List Byte) : Core :=
  (elements 8 data).foldl (fun m e => m.setCell (a + e.1 / 8) (BitVec.ofNat 40 e.2)) k

theorem bufByte_takesBytes (k : Core) (buf a n j : Nat) (skip : Nat → Bool) (f : Nat → Byte) :
    (k.takesBytes buf a skip ((List.range n).map f)).bufByte buf j =
      if a ≤ j ∧ j < a + n ∧ skip j = false then f (j - a) else k.bufByte buf j := by
  unfold Core.takesBytes
  rw [mapIdx_map_range, List.foldl_map]
  by_cases hj : a ≤ j ∧ skip j = false
  · obtain ⟨ha, hskip⟩ := hj
    refine (foldl_written (get := fun k : Core => k.bufByte buf j) (hit := fun i => a + i = j)
      (val := f) (i := j - a) (fun k i => ?_) (by omega) (fun i _ hi => by omega) k).trans ?_
    · by_cases hi : a + i = j
      · simp [hi, hskip, bufByte_setBufByte]
      · have hi' : ¬j = a + i := fun e => hi e.symm
        rw [if_neg hi]
        split
        · rfl
        · rw [bufByte_setBufByte, if_neg hi']
    · have hiff : j - a ∈ List.range n ↔ a ≤ j ∧ j < a + n ∧ skip j = false := by
        simp only [List.mem_range, ha, hskip, true_and, and_true]
        omega
      simp only [hiff]
  · rw [if_neg fun h => hj ⟨h.1, h.2.2⟩]
    refine foldl_unwritten (get := fun k : Core => k.bufByte buf j) (fun k i _ => ?_) k
    by_cases hs : skip (a + i) = true
    · simp [hs]
    · have hi : ¬j = a + i := fun e => hj ⟨by omega, by simpa [e] using hs⟩
      simp only [hs, Bool.false_eq_true, if_false, bufByte_setBufByte, if_neg hi]

theorem cell_setCell (k : Core) (a j : Nat) (v : Cell40) :
    (k.setCell a v).cell j = if j = a then v else k.cell j := tget_tput _ _ _ _ _

theorem cell_takesCells (k : Core) (a m j : Nat) (f : Nat → Byte) :
    (k.takesCells a ((List.range (8 * m)).map f)).cell j =
      if a ≤ j ∧ j < a + m then
        BitVec.ofNat 40 ((List.range 8).map fun i => (f (8 * (j - a) + i)).toNat * 256 ^ i).sum
      else k.cell j := by
  unfold Core.takesCells
  rw [elements_map_range 8 m f (by decide), List.foldl_map]
  simp only [Nat.mul_div_cancel_left _ (show 0 < 8 by decide)]
  by_cases ha : a ≤ j
  · refine (foldl_written (get := fun k : Core => k.cell j) (hit := fun i => a + i = j)
      (val := fun i => BitVec.ofNat 40 ((List.range 8).map fun q => (f (8 * i + q)).toNat * 256 ^ q).sum)
      (i := j - a) (fun k i => ?_) (by omega) (fun i _ hi => by omega) k).trans ?_
    · rw [cell_setCell]
      by_cases hi : a + i = j
      · rw [if_pos hi, if_pos hi.symm]
      · rw [if_neg hi, if_neg fun e => hi e.symm]
    · have hiff : j - a ∈ List.range m ↔ a ≤ j ∧ j < a + m := by
        rw [List.mem_range]
        omega
      simp only [hiff]
  · rw [if_neg fun h => ha h.1]
    refine foldl_unwritten (get := fun k : Core => k.cell j) (fun k i _ => ?_) k
    rw [cell_setCell, if_neg (by omega)]

/-- A byte buffer other than the one that is written. -/
theorem bufByte_setBufByte_other {k : Core} {buf other a j : Nat} {b : Byte} (hb : buf < 2)
    (ho : other ≠ buf) : (k.setBufByte buf a b).bufByte other j = k.bufByte other j := by
  unfold Core.setBufByte Core.bufByte
  match buf, other with
  | 0, 0 => exact absurd rfl ho
  | 1, 1 => exact absurd rfl ho
  | 0, 1 => rfl
  | 1, 0 => rfl
  | 0, n + 2 => rfl
  | 1, n + 2 => rfl

theorem bufByte_takesBytes_other {k : Core} {buf other a j : Nat} {skip : Nat → Bool}
    {data : List Byte} (hb : buf < 2) (ho : other ≠ buf) :
    (k.takesBytes buf a skip data).bufByte other j = k.bufByte other j := by
  unfold Core.takesBytes
  refine foldl_unwritten (get := fun k : Core => k.bufByte other j) (fun k e _ => ?_) k
  split
  · rfl
  · exact bufByte_setBufByte_other hb ho

theorem bufByte_takesCells (k : Core) (a buf j : Nat) (data : List Byte) :
    (k.takesCells a data).bufByte buf j = k.bufByte buf j := by
  unfold Core.takesCells
  refine foldl_unwritten (get := fun k : Core => k.bufByte buf j) (fun k e _ => ?_) k
  rfl

/-- A core that takes a row. -/
def Core.takesRow (k : Core) (y : Side) (a : Nat) (ring : Nat → Bool) (data : List Byte) : Core :=
  if y.kind = 3 then k.takesCells a data
  else k.takesBytes y.buf a (fun j => decide (y.kind = 4) && ring j) data

section Row

variable {w : Work} {c hb bb nb : Nat} {x : Kick} {r : CopyRec} {data : List Byte}
  (hkind : (dstSide r).kind ≠ 0) (hs : w.kickSpace c x (dstSide r).buf = some (hb, bb, nb))

include hkind hs

theorem rowWrite_outside (hout : (dstSide r).inAllot x.row (crLen r) nb = none) :
    w.rowWrite c x r data = .error w x 3 := by
  unfold Work.rowWrite
  dsimp only
  rw [if_neg hkind, hs]
  dsimp only
  rw [hout]

theorem rowWrite_takes {ob : Nat} (hin : (dstSide r).inAllot x.row (crLen r) nb = some ob) :
    w.rowWrite c x r data =
      .ok (w.modCore hb fun m => m.takesRow (dstSide r) (bb + ob) (w.ringByte hb) data) x := by
  unfold Work.rowWrite Core.takesRow
  dsimp only
  rw [if_neg hkind, hs]
  dsimp only
  rw [hin]
  dsimp only
  split
  · rfl
  · rfl

end Row

/-! ## The rows of a record -/

section Rows

variable {w : Work} {c : Nat} {x : Kick} {r : CopyRec}

theorem copyRows_error {v : Work} {y : Kick} {code : Nat}
    (h : (w.rowRead c x r fun data w => w.rowWrite c x r data) = .error v y code) :
    w.copyRows c x r (crRows r) = .error v y code := by
  have hrow : w.copyRow c x r = .error v y code := by
    unfold Work.copyRow
    rw [h]
  unfold crRows
  rw [Work.copyRows, hrow]

theorem copyRows_wait {v : Work} {y : Kick}
    (h : (w.rowRead c x r fun data w => w.rowWrite c x r data) = .wait v y) :
    w.copyRows c x r (crRows r) = .wait v y := by
  have hrow : w.copyRow c x r = .wait v y := by
    unfold Work.copyRow
    rw [h]
  unfold crRows
  rw [Work.copyRows, hrow]

/-- The allowance that a row of the engine costs. -/
def rowCost (x : Kick) (r : CopyRec) : Nat :=
  ((x.row + 1) * crLen r + 127) / 128 - (x.row * crLen r + 127) / 128

/-- A kick with another row done. -/
def Kick.nextRow (x : Kick) : Kick := { x with row := x.row + 1 }

theorem copyRows_one {v : Work} {y : Kick} (hone : crRows r = 1)
    (h : (w.rowRead c x r fun data w => w.rowWrite c x r data) = .ok v y) :
    w.copyRows c x r (crRows r) = .ok (v.debits c (rowCost y r) 200) y.nextRow := by
  have hrow : w.copyRow c x r = .ok (v.debits c (rowCost y r) 200) y.nextRow := by
    unfold Work.copyRow
    rw [h]
    rfl
  rw [hone, Work.copyRows, hrow]
  rfl

end Rows

end Sys2Proof.Machine
end

section
/-!
PROOFS. The copy engine (R29, R233 to R236).
-/

namespace Sys2Proof.Machine

open Sys2Proof.Claim

/-- What a record that is not malformed keeps to (R234). -/
structure WellFormed (r : CopyRec) : Prop where
  src : (srcSide r).kind < 5
  dst : (dstSide r).kind < 5
  len : crLen r ≠ 0
  cells : (srcSide r).kind = 3 ∨ (dstSide r).kind = 3 → crLen r % 8 = 0

theorem wellFormed_of {r : CopyRec} {ord : Bool} (h : crMalformed r ord = false) : WellFormed r := by
  unfold crMalformed at h
  simp only [Bool.or_eq_false_iff, decide_eq_false_iff_not, Nat.not_le] at h
  obtain ⟨⟨⟨⟨⟨⟨-, hs⟩, hd⟩, -⟩, hlen⟩, hcells⟩, -⟩ := h
  refine ⟨hs, hd, hlen, fun hk => ?_⟩
  by_contra hno
  rw [show ((decide ((srcSide r).kind = 3) || decide ((dstSide r).kind = 3)) &&
    decide (crLen r % 8 ≠ 0)) = true by simpa using ⟨hk, hno⟩] at hcells
  exact Bool.noConfusion hcells

/-! ## A record ends -/

/-- A machine whose copy engine has no kick. -/
def Work.stopsKick (w : Work) (c : Nat) : Work := w.modCore c fun k => { k with copying := none }

/-- The later records of a kick are abandoned. -/
def Work.abandons (w : Work) (c : Nat) (x : Kick) (rest : List CopyRec) : Work :=
  rest.foldl (fun w r => w.countDown c x r 6) w

theorem copyFail_eq {x : Kick} {r : CopyRec} {rest : List CopyRec} (h : x.recs = r :: rest) (w : Work)
    (c code : Nat) :
    w.copyFail c x code = ((w.countDown c x r code).abandons c x rest).stopsKick c := by
  unfold Work.copyFail
  rw [h]
  rfl

theorem lookups_abandons (w : Work) (c : Nat) (x : Kick) (rest : List CopyRec) :
    (w.abandons c x rest).lookups = w.lookups :=
  foldl_unwritten (get := Work.lookups) (fun w r _ => lookups_countDown w c x r 6) w

theorem bufByte_stopsKick (w : Work) (c d buf j : Nat) :
    ((w.stopsKick c).core d).bufByte buf j = (w.core d).bufByte buf j := by
  unfold Work.stopsKick
  rw [core_modCore]
  split
  · next e => rw [e]; rfl
  · rfl

theorem copying_stopsKick (w : Work) (c : Nat) : ((w.stopsKick c).core c).copying = none := by
  unfold Work.stopsKick
  rw [core_modCore, if_pos rfl]

section Ends

variable {s : State} {c ho so no : Nat} {x z : Kick} {r : CopyRec} {rest : List CopyRec} {v : Work}
  {code : Nat}

/-- The object of a record holds an error code. -/
def Coded (s t : State) (ho so : Nat) (y : CopyRec) (code : Nat) : Prop :=
  (∀ i < 8, s.work.ringByte ho (so + crObj y + i) = false) →
    (t.work.core ho).bufNum 3 (so + crObj y) 8 =
      (if (s.work.core ho).bufNum 3 (so + crObj y) 8 / 2 ^ 40 % 256 = 0 then code
        else (s.work.core ho).bufNum 3 (so + crObj y) 8 / 2 ^ 40 % 256) * 2 ^ 40 +
      (s.work.core ho).bufNum 3 (so + crObj y) 8 / 2 ^ 48 * 2 ^ 48

/-- A record ends with an error, and the record after it is abandoned. -/
def ErrorEnds (s : State) (c ho so : Nat) (r : CopyRec) (rest : List CopyRec) (code : Nat) : Prop :=
  ∃ t, exec (.copyRecordDone c) s = .next t ∧ t.mem = s.mem ∧ (t.work.core c).copying = none ∧
    (rest = [] → Coded s t ho so r code) ∧
    ∀ y, rest = [y] → crObj r + 8 ≤ crObj y ∨ crObj y + 8 ≤ crObj r →
      Coded s t ho so r code ∧ Coded s t ho so y 6

/-- The machine `v` holds the same object as the state. -/
def SameWord (s : State) (v : Work) (ho so : Nat) (y : CopyRec) : Prop :=
  (v.core ho).bufNum 3 (so + crObj y) 8 = (s.work.core ho).bufNum 3 (so + crObj y) 8

theorem coded_countDown (hlook : v.lookups = s.work.lookups)
    (hspace : s.work.kickSpace c z 3 = some (ho, so, no)) (hsame : SameWord s v ho so r)
    (hcode : code ≠ 0) (hsmall : code < 256) {u : Work}
    (hu : (u.core ho).bufNum 3 (so + crObj r) 8 =
      ((v.countDown c z r code).core ho).bufNum 3 (so + crObj r) 8) :
    Coded s (commit s (u.stopsKick c)) ho so r code := by
  intro hfree
  have hspace' : v.kickSpace c z 3 = some (ho, so, no) := (kickSpace_of_lookups hlook _ _ _).trans hspace
  have hstop : ((u.stopsKick c).core ho).bufNum 3 (so + crObj r) 8 =
      (u.core ho).bufNum 3 (so + crObj r) 8 := bufNum_congr fun _ _ => bufByte_stopsKick _ _ _ _ _
  show ((u.stopsKick c).core ho).bufNum 3 (so + crObj r) 8 = _
  rw [hstop, hu, word_countDown hspace' (by rw [ringByte_of_lookups hlook]; exact hfree) hsmall, hsame,
    countedWord_code hcode]

/-- R236: a record fails. -/
theorem errorEnds (he : exec (.copyRecordDone c) s = .next (commit s (v.copyFail c z code)))
    (hrecs : z.recs = r :: rest) (hspace : s.work.kickSpace c z 3 = some (ho, so, no))
    (hlook : v.lookups = s.work.lookups) (hcode : code ≠ 0) (hsmall : code < 256)
    (hsame : SameWord s v ho so r) (hnext : ∀ y, rest = [y] → SameWord s v ho so y) :
    ErrorEnds s c ho so r rest code := by
  obtain ⟨u, hu⟩ : ∃ u, u = v.countDown c z r code := ⟨_, rfl⟩
  have hulook : u.lookups = s.work.lookups := hu ▸ (lookups_countDown _ _ _ _ _).trans hlook
  have hspace' : v.kickSpace c z 3 = some (ho, so, no) := (kickSpace_of_lookups hlook _ _ _).trans hspace
  have huspace : u.kickSpace c z 3 = some (ho, so, no) :=
    (kickSpace_of_lookups hulook _ _ _).trans hspace
  rw [copyFail_eq hrecs, ← hu] at he
  have hlog : ((u.abandons c z rest).stopsKick c).log = [] :=
    log_of_lookups ((lookups_modCore _ _ _).trans ((lookups_abandons _ _ _ _).trans hulook))
  refine ⟨_, he, commit_mem _ _ hlog, copying_stopsKick _ _, fun hrest => ?_, fun y hrest hapart => ?_⟩
  · subst hrest
    exact coded_countDown hlook hspace hsame hcode hsmall (by rw [← hu]; rfl)
  · subst hrest
    have hone : u.abandons c z [y] = u.countDown c z y 6 := rfl
    rw [hone]
    constructor
    · refine coded_countDown hlook hspace hsame hcode hsmall ?_
      rw [← hu, word_countDown_apart huspace hapart.symm]
    · refine coded_countDown hulook hspace ?_ (by decide) (by decide) rfl
      show (u.core ho).bufNum 3 (so + crObj y) 8 = _
      rw [hu, word_countDown_apart hspace' hapart]
      exact hnext y rfl

/-! ## A record completes -/

/-- The kick for the next record, where there is one. -/
def Kick.following (x : Kick) : Option Kick :=
  match x.recs with
  | _ :: r :: rest => some { x with recs := r :: rest, row := 0, pend := [] }
  | _ => none

/-- The machine whose copy engine goes on to the next record. -/
def Work.nextRecord (w : Work) (c : Nat) (x : Kick) : Work :=
  w.modCore c fun k => { k with copying := x.following }

theorem copyNext_eq {w : Work} (h : w.kickHeld z = false) (c : Nat) : w.copyNext c z = w.nextRecord c z := by
  unfold Work.copyNext Work.nextRecord
  rw [h]
  rfl

theorem nextRow_following (hrecs : x.recs = r :: rest) (hpend : x.pend = []) (hrow : x.row = 0) :
    x.nextRow.following = match (generalizing := false) rest with | [] => none | _ => some { x with recs := rest } := by
  obtain ⟨⟩ := x
  dsimp only at hrecs hpend hrow
  subst hrecs hpend hrow
  cases rest with
  | nil => rfl
  | cons y rest => rfl

theorem bufByte_nextRecord (w : Work) (c d buf j : Nat) :
    ((w.nextRecord c z).core d).bufByte buf j = (w.core d).bufByte buf j := by
  unfold Work.nextRecord
  rw [core_modCore]
  split
  · next e => rw [e]; rfl
  · rfl

theorem cell_nextRecord (w : Work) (c d j : Nat) :
    ((w.nextRecord c z).core d).cell j = (w.core d).cell j := by
  unfold Work.nextRecord
  rw [core_modCore]
  split
  · next e => rw [e]; rfl
  · rfl

theorem copying_nextRecord (w : Work) (c : Nat) : ((w.nextRecord c z).core c).copying = z.following := by
  unfold Work.nextRecord
  rw [core_modCore, if_pos rfl]

/-- The buffers that an object does not lie in. -/
theorem bufByte_countDown_other (w : Work) (c : Nat) (z : Kick) (r : CopyRec) (code d j : Nat) {buf : Nat}
    (hb : buf < 2) :
    ((w.countDown c z r code).core d).bufByte buf j = (w.core d).bufByte buf j := by
  have h := core_countDown_offObject w c z r code d
  unfold Core.bufByte
  match buf with
  | 0 => exact congrArg (tget 0 j) (congrArg Core.wbuf h :)
  | 1 => exact congrArg (tget 0 j) (congrArg Core.abuf h :)

theorem cell_countDown (w : Work) (c : Nat) (z : Kick) (r : CopyRec) (code d j : Nat) :
    ((w.countDown c z r code).core d).cell j = (w.core d).cell j :=
  congrArg (tget 0 j) (congrArg Core.cbuf (core_countDown_offObject w c z r code d) :)

/-! ## The outcomes of the present record -/

variable (h : AtRecord s c x r rest) (hspace : s.work.kickSpace c x 3 = some (ho, so, no))

include h

theorem opens_none (w : Work) : w.opens c x = false := by
  unfold Work.opens
  rw [h.pend]
  rfl

theorem exec_rowError (hwell : crMalformed r x.ord = false)
    (herr : (s.work.rowRead c x r fun data w => w.rowWrite c x r data) = .error v x code) :
    exec (.copyRecordDone c) s = .next (commit s (v.copyFail c x code)) := by
  rw [exec_copyRecordDone h, hwell, if_neg Bool.false_ne_true, copyRows_error herr]
  unfold Work.rowsEnded
  dsimp only
  rw [opens_none h, if_neg Bool.false_ne_true]

theorem exec_rowDone (hwell : crMalformed r x.ord = false) (hone : crRows r = 1)
    (hok : (s.work.rowRead c x r fun data w => w.rowWrite c x r data) = .ok v x) :
    exec (.copyRecordDone c) s = .next (commit s
      (if (v.debits c (rowCost x r) 200).countShort c x.nextRow r then
          (v.debits c (rowCost x r) 200).copyFail c x.nextRow 2
        else ((v.debits c (rowCost x r) 200).countDown c x.nextRow r 0).copyNext c x.nextRow)) := by
  obtain ⟨u, hu⟩ : ∃ u, u = v.debits c (rowCost x r) 200 := ⟨_, rfl⟩
  rw [exec_copyRecordDone h, hwell, if_neg Bool.false_ne_true, copyRows_one hone hok, ← hu]
  unfold Work.rowsEnded
  dsimp only
  rw [show u.opens c x.nextRow = false from opens_none h u, if_neg Bool.false_ne_true]

include hspace

/-- R234, R236: a malformed record. -/
theorem malformed_ends (hbad : crMalformed r x.ord = true) : ErrorEnds s c ho so r rest 4 := by
  have he := exec_copyRecordDone h
  rw [hbad, if_pos rfl] at he
  exact errorEnds he h.recs hspace rfl (by decide) (by decide) rfl fun _ _ => rfl

/-- R57, R236: a row outside its allotment, or one that cannot be read. -/
theorem rowError_ends (hwell : crMalformed r x.ord = false) (hcode : code ≠ 0) (hsmall : code < 256)
    (hlook : v.lookups = s.work.lookups) (hcores : ∀ d, v.core d = s.work.core d)
    (herr : (s.work.rowRead c x r fun data w => w.rowWrite c x r data) = .error v x code) :
    ErrorEnds s c ho so r rest code := by
  have hsame : ∀ y, SameWord s v ho so y := fun y =>
    congrArg (fun k : Core => k.bufNum 3 (so + crObj y) 8) (hcores ho)
  exact errorEnds (exec_rowError h hwell herr) h.recs hspace hlook hcode hsmall (hsame r)
    fun y _ => hsame y

end Ends

end Sys2Proof.Machine
end

section
/-!
PROOFS. A record of one row between buffers (R29, R234 to R236), and the statement of the copy engine.
-/

namespace Sys2Proof.Machine

open Sys2Proof.Claim

/-! ## What a row leaves in a core -/

section Takes

variable {k : Core} {y : Side} {a len j : Nat} {ring : Nat → Bool} {f : Nat → Byte}

theorem bufByte_takesRow (hkind : y.kind ≠ 3) :
    (k.takesRow y a ring ((List.range len).map f)).bufByte y.buf j =
      if a ≤ j ∧ j < a + len ∧ ¬(y.kind = 4 ∧ ring j = true) then f (j - a) else k.bufByte y.buf j := by
  have hskip : (decide (y.kind = 4) && ring j) = false ↔ ¬(y.kind = 4 ∧ ring j = true) := by
    simp
  unfold Core.takesRow
  rw [if_neg hkind, bufByte_takesBytes]
  simp only [hskip]

theorem cell_takesRow (hkind : y.kind = 3) (hlen : len % 8 = 0) :
    (k.takesRow y a ring ((List.range len).map f)).cell j =
      if a ≤ j ∧ j < a + len / 8 then
        BitVec.ofNat 40 ((List.range 8).map fun i => (f (8 * (j - a) + i)).toNat * 256 ^ i).sum
      else k.cell j := by
  have hm : List.range len = List.range (8 * (len / 8)) := congrArg List.range (by omega)
  unfold Core.takesRow
  rw [if_pos hkind, hm, cell_takesCells]

/-- A row of another buffer leaves SBUF alone. -/
theorem sbuf_takesRow {data : List Byte} (_hzero : y.kind ≠ 0) (hkind : y.kind < 4) :
    (k.takesRow y a ring data).bufByte 3 j = k.bufByte 3 j := by
  unfold Core.takesRow
  split
  · exact bufByte_takesCells _ _ _ _ _
  · next e =>
    have hbuf : y.buf < 2 := by unfold Side.buf; omega
    exact bufByte_takesBytes_other hbuf (by omega)

/-- A row of SBUF leaves the bytes outside it alone. -/
theorem sbuf_takesRow_apart (hkind : y.kind = 4) (hj : j < a ∨ a + len ≤ j) :
    (k.takesRow y a ring ((List.range len).map f)).bufByte 3 j = k.bufByte 3 j := by
  have hbuf : y.buf = 3 := by unfold Side.buf; omega
  have h := bufByte_takesRow (k := k) (y := y) (a := a) (len := len) (j := j) (ring := ring) (f := f)
    (by omega)
  rwa [if_neg (by omega), hbuf] at h

end Takes

section Row

variable {s : State} {c ho so no hs bs ns os hd bd nd od : Nat} {x : Kick} {r : CopyRec}
  {rest : List CopyRec}

/-- A record whose row is read from a buffer. -/
structure FromBuffer (s : State) (c : Nat) (x : Kick) (r : CopyRec) (hs bs ns os : Nat) : Prop where
  kind : (srcSide r).kind ≠ 0
  space : s.work.kickSpace c x (srcSide r).buf = some (hs, bs, ns)
  inAllot : (srcSide r).inAllot 0 (crLen r) ns = some os

/-- A record whose row is written to a buffer. -/
structure ToBuffer (s : State) (c : Nat) (x : Kick) (r : CopyRec) (hd bd nd od : Nat) : Prop where
  kind : (dstSide r).kind ≠ 0
  space : s.work.kickSpace c x (dstSide r).buf = some (hd, bd, nd)
  inAllot : (dstSide r).inAllot 0 (crLen r) nd = some od

/-- The machine when the row has been moved, and paid for. -/
def Work.movedRow (w : Work) (c : Nat) (x : Kick) (r : CopyRec) (hd a : Nat) (data : List Byte) : Work :=
  (w.modCore hd fun m => m.takesRow (dstSide r) a (w.ringByte hd) data).debits c (rowCost x r) 200

theorem lookups_movedRow (w : Work) (c : Nat) (x : Kick) (r : CopyRec) (hd a : Nat) (data : List Byte) :
    (w.movedRow c x r hd a data).lookups = w.lookups :=
  (lookups_debits _ _ _ _).trans (lookups_modCore _ _ _)

theorem core_movedRow (w : Work) (c : Nat) (x : Kick) (r : CopyRec) (hd a d : Nat) (data : List Byte) :
    (w.movedRow c x r hd a data).core d =
      if d = hd then (w.core hd).takesRow (dstSide r) a (w.ringByte hd) data else w.core d := by
  unfold Work.movedRow
  rw [core_debits, core_modCore]

/-- A row for another buffer than SBUF leaves every object alone. -/
theorem sameWord_movedRow (ht : ToBuffer s c x r hd bd nd od) (hk : (dstSide r).kind < 4)
    (data : List Byte) (y : CopyRec) :
    SameWord s (s.work.movedRow c x r hd (bd + od) data) ho so y := by
  refine bufNum_congr fun i _ => ?_
  rw [core_movedRow]
  split
  · next e => rw [sbuf_takesRow ht.kind hk, e]
  · rfl

/-- A row leaves an object outside it alone. -/
theorem sameWord_movedRow_apart (ht : ToBuffer s c x r hd bd nd od) (hw : WellFormed r) (f : Nat → Byte)
    (hapart : (dstSide r).kind = 4 → hd = ho →
      so + crObj r + 8 ≤ bd + od ∨ bd + od + crLen r ≤ so + crObj r) :
    SameWord s (s.work.movedRow c x r hd (bd + od) ((List.range (crLen r)).map f)) ho so r := by
  have hdst := hw.dst
  by_cases hk : (dstSide r).kind = 4
  · refine bufNum_congr fun i hi => ?_
    rw [core_movedRow]
    split
    · next e =>
      have hout := hapart hk e.symm
      rw [sbuf_takesRow_apart hk (by omega), e]
    · rfl
  · exact sameWord_movedRow ht (by omega) _ _

variable (h : AtRecord s c x r rest) (hwell : crMalformed r x.ord = false)

section Read

variable (hf : FromBuffer s c x r hs bs ns os)

include h hf

theorem inAllot_src : (srcSide r).inAllot x.row (crLen r) ns = some os := by
  rw [h.row]
  exact hf.inAllot

include hwell

theorem rowRead_buffer (hclean : (s.work.core hs).upset = []) (k : List Byte → Work → RowEnd) :
    s.work.rowRead c x r k = k ((s.work.core hs).rowBytes (srcSide r) (bs + os) (crLen r)) s.work :=
  rowRead_gives hf.kind hf.space (inAllot_src h hf) hclean fun e => (wellFormed_of hwell).cells (.inl e)

variable (hspace : s.work.kickSpace c x 3 = some (ho, so, no))

include hspace

/-- R62, R236: a row that holds an uncorrectable error. -/
theorem upset_ends (hup : ((s.work.core hs).upsetRow (4 + (srcSide r).buf)
      (upto ((srcSide r).units (crLen r)) (bs + os))).isSome = true) :
    ErrorEnds s c ho so r rest 5 := by
  obtain ⟨row, hrow⟩ := Option.isSome_iff_exists.mp hup
  exact rowError_ends h hspace hwell (by decide) (by decide) (lookups_logError _ _ _ _ _ _)
    (core_logError _ _ _ _ _ _) (rowRead_upset hf.kind hf.space (inAllot_src h hf) hrow)

/-- R57, R236: a row that would be written outside its allotment. -/
theorem writeOutside_ends (hclean : (s.work.core hs).upset = []) (hk : (dstSide r).kind ≠ 0)
    (hto : s.work.kickSpace c x (dstSide r).buf = some (hd, bd, nd))
    (hout : (dstSide r).inAllot 0 (crLen r) nd = none) : ErrorEnds s c ho so r rest 3 := by
  have herr : (s.work.rowRead c x r fun data w => w.rowWrite c x r data) = .error s.work x 3 := by
    rw [rowRead_buffer h hwell hf hclean, rowWrite_outside hk hto (by rw [h.row]; exact hout)]
  exact rowError_ends h hspace hwell (by decide) (by decide) rfl (fun _ => rfl) herr

end Read

/-- A record of one row moves from buffer to buffer. -/
structure Moves (s : State) (c : Nat) (x : Kick) (r : CopyRec) (hs bs ns os hd bd nd od : Nat) : Prop where
  src : FromBuffer s c x r hs bs ns os
  dst : ToBuffer s c x r hd bd nd od
  clean : (s.work.core hs).upset = []
  one : crRows r = 1

/-- The bytes that are moved. -/
def movedBytes (s : State) (r : CopyRec) (hs a : Nat) : Nat → Byte :=
  (s.work.core hs).rowByte (srcSide r).kind (srcSide r).buf a

/-- The machine when the row of a record has been moved. -/
def State.moved (s : State) (c : Nat) (x : Kick) (r : CopyRec) (hs bs os hd bd od : Nat) : Work :=
  s.work.movedRow c x r hd (bd + od) ((List.range (crLen r)).map (movedBytes s r hs (bs + os)))

theorem lookups_moved (s : State) (c : Nat) (x : Kick) (r : CopyRec) (hs bs os hd bd od : Nat) :
    (s.moved c x r hs bs os hd bd od).lookups = s.work.lookups := lookups_movedRow _ _ _ _ _ _ _

variable (hm : Moves s c x r hs bs ns os hd bd nd od)
  (hspace : s.work.kickSpace c x 3 = some (ho, so, no))
  (hapart : (dstSide r).kind = 4 → hd = ho →
    so + crObj r + 8 ≤ bd + od ∨ bd + od + crLen r ≤ so + crObj r)

include hm in
theorem sameWord_moved (hw : WellFormed r)
    (hapart : (dstSide r).kind = 4 → hd = ho →
      so + crObj r + 8 ≤ bd + od ∨ bd + od + crLen r ≤ so + crObj r) :
    SameWord s (s.moved c x r hs bs os hd bd od) ho so r :=
  sameWord_movedRow_apart hm.dst hw _ hapart

include hspace in
theorem space_moved : (s.moved c x r hs bs os hd bd od).kickSpace c x.nextRow 3 = some (ho, so, no) :=
  (kickSpace_of_lookups (lookups_moved _ _ _ _ _ _ _ _ _ _) c x.nextRow 3).trans hspace

include hm hspace in
/-- R236: the count would pass 0. -/
theorem countShort_moved (hw : WellFormed r)
    (hapart : (dstSide r).kind = 4 → hd = ho →
      so + crObj r + 8 ≤ bd + od ∨ bd + od + crLen r ≤ so + crObj r) :
    (s.moved c x r hs bs os hd bd od).countShort c x.nextRow r =
      decide ((s.work.core ho).bufNum 3 (so + crObj r) 8 % 2 ^ 40 < crLen r) := by
  have hsame := sameWord_moved (ho := ho) (so := so) hm hw hapart
  unfold SameWord at hsame
  unfold Work.countShort
  rw [space_moved hspace]
  dsimp only
  unfold Core.remain crBytes
  rw [hsame, hm.one, Nat.mul_one]

include h hwell hm

theorem exec_moved :
    exec (.copyRecordDone c) s = .next (commit s
      (if (s.moved c x r hs bs os hd bd od).countShort c x.nextRow r then
          (s.moved c x r hs bs os hd bd od).copyFail c x.nextRow 2
        else ((s.moved c x r hs bs os hd bd od).countDown c x.nextRow r 0).copyNext c x.nextRow)) := by
  refine exec_rowDone h hwell hm.one ((rowRead_buffer h hwell hm.src hm.clean _).trans ?_)
  exact rowWrite_takes hm.dst.kind hm.dst.space (by rw [h.row]; exact hm.dst.inAllot)

include hspace

/-- R236: a count that would pass 0. -/
theorem short_ends
    (hapart : (dstSide r).kind = 4 → hd = ho →
      so + crObj r + 8 ≤ bd + od ∨ bd + od + crLen r ≤ so + crObj r)
    (hshort : (s.work.core ho).bufNum 3 (so + crObj r) 8 % 2 ^ 40 < crLen r)
    (hlast : (dstSide r).kind ≠ 4 ∨ rest = []) : ErrorEnds s c ho so r rest 2 := by
  have hw := wellFormed_of hwell
  have hdst := hw.dst
  have he := exec_moved h hwell hm
  rw [countShort_moved hm hspace hw hapart, decide_eq_true hshort, if_pos rfl] at he
  refine errorEnds he h.recs hspace (lookups_moved _ _ _ _ _ _ _ _ _ _) (by decide) (by decide)
    (sameWord_moved hm hw hapart) fun y hy => ?_
  have hk : (dstSide r).kind ≠ 4 := hlast.resolve_right (by rw [hy]; exact List.cons_ne_nil _ _)
  exact sameWord_movedRow hm.dst (by omega) _ y

/-- R234, R236: the record moves its bytes, counts its object down, and the next one follows. -/
theorem record_completes (hheld : s.work.kickHeld x = false)
    (hapart : (dstSide r).kind = 4 → hd = ho →
      so + crObj r + 8 ≤ bd + od ∨ bd + od + crLen r ≤ so + crObj r)
    (henough : crLen r ≤ (s.work.core ho).bufNum 3 (so + crObj r) 8 % 2 ^ 40) :
    ∃ t, exec (.copyRecordDone c) s = .next t ∧ t.mem = s.mem ∧
      ((∀ i < 8, s.work.ringByte ho (so + crObj r + i) = false) →
        (t.work.core ho).bufNum 3 (so + crObj r) 8 =
          (s.work.core ho).bufNum 3 (so + crObj r) 8 - crLen r) ∧
      (t.work.core c).copying = (match (generalizing := false) rest with | [] => none | _ => some { x with recs := rest }) ∧
      ((dstSide r).kind ≠ 3 → ∀ j,
        ((dstSide r).kind = 4 → hd = ho → j < so + crObj r ∨ so + crObj r + 8 ≤ j) →
        (t.work.core hd).bufByte (dstSide r).buf j =
          if bd + od ≤ j ∧ j < bd + od + crLen r ∧
              ¬((dstSide r).kind = 4 ∧ s.work.ringByte hd j = true) then
            movedBytes s r hs (bs + os) (j - (bd + od))
          else (s.work.core hd).bufByte (dstSide r).buf j) ∧
      ((dstSide r).kind = 3 → ∀ j, (t.work.core hd).cell j =
        if bd + od ≤ j ∧ j < bd + od + crLen r / 8 then
          BitVec.ofNat 40 (((List.range 8).map fun i =>
            (movedBytes s r hs (bs + os) (8 * (j - (bd + od)) + i)).toNat * 256 ^ i).sum)
        else (s.work.core hd).cell j) := by
  have hw := wellFormed_of hwell
  have hdst := hw.dst
  obtain ⟨v, hv⟩ : ∃ v, v = s.moved c x r hs bs os hd bd od := ⟨_, rfl⟩
  have hlook : v.lookups = s.work.lookups := hv ▸ lookups_moved _ _ _ _ _ _ _ _ _ _
  have hvspace : v.kickSpace c x.nextRow 3 = some (ho, so, no) := hv ▸ space_moved hspace
  have hsame : SameWord s v ho so r := hv ▸ sameWord_moved hm hw hapart
  have hcore : v.core hd = (s.work.core hd).takesRow (dstSide r) (bd + od) (s.work.ringByte hd)
      ((List.range (crLen r)).map (movedBytes s r hs (bs + os))) := by
    rw [hv, State.moved, core_movedRow, if_pos rfl]
  have he := exec_moved h hwell hm
  rw [countShort_moved hm hspace hw hapart, decide_eq_false (Nat.not_lt.mpr henough),
    if_neg Bool.false_ne_true, ← hv] at he
  obtain ⟨u, hu⟩ : ∃ u, u = v.countDown c x.nextRow r 0 := ⟨_, rfl⟩
  have hulook : u.lookups = s.work.lookups := hu ▸ (lookups_countDown _ _ _ _ _).trans hlook
  have hheld' : u.kickHeld x.nextRow = false :=
    (kickHeld_of_lookups hulook x.nextRow).trans hheld
  rw [← hu, copyNext_eq hheld'] at he
  refine ⟨_, he, commit_mem _ _ (log_of_lookups ((lookups_modCore _ _ _).trans hulook)),
    fun hfree => ?_, ?_, fun hk j hj => ?_, fun hk j => ?_⟩
  · show ((u.nextRecord c x.nextRow).core ho).bufNum 3 (so + crObj r) 8 = _
    rw [bufNum_congr fun _ _ => bufByte_nextRecord _ _ _ _ _, hu,
      word_countDown hvspace (by rw [ringByte_of_lookups hlook]; exact hfree) (by decide), hsame,
      countedWord_zero (by rw [crBytes, hm.one, Nat.mul_one]; exact henough), crBytes, hm.one,
      Nat.mul_one]
  · exact (copying_nextRecord u c).trans (nextRow_following h.recs h.pend h.row)
  · show ((u.nextRecord c x.nextRow).core hd).bufByte (dstSide r).buf j = _
    have hsrc : (u.core hd).bufByte (dstSide r).buf j = (v.core hd).bufByte (dstSide r).buf j := by
      rw [hu]
      by_cases h4 : (dstSide r).kind = 4
      · rw [show (dstSide r).buf = 3 by unfold Side.buf; omega]
        exact bufByte_countDown_apart hvspace fun e => hj h4 e
      · have hzero := hm.dst.kind
        exact bufByte_countDown_other _ _ _ _ _ _ _ (by unfold Side.buf; omega)
    rw [bufByte_nextRecord, hsrc, hcore, bufByte_takesRow hk]
  · show ((u.nextRecord c x.nextRow).core hd).cell j = _
    rw [cell_nextRecord, hu, cell_countDown, hcore, cell_takesRow hk (hw.cells (.inr hk))]

end Row

/-! ## The statement -/

theorem map_range_eq_upto (n a : Nat) : (List.range n).map (a + ·) = upto n a := by
  unfold upto
  exact List.map_congr_left fun i _ => Nat.add_comm a i

theorem copyEngine : CopyEngine := by
  refine ⟨fun s c x hidle hdelay hfirst => kickStarts hidle hdelay hfirst, ?_⟩
  intro s c x r rest ho so no h1 h2 h3 h4 h5 h6 hheld h8 hspace
  have h : AtRecord s c x r rest := ⟨h1, h2, h3, h4, h5, h6, h8⟩
  refine ⟨malformed_ends h hspace, fun hwell hkind hs bs ns hfrom => ⟨fun hout => ?_, fun os hin => ?_⟩⟩
  · exact rowError_ends h hspace hwell (by decide) (by decide) rfl (fun _ => rfl)
      (rowRead_outside hkind hfrom (by rw [h6]; exact hout))
  · have hf : FromBuffer s c x r hs bs ns os := ⟨hkind, hfrom, hin⟩
    refine ⟨fun hup => upset_ends h hwell hf hspace (map_range_eq_upto _ _ ▸ hup),
      fun hclean hone _ hkd hd bd nd hto => ⟨writeOutside_ends h hwell hf hspace hclean hkd hto,
        fun od hod hapart => ?_⟩⟩
    have hm : Moves s c x r hs bs ns os hd bd nd od := ⟨hf, ⟨hkd, hto, hod⟩, hclean, hone⟩
    exact ⟨short_ends h hwell hm hspace hapart, record_completes h hwell hm hspace hheld hapart⟩

end Sys2Proof.Machine
end

section
/-!
SUPPORT. A row that a line of near memory holds (R196, R211, R334): how the engine translates it, and
what it asks for.
-/

namespace Sys2Proof.Machine

open Sys2Proof.Claim

/-! ## One line -/

theorem pageBits_line (n a b : Nat) : (a * 2 ^ pageBits n + b % 2 ^ pageBits n) % 128 = b % 128 := by
  unfold pageBits
  split <;> omega

/-- A page keeps the place of an address in its line. -/
theorem phys_line (e : TlbEnt) (va : Nat) : e.phys va % 128 = va % 128 := pageBits_line _ _ _

theorem upto_one (a : Nat) : upto 1 a = [a] := by
  unfold upto
  simp

theorem lines_one {sp : Span} (hpos : sp.len ≠ 0) (hin : sp.pa % 128 + sp.len ≤ 128) :
    sp.lines = [sp.pa / 128] := by
  unfold Span.lines
  rw [show (sp.pa + sp.len + 127) / 128 - sp.pa / 128 = 1 by omega, upto_one]

theorem rowAt_zero {y : Side} (h : y.addr < 2 ^ 52) : (y.rowAt 0 % 2 ^ 52).toNat = y.addr := by
  unfold Side.rowAt
  omega

theorem srcSide_addr (r : CopyRec) : (srcSide r).addr < 2 ^ 52 := Nat.mod_lt _ (by decide)

theorem dstSide_addr (r : CopyRec) : (dstSide r).addr < 2 ^ 52 := Nat.mod_lt _ (by decide)

/-! ## Translation (R334) -/

section Translate

variable {w : Work} {c va len : Nat} {g : Group} {acc : Acc} {ord : Bool} {e : TlbEnt}
  {tl : List (Nat × TlbEnt)}

theorem engTranslate_hit {owner : Nat} (h : tlbLook owner va (w.core c).tlb = some (e, tl)) :
    w.engTranslate c owner va = (some (.leaf e), w.tlbHit c tl) := by
  unfold Work.engTranslate
  dsimp only
  rw [translate_hit h]

/-- The span of a range that lies in one line. -/
def TlbEnt.span (e : TlbEnt) (va len : Nat) : Span := { pa := e.phys va, len, key := e.key }

theorem spansOf_line (hva : va < 2 ^ 52) (hpos : len ≠ 0) (hin : va % 128 + len ≤ 128)
    (hlook : tlbLook g.owner va (w.core c).tlb = some (e, tl)) (hperm : w.permits g e acc = true)
    (hnear : (w.place (e.phys va)).isNear = true) :
    w.spansOf c g acc ord va len = .ok (w.tlbHit c tl) [e.span va len] := by
  obtain ⟨v, hv⟩ : ∃ v, v = w.tlbHit c tl := ⟨_, rfl⟩
  have hvperm : v.permits g e acc = true :=
    (congrArg (fun w : Work => w.permits g e acc) hv).trans ((permits_tlbHit _ _ _ _ _ _).trans hperm)
  have hsmall : len / 65536 = 0 := by omega
  have hmin : min len (65536 - va % 65536) = len := by omega
  have hplace : ∃ a b d, w.place (e.phys va) = .near a b d := by
    cases hp : w.place (e.phys va) with
    | near a b d => exact ⟨a, b, d, rfl⟩
    | _ => rw [hp] at hnear; exact Bool.noConfusion hnear
  obtain ⟨a, b, d, hplace⟩ := hplace
  unfold Work.spansOf
  rw [hsmall, Work.spans, if_neg hpos]
  dsimp only
  rw [Nat.mod_eq_of_lt hva, engTranslate_hit hlook, ← hv]
  dsimp only
  rw [hplace, hvperm, hmin, Nat.sub_self]
  dsimp only
  rw [Bool.and_true, if_pos rfl, Work.spans, if_pos rfl]
  rfl

end Translate

/-! ## Reads (R196, R211) -/

/-- A request of an engine for a line. -/
def fillReq (c u launch lin tag line : Nat) (ef : Bool) (key pri op : Nat) (bytes : List Nat) : Req :=
  { core := c, slot := u, launch, lin, gidx := tag, line, ef, ms := false, eng := true
    counted := false, key, pri, op, kind := .fill false false bytes }

/-- The fill that waits for a request of an engine. -/
def engineFill (q : Req) : Fill :=
  { req := q, load := none, install := false, overlay := [], data := none, bad := false }

/-- A core with another fill on its way. -/
def Core.awaits (k : Core) (op : Nat) (f : Fill) : Core := { k with fills := tins op f k.fills }

/-- An engine asks for a line. -/
def Work.asks (w : Work) (c : Nat) (q : Nat → Req) : Work :=
  ((w.newOp c).2.modCore c fun k => k.awaits (w.core c).opSeq (engineFill (q (w.core c).opSeq))).request
    (q (w.core c).opSeq)

theorem core_request (w : Work) (q : Req) (d : Nat) : (w.request q).core d = w.core d := rfl

theorem core_asks (w : Work) (c : Nat) (q : Nat → Req) :
    (w.asks c q).core c = ({ w.core c with opSeq := (w.core c).opSeq + 1 } : Core).awaits
      (w.core c).opSeq (engineFill (q (w.core c).opSeq)) := by
  unfold Work.asks
  rw [core_request, core_modCore, if_pos rfl]
  unfold Work.newOp
  dsimp only
  rw [core_setCore_same]

/-- A line that an engine has just asked for has not come. -/
theorem engineLine_asks {w : Work} {c u line tag : Nat} (hnone : (w.core c).engineLine u line tag = none)
    (q : Nat → Req) :
    ∀ f, ((w.asks c q).core c).engineLine u line tag = some f → f.2.data = none := by
  intro f hf
  rw [core_asks] at hf
  unfold Core.engineLine at hf hnone
  have hmem := List.mem_of_find?_eq_some hf
  have hprop := List.find?_some hf
  rcases mem_tins hmem with e | hold
  · rw [e]
    rfl
  · exact absurd hprop (List.find?_eq_none.mp hnone f hold)

section Look

variable {w : Work} {c launch lin pri : Nat} {ef : Bool} {sp : Span} (hpos : sp.len ≠ 0)
  (hin : sp.pa % 128 + sp.len ≤ 128)

include hpos hin

/-- What the engine asks for, of a span in one line. -/
theorem far_one (u : Nat) (hu : packeted u = true) (w : Work) :
    (([sp].filter fun s => !w.readsHome u s).flatMap fun s => s.lines.map fun n =>
      (n, s.key, (upto s.len s.pa).filter fun a => decide (a / 128 = n))) =
        [(sp.pa / 128, sp.key, upto sp.len sp.pa)] := by
  have hhome : w.readsHome u sp = false := by
    unfold Work.readsHome
    rw [hu]
    rfl
  have hall : (upto sp.len sp.pa).filter (fun a => decide (a / 128 = sp.pa / 128)) =
      upto sp.len sp.pa := by
    rw [List.filter_eq_self]
    intro a ha
    unfold upto at ha
    obtain ⟨i, hi, rfl⟩ := List.mem_map.mp ha
    have hi := List.mem_range.mp hi
    exact decide_eq_true (by omega)
  rw [List.filter_cons_of_pos (by rw [hhome]; rfl), List.filter_nil, List.flatMap_singleton,
    lines_one hpos hin, List.map_singleton, hall]

/-- The engine asks for a line that it does not have. -/
theorem engineLook_asks (hnone : (w.core c).engineLine 64 (sp.pa / 128) = none) :
    w.engineLook c 64 launch lin pri ef [sp] =
      (w.asks c fun op => fillReq c 64 launch lin 0 (sp.pa / 128) ef sp.key pri op (upto sp.len sp.pa),
        none) := by
  obtain ⟨q, hq⟩ : ∃ q : Nat → Req, q = fun op =>
    fillReq c 64 launch lin 0 (sp.pa / 128) ef sp.key pri op (upto sp.len sp.pa) := ⟨_, rfl⟩
  have hlate := engineLine_asks hnone q
  unfold Work.engineLook
  extract_lets home far ask asked have_ r v
  have hfar : far = [(sp.pa / 128, sp.key, upto sp.len sp.pa)] := far_one hpos hin 64 rfl w
  have hask : ask = [(sp.pa / 128, sp.key, upto sp.len sp.pa)] := by
    show far.filter _ = _
    rw [hfar, List.filter_cons_of_pos (by dsimp only; rw [hnone]; rfl), List.filter_nil]
  have hasked : asked = w.asks c q := by
    show ask.foldl _ w = _
    rw [hask, hq]
    rfl
  have hno : have_ = false := by
    show far.all _ = false
    rw [hfar, List.all_cons, List.all_nil, Bool.and_true]
    dsimp only
    rw [hasked]
    split
    · next f hf => rw [hlate f hf]; rfl
    · rfl
  rw [hno, hasked, hq]
  rfl

/-- The bytes of a span, from the data of its line. -/
def Span.bytes (sp : Span) (data : BitVec 1024) : List Byte :=
  (upto sp.len sp.pa).map fun a => getByte data (a % 128)

/-- A line that has come gives its bytes. -/
theorem engineLook_gives {id : Nat} {f : Fill} {data : BitVec 1024}
    (hsome : (w.core c).engineLine 64 (sp.pa / 128) = some (id, f)) (hdata : f.data = some data)
    (hbad : f.bad = false) :
    w.engineLook c 64 launch lin pri ef [sp] = (w, some (sp.bytes data, false)) := by
  unfold Work.engineLook
  extract_lets home far ask asked have_ r v
  have hfar : far = [(sp.pa / 128, sp.key, upto sp.len sp.pa)] := far_one hpos hin 64 rfl w
  have hask : ask = [] := by
    show far.filter _ = _
    rw [hfar, List.filter_cons_of_neg (by dsimp only; rw [hsome]; exact Bool.false_ne_true),
      List.filter_nil]
  have hasked : asked = w := by
    show ask.foldl _ w = _
    rw [hask]
    rfl
  have hyes : have_ = true := by
    show far.all _ = true
    rw [hfar, List.all_cons, List.all_nil, Bool.and_true]
    dsimp only
    rw [hasked, hsome]
    dsimp only
    rw [hdata]
    rfl
  have hhome : ∀ w, home w sp = false := fun w => rfl
  have hbytes : ((upto sp.len sp.pa).map fun a =>
      match (w.core c).engineLine 64 (a / 128) 0 with
      | some f => getByte (f.2.data.getD 0) (a % 128)
      | none => 0) = sp.bytes data := by
    refine List.map_congr_left fun a ha => ?_
    unfold upto at ha
    obtain ⟨i, hi, rfl⟩ := List.mem_map.mp ha
    have hi := List.mem_range.mp hi
    rw [show (i + sp.pa) / 128 = sp.pa / 128 by omega, hsome]
    dsimp only
    rw [hdata]
    rfl
  have hnobad : (sp.lines.any fun n =>
      match (w.core c).engineLine 64 n 0 with
      | some f => f.2.bad
      | none => false) = false := by
    rw [lines_one hpos hin, List.any_cons, List.any_nil, Bool.or_false, hsome]
    exact hbad
  have hr : r = (w, sp.bytes data, false) := by
    show [sp].foldl _ (asked, [], false) = _
    rw [hasked, List.foldl_cons, List.foldl_nil]
    dsimp only
    rw [hhome, if_neg Bool.false_ne_true]
    exact Prod.ext rfl (Prod.ext hbytes hnobad)
  have hv : v = w := congrArg Prod.fst hr
  rw [hyes, hr, hv]
  rfl

end Look

end Sys2Proof.Machine
end

section
/-!
PROOFS. A row that is read from a line of near memory (R196, R211, R234).
-/

namespace Sys2Proof.Machine

open Sys2Proof.Claim

/-! ## What is sent -/

theorem net_request (w : Work) (q : Req) :
    ∃ p ∈ ((w.request q).die (Config.dieOf q.core)).net, p.msg = .req q := by
  unfold Work.request
  dsimp only
  unfold Work.send Work.modDie
  rw [die_setDie, if_pos rfl]
  exact ⟨_, List.mem_append_right _ (List.mem_singleton_self _), rfl⟩

/-- A request that has been sent is on its way whatever happens at the cores. -/
theorem sent_of_request {s : State} {v w : Work} {c : Nat} {q : Req}
    (hd : ∀ d, v.die d = (w.request q).die d) (hc : q.core = c) : Sent (commit s v) c q := by
  obtain ⟨p, hp, hm⟩ := net_request w q
  subst hc
  refine ⟨p, ?_, hm⟩
  show p ∈ (v.die (Config.dieOf q.core)).net
  rw [hd]
  exact hp

theorem copying_keepsKick (w : Work) (c : Nat) (x : Kick) :
    ((w.keepsKick c x).core c).copying = some x := by
  unfold Work.keepsKick
  rw [core_modCore, if_pos rfl]

theorem engineLine_tlbHit (w : Work) (c u line : Nat) (tl : List (Nat × TlbEnt)) :
    ((w.tlbHit c tl).core c).engineLine u line = (w.core c).engineLine u line := by
  unfold Work.tlbHit
  rw [core_setCore_same]
  rfl

/-! ## A row of the source in one line -/

/-- A side of a record that one line of near memory holds, and that the engine may reach. -/
structure InLine (w : Work) (c : Nat) (x : Kick) (y : Side) (len : Nat) (acc : Acc) (e : TlbEnt)
    (tl : List (Nat × TlbEnt)) : Prop where
  found : tlbLook x.owner y.addr (w.core c).tlb = some (e, tl)
  oneLine : y.addr % 128 + len ≤ 128
  permitted : w.permits (engineGroup x.sup x.owner) e acc = true
  near : (w.place (e.phys y.addr)).isNear = true

theorem spansOf_inLine {w : Work} {c : Nat} {x : Kick} {y : Side} {len : Nat} {acc : Acc} {e : TlbEnt}
    {tl : List (Nat × TlbEnt)} (h : InLine w c x y len acc e tl) (ord : Bool) (hy : y.addr < 2 ^ 52)
    (hpos : len ≠ 0) :
    w.spansOf c (engineGroup x.sup x.owner) acc ord (y.rowAt 0 % 2 ^ 52).toNat len =
      .ok (w.tlbHit c tl) [e.span y.addr len] := by
  rw [rowAt_zero hy]
  exact spansOf_line hy hpos h.oneLine h.found h.permitted h.near

theorem span_oneLine {e : TlbEnt} {va len : Nat} (h : va % 128 + len ≤ 128) :
    (e.span va len).pa % 128 + (e.span va len).len ≤ 128 := by
  show e.phys va % 128 + len ≤ 128
  rw [phys_line]
  exact h

section Read

variable {s : State} {w : Work} {c : Nat} {x : Kick} {r : CopyRec} {rest : List CopyRec} {e : TlbEnt}
  {tl : List (Nat × TlbEnt)} {k : List Byte → Work → RowEnd}

/-- The request for the line of a row. -/
def rowFill (c : Nat) (x : Kick) (r : CopyRec) (e : TlbEnt) (op : Nat) : Req :=
  fillReq c 64 x.launch x.lin 0 (e.phys (srcSide r).addr / 128) (crEf r) e.key x.pri op
    (upto (crLen r) (e.phys (srcSide r).addr))

/-- The engine when it has used a line up. -/
def Work.usedLine (w : Work) (c : Nat) (tl : List (Nat × TlbEnt)) (p : Nat → Bool) : Work :=
  (w.tlbHit c tl).modCore c fun k => k.engineDrop 64 0 p

variable (hkind : (srcSide r).kind = 0) (hrow : x.row = 0) (hpos : crLen r ≠ 0)
  (hl : InLine w c x (srcSide r) (crLen r) .load e tl)

include hkind hrow hpos hl

theorem rowRead_asks (hnone : (w.core c).engineLine 64 (e.phys (srcSide r).addr / 128) = none) :
    w.rowRead c x r k = .wait ((w.tlbHit c tl).asks c (rowFill c x r e)) x := by
  have hlook := engineLook_asks (w := w.tlbHit c tl) (c := c) (launch := x.launch) (lin := x.lin)
    (pri := x.pri) (ef := crEf r) (sp := e.span (srcSide r).addr (crLen r)) hpos
    (span_oneLine hl.oneLine) ((engineLine_tlbHit w c 64 _ tl).trans hnone)
  unfold Work.rowRead
  dsimp only
  rw [if_pos hkind, hrow, spansOf_inLine hl false (srcSide_addr r) hpos]
  dsimp only
  unfold Work.engineRead
  rw [hlook]
  rfl

theorem rowRead_line {id : Nat} {f : Fill} {data : BitVec 1024}
    (hsome : (w.core c).engineLine 64 (e.phys (srcSide r).addr / 128) = some (id, f))
    (hdata : f.data = some data) (hbad : f.bad = false) :
    ∃ p, w.rowRead c x r k = k ((e.span (srcSide r).addr (crLen r)).bytes data) (w.usedLine c tl p) := by
  have hlook := engineLook_gives (w := w.tlbHit c tl) (c := c) (launch := x.launch) (lin := x.lin)
    (pri := x.pri) (ef := crEf r) (sp := e.span (srcSide r).addr (crLen r)) hpos
    (span_oneLine hl.oneLine) ((engineLine_tlbHit w c 64 _ tl).trans hsome) hdata hbad
  refine ⟨(([e.span (srcSide r).addr (crLen r)].filter fun y =>
    !(w.tlbHit c tl).readsHome 64 y).flatMap Span.lines).contains, ?_⟩
  unfold Work.rowRead
  dsimp only
  rw [if_pos hkind, hrow, spansOf_inLine hl false (srcSide_addr r) hpos]
  dsimp only
  unfold Work.engineRead
  rw [hlook]
  rfl

end Read

/-! ## The record waits for its line -/

section Waits

variable {s : State} {c : Nat} {x : Kick} {r : CopyRec} {rest : List CopyRec} {e : TlbEnt}
  {tl : List (Nat × TlbEnt)} (h : AtRecord s c x r rest) (hwell : crMalformed r x.ord = false)

include h hwell

/-- R211: a line that the engine does not have is asked for. -/
theorem line_asked (hkind : (srcSide r).kind = 0)
    (hl : InLine s.work c x (srcSide r) (crLen r) .load e tl)
    (hnone : (s.work.core c).engineLine 64 (e.phys (srcSide r).addr / 128) = none) :
    ∃ t, exec (.copyRecordDone c) s = .next t ∧ t.mem = s.mem ∧ ∃ q, Sent t c q ∧
      q.line = e.phys (srcSide r).addr / 128 ∧ q.key = e.key ∧
      q.kind = .fill false false ((List.range (crLen r)).map (e.phys (srcSide r).addr + ·)) ∧
      (t.work.core c).copying = some x := by
  have hpos := (wellFormed_of hwell).len
  obtain ⟨v, hv⟩ : ∃ v, v = (s.work.tlbHit c tl).asks c (rowFill c x r e) := ⟨_, rfl⟩
  have he := exec_copyRecordDone h
  rw [hwell, if_neg Bool.false_ne_true,
    copyRows_wait (rowRead_asks hkind h.row hpos hl hnone), ← hv] at he
  have hlog : (v.keepsKick c x).log = [] := by rw [hv]; rfl
  refine ⟨_, he, commit_mem _ _ hlog, rowFill c x r e ((s.work.tlbHit c tl).core c).opSeq, ?_, rfl, rfl,
    ?_, copying_keepsKick _ _ _⟩
  · refine sent_of_request (w := ((s.work.tlbHit c tl).newOp c).2.modCore c fun k =>
      k.awaits ((s.work.tlbHit c tl).core c).opSeq
        (engineFill (rowFill c x r e ((s.work.tlbHit c tl).core c).opSeq))) (fun d => ?_) rfl
    show v.die d = _
    exact congrArg (fun w : Work => w.die d) hv
  · rw [map_range_eq_upto]
    rfl

end Waits

/-! ## The record goes on with the bytes of its line -/

theorem bufByte_copyNext (w : Work) (c : Nat) (x : Kick) (d buf j : Nat) :
    ((w.copyNext c x).core d).bufByte buf j = (w.core d).bufByte buf j := by
  unfold Work.copyNext
  dsimp only
  rw [core_modCore]
  split
  · next e =>
    rw [e]
    split
    · rfl
    · rfl
  · rfl

theorem lookups_copyNext (w : Work) (c : Nat) (x : Kick) : (w.copyNext c x).lookups = w.lookups := rfl

theorem bufByte_abandons (w : Work) (c : Nat) (x : Kick) (rest : List CopyRec) (d j : Nat) {buf : Nat}
    (hb : buf < 2) : ((w.abandons c x rest).core d).bufByte buf j = (w.core d).bufByte buf j :=
  foldl_unwritten (get := fun w : Work => (w.core d).bufByte buf j)
    (fun w r _ => bufByte_countDown_other w c x r 6 d j hb) w

/-- However a record of rows ends, WBUF and ABUF stay as its rows have left them. -/
theorem rowsEnded_ok {w : Work} {c : Nat} {x : Kick} {r : CopyRec} {rest : List CopyRec}
    (hrecs : x.recs = r :: rest) (hopen : w.opens c x = false) {buf : Nat} (hb : buf < 2) :
    (Work.rowsEnded c r (.ok w x)).lookups = w.lookups ∧ ∀ d j,
      ((Work.rowsEnded c r (.ok w x)).core d).bufByte buf j = (w.core d).bufByte buf j := by
  unfold Work.rowsEnded
  dsimp only
  rw [hopen, if_neg Bool.false_ne_true]
  split
  · rw [copyFail_eq hrecs]
    refine ⟨(lookups_modCore _ _ _).trans ((lookups_abandons _ _ _ _).trans (lookups_countDown _ _ _ _ _)),
      fun d j => ?_⟩
    rw [bufByte_stopsKick, bufByte_abandons _ _ _ _ _ _ hb, bufByte_countDown_other _ _ _ _ _ _ _ hb]
  · refine ⟨(lookups_copyNext _ _ _).trans (lookups_countDown _ _ _ _ _), fun d j => ?_⟩
    rw [bufByte_copyNext, bufByte_countDown_other _ _ _ _ _ _ _ hb]

section Gives

variable {s : State} {c hb bb nb ob : Nat} {x : Kick} {r : CopyRec} {rest : List CopyRec} {e : TlbEnt}
  {tl : List (Nat × TlbEnt)}

theorem bytes_eq_map (sp : Span) (data : BitVec 1024) :
    sp.bytes data = (List.range sp.len).map fun i => getByte data ((sp.pa + i) % 128) := by
  unfold Span.bytes upto
  rw [List.map_map]
  exact List.map_congr_left fun i _ => congrArg (fun a => getByte data (a % 128)) (Nat.add_comm i sp.pa)

/-- R234: a row is moved from the line that has come. -/
theorem line_moved (h : AtRecord s c x r rest) (hwell : crMalformed r x.ord = false)
    (hone : crRows r = 1) (hkind : (srcSide r).kind = 0)
    (hl : InLine s.work c x (srcSide r) (crLen r) .load e tl) (ht : ToBuffer s c x r hb bb nb ob)
    (hk : (dstSide r).kind < 3) {id : Nat} {f : Fill} {data : BitVec 1024}
    (hsome : (s.work.core c).engineLine 64 (e.phys (srcSide r).addr / 128) = some (id, f))
    (hdata : f.data = some data) (hbad : f.bad = false) :
    ∃ t, exec (.copyRecordDone c) s = .next t ∧ t.mem = s.mem ∧ ∀ i < crLen r,
      (t.work.core hb).bufByte (dstSide r).buf (bb + ob + i) =
        getByte data ((e.phys (srcSide r).addr + i) % 128) := by
  have hzero := ht.kind
  have hbuf : (dstSide r).buf < 2 := by unfold Side.buf; omega
  obtain ⟨p, hread⟩ := rowRead_line (k := fun data w => w.rowWrite c x r data) hkind h.row
    (wellFormed_of hwell).len hl hsome hdata hbad
  obtain ⟨v, hv⟩ : ∃ v, v = s.work.usedLine c tl p := ⟨_, rfl⟩
  have hlook : v.lookups = s.work.lookups := by rw [hv]; rfl
  rw [← hv, rowWrite_takes ht.kind ((kickSpace_of_lookups hlook _ _ _).trans ht.space)
    (by rw [h.row]; exact ht.inAllot), bytes_eq_map] at hread
  obtain ⟨u, hu⟩ : ∃ u, u = v.movedRow c x r hb (bb + ob) ((List.range (crLen r)).map fun i =>
    getByte data ((e.phys (srcSide r).addr + i) % 128)) := ⟨_, rfl⟩
  have hulook : u.lookups = s.work.lookups := hu ▸ (lookups_movedRow _ _ _ _ _ _ _).trans hlook
  have hrows : s.work.copyRows c x r (crRows r) = .ok u x.nextRow := by
    rw [hu]
    exact copyRows_one hone hread
  have he := exec_copyRecordDone h
  rw [hwell, if_neg Bool.false_ne_true, hrows] at he
  obtain ⟨hend, hbytes⟩ := rowsEnded_ok (x := x.nextRow) h.recs (opens_none h u) hbuf
  refine ⟨_, he, commit_mem _ _ (log_of_lookups (hend.trans hulook)), fun i hi => ?_⟩
  refine (hbytes hb (bb + ob + i)).trans ?_
  rw [hu, core_movedRow, if_pos rfl, bufByte_takesRow (by omega), if_pos ⟨by omega, by omega, by omega⟩,
    Nat.add_sub_cancel_left]

end Gives

end Sys2Proof.Machine
end

section
/-!
PROOFS. A row that is written to a line of near memory, and an element that is accumulated there (R196,
R235), and the statement that settles O24.
-/

namespace Sys2Proof.Machine

open Sys2Proof.Claim

/-! ## The store operation of an engine -/

/-- An engine of a team writes by one request. -/
def Work.sendsStore (w : Work) (c : Nat) (g : Group) (q : Nat → Req) : Work :=
  (w.startStore c 64 g 1 []).2.request (q (w.core c).opSeq)

theorem lookups_sendsStore (w : Work) (c : Nat) (g : Group) (q : Nat → Req) :
    (w.sendsStore c g q).lookups = w.lookups := rfl

/-- The store that waits for the request of an engine. -/
def engineStore (g : Group) : StoreOp :=
  { slot := 64, launch := g.launch, lin := g.lin, gidx := g.gidx, left := 1, secs := [], ord := 0 }

theorem stores_sendsStore (w : Work) (c : Nat) (g : Group) (q : Nat → Req) :
    ((w.sendsStore c g q).core c).stores = tins (w.core c).opSeq (engineStore g) (w.core c).stores := by
  unfold Work.sendsStore
  rw [core_request]
  unfold Work.startStore
  dsimp only
  rw [core_setCore_same]
  rfl

theorem mem_stores_sendsStore (w : Work) (c : Nat) (g : Group) (q : Nat → Req) :
    ((w.core c).opSeq, engineStore g) ∈ ((w.sendsStore c g q).core c).stores := by
  rw [stores_sendsStore]
  exact mem_of_tfind (tfind_tins_same _ _ _)

/-! ## The request of a row (R196) -/

/-- The request by which an engine writes some bytes of a line. -/
def storeReq (c u launch lin line : Nat) (ef : Bool) (key pri : Nat) (cells : List Host.Cell)
    (op : Nat) : Req :=
  { core := c, slot := u, launch, lin, gidx := 0, line, ef, ms := false, eng := true
    counted := false, key, pri, op, kind := .store cells }

/-- The issuer of an engine's write. -/
def engineWriter (launch lin pri : Nat) : Group := { Group.blank with launch, lin, pri }

/-- Bytes from an address on. -/
def rowCells (pa n : Nat) (f : Nat → Byte) : List Host.Cell := (List.range n).map fun i => (pa + i, f i)

theorem spanCells_one (sp : Span) (f : Nat → Byte) :
    spanCells [sp] ((List.range sp.len).map f) = [(sp.key, rowCells sp.pa sp.len f)] := by
  have htake : ((List.range sp.len).map f).take sp.len = (List.range sp.len).map f :=
    List.take_of_length_le (by simp)
  rw [spanCells, htake, mapIdx_map_range]
  rfl

theorem line_rowCells {pa n : Nat} {f : Nat → Byte} (hin : pa % 128 + n ≤ 128) {y : Host.Cell}
    (hy : y ∈ rowCells pa n f) : y.1 / 128 = pa / 128 := by
  unfold rowCells at hy
  obtain ⟨i, hi, rfl⟩ := List.mem_map.mp hy
  have hi := List.mem_range.mp hi
  dsimp only
  omega

theorem rowCells_ne_nil {pa n : Nat} (f : Nat → Byte) (hpos : n ≠ 0) : rowCells pa n f ≠ [] := by
  unfold rowCells
  intro e
  exact hpos (List.range_eq_nil.mp (List.map_eq_nil_iff.mp e))

theorem eraseDups_const {l : List Nat} {a : Nat} (hne : l ≠ []) (h : ∀ b ∈ l, b = a) :
    l.eraseDups = [a] := by
  cases l with
  | nil => exact absurd rfl hne
  | cons b t =>
    have hb : b = a := h b List.mem_cons_self
    have hnone : (t.filter fun x => !(x == b)) = [] := by
      rw [List.filter_eq_nil_iff]
      intro x hx
      rw [h x (List.mem_cons_of_mem b hx), hb]
      simp
    rw [List.eraseDups_cons, hnone, hb]
    rfl

theorem engineWrite_line {w : Work} {c launch lin pri : Nat} {ef : Bool} {sp : Span} (hpos : sp.len ≠ 0)
    (hin : sp.pa % 128 + sp.len ≤ 128) (f : Nat → Byte) :
    w.engineWrite c 64 launch lin pri ef [sp] ((List.range sp.len).map f) =
      (w.sendsStore c (engineWriter launch lin pri)
        (storeReq c 64 launch lin (sp.pa / 128) ef sp.key pri (rowCells sp.pa sp.len f)),
        [(w.core c).opSeq]) := by
  obtain ⟨l, hl⟩ : ∃ l, l = rowCells sp.pa sp.len f := ⟨_, rfl⟩
  have hline : ∀ y ∈ l, y.1 / 128 = sp.pa / 128 := fun y hy => line_rowCells hin (hl ▸ hy)
  have hne : l ≠ [] := hl ▸ rowCells_ne_nil f hpos
  have hlines : (l.map fun y => y.1 / 128).eraseDups = [sp.pa / 128] := by
    refine eraseDups_const (fun e => hne (List.map_eq_nil_iff.mp e)) fun b hb => ?_
    obtain ⟨y, hy, rfl⟩ := List.mem_map.mp hb
    exact hline y hy
  have hall : l.filter (fun y => decide (y.1 / 128 = sp.pa / 128)) = l :=
    List.filter_eq_self.mpr fun y hy => decide_eq_true (hline y hy)
  unfold Work.engineWrite
  rw [spanCells_one, ← hl, List.foldl_cons, List.foldl_nil]
  cases l with
  | nil => exact absurd rfl hne
  | cons b t =>
    dsimp only
    rw [if_neg (by exact Bool.false_ne_true), hlines, List.foldl_cons, List.foldl_nil, hall]
    rfl

/-! ## The request of an element (R235) -/

/-- The request by which the engine adds an element. -/
def addReq (c : Nat) (x : Kick) (r : CopyRec) (key a v seq op : Nat) : Req :=
  { core := c, slot := 64, launch := x.launch, lin := x.lin, gidx := x.gidx, line := a / 128
    ef := crEf r, ms := false, eng := true, counted := false, key, pri := x.pri, op
    kind :=
      if crOrd r then .ordered false (crEty r) (etySize (crEty r))
        [{ addr := a, lane := 64, seq, operand := natWord v }]
      else .atomic (if crEty r = 1 ∨ crEty r = 3 then 8 else 0) (etySize (crEty r)) false
        [(0, a, natWord v, 0)] }

/-- The issuer of an element. -/
def elementWriter (x : Kick) : Group := { Group.blank with launch := x.launch, lin := x.lin }

theorem elementAdd_eq (w : Work) (c : Nat) (x : Kick) (r : CopyRec) (key a v seq : Nat) :
    w.elementAdd c x r key a v seq =
      ((w.core c).opSeq, w.sendsStore c (elementWriter x)
        (addReq c x r key a v seq)) := rfl

/-- The number that some bytes make. -/
def byteSum (n : Nat) (f : Nat → Byte) : Nat := ((List.range n).map fun i => (f i).toNat * 256 ^ i).sum

theorem rowAdd_one {w : Work} {c : Nat} {x : Kick} {r : CopyRec} {sp : Span} (hpos : sp.len ≠ 0)
    (hlen : sp.len = etySize (crEty r)) (f : Nat → Byte) :
    w.rowAdd c x r ((List.range sp.len).map f) [sp] =
      .ok (w.sendsStore c (elementWriter x)
          (addReq c x r sp.key sp.pa (byteSum sp.len f) x.seq))
        { x with seq := x.seq + 1, pend := x.pend ++ [(w.core c).opSeq] } := by
  have hsnd : (rowCells sp.pa sp.len f).map Prod.snd = (List.range sp.len).map f := by
    unfold rowCells
    rw [List.map_map]
    rfl
  have hhead : ((rowCells sp.pa sp.len f).head?.map Prod.fst).getD 0 = sp.pa := by
    obtain ⟨n, hn⟩ := Nat.exists_eq_succ_of_ne_zero hpos
    unfold rowCells
    rw [hn, List.range_succ_eq_map]
    rfl
  have hels : elements (etySize (crEty r)) ((List.range sp.len).map f) = [(0, byteSum sp.len f)] := by
    rw [← hlen, show (List.range sp.len).map f = (List.range (sp.len * 1)).map f by rw [Nat.mul_one],
      elements_map_range sp.len 1 f (Nat.pos_of_ne_zero hpos), List.range_one, List.map_singleton]
    simp only [Nat.mul_zero, Nat.zero_add]
    rfl
  unfold Work.rowAdd
  rw [spanCells_one]
  simp only [List.flatMap_singleton, hsnd, hhead, hels, List.map_singleton, List.foldl_cons,
    List.foldl_nil, Nat.add_zero, elementAdd_eq, List.nil_append]

/-! ## The record waits for its write -/

section Write

variable {s : State} {c hb bb nb ob : Nat} {x : Kick} {r : CopyRec} {rest : List CopyRec} {e : TlbEnt}
  {tl : List (Nat × TlbEnt)}

/-- A record has sent a request, of which it waits. -/
def WaitsFor (t : State) (c : Nat) (x : Kick) (e : TlbEnt) (q : Req) : Prop :=
  Sent t c q ∧ q.eng = true ∧ q.key = e.key ∧
    ∃ y, (t.work.core c).copying = some y ∧ y.recs = x.recs ∧ y.row = 1 ∧ y.pend = [q.op] ∧
      q.op ∈ (t.work.core c).stores.map Prod.fst

theorem opens_mem {w : Work} {c op : Nat} {so : StoreOp} {y : Kick} (hy : y.pend = [op])
    (hmem : (op, so) ∈ (w.core c).stores) : w.opens c y = true := by
  unfold Work.opens
  rw [hy, List.any_cons, List.any_nil, Bool.or_false, List.any_eq_true]
  exact ⟨_, hmem, decide_eq_true rfl⟩

theorem stores_keepsKick (w : Work) (c : Nat) (y : Kick) :
    ((w.keepsKick c y).core c).stores = (w.core c).stores := by
  unfold Work.keepsKick
  rw [core_modCore, if_pos rfl]

theorem die_debits (w : Work) (c n wt d : Nat) : (w.debits c n wt).die d = w.die d := by
  unfold Work.debits
  split
  · rfl
  · rfl

/-- R196: a record whose row is on its way waits. -/
theorem row_waits (h : AtRecord s c x r rest) (hwell : crMalformed r x.ord = false) (hone : crRows r = 1)
    {v : Work} {g : Group} {q : Nat → Req} {y : Kick}
    (hrow : (s.work.rowRead c x r fun data w => w.rowWrite c x r data) = .ok (v.sendsStore c g q) y)
    (hlook : v.lookups = s.work.lookups) (hrecs : y.recs = x.recs) (hy : y.row = 0)
    (hpend : y.pend = [(v.core c).opSeq]) (hcore : ∀ op, (q op).core = c) (hop : ∀ op, (q op).op = op)
    (heng : ∀ op, (q op).eng = true) (hkey : ∀ op, (q op).key = e.key) :
    ∃ t, exec (.copyRecordDone c) s = .next t ∧ t.mem = s.mem ∧ WaitsFor t c x e (q (v.core c).opSeq) := by
  have hso := mem_stores_sendsStore v c g q
  obtain ⟨op, hopn⟩ : ∃ op, op = (v.core c).opSeq := ⟨_, rfl⟩
  obtain ⟨u, hu⟩ : ∃ u, u = (v.sendsStore c g q).debits c (rowCost y r) 200 := ⟨_, rfl⟩
  have hulook : u.lookups = s.work.lookups := by
    rw [hu, lookups_debits, lookups_sendsStore, hlook]
  have hrows : s.work.copyRows c x r (crRows r) = .ok u y.nextRow := by
    rw [hu]
    exact copyRows_one hone hrow
  have hmem : (op, engineStore g) ∈ (u.core c).stores := by
    rw [hu, core_debits, hopn]
    exact hso
  have hopen : u.opens c y.nextRow = true := opens_mem (hpend.trans (by rw [hopn])) hmem
  have he := exec_copyRecordDone h
  rw [hwell, if_neg Bool.false_ne_true, hrows] at he
  unfold Work.rowsEnded at he
  dsimp only at he
  rw [hopen, if_pos rfl] at he
  refine ⟨_, he, commit_mem _ _ (log_of_lookups ((lookups_modCore _ _ _).trans hulook)), ?_, heng _,
    hkey _, y.nextRow, copying_keepsKick _ _ _, hrecs, congrArg (· + 1) hy, ?_, ?_⟩
  · refine sent_of_request (w := (v.startStore c 64 g 1 []).2) (fun d => ?_) (hcore _)
    show u.die d = _
    rw [hu, die_debits]
    rfl
  · rw [hop]
    exact hpend
  · rw [hop, ← hopn]
    refine List.mem_map.mpr ⟨(op, engineStore g), ?_, rfl⟩
    show (op, engineStore g) ∈ ((u.keepsKick c y.nextRow).core c).stores
    rw [stores_keepsKick]
    exact hmem

theorem spansOf_dst (h : AtRecord s c x r rest) {acc : Acc} (hpos : crLen r ≠ 0)
    (hl : InLine s.work c x (dstSide r) (crLen r) acc e tl) (ord : Bool) :
    s.work.spansOf c (engineGroup x.sup x.owner) acc ord ((dstSide r).rowAt x.row % 2 ^ 52).toNat
      (crLen r) = .ok (s.work.tlbHit c tl) [e.span (dstSide r).addr (crLen r)] := by
  rw [h.row]
  exact spansOf_inLine hl ord (dstSide_addr r) hpos

variable (h : AtRecord s c x r rest) (hwell : crMalformed r x.ord = false)
  (hf : FromBuffer s c x r hb bb nb ob) (hclean : (s.work.core hb).upset = [])
  (hkind : (dstSide r).kind = 0)

/-- The operation number of the next request of the engine. -/
def nextOp (s : State) (c : Nat) (tl : List (Nat × TlbEnt)) : Nat := ((s.work.tlbHit c tl).core c).opSeq

include h hwell hf hclean hkind

/-- R196: a row is written to memory by one request. -/
theorem row_stored (hone : crRows r = 1) (hop : crOp r = 0)
    (hl : InLine s.work c x (dstSide r) (crLen r) .store e tl) :
    ∃ t, exec (.copyRecordDone c) s = .next t ∧ t.mem = s.mem ∧
      WaitsFor t c x e (storeReq c 64 x.launch x.lin (e.phys (dstSide r).addr / 128) (crEf r) e.key x.pri
        (rowCells (e.phys (dstSide r).addr) (crLen r) (movedBytes s r hb (bb + ob))) (nextOp s c tl)) := by
  have hpos := (wellFormed_of hwell).len
  have hrow : (s.work.rowRead c x r fun data w => w.rowWrite c x r data) =
      .ok ((s.work.tlbHit c tl).sendsStore c (engineWriter x.launch x.lin x.pri)
          (storeReq c 64 x.launch x.lin (e.phys (dstSide r).addr / 128) (crEf r) e.key x.pri
            (rowCells (e.phys (dstSide r).addr) (crLen r) (movedBytes s r hb (bb + ob)))))
        { x with pend := x.pend ++ [nextOp s c tl] } := by
    rw [rowRead_buffer h hwell hf hclean]
    unfold Work.rowWrite
    dsimp only
    rw [if_pos hkind, hop, if_neg (by decide), spansOf_dst h hpos hl]
    dsimp only
    rw [if_neg (by decide)]
    have hw := engineWrite_line (w := s.work.tlbHit c tl) (c := c) (launch := x.launch) (lin := x.lin)
      (pri := x.pri) (ef := crEf r) (sp := e.span (dstSide r).addr (crLen r)) hpos
      (span_oneLine hl.oneLine) (movedBytes s r hb (bb + ob))
    rw [show (s.work.core hb).rowBytes (srcSide r) (bb + ob) (crLen r) =
      (List.range (e.span (dstSide r).addr (crLen r)).len).map (movedBytes s r hb (bb + ob)) from rfl, hw]
    rfl
  exact row_waits h hwell hone hrow rfl rfl h.row (by rw [h.pend]; rfl) (fun _ => rfl) (fun _ => rfl)
    (fun _ => rfl) fun _ => rfl

/-- R235: an element is accumulated by one request. -/
theorem element_added (hone : crRows r = 1) (hop : crOp r = 1) (hlen : crLen r = etySize (crEty r))
    (hl : InLine s.work c x (dstSide r) (crLen r) .atomic e tl) :
    ∃ t, exec (.copyRecordDone c) s = .next t ∧ t.mem = s.mem ∧
      WaitsFor t c x e (addReq c x r e.key (e.phys (dstSide r).addr)
        (byteSum (crLen r) (movedBytes s r hb (bb + ob))) x.seq (nextOp s c tl)) := by
  have hpos := (wellFormed_of hwell).len
  have hrow : (s.work.rowRead c x r fun data w => w.rowWrite c x r data) =
      .ok ((s.work.tlbHit c tl).sendsStore c (elementWriter x)
          (addReq c x r e.key (e.phys (dstSide r).addr)
            (byteSum (crLen r) (movedBytes s r hb (bb + ob))) x.seq))
        { x with seq := x.seq + 1, pend := x.pend ++ [nextOp s c tl] } := by
    rw [rowRead_buffer h hwell hf hclean]
    unfold Work.rowWrite
    dsimp only
    rw [if_pos hkind, hop, if_pos (by decide), spansOf_dst h hpos hl]
    dsimp only
    rw [if_pos (by decide)]
    exact rowAdd_one (sp := e.span (dstSide r).addr (crLen r)) hpos hlen (movedBytes s r hb (bb + ob))
  exact row_waits h hwell hone hrow rfl rfl h.row (by rw [h.pend]; rfl) (fun _ => rfl) (fun _ => rfl)
    (fun _ => rfl) fun _ => rfl

end Write

/-! ## The statement -/

theorem movedBytes_of_bytes {s : State} {r : CopyRec} {hb a : Nat} (h : (srcSide r).kind ≠ 3) :
    movedBytes s r hb a = fun i => (s.work.core hb).bufByte (srcSide r).buf (a + i) :=
  funext fun _ => if_neg h

theorem kind_of_mem {k : Nat} (h : k ∈ [1, 2, 4]) : k ≠ 0 ∧ k ≠ 3 ∧ k < 5 := by
  simp only [List.mem_cons, List.not_mem_nil, or_false] at h
  omega

theorem copyRequests : CopyRequests := by
  intro s c x r hb bb nb ob e tl h1 h2 h3 h4 h5 h6 h7 hwell hone
  have h : AtRecord s c x r [] := ⟨h1, h2, h3, h4, h5, h6, h7⟩
  refine ⟨?_, ?_⟩
  · rintro ⟨hlook, hin, hperm, hnear⟩ hkind ⟨hbuf, hspace, hallot⟩ -
    have hl : InLine s.work c x (srcSide r) (crLen r) .load e tl := ⟨hlook, hin, hperm, hnear⟩
    obtain ⟨hzero, -, hfive⟩ := kind_of_mem hbuf
    refine ⟨line_asked h hwell hkind hl, fun id f data hsome hdata hbad hk => ?_⟩
    obtain ⟨-, hthree, -⟩ := kind_of_mem hbuf
    exact line_moved h hwell hone hkind hl ⟨hzero, hspace, hallot⟩ (by omega) hsome hdata hbad
  · rintro hkind ⟨hbuf, hspace, hallot⟩ hclean
    obtain ⟨hzero, hthree, -⟩ := kind_of_mem hbuf
    have hf : FromBuffer s c x r hb bb nb ob := ⟨hzero, hspace, hallot⟩
    have hbytes := movedBytes_of_bytes (s := s) (hb := hb) (a := bb + ob) hthree
    refine ⟨?_, ?_⟩
    · rintro hop ⟨hlook, hin, hperm, hnear⟩
      obtain ⟨t, he, hmem, hw⟩ := row_stored h hwell hf hclean hkind hone hop ⟨hlook, hin, hperm, hnear⟩
      exact ⟨t, he, hmem, _, hw, rfl, by rw [hbytes]; rfl⟩
    · rintro hop hlen ⟨hlook, hin, hperm, hnear⟩
      obtain ⟨t, he, hmem, hw⟩ :=
        element_added h hwell hf hclean hkind hone hop hlen ⟨hlook, hin, hperm, hnear⟩
      refine ⟨t, he, hmem, _, hw, rfl, ?_⟩
      rw [hbytes, hlen]
      rfl

/-- Settles O24: the COPY instructions, the copy engine's records between buffers and its requests, and
the retention windows, each by the equation of its own part. -/
theorem copies : Obligations.Copies := ⟨copyInstructions, copyEngine, copyRequests, retentionWindows⟩

end Sys2Proof.Machine
end

section
/-!
PROOFS. EXIT (R135), integer compares and carry chains (R150, R156) in groups that no part of the machine
makes: the statements about them ask of the group only that its registers await nothing.
-/

namespace Sys2Proof.Machine

open Sys2Proof.Claim

/-- A machine whose turn executes a group in slot 1 of core 0. -/
def aloneWith (g : Group) : State :=
  { State.reset with cur := (0, 1), cores := [(0, { Core.init with groups := [(1, g)] })] }

theorem ready_aloneWith {g : Group} (hq : g.Quiet) : Ready (aloneWith g) 0 1 g := ⟨rfl, rfl, hq⟩

/-- The group of `aloneWith` after an outcome that is a next state. -/
def groupAfter : Host.Outcome State Fault Refusal → Option Group
  | .next t => t.work.grp 0 1
  | _ => none

theorem groupAfter_next {t : State} {h : Group} {o : Host.Outcome State Fault Refusal}
    (ho : o = .next t) (hg : t.work.grp 0 1 = some h) : groupAfter o = some h := ho ▸ hg

/-! ## EXIT -/

/-- A group that lists m0 twice: lane 0 stands in the entry that is read, lane 1 in the one behind it. -/
def twiceListed : Group := { Group.blank with live := 3, exec := 1, mreg := [(0, 1), (0, 2)] }

theorem twiceListed_quiet : twiceListed.Quiet := ⟨rfl, rfl, rfl, rfl, rfl⟩

/-- EXIT takes the entry that is left without a lane off the list, and m0 is then read from the other. -/
theorem exit_twiceListed :
    (groupAfter (exec (.exit 0) (aloneWith twiceListed))).map (·.m 0) = some 2 := by decide +kernel

/-- Refutes O2: the statement has EXIT clear its lanes in every mask as it is read. In `twiceListed`,
whose list of masks is not in the canonical form, m0 reads 1 before the EXIT of lane 0 and 2 after it. -/
theorem not_controlInstructions : ¬ Obligations.ControlInstructions := by
  unfold Obligations.ControlInstructions
  rintro ⟨-, hcontrol, -⟩
  obtain ⟨-, -, -, -, -, -, -, -, -, -, hexit⟩ :=
    hcontrol _ 0 1 twiceListed (ready_aloneWith twiceListed_quiet) rfl 0 0 0 0 0 0 0
  obtain ⟨t, h, hexec, hgrp, -, -, -, hmasks, -⟩ := hexit (by decide) (by decide) rfl
  have hm0 := exit_twiceListed
  rw [groupAfter_next hexec hgrp, Option.map_some, hmasks 0] at hm0
  revert hm0
  decide

/-! ## VADDC -/

/-- A group without an active lane, and m0 set in a lane that is not live. -/
def strayMask : Group := { Group.blank with live := 0, exec := 0, mreg := [(0, 1)] }

theorem strayMask_quiet : strayMask.Quiet := ⟨rfl, rfl, rfl, rfl, rfl⟩

/-- VADDC writes no lane, so that m0 stands. -/
theorem vaddc_strayMask :
    (groupAfter (exec (.vaddc 0 0 0 0) (aloneWith strayMask))).map (fun h => bit (h.settled.m 0) 0) =
      some true := by decide +kernel

/-- Refutes O8: the statement has VADDC clear m0 in the lanes that are not live, also where no lane is
active and m0 is not written. In `strayMask` lane 0 is not live and stays set. -/
theorem not_carryAndCompare : ¬ Obligations.CarryAndCompare := by
  unfold Obligations.CarryAndCompare
  rintro ⟨hcarry, -⟩
  obtain ⟨hvv, -⟩ := hcarry _ 0 1 strayMask (ready_aloneWith strayMask_quiet) 0 0 0 0 rfl rfl
  obtain ⟨⟨t, h, hexec, hgrp, -, -, -, -, hlanes⟩, -⟩ := hvv rfl
  obtain ⟨-, hm0⟩ := hlanes 0 (by decide)
  have hset := vaddc_strayMask
  rw [groupAfter_next hexec hgrp, Option.map_some, hm0] at hset
  revert hset
  decide

end Sys2Proof.Machine
end

section
/-!
SUPPORT. The checks of R96 on the registers of an instruction (`operandStage`), one equation for each
outcome, and what the pipeline makes of it.
-/

namespace Sys2Proof.Machine

open Sys2Proof.Claim

/-! ## The registers of an instruction -/

section Checks

variable {w : Work} {c : Nat} {g : Group} {n : Need} {u : Use}

theorem deferOn_scalar (g : Group) (r : Nat) : g.deferOn (useS r) = false := rfl

theorem lockedOn_scalar (g : Group) (r : Nat) : g.lockedOn (useS r) = false := rfl

theorem pendOn_of_none (hp : g.pend = []) (u : Use) : g.pendOn u = none := by
  simp [Group.pendOn, hp]

theorem flightOn_of_none (hf : g.flights = []) (u : Use) : g.flightOn u = false := by
  simp [Group.flightOn, hf]

/-- R224: a register is the destination of an atomic whose results are still to come. -/
theorem operandStage_deferred (h : (n.reads ++ n.writes).find? g.deferOn = some u) :
    operandStage w c g n = .trap 0x0C (BitVec.ofNat 64 (u.reg % 64)) 0 := by
  unfold operandStage
  simp only [h]

/-- R103: under CHK = 1 a register is read that is still in flight or pending. -/
theorem operandStage_stalled_read (hd : (n.reads ++ n.writes).find? g.deferOn = none)
    (hchk : g.chk = true)
    (h : n.reads.find? (fun u => g.flightOn u || (g.pendOn u).isSome) = some u) :
    operandStage w c g n = .trap 0x02 u.info 0 := by
  unfold operandStage
  simp only [hd, hchk, h, if_true]

/-- R103: under CHK = 1 a register is written that is pending. -/
theorem operandStage_stalled_write (hd : (n.reads ++ n.writes).find? g.deferOn = none)
    (hchk : g.chk = true)
    (hr : n.reads.find? (fun u => g.flightOn u || (g.pendOn u).isSome) = none)
    (h : n.writes.find? (fun u => (g.pendOn u).isSome || g.lockedOn u) = some u) :
    operandStage w c g n = .trap 0x02 u.info 0 := by
  unfold operandStage
  simp only [hd, hchk, hr, h, if_true]

/-- R106: under CHK = 0 an instruction is held while one of its registers is pending. -/
theorem operandStage_held (hd : (n.reads ++ n.writes).find? g.deferOn = none)
    (hchk : g.chk = false) (hu : u ∈ n.reads ++ n.writes) (h : (g.pendOn u).isSome = true) :
    ∃ park, operandStage w c g n = .hold park := by
  have hops : (n.reads ++ n.writes).filterMap g.pendOn ≠ [] := by
    obtain ⟨op, hop⟩ := Option.isSome_iff_exists.1 h
    exact List.ne_nil_of_mem (List.mem_filterMap.2 ⟨u, hu, hop⟩)
  unfold operandStage
  simp only [hd, hchk, Bool.false_eq_true, if_false, if_pos hops]
  exact ⟨_, rfl⟩

/-- R209, R62: a register is read that is poisoned, or whose row has lost its data. -/
theorem operandStage_poisoned {a : Nat} {bad : Word}
    (hd : (n.reads ++ n.writes).find? g.deferOn = none) (hp : g.pend = []) (hf : g.flights = [])
    (hl : ∀ u ∈ n.writes, g.lockedOn u = false) (h : n.reads.findSome? g.poisoned = some (a, bad)) :
    operandStage w c g n =
      if a < 2 ^ 52 then .trap 0x0B (BitVec.ofNat 64 a) bad else .upset (a - 2 ^ 52) bad := by
  have hr : n.reads.find? (fun u => g.flightOn u || (g.pendOn u).isSome) = none := by
    simp [flightOn_of_none hf, pendOn_of_none hp]
  have hw : n.writes.find? (fun u => (g.pendOn u).isSome || g.lockedOn u) = none := by
    simpa [pendOn_of_none hp] using hl
  have hops : (n.reads ++ n.writes).filterMap g.pendOn = [] := by
    simp [pendOn_of_none hp]
  have hlock : n.writes.any g.lockedOn = false := by simpa using hl
  unfold operandStage
  simp only [hd, hr, hw, hops, hlock, h]
  cases g.chk <;> rfl

/-- R209: the lowest poisoned lane that a vector source reads names the address. -/
theorem poisoned_vector {r l v : Nat} {bad : Word}
    (hbad : ∀ k < 64, bit bad k = (bit g.exec k && (tfind (64 * r + k) g.poison).isSome))
    (hl : l < 64) (hset : bit bad l = true) (hlow : ∀ k < l, bit bad k = false)
    (hv : tfind (64 * r + l) g.poison = some v) : g.poisoned (useV g r) = some (v, bad) := by
  have hon : g.poisonOn (useV g r) = bad := by
    refine BitVec.eq_of_getLsbD_eq fun k hk => ?_
    exact (maskOf_bit _ k hk).trans (hbad k hk).symm
  have hlanes : ∃ t, lanesOf bad = l :: t := by
    have hu : lanesOf bad = (List.range 64).filter (bit bad) := by
      unfold lanesOf upto
      simp
    have hfind : (lanesOf bad).head? = some l := by
      rw [hu, List.head?_filter, List.find?_range_eq_some]
      exact ⟨hset, List.mem_range.2 hl, fun k hk => by simp [hlow k hk]⟩
    cases hx : lanesOf bad with
    | nil => simp [hx] at hfind
    | cons y t => exact ⟨t, by simpa [hx] using hfind⟩
  obtain ⟨t, ht⟩ := hlanes
  unfold Group.poisoned
  simp only [hon]
  dsimp only [useV]
  rw [ht]
  simp [hv]

end Checks

/-! ## What the pipeline makes of it -/

section Outcomes

variable {s : State} {c n : Nat} {g : Group} {f : Form} {need : Work → Group → Need}
  {body : Work → Nat → Nat → Group → Res} {i : Instr} {cause : Nat} {info lanes : Word}

theorem issueGroup_of_hold {w : Work} {park : Option Wait} (h1 : (need w g).codes = true)
    (h2 : (need w g).regs = true) (h3 : (need w g).ctx = true)
    (h : operandStage w c g (need w g) = .hold park) :
    issueGroup f need body w c n g = holdGroup w c n g park := by
  simp [issueGroup, h1, h2, h3, h]

theorem issueGroup_of_upset {w : Work} {row : Nat} (h1 : (need w g).codes = true)
    (h2 : (need w g).regs = true) (h3 : (need w g).ctx = true)
    (h : operandStage w c g (need w g) = .upset row lanes) :
    issueGroup f need body w c n g =
      raiseTrap (w.logError 1 true c row 0) c n g 0x0B (BitVec.ofNat 64 row) lanes := by
  simp [issueGroup, h1, h2, h3, h]

/-- A trap that the checks on the registers raise. -/
theorem traps_of_operands (hc : s.cur = (c, n)) (hg : s.work.grp c n = some g)
    (hp : s.work.flagsPending c n = false) (hi : exec i s = issue f need body s)
    (h1 : (need s.work g).codes = true) (h2 : (need s.work g).regs = true)
    (h3 : (need s.work g).ctx = true)
    (h : operandStage s.work c g (need s.work g) = .trap cause info lanes) :
    Traps s c n g i cause info lanes := by
  unfold Traps
  rw [hi, issue_eq hc hg, ← raiseTrap_now _ _ _ _ _ _ _ hp]
  simp [issueGroup, h1, h2, h3, h]

theorem sameRegs_retries (g : Group) (cycle : Nat) : g.SameRegs (g.retries cycle) :=
  ⟨rfl, rfl, rfl, rfl, rfl, rfl, rfl, rfl⟩

theorem sameRegs_park (g : Group) (wt : Wait) : g.SameRegs (g.park wt) :=
  ⟨rfl, rfl, rfl, rfl, rfl, rfl, rfl, rfl⟩

theorem park_fields (g : Group) (wt : Wait) : (g.park wt).pc = g.pc ∧ (g.park wt).readyAt = g.readyAt ∧
    (g.park wt).pend = g.pend ∧ (g.park wt).flights = g.flights := ⟨rfl, rfl, rfl, rfl⟩

/-- A group that is held, parked or not, keeps its registers and its PC. -/
theorem grp_holdGroup (w : Work) (c n : Nat) (g : Group) (park : Option Wait) :
    ∃ h, holdGroup w c n g park = w.setGrp c n h ∧ h.pc = g.pc ∧
      h.readyAt = (w.core c).cycle + 1 ∧ h.pend = g.pend ∧ h.flights = g.flights ∧ g.SameRegs h := by
  cases park with
  | none => exact ⟨g.retries (w.core c).cycle, rfl, rfl, rfl, rfl, rfl, sameRegs_retries g _⟩
  | some wt =>
    have hpark : holdGroup w c n g (some wt) = w.setGrp c n ((g.retries (w.core c).cycle).park wt) := by
      unfold holdGroup Group.retries
      rfl
    obtain ⟨hpc, hready, hpend, hflights⟩ := park_fields (g.retries (w.core c).cycle) wt
    exact ⟨_, hpark, hpc, hready, hpend, hflights, (sameRegs_retries g _).trans (sameRegs_park _ wt)⟩

theorem elsewhere_setGrp (h : Group) : Elsewhere s (commit s (s.work.setGrp c n h)) c n :=
  ⟨commit_mem _ _ rfl, rfl, fun _ hj => core_setGrp_other _ _ _ _ _ hj, core_setGrp_rest _ _ _ _ _,
    fun _ hm => (grp_setGrp _ _ _ _ _ _).trans (if_neg fun e => hm e.2), fun _ _ => rfl, rfl⟩

end Outcomes

end Sys2Proof.Machine
end

section
/-!
PROOFS. The operands of SADD and VADD (R62, R103, R106, R209, R224), and when their results are visible
(R99 to R102).
-/

namespace Sys2Proof.Machine

open Sys2Proof.Claim

/-! ## SADD and VADD.I32 in the pipeline -/

/-- The registers of SADD. -/
def saddNeed (d a b : BitVec 6) : Need :=
  { reads := [useS a.toNat, useS b.toNat], writes := [useS d.toNat] }

theorem exec_sadd (x : BitVec 2) (d a b : BitVec 6) (s : State) :
    exec (.sadd x d a b) s = issueLocal (wordForm (wSadd x d a b) x (some Lsalu) wtScalar)
      (fun _ => saddNeed d a b)
      (fun g => g.flyS Lsalu d.toNat (g.s a.toNat + g.s b.toNat)) s := rfl

/-- The registers of VADD. -/
def vaddNeed (d a b : BitVec 6) (g : Group) : Need :=
  vNeed g (.vec d.toNat) (.vec a.toNat) (.vec b.toNat) false true

theorem exec_vaddI32 (x : BitVec 2) (d a b : BitVec 6) (s : State) :
    exec (.vaddI32 x d a b) s = issueLocal (wordForm (wVaddI32 x d a b) x (some Lint) wtInt)
      (vaddNeed d a b)
      (fun g => g.flyV Lint d.toNat g.exec fun l =>
        (i32 addL (zext64 (g.v a.toNat l)) (zext64 (g.v b.toNat l)) (zext64 (g.v d.toNat l))).truncate 32)
      s := rfl

theorem i32_addL (a b d : Lane) :
    ((i32 addL (zext64 a) (zext64 b) (zext64 d)).truncate 32 : Lane) = a + b := by
  simp [i32, addL, zext64]

theorem toNat_mod64 (r : BitVec 6) : r.toNat % 64 = r.toNat := Nat.mod_eq_of_lt r.isLt

theorem info_useS (r : BitVec 6) : (useS r.toNat).info = BitVec.ofNat 64 r.toNat :=
  congrArg (BitVec.ofNat 64) (toNat_mod64 r)

variable {s : State} {c n : Nat} {g : Group}

theorem sadd_undeferred (g : Group) (d a b : BitVec 6) :
    ((saddNeed d a b).reads ++ (saddNeed d a b).writes).find? g.deferOn = none := rfl

section Checked

variable (hc : s.cur = (c, n)) (hg : s.work.grp c n = some g)
  (hp : s.work.flagsPending c n = false) (x : BitVec 2) (d a b : BitVec 6)

include hc hg in
/-- R106. -/
theorem sadd_held (hchk : g.chk = false) {u : Use}
    (hu : u ∈ [useS a.toNat, useS b.toNat, useS d.toNat]) (h : (g.pendOn u).isSome = true) :
    ∃ t h, exec (.sadd x d a b) s = .next t ∧ t.work.grp c n = some h ∧ Elsewhere s t c n ∧
      h.pc = g.pc ∧ h.readyAt = (s.work.core c).cycle + 1 ∧ h.pend = g.pend ∧
      h.flights = g.flights ∧ Keeps g h {} := by
  obtain ⟨park, hop⟩ := operandStage_held (w := s.work) (c := c) (n := saddNeed d a b)
    (sadd_undeferred g d a b) hchk hu h
  obtain ⟨k, hk, hpc, hready, hpend, hflights, hregs⟩ := grp_holdGroup s.work c n g park
  refine ⟨_, k, ?_, (commit_grp _ _ _ _).trans (grp_setGrp_same s.work c n k), elsewhere_setGrp k,
    hpc, hready, hpend, hflights, keeps_of_sameRegs hregs _⟩
  rw [exec_sadd, issueLocal, issue_eq hc hg, ← hk]
  exact congrArg (fun w => Host.Outcome.next (commit s w))
    (issueGroup_of_hold (need := fun _ _ => saddNeed d a b) rfl rfl rfl hop)

include hc hg hp

/-- R103, reads. -/
theorem sadd_stalled_read (hchk : g.chk = true) {u : Use} (hu : u ∈ [useS a.toNat, useS b.toNat])
    (h : g.flightOn u = true ∨ (g.pendOn u).isSome = true) :
    ∃ r, (r = a ∨ r = b) ∧
      (g.flightOn (useS r.toNat) = true ∨ (g.pendOn (useS r.toNat)).isSome = true) ∧
      Traps s c n g (.sadd x d a b) 2 (BitVec.ofNat 64 r.toNat) 0 := by
  cases hfind : (saddNeed d a b).reads.find? (fun u => g.flightOn u || (g.pendOn u).isSome) with
  | none =>
    exact absurd (Bool.or_eq_true_iff.2 h) (List.find?_eq_none.1 hfind u hu)
  | some v =>
    have htrap : Traps s c n g (.sadd x d a b) 2 v.info 0 :=
      traps_of_operands hc hg hp (exec_sadd x d a b s) rfl rfl rfl
        (operandStage_stalled_read (sadd_undeferred g d a b) hchk hfind)
    have hv : v = useS a.toNat ∨ v = useS b.toNat := by
      simpa [saddNeed] using List.mem_of_find?_eq_some hfind
    have hbusy : g.flightOn v = true ∨ (g.pendOn v).isSome = true := by
      simpa using List.find?_some hfind
    rcases hv with rfl | rfl
    · exact ⟨a, .inl rfl, hbusy, info_useS a ▸ htrap⟩
    · exact ⟨b, .inr rfl, hbusy, info_useS b ▸ htrap⟩

/-- R103, the register written. -/
theorem sadd_stalled_write (hchk : g.chk = true) (hfa : g.flightOn (useS a.toNat) = false)
    (hpa : g.pendOn (useS a.toNat) = none) (hfb : g.flightOn (useS b.toNat) = false)
    (hpb : g.pendOn (useS b.toNat) = none) (hpd : (g.pendOn (useS d.toNat)).isSome = true) :
    Traps s c n g (.sadd x d a b) 2 (BitVec.ofNat 64 d.toNat) 0 := by
  rw [← info_useS d]
  refine traps_of_operands hc hg hp (exec_sadd x d a b s) rfl rfl rfl
    (operandStage_stalled_write (sadd_undeferred g d a b) hchk ?_ ?_)
  · simp [saddNeed, hfa, hpa, hfb, hpb]
  · simp [saddNeed, hpd]

/-- R209, a scalar. -/
theorem sadd_poisoned (hpend : g.pend = []) (hf : g.flights = []) {v : Nat} (hv : v < 2 ^ 52)
    (h : tfind (scalKey (g.banked .scalar a.toNat) a.toNat) g.poison = some v) :
    Traps s c n g (.sadd x d a b) 0x0B (BitVec.ofNat 64 v) 0 := by
  have hpoison : (saddNeed d a b).reads.findSome? g.poisoned = some (v, 0) := by
    simp [saddNeed, Group.poisoned, useS, h]
  refine traps_of_operands hc hg hp (exec_sadd x d a b s) rfl rfl rfl ?_
  exact (operandStage_poisoned (sadd_undeferred g d a b) hpend hf
    (by simp [saddNeed, lockedOn_scalar]) hpoison).trans (if_pos hv)

variable (hd : g.hasV d.toNat = true) (ha : g.hasV a.toNat = true) (hb : g.hasV b.toNat = true)

include hd ha hb

omit hc hg hp in
theorem vadd_regs : (vaddNeed d a b g).regs = true := by
  simp [vaddNeed, vNeed, Src.ok, hd, ha, hb]

/-- R209, R62: lanes of a vector source. -/
theorem vadd_poisoned (hpend : g.pend = []) (hf : g.flights = []) (hlock : g.locked = [])
    (hdef : g.deferred = []) {bad : Word} {l v : Nat}
    (hbad : ∀ k < 64, bit bad k = (bit g.exec k && (tfind (64 * a.toNat + k) g.poison).isSome))
    (hl : l < 64) (hset : bit bad l = true) (hlow : ∀ k < l, bit bad k = false)
    (hv : tfind (64 * a.toNat + l) g.poison = some v) :
    (v < 2 ^ 52 → Traps s c n g (.vaddI32 x d a b) 0x0B (BitVec.ofNat 64 v) bad) ∧
      ∀ row, v = 2 ^ 52 + row → exec (.vaddI32 x d a b) s = .next (commit s
        (((s.work.logError 1 true c row 0).account c n g 0).takeTrap c n g 0x0B
          (BitVec.ofNat 64 row) bad)) := by
  have hregs := vadd_regs d a b hd ha hb
  have hpoison : (vaddNeed d a b g).reads.findSome? g.poisoned = some (v, bad) := by
    have := poisoned_vector hbad hl hset hlow hv
    simp [vaddNeed, vNeed, Src.uses, this]
  have hop := operandStage_poisoned (w := s.work) (c := c) (n := vaddNeed d a b g)
    (by simp [Group.deferOn, hdef]) hpend hf (by simp [Group.lockedOn, hlock]) hpoison
  refine ⟨fun hlt => ?_, fun row hrow => ?_⟩
  · exact traps_of_operands hc hg hp (exec_vaddI32 x d a b s) rfl hregs rfl (hop.trans (if_pos hlt))
  · have hup : operandStage s.work c g (vaddNeed d a b g) = .upset row bad := by
      rw [hop, if_neg (by omega), hrow, Nat.add_sub_cancel_left]
    have hlog : (s.work.logError 1 true c row 0).flagsPending c n = false := by
      rw [← hp]
      unfold Work.logError Work.flagsPending
      dsimp only
      split <;> rfl
    rw [exec_vaddI32, issueLocal, issue_eq hc hg, ← raiseTrap_now _ _ _ _ _ _ _ hlog]
    exact congrArg (fun w => Host.Outcome.next (commit s w))
      (issueGroup_of_upset (need := fun _ => vaddNeed d a b) rfl hregs rfl hup)

/-- R224: the deferred one of the registers is named. -/
theorem vadd_deferred {r : BitVec 6} (hr : r ∈ [a, b, d])
    (h : (g.deferred.any fun q => decide (q.reg = r.toNat)) = true)
    (hother : ∀ q ∈ [a, b, d], q ≠ r → g.deferOn (useV g q.toNat) = false) :
    Traps s c n g (.vaddI32 x d a b) 0x0C (BitVec.ofNat 64 r.toNat) 0 := by
  have hon : g.deferOn (useV g r.toNat) = true := by
    obtain ⟨q, hq, hqr⟩ := List.any_eq_true.1 h
    simp only [Group.deferOn, useV, decide_true, Bool.true_and, List.any_eq_true, Bool.or_eq_true]
    exact ⟨q, hq, .inl hqr⟩
  have huses : (vaddNeed d a b g).reads ++ (vaddNeed d a b g).writes =
      [a, b, d].map fun q => useV g q.toNat := rfl
  have hfind : ((vaddNeed d a b g).reads ++ (vaddNeed d a b g).writes).find? g.deferOn =
      some (useV g r.toNat) := by
    rw [huses]
    cases hx : ([a, b, d].map fun q => useV g q.toNat).find? g.deferOn with
    | none =>
      exact absurd (List.find?_eq_none.1 hx _ (List.mem_map_of_mem hr)) (by simp [hon])
    | some u =>
      obtain ⟨q, hq, rfl⟩ := List.mem_map.1 (List.mem_of_find?_eq_some hx)
      by_cases hqr : q = r
      · rw [hqr]
      · exact absurd (List.find?_some hx) (by simp [hother q hq hqr])
  have hop := operandStage_deferred (w := s.work) (c := c) hfind
  rw [show (useV g r.toNat).reg % 64 = r.toNat from toNat_mod64 r] at hop
  exact traps_of_operands hc hg hp (exec_vaddI32 x d a b s) rfl (vadd_regs d a b hd ha hb) rfl hop

end Checked

theorem operandChecks : OperandChecks := by
  intro s c n g hc hg hp x d a b
  refine ⟨fun hchk u hu h => sadd_held hc hg x d a b hchk hu h,
    fun hchk u hu h => sadd_stalled_read hc hg hp x d a b hchk hu h,
    fun hchk hfa hpa hfb hpb hpd => sadd_stalled_write hc hg hp x d a b hchk hfa hpa hfb hpb hpd,
    fun hpend hf v hv h => sadd_poisoned hc hg hp x d a b hpend hf hv h,
    fun hpend hf hlock hdef hd ha hb bad l v hbad hl hset hlow hv =>
      vadd_poisoned hc hg hp x d a b hd ha hb hpend hf hlock hdef hbad hl hset hlow hv,
    fun hd ha hb r hr h hother => vadd_deferred hc hg hp x d a b hd ha hb hr h hother⟩

/-! ## Visibility -/

section Seen

variable {L : Nat} (step cycle k : Nat) (pc : Pc)

/-- Registers as they are where no write in flight is due. -/
theorem sameRegs_of_flights (g : Group) (fs : List Flight) : ({ g with flights := fs } : Group).SameRegs g :=
  ⟨rfl, rfl, rfl, rfl, rfl, rfl, rfl, rfl⟩

theorem landAll_of_nearer (fs : List Flight) (g : Group) :
    (fs.map fun f => { f with left := f.left - step }).foldl Group.land1 g = fs.foldl Group.land1 g := by
  rw [List.foldl_map]
  rfl

/-- Writes of one latency have landed once that many steps have passed. -/
theorem after_age_of_due (hL : L ≤ step + k) (hf : ∀ f ∈ g.flights, f.left = L) :
    ((g.after step cycle pc).age k).SameRegs g.flown := by
  rw [after_eq]
  by_cases hs : L ≤ step
  · have hage : g.age step = g.flown := age_of_due g step fun f h => (hf f h).trans_le hs
    rw [hage, age_of_no_flights _ (by rw [moved_flights, flown_flights])]
    exact moved_sameRegs _ _ _ _
  · rw [age_of_not_due g step fun f h => by rw [hf f h]; omega, age_of_due _ k (by
      intro f h
      rw [moved_flights] at h
      obtain ⟨y, hy, rfl⟩ := List.mem_map.1 h
      have := hf y hy
      show y.left - step ≤ k
      omega), moved_flights, landAll_of_nearer]
    refine Group.SameRegs.landAll ?_ g.flights
    exact ⟨rfl, rfl, rfl, rfl, rfl, rfl, rfl, rfl⟩

/-- Until then the registers read as they did. -/
theorem after_age_of_not_due (hL : step + k < L) (hf : ∀ f ∈ g.flights, f.left = L) :
    ((g.after step cycle pc).age k).SameRegs g := by
  rw [after_eq, age_of_not_due g step fun f h => by rw [hf f h]; omega, age_of_not_due _ k (by
    intro f h
    rw [moved_flights] at h
    obtain ⟨y, hy, rfl⟩ := List.mem_map.1 h
    have := hf y hy
    show k < y.left - step
    omega)]
  exact (sameRegs_of_flights _ _).trans ((moved_sameRegs _ _ _ _).trans (sameRegs_of_flights g _))

theorem age_inHandler (g : Group) (k : Nat) : (g.age k).inHandler = g.inHandler :=
  (congrArg Group.inHandler (landAll_apart _ _) :)

theorem after_age_inHandler (g : Group) : ((g.after step cycle pc).age k).inHandler = g.inHandler := by
  rw [age_inHandler, after_eq]
  exact age_inHandler g step

end Seen

theorem s_of_sameRegs {h : Group} (e : h.SameRegs g) (hh : h.inHandler = g.inHandler) (r : Nat) :
    h.s r = g.s r := by
  unfold Group.s Group.banked
  rw [hh, e.sreg, e.hsreg]

theorem fly_sameRegs (hq : g.flights = []) (L : Nat) (k : RegKind) (r : Nat) (lanes val : Word)
    (vec : Tab Lane) : (g.fly L k r lanes val vec).SameRegs g := by
  rw [fly_of_no_flights g hq]
  split
  · exact .refl g
  · exact sameRegs_of_flights g _

theorem fly_inHandler (hq : g.flights = []) (L : Nat) (k : RegKind) (r : Nat) (lanes val : Word)
    (vec : Tab Lane) : (g.fly L k r lanes val vec).inHandler = g.inHandler := by
  rw [fly_of_no_flights g hq]
  split <;> rfl

theorem flown_inHandler (g : Group) : g.flown.inHandler = g.inHandler :=
  (congrArg Group.inHandler (flown_apart g) :)

/-- R101: a scalar in flight reads as it did until its latency has passed. -/
theorem flyS_seen (hq : g.flights = []) (L r : Nat) (v : Word) (step cycle k : Nat) (pc : Pc) :
    (((g.flyS L r v).after step cycle pc).age k).s r = if L ≤ step + k then v else g.s r := by
  have hleft : ∀ f ∈ (g.flyS L r v).flights, f.left = L := fly_left g hq L _ _ _ _ _
  have hin := after_age_inHandler step cycle k pc (g.flyS L r v)
  have hh : (g.flyS L r v).inHandler = g.inHandler := fly_inHandler hq L _ _ _ _ _
  have hregs : (g.flyS L r v).SameRegs g := fly_sameRegs hq L _ _ _ _ _
  by_cases h : L ≤ step + k
  · have hflown : (g.flyS L r v).flown.s r = v := by
      have hb : (g.flyS L r v).flown.banked .scalar r = g.banked .scalar r := by
        unfold Group.banked
        rw [flown_inHandler, hh]
      rw [s_eq_sIn, flyS_sIn g hq, if_pos ⟨hb, rfl⟩]
    rw [if_pos h, s_of_sameRegs (after_age_of_due step cycle k pc h hleft)
      (hin.trans (flown_inHandler _).symm), hflown]
  · rw [if_neg h, s_of_sameRegs (after_age_of_not_due step cycle k pc (by omega) hleft) hin,
      s_of_sameRegs hregs hh]

/-- R101: so do the lanes of a vector register. -/
theorem flyV_seen (hq : g.flights = []) (L r : Nat) (lanes : Word) (v : Nat → Lane)
    (step cycle k : Nat) (pc : Pc) {l : Nat} (hl : l < 64) :
    (((g.flyV L r lanes v).after step cycle pc).age k).v r l =
      if L ≤ step + k ∧ bit lanes l = true then v l else g.v r l := by
  have hleft : ∀ f ∈ (g.flyV L r lanes v).flights, f.left = L := fly_left g hq L _ _ _ _ _
  have hregs : (g.flyV L r lanes v).SameRegs g := fly_sameRegs hq L _ _ _ _ _
  by_cases h : L ≤ step + k
  · rw [(after_age_of_due step cycle k pc h hleft).v, flyV_v g hq _ _ _ _ _ _ hl]
    simp [h]
  · rw [if_neg fun e => h e.1, (after_age_of_not_due step cycle k pc (by omega) hleft).v,
      hregs.v]

theorem scodeStep_eq (x : BitVec 2) (L : Nat) :
    scodeStep x (some L) = if x = 3 then L else x.toNat + 1 := rfl

theorem after_readyAt (g : Group) (step cycle : Nat) (pc : Pc) :
    (g.after step cycle pc).readyAt = cycle + step := rfl

theorem visibility : Visibility := by
  intro s c n g hr x d a b
  have hq := hr.quiet.flights
  refine ⟨?_, fun hd ha hb => ?_⟩
  · refine ⟨_, _, (exec_sadd x d a b s).trans
      (issueLocal_done hr.cur hr.here (passes_quiet _ _ _ _ hr.quiet rfl rfl rfl)),
      grp_finish _ _ _ _ _ _, after_readyAt _ _ _ _, fun k _ => ?_⟩
    exact flyS_seen hq _ _ _ _ _ _ _
  · refine ⟨_, _, (exec_vaddI32 x d a b s).trans
      (issueLocal_done hr.cur hr.here
        (passes_quiet _ _ _ _ hr.quiet rfl (vadd_regs d a b hd ha hb) rfl)),
      grp_finish _ _ _ _ _ _, after_readyAt _ _ _ _, fun k _ l hl => ?_⟩
    rw [flyV_seen hq _ _ _ _ _ _ _ _ hl, i32_addL]
    rfl

/-- Settles O57: each check on the registers by the equation of `operandStage` for its outcome, and the
visibility of a result by the age of its write in flight. -/
theorem operandRules : Obligations.OperandRules := ⟨operandChecks, visibility⟩

end Sys2Proof.Machine
end

section
/-!
PROOFS. Mask logic (R137, R138), moves from masks to scalars (R119), and the mask stack (R139 to R142).
-/

namespace Sys2Proof.Machine

open Sys2Proof.Claim

variable {s : State} {c n : Nat} {g g' e : Group} {f : Form} {i : Instr}

/-! ## Mask logic -/

/-- A mask write in flight touches no scalar, no vector and no flag. -/
theorem flyM_others (hq : g.flights = []) (L r : Nat) (lanes v : Word) :
    (∀ b q, (g.flyM L r lanes v).flown.sIn b q = g.sIn b q) ∧
      (∀ q l, (g.flyM L r lanes v).flown.v q l = g.v q l) ∧
      (g.flyM L r lanes v).flown.sfl = g.sfl := by
  unfold Group.flyM
  rw [fly_flown g hq]
  split
  · exact ⟨fun _ _ => rfl, fun _ _ => rfl, rfl⟩
  · unfold Group.land1 Group.setM
    cases g.banked .mask r <;> exact ⟨fun _ _ => rfl, fun _ _ => rfl, rfl⟩

theorem m_of_sameRegs {h : Group} (e : h.SameRegs g) (hh : h.inHandler = g.inHandler) (r : Nat) :
    h.m r = g.m r := by
  unfold Group.m Group.banked
  rw [hh, e.mreg, e.hmreg]

/-- R138: a mask written as a whole lands as the write clips it. -/
theorem flyM_whole (hq : g.flights = []) (L r : Nat) (v : Word) (b : Bool) :
    (g.flyM L r allLanes (g.clip v)).flown.mIn b r =
      if b = g.banked .mask r then v &&& g.live else g.mIn b r := by
  have hwhole : ∀ y : Word, (y &&& ~~~allLanes) ||| (g.clip v &&& allLanes) = v &&& g.live := by
    intro y
    rw [allLanes, BitVec.not_allOnes, BitVec.and_zero, BitVec.zero_or, BitVec.and_allOnes]
    rfl
  rw [flyM_mIn g hq L r allLanes _ b r (by decide), hwhole, BitVec.and_assoc, BitVec.and_self]
  simp

/-- An instruction that writes one mask register as a whole. -/
theorem toMask_of_issue {nd : Group → Need} {body : Group → Group} {L r : Nat} {v : Word}
    (hr : Ready s c n g) (hL : L ≤ 8) (hi : exec i s = issueLocal f nd body s)
    (hb : body g = g.flyM L r allLanes (g.clip v)) (h1 : (nd g).codes = true)
    (h2 : (nd g).regs = true) (h3 : (nd g).ctx = true) (hlen : f.len = 4) :
    Completes s c n g i (g.pc + 4) g { ms := [r] } fun h => h.m r = v &&& g.live := by
  have hq := hr.quiet.flights
  obtain ⟨hs, hv, hf⟩ := flyM_others hq L r allLanes (g.clip v)
  have hbase : ({ g.flyM L r allLanes (g.clip v) with flights := [] } : Group) = g :=
    fly_base g hq _ _ _ _ _ _
  refine completesIn_of_finish (hi.trans (issueLocal_done hr.cur hr.here
    (passes_quiet _ _ _ _ hr.quiet h1 h2 h3))) ?_ elsewhere_finish L hL ?_ ?_ ?_ ?_
  · rw [hb, hlen]
    unfold Group.nextPc Group.flyM
    rw [fly_pc g hq]
    rfl
  · rw [hb]
    exact fly_left g hq _ _ _ _ _ _
  · rw [hb, hbase]
  · rw [hb]
    refine ⟨fun b q _ => hs b q, fun b q h => ?_, fun q l _ _ => hv q l, fun _ => hf⟩
    rw [flyM_mIn g hq _ _ _ _ _ _ (by decide), if_neg]
    rintro ⟨rfl, rfl⟩
    exact h ⟨List.mem_singleton_self _, rfl⟩
  · rw [hb, hbase]
    intro h hregs hfix
    have hin : h.inHandler = g.inHandler := (congrArg Group.inHandler hfix : _)
    have hbank : h.banked .mask r = g.banked .mask r := by
      unfold Group.banked
      rw [hin]
    rw [m_eq_mIn, hregs.mIn, hbank, flyM_whole hq, if_pos rfl]

/-- A group with another EXEC, another mask stack, and other registers pending. -/
def Group.withExec (g : Group) (exec : Word) : Group := { g with exec := exec }
def Group.masked (g : Group) (exec : Word) (stack : List StackEnt) : Group :=
  { g with exec := exec, stack := stack }
def Group.pending (g : Group) (l : List Pending) : Group := { g with pend := l }

/-- What an instruction that puts no write in flight keeps of its group. -/
structure Group.Unflown (g g' : Group) : Prop where
  pc : g'.pc = g.pc
  flights : g'.flights = g.flights
  regs : g.SameRegs g'

theorem withExec_unflown (g : Group) (exec : Word) : g.Unflown (g.withExec exec) :=
  ⟨rfl, rfl, rfl, rfl, rfl, rfl, rfl, rfl, rfl, rfl⟩

theorem masked_unflown (g : Group) (exec : Word) (stack : List StackEnt) :
    g.Unflown (g.masked exec stack) := ⟨rfl, rfl, rfl, rfl, rfl, rfl, rfl, rfl, rfl, rfl⟩

theorem pending_unflown (g : Group) (l : List Pending) : g.Unflown (g.pending l) :=
  ⟨rfl, rfl, rfl, rfl, rfl, rfl, rfl, rfl, rfl, rfl⟩

theorem setFormat_unflown (g : Group) (v : BitVec 32) : g.Unflown (g.setFormat v) := by
  unfold Group.setFormat
  split <;> exact ⟨rfl, rfl, rfl, rfl, rfl, rfl, rfl, rfl, rfl, rfl⟩

theorem Group.Unflown.trans {g h k : Group} (a : g.Unflown h) (b : h.Unflown k) : g.Unflown k :=
  ⟨b.pc.trans a.pc, b.flights.trans a.flights, a.regs.trans b.regs⟩

/-- Such an instruction of four bytes completes, with the rest of its core as `K` has it. -/
theorem completesIn_unflown {need : Work → Group → Need} {body : Work → Nat → Nat → Group → Res}
    {K : Core} {w' : Work} (hr : Ready s c n g) (hi : exec i s = issue f need body s)
    (h1 : (need s.work g).codes = true) (h2 : (need s.work g).regs = true)
    (h3 : (need s.work g).ctx = true) (hb : body s.work c n g = .done w' e)
    (ha : Around s (gone f s w' c n g e) c n K) (hlen : f.len = 4) (hu : g.Unflown e) :
    CompletesIn s c n K g i (g.pc + 4) e {} fun _ => True := by
  have hq : e.flights = [] := hu.flights.trans hr.quiet.flights
  refine completesIn_of_finish (exec_gone hr hi h1 h2 h3 hb hlen hu.pc) rfl ha 0
    (by decide) (by rw [hq]; simp) ?_ ?_ fun _ _ _ => trivial
  · rw [landed_of_quiet hq]
  · rw [flown_of_no_flights _ hq]
    exact keeps_of_sameRegs hu.regs _

/-- R137, R138: what a mask instruction gives in m0 to m7, and in EXEC. -/
theorem putMask_completes {i : BitVec 6 → Instr} {f : BitVec 6 → Form} {nd : BitVec 6 → Group → Need}
    {F : Group → Word} (hr : Ready s c n g)
    (hi : ∀ d, exec (i d) s = issueLocal (f d) (nd d) (fun gr => gr.putMask d.toNat (F gr)) s)
    (h1 : ∀ d, (nd d g).codes = true)
    (h2 : ∀ d : BitVec 6, d.toNat ≤ 8 → (nd d g).regs = true) (h3 : ∀ d, (nd d g).ctx = true)
    (hlen : ∀ d, (f d).len = 4) {d : BitVec 6} (hd : d.toNat < 8) :
    Completes s c n g (i d) (g.pc + 4) g { ms := [d.toNat] } (fun h => h.m d.toNat = F g &&& g.live) ∧
      Completes s c n g (i 8) (g.pc + 4) (g.withExec (F g &&& g.live)) {} fun _ => True := by
  refine ⟨toMask_of_issue (L := Lsalu) hr (by decide) (hi d) ?_ (h1 d) (h2 d (by omega)) (h3 d)
    (hlen d), ?_⟩
  · unfold Group.putMask
    rw [if_neg (by omega)]
  · exact completesIn_unflown hr (hi 8) (h1 8) (h2 8 (by decide)) (h3 8) rfl elsewhere_finish (hlen 8)
      (withExec_unflown g _)

theorem maskLogicResults : MaskLogicResults := by
  intro s c n g hr x d a b q ha hb hd
  have code : ∀ r : BitVec 6, r.toNat ≤ 8 → maskCode r.toNat = true := fun _ h => decide_eq_true h
  have two : ∀ d : BitVec 6, d.toNat ≤ 8 → (maskCode d.toNat && maskCode a.toNat) = true :=
    fun d h => by rw [code d h, code a ha]; rfl
  have three : ∀ d : BitVec 6, d.toNat ≤ 8 →
      (maskCode d.toNat && maskCode a.toNat && maskCode b.toNat) = true :=
    fun d h => by rw [two d h, code b hb]; rfl
  exact ⟨putMask_completes (i := fun d => .mand x d a b) hr (fun _ => rfl) (fun _ => rfl) three
      (fun _ => rfl) (fun _ => rfl) hd,
    putMask_completes (i := fun d => .mor x d a b) hr (fun _ => rfl) (fun _ => rfl) three
      (fun _ => rfl) (fun _ => rfl) hd,
    putMask_completes (i := fun d => .mxor x d a b) hr (fun _ => rfl) (fun _ => rfl) three
      (fun _ => rfl) (fun _ => rfl) hd,
    putMask_completes (i := fun d => .mnot x d a) hr (fun _ => rfl) (fun _ => rfl) two
      (fun _ => rfl) (fun _ => rfl) hd,
    putMask_completes (i := fun d => .mmov x d a) hr (fun _ => rfl) (fun _ => rfl) two
      (fun _ => rfl) (fun _ => rfl) hd,
    putMask_completes (i := fun d => .mmovFromScalar x d q) hr (fun _ => rfl) (fun _ => rfl) code
      (fun _ => rfl) (fun _ => rfl) hd⟩

/-! ## Masks into scalars -/

/-- R106: what an operation of a quiet group leaves pending. -/
theorem await_of_quiet (hq : g.Quiet) (k : RegKind) (r : Nat) (lanes : Word) (op : Nat) :
    g.await k r lanes op = g.pending [{ kind := k, reg := r, bank := g.banked k r, lanes, op }] := by
  have hcancel := cancel_of_no_flights g hq.flights k r (g.banked k r) lanes
  unfold Group.await Group.pending
  dsimp only
  rw [hcancel, hq.pend, List.nil_append]

/-- R119: the result of variable latency that brings a scalar its value. -/
def scalarLand (g : Group) (k : Core) (slot r : Nat) (v : Word) : XcOp :=
  { slot, flags := 0, counted := false, trap := none, flights := [], due := some (k.cycle + 2)
    writes := [{ kind := .scalar, reg := r, bank := g.banked .scalar r, lanes := allLanes, left := 0
                 val := v, vec := [] }] }

/-- A core that has issued an operation of variable latency. -/
def Core.issues (k : Core) (x : XcOp) : Core :=
  { k with opSeq := k.opSeq + 1, xcs := tins k.opSeq x k.xcs }

theorem maskToScalar_completes (hr : Ready s c n g) {x : BitVec 32} {y : BitVec 2} {d a : BitVec 6}
    {F : Word → Word} {v : Word} (hi : exec i s = maskToScalar x y d a F s) (hv : F (g.mf a.toNat) = v)
    (ha : a.toNat ≤ 8) :
    CompletesIn s c n ((s.work.core c).issues (scalarLand g (s.work.core c) n d.toNat v)) g i
      (g.pc + 4)
      (g.pending [{ kind := .scalar, reg := d.toNat, bank := g.banked .scalar d.toNat
                    lanes := allLanes, op := (s.work.core c).opSeq }]) {} fun _ => True := by
  subst hv
  refine completesIn_unflown (w' := s.work.setCore c ((s.work.core c).issues
    (scalarLand g (s.work.core c) n d.toNat (F (g.mf a.toNat))))) hr hi rfl (decide_eq_true ha) rfl ?_
    (around_finish rfl) rfl (pending_unflown g _)
  rw [← await_of_quiet hr.quiet]
  rfl

theorem upto_zero (n : Nat) : upto n = List.range n := by simp [upto]

theorem popc_eq (x : Word) : popc x = ((List.range 64).filter x.getLsbD).length := by
  unfold popc
  rw [upto_zero]

theorem firstBit_eq (x : Word) : firstBit x = ((List.range 64).find? x.getLsbD).getD 64 := by
  unfold firstBit
  rw [upto_zero]
  rfl

theorem maskToScalarIssue : MaskToScalarIssue := by
  intro s c n g hr x d a ha
  refine ⟨?_, ?_, ?_⟩
  · exact maskToScalar_completes (F := id) (i := .mmovToScalar x d a) hr rfl rfl ha
  · exact maskToScalar_completes (F := fun y => BitVec.ofNat 64 (popc y)) (i := .mpopc x d a) hr rfl
      (congrArg (BitVec.ofNat 64) (popc_eq _)) ha
  · exact maskToScalar_completes (F := fun y => BitVec.ofNat 64 (firstBit y)) (i := .mfirst x d a) hr rfl
      (congrArg (BitVec.ofNat 64) (firstBit_eq _)) ha

/-! ## The mask stack -/

theorem mend_clean {k : Core} (h : k.upset = []) (unit a : Nat) : k.mend unit a = k := by
  unfold Core.mend
  rw [h]
  exact congrArg (fun u => { k with upset := u }) h.symm

theorem pushRow_clean {w : Work} (h : (w.core c).upset = []) (n : Nat) (g : Group) :
    w.pushRow c n g = w.setCore c (w.core c) := by
  unfold Work.pushRow Work.modCore
  exact congrArg (w.setCore c) (mend_clean h _ _)

/-- R142: lanes leave every entry above the loop's and join the PEND of the loop's. -/
theorem breakOut_loop (b : Word) (above below : List StackEnt) {e : StackEnt} (he : e.kind = 2)
    (h : ∀ y ∈ above, y.kind ≠ 2) :
    breakOut b (above ++ e :: below) =
      some (above.map (fun y => { y with sexec := y.sexec &&& ~~~b, pend := y.pend &&& ~~~b }) ++
        { e with pend := e.pend ||| b } :: below) := by
  induction above with
  | nil => simp [breakOut, he]
  | cons y above ih =>
    obtain ⟨hy, habove⟩ := List.forall_mem_cons.1 h
    rw [List.cons_append, breakOut, if_neg hy, ih habove]
    rfl

section Stack

variable (hr : Ready s c n g) (hclean : (s.work.core c).upset = []) (x : BitVec 2) (a : BitVec 6)

include hr hclean

theorem ifm_completes (ha : a.toNat ≤ 8) (hroom : g.stack.length < 32) :
    Completes s c n g (.ifm x a) (g.pc + 4)
      (g.masked (g.exec &&& g.mf a.toNat)
        ({ sexec := g.exec, pend := g.exec &&& ~~~g.mf a.toNat, sfmt := g.format, kind := 0 } ::
          g.stack)) {} fun _ => True := by
  refine completesIn_unflown hr rfl rfl (decide_eq_true ha) rfl ?_ (around_finish rfl) rfl
    (masked_unflown g _ _)
  rw [← pushRow_clean hclean]
  exact if_neg (by omega)

theorem brkmLoop_completes (hroom : g.stack.length < 32) :
    Completes s c n g (.brkmLoop x) (g.pc + 4)
      (g.masked g.exec ({ sexec := g.exec, pend := 0, sfmt := g.format, kind := 2 } :: g.stack)) {}
      fun _ => True := by
  refine completesIn_unflown hr rfl rfl rfl rfl ?_ (around_finish rfl) rfl (masked_unflown g _ _)
  rw [← pushRow_clean hclean]
  exact if_neg (by omega)

theorem elsem_completes {e : StackEnt} {t : List StackEnt} (hstack : g.stack = e :: t)
    (he : e.kind = 0) :
    Completes s c n g (.elsem x) (g.pc + 4)
      ((g.masked e.pend ({ e with pend := 0, kind := 1 } :: t)).setFormat e.sfmt) {}
      fun _ => True := by
  refine completesIn_unflown hr rfl rfl rfl rfl ?_ elsewhere_finish rfl
    ((masked_unflown g _ _).trans (setFormat_unflown _ _))
  rw [hstack]
  dsimp only
  rw [readRows_clean hclean, if_neg (by simp [he])]
  rfl

theorem endm_completes {e : StackEnt} {t : List StackEnt} (hstack : g.stack = e :: t) :
    Completes s c n g (.endm x) (g.pc + 4) ((g.masked e.sexec t).setFormat e.sfmt) {}
      fun _ => True := by
  refine completesIn_unflown hr rfl rfl rfl rfl ?_ elsewhere_finish rfl
    ((masked_unflown g _ _).trans (setFormat_unflown _ _))
  rw [hstack]
  dsimp only
  rw [readRows_clean hclean]
  rfl

theorem brkm_completes (ha : a.toNat ≤ 8) {above below : List StackEnt} {e : StackEnt}
    (hstack : g.stack = above ++ e :: below) (he : e.kind = 2) (habove : ∀ y ∈ above, y.kind ≠ 2) :
    Completes s c n g (.brkm x a) (g.pc + 4)
      (g.masked (g.exec &&& ~~~(g.exec &&& g.mf a.toNat))
        (above.map (fun y =>
            { y with
              sexec := y.sexec &&& ~~~(g.exec &&& g.mf a.toNat)
              pend := y.pend &&& ~~~(g.exec &&& g.mf a.toNat) }) ++
          { e with pend := e.pend ||| (g.exec &&& g.mf a.toNat) } :: below)) {} fun _ => True := by
  refine completesIn_unflown hr rfl rfl (decide_eq_true ha) ?_ ?_ elsewhere_finish rfl
    (masked_unflown g _ _)
  · simp [hstack, he]
  · have hbreak := breakOut_loop (g.exec &&& g.mf a.toNat) above below he habove
    rw [← hstack] at hbreak
    dsimp only
    rw [hbreak]
    dsimp only
    rw [readRows_clean hclean]
    rfl

end Stack

theorem maskStackResults : MaskStackResults := fun _ _ _ _ hr hclean x a ha =>
  ⟨fun hroom => ⟨ifm_completes hr hclean x a ha hroom, brkmLoop_completes hr hclean x hroom⟩,
    fun _ _ hstack => ⟨elsem_completes hr hclean x hstack, endm_completes hr hclean x hstack⟩,
    fun _ _ _ hstack he habove => brkm_completes hr hclean x a ha hstack he habove⟩

/-- Settles O6: mask logic by `putMask`, a mask into a scalar by the result of variable latency that it
issues, and the mask stack by the equation of each instruction's own part. -/
theorem maskInstructions : Obligations.MaskInstructions :=
  ⟨maskLogicResults, maskToScalarIssue, maskStackResults⟩

end Sys2Proof.Machine
end

section
/-!
PROOFS. Cells of the C buffer (R59, R217): what each code of TLD makes of a cell, and TST a cell of.
-/

namespace Sys2Proof.Machine

open Sys2Proof.Claim

/-! ## Binary64 of an integer -/

theorem F64_unit : F64.unit = -1074 := by decide

theorem F64_maxFin : F64.maxFin + 1 = 2047 * 2 ^ 52 := by decide +kernel

theorem F64_signBit : F64.signBit = 2 ^ 63 := rfl

/-- The fields of a binary64 encoding. -/
theorem F64_fields {fr ex b : Nat} (hfr : fr < 2 ^ 52) (hex : ex < 2047) (hb : b < 2) :
    (fr + ex * 2 ^ 52 + b * 2 ^ 63) % 2 ^ 52 = fr ∧
      (fr + ex * 2 ^ 52 + b * 2 ^ 63) / 2 ^ 52 % 2 ^ 11 = ex ∧
      (fr + ex * 2 ^ 52 + b * 2 ^ 63) / 2 ^ 63 % 2 = b := by
  refine ⟨?_, ?_, ?_⟩ <;> omega

theorem F64_signed (neg : Bool) (n : Nat) : F64.signed neg n = n + neg.toNat * 2 ^ 63 := by
  cases neg
  · exact (Nat.add_zero n).symm
  · exact Nat.add_comm _ _

/-- R64: a normal number, read from its fields. -/
theorem F64_read_normal (neg : Bool) {fr ex : Nat} (hfr : fr < 2 ^ 52) (h0 : 0 < ex) (h1 : ex < 2047) :
    F64.read (F64.signed neg (fr + ex * 2 ^ 52)) = .fin neg (2 ^ 52 + fr) (ex - 1075) := by
  obtain ⟨hfrac, hexp, hneg⟩ := F64_fields hfr h1 neg.toNat_lt
  have hp : F64.p = 52 := rfl
  have he : F64.e = 11 := rfl
  have hfinite : ¬(ex = 2 ^ 11 - 1 ∧ F64.ieee = true) := fun h => by omega
  have hplace : (-1074 : Int) + ex - 1 = ex - 1075 := by omega
  have hb : decide (neg.toNat = 1) = neg := by cases neg <;> rfl
  rw [F64_signed]
  unfold FFmt.read
  dsimp only
  rw [F64_signBit, hp, he, hfrac, hexp, hneg, F64_unit, if_neg hfinite, if_neg (fun h => h.1 rfl),
    if_neg (by omega), hplace, hb]

/-- A number of at most 53 bits, moved up to 53. -/
theorem moved_to_53 {m : Nat} (h0 : m ≠ 0) (hm : m < 2 ^ 53) :
    2 ^ 52 ≤ m * 2 ^ (52 - m.log2) ∧ m * 2 ^ (52 - m.log2) < 2 ^ 53 := by
  have ht : m.log2 < 53 := (Nat.log2_lt h0).2 hm
  constructor
  · calc 2 ^ 52 = 2 ^ m.log2 * 2 ^ (52 - m.log2) := by rw [← Nat.pow_add]; congr 1; omega
      _ ≤ _ := Nat.mul_le_mul_right _ (Nat.log2_self_le h0)
  · calc _ < 2 ^ (m.log2 + 1) * 2 ^ (52 - m.log2) :=
          Nat.mul_lt_mul_of_pos_right Nat.lt_log2_self (by positivity)
      _ = 2 ^ 53 := by rw [← Nat.pow_add]; congr 1; omega

/-- R70: rounding it into 53 bits moves it up. -/
theorem roundAt_up (neg : Bool) {m t : Nat} (ht : t < 53) :
    roundAt 0 neg m 0 (t - 52) = m * 2 ^ (52 - t) := by
  have hup : ((0 : Int) - (t - 52)).toNat = 52 - t := by omega
  rw [roundAt, if_pos (by omega), hup]

/-- R70, R71: what rounding delivers where nothing overflows, by its exponent `q` and the number `r` of
steps of it. -/
theorem round_bits {f : FFmt} {mode : Nat} {neg : Bool} {m : Nat} {x q : Int} {r : Nat} (h0 : m ≠ 0)
    (hq : max ((m.log2 : Int) + x) (1 - (f.bias : Int)) - (f.p : Int) = q)
    (hr : roundAt mode neg m x q = r) (hfits : r + (q - f.unit).toNat * 2 ^ f.p ≤ f.maxFin) :
    (f.round mode neg m x).bits = f.signed neg (r + (q - f.unit).toNat * 2 ^ f.p) := by
  unfold FFmt.round
  rw [if_neg h0]
  dsimp only
  rw [hq, hr, if_neg (Nat.not_lt.2 hfits)]

/-- R70: a number of at most 53 bits is rounded to itself. -/
theorem F64_round_exact (neg : Bool) {m : Nat} (h0 : m ≠ 0) (hm : m < 2 ^ 53) :
    (F64.round 0 neg m 0).bits =
      F64.signed neg ((m * 2 ^ (52 - m.log2) - 2 ^ 52) + (m.log2 + 1023) * 2 ^ 52) := by
  have ht : m.log2 < 53 := (Nat.log2_lt h0).2 hm
  obtain ⟨hlow, hhigh⟩ := moved_to_53 h0 hm
  generalize hr : m * 2 ^ (52 - m.log2) = r at hlow hhigh ⊢
  have hround : roundAt 0 neg m 0 (m.log2 - 52) = r := (roundAt_up neg ht).trans hr
  generalize htop : m.log2 = t at ht hround ⊢
  have hfits : r + (t + 1022) * 2 ^ 52 ≤ F64.maxFin := by
    refine Nat.le_of_lt_succ (lt_of_lt_of_eq ?_ F64_maxFin.symm)
    omega
  have hp : F64.p = 52 := rfl
  have hbias : F64.bias = 1023 := rfl
  have hq : max ((t : Int) + 0) (1 - (F64.bias : Int)) - (F64.p : Int) = t - 52 := by
    rw [hp, hbias]
    omega
  have hsteps : ((t : Int) - 52 - F64.unit).toNat = t + 1022 := by
    rw [F64_unit]
    omega
  have hbits : r + (t + 1022) * 2 ^ 52 = (r - 2 ^ 52) + (t + 1023) * 2 ^ 52 := by omega
  rw [← hbits, ← hsteps, ← hp]
  exact round_bits h0 (htop ▸ hq) hround (by rw [hsteps, hp]; exact hfits)

theorem F64_round_lt (neg : Bool) {m : Nat} (h0 : m ≠ 0) (hm : m < 2 ^ 53) :
    (F64.round 0 neg m 0).bits < 2 ^ 64 := by
  have ht : m.log2 < 53 := (Nat.log2_lt h0).2 hm
  have hhigh := (moved_to_53 h0 hm).2
  have hb := neg.toNat_lt
  rw [F64_round_exact neg h0 hm, F64_signed]
  omega

/-- R70: what stands in the encoding. -/
theorem stands_F64_round (neg : Bool) {m : Nat} (h0 : m ≠ 0) (hm : m < 2 ^ 53) :
    Stands (F64.read (F64.round 0 neg m 0).bits) ((if neg then -1 else 1) * (m : ℝ)) := by
  have ht : m.log2 < 53 := (Nat.log2_lt h0).2 hm
  obtain ⟨hlow, hhigh⟩ := moved_to_53 h0 hm
  have hexp : ((m.log2 + 1023 : Nat) : Int) - 1075 = -((52 - m.log2 : Nat) : Int) := by omega
  rw [F64_round_exact neg h0 hm, F64_read_normal neg (by omega) (by omega) (by omega), hexp,
    Nat.add_sub_cancel' hlow]
  show _ = _ * ((m * 2 ^ (52 - m.log2) : Nat) : ℝ) * _
  rw [zpow_neg, zpow_natCast, Nat.cast_mul, Nat.cast_pow, Nat.cast_ofNat, ← mul_assoc, mul_assoc _ (2 ^ _),
    mul_inv_cancel₀ (by positivity), mul_one]

/-! ## Cells -/

theorem cellInt_eq (x : Cell40) : cellInt x = (x.extractLsb' 0 36).toInt := by
  unfold cellInt
  congr 1

theorem cellInt_bounds (x : Cell40) : -2 ^ 35 ≤ cellInt x ∧ cellInt x < 2 ^ 35 :=
  ⟨BitVec.le_toInt _, BitVec.toInt_lt⟩

/-- R59: the flags of a cell, each in its place. -/
theorem cellFlags_bit (x : Cell40) {i : Nat} (hi : i < 7) :
    (cellFlags x).getLsbD i =
      (decide (i ≠ 1 ∧ i < 5) && x.getLsbD (if i = 0 then 36 else 35 + i)) := by
  have hx : x.toNat < 2 ^ 40 := x.isLt
  have hcell : ∀ k, x.getLsbD (36 + k) = decide (x.toNat / 2 ^ 36 / 2 ^ k % 2 = 1) := by
    intro k
    rw [BitVec.getLsbD, Nat.testBit_eq_decide_div_mod_eq, Nat.pow_add, Nat.div_div_eq_div_mul]
  have hflag : (cellFlags x).getLsbD i =
      decide ((x.toNat / 2 ^ 36 % 2 + x.toNat / 2 ^ 36 / 2 * 4) / 2 ^ i % 2 = 1) := by
    rw [cellFlags, BitVec.getLsbD_ofNat, Nat.testBit_eq_decide_div_mod_eq, decide_eq_true hi,
      Bool.true_and]
  have hf : x.toNat / 2 ^ 36 < 16 := by omega
  generalize x.toNat / 2 ^ 36 = f at hcell hflag hf
  have h0 := hcell 0
  have h1 := hcell 1
  have h2 := hcell 2
  have h3 := hcell 3
  rw [hflag]
  interval_cases i <;> simp_all <;> omega

theorem cellRead_single (x : Cell40) : cellRead 0 x = (x.extractLsb' 0 32).zeroExtend 64 := by
  apply BitVec.eq_of_toNat_eq
  simp [cellRead, natWord]

theorem cellRead_clamped (x : Cell40) :
    cellRead 1 x =
      (BitVec.ofInt 32 (max (-2 ^ 31) (min (2 ^ 31 - 1) (cellInt x)))).zeroExtend 64 := by
  have hclamp : (if cellInt x < -(2 ^ 31) then -(2 ^ 31)
      else if 2 ^ 31 ≤ cellInt x then 2 ^ 31 - 1 else cellInt x) =
      max (-2 ^ 31) (min (2 ^ 31 - 1) (cellInt x)) := by
    split
    · omega
    · split <;> omega
  unfold cellRead
  dsimp only
  rw [hclamp]
  apply BitVec.eq_of_toNat_eq
  simp [natWord]

theorem cellRead_float {x : Cell40} (h : cellInt x ≠ 0) :
    (cellRead 4 x).toNat = (F64.round 0 (decide (cellInt x < 0)) (cellInt x).natAbs 0).bits := by
  obtain ⟨hlow, hhigh⟩ := cellInt_bounds x
  have hread : cellRead 4 x = natWord (F64.roundInt 0 false (cellInt x) 0).bits := rfl
  rw [hread, FFmt.roundInt, if_neg h, natWord, BitVec.toNat_ofNat]
  exact Nat.mod_eq_of_lt (F64_round_lt _ (Int.natAbs_ne_zero.2 h) (by omega))

theorem cellRead_float_zero {x : Cell40} (h : cellInt x = 0) : cellRead 4 x = 0 := by
  have hread : cellRead 4 x = natWord (F64.roundInt 0 false (cellInt x) 0).bits := rfl
  rw [hread, FFmt.roundInt, if_pos h]
  rfl

theorem stands_cellRead (x : Cell40) : Stands (F64.read (cellRead 4 x).toNat) (cellInt x : ℝ) := by
  obtain ⟨hlow, hhigh⟩ := cellInt_bounds x
  by_cases h : cellInt x = 0
  · have hread : F64.read 0 = .fin false 0 (-1074) := by decide +kernel
    rw [cellRead_float_zero h, h]
    show Stands (F64.read 0) _
    rw [hread]
    simp [Stands]
  · have hvalue : ((cellInt x : Int) : ℝ) =
        (if decide (cellInt x < 0) then -1 else 1) * ((cellInt x).natAbs : ℝ) := by
      rw [Nat.cast_natAbs]
      by_cases hneg : cellInt x < 0
      · rw [abs_of_neg hneg]
        simp [hneg]
      · rw [abs_of_nonneg (not_lt.1 hneg)]
        simp [hneg]
    rw [cellRead_float h, hvalue]
    exact stands_F64_round _ (Int.natAbs_ne_zero.2 h) (by omega)

/-- The halves of a number of 36 bits that stands in a cell. -/
theorem cell_of_36 (x : BitVec 36) :
    (x.zeroExtend 40).extractLsb' 0 36 = x ∧ (x.zeroExtend 40).extractLsb' 36 4 = 0 := by
  constructor
  · exact (BitVec.setWidth_setWidth_of_le x (show 36 ≤ 40 by decide)).trans (BitVec.setWidth_eq x)
  · ext i hi
    simp

theorem cellWrite_signed (v : Word) :
    (cellWrite 1 v).extractLsb' 0 36 = (v.truncate 32 : BitVec 32).signExtend 36 ∧
      (cellWrite 1 v).extractLsb' 36 4 = 0 := cell_of_36 _

/-- R217: the numbers of 36 bits are those that sign extension gives back. -/
theorem signExtend_truncate_iff (v : Word) :
    (v.truncate 36 : BitVec 36).signExtend 64 = v ↔ ¬(v.toInt < -2 ^ 35 ∨ 2 ^ 35 ≤ v.toInt) := by
  have hlt := v.isLt
  rw [← BitVec.toInt_inj, BitVec.toInt_signExtend, BitVec.truncate_eq_setWidth, BitVec.toInt_setWidth,
    BitVec.toInt_eq_toNat_bmod v, Int.bmod_def, Int.bmod_def, Int.bmod_def]
  simp only [show min 64 36 = 36 from rfl]
  omega

theorem cellWrite_wide (v : Word) :
    (cellWrite 2 v).extractLsb' 0 36 = v.extractLsb' 0 36 ∧
      (cellWrite 2 v).extractLsb' 36 4 =
        if v.toInt < -2 ^ 35 ∨ 2 ^ 35 ≤ v.toInt then 2 else 0 := by
  have hlow : (v.truncate 36 : BitVec 36) = v.extractLsb' 0 36 := rfl
  have hcell : cellWrite 2 v = (v.extractLsb' 0 36).zeroExtend 40 |||
      if v.toInt < -2 ^ 35 ∨ 2 ^ 35 ≤ v.toInt then 1#40 <<< 37 else 0#40 := by
    unfold cellWrite
    simp only [signExtend_truncate_iff, ite_not]
    rw [hlow]
  obtain ⟨hval, hflags⟩ := cell_of_36 (v.extractLsb' 0 36)
  rw [hcell, BitVec.extractLsb'_or, BitVec.extractLsb'_or, hval, hflags]
  constructor
  · split <;> exact BitVec.or_zero
  · split <;> rfl

theorem cellConversions : CellConversions := by
  refine ⟨fun x => ?_, fun v => ⟨rfl, rfl, (cellWrite_signed v).1, (cellWrite_signed v).2,
    (cellWrite_wide v).1, (cellWrite_wide v).2⟩⟩
  rw [← cellInt_eq]
  exact ⟨rfl, fun i hi => cellFlags_bit x hi, cellRead_single x, cellRead_clamped x, rfl, rfl,
    stands_cellRead x, cellRead_float_zero⟩

end Sys2Proof.Machine
end

section
/-!
PROOFS. TLD and TST issue (R214 to R217).
-/

namespace Sys2Proof.Machine

open Sys2Proof.Claim

/-! ## Registers and lanes of an access -/

theorem tfind_map_self {α : Type} (x : Nat → α) {l : Nat} :
    ∀ {ls : List Nat}, l ∈ ls → tfind l (ls.map fun l => (l, x l)) = some (x l)
  | a :: t, hm => by
    by_cases h : a = l
    · subst h
      simp [tfind]
    · have ht : l ∈ t := (List.mem_cons.1 hm).resolve_left fun e => h e.symm
      simp [tfind, h, tfind_map_self x ht]

theorem tget_map_self {α : Type} (z : α) (x : Nat → α) {lanes : Word} {l : Nat} (hl : l < 64)
    (h : bit lanes l = true) : tget z l ((lanesOf lanes).map fun l => (l, x l)) = x l := by
  unfold tget
  rw [tfind_map_self x ((mem_lanesOf _ _).2 ⟨hl, h⟩)]
  rfl

theorem bufRegs_cases (buf w : Nat) : bufRegs buf w = 1 ∨ bufRegs buf w = 2 ∨ bufRegs buf w = 4 := by
  unfold bufRegs cbufRegs widthRegs
  split
  · split <;> simp
  · split
    · exact .inr (.inl rfl)
    · split <;> simp

/-- A lane of `k` registers, least significant first. -/
def laneNat (g : Group) (k r l : Nat) : Nat :=
  (List.range k).foldl (fun m j => m + (g.v (r + j) l).toNat * 2 ^ (32 * j)) 0

theorem laneData_eq (g : Group) (w r l : Nat) : laneData g w r l = laneNat g (widthRegs w) r l := by
  unfold laneData laneNat
  rw [upto_zero]

/-- The lanes that a store takes along, as the model holds them: 64 bits, and 64 more of a quad. -/
def lowData (g : Group) (k r l : Nat) : Word := natWord (laneData g (if k = 1 then 4 else 5) r l % 2 ^ 64)
def highData (g : Group) (r l : Nat) : Word := natWord (laneData g 5 (r + 2) l)

theorem laneNat_zero (g : Group) (r l : Nat) : laneNat g 0 r l = 0 := rfl

theorem laneNat_succ (g : Group) (k r l : Nat) :
    laneNat g (k + 1) r l = laneNat g k r l + (g.v (r + k) l).toNat * 2 ^ (32 * k) := by
  unfold laneNat
  rw [List.range_succ, List.foldl_append]
  rfl

/-- A quad is two pairs. -/
theorem laneNat_four (g : Group) (r l : Nat) :
    laneNat g 4 r l = laneNat g 2 r l + laneNat g 2 (r + 2) l * 2 ^ 64 := by
  have h2 : 2 ^ (32 * 2) = 2 ^ (32 * 0) * 2 ^ 64 := (Nat.pow_add 2 0 64 :)
  have h3 : 2 ^ (32 * 3) = 2 ^ (32 * 1) * 2 ^ 64 := (Nat.pow_add 2 32 64 :)
  rw [laneNat_succ g 3, laneNat_succ g 2, laneNat_succ g 1 (r + 2), laneNat_succ g 0 (r + 2), laneNat_zero,
    Nat.zero_add, Nat.add_mul, h2, h3, Nat.mul_assoc, Nat.mul_assoc, Nat.add_assoc]
  rfl

theorem laneNat_lt (g : Group) (r l : Nat) : laneNat g 1 r l < 2 ^ 64 ∧ laneNat g 2 r l < 2 ^ 64 := by
  have h0 := (g.v r l).isLt
  have h1 := (g.v (r + 1) l).isLt
  have hone : laneNat g 1 r l = (g.v r l).toNat := by
    rw [laneNat_succ, laneNat_zero, Nat.zero_add, Nat.mul_zero, Nat.pow_zero, Nat.mul_one]
    rfl
  rw [laneNat_succ g 1, hone]
  constructor <;> omega

theorem natWord_toNat {n : Nat} (h : n < 2 ^ 64) : (natWord n).toNat = n :=
  (BitVec.toNat_ofNat n 64).trans (Nat.mod_eq_of_lt h)

theorem lowData_toNat (g : Group) (r l : Nat) :
    (lowData g 1 r l).toNat = laneNat g 1 r l ∧ (lowData g 2 r l).toNat = laneNat g 2 r l ∧
      (lowData g 4 r l).toNat = laneNat g 2 r l := by
  obtain ⟨h1, h2⟩ := laneNat_lt g r l
  have hdata : ∀ k, k < 2 ^ 64 → (natWord (k % 2 ^ 64)).toNat = k := fun k hk => by
    rw [Nat.mod_eq_of_lt hk, natWord_toNat hk]
  unfold lowData
  simp only [laneData_eq]
  exact ⟨hdata _ h1, hdata _ h2, hdata _ h2⟩

theorem highData_toNat (g : Group) (r l : Nat) : (highData g r l).toNat = laneNat g 2 (r + 2) l := by
  unfold highData
  rw [laneData_eq]
  exact natWord_toNat (laneNat_lt g (r + 2) l).2

/-! ## The access that an instruction starts -/

/-- A TLD or TST in progress: its lanes at addresses of a buffer, and what a TST takes along. -/
def typedAccess (slot : Nat) (store : Bool) (buf w hc r base : Nat) (q : List (Nat × Nat)) (g : Group) :
    TAccess :=
  { slot, store, buf, code := w, core := hc, addr := q.map fun y => (y.1, base + y.2), reg := r
    bank := false, lanes := g.exec
    vals := if store then (lanesOf g.exec).map fun l => (l, lowData g (bufRegs buf w) r l) else []
    hi := if store && bufRegs buf w = 4 then (lanesOf g.exec).map fun l => (l, highData g r l) else [] }

theorem typedAccess_data (g : Group) (slot buf w hc r base : Nat) (q : List (Nat × Nat)) {l : Nat}
    (hl : l < 64) (h : bit g.exec l = true) :
    let a := typedAccess slot true buf w hc r base q g
    (tget 0 l a.vals).toNat + (tget 0 l a.hi).toNat * 2 ^ 64 = laneNat g (bufRegs buf w) r l := by
  obtain ⟨h1, h2, h4⟩ := lowData_toNat g r l
  have hvals : ∀ k, tget (0 : Word) l ((lanesOf g.exec).map fun l => (l, lowData g k r l)) =
      lowData g k r l :=
    fun k => tget_map_self 0 (fun l => lowData g k r l) hl h
  have hhigh : tget (0 : Word) l ((lanesOf g.exec).map fun l => (l, highData g r l)) = highData g r l :=
    tget_map_self 0 (fun l => highData g r l) hl h
  have hnone : (tget (0 : Word) l []).toNat * 2 ^ 64 = 0 := Nat.zero_mul _
  unfold typedAccess
  dsimp only
  rcases bufRegs_cases buf w with hk | hk | hk
  · rw [hk, if_pos rfl, hvals, h1, if_neg (by decide), hnone, Nat.add_zero]
  · rw [hk, if_pos rfl, hvals, h2, if_neg (by decide), hnone, Nat.add_zero]
  · rw [hk, if_pos rfl, if_pos (by decide), hvals, hhigh, h4, highData_toNat, laneNat_four]

/-! ## The group that a TLD leaves -/

/-- A vector register that awaits an operation in some lanes. -/
def awaited (lanes : Word) (op r : Nat) : Pending := { kind := .vector, reg := r, bank := false, lanes, op }

theorem await_vector {g : Group} (hq : g.flights = []) (r : Nat) (lanes : Word) (op : Nat) :
    g.await .vector r lanes op = g.pending (g.pend ++ [awaited lanes op r]) := by
  have hcancel := cancel_of_no_flights g hq .vector r (g.banked .vector r) lanes
  have hbank : g.banked .vector r = false := by
    unfold Group.banked
    cases g.inHandler <;> rfl
  unfold Group.await Group.pending
  dsimp only
  rw [hcancel, hbank]
  rfl

theorem await_pending {g : Group} (hq : g.flights = []) (l : List Pending) (r : Nat) (lanes : Word)
    (op : Nat) : (g.pending l).await .vector r lanes op = g.pending (l ++ [awaited lanes op r]) :=
  await_vector (g := g.pending l) hq r lanes op

theorem upto_eq (n a : Nat) : upto n a = (List.range n).map (a + ·) :=
  List.map_congr_left fun _ _ => Nat.add_comm _ _

theorem awaitRegs_eq {g : Group} (hq : g.flights = []) (hp : g.pend = []) (r n : Nat) (lanes : Word)
    (op : Nat) :
    g.awaitRegs r n lanes op =
      g.pending ((List.range n).map fun j => awaited lanes op (r + j)) := by
  unfold Group.awaitRegs
  rw [upto_eq]
  induction n with
  | zero =>
    show g = g.pending []
    rw [← hp]
    rfl
  | succ n ih =>
    rw [List.range_succ, List.map_append, List.map_append, List.foldl_append, ih]
    exact await_pending hq _ _ _ _

/-! ## Issue -/

variable {s : State} {c n : Nat} {g : Group} {i : Instr} {x : BitVec 32} {gs : BitVec 2} {store codes : Bool}
  {w d b o buf hc base size : Nat}

/-- The group that a TLD or TST leaves. -/
def typedIssued (g : Group) (store : Bool) (k d op : Nat) : Group :=
  if store then g.counted
  else g.counted.pending ((List.range k).map fun j => awaited g.exec op (d + j))

/-- The lanes of a TLD or TST lie in the group's allotment, each at a unit of its own. -/
def LanesWithin (buf w size : Nat) (q : List (Nat × Nat)) : Prop :=
  ∀ y ∈ q, y.2 + bufUnits buf w ≤ size ∧ (buf ≠ 2 → y.2 % bufUnits buf w = 0)

theorem lanesWithin_none_out {q : List (Nat × Nat)} (h : LanesWithin buf w size q) :
    (q.filter fun l => decide (size < l.2 + bufUnits buf w) ||
      (decide (buf ≠ 2) && decide (l.2 % bufUnits buf w ≠ 0))) = [] := by
  refine List.filter_eq_nil_iff.2 fun y hy => ?_
  obtain ⟨hsize, hunit⟩ := h y hy
  simp only [Bool.or_eq_true, Bool.and_eq_true, decide_eq_true_eq, not_or, not_and]
  exact ⟨Nat.not_lt.2 hsize, fun hb h0 => h0 (hunit hb)⟩

theorem upsetRow_nil (k : Core) (unit : Nat) : k.upsetRow unit [] = none := rfl

/-- R214, R216: what TLD and TST do where every lane lies in the allotment. -/
theorem typed_gone (hr : Ready s c n g) (htc : g.tc < 63) (hexec : g.exec ≠ 0)
    (hi : exec i s = bufAccess x gs store w d b o buf codes s) (hcodes : codes = true)
    (hregs : bufRegsOk g buf w d = true) (ho : g.hasV o = true)
    (hs : s.work.space c g buf = some (hc, base, size))
    (hin : LanesWithin buf w size (laneOffs g b o))
    (hclean : store = true ∨ (s.work.core hc).upset = []) :
    exec i s = .next (gone (wordForm x gs none 100) s
      (s.work.accesses c (typedAccess n store buf w hc d base (laneOffs g b o) g)) c n g
      (typedIssued g store (bufRegs buf w) d (s.work.core c).opSeq)) := by
  have hrows : ∀ rows, (s.work.core hc).upsetRow (4 + buf) (if store = true then [] else rows) = none := by
    intro rows
    rcases hclean with rfl | h
    · exact upsetRow_nil _ _
    · exact upsetRow_clean h _ _
  have hawait : g.counted.awaitRegs d (bufRegs buf w) g.exec (s.work.core c).opSeq =
      typedIssued g false (bufRegs buf w) d (s.work.core c).opSeq :=
    awaitRegs_eq (g := g.counted) hr.quiet.flights hr.quiet.pend _ _ _ _
  refine exec_gone hr hi hcodes (by simp [hregs, ho]) rfl ?_ rfl ?_
  · dsimp only
    rw [if_neg hexec, if_neg (by omega), hs]
    dsimp only
    rw [lanesWithin_none_out hin]
    dsimp only
    rw [hrows]
    cases store
    · exact congrArg _ hawait
    · rfl
  · cases store <;> rfl

theorem typedIssued_flights (hq : g.flights = []) (k op : Nat) : (typedIssued g store k d op).flights = [] := by
  cases store <;> exact hq

theorem typedIssued_sameRegs (g : Group) (store : Bool) (k d op : Nat) :
    g.SameRegs (typedIssued g store k d op) := by
  cases store <;> exact ⟨rfl, rfl, rfl, rfl, rfl, rfl, rfl, rfl⟩

/-- R214 to R216: TLD and TST issue. -/
theorem typed_issues (hr : Ready s c n g) (htc : g.tc < 63) (hexec : g.exec ≠ 0)
    (hi : exec i s = bufAccess x gs store w d b o buf codes s) (hcodes : codes = true)
    (hregs : bufRegsOk g buf w d = true) (ho : g.hasV o = true)
    (hs : s.work.space c g buf = some (hc, base, size))
    (hin : LanesWithin buf w size (laneOffs g b o))
    (hclean : store = true ∨ (s.work.core hc).upset = []) :
    ∃ t, exec i s = .next t ∧
      Issues s t c n g 4 (typedIssued g store (bufRegs buf w) d (s.work.core c).opSeq) ∧
      ((s.work.core c).opSeq, typedAccess n store buf w hc d base (laneOffs g b o) g) ∈
        (t.work.core c).taccs := by
  have he := typed_gone hr htc hexec hi hcodes hregs ho hs hin hclean
  generalize typedAccess n store buf w hc d base (laneOffs g b o) g = y at he ⊢
  obtain ⟨v, hv⟩ : ∃ v, v = s.work.accesses c y := ⟨_, rfl⟩
  have hkept : v.kept = s.work.kept := hv ▸ kept_accesses _ _ _
  have htaccs : (v.core c).taccs = (s.work.core c).taccs ++ [((s.work.core c).opSeq, y)] :=
    hv ▸ taccs_accesses _ _ _
  have hlog : v.log = [] := by rw [hv]; rfl
  rw [← hv] at he
  generalize hh : typedIssued g store (bufRegs buf w) d (s.work.core c).opSeq = h at he ⊢
  have hafter : After v (gone (wordForm x gs none 100) s v c n g h) c n := After.gone
  refine ⟨_, he, issues_still hlog (hh ▸ typedIssued_flights hr.quiet.flights _ _)
    (hh ▸ typedIssued_sameRegs _ _ _ _ _) rfl (grp_of_kept hkept), ?_⟩
  rw [taccs_of_rest (hafter.core c), htaccs]
  exact List.mem_append_right _ (List.mem_singleton_self _)

end Sys2Proof.Machine
end

section
/-!
PROOFS. TLD and TST complete (R59, R214 to R217).
-/

namespace Sys2Proof.Machine

open Sys2Proof.Claim

/-! ## Folds over lanes -/

theorem lanesOf_ascending (x : Word) : (lanesOf x).Pairwise (· < ·) := by
  unfold lanesOf
  rw [upto_zero]
  exact List.pairwise_lt_range.filter _

/-- Of the puts that hit, the last decides what is read. -/
theorem foldl_last {σ α : Type} {get : σ → α} {put : σ → Nat → σ} {hit : Nat → Prop}
    [DecidablePred hit] {val : Nat → α} {l : List Nat}
    (hput : ∀ s, ∀ j ∈ l, get (put s j) = if hit j then val j else get s)
    (hl : l.Pairwise (· < ·)) {i : Nat} (hi : hit i) (hmem : i ∈ l) (hlast : ∀ j ∈ l, i < j → ¬hit j)
    (s : σ) : get (l.foldl put s) = val i := by
  induction l generalizing s with
  | nil => cases hmem
  | cons j l ih =>
    obtain ⟨hlt, hl⟩ := List.pairwise_cons.1 hl
    rw [List.foldl_cons]
    rcases List.mem_cons.1 hmem with rfl | hmem
    · have hnone : ∀ k ∈ l, ¬hit k := fun k hk => hlast k (List.mem_cons_of_mem _ hk) (hlt k hk)
      rw [foldl_unwritten (get := get) (fun s k hk => by
        rw [hput s k (List.mem_cons_of_mem _ hk), if_neg (hnone k hk)]), hput s i List.mem_cons_self, if_pos hi]
    · exact ih (fun s k hk => hput s k (List.mem_cons_of_mem _ hk)) hl hmem
        (fun k hk => hlast k (List.mem_cons_of_mem _ hk)) _

/-! ## A store of one lane -/

section Lane

variable (t : TAccess) (ring : Nat → Bool) (k : Core) (l : Nat)

/-- The number that one lane of a store writes. -/
def TAccess.number (t : TAccess) (l : Nat) : Nat := (tget 0 l t.vals).toNat + (tget 0 l t.hi).toNat * 2 ^ 64

theorem bufByte_storeLane (hb : t.buf ≠ 2) (j : Nat) :
    (t.storeLane ring k l).bufByte t.buf j =
      if (tget 0 l t.addr ≤ j ∧ j < tget 0 l t.addr + widthBytes t.code) ∧
          ¬(t.buf = 3 ∧ ring j = true) then
        BitVec.ofNat 8 (t.number l / 256 ^ (j - tget 0 l t.addr))
      else k.bufByte t.buf j := by
  unfold TAccess.storeLane
  dsimp only
  rw [if_neg hb, bufByte_setBufNum]
  simp only [and_assoc, TAccess.number, Bool.and_eq_false_iff, decide_eq_false_iff_not, not_and_or,
    Bool.not_eq_true]

theorem cell_storeLane (hb : t.buf = 2) (j : Nat) :
    (t.storeLane ring k l).cell j =
      if tget 0 l t.addr = j then cellWrite t.code (tget 0 l t.vals) else k.cell j := by
  unfold TAccess.storeLane
  dsimp only
  rw [if_pos hb, cell_setCell]
  simp only [eq_comm]

/-- What the lanes of a store leave in its buffer. -/
def TAccess.stores (t : TAccess) (ring : Nat → Bool) (k : Core) : Core :=
  (lanesOf t.lanes).foldl (t.storeLane ring) k

/-- R29, R216: a byte that no lane accesses, or of the ring's control area, stands. -/
theorem bufByte_stores_apart (hb : t.buf ≠ 2) {j : Nat}
    (h : t.buf = 3 ∧ ring j = true ∨ ∀ l < 64, bit t.lanes l = true →
      ¬(tget 0 l t.addr ≤ j ∧ j < tget 0 l t.addr + widthBytes t.code)) :
    (t.stores ring k).bufByte t.buf j = k.bufByte t.buf j := by
  refine foldl_unwritten (get := fun k : Core => k.bufByte t.buf j) (fun k l hl => ?_) k
  obtain ⟨hl, hbit⟩ := (mem_lanesOf _ _).1 hl
  rw [bufByte_storeLane t ring k l hb, if_neg]
  rintro ⟨hcovers, hring⟩
  exact h.elim hring fun h => h l hl hbit hcovers

/-- R216: of the lanes that access a byte, the highest writes it. -/
theorem bufByte_stores_last (hb : t.buf ≠ 2) {j l : Nat} (hring : ¬(t.buf = 3 ∧ ring j = true))
    (hl : l < 64) (hbit : bit t.lanes l = true)
    (hcovers : tget 0 l t.addr ≤ j ∧ j < tget 0 l t.addr + widthBytes t.code)
    (hlast : ∀ m < 64, l < m → bit t.lanes m = true →
      ¬(tget 0 m t.addr ≤ j ∧ j < tget 0 m t.addr + widthBytes t.code)) :
    (t.stores ring k).bufByte t.buf j = BitVec.ofNat 8 (t.number l / 256 ^ (j - tget 0 l t.addr)) := by
  refine foldl_last (get := fun k : Core => k.bufByte t.buf j)
    (hit := fun l => (tget 0 l t.addr ≤ j ∧ j < tget 0 l t.addr + widthBytes t.code) ∧
      ¬(t.buf = 3 ∧ ring j = true))
    (val := fun l => BitVec.ofNat 8 (t.number l / 256 ^ (j - tget 0 l t.addr)))
    (fun k m _ => bufByte_storeLane t ring k m hb j) (lanesOf_ascending _) ⟨hcovers, hring⟩
    ((mem_lanesOf _ _).2 ⟨hl, hbit⟩) (fun m hm hlt h => ?_) k
  obtain ⟨hm, hmbit⟩ := (mem_lanesOf _ _).1 hm
  exact hlast m hm hlt hmbit h.1

theorem cell_stores_apart (hb : t.buf = 2) {j : Nat}
    (h : ∀ l < 64, bit t.lanes l = true → tget 0 l t.addr ≠ j) :
    (t.stores ring k).cell j = k.cell j := by
  refine foldl_unwritten (get := fun k : Core => k.cell j) (fun k l hl => ?_) k
  obtain ⟨hl, hbit⟩ := (mem_lanesOf _ _).1 hl
  rw [cell_storeLane t ring k l hb, if_neg (h l hl hbit)]

theorem cell_stores_last (hb : t.buf = 2) {j l : Nat} (hl : l < 64) (hbit : bit t.lanes l = true)
    (hat : tget 0 l t.addr = j)
    (hlast : ∀ m < 64, l < m → bit t.lanes m = true → tget 0 m t.addr ≠ j) :
    (t.stores ring k).cell j = cellWrite t.code (tget 0 l t.vals) := by
  refine foldl_last (get := fun k : Core => k.cell j) (hit := fun l => tget 0 l t.addr = j)
    (val := fun l => cellWrite t.code (tget 0 l t.vals))
    (fun k m _ => cell_storeLane t ring k m hb j) (lanesOf_ascending _) hat
    ((mem_lanesOf _ _).2 ⟨hl, hbit⟩) (fun m hm hlt h => ?_) k
  obtain ⟨hm, hmbit⟩ := (mem_lanesOf _ _).1 hm
  exact hlast m hm hlt hmbit h

end Lane

/-! ## A load of one lane -/

section Load

variable (t : TAccess) (k : Core) (g : Group) (l : Nat)

/-- What one lane of a load leaves in a group: its registers, or poison where its row has lost its data. -/
def TAccess.landLane (t : TAccess) (k : Core) (g : Group) (l : Nat) : Group :=
  let v := t.loadLane k l
  (upto (bufRegs t.buf t.code)).foldl (fun g i =>
    match k.upsetRow (4 + t.buf) (t.rows l) with
    | some row => { g with poison := tins (64 * (t.reg + i) + l) row g.poison }
    | none => g.setV1 (t.reg + i) l (v.extractLsb' (32 * i) 32)) g

theorem landLane_fixed :
    ((t.landLane k g l).tc, (t.landLane k g l).pc, (t.landLane k g l).wait) = (g.tc, g.pc, g.wait) := by
  refine foldl_unwritten (get := fun g : Group => (g.tc, g.pc, g.wait)) (fun g i _ => ?_) g
  split <;> rfl

theorem landLane_v (hclean : k.upset = []) (hl : l < 64) (r m : Nat) (hm : m < 64) :
    (t.landLane k g l).v r m =
      if l = m ∧ t.reg ≤ r ∧ r < t.reg + bufRegs t.buf t.code then
        (t.loadLane k l).extractLsb' (32 * (r - t.reg)) 32
      else g.v r m := by
  unfold TAccess.landLane
  dsimp only
  rw [upsetRow_clean hclean, upto_zero]
  dsimp only
  by_cases h : l = m ∧ t.reg ≤ r
  · obtain ⟨rfl, hr⟩ := h
    refine (foldl_written (get := fun g : Group => g.v r l) (hit := fun i => t.reg + i = r)
      (val := fun i => (t.loadLane k l).extractLsb' (32 * i) 32) (i := r - t.reg) (fun g i => ?_)
      (by omega) (fun j _ hj => by omega) g).trans ?_
    · rw [setV1_v]
      exact if_congr (by omega) rfl rfl
    · exact if_congr (by simp [hr]; omega) rfl rfl
  · rw [if_neg fun e => h ⟨e.1, e.2.1⟩]
    refine foldl_unwritten (get := fun g : Group => g.v r m) (fun g i _ => ?_) g
    rw [setV1_v, if_neg]
    intro e
    exact h (by omega)

/-- What the lanes of a load leave in a group. -/
def TAccess.lands (t : TAccess) (k : Core) (g : Group) : Group := (lanesOf t.lanes).foldl (t.landLane k) g

theorem lands_fixed : ((t.lands k g).tc, (t.lands k g).pc, (t.lands k g).wait) = (g.tc, g.pc, g.wait) :=
  foldl_unwritten (get := fun g : Group => (g.tc, g.pc, g.wait)) (fun g l _ => landLane_fixed t k g l) g

/-- R215: each register of an active lane takes its 32 bits. -/
theorem lands_v (hclean : k.upset = []) (hl : l < 64) (hbit : bit t.lanes l = true) {j : Nat}
    (hj : j < bufRegs t.buf t.code) :
    (t.lands k g).v (t.reg + j) l = (t.loadLane k l).extractLsb' (32 * j) 32 := by
  refine foldl_last (get := fun g : Group => g.v (t.reg + j) l) (hit := fun m => m = l)
    (val := fun m => (t.loadLane k m).extractLsb' (32 * j) 32) (fun g m hm => ?_)
    (lanesOf_ascending _) rfl ((mem_lanesOf _ _).2 ⟨hl, hbit⟩) (fun m _ hlt h => by omega) g
  rw [landLane_v t k g m hclean ((mem_lanesOf _ _).1 hm).1 _ _ hl, Nat.add_sub_cancel_left]
  exact if_congr (by omega) rfl rfl

end Load

/-! ## The value of a lane -/

/-- A number of eight or sixteen bits, extended by its sign. -/
theorem extended_eq {w n : Nat} (hw : w = 8 ∨ w = 16) (hn : n < 2 ^ w) :
    (if 2 ^ (w - 1) ≤ n then BitVec.ofNat 128 (2 ^ 128 - 2 ^ w + n) else BitVec.ofNat 128 n) =
      ((BitVec.ofNat 128 n).truncate w : BitVec w).signExtend 128 := by
  have hsmall : n < 2 ^ 16 := by rcases hw with rfl | rfl <;> omega
  have htrunc : ((BitVec.ofNat 128 n).truncate w : BitVec w).toNat = n := by
    rw [BitVec.truncate_eq_setWidth, BitVec.toNat_setWidth, BitVec.toNat_ofNat,
      Nat.mod_eq_of_lt (a := n) (b := 2 ^ 128) (by omega), Nat.mod_eq_of_lt hn]
  apply BitVec.eq_of_toNat_eq
  rw [BitVec.toNat_signExtend, BitVec.msb_eq_decide, BitVec.toNat_setWidth, htrunc, apply_ite BitVec.toNat]
  simp only [BitVec.toNat_ofNat, decide_eq_true_eq]
  rcases hw with rfl | rfl <;> split <;> omega

/-- R215: a byte or a half-word of the signed codes is extended by its sign. -/
theorem extend_eq (t : TAccess) {n : Nat} (hn : n < 256 ^ widthBytes t.code) :
    t.extend n =
      if t.code = 1 then ((BitVec.ofNat 128 n).truncate 8 : BitVec 8).signExtend 128
      else if t.code = 3 then ((BitVec.ofNat 128 n).truncate 16 : BitVec 16).signExtend 128
      else BitVec.ofNat 128 n := by
  have hpow : 256 ^ widthBytes t.code = 2 ^ (8 * widthBytes t.code) := (Nat.pow_mul 2 8 _).symm
  have hwide : 2 ^ (8 * widthBytes t.code) ≤ 2 ^ 128 :=
    Nat.pow_le_pow_right (by decide) (by unfold widthBytes; split <;> omega)
  have hmod : (BitVec.ofNat 128 n).toNat % 2 ^ (8 * widthBytes t.code) = n := by
    rw [BitVec.toNat_ofNat, Nat.mod_eq_of_lt (by omega), Nat.mod_eq_of_lt (by omega)]
  unfold TAccess.extend Load.extend
  dsimp only
  rw [hmod]
  by_cases h1 : t.code = 1
  · rw [if_pos h1, ← extended_eq (.inl rfl) (by rw [h1] at hn; exact hn), h1]
    simp [widthBytes]
  · by_cases h3 : t.code = 3
    · rw [if_neg h1, if_pos h3, ← extended_eq (.inr rfl) (by rw [h3] at hn; exact hn), h3]
      simp [widthBytes]
    · simp [h1, h3]

/-- R215, R217: what a lane of a load gives. -/
def TAccess.given (t : TAccess) (k : Core) (l : Nat) : BitVec 128 :=
  let raw := BitVec.ofNat 128 (k.bufNum t.buf (tget 0 l t.addr) (widthBytes t.code))
  if t.buf = 2 then (cellRead t.code (k.cell (tget 0 l t.addr))).zeroExtend 128
  else if t.code = 1 then (raw.truncate 8 : BitVec 8).signExtend 128
  else if t.code = 3 then (raw.truncate 16 : BitVec 16).signExtend 128
  else raw

theorem bufNum_lt_pow (k : Core) (buf a n : Nat) : k.bufNum buf a n < 256 ^ n := by
  have h := leNat_lt ((upto n a).map (k.bufByte buf))
  rwa [List.length_map, upto, List.length_map, List.length_range] at h

theorem loadLane_eq (t : TAccess) (k : Core) (l : Nat) : t.loadLane k l = t.given k l := by
  unfold TAccess.loadLane TAccess.given
  dsimp only
  rw [extend_eq t (bufNum_lt_pow _ _ _ _)]

/-! ## The steps of a completion -/

section Steps

variable (w : Work) (c id : Nat) (t : TAccess) (g : Group)

/-- The access leaves the list of its core. -/
def Work.typedTaken (w : Work) (c id : Nat) : Work :=
  w.setCore c { w.core c with taccs := (w.core c).taccs.filter fun x => decide (x.1 ≠ id) }

/-- A store is performed. -/
def Work.typedStored (w : Work) (t : TAccess) : Work :=
  if t.store then w.modCore t.core (t.stores (w.ringByte t.core)) else w

/-- Groups go on whose object shows that it has been counted down. -/
def Work.typedTested (w : Work) (t : TAccess) : Work :=
  if t.store ∧ t.buf = 3 then w.yieldTest t.core else w

/-- An error of the array is recorded. -/
def Work.typedLogged (w : Work) (t : TAccess) : Work :=
  match (w.core t.core).upsetRow (4 + t.buf)
      (if t.store then [] else (lanesOf t.lanes).flatMap t.rows) with
  | some row => w.logError (4 + t.buf) true t.core row 0
  | none => w

/-- The group that the access leaves. -/
def TAccess.finishes (t : TAccess) (id : Nat) (k : Core) (g : Group) : Group :=
  if t.store then { g.unpend id with tc := g.tc - 1 }
  else t.lands k { g.unpend id with tc := g.tc - 1 }

/-- The machine as the access finds its group. -/
def Work.typedPerformed (w : Work) (c id : Nat) (t : TAccess) : Work :=
  (((w.typedTaken c id).typedStored t).typedTested t).typedLogged t

theorem exec_tbufAccess {s : State}
    (hfind : (s.work.core c).taccs.find? (fun y => decide (y.1 = id)) = some (id, t))
    (hfirst : ∀ y ∈ (s.work.core c).taccs, y.2.slot = t.slot → id ≤ y.1) :
    exec (.tbufAccessComplete c id) s = .next (commit s
      (((s.work.typedPerformed c id t).modGrp c t.slot fun g =>
        t.finishes id ((s.work.typedPerformed c id t).core t.core) g).settleWait c t.slot)) := by
  have hany : (s.work.core c).taccs.any (fun x => decide (x.1 < id) && decide (x.2.slot = t.slot)) =
      false := by
    refine List.any_eq_false.2 fun y hy h => ?_
    obtain ⟨hlt, hslot⟩ := Bool.and_eq_true_iff.1 h
    exact absurd (hfirst y hy (of_decide_eq_true hslot)) (Nat.not_le.2 (of_decide_eq_true hlt))
  show execTbufAccessComplete c id s = _
  unfold execTbufAccessComplete event
  refine congrArg (fun v => Host.Outcome.next (commit s v)) ?_
  dsimp only
  rw [hfind]
  dsimp only
  rw [hany]
  rfl

/-! ### What they keep -/

theorem log_typedPerformed : (w.typedPerformed c id t).log = w.log := by
  have hlogged : ∀ v : Work, (v.typedLogged t).log = v.log := by
    intro v
    unfold Work.typedLogged
    split
    · exact log_of_lookups (lookups_logError _ _ _ _ _ _)
    · rfl
  have htested : ∀ v : Work, (v.typedTested t).log = v.log := by
    intro v
    unfold Work.typedTested
    split
    · exact log_of_lookups (lookups_yieldTest _ _)
    · rfl
  have hstored : ∀ v : Work, (v.typedStored t).log = v.log := by
    intro v
    unfold Work.typedStored
    split <;> rfl
  unfold Work.typedPerformed
  rw [hlogged, htested, hstored]
  rfl

/-- R238: a group that waits for nothing stays as it is. -/
theorem grp_yieldTest_awake {w : Work} {c n : Nat} {g : Group} (hg : w.grp c n = some g)
    (hw : g.wait = .none) (hc : Nat) : (w.yieldTest hc).grp c n = some g := by
  unfold Work.yieldTest
  refine List.foldlRecOn (motive := fun v : Work => v.grp c n = some g) _ _ hg fun v hv d _ => ?_
  refine List.foldlRecOn (motive := fun v : Work => v.grp c n = some g) _ _ hv fun u hu m _ => ?_
  by_cases hm : c = d ∧ n = m
  · obtain ⟨rfl, rfl⟩ := hm
    simp only [hu, hw]
  · split
    · split
      · split
        · exact (grp_returnAt _ _ _ _ _ _ _ _).trans ((if_neg hm).trans hu)
        · exact hu
      · exact hu
    · exact hu

theorem groups_storeLane (ring : Nat → Bool) (k : Core) (l : Nat) :
    (t.storeLane ring k l).groups = k.groups := by
  unfold TAccess.storeLane
  dsimp only
  split
  · rfl
  · exact (congrArg Core.groups (offBytes_setBufNum k t.buf _ _ _ _) :)

theorem groups_stores (ring : Nat → Bool) (k : Core) : (t.stores ring k).groups = k.groups :=
  foldl_unwritten (get := Core.groups) (fun k l _ => groups_storeLane t ring k l) k

theorem grp_typedPerformed {w : Work} {c n : Nat} {g : Group} (hg : w.grp c n = some g)
    (hw : g.wait = .none) : (w.typedPerformed c id t).grp c n = some g := by
  have htaken : (w.typedTaken c id).grp c n = some g := by
    unfold Work.typedTaken
    rw [grp_setCore, if_pos rfl]
    exact hg
  have hstored : ((w.typedTaken c id).typedStored t).grp c n = some g := by
    unfold Work.typedStored
    split
    · exact (grp_modCore_of_groups (groups_stores _ _ _) _ _).trans htaken
    · exact htaken
  have htested : (((w.typedTaken c id).typedStored t).typedTested t).grp c n = some g := by
    unfold Work.typedTested
    split
    · exact grp_yieldTest_awake hstored hw _
    · exact hstored
  unfold Work.typedPerformed Work.typedLogged
  split
  · exact (congrArg (fun k : Core => tfind n k.groups) (core_logError _ _ _ _ _ _ c)).trans htested
  · exact htested

theorem core_typedLogged (d : Nat) : (w.typedLogged t).core d = w.core d := by
  unfold Work.typedLogged
  split
  · exact core_logError _ _ _ _ _ _ _
  · rfl

/-- A core but for its accesses to the buffers. -/
def Core.offTyped (k : Core) : Core := { k with taccs := [] }

theorem core_typedTaken (d : Nat) : ((w.typedTaken c id).core d).offTyped = (w.core d).offTyped := by
  unfold Work.typedTaken
  rw [core_setCore]
  split
  · next h => rw [h]; rfl
  · rfl

/-- A load leaves the buffers as they are. -/
theorem core_typedPerformed_load (hs : t.store = false) (d : Nat) :
    ((w.typedPerformed c id t).core d).offTyped = (w.core d).offTyped := by
  unfold Work.typedPerformed
  rw [core_typedLogged, Work.typedTested, if_neg (by simp [hs]), Work.typedStored, if_neg (by simp [hs]),
    core_typedTaken]

theorem cell_of_offSeats {k l : Core} (h : k.offSeats = l.offSeats) (j : Nat) : k.cell j = l.cell j :=
  (congrArg (fun k : Core => k.cell j) h :)

/-- A store leaves them as its lanes do. -/
theorem core_typedPerformed_store (hs : t.store = true) :
    ((w.typedPerformed c id t).core t.core).offSeats =
      (t.stores (w.ringByte t.core) ((w.typedTaken c id).core t.core)).offSeats := by
  have hstored : ((w.typedTaken c id).typedStored t).core t.core =
      t.stores (w.ringByte t.core) ((w.typedTaken c id).core t.core) := by
    rw [Work.typedStored, if_pos hs, core_modCore, if_pos rfl]
    rfl
  unfold Work.typedPerformed
  rw [core_typedLogged, Work.typedTested]
  split
  · rw [core_yieldTest_offSeats, hstored]
  · rw [hstored]

/-- R134: nothing goes on where the group waits for nothing. -/
theorem settleWait_awake {w : Work} {c n : Nat} {g : Group} (hg : w.grp c n = some g)
    (hw : g.wait = .none) : w.settleWait c n = w := by
  unfold Work.settleWait
  rw [hg]
  dsimp only
  rw [hw]

end Steps

/-! ## Completion -/

section Completion

variable {s : State} {c id : Nat} {a : TAccess} {g : Group}

theorem finishes_fixed (a : TAccess) (id : Nat) (k : Core) (g : Group) :
    (a.finishes id k g).tc = g.tc - 1 ∧ (a.finishes id k g).pc = g.pc ∧
      (a.finishes id k g).wait = g.wait := by
  have hfix := lands_fixed a k { g.unpend id with tc := g.tc - 1 }
  simp only [Prod.mk.injEq] at hfix
  unfold TAccess.finishes
  split
  · exact ⟨rfl, rfl, rfl⟩
  · exact hfix

theorem given_of_offTyped {k l : Core} (h : k.offTyped = l.offTyped) (a : TAccess) (m : Nat) :
    a.given k m = a.given l m :=
  (congrArg (fun k : Core => a.given k m) h :)

theorem finishes_v {k : Core} (hs : a.store = false) (hclean : k.upset = []) (id : Nat) (g : Group) {l : Nat}
    (hl : l < 64) (hbit : bit a.lanes l = true) {j : Nat} (hj : j < bufRegs a.buf a.code) :
    (a.finishes id k g).v (a.reg + j) l = (a.given k l).extractLsb' (32 * j) 32 := by
  unfold TAccess.finishes
  rw [if_neg (by simp [hs]), lands_v a k _ l hclean hl hbit hj, loadLane_eq]

/-- The state that the completion leaves. -/
def typedState (s : State) (c id : Nat) (a : TAccess) : State :=
  commit s ((s.work.typedPerformed c id a).modGrp c a.slot fun g =>
    a.finishes id ((s.work.typedPerformed c id a).core a.core) g)

theorem grp_typedState (hg : s.work.grp c a.slot = some g) (hw : g.wait = .none) :
    (typedState s c id a).work.grp c a.slot =
      some (a.finishes id ((s.work.typedPerformed c id a).core a.core) g) := by
  unfold typedState
  rw [commit_grp, grp_modGrp, if_pos ⟨rfl, rfl⟩, grp_typedPerformed _ _ hg hw]
  rfl

theorem exec_typedState
    (hfind : (s.work.core c).taccs.find? (fun y => decide (y.1 = id)) = some (id, a))
    (hfirst : ∀ y ∈ (s.work.core c).taccs, y.2.slot = a.slot → id ≤ y.1)
    (hg : s.work.grp c a.slot = some g) (hw : g.wait = .none) :
    exec (.tbufAccessComplete c id) s = .next (typedState s c id a) := by
  have hgrp := grp_typedState (id := id) hg hw
  unfold typedState at hgrp
  rw [commit_grp] at hgrp
  rw [exec_tbufAccess c id a hfind hfirst,
    settleWait_awake hgrp ((finishes_fixed _ _ _ _).2.2.trans hw)]
  rfl

theorem mem_typedState (s : State) (c id : Nat) (a : TAccess) : (typedState s c id a).mem = s.mem := by
  unfold typedState
  exact commit_mem _ _ ((log_modGrp _ _ _ _).trans (log_typedPerformed _ _ _ _))

theorem core_typedState (s : State) (c id : Nat) (a : TAccess) (d : Nat) :
    ((typedState s c id a).work.core d).offSeats = ((s.work.typedPerformed c id a).core d).offSeats :=
  offSeats_of_rest (core_modGrp_rest _ _ _ _ _)

/-- The buffers after a store. -/
theorem core_typedState_store (s : State) (c id : Nat) (a : TAccess) (hs : a.store = true) :
    ((typedState s c id a).work.core a.core).offSeats =
      (a.stores (s.work.ringByte a.core) ((s.work.typedTaken c id).core a.core)).offSeats :=
  (core_typedState s c id a _).trans (core_typedPerformed_store _ _ _ _ hs)

theorem bufByte_typedTaken (w : Work) (c id d buf j : Nat) :
    ((w.typedTaken c id).core d).bufByte buf j = (w.core d).bufByte buf j :=
  (congrArg (fun k : Core => k.bufByte buf j) (core_typedTaken w c id d) :)

theorem cell_typedTaken (w : Work) (c id d j : Nat) :
    ((w.typedTaken c id).core d).cell j = (w.core d).cell j :=
  (congrArg (fun k : Core => k.cell j) (core_typedTaken w c id d) :)

theorem bufByte_typedState_apart (hs : a.store = true) (hb : a.buf ≠ 2) {j : Nat}
    (h : a.buf = 3 ∧ s.work.ringByte a.core j = true ∨ ∀ l < 64, bit a.lanes l = true →
      ¬(tget 0 l a.addr ≤ j ∧ j < tget 0 l a.addr + widthBytes a.code)) :
    ((typedState s c id a).work.core a.core).bufByte a.buf j = (s.work.core a.core).bufByte a.buf j := by
  rw [bufByte_of_offSeats (core_typedState_store s c id a hs), bufByte_stores_apart a _ _ hb h,
    bufByte_typedTaken]

theorem bufByte_typedState_last (hs : a.store = true) (hb : a.buf ≠ 2) {j l : Nat}
    (hring : ¬(a.buf = 3 ∧ s.work.ringByte a.core j = true)) (hl : l < 64) (hbit : bit a.lanes l = true)
    (hcovers : tget 0 l a.addr ≤ j ∧ j < tget 0 l a.addr + widthBytes a.code)
    (hlast : ∀ m < 64, l < m → bit a.lanes m = true →
      ¬(tget 0 m a.addr ≤ j ∧ j < tget 0 m a.addr + widthBytes a.code)) :
    ((typedState s c id a).work.core a.core).bufByte a.buf j =
      BitVec.ofNat 8 (a.number l / 256 ^ (j - tget 0 l a.addr)) := by
  rw [bufByte_of_offSeats (core_typedState_store s c id a hs),
    bufByte_stores_last a _ _ hb hring hl hbit hcovers hlast]

theorem cell_typedState_apart (hs : a.store = true) (hb : a.buf = 2) {j : Nat}
    (h : ∀ l < 64, bit a.lanes l = true → tget 0 l a.addr ≠ j) :
    ((typedState s c id a).work.core a.core).cell j = (s.work.core a.core).cell j := by
  rw [cell_of_offSeats (core_typedState_store s c id a hs), cell_stores_apart a _ _ hb h, cell_typedTaken]

theorem cell_typedState_last (hs : a.store = true) (hb : a.buf = 2) {j l : Nat} (hl : l < 64)
    (hbit : bit a.lanes l = true) (hat : tget 0 l a.addr = j)
    (hlast : ∀ m < 64, l < m → bit a.lanes m = true → tget 0 m a.addr ≠ j) :
    ((typedState s c id a).work.core a.core).cell j = cellWrite a.code (tget 0 l a.vals) := by
  rw [cell_of_offSeats (core_typedState_store s c id a hs), cell_stores_last a _ _ hb hl hbit hat hlast]

theorem given_typedPerformed (s : State) (c id : Nat) (a : TAccess) (hs : a.store = false) (l : Nat) :
    a.given ((s.work.typedPerformed c id a).core a.core) l = a.given (s.work.core a.core) l :=
  given_of_offTyped (core_typedPerformed_load _ _ _ _ hs _) a l

theorem upset_typedPerformed (s : State) (c id : Nat) (a : TAccess) (hs : a.store = false) :
    ((s.work.typedPerformed c id a).core a.core).upset = (s.work.core a.core).upset :=
  (congrArg Core.upset (core_typedPerformed_load s.work c id a hs a.core) :)

end Completion

/-- Settles O20: an issue leaves the access that its completion performs lane by lane, in ascending order. -/
theorem typedBuffers : Obligations.TypedBuffers := by
  refine ⟨cellConversions, ?_, ?_⟩
  · intro s c n g hr htc hexec x w d b o f hc base size buf k u q hregs ho hs hin op acc
    refine ⟨fun hcodes hclean => ?_, fun hcodes => ?_⟩
    · obtain ⟨t, he, hissues, hmem⟩ := typed_issues (i := .tld x w d b o f) hr htc hexec rfl hcodes hregs
        ho hs hin (.inr hclean)
      exact ⟨t, he, hissues, _, hmem, rfl, rfl, rfl, rfl, rfl, rfl, rfl, rfl, nofun⟩
    · obtain ⟨t, he, hissues, hmem⟩ := typed_issues (i := .tst x w d b o f) hr htc hexec rfl hcodes hregs
        ho hs hin (.inl rfl)
      exact ⟨t, he, hissues, _, hmem, rfl, rfl, rfl, rfl, rfl, rfl, rfl, rfl,
        fun _ l hl h => typedAccess_data g n buf w.toNat hc d.toNat base q hl h⟩
  · intro s c id a g hfind hfirst hg hbuf hw k at_
    obtain ⟨htc, hpc, -⟩ := finishes_fixed a id ((s.work.typedPerformed c id a).core a.core) g
    refine ⟨_, _, exec_typedState hfind hfirst hg hw, mem_typedState _ _ _ _, grp_typedState hg hw, htc, hpc,
      ?_, ?_, ?_⟩
    · intro hs hclean _ l hl hbit raw value j hj
      rw [finishes_v hs ((upset_typedPerformed s c id a hs).trans hclean) id g hl hbit hj,
        given_typedPerformed s c id a hs]
      rfl
    · intro hs hb j covers now ring
      exact ⟨fun h => bufByte_typedState_apart hs hb h, fun l hl hring hbit hcovers hlast =>
        bufByte_typedState_last hs hb hring hl hbit hcovers hlast⟩
    · intro hs hb j now
      exact ⟨fun h => cell_typedState_apart hs hb h, fun l hl hbit hat hlast =>
        cell_typedState_last hs hb hl hbit hat hlast⟩

end Sys2Proof.Machine
end

section
/-!
PROOFS. Illegal words (R88, R96): codes that no family defines, and bits that a form leaves unused.
-/

namespace Sys2Proof.Machine

open Sys2Proof.Claim

/-! ## Bits that a word leaves clear -/

/-- A word has none of the bits of a mask. -/
def Clear {k : Nat} (mask : Nat) (v : BitVec k) : Prop := v.toNat &&& mask = 0

theorem clear_iff {k mask : Nat} {v : BitVec k} :
    Clear mask v ↔ ∀ i, mask.testBit i = true → v.getLsbD i = false := by
  unfold Clear
  constructor
  · intro h i hi
    have hbit := congrArg (·.testBit i) h
    rw [Nat.testBit_and, hi, Bool.and_true, BitVec.testBit_toNat, Nat.zero_testBit] at hbit
    exact hbit
  · intro h
    refine Nat.eq_of_testBit_eq fun i => ?_
    rw [Nat.testBit_and, Nat.zero_testBit, BitVec.testBit_toNat]
    cases hi : mask.testBit i
    · simp
    · simp [h i hi]

theorem clear_append {m n mask : Nat} (x : BitVec m) (y : BitVec n) :
    Clear mask (x ++ y) ↔ Clear (mask / 2 ^ n) x ∧ Clear (mask % 2 ^ n) y := by
  simp only [clear_iff, BitVec.getLsbD_append, Nat.testBit_div_two_pow, Nat.testBit_mod_two_pow]
  constructor
  · intro h
    refine ⟨fun i hi => ?_, fun i hi => ?_⟩
    · have := h (i + n) hi
      simpa using this
    · obtain ⟨hn, hi⟩ := by simpa using hi
      simpa [hn] using h i hi
  · rintro ⟨hx, hy⟩ i hi
    split
    · next hn => exact hy i (by simp [hn, hi])
    · next hn =>
      refine hx (i - n) ?_
      rw [Nat.sub_add_cancel (Nat.not_lt.1 hn)]
      exact hi

theorem clear_zero {k : Nat} (v : BitVec k) : Clear 0 v := Nat.and_zero _

theorem clear_ofNat {k mask n : Nat} : Clear mask (BitVec.ofNat k n) ↔ n % 2 ^ k &&& mask = 0 := by
  rw [Clear, BitVec.toNat_ofNat]

/-- The word of an instruction has none of the bits of a mask. -/
def LeavesClear (mask : Nat) (i : Instr) : Prop :=
  match encode i with
  | .word v => Clear mask v
  | _ => False

/-- A row of the list: the word of what a word of the row names has none of the row's bits. -/
def UnusedRow (e : Nat × Nat × List Nat × BitVec 32) : Prop :=
  ∀ n ∈ e.2.2.1, ∀ w : BitVec 32, (fld 3 6 w).toNat = e.1 → (fld 9 e.2.1 w).toNat = n →
    ∃ i, decMajor w = some (some i) ∧ LeavesClear e.2.2.2.toNat i

/-- Two forms that one bit of the word selects. -/
theorem leavesClear_ite {p : Prop} [Decidable p] {mask : Nat} {i j : Instr} (hi : LeavesClear mask i)
    (hj : LeavesClear mask j) :
    ∃ k, (if p then some i else some j) = some k ∧ LeavesClear mask k := by
  by_cases h : p
  · exact ⟨i, if_pos h, hi⟩
  · exact ⟨j, if_neg h, hj⟩

/-- The rows whose code field holds the code alone. MGNSET and SWSTART share theirs with another form. -/
theorem unused_plain : ∀ e ∈ Claim.unused, e.1 < 0x18 ∨ 0x1F ≤ e.1 → UnusedRow e := by
  simp only [Claim.unused, List.forall_mem_cons, UnusedRow, Nat.reduceLT, Nat.reduceLeDiff, or_true,
    true_or, or_self, false_imp_iff, true_imp_iff, and_true, true_and, List.not_mem_nil, implies_true,
    BitVec.reduceToNat]
  and_intros
  all_goals
    intro w hmaj hcode
    simp only [decMajor, hmaj, decSys, decSctl, decSalui, decScmp, decMask, decVint, decVints, decVinti,
      decVf32, decVf64, decVsfu, decVxl, decVmovx, decMsync, decCopy, decSync, decMxctl, decSwp, decCtx,
      decLaunch, hcode, Option.some.injEq, exists_eq_left']
  any_goals refine leavesClear_ite ?_ ?_
  all_goals
    show Clear _ (@HAppend.hAppend (BitVec _) (BitVec _) (BitVec _) _ _ _)
    simp only [clear_append, clear_ofNat, clear_zero, Nat.reduceDiv, Nat.reduceMod, Nat.reducePow,
      Nat.reduceAnd, and_true]

theorem fld_toNat {k : Nat} (lo n : Nat) (w : BitVec k) :
    (fld lo n w).toNat = w.toNat / 2 ^ lo % 2 ^ n := by
  rw [fld, BitVec.extractLsb'_toNat, Nat.shiftRight_eq_div_pow]

/-- A code of four bits, and the bit above it. -/
theorem fld_code_bit {w : BitVec 32} {n : Nat} (h : (fld 9 5 w).toNat = n) :
    (fld 9 4 w).toNat = n % 16 ∧ fld 13 1 w = BitVec.ofNat 1 (n / 16) := by
  rw [fld_toNat] at h
  constructor
  · rw [fld_toNat]
    omega
  · refine BitVec.eq_of_toNat_eq ?_
    rw [fld_toNat, BitVec.toNat_ofNat]
    omega

theorem no_bit_13 (i : Instr) : (if 0#1 = 1#1 then none else some i) = some i := rfl

theorem unused_red : UnusedRow (0x1C, 5, List.range 10 ++ [24, 25], 0x000FC000) := by
  intro n hn w hmaj hcode
  obtain ⟨hlow, hbit⟩ := fld_code_bit hcode
  fin_cases hn
  all_goals
    simp only [decMajor, hmaj, decRed, hlow, hbit, Nat.reduceMod, Nat.reduceDiv, no_bit_13,
      Option.some.injEq, exists_eq_left']
    show Clear _ (@HAppend.hAppend (BitVec _) (BitVec _) (BitVec _) _ _ _)
    simp only [clear_append, clear_ofNat, clear_zero, Nat.reduceDiv, Nat.reduceMod, Nat.reducePow,
      Nat.reduceAnd, and_true, BitVec.reduceToNat]

theorem unused_redd : UnusedRow (0x1E, 5, List.range 9 ++ [24], 0x000FC000) := by
  intro n hn w hmaj hcode
  obtain ⟨hlow, hbit⟩ := fld_code_bit hcode
  fin_cases hn
  all_goals
    simp only [decMajor, hmaj, decRedd, hlow, hbit, Nat.reduceMod, Nat.reduceDiv, no_bit_13,
      Option.some.injEq, exists_eq_left']
    show Clear _ (@HAppend.hAppend (BitVec _) (BitVec _) (BitVec _) _ _ _)
    simp only [clear_append, clear_ofNat, clear_zero, Nat.reduceDiv, Nat.reduceMod, Nat.reducePow,
      Nat.reduceAnd, and_true, BitVec.reduceToNat]

theorem unused_prefetch : UnusedRow (0x19, 3, [7], 0x0003E000) := by
  intro n hn w hmaj hcode
  obtain rfl := List.mem_singleton.1 hn
  have hseven : fld 9 3 w = 7#3 := BitVec.eq_of_toNat_eq hcode
  simp only [decMajor, hmaj, decVld, hseven, if_true, Option.some.injEq, exists_eq_left']
  show Clear _ (@HAppend.hAppend (BitVec _) (BitVec _) (BitVec _) _ _ _)
  simp only [clear_append, clear_ofNat, clear_zero, Nat.reduceDiv, Nat.reduceMod, Nat.reducePow,
    Nat.reduceAnd, and_true, BitVec.reduceToNat]

theorem unused_shared : ∀ e ∈ Claim.unused, ¬(e.1 < 0x18 ∨ 0x1F ≤ e.1) → UnusedRow e := by
  simp only [Claim.unused, List.forall_mem_cons, Nat.reduceLT, Nat.reduceLeDiff, or_true, true_or, or_self,
    not_true_eq_false, not_false_eq_true, false_imp_iff, true_imp_iff, and_true, true_and,
    List.not_mem_nil, implies_true]
  exact ⟨unused_prefetch, unused_red, unused_redd⟩

theorem unused_rows : ∀ e ∈ Claim.unused, UnusedRow e := by
  intro e he
  by_cases h : e.1 < 0x18 ∨ 0x1F ≤ e.1
  · exact unused_plain e he h
  · exact unused_shared e he h

/-- The list's words are refused for their bits, or for a code that the form does not define. -/
theorem refused_of_leavesClear {w mask : BitVec 32} {i : Instr} (hm : decMajor w = some (some i))
    (hi : LeavesClear mask.toNat i) (hw : (w &&& mask) ≠ 0) :
    decodeWord w = .error (if i.codesDefined then .unusedBits else .undefinedCode) := by
  have hne : encode i ≠ .word w := by
    intro he
    rw [LeavesClear, he] at hi
    exact hw (BitVec.eq_of_toNat_eq ((BitVec.toNat_and w mask).trans hi))
  unfold decodeWord
  rw [hm]
  dsimp only
  rw [if_neg hne]
  split <;> rfl

/-! ## Codes that no family defines -/

theorem range_drop_16 : (List.range (24 + 1)).drop 16 = [16, 17, 18, 19, 20, 21, 22, 23, 24] := rfl

theorem undefined_codes : ∀ e ∈ Claim.codes, ∀ w : BitVec 32, (fld 3 6 w).toNat = e.1 →
    (fld 9 e.2.1 w).toNat ∉ e.2.2 → decMajor w = some none := by
  simp only [Claim.codes, List.forall_mem_cons, List.not_mem_nil, false_imp_iff, implies_true, and_true]
  and_intros
  all_goals
    intro w hmaj hcode
    simp only [range_drop_16, List.mem_append, List.mem_cons, List.mem_range, List.not_mem_nil,
      or_false] at hcode
    simp only [decMajor, hmaj]
    refine congrArg some ?_
    simp only [decSys, decSctl, decSalu, decScmp, decMask, decVints, decVf32, decVf32s, decVf64, decVf16,
      decVcvt, decVsfu, decVxl, decVmovx, decAtom, decRed, decAtomd, decRedd, decMsync, decCopy, decSync,
      decMx, decMxctl, decSwp, decCtx, decLaunch]
    split
    any_goals rfl
  all_goals
    exfalso
    omega

theorem undefinedCode_of_none {w : BitVec 32} (h : decMajor w = some none) :
    decodeWord w = .error .undefinedCode := by
  rw [decodeWord, h]

/-- R86: what decodes is what the fields of the word select, and has that word. -/
theorem decodeWord_ok_iff {w : BitVec 32} {i : Instr} :
    decodeWord w = .ok i ↔ decMajor w = some (some i) ∧ encode i = .word w := by
  constructor
  · intro h
    unfold decodeWord at h
    split at h
    · cases h
    · cases h
    · next j hj =>
      split at h
      · next he =>
        cases h
        exact ⟨hj, he⟩
      · split at h <;> cases h
  · rintro ⟨hm, he⟩
    exact decodeWord_of_major w i hm he

/-- R95: the condition codes that BR has no use for. -/
theorem condDefined_false {c : BitVec 5} (h : c.toNat = 15 ∨ 19 ≤ c.toNat ∧ c.toNat ≤ 23) :
    condDefined c = false := by
  revert c
  decide

theorem illegalWords : IllegalWords := by
  refine ⟨fun e he w _ hmaj hcode => ?_, fun e he w _ hmaj hcode hw => ?_, fun w _ hmaj hcond i hi => ?_⟩
  · rw [← fld_toNat] at hcode
    exact undefinedCode_of_none (undefined_codes e he w hmaj hcode)
  · rw [← fld_toNat] at hcode
    obtain ⟨i, hi, hclear⟩ := unused_rows e he _ hcode w hmaj rfl
    exact ⟨i, hi, refused_of_leavesClear hi hclear hw⟩
  · have hmajor : decMajor w = some (decBr w) := by
      simp only [decMajor, show (fld 3 6 w).toNat = 1 from hmaj]
    obtain ⟨hm, -⟩ := decodeWord_ok_iff.1 hi
    rw [hmajor] at hm
    cases hm
    exact condDefined_false hcond

/-- R94: the majors that are reserved. -/
theorem reservedMajor_of_le {w : BitVec 32} (h : 0x28 ≤ (fld 3 6 w).toNat) :
    decodeWord w = .error .reservedMajor := by
  have hmajor : decMajor w = none := by
    unfold decMajor
    split
    any_goals rfl
    all_goals
      exfalso
      omega
  rw [decodeWord, hmajor]

end Sys2Proof.Machine
end

section
/-!
PROOFS. Illegal instructions (R44, R52, R88, R89, R96, R131): undefined codes, registers that the group has
not, and instructions denied where they stand.
-/

namespace Sys2Proof.Machine

open Sys2Proof.Claim

section Forms

variable {s : State} {c n : Nat} {g : Group} {f : Form} {need : Work → Group → Need}
  {body : Work → Nat → Nat → Group → Res} {i : Instr} {w : BitVec 32}

section Reasons

variable (hc : s.cur = (c, n)) (hg : s.work.grp c n = some g) (hp : s.work.flagsPending c n = false)

include hc hg hp

/-- Reason 3, of a word. -/
theorem traps_codes (hi : exec i s = issue f need body s) (hf : encode i = .word f.word)
    (he : encode i = .word w) (h : (need s.work g).codes = false) :
    Traps s c n g i 1 (illegalInfo w 3) 0 :=
  traps_of_need hc hg hp hi (Code.word.inj (hf.symm.trans he)) (.inl ⟨h, rfl⟩)

/-- Reason 5. -/
theorem traps_regs (hi : exec i s = issue f need body s) (hw : f.word = w)
    (h1 : (need s.work g).codes = true) (h : (need s.work g).regs = false) :
    Traps s c n g i 1 (illegalInfo w 5) 0 :=
  traps_of_need hc hg hp hi hw (.inr (.inl ⟨h1, h, rfl⟩))

/-- Reason 6. -/
theorem traps_ctx (hi : exec i s = issue f need body s) (hw : f.word = w)
    (h1 : (need s.work g).codes = true) (h2 : (need s.work g).regs = true)
    (h : (need s.work g).ctx = false) : Traps s c n g i 1 (illegalInfo w 6) 0 :=
  traps_of_need hc hg hp hi hw (.inr (.inr ⟨h1, h2, h, rfl⟩))

/-- R96: an undefined code raises reason 3. -/
theorem traps_of_undefined (he : encode i = .word w) (h : i.codesDefined = false) :
    Traps s c n g i 1 (illegalInfo w 3) 0 := by
  unfold Instr.codesDefined at h
  split at h
  case h_34 => cases h -- every other instruction has its codes defined
  all_goals exact traps_codes hc hg hp rfl rfl he h

end Reasons
end Forms

/-! ## Contexts -/

theorem supCtx_false {g : Group} (h : g.kind ≠ .supervisor) : supCtx g = false := decide_eq_false h

theorem ctxNeed_false {g : Group} (h : g.kind ≠ .run) : (ctxNeed g).ctx = false := decide_eq_false h

theorem notRoutine_false {g : Group} (h : g.kind = .run) : notRoutine g = false := by
  simp [notRoutine, h]

theorem syncCtx_false {g : Group} (h : g.kind ≠ .user) : syncCtx g = false := decide_eq_false h

theorem groupCtx_false {g : Group} (h : g.isTeamCode = false ∨ g.inHandler = true) : groupCtx g = false := by
  rcases h with h | h <;> simp [groupCtx, h]

theorem specialCtx_read_false {g : Group} {k : Nat}
    (h : (0x18 ≤ k ∧ k ≤ 0x1C ∧ g.inHandler = false) ∨ (0x16 ≤ k ∧ k < 0x18) ∨
      (0x1D ≤ k ∧ k < 0x20) ∨ 0x22 ≤ k) : specialCtx g k false = false := by
  rcases h with ⟨hlow, hhigh, hin⟩ | h
  · simp [specialCtx, isEreg, hlow, hhigh, hin]
  · have hundefined : specialDefined k = false := by
      simp only [specialDefined, isEreg, Bool.or_eq_false_iff, Bool.and_eq_false_iff,
        decide_eq_false_iff_not]
      omega
    simp [specialCtx, hundefined]

theorem specialCtx_write_false {g : Group} {k : Nat} (h1 : k ≠ 0x13) (h2 : k ≠ 0x18) (h3 : k ≠ 0x1A) :
    specialCtx g k true = false := by
  simp [specialCtx, specialWritable, h1, h2, h3]

/-! ## SMOVW of a value that its register does not take -/

/-- R96: a scalar that awaits nothing and is not poisoned passes the checks on registers. -/
theorem operandStage_scalar {w : Work} {c : Nat} {g : Group} (hpend : g.pend = [])
    (hf : g.flights = []) (hpoison : g.poison = []) (r : Nat) :
    operandStage w c g { reads := [useS r] } = .ok := by
  have hnone : g.poisoned (useS r) = none := by
    simp [Group.poisoned, useS, hpoison]
  unfold operandStage
  simp [deferOn_scalar, pendOn_of_none hpend, flightOn_of_none hf, hnone]

section Smovw

variable {s : State} {c n : Nat} {g : Group} (hc : s.cur = (c, n)) (hg : s.work.grp c n = some g)
  (hp : s.work.flagsPending c n = false) (hpend : g.pend = []) (hf : g.flights = [])
  (hpoison : g.poison = []) (x : BitVec 2) (a : BitVec 6)

include hc hg hp

/-- A refusal by an instruction's own part. -/
theorem traps_of_illegal {f : Form} {need : Work → Group → Need}
    {body : Work → Nat → Nat → Group → Res} {i : Instr} {w : BitVec 32} {reason : Nat}
    (hi : exec i s = issue f need body s) (hw : f.word = w) (h1 : (need s.work g).codes = true)
    (h2 : (need s.work g).regs = true) (h3 : (need s.work g).ctx = true)
    (hop : operandStage s.work c g (need s.work g) = .ok)
    (hb : body s.work c n g = .illegal reason) :
    Traps s c n g i 1 (illegalInfo w reason) 0 := by
  subst hw
  unfold Traps
  rw [hi, issue_eq hc hg, issueGroup_passes _ ⟨h1, h2, h3, hop⟩, hb]
  exact congrArg (fun w => Host.Outcome.next (commit s w)) (raiseTrap_now _ _ _ _ _ _ _ hp)

include hpend hf hpoison

/-- R53: CHK is one bit. -/
theorem smovw_chk_traps (hv : 2 ≤ (g.s a.toNat).toNat) :
    Traps s c n g (.smovw x 0x13 a 0) 1 (illegalInfo (wSmovw x 0x13 a 0) 7) 0 := by
  refine traps_of_illegal hc hg hp (i := .smovw x 0x13 a 0) rfl rfl rfl rfl rfl
    (operandStage_scalar hpend hf hpoison a.toNat) ?_
  have hepc : ¬((0 : BitVec 2) ++ (0x13 : BitVec 6)).toNat = 0x18 := by decide
  have heexec : ¬((0 : BitVec 2) ++ (0x13 : BitVec 6)).toNat = 0x1A := by decide
  exact (if_neg hepc).trans ((if_neg heexec).trans (if_neg (Nat.not_lt.2 hv)))

/-- R53: EPC is even. -/
theorem smovw_epc_traps (hin : g.inHandler = true) (hodd : (g.s a.toNat).getLsbD 0 = true) :
    Traps s c n g (.smovw x 0x18 a 0) 1 (illegalInfo (wSmovw x 0x18 a 0) 6) 0 := by
  have hctx : specialCtx g 0x18 true = true := by
    simp [specialCtx, specialDefined, isEreg, specialWritable, hin]
  refine traps_of_illegal hc hg hp (i := .smovw x 0x18 a 0) rfl rfl rfl rfl hctx
    (operandStage_scalar hpend hf hpoison a.toNat) ?_
  have hepc : ((0 : BitVec 2) ++ (0x18 : BitVec 6)).toNat = 0x18 := by decide
  exact (if_pos hepc).trans (if_pos hodd)

end Smovw

/-! ## The forms -/

section Denied

variable {s : State} {c n : Nat} {g : Group} (hc : s.cur = (c, n)) (hg : s.work.grp c n = some g)
  (hp : s.work.flagsPending c n = false) (x y : BitVec 2) (d a b : BitVec 6) (r : BitVec 3)

include hc hg hp

theorem vfaddF64_traps (h : g.hasPair d.toNat = false ∨ g.hasPair a.toNat = false ∨
    g.hasPair b.toNat = false) :
    Traps s c n g (.vfaddF64 x d a b) 1 (illegalInfo (wVfaddF64 x d a b) 5) 0 := by
  refine traps_regs hc hg hp (i := .vfaddF64 x d a b) rfl rfl rfl ?_
  show (g.hasPair d.toNat && g.hasPair a.toNat && g.hasPair b.toNat) = false
  rcases h with h | h | h <;> simp [h]

theorem mand_traps (h : 9 ≤ d.toNat ∨ 9 ≤ a.toNat ∨ 9 ≤ b.toNat) :
    Traps s c n g (.mand x d a b) 1 (illegalInfo (wMand x d a b) 5) 0 := by
  refine traps_regs hc hg hp (i := .mand x d a b) rfl rfl rfl ?_
  show (maskCode d.toNat && maskCode a.toNat && maskCode b.toNat) = false
  simp only [maskCode, Bool.and_eq_false_iff, decide_eq_false_iff_not]
  omega

theorem mgnset_traps (h : g.kind ≠ .supervisor ∨ 6 ≤ r.toNat) :
    Traps s c n g (.mgnset x a d r) 1 (illegalInfo (wMgnset x a d r) 6) 0 := by
  refine traps_ctx hc hg hp (i := .mgnset x a d r) rfl rfl rfl rfl ?_
  show (supCtx g && decide (r.toNat ≤ 5) && !(false && decide (4 ≤ r.toNat))) = false
  rcases h with h | h
  · simp [supCtx_false h]
  · simp [show ¬r.toNat ≤ 5 by omega]

theorem mgnsetW_traps (h : g.kind ≠ .supervisor ∨ 4 ≤ r.toNat) :
    Traps s c n g (.mgnsetW x a d r) 1 (illegalInfo (wMgnsetW x a d r) 6) 0 := by
  refine traps_ctx hc hg hp (i := .mgnsetW x a d r) rfl rfl rfl rfl ?_
  show (supCtx g && decide (r.toNat ≤ 5) && !(true && decide (4 ≤ r.toNat))) = false
  rcases h with h | h <;> simp [*, supCtx_false]

theorem copykickAny_traps (h : g.kind = .run) :
    Traps s c n g (.copykickAny x a b) 1 (illegalInfo (wCopykickAny x a b) 6) 0 := by
  refine traps_ctx hc hg hp (i := .copykickAny x a b) rfl rfl rfl rfl ?_
  show (notRoutine g && (!false || decide (g.kind ≠ .handlerCore))) = false
  simp [notRoutine_false h]

theorem gridbar_traps (h : lrGridb (s.work.recOf g) = false) :
    Traps s c n g (.gridbar x) 1 (illegalInfo (wGridbar x) 6) 0 := by
  refine traps_ctx hc hg hp (i := .gridbar x) rfl rfl rfl rfl ?_
  show (syncCtx g && lrGridb (s.work.recOf g)) = false
  simp [h]

end Denied

theorem illegalForms : IllegalForms := by
  intro s c n g hc hg hp x y d a b e h r p ill
  refine ⟨vfaddF64_traps hc hg hp x d a b, fun hq => traps_regs hc hg hp (i := .svcall x d) rfl rfl rfl hq,
    mand_traps hc hg hp x d a b, fun hv => traps_regs hc hg hp (i := .cwake x a) rfl rfl rfl hv,
    fun hk => ⟨?_, mgnset_traps hc hg hp x d a r (.inl hk), mgnsetW_traps hc hg hp x d a r (.inl hk), ?_⟩,
    fun hr => mgnset_traps hc hg hp x d a r (.inr hr), fun hr => mgnsetW_traps hc hg hp x d a r (.inr hr),
    fun hk => ⟨fun k => ⟨?_, ?_⟩, fun hv => ?_, fun hv => ⟨?_, ?_⟩⟩,
    fun hk => ⟨fun hscope => ⟨?_, ?_⟩, copykickAny_traps hc hg hp x a b hk, ?_⟩,
    fun hk => ⟨?_, ?_⟩, gridbar_traps hc hg hp x, fun hk => ⟨fun i => ?_, fun hq => ?_⟩,
    fun hk => ⟨?_, ?_⟩, fun k hkey => ⟨fun hk => ?_, fun h1 h2 h3 => ?_⟩,
    fun _ hpend hf hpoison => ⟨fun hv => ?_, fun hin hodd => ?_⟩⟩
  · exact traps_ctx hc hg hp (i := .mbreply x a) rfl rfl rfl rfl (supCtx_false hk)
  · exact traps_ctx hc hg hp (i := .qload x a b) rfl rfl rfl rfl (supCtx_false hk)
  · exact traps_ctx hc hg hp (i := .cyield x k) rfl rfl rfl rfl (ctxNeed_false hk)
  · exact traps_ctx hc hg hp (i := .csleep x k) rfl rfl rfl rfl (ctxNeed_false hk)
  · exact traps_ctx hc hg hp (i := .cwake x a) rfl rfl rfl hv (decide_eq_false hk)
  · exact traps_ctx hc hg hp (i := .cidx x d) rfl rfl rfl hv (ctxNeed_false hk)
  · exact traps_ctx hc hg hp (i := .cstat x d) rfl rfl rfl hv (ctxNeed_false hk)
  · exact traps_ctx hc hg hp (i := .fenceRel x p) rfl rfl (decide_eq_true hscope) rfl (notRoutine_false hk)
  · exact traps_ctx hc hg hp (i := .fenceAcq x p) rfl rfl (decide_eq_true hscope) rfl (notRoutine_false hk)
  · exact traps_ctx hc hg hp (i := .mxwait x a) rfl rfl rfl rfl (notRoutine_false hk)
  · exact traps_ctx hc hg hp (i := .gangbar x) rfl rfl rfl rfl (syncCtx_false hk)
  · exact traps_ctx hc hg hp (i := .barw x e) rfl rfl rfl rfl (syncCtx_false hk)
  · exact traps_ctx hc hg hp (i := .trap x i) rfl rfl rfl rfl hk
  · exact traps_ctx hc hg hp (i := .svcall x d) rfl rfl rfl hq hk
  · exact traps_ctx hc hg hp (i := .tempow x a) rfl rfl rfl rfl (groupCtx_false hk)
  · exact traps_ctx hc hg hp (i := .haltt x) rfl rfl rfl rfl (groupCtx_false hk)
  · subst hkey
    exact traps_ctx hc hg hp (i := .smovs x a d y) rfl rfl rfl rfl (specialCtx_read_false hk)
  · subst hkey
    exact traps_ctx hc hg hp (i := .smovw x d a y) rfl rfl rfl rfl (specialCtx_write_false h1 h2 h3)
  · exact smovw_chk_traps hc hg hp hpend hf hpoison x a hv
  · exact smovw_epc_traps hc hg hp hpend hf hpoison x a hin hodd

/-- Settles O51: words by the rows of the decoder, and instructions by the checks before they act. -/
theorem illegalInstructions : Obligations.IllegalInstructions := by
  refine ⟨illegalWords, illegalForms, fun w h => ⟨reservedMajor_of_le h, rfl⟩,
    fun w i h => (decodeWord_ok_iff.1 h).2, rfl, rfl, rfl, rfl, fun s c n g hc hg hp =>
    ⟨fun i w => traps_of_undefined hc hg hp, fun x d a b => ⟨?_, ?_, ?_, ?_, ?_, ?_⟩⟩⟩
  · intro h
    refine traps_regs hc hg hp (i := .vaddI32 x d a b) rfl rfl rfl ?_
    show (g.hasV d.toNat && g.hasV a.toNat && g.hasV b.toNat) = false
    rcases h with h | h | h <;> simp [h]
  · intro h
    exact traps_regs hc hg hp (i := .ifm x a) rfl rfl rfl (decide_eq_false (Nat.not_le.2 h))
  · intro h
    refine traps_ctx hc hg hp (i := .rte x) rfl rfl rfl rfl ?_
    show (g.isTeamCode && g.inHandler && decide (g.stack.length = g.hdepth)) = false
    simp [h]
  · intro h
    exact traps_regs hc hg hp (i := .mbpop x d) rfl rfl rfl (decide_eq_false (Nat.not_le.2 h))
  · intro hk
    exact ⟨fun h => traps_ctx hc hg hp (i := .mbpop x d) rfl rfl rfl (decide_eq_true h) (supCtx_false hk),
      traps_ctx hc hg hp (i := .qsave x a b) rfl rfl rfl rfl (supCtx_false hk)⟩
  · intro hk
    exact traps_ctx hc hg hp (i := .cdone x) rfl rfl rfl rfl (ctxNeed_false hk)

end Sys2Proof.Machine
end

section
/-!
SUPPORT. Rounding to an integer (R70): what `roundShift` and `roundAt` make of a number, in the real
numbers, and that it is the member of a set that `Nearest` names.
-/

namespace Sys2Proof.Machine

open Sys2Proof.Claim

/-! ## Signs -/

/-- The factor of a sign. -/
def sgn (neg : Bool) : ℝ := if neg then -1 else 1

@[simp] theorem sgn_true : sgn true = -1 := if_pos rfl

@[simp] theorem sgn_false : sgn false = 1 := if_neg Bool.false_ne_true

theorem abs_sgn_mul (neg : Bool) (y : ℝ) : |sgn neg * y| = |y| := by
  cases neg <;> simp [sgn]

theorem sgn_bne (s t : Bool) : sgn (s != t) = sgn s * sgn t := by
  cases s <;> cases t <;> simp [sgn]

theorem sgn_mul_ne_zero (neg : Bool) {y : ℝ} (h : y ≠ 0) : sgn neg * y ≠ 0 := by
  cases neg <;> simpa [sgn] using h

theorem sgn_mul_neg_iff {neg : Bool} {y : ℝ} (h : 0 < y) : sgn neg * y < 0 ↔ neg = true := by
  cases neg <;> simp [sgn, h, h.le]

theorem sgn_mul_pos_iff {neg : Bool} {y : ℝ} (h : 0 < y) : 0 < sgn neg * y ↔ neg = false := by
  cases neg <;> simp [sgn, h, h.le]

theorem sgn_mul_cancel {neg : Bool} {y z : ℝ} : sgn neg * y = sgn neg * z ↔ y = z := by
  cases neg <;> simp [sgn]

/-- R70: for a negative value RUP and RDN exchange their parts on the magnitude. -/
def mirror (neg : Bool) (mode : Nat) : Nat :=
  if neg then (match mode with | 2 => 3 | 3 => 2 | m => m) else mode

/-! ## Comparisons with the multiples of a power of two -/

/-- No multiple of `2 ^ e` tells `y` from `z`. -/
def SameSide (e : Int) (y z : ℝ) : Prop :=
  ∀ n : ℤ, (n * (2 : ℝ) ^ e ≤ y ↔ n * (2 : ℝ) ^ e ≤ z) ∧ (y ≤ n * (2 : ℝ) ^ e ↔ z ≤ n * (2 : ℝ) ^ e)

theorem SameSide.refl (e : Int) (y : ℝ) : SameSide e y y := fun _ => ⟨Iff.rfl, Iff.rfl⟩

/-- A multiple of a higher power is one of a lower. -/
theorem two_zpow_split {d e : Int} (h : d ≤ e) : (2 : ℝ) ^ e = 2 ^ (e - d).toNat * (2 : ℝ) ^ d := by
  rw [← zpow_natCast, Int.toNat_of_nonneg (by omega), ← zpow_add₀ two_ne_zero, sub_add_cancel]

theorem SameSide.mono {d e : Int} {y z : ℝ} (h : SameSide d y z) (hde : d ≤ e) : SameSide e y z := by
  intro n
  have hn := h (n * 2 ^ (e - d).toNat)
  push_cast at hn
  rwa [two_zpow_split hde, ← mul_assoc]

theorem SameSide.eq_iff {e : Int} {y z : ℝ} (h : SameSide e y z) (n : ℤ) :
    y = n * (2 : ℝ) ^ e ↔ z = n * (2 : ℝ) ^ e := by
  rw [le_antisymm_iff, le_antisymm_iff, (h n).1, (h n).2]

/-- The comparisons of `y` and `z` in steps of `2 ^ e`. -/
theorem SameSide.div {d e : Int} {y z : ℝ} (h : SameSide (d + e) y z) :
    SameSide d (y / 2 ^ e) (z / 2 ^ e) := by
  intro n
  have hn := h n
  have he : (0 : ℝ) < 2 ^ e := by positivity
  rwa [zpow_add₀ two_ne_zero, ← mul_assoc, ← le_div_iff₀ he, ← le_div_iff₀ he, ← div_le_iff₀ he,
    ← div_le_iff₀ he] at hn

/-! ## Rounding a magnitude -/

/-- R70: `k` is the number `y ≥ 0` rounded to an integer by a mode. -/
def Rounds (mode : Nat) (y : ℝ) (k : ℕ) : Prop :=
  match mode with
  | 0 => k - 1 / 2 ≤ y ∧ y ≤ k + 1 / 2 ∧ (y = k - 1 / 2 ∨ y = k + 1 / 2 → Even k)
  | 1 | 3 => k ≤ y ∧ y < k + 1
  | 2 => k - 1 < y ∧ y ≤ k
  | _ => k - 1 / 2 ≤ y ∧ y < k + 1 / 2

theorem Rounds.bounds {mode : Nat} {y : ℝ} {k : ℕ} (h : Rounds mode y k) : k - 1 < y ∧ y < k + 1 := by
  unfold Rounds at h
  split at h <;> constructor <;> linarith [h.1, h.2]

/-- Rounding does not pass an integer. -/
theorem Rounds.le {mode : Nat} {y : ℝ} {k n : ℕ} (h : Rounds mode y k) (hn : n ≤ y) : n ≤ k := by
  have hlt : (n : ℝ) < (k + 1 : ℕ) := by push_cast; linarith [h.bounds]
  exact Nat.lt_succ_iff.1 (Nat.cast_lt.1 hlt)

theorem Rounds.ge {mode : Nat} {y : ℝ} {k n : ℕ} (h : Rounds mode y k) (hn : y ≤ n) : k ≤ n := by
  have hlt : (k : ℝ) < (n + 1 : ℕ) := by push_cast; linarith [h.bounds]
  exact Nat.lt_succ_iff.1 (Nat.cast_lt.1 hlt)

/-- An integer is rounded to itself. -/
theorem Rounds.eq_of_nat {mode k n : ℕ} {y : ℝ} (h : Rounds mode y k) (hn : y = n) : k = n :=
  le_antisymm (h.ge hn.le) (h.le hn.ge)

theorem rounds_nat (mode k : ℕ) : Rounds mode k k := by
  unfold Rounds
  split
  · exact ⟨by linarith, by linarith, by rintro (h | h) <;> linarith⟩
  all_goals constructor <;> linarith

/-- Only comparisons with halves of integers decide a rounding. -/
theorem Rounds.transfer {mode : Nat} {y z : ℝ} {k : ℕ} (h : SameSide (-1) y z) (hz : Rounds mode z k) :
    Rounds mode y k := by
  have half : (2 : ℝ) ^ (-1 : ℤ) = 1 / 2 := by norm_num
  have hlow := h (2 * k - 2)
  have hless := h (2 * k - 1)
  have hmid := h (2 * k)
  have hmore := h (2 * k + 1)
  have hhigh := h (2 * k + 2)
  have eless := h.eq_iff (2 * k - 1)
  have emore := h.eq_iff (2 * k + 1)
  push_cast [half] at hlow hless hmid hmore hhigh eless emore
  rw [show (2 * (k : ℝ) - 2) * (1 / 2) = k - 1 by ring] at hlow
  rw [show (2 * (k : ℝ) - 1) * (1 / 2) = k - 1 / 2 by ring] at hless eless
  rw [show 2 * (k : ℝ) * (1 / 2) = k by ring] at hmid
  rw [show (2 * (k : ℝ) + 1) * (1 / 2) = k + 1 / 2 by ring] at hmore emore
  rw [show (2 * (k : ℝ) + 2) * (1 / 2) = k + 1 by ring] at hhigh
  unfold Rounds at hz ⊢
  split at hz
  · rwa [hless.1, hmore.2, eless, emore]
  · rwa [hmid.1, ← not_le, hhigh.1, not_le]
  · rwa [hmid.1, ← not_le, hhigh.1, not_le]
  · rwa [hmid.2, ← not_le, hlow.2, not_le]
  · rwa [hless.1, ← not_le, hmore.1, not_le]

theorem roundShift_mirror (mode : Nat) (neg : Bool) (m k : Nat) :
    roundShift mode neg m k = roundShift (mirror neg mode) false m k := by
  cases neg
  · rfl
  · match mode with
    | 0 | 1 | 2 | 3 => simp [roundShift, mirror]
    | n + 4 => rfl

theorem roundShift_rounds (mode m k : Nat) :
    Rounds mode ((m : ℝ) / 2 ^ k) (roundShift mode false m k) := by
  have hsum : (m : ℝ) / 2 ^ k = (m / 2 ^ k : ℕ) + (m % 2 ^ k : ℕ) / (2 : ℝ) ^ k := by
    have hm := congrArg (Nat.cast (R := ℝ)) (Nat.div_add_mod m (2 ^ k))
    push_cast at hm
    field_simp
    linarith
  have hpos : (0 : ℝ) < 2 ^ k := by positivity
  have hrest : ((m % 2 ^ k : ℕ) : ℝ) < 2 ^ k := by exact_mod_cast Nat.mod_lt m (by positivity)
  have hover : 2 ^ k < 2 * (m % 2 ^ k) ↔ 1 / 2 < ((m % 2 ^ k : ℕ) : ℝ) / 2 ^ k := by
    rw [lt_div_iff₀ hpos, ← Nat.cast_lt (α := ℝ)]
    push_cast
    constructor <;> intro h <;> linarith
  have hhalf : 2 * (m % 2 ^ k) = 2 ^ k ↔ ((m % 2 ^ k : ℕ) : ℝ) / 2 ^ k = 1 / 2 := by
    rw [div_eq_iff hpos.ne', ← Nat.cast_inj (R := ℝ)]
    push_cast
    constructor <;> intro h <;> linarith
  have hreach : 2 ^ k ≤ 2 * (m % 2 ^ k) ↔ 1 / 2 ≤ ((m % 2 ^ k : ℕ) : ℝ) / 2 ^ k := by
    rw [le_div_iff₀ hpos, ← Nat.cast_le (α := ℝ)]
    push_cast
    constructor <;> intro h <;> linarith
  have hzero : m % 2 ^ k = 0 ↔ ((m % 2 ^ k : ℕ) : ℝ) / 2 ^ k = 0 := by
    rw [div_eq_zero_iff, Nat.cast_eq_zero, or_iff_left hpos.ne']
  have hnonneg : 0 ≤ ((m % 2 ^ k : ℕ) : ℝ) / 2 ^ k := by positivity
  have hlt : ((m % 2 ^ k : ℕ) : ℝ) / 2 ^ k < 1 := (div_lt_one hpos).2 hrest
  rw [hsum]
  unfold roundShift
  dsimp only
  generalize ((m % 2 ^ k : ℕ) : ℝ) / 2 ^ k = t at *
  generalize m / 2 ^ k = q
  match mode with
  | 0 =>
    simp only [hover, hhalf, Bool.or_eq_true, Bool.and_eq_true, decide_eq_true_eq]
    split
    · next h =>
      have hup : 1 / 2 ≤ t := h.elim le_of_lt fun h => h.1.ge
      refine ⟨by push_cast; linarith, by push_cast; linarith, fun htie => ?_⟩
      rcases h with h | ⟨-, h⟩
      · push_cast at htie
        rcases htie with htie | htie <;> linarith
      · exact (Nat.odd_iff.2 h).add_one
    · next h =>
      obtain ⟨hle, heven⟩ := not_or.1 h
      refine ⟨by linarith, by linarith, fun htie => ?_⟩
      have ht : t = 1 / 2 := by rcases htie with htie | htie <;> linarith
      exact Nat.not_odd_iff_even.1 fun hodd => heven ⟨ht, Nat.odd_iff.1 hodd⟩
  | 1 | 3 =>
    simp only [Bool.and_false, Bool.false_eq_true, if_false]
    exact ⟨by linarith, by linarith⟩
  | 2 =>
    simp only [Bool.not_false, Bool.and_true, decide_eq_true_eq, ne_eq, hzero, ite_not]
    split
    · next h => exact ⟨by linarith, by linarith⟩
    · next h =>
      have hpos := lt_of_le_of_ne hnonneg (Ne.symm h)
      exact ⟨by push_cast; linarith, by push_cast; linarith⟩
  | n + 4 =>
    simp only [Bool.and_eq_true, decide_eq_true_eq, ne_eq, hzero, hreach]
    split
    · next h => exact ⟨by push_cast; linarith [h.2], by push_cast; linarith⟩
    · next h =>
      have hle : t < 1 / 2 := by
        by_contra hge
        exact h ⟨by intro h0; linarith, not_lt.1 hge⟩
      exact ⟨by linarith, by linarith⟩

/-- R70: `roundAt` rounds to a multiple of `2 ^ q`. -/
theorem roundAt_rounds (mode : Nat) (neg : Bool) (m : Nat) (x q : Int) :
    Rounds (mirror neg mode) (m * (2 : ℝ) ^ x / 2 ^ q) (roundAt mode neg m x q) := by
  have hstep : m * (2 : ℝ) ^ x / 2 ^ q = m * (2 : ℝ) ^ (x - q) := by
    rw [zpow_sub₀ two_ne_zero, mul_div_assoc]
  rw [hstep]
  unfold roundAt
  split
  · next h =>
    have hnat : (m : ℝ) * 2 ^ (x - q) = (m * 2 ^ (x - q).toNat : ℕ) := by
      rw [Nat.cast_mul, Nat.cast_pow, Nat.cast_ofNat, ← zpow_natCast, Int.toNat_of_nonneg (by omega)]
    rw [hnat]
    exact rounds_nat _ _
  · next h =>
    have hdiv : (m : ℝ) * 2 ^ (x - q) = m / 2 ^ (q - x).toNat := by
      rw [← zpow_natCast, Int.toNat_of_nonneg (by omega), div_eq_mul_inv, ← zpow_neg, neg_sub]
    rw [hdiv, roundShift_mirror]
    exact roundShift_rounds _ _ _

/-- R73: what `exactAt` tests. -/
theorem exactAt_iff (m : Nat) (x q : Int) :
    exactAt m x q = true ↔ ∃ n : ℕ, m * (2 : ℝ) ^ x = n * 2 ^ q := by
  rw [exactAt, Bool.or_eq_true, decide_eq_true_eq, decide_eq_true_eq]
  rcases le_or_gt q x with h | h
  · refine iff_of_true (.inl h) ⟨m * 2 ^ (x - q).toNat, ?_⟩
    rw [two_zpow_split h]
    push_cast
    ring
  · rw [or_iff_right (by omega), ← Nat.dvd_iff_mod_eq_zero, two_zpow_split h.le]
    refine exists_congr fun n => ?_
    rw [← mul_assoc, mul_left_inj' (by positivity), mul_comm (2 ^ _) n]
    exact_mod_cast Iff.rfl

/-! ## The member of a set -/

/-- In steps of `g`. -/
theorem nearest_scale {R even : ℝ → Prop} {mode : Nat} {x v g : ℝ} (hg : 0 < g)
    (h : Nearest (fun w => R (w * g)) (fun w => even (w * g)) mode x v) :
    Nearest R even mode (x * g) (v * g) := by
  have hall : ∀ {P : ℝ → Prop}, (∀ y, P (y * g)) → ∀ w, P w := fun hP w => by
    have hw := hP (w / g)
    rwa [div_mul_cancel₀ _ hg.ne'] at hw
  have habs : ∀ y, |y * g| = |y| * g := fun y => by rw [abs_mul, abs_of_pos hg]
  have hsign : ∀ y, 0 ≤ y * g * (x * g) ↔ 0 ≤ y * x := fun y => by
    rw [show y * g * (x * g) = y * x * (g * g) by ring, mul_nonneg_iff_of_pos_right (mul_pos hg hg)]
  have hdist : ∀ y, |x * g - y * g| = |x - y| * g := fun y => by rw [← sub_mul, habs]
  obtain ⟨hR, h⟩ := h
  refine ⟨hR, ?_⟩
  split at h
  · rw [habs, habs, mul_le_mul_iff_left₀ hg, hsign]
    refine ⟨h.1, h.2.1, hall fun y => ?_⟩
    rw [habs, mul_le_mul_iff_left₀ hg, mul_le_mul_iff_left₀ hg, hsign]
    exact h.2.2 y
  · rw [mul_le_mul_iff_left₀ hg]
    refine ⟨h.1, hall fun y => ?_⟩
    rw [mul_le_mul_iff_left₀ hg, mul_le_mul_iff_left₀ hg]
    exact h.2 y
  · rw [mul_le_mul_iff_left₀ hg]
    refine ⟨h.1, hall fun y => ?_⟩
    rw [mul_le_mul_iff_left₀ hg, mul_le_mul_iff_left₀ hg]
    exact h.2 y
  · next hne1 hne2 hne3 =>
    refine ⟨hall fun y => ?_, hall fun y => ?_⟩
    · rw [hdist, hdist, mul_le_mul_iff_left₀ hg]
      exact h.1 y
    · rw [hdist, hdist, mul_left_inj' hg.ne', ne_eq, mul_left_inj' hg.ne', habs, habs,
        mul_lt_mul_iff_left₀ hg]
      exact h.2 y

/-- The negated number, in a set that negation keeps. -/
theorem nearest_neg {R even : ℝ → Prop} {mode : Nat} {x v : ℝ} (hR : ∀ w, R w → R (-w))
    (heven : ∀ w, even w → even (-w)) (h : Nearest R even (mirror true mode) x v) :
    Nearest R even mode (-x) (-v) := by
  obtain ⟨hv, h⟩ := h
  refine ⟨hR v hv, ?_⟩
  match mode with
  | 1 =>
    obtain ⟨hle, hsign, hbest⟩ := h
    rw [abs_neg, abs_neg, neg_mul_neg]
    exact ⟨hle, hsign, fun w hw hwx hs => by simpa using hbest (-w) (hR w hw) (by simpa using hwx) (by linarith)⟩
  | 2 => exact ⟨neg_le_neg h.1, fun w hw hx => neg_le.1 (h.2 (-w) (hR w hw) (by linarith))⟩
  | 3 => exact ⟨neg_le_neg h.1, fun w hw hx => le_neg.1 (h.2 (-w) (hR w hw) (by linarith))⟩
  | 0 | n + 4 =>
    have hdist : ∀ w, |-x - w| = |x - -w| := fun w => by
      rw [← abs_neg]
      congr 1
      ring
    refine ⟨fun w hw => ?_, fun w hw hne heq => ?_⟩
    · rw [hdist, hdist, neg_neg]
      exact h.1 (-w) (hR w hw)
    · rw [hdist, hdist, neg_neg] at heq
      have hbest := h.2 (-w) (hR w hw) (fun e => hne (by rw [← e, neg_neg])) heq
      have himp : ∀ {c : Prop} [Decidable c], (if c then even v else |w| < |v|) →
          if c then even (-v) else |w| < |v| := by
        intro c _ h
        split_ifs at h ⊢
        exacts [heven v h, h]
      rw [abs_neg] at hbest ⊢
      exact himp hbest

theorem nearest_sgn {R even : ℝ → Prop} {mode : Nat} {neg : Bool} {x v : ℝ} (hR : ∀ w, R w → R (-w))
    (heven : ∀ w, even w → even (-w)) (h : Nearest R even (mirror neg mode) x v) :
    Nearest R even mode (sgn neg * x) (sgn neg * v) := by
  cases neg
  · simpa [sgn, mirror] using h
  · simpa [sgn] using nearest_neg hR heven h

/-- Of integers, and numbers below one that is no more than `y`, the nearest to `y` is the one within a
half; where a second is as near, `y` lies in the middle. -/
theorem closest_of_near {y w : ℝ} {k low : ℕ} (hlow : (low : ℝ) ≤ y) (hlk : low ≤ k)
    (hgrid : |w| < low ∨ ∃ j : ℤ, w = j) (h1 : k - 1 / 2 ≤ y) (h2 : y ≤ k + 1 / 2) :
    |y - k| ≤ |y - w| ∧
      (w ≠ k → |y - w| = |y - k| → w = k - 1 ∧ y = k - 1 / 2 ∨ w = k + 1 ∧ y = k + 1 / 2) := by
  have hnear : |y - k| ≤ 1 / 2 := abs_le.2 ⟨by linarith, by linarith⟩
  rcases hgrid with hw | ⟨j, rfl⟩
  · have hwlow : w < low := (abs_lt.1 hw).2
    have hstep : |y - k| ≤ y - low := by
      rcases hlk.eq_or_lt with rfl | hlt
      · exact (abs_of_nonneg (by linarith)).le
      · have hlt : (low : ℝ) + 1 ≤ k := by exact_mod_cast hlt
        linarith
    have hfar : |y - k| < |y - w| := by linarith [le_abs_self (y - w)]
    exact ⟨hfar.le, fun _ heq => absurd heq hfar.ne'⟩
  · rcases lt_trichotomy j (k : ℤ) with hj | rfl | hj
    · have hj : (j : ℝ) + 1 ≤ k := by exact_mod_cast hj
      have hdist : |y - j| = y - j := abs_of_nonneg (by linarith)
      exact ⟨by linarith, fun _ heq => .inl ⟨by linarith, by linarith⟩⟩
    · exact ⟨le_rfl, fun hne => absurd rfl hne⟩
    · have hj : (k : ℝ) + 1 ≤ j := by exact_mod_cast hj
      have hdist : |y - j| = j - y := by rw [abs_sub_comm, abs_of_nonneg (by linarith)]
      exact ⟨by linarith, fun _ heq => .inr ⟨by linarith, by linarith⟩⟩

/-- R70: rounding to an integer gives the member that `Nearest` names of a set whose members are
integers from `low ≤ y` on. -/
theorem nearest_of_rounds {R even : ℝ → Prop} {mode : Nat} {y : ℝ} {k low : ℕ} (hlow : (low : ℝ) ≤ y)
    (hgrid : ∀ w, R w → (low : ℝ) ≤ |w| → ∃ j : ℤ, w = j) (hk : R k) (heven : Even k → even k)
    (h : Rounds mode y k) : Nearest R even mode y k := by
  have hy : 0 ≤ y := (Nat.cast_nonneg low).trans hlow
  have hlk : (low : ℝ) ≤ k := Nat.cast_le.2 (h.le hlow)
  have hgrid : ∀ w, R w → |w| < low ∨ ∃ j : ℤ, w = j := fun w hw =>
    (lt_or_ge |w| low).imp_right (hgrid w hw)
  refine ⟨hk, ?_⟩
  match mode with
  | 1 =>
    obtain ⟨hle, hlt⟩ := h
    refine ⟨?_, by positivity, fun w hw hwy _ => ?_⟩
    · rwa [abs_of_nonneg hy, Nat.abs_cast]
    · rw [Nat.abs_cast]
      rw [abs_of_nonneg hy] at hwy
      rcases hgrid w hw with hw | ⟨j, rfl⟩
      · exact hw.le.trans hlk
      · have hj : |j| < (k + 1 : ℤ) := by exact_mod_cast hwy.trans_lt hlt
        exact_mod_cast Int.lt_add_one_iff.1 hj
  | 2 =>
    obtain ⟨hlt, hle⟩ := h
    refine ⟨hle, fun w hw hwy => ?_⟩
    rcases hgrid w hw with hw | ⟨j, rfl⟩
    · linarith [le_abs_self w]
    · have hj : (k - 1 : ℤ) < j := by exact_mod_cast hlt.trans_le hwy
      exact_mod_cast Int.sub_one_lt_iff.1 hj
  | 3 =>
    obtain ⟨hle, hlt⟩ := h
    refine ⟨hle, fun w hw hwy => ?_⟩
    rcases hgrid w hw with hw | ⟨j, rfl⟩
    · linarith [le_abs_self w]
    · have hj : j < (k + 1 : ℤ) := by exact_mod_cast hwy.trans_lt hlt
      exact_mod_cast Int.lt_add_one_iff.1 hj
  | 0 =>
    obtain ⟨h1, h2, heven'⟩ := h
    have hnear := fun w hw => closest_of_near hlow (Nat.cast_le.1 hlk) (hgrid w hw) h1 h2
    exact ⟨fun w hw => (hnear w hw).1, fun w hw hne heq => heven (heven'
      (((hnear w hw).2 hne heq).imp And.right And.right))⟩
  | n + 4 =>
    obtain ⟨h1, h2⟩ := h
    have hnear := fun w hw => closest_of_near hlow (Nat.cast_le.1 hlk) (hgrid w hw) h1 h2.le
    refine ⟨fun w hw => (hnear w hw).1, fun w hw hne heq => ?_⟩
    rw [if_neg (by omega), Nat.abs_cast]
    rcases (hnear w hw).2 hne heq with ⟨rfl, htie⟩ | ⟨-, htie⟩
    · have hpos : (0 : ℝ) < k := by linarith
      have hone : (1 : ℝ) ≤ k := Nat.one_le_cast.2 (Nat.cast_pos.1 hpos)
      exact abs_lt.2 ⟨by linarith, by linarith⟩
    · exact absurd htie h2.ne

/-- A member is rounded to itself. -/
theorem nearest_mem {R even : ℝ → Prop} {mode : Nat} {x v : ℝ} (h : Nearest R even mode x v)
    (hx : R x) : v = x := by
  obtain ⟨-, h⟩ := h
  split at h
  · obtain ⟨hle, hsign, hbest⟩ := h
    have habs := le_antisymm hle (hbest x hx le_rfl (mul_self_nonneg x))
    rcases abs_eq_abs.1 habs with e | e
    · exact e
    · rw [e] at hsign ⊢
      nlinarith
  · exact le_antisymm (h.2 x hx le_rfl) h.1
  · exact le_antisymm h.1 (h.2 x hx le_rfl)
  · have hle := h.1 x hx
    rw [sub_self, abs_zero] at hle
    linarith [abs_nonpos_iff.1 hle]

end Sys2Proof.Machine
end

section
/-!
SUPPORT. Encodings of a floating-point format (R64): the number an encoding stands for, in units of the
least subnormal, and its order.
-/

namespace Sys2Proof.Machine

open Sys2Proof.Claim

/-! ## The numbers of a format (R70) -/

theorem represents_neg {p : Nat} {low : Option Int} {w : ℝ} (h : Represents p low w) :
    Represents p low (-w) := by
  obtain ⟨n, e, hn, he, rfl⟩ := h
  exact ⟨-n, e, by rwa [Int.natAbs_neg], he, by push_cast; ring⟩

/-- A multiple of `2 ^ q` that needs one bit more than `p` at most. -/
theorem represents_mul {p k : Nat} {low : Option Int} {q : Int} (hk : k ≤ 2 ^ (p + 1))
    (hq : ∀ l, low = some l → l ≤ q) : Represents p low (k * 2 ^ q) := by
  rcases hk.eq_or_lt with rfl | hk
  · refine ⟨1, q + (p + 1 : ℕ), ?_, fun l hl => (hq l hl).trans (by omega), ?_⟩
    · exact Nat.one_lt_two_pow (Nat.succ_ne_zero p)
    · rw [zpow_add₀ two_ne_zero, zpow_natCast]
      push_cast
      ring
  · exact ⟨k, q, by rwa [Int.natAbs_natCast], hq, by push_cast; rfl⟩

/-- The even ones. -/
theorem represents_even {p k : Nat} {low : Option Int} {q : Int} (hp : 1 ≤ p) (hk : k ≤ 2 ^ (p + 1))
    (hq : ∀ l, low = some l → l ≤ q) (heven : Even k) :
    Represents (p - 1) (low.map (· + 1)) (k * 2 ^ q) := by
  obtain ⟨j, rfl⟩ := heven
  have hj : j ≤ 2 ^ (p - 1 + 1) := by
    rw [Nat.sub_add_cancel hp]
    rw [Nat.pow_succ] at hk
    omega
  have hmul : ((j + j : ℕ) : ℝ) * 2 ^ q = j * 2 ^ (q + 1) := by
    rw [zpow_add₀ two_ne_zero]
    push_cast
    ring
  rw [hmul]
  refine represents_mul hj fun l hl => ?_
  cases low with
  | none => cases hl
  | some l' =>
    cases hl
    exact Int.add_le_add_right (hq l' rfl) 1

/-- A number whose precision ends at `2 ^ q` or above is a multiple of `2 ^ q`. -/
theorem represents_grid {p : Nat} {low : Option Int} {q : Int} {w : ℝ}
    (h : Represents p low (w * 2 ^ q)) (hq : low = some q ∨ (2 : ℝ) ^ p ≤ |w|) : ∃ j : ℤ, w = j := by
  obtain ⟨n, e, hn, he, heq⟩ := h
  have hw : w = n * (2 : ℝ) ^ (e - q) := by
    rw [zpow_sub₀ two_ne_zero, ← mul_div_assoc, ← heq, mul_div_cancel_right₀ _ (by positivity)]
  have hqe : q ≤ e := by
    rcases hq with hq | hq
    · exact he q hq
    · by_contra hlt
      have hstep : (2 : ℝ) ^ (e - q) ≤ 1 / 2 := by
        rw [one_div, ← zpow_neg_one]
        exact zpow_le_zpow_right₀ one_le_two (by omega)
      have hn : |(n : ℝ)| < 2 ^ (p + 1) := by
        rw [← Int.cast_abs, Int.abs_eq_natAbs]
        exact_mod_cast hn
      rw [hw, abs_mul, abs_of_pos (by positivity : (0 : ℝ) < 2 ^ (e - q))] at hq
      have hle : |(n : ℝ)| * 2 ^ (e - q) ≤ |(n : ℝ)| * (1 / 2) := by gcongr
      rw [pow_succ] at hn
      linarith
  refine ⟨n * 2 ^ (e - q).toNat, ?_⟩
  rw [hw]
  push_cast
  rw [← zpow_natCast, Int.toNat_of_nonneg (by omega)]

/-- R70: a magnitude rounded in steps of `2 ^ q` is rounded into the numbers with `p` fraction bits,
where that is the step of these numbers at `y`. -/
theorem nearest_represents {p k : Nat} {low : Option Int} {q : Int} {mode : Nat} {y : ℝ} (neg : Bool)
    (hp : 1 ≤ p) (hlow : ∀ l, low = some l → l ≤ q) (hy : 0 ≤ y) (hstep : low = some q ∨ 2 ^ p * 2 ^ q ≤ y)
    (hk : k ≤ 2 ^ (p + 1)) (h : Rounds (mirror neg mode) (y / 2 ^ q) k) :
    Nearest (Represents p low) (Represents (p - 1) (low.map (· + 1))) mode (sgn neg * y)
      (sgn neg * (k * 2 ^ q)) := by
  have hpos : (0 : ℝ) < 2 ^ q := by positivity
  refine nearest_sgn (fun w => represents_neg) (fun w => represents_neg) ?_
  have hscaled : y = y / 2 ^ q * 2 ^ q := (div_mul_cancel₀ _ hpos.ne').symm
  rw [hscaled]
  refine nearest_scale hpos ?_
  rcases hstep with hstep | hstep
  · exact nearest_of_rounds (low := 0) (by rw [Nat.cast_zero]; positivity)
      (fun w hw _ => represents_grid hw (.inl hstep)) (represents_mul hk hlow) (represents_even hp hk hlow) h
  · refine nearest_of_rounds (low := 2 ^ p) ?_ (fun w hw hle => represents_grid hw (.inr ?_)) (represents_mul hk hlow)
      (represents_even hp hk hlow) h
    · rw [le_div_iff₀ hpos]
      exact_mod_cast hstep
    · exact_mod_cast hle

/-! ## The number of an encoding (R64) -/

/-- The number that the encoding `n` of a magnitude stands for, in units of the least subnormal. -/
def magnitude (p n : Nat) : Nat := if n < 2 ^ p then n else (2 ^ p + n % 2 ^ p) * 2 ^ (n / 2 ^ p - 1)

/-- `r` steps of binade `j`: the encoding is `r + j * 2 ^ p`, also where `r` reaches the next binade. -/
theorem magnitude_steps {p r j : Nat} (hj : j = 0 ∨ 2 ^ p ≤ r) (hr : r ≤ 2 ^ (p + 1)) :
    magnitude p (r + j * 2 ^ p) = r * 2 ^ j := by
  have hpos : 0 < 2 ^ p := Nat.two_pow_pos p
  unfold magnitude
  rcases lt_or_ge r (2 ^ p) with hlt | hge
  · obtain rfl : j = 0 := hj.resolve_right (by omega)
    simp [hlt]
  · obtain ⟨t, rfl⟩ := Nat.exists_eq_add_of_le hge
    have hsum : 2 ^ p + t + j * 2 ^ p = t + (j + 1) * 2 ^ p := by ring
    rw [if_neg (by nlinarith [Nat.zero_le (j * 2 ^ p)]), hsum, Nat.add_mul_mod_self_right,
      Nat.add_mul_div_right _ _ hpos]
    rw [Nat.pow_succ, Nat.mul_two, Nat.add_le_add_iff_left] at hr
    rcases hr.eq_or_lt with rfl | ht
    · rw [Nat.mod_self, Nat.div_self hpos, Nat.add_zero, show 1 + (j + 1) - 1 = j + 1 by omega,
        Nat.pow_succ]
      ring
    · rw [Nat.mod_eq_of_lt ht, Nat.div_eq_of_lt ht, Nat.zero_add, Nat.add_sub_cancel]

/-- Every encoding of a magnitude is a number of steps of a binade. -/
theorem exists_steps (p n : Nat) :
    ∃ r j, n = r + j * 2 ^ p ∧ (j = 0 ∨ 2 ^ p ≤ r) ∧ r < 2 ^ (p + 1) := by
  have hpos : 0 < 2 ^ p := Nat.two_pow_pos p
  have hmod := Nat.mod_lt n hpos
  have hn := Nat.div_add_mod n (2 ^ p)
  rw [Nat.mul_comm] at hn
  rw [Nat.pow_succ]
  rcases Nat.eq_zero_or_pos (n / 2 ^ p) with h0 | h0
  · exact ⟨n % 2 ^ p, 0, by rw [h0] at hn; omega, .inl rfl, by omega⟩
  · refine ⟨2 ^ p + n % 2 ^ p, n / 2 ^ p - 1, ?_, .inr (by omega), by omega⟩
    obtain ⟨j, hj⟩ := Nat.exists_eq_add_of_lt h0
    rw [hj] at hn ⊢
    rw [show 0 + j + 1 - 1 = j by omega]
    linarith

theorem magnitude_strictMono (p : Nat) : StrictMono (magnitude p) := by
  refine strictMono_nat_of_lt_succ fun n => ?_
  obtain ⟨r, j, rfl, hj, hr⟩ := exists_steps p n
  rw [show r + j * 2 ^ p + 1 = r + 1 + j * 2 ^ p by ring, magnitude_steps hj hr.le,
    magnitude_steps (hj.imp_right fun h => by omega) hr]
  exact Nat.mul_lt_mul_of_pos_right (Nat.lt_succ_self r) (Nat.two_pow_pos j)

@[simp] theorem magnitude_zero (p : Nat) : magnitude p 0 = 0 := by simp [magnitude]

/-- R64: the number that the encoding of a magnitude stands for. -/
noncomputable def FFmt.amount (f : FFmt) (n : Nat) : ℝ := magnitude f.p n * 2 ^ f.unit

theorem amount_strictMono (f : FFmt) : StrictMono f.amount := fun _ _ h =>
  mul_lt_mul_of_pos_right (Nat.cast_lt.2 (magnitude_strictMono f.p h)) (by positivity)

@[simp] theorem amount_zero (f : FFmt) : f.amount 0 = 0 := by simp [FFmt.amount]

theorem amount_nonneg (f : FFmt) (n : Nat) : 0 ≤ f.amount n := by
  unfold FFmt.amount
  positivity

theorem amount_steps {f : FFmt} {r j : Nat} (hj : j = 0 ∨ 2 ^ f.p ≤ r) (hr : r ≤ 2 ^ (f.p + 1)) :
    f.amount (r + j * 2 ^ f.p) = r * 2 ^ (f.unit + j) := by
  rw [FFmt.amount, magnitude_steps hj hr, zpow_add₀ two_ne_zero, zpow_natCast]
  push_cast
  ring

/-! ## Reading -/

/-- What the formats of R63 have in common. -/
structure FFmt.Proper (f : FFmt) : Prop where
  frac : 1 ≤ f.p
  exp : 1 ≤ f.e

theorem proper_of_mem {f : FFmt} (h : f ∈ [F64, F32, FH, FBF, FE5, FE4]) : f.Proper := by
  simp only [List.mem_cons, List.not_mem_nil, or_false] at h
  rcases h with rfl | rfl | rfl | rfl | rfl | rfl <;> exact ⟨by decide, by decide⟩

theorem inf_lt_signBit {f : FFmt} : f.inf < f.signBit := by
  rw [FFmt.inf, FFmt.signBit, Nat.add_comm, Nat.pow_add]
  exact Nat.mul_lt_mul_of_pos_right (Nat.sub_lt (Nat.two_pow_pos _) one_pos) (Nat.two_pow_pos _)

/-- The fields of an encoding. -/
theorem signed_fields (f : FFmt) (neg : Bool) {n : Nat} (hn : n < f.signBit) :
    decide (f.signed neg n / f.signBit % 2 = 1) = neg ∧
      f.signed neg n / 2 ^ f.p % 2 ^ f.e = n / 2 ^ f.p ∧ f.signed neg n % 2 ^ f.p = n % 2 ^ f.p ∧
      f.signed neg n % f.signBit = n := by
  have hbit : f.signBit = 2 ^ f.e * 2 ^ f.p := by rw [FFmt.signBit, Nat.add_comm, Nat.pow_add]
  have hpos : 0 < 2 ^ f.p := Nat.two_pow_pos _
  have hexp : n / 2 ^ f.p < 2 ^ f.e := (Nat.div_lt_iff_lt_mul hpos).2 (hbit ▸ hn)
  cases neg
  · simp [FFmt.signed, Nat.div_eq_of_lt hn, Nat.mod_eq_of_lt hn, Nat.mod_eq_of_lt hexp]
  · have hsb : 0 < f.signBit := by omega
    refine ⟨?_, ?_, ?_, ?_⟩ <;> simp only [FFmt.signed, if_true]
    · rw [Nat.add_div_left _ hsb, Nat.div_eq_of_lt hn]
      rfl
    · rw [hbit, Nat.add_comm, Nat.add_mul_div_right _ _ hpos, Nat.add_mod_right, Nat.mod_eq_of_lt hexp]
    · rw [hbit, Nat.add_comm, Nat.add_mul_mod_self_right]
    · rw [Nat.add_mod_left, Nat.mod_eq_of_lt hn]

theorem read_signed (f : FFmt) (neg : Bool) {n : Nat} (hn : n < f.signBit) :
    f.read (f.signed neg n) =
      if n / 2 ^ f.p = 2 ^ f.e - 1 ∧ f.ieee then
        if n % 2 ^ f.p = 0 then .inf neg else .nan (decide (n % 2 ^ f.p < 2 ^ (f.p - 1)))
      else if ¬f.ieee ∧ n = f.signBit - 1 then .nan false
      else if n / 2 ^ f.p = 0 then .fin neg (n % 2 ^ f.p) f.unit
      else .fin neg (2 ^ f.p + n % 2 ^ f.p) (f.unit + (n / 2 ^ f.p : ℕ) - 1) := by
  obtain ⟨hneg, hexp, hfrac, hmag⟩ := signed_fields f neg hn
  unfold FFmt.read
  simp only [hneg, hexp, hfrac, hmag]

theorem maxFin_lt_signBit (f : FFmt) : f.maxFin < f.signBit := by
  have hinf := inf_lt_signBit (f := f)
  unfold FFmt.maxFin
  split
  · omega
  · exact Nat.sub_lt (Nat.two_pow_pos _) two_pos

/-- R64: an encoding up to the largest finite one is a number of steps of a binade. -/
theorem read_finite {f : FFmt} (hf : f.Proper) (neg : Bool) {n : Nat} (hn : n ≤ f.maxFin) :
    ∃ r j : ℕ, f.read (f.signed neg n) = .fin neg r (f.unit + j) ∧ n = r + j * 2 ^ f.p ∧
      (j = 0 ∨ 2 ^ f.p ≤ r) ∧ r < 2 ^ (f.p + 1) := by
  have hpos : 0 < 2 ^ f.p := Nat.two_pow_pos _
  have hmod := Nat.mod_lt n hpos
  have hsum : n % 2 ^ f.p + n / 2 ^ f.p * 2 ^ f.p = n := by rw [Nat.mul_comm, Nat.mod_add_div]
  have hbit : f.signBit = 2 ^ (f.p + f.e) := rfl
  have htwo : 2 ≤ 2 ^ (f.p + f.e) := Nat.le_self_pow (by have := hf.frac; omega) 2
  rw [read_signed f neg (hn.trans_lt (maxFin_lt_signBit f)), Nat.pow_succ]
  unfold FFmt.maxFin FFmt.inf at hn
  have hnoinf : ¬(n / 2 ^ f.p = 2 ^ f.e - 1 ∧ f.ieee = true) := by
    rintro ⟨hexp, hieee⟩
    have hone : 1 < 2 ^ f.e := Nat.one_lt_two_pow (by have := hf.exp; omega)
    have hinf : 0 < (2 ^ f.e - 1) * 2 ^ f.p := Nat.mul_pos (by omega) hpos
    rw [if_pos hieee] at hn
    rw [hexp] at hsum
    omega
  have hnonan : ¬(¬f.ieee = true ∧ n = f.signBit - 1) := by
    rintro ⟨hieee, rfl⟩
    rw [if_neg hieee] at hn
    omega
  rw [if_neg hnoinf, if_neg hnonan]
  split
  · next h0 =>
    rw [h0, Nat.zero_mul, Nat.add_zero] at hsum
    exact ⟨n % 2 ^ f.p, 0, by rw [Nat.cast_zero, Int.add_zero], by omega, .inl rfl, by omega⟩
  · next h0 =>
    obtain ⟨j, hj⟩ := Nat.exists_eq_succ_of_ne_zero h0
    refine ⟨2 ^ f.p + n % 2 ^ f.p, j, ?_, ?_, .inr (by omega), by omega⟩
    · rw [hj]
      congr 1
      push_cast
      ring
    · rw [hj, Nat.succ_mul] at hsum
      omega

theorem stands_finite {f : FFmt} (hf : f.Proper) (neg : Bool) {n : Nat} (hn : n ≤ f.maxFin) :
    Stands (f.read (f.signed neg n)) (sgn neg * f.amount n) := by
  obtain ⟨r, j, hread, rfl, hj, hr⟩ := read_finite hf neg hn
  rw [hread, amount_steps hj hr.le, ← mul_assoc]
  rfl

theorem read_infinite {f : FFmt} (hi : f.ieee = true) (neg : Bool) :
    f.read (f.signed neg f.inf) = .inf neg := by
  have hpos : 0 < 2 ^ f.p := Nat.two_pow_pos _
  rw [read_signed f neg inf_lt_signBit, FFmt.inf, Nat.mul_div_cancel _ hpos, Nat.mul_mod_left,
    if_pos ⟨rfl, hi⟩, if_pos rfl]

/-- R65: without infinities the canonical NaN is the greatest magnitude. -/
theorem read_nan {f : FFmt} (hi : f.ieee = false) : f.read f.nan = .nan false := by
  have hnan : f.nan = f.signed false (f.signBit - 1) := by simp [FFmt.nan, hi, FFmt.signed, FFmt.signBit]
  have hlt : f.signBit - 1 < f.signBit := Nat.sub_lt (Nat.two_pow_pos _) one_pos
  rw [hnan, read_signed f false hlt, if_neg (by simp [hi]), if_pos (by simp [hi])]

/-- What stands in an encoding is one number. -/
theorem stands_unique {v : Fp} {x y : ℝ} (hx : Stands v x) (hy : Stands v y) : x = y := by
  cases v with
  | nan _ => exact hx.elim
  | inf _ => exact hx.elim
  | fin s m e => exact hx.trans hy.symm

theorem stands_fin {s : Bool} {m : Nat} {e : Int} {x : ℝ} :
    Stands (.fin s m e) x ↔ x = sgn s * (m * 2 ^ e) := by
  rw [← mul_assoc]
  exact Iff.rfl

end Sys2Proof.Machine
end

section
/-!
PROOFS. Rounding into a format (R70 to R72): what `FFmt.round` delivers of a number that it is given, or
of one that lies on the same side of every number that decides a rounding.
-/

namespace Sys2Proof.Machine

open Sys2Proof.Claim

/-! ## The exponent of the leading bit -/

theorem leading_bit {m : Nat} (hm : m ≠ 0) (x : Int) :
    (2 : ℝ) ^ (m.log2 + x) ≤ m * 2 ^ x ∧ m * (2 : ℝ) ^ x < 2 ^ (m.log2 + x + 1) := by
  have hlow : (2 : ℝ) ^ m.log2 ≤ m := by exact_mod_cast Nat.log2_self_le hm
  have hhigh : (m : ℝ) < 2 ^ (m.log2 + 1) := by exact_mod_cast Nat.lt_log2_self
  rw [show (m.log2 : Int) + x + 1 = (m.log2 + 1 : ℕ) + x by push_cast; ring, zpow_add₀ two_ne_zero,
    zpow_add₀ two_ne_zero, zpow_natCast, zpow_natCast]
  exact ⟨by gcongr, by gcongr⟩

variable {f : FFmt} {mode m p : Nat} {neg sat : Bool} {x q : Int} {y : ℝ}

theorem sameSide_binade (hm : m ≠ 0) (h : SameSide (m.log2 + x - p - 1) y (m * 2 ^ x)) :
    (2 : ℝ) ^ (m.log2 + x) ≤ y ∧ y < 2 ^ (m.log2 + x + 1) := by
  obtain ⟨hlow, hhigh⟩ := leading_bit hm x
  have htop := h.mono (e := m.log2 + x) (by omega) 1
  have hnext := h.mono (e := m.log2 + x + 1) (by omega) 1
  rw [Int.cast_one, one_mul] at htop hnext
  exact ⟨htop.1.2 hlow, not_le.1 fun h => absurd (hnext.1.1 h) (not_le.2 hhigh)⟩

theorem sameSide_rounds (h : SameSide (m.log2 + x - p - 1) y (m * 2 ^ x)) (hq : m.log2 + x - p ≤ q) :
    Rounds (mirror neg mode) (y / 2 ^ q) (roundAt mode neg m x q) :=
  (roundAt_rounds mode neg m x q).transfer (h.mono (by omega)).div

theorem sameSide_exact (h : SameSide (m.log2 + x - p - 1) y (m * 2 ^ x)) (hq : m.log2 + x - p ≤ q) :
    exactAt m x q = true ↔ roundAt mode neg m x q * (2 : ℝ) ^ q = y := by
  have heq := fun n : ℕ => (h.mono (e := q) (by omega)).eq_iff n
  rw [exactAt_iff]
  constructor
  · rintro ⟨n, hn⟩
    have hy := (heq n).2 hn
    rw [Int.cast_natCast] at hy
    have hround := (sameSide_rounds (neg := neg) (mode := mode) h hq).eq_of_nat (n := n)
      (by rw [hy, mul_div_cancel_right₀ _ (by positivity)])
    rw [hround, hy]
  · exact fun hy => ⟨_, (heq _).1 hy.symm⟩

theorem sameSide_steps_le (hm : m ≠ 0) (h : SameSide (m.log2 + x - p - 1) y (m * 2 ^ x))
    (hq : m.log2 + x - p ≤ q) : roundAt mode neg m x q ≤ 2 ^ (p + 1) := by
  have hpos : (0 : ℝ) < 2 ^ q := by positivity
  refine (sameSide_rounds h hq).ge ?_
  rw [div_le_iff₀ hpos]
  calc y ≤ 2 ^ (m.log2 + x + 1) := (sameSide_binade hm h).2.le
    _ ≤ 2 ^ ((p + 1 : ℕ) + q) := zpow_le_zpow_right₀ one_le_two (by push_cast; omega)
    _ = _ := by rw [zpow_add₀ two_ne_zero, zpow_natCast]; norm_cast

theorem sameSide_le_steps (hm : m ≠ 0) (h : SameSide (m.log2 + x - p - 1) y (m * 2 ^ x))
    (hq : q = m.log2 + x - p) : 2 ^ p ≤ roundAt mode neg m x q := by
  have hpos : (0 : ℝ) < 2 ^ q := by positivity
  refine (sameSide_rounds h hq.ge).le ?_
  rw [le_div_iff₀ hpos]
  calc ((2 ^ p : ℕ) : ℝ) * 2 ^ q = 2 ^ ((p : Int) + q) := by
        rw [zpow_add₀ two_ne_zero, zpow_natCast]; norm_cast
    _ = 2 ^ (m.log2 + x) := by rw [hq]; congr 1; ring
    _ ≤ y := (sameSide_binade hm h).1

/-! ## Overflow (R71, R168) -/

theorem overflow_eq (hmode : mode ≤ 4) :
    f.overflow mode neg sat =
      if sat = false ∧ (mode = 0 ∨ mode = 4 ∨ mode = 2 ∧ neg = false ∨ mode = 3 ∧ neg = true) then
        if f.ieee then f.signed neg f.inf else f.nan
      else f.signed neg f.maxFin := by
  unfold FFmt.overflow
  interval_cases mode <;> cases sat <;> cases neg <;> rfl

/-- R71: what an overflow delivers for a number with a sign. -/
theorem overflow_delivers (hf : f.Proper) (hmode : mode ≤ 4) (hy : 0 < y) :
    let infinite := sat = false ∧
      (mode = 0 ∨ mode = 4 ∨ (mode = 2 ∧ 0 < sgn neg * y) ∨ (mode = 3 ∧ sgn neg * y < 0))
    (infinite → f.read (f.overflow mode neg sat) =
      if f.ieee then .inf (decide (sgn neg * y < 0)) else .nan false) ∧
    (¬infinite → Stands (f.read (f.overflow mode neg sat))
      (if sgn neg * y < 0 then -f.amount f.maxFin else f.amount f.maxFin)) := by
  have hneg : decide (sgn neg * y < 0) = neg := by simp [sgn_mul_neg_iff hy]
  have hbig : (if sgn neg * y < 0 then -f.amount f.maxFin else f.amount f.maxFin) =
      sgn neg * f.amount f.maxFin := by
    simp only [sgn_mul_neg_iff hy]
    cases neg <;> simp [sgn]
  rw [hneg, hbig, overflow_eq hmode]
  simp only [sgn_mul_neg_iff hy, sgn_mul_pos_iff hy]
  refine ⟨fun h => ?_, fun h => ?_⟩
  · rw [if_pos h]
    cases hi : f.ieee
    · exact read_nan hi
    · exact read_infinite hi neg
  · rw [if_neg h]
    exact stands_finite hf neg le_rfl

theorem stands_maxFin (hf : f.Proper) : Stands (f.read f.maxFin) (f.amount f.maxFin) := by
  simpa [sgn, FFmt.signed] using stands_finite hf false (n := f.maxFin) le_rfl

/-! ## Tininess (R72) -/

theorem tiny_iff (hm : m ≠ 0) (h : SameSide (m.log2 + x - p - 1) y (m * 2 ^ x)) (emin : Int) :
    (decide (m.log2 + x < emin) && (decide ((m.log2 : Int) + x + 1 ≠ emin) ||
        decide (roundAt mode neg m x (m.log2 + x - p) < 2 ^ (p + 1)))) = true ↔
      roundAt mode neg m x (m.log2 + x - p) * (2 : ℝ) ^ (m.log2 + x - p : Int) < 2 ^ emin := by
  have hlow := sameSide_le_steps (mode := mode) (neg := neg) hm h rfl
  have hhigh := sameSide_steps_le (mode := mode) (neg := neg) hm h le_rfl
  generalize roundAt mode neg m x (m.log2 + x - p) = r at *
  generalize (m.log2 : Int) + x = top at *
  have hpos : (0 : ℝ) < 2 ^ (top - p) := by positivity
  have hsplit : ∀ k : ℕ, (2 : ℝ) ^ (top - p + k) = (2 ^ k : ℕ) * 2 ^ (top - p) := fun k => by
    rw [zpow_add₀ two_ne_zero, zpow_natCast, mul_comm]
    norm_cast
  have hleast : (2 : ℝ) ^ top ≤ r * 2 ^ (top - p) := by
    rw [show top = top - p + p by ring, hsplit, sub_add_cancel]
    gcongr
  have hmost : r * (2 : ℝ) ^ (top - p) ≤ 2 ^ (top + 1) := by
    rw [show top + 1 = top - p + (p + 1 : ℕ) by push_cast; ring, hsplit]
    gcongr
  simp only [Bool.and_eq_true, Bool.or_eq_true, decide_eq_true_eq]
  rcases lt_trichotomy (top + 1) emin with hlt | rfl | hgt
  · refine iff_of_true ⟨by omega, .inl hlt.ne⟩ (hmost.trans_lt ?_)
    exact zpow_lt_zpow_right₀ one_lt_two hlt
  · rw [show top + 1 = top - p + (p + 1 : ℕ) by push_cast; ring, hsplit, mul_lt_mul_iff_left₀ hpos,
      Nat.cast_lt]
    exact ⟨fun h => h.2.resolve_left fun e => e (by push_cast; ring), fun h => ⟨by omega, .inr h⟩⟩
  · refine iff_of_false (fun h => by omega) (not_lt.2 (le_trans ?_ hleast))
    exact zpow_le_zpow_right₀ one_le_two (by omega)

/-! ## The number delivered -/

/-- R70 to R73: a non-zero number, or one on its side of every number that decides a rounding, is
delivered as the rules say. -/
theorem delivers_round (hf : f.Proper) (hmode : mode ≤ 4) (hm : m ≠ 0)
    (h : SameSide (m.log2 + x - f.p - 1) y (m * 2 ^ x)) :
    Delivers f mode sat (sgn neg * y) (f.round mode neg m x sat) := by
  obtain ⟨hlow, hhigh⟩ := sameSide_binade hm h
  have hy : 0 < y := lt_of_lt_of_le (by positivity) hlow
  have hneg : decide (sgn neg * y < 0) = neg := by simp [sgn_mul_neg_iff hy]
  have htiny := tiny_iff (mode := mode) (neg := neg) hm h (1 - f.bias)
  have hu := nearest_represents neg hf.frac (low := none) (by simp) hy.le
    (.inr (by rw [← zpow_natCast, ← zpow_add₀ two_ne_zero, add_sub_cancel]; exact hlow))
    (sameSide_steps_le hm h le_rfl) (sameSide_rounds (mode := mode) h le_rfl)
  have hunit : f.unit = 1 - f.bias - f.p := rfl
  unfold FFmt.round
  rw [if_neg hm]
  dsimp only
  generalize hq : max ((m.log2 : Int) + x) (1 - (f.bias : Int)) - f.p = q
  have hqtop : m.log2 + x - f.p ≤ q := by omega
  have hj : q = f.unit + (q - f.unit).toNat := by omega
  have hstep : some f.unit = some q ∨ q = m.log2 + x - f.p := by
    rw [Option.some_inj]
    omega
  have hle : roundAt mode neg m x q ≤ 2 ^ (f.p + 1) := sameSide_steps_le hm h hqtop
  have hv := nearest_represents neg hf.frac (low := some f.unit) (by rintro l ⟨⟩; omega) hy.le
    (hstep.imp_right fun e => by
      rw [e, ← zpow_natCast, ← zpow_add₀ two_ne_zero, add_sub_cancel]
      exact hlow) hle (sameSide_rounds (mode := mode) h hqtop)
  have hexact := sameSide_exact (neg := neg) (mode := mode) h hqtop
  have hamount : f.amount (roundAt mode neg m x q + (q - f.unit).toNat * 2 ^ f.p) =
      roundAt mode neg m x q * 2 ^ q := by
    rw [amount_steps ?_ hle, ← hj]
    refine hstep.imp (fun e => ?_) (sameSide_le_steps hm h)
    rw [Option.some_inj] at e
    omega
  have habs : ∀ z : ℝ, 0 ≤ z → |sgn neg * z| = z := fun z hz => by rw [abs_sgn_mul, abs_of_nonneg hz]
  refine ⟨_, _, f.amount f.maxFin, ?_, hv, hu, ?_, ?_⟩
  · exact stands_maxFin hf
  all_goals rw [habs _ (by positivity), ← hamount]
  · rw [(amount_strictMono f).lt_iff_lt]
    intro hover
    rw [if_pos hover]
    exact ⟨rfl, overflow_delivers hf hmode hy⟩
  · rw [(amount_strictMono f).le_iff_le]
    intro hfits
    obtain ⟨n, i, hread, -, -, -⟩ := read_finite hf neg hfits
    rw [if_neg (not_lt.2 hfits), hneg, hamount, habs _ (by positivity)]
    refine ⟨⟨n, _, hread⟩, hamount ▸ stands_finite hf neg hfits, ?_, ?_⟩
    · rw [sgn_mul_cancel]
      exact fun hv => if_pos (hexact.2 hv)
    · rw [ne_eq, sgn_mul_cancel, ← hexact]
      intro hv
      simp only [if_neg hv, htiny]

/-- R70: a non-zero number is rounded once. -/
theorem round_delivers {v : ℝ} (hf : f.Proper) (hmode : mode ≤ 4) (hm : m ≠ 0)
    (hv : Stands (.fin neg m x) v) : Delivers f mode sat v (f.round mode neg m x sat) := by
  rw [stands_fin.1 hv]
  exact delivers_round hf hmode hm (SameSide.refl _ _)

/-- R70: an integer times a power of two is rounded once. -/
theorem roundInt_delivers {zneg : Bool} {n : ℤ} (hf : f.Proper) (hmode : mode ≤ 4) (hn : n ≠ 0) :
    Delivers f mode false (n * 2 ^ x) (f.roundInt mode zneg n x) := by
  rw [FFmt.roundInt, if_neg hn]
  refine round_delivers hf hmode (Int.natAbs_ne_zero.2 hn) (stands_fin.2 ?_)
  rw [← mul_assoc, Nat.cast_natAbs]
  rcases hn.lt_or_gt with hlt | hgt
  · rw [abs_of_neg hlt]
    simp [sgn, hlt]
  · rw [abs_of_pos hgt]
    simp [sgn, hgt.le]

/-- A number of the format is delivered as it is, and raises nothing. -/
theorem delivers_of_represents {v : ℝ} {r : Fr} (hf : f.Proper) (h : Delivers f mode sat v r)
    (hv : Represents f.p (some f.unit) v) (hbig : |v| ≤ f.amount f.maxFin) :
    (∃ m e, f.read r.bits = .fin (decide (v < 0)) m e) ∧ Stands (f.read r.bits) v ∧ r.fl = 0 := by
  obtain ⟨w, u, big, hstands, hnear, -, -, hfits⟩ := h
  obtain rfl : w = v := nearest_mem hnear hv
  rw [stands_unique hstands (stands_maxFin hf)] at hfits
  obtain ⟨hread, hdelivered, hnone, -⟩ := hfits hbig
  exact ⟨hread, hdelivered, hnone rfl⟩

end Sys2Proof.Machine
end

section
/-!
PROOFS. Quotients and square roots (R77, R78): the digits that they are computed to, with a sticky last
bit, lie on the same side as the exact value of every number that decides a rounding.
-/

namespace Sys2Proof.Machine

open Sys2Proof.Claim

variable {f : FFmt} {mode m n : Nat} {neg sat : Bool} {x y t : Int} {z v w : ℝ}

/-! ## A sticky last bit -/

theorem sameSide_sticky {q s : Nat} (h0 : 0 ≤ z) (hq : ⌊z⌋₊ = q) (hs : s = if z = q then 0 else 1) :
    SameSide t (z * 2 ^ t) ((2 * q + s : ℕ) * 2 ^ (t - 1)) := by
  obtain ⟨hle, hlt⟩ := (Nat.floor_eq_iff h0).1 hq
  intro n
  have hpos : (0 : ℝ) < 2 ^ t := by positivity
  have hhalf : ((2 * q + s : ℕ) : ℝ) * 2 ^ (t - 1) = (q + s / 2) * 2 ^ t := by
    rw [zpow_sub_one₀ two_ne_zero]
    push_cast
    ring
  rw [hhalf, mul_le_mul_iff_left₀ hpos, mul_le_mul_iff_left₀ hpos, mul_le_mul_iff_left₀ hpos,
    mul_le_mul_iff_left₀ hpos]
  have hbelow : ∀ a : ℝ, q ≤ a → a < q + 1 → ((n : ℝ) ≤ a ↔ n ≤ q) := fun a h1 h2 =>
    ⟨fun h => Int.lt_add_one_iff.1 (by exact_mod_cast h.trans_lt h2),
      fun h => le_trans (by exact_mod_cast h) h1⟩
  split at hs
  · next e =>
    subst hs
    rw [e]
    simp
  · next e =>
    subst hs
    have hgt : (q : ℝ) < z := lt_of_le_of_ne hle (Ne.symm e)
    have habove : ∀ a : ℝ, q < a → a < q + 1 → (a ≤ n ↔ (q : ℤ) < n) := fun a h1 h2 =>
      ⟨fun h => by exact_mod_cast h1.trans_le h,
        fun h => h2.le.trans (by exact_mod_cast Int.add_one_le_iff.2 h)⟩
    exact ⟨(hbelow z hle hlt).trans (hbelow _ (by norm_num) (by norm_num)).symm,
      (habove z hgt hlt).trans (habove _ (by norm_num) (by norm_num)).symm⟩

/-- R70: digits with a sticky last bit, two more than the format has, are rounded as the exact number
is. -/
theorem sticky_delivers {q s : Nat} (hf : f.Proper) (hmode : mode ≤ 4) (h0 : 0 ≤ z) (hq : ⌊z⌋₊ = q)
    (hlarge : 2 ^ (f.p + 1) ≤ q) (hs : s = if z = q then 0 else 1) (hv : v = z * 2 ^ t) :
    Delivers f mode sat (sgn neg * v) (f.round mode neg (2 * q + s) (t - 1) sat) := by
  have hm : 2 ^ (f.p + 2) ≤ 2 * q + s := by
    rw [Nat.pow_succ]
    omega
  have hne : 2 * q + s ≠ 0 := by have := Nat.two_pow_pos (f.p + 2); omega
  have hbits : f.p + 2 ≤ (2 * q + s).log2 := (Nat.le_log2 hne).2 hm
  rw [hv]
  exact delivers_round hf hmode hne ((sameSide_sticky h0 hq hs).mono (by omega))

/-! ## Quotients -/

theorem quotient_delivers (hf : f.Proper) (hmode : mode ≤ 4) (hm : m ≠ 0) (hn : n ≠ 0) :
    Delivers f mode sat (sgn neg * (m * 2 ^ x / (n * 2 ^ y)))
      (f.round mode neg (quotient f.p m x n y).1 (quotient f.p m x n y).2 sat) := by
  have hn' : (n : ℝ) ≠ 0 := Nat.cast_ne_zero.2 hn
  generalize hk : f.p + 4 + n.log2 = k
  have hz : ((m * 2 ^ k : ℕ) : ℝ) / n = m * 2 ^ k / n := by push_cast; rfl
  unfold quotient
  rw [hk]
  refine sticky_delivers (z := (m * 2 ^ k : ℕ) / n) (t := x - y - k) hf hmode (by positivity)
    (Nat.floor_div_eq_div _ _) ?_ ?_ ?_
  · rw [Nat.le_div_iff_mul_le (Nat.pos_of_ne_zero hn)]
    calc 2 ^ (f.p + 1) * n ≤ 2 ^ (f.p + 1) * 2 ^ (n.log2 + 1) :=
          Nat.mul_le_mul_left _ Nat.lt_log2_self.le
      _ = 2 ^ (f.p + 1 + (n.log2 + 1)) := (Nat.pow_add _ _ _).symm
      _ ≤ 2 ^ k := Nat.pow_le_pow_right two_pos (by omega)
      _ ≤ m * 2 ^ k := Nat.le_mul_of_pos_left _ (Nat.pos_of_ne_zero hm)
  · refine if_congr ?_ rfl rfl
    rw [← Nat.dvd_iff_mod_eq_zero, div_eq_iff hn']
    exact ⟨fun h => by exact_mod_cast (Nat.div_mul_cancel h).symm,
      fun h => ⟨_, (by exact_mod_cast h : m * 2 ^ k = _ * n).trans (Nat.mul_comm _ _)⟩⟩
  · rw [hz, zpow_sub₀ two_ne_zero, zpow_sub₀ two_ne_zero, zpow_natCast]
    field_simp

/-! ## Square roots -/

theorem isqrtGo_eq (n : Nat) : ∀ k r : Nat, r * r ≤ n → n < (r + 2 ^ k) * (r + 2 ^ k) →
    isqrtGo n k r = n.sqrt
  | 0, r, hle, hlt => Nat.eq_sqrt.2 ⟨hle, hlt⟩
  | k + 1, r, hle, hlt => by
    rw [isqrtGo]
    split
    · next h =>
      refine isqrtGo_eq n k _ h ?_
      rwa [show r + 2 ^ k + 2 ^ k = r + 2 ^ (k + 1) by ring]
    · next h => exact isqrtGo_eq n k r hle (not_le.1 h)

theorem isqrt_eq (n : Nat) : isqrt n = n.sqrt := by
  refine isqrtGo_eq n _ 0 (Nat.zero_le _) ?_
  rw [Nat.zero_add, ← Nat.pow_add]
  exact Nat.lt_log2_self.trans_le (Nat.pow_le_pow_right two_pos (by omega))

theorem floor_sqrt (hw : 0 ≤ w) : ⌊√w⌋₊ = ⌊w⌋₊.sqrt :=
  eq_of_forall_le_iff fun c => by
    rw [Nat.le_floor_iff (Real.sqrt_nonneg w), Nat.le_sqrt, Nat.le_floor_iff hw,
      Real.le_sqrt (Nat.cast_nonneg c) hw, Nat.cast_mul, sq]

/-- A number with an even exponent. -/
theorem even_exponent (m : Nat) (x : Int) :
    (m : ℝ) * 2 ^ x = (if x % 2 = 0 then m else 2 * m : ℕ) *
      (2 ^ ((if x % 2 = 0 then x else x - 1) / 2)) ^ 2 := by
  rw [← zpow_natCast, ← zpow_mul]
  split
  · next h => rw [show x / 2 * (2 : ℕ) = x by push_cast; omega]
  · next h =>
    rw [show (x - 1) / 2 * (2 : ℕ) = x - 1 by push_cast; omega, zpow_sub_one₀ two_ne_zero]
    push_cast
    ring

theorem sqrt_even_exponent (m : Nat) (e : Int) : √(m * (2 ^ e) ^ 2) = √m * 2 ^ e := by
  rw [Real.sqrt_mul (Nat.cast_nonneg m), Real.sqrt_sq (by positivity)]

theorem four_pow (k : ℕ) : (4 : ℝ) ^ k = (2 ^ k) ^ 2 := by
  rw [← pow_mul, mul_comm, pow_mul]
  norm_num

theorem squareRoot_delivers (hf : f.Proper) (hmode : mode ≤ 4) (hm : m ≠ 0) :
    Delivers f mode sat (sgn false * √(m * 2 ^ x))
      (f.round mode false (squareRoot f.p m x).1 (squareRoot f.p m x).2 sat) := by
  unfold squareRoot
  dsimp only
  rw [even_exponent, isqrt_eq]
  have hm0 : (if x % 2 = 0 then m else 2 * m) ≠ 0 := by split <;> omega
  generalize (if x % 2 = 0 then m else 2 * m) = m0 at *
  generalize (if x % 2 = 0 then x else x - 1) / 2 = e
  generalize hk : f.p + 4 = k
  rw [sqrt_even_exponent]
  refine sticky_delivers (z := √(m0 * 4 ^ k : ℕ)) (t := e - k) hf hmode (Real.sqrt_nonneg _)
    ((floor_sqrt (Nat.cast_nonneg _)).trans (by rw [Nat.floor_natCast])) ?_ ?_ ?_
  · rw [Nat.le_sqrt, ← Nat.mul_pow]
    calc 4 ^ (f.p + 1) ≤ 4 ^ k := Nat.pow_le_pow_right (by omega) (by omega)
      _ ≤ m0 * 4 ^ k := Nat.le_mul_of_pos_left _ (Nat.pos_of_ne_zero hm0)
  · refine if_congr ?_ rfl rfl
    rw [Real.sqrt_eq_iff_mul_self_eq (Nat.cast_nonneg _) (Nat.cast_nonneg _)]
    exact_mod_cast eq_comm
  · push_cast
    rw [four_pow, Real.sqrt_mul (Nat.cast_nonneg _), Real.sqrt_sq (by positivity), zpow_sub₀ two_ne_zero,
      zpow_natCast]
    field_simp

/-- R78: what `FFmt.rsq` delivers of a positive number. -/
theorem rsq_delivers {a : Nat} (hf : f.Proper) (hm : m ≠ 0) (ha : f.read a = .fin false m x) :
    Delivers f 0 false (sgn false * (1 / √(m * 2 ^ x))) (f.rsq a) := by
  unfold FFmt.rsq
  rw [ha]
  dsimp only
  rw [if_neg hm, if_neg Bool.false_ne_true, even_exponent, isqrt_eq]
  have hm0 : (if x % 2 = 0 then m else 2 * m) ≠ 0 := by split <;> omega
  generalize (if x % 2 = 0 then m else 2 * m) = m0 at *
  generalize (if x % 2 = 0 then x else x - 1) / 2 = e
  generalize hk : f.p + 4 + m0.log2 = k
  have hpos : (0 : ℝ) < m0 := Nat.cast_pos.2 (Nat.pos_of_ne_zero hm0)
  rw [sqrt_even_exponent]
  refine sticky_delivers (z := √((4 ^ k : ℕ) / m0)) (t := -e - k) hf (Nat.zero_le 4)
    (Real.sqrt_nonneg _) ((floor_sqrt (by positivity)).trans (by rw [Nat.floor_div_eq_div])) ?_ ?_ ?_
  · rw [Nat.le_sqrt, ← Nat.mul_pow, Nat.le_div_iff_mul_le (Nat.pos_of_ne_zero hm0)]
    calc (2 * 2) ^ (f.p + 1) * m0 ≤ (2 * 2) ^ (f.p + 1) * 4 ^ (m0.log2 + 1) :=
          Nat.mul_le_mul_left _ (Nat.lt_log2_self.le.trans (Nat.pow_le_pow_left (by omega) _))
      _ = 4 ^ (f.p + 1 + (m0.log2 + 1)) := (Nat.pow_add _ _ _).symm
      _ ≤ 4 ^ k := Nat.pow_le_pow_right (by omega) (by omega)
  · refine if_congr ?_ rfl rfl
    rw [Real.sqrt_eq_iff_mul_self_eq (by positivity) (Nat.cast_nonneg _), eq_comm, div_eq_iff hpos.ne']
    exact_mod_cast Iff.rfl
  · rw [Real.sqrt_div (Nat.cast_nonneg _), Nat.cast_pow, Nat.cast_ofNat, four_pow,
      Real.sqrt_sq (by positivity), zpow_sub₀ two_ne_zero, zpow_neg, zpow_natCast]
    have hroot : (0 : ℝ) < √m0 := Real.sqrt_pos.2 hpos
    field_simp

end Sys2Proof.Machine
end

section
/-!
PROOFS. Sums, products, fused operations, quotients and square roots (R71 to R73, R76, R77, R159, R181).
-/

namespace Sys2Proof.Machine

open Sys2Proof.Claim

/-- The formats with infinities (R63). -/
theorem proper_of_ieee {f : FFmt} (h : f ∈ [F64, F32, FH, FBF]) : f.Proper ∧ f.ieee = true := by
  simp only [List.mem_cons, List.not_mem_nil, or_false] at h
  rcases h with rfl | rfl | rfl | rfl <;> exact ⟨⟨by decide, by decide⟩, rfl⟩

variable {f : FFmt} {mode : Nat} {a b d : Nat} {A B D p : Fp} {v w : ℝ}

/-! ## Sums (R76) -/

theorem Fp.neg_of_inverse {y : Fp} (h : (∃ s, A = .nan s ∧ y = .nan s) ∨
    (∃ s, A = .inf s ∧ y = .inf (!s)) ∨ ∃ s m e, A = .fin s m e ∧ y = .fin (!s) m e) : y = A.neg := by
  rcases h with ⟨s, rfl, rfl⟩ | ⟨s, rfl, rfl⟩ | ⟨s, m, e, rfl, rfl⟩ <;> rfl

theorem scaled_mul (s : Bool) (m : Nat) {x u : Int} (h : u ≤ x) :
    (scaled s m x u : ℝ) * 2 ^ u = sgn s * (m * 2 ^ x) := by
  rw [two_zpow_split h]
  cases s <;> simp [scaled, sgn] <;> ring

theorem flags_or (s t : Bool) :
    ((if s then flNV else 0) ||| (if t then flNV else 0)) = if s || t then flNV else 0 := by
  cases s <;> cases t <;> decide

theorem flags_or_none (fl : BitVec 7) : fl ||| 0 = fl := BitVec.or_zero

theorem none_or_flags (fl : BitVec 7) : 0 ||| fl = fl := BitVec.zero_or

theorem sum_nan {fl : BitVec 7} (h : A.isNan = true ∨ B.isNan = true) :
    f.sum mode A B fl = f.nanR (fl ||| if A.isSig || B.isSig then flNV else 0) := by
  cases A with
  | nan s => cases B <;> simp [FFmt.sum, Fp.isSig]
  | inf s => cases B <;> simp_all [FFmt.sum, Fp.isSig, Fp.isNan]
  | fin s m x => cases B <;> simp_all [FFmt.sum, Fp.isSig, Fp.isNan]

/-- R73, R76, R77: the sum of two readings. -/
theorem sum_sums (hf : f.Proper) (hi : f.ieee = true) (hmode : mode ≤ 4) (A B : Fp) :
    Sums f mode A B (f.sum mode A B 0) := by
  refine ⟨fun h => ?_, ?_, ?_, ?_⟩
  · rw [sum_nan h, none_or_flags]
    exact ⟨rfl, rfl⟩
  · rintro s t rfl rfl
    simp only [FFmt.sum]
    split
    · exact ⟨read_infinite hi s, rfl⟩
    · exact ⟨rfl, rfl⟩
  · rintro s t m e (⟨rfl, rfl⟩ | ⟨rfl, rfl⟩) <;> exact ⟨read_infinite hi s, rfl⟩
  · intro v w hv hw
    cases A with
    | nan _ => exact hv.elim
    | inf _ => exact hv.elim
    | fin s m x =>
    cases B with
    | nan _ => exact hw.elim
    | inf _ => exact hw.elim
    | fin t n y =>
    rw [stands_fin] at hv hw
    simp only [FFmt.sum, flags_or_none]
    have hsum : v + w = (scaled s m x (min x y) + scaled t n y (min x y) : ℤ) * 2 ^ min x y := by
      rw [Int.cast_add, add_mul, scaled_mul s m (min_le_left x y), scaled_mul t n (min_le_right x y), hv, hw]
    generalize hk : scaled s m x (min x y) + scaled t n y (min x y) = k at hsum
    have hzero : v + w = 0 ↔ k = 0 := by
      rw [hsum, mul_eq_zero, or_iff_left (by positivity), Int.cast_eq_zero]
    refine ⟨fun h => ?_, fun h => ?_⟩
    · rw [hsum]
      exact roundInt_delivers hf hmode (mt hzero.2 h)
    · rw [hzero.1 h]
      refine ⟨rfl, ?_, fun h => ?_⟩
      · rintro ⟨d, e, hd, he⟩
        cases hd
        cases he
        rfl
      · have hnot : (s && t && decide (m = 0) && decide (n = 0)) = false := by
          by_contra hall
          simp only [Bool.not_eq_false, Bool.and_eq_true, decide_eq_true_eq] at hall
          obtain ⟨⟨⟨rfl, rfl⟩, rfl⟩, rfl⟩ := hall
          exact h ⟨x, y, rfl, rfl⟩
        rw [hnot]
        rfl

/-! ## Products (R73) -/

theorem mul_of_multiplies (h : Multiplies A B p) : A.mul B = (p, 0) := by
  rcases h with ⟨s, m, x, t, n, y, rfl, rfl, rfl⟩ | ⟨s, t, rfl, rfl, rfl⟩ |
    ⟨s, t, m, e, hm, ⟨rfl, rfl⟩ | ⟨rfl, rfl⟩, rfl⟩
  · rfl
  · rfl
  · exact if_neg hm
  · refine (if_neg hm).trans ?_
    rw [bne_comm]

theorem mul_of_improper (h : Improper A B) : A.mul B = (.nan false, flNV) := by
  obtain ⟨s, t, e, ⟨rfl, rfl⟩ | ⟨rfl, rfl⟩⟩ := h <;> rfl

theorem mul_of_nan (h : A.isNan = true ∨ B.isNan = true) :
    A.mul B = (.nan false, if A.isSig || B.isSig then flNV else 0) := by
  cases A with
  | nan s => cases B <;> simp [Fp.mul, Fp.isSig]
  | inf s => cases B <;> simp_all [Fp.mul, Fp.isSig, Fp.isNan]
  | fin s m x => cases B <;> simp_all [Fp.mul, Fp.isSig, Fp.isNan]

/-- Two readings are multiplied, or are zero and an infinity, or hold a NaN. -/
theorem multiplies_or (A B : Fp) :
    (A.isNan = true ∨ B.isNan = true) ∨ Improper A B ∨ ∃ p, Multiplies A B p := by
  cases A with
  | nan s => exact .inl (.inl rfl)
  | inf s =>
    cases B with
    | nan t => exact .inl (.inr rfl)
    | inf t => exact .inr (.inr ⟨_, .inr (.inl ⟨s, t, rfl, rfl, rfl⟩)⟩)
    | fin t n y =>
      by_cases hn : n = 0
      · exact .inr (.inl ⟨s, t, y, .inl ⟨rfl, hn ▸ rfl⟩⟩)
      · exact .inr (.inr ⟨_, .inr (.inr ⟨s, t, n, y, hn, .inl ⟨rfl, rfl⟩, rfl⟩)⟩)
  | fin s m x =>
    cases B with
    | nan t => exact .inl (.inr rfl)
    | inf t =>
      by_cases hm : m = 0
      · exact .inr (.inl ⟨t, s, x, .inr ⟨hm ▸ rfl, rfl⟩⟩)
      · exact .inr (.inr ⟨_, .inr (.inr ⟨t, s, m, x, hm, .inr ⟨rfl, rfl⟩, rfl⟩)⟩)
    | fin t n y => exact .inr (.inr ⟨_, .inl ⟨s, m, x, t, n, y, rfl, rfl, rfl⟩⟩)

theorem product_number (h : Multiplies A B p) : p.isSig = false := by
  rcases h with ⟨s, m, x, t, n, y, rfl, rfl, rfl⟩ | ⟨s, t, rfl, rfl, rfl⟩ |
    ⟨s, t, m, e, hm, -, rfl⟩ <;> rfl

theorem Fp.neg_isSig (A : Fp) : A.neg.isSig = A.isSig := by cases A <;> rfl

/-- R73: a sum with a product, of which it is the negation or not, where a NaN comes out. -/
theorem fused_nan (neg : Bool) :
    let q := A.mul B
    let r := f.sum mode (if neg then q.1.neg else q.1) D q.2
    (Improper A B → NaNs f true r) ∧
      ((A.isNan = true ∨ B.isNan = true) ∨ D.isNan = true → ¬Improper A B →
        NaNs f (A.isSig || B.isSig || D.isSig) r) := by
  have hnan : ∀ fl, f.sum mode (if neg then (Fp.nan false).neg else .nan false) D fl =
      f.nanR (fl ||| if D.isSig then flNV else 0) := by
    intro fl
    have hself : (if neg then (Fp.nan false).neg else .nan false) = Fp.nan false := by cases neg <;> rfl
    rw [hself]
    exact sum_nan (.inl rfl)
  refine ⟨fun h => ?_, fun h himp => ?_⟩
  · rw [mul_of_improper h, hnan]
    exact ⟨rfl, flags_or true D.isSig⟩
  · rcases multiplies_or A B with hab | hab | ⟨p, hp⟩
    · rw [mul_of_nan hab, hnan]
      exact ⟨rfl, flags_or _ _⟩
    · exact absurd hab himp
    · have hD : D.isNan = true := h.resolve_left fun h => by
        rcases hp with ⟨s, m, x, t, n, y, rfl, rfl, -⟩ | ⟨s, t, rfl, rfl, -⟩ |
          ⟨s, t, m, e, -, ⟨rfl, rfl⟩ | ⟨rfl, rfl⟩, -⟩ <;> simp [Fp.isNan] at h
      have hsig : (if neg then p.neg else p).isSig = false := by
        cases neg
        · exact product_number hp
        · exact (Fp.neg_isSig p).trans (product_number hp)
      have hquiet : (A.isSig || B.isSig) = false := by
        rcases hp with ⟨s, m, x, t, n, y, rfl, rfl, -⟩ | ⟨s, t, rfl, rfl, -⟩ |
          ⟨s, t, m, e, -, ⟨rfl, rfl⟩ | ⟨rfl, rfl⟩, -⟩ <;> rfl
      rw [mul_of_multiplies hp, sum_nan (.inr hD), hsig, hquiet, none_or_flags]
      exact ⟨rfl, rfl⟩

/-! ## One operation each (R77) -/

theorem mul_delivers (hf : f.Proper) (hi : f.ieee = true) (hmode : mode ≤ 4) :
    let A := f.read a
    let B := f.read b
    let r := f.mul mode a b
    (A.isNan = true ∨ B.isNan = true → NaNs f (A.isSig || B.isSig) r) ∧ (Improper A B → NaNs f true r) ∧
      ∀ p, Multiplies A B p →
        (∀ s, p = .inf s → Infinite f s 0 r) ∧
        ∀ s m e x, p = .fin s m e → Stands p x →
          (m = 0 → Zero f s r) ∧ (m ≠ 0 → Delivers f mode false x r) := by
  unfold FFmt.mul
  refine ⟨fun h => ?_, fun h => ?_, fun p hp => ?_⟩
  · rw [mul_of_nan h]
    exact ⟨rfl, flags_or_none _⟩
  · rw [mul_of_improper h]
    exact ⟨rfl, rfl⟩
  · rw [mul_of_multiplies hp]
    refine ⟨?_, ?_⟩
    · rintro s rfl
      exact ⟨read_infinite hi s, rfl⟩
    · rintro s m e x rfl hx
      dsimp only [FFmt.deliver]
      rw [flags_or_none]
      refine ⟨?_, fun hm => round_delivers hf hmode hm hx⟩
      rintro rfl
      exact ⟨by cases s <;> rfl, rfl⟩

theorem div_delivers (hf : f.Proper) (hi : f.ieee = true) (hmode : mode ≤ 4) :
    let A := f.read a
    let B := f.read b
    let r := f.div mode a b
    (A.isNan = true ∨ B.isNan = true → NaNs f (A.isSig || B.isSig) r) ∧
      (∀ s t, A = .inf s → B = .inf t → NaNs f true r) ∧
      (∀ s t m e, A = .inf s → B = .fin t m e → Infinite f (s != t) 0 r) ∧
      (∀ s t m e, A = .fin s m e → B = .inf t → Zero f (s != t) r) ∧
      ∀ s m e t n k x y, A = .fin s m e → B = .fin t n k → Stands A x → Stands B y →
        (m = 0 → n = 0 → NaNs f true r) ∧ (m ≠ 0 → n = 0 → Infinite f (s != t) flDZ r) ∧
        (m = 0 → n ≠ 0 → Zero f (s != t) r) ∧ (m ≠ 0 → n ≠ 0 → Delivers f mode false (x / y) r) := by
  unfold FFmt.div
  generalize f.read a = A
  generalize f.read b = B
  refine ⟨fun h => ?_, ?_, ?_, ?_, ?_⟩
  · cases A with
    | nan s => cases B <;> simp [NaNs, FFmt.nanR, Fp.isSig]
    | inf s => cases B <;> simp_all [NaNs, FFmt.nanR, Fp.isSig, Fp.isNan]
    | fin s m x => cases B <;> simp_all [NaNs, FFmt.nanR, Fp.isSig, Fp.isNan]
  · rintro s t rfl rfl
    exact ⟨rfl, rfl⟩
  · rintro s t m e rfl rfl
    exact ⟨read_infinite hi _, rfl⟩
  · rintro s t m e rfl rfl
    exact ⟨rfl, rfl⟩
  · rintro s m e t n k x y rfl rfl hx hy
    dsimp only
    refine ⟨?_, ?_, ?_, ?_⟩
    · rintro rfl rfl
      exact ⟨rfl, rfl⟩
    · rintro hm rfl
      rw [if_pos rfl, if_neg hm]
      exact ⟨read_infinite hi _, rfl⟩
    · rintro rfl hn
      rw [if_neg hn, if_pos rfl]
      exact ⟨rfl, rfl⟩
    · intro hm hn
      have hquot : x / y = sgn (s != t) * (m * 2 ^ e / (n * 2 ^ k)) := by
        rw [stands_fin.1 hx, stands_fin.1 hy, sgn_bne]
        cases t <;> simp only [sgn_true, sgn_false] <;> ring
      rw [if_neg hn, if_neg hm, hquot]
      exact quotient_delivers hf hmode hm hn

theorem sqrt_delivers (hf : f.Proper) (hi : f.ieee = true) (hmode : mode ≤ 4) :
    let A := f.read a
    let r := f.sqrt mode a
    (∀ s, A = .nan s → NaNs f s r) ∧ (A = .inf false → Infinite f false 0 r) ∧
      (A = .inf true → NaNs f true r) ∧
      ∀ s m e x, A = .fin s m e → Stands A x →
        (m = 0 → Zero f s r) ∧ (m ≠ 0 → s = true → NaNs f true r) ∧
        (m ≠ 0 → s = false → Delivers f mode false (Real.sqrt x) r) := by
  unfold FFmt.sqrt
  generalize f.read a = A
  refine ⟨?_, ?_, ?_, ?_⟩
  · rintro s rfl
    exact ⟨rfl, rfl⟩
  · rintro rfl
    exact ⟨read_infinite hi false, rfl⟩
  · rintro rfl
    exact ⟨rfl, rfl⟩
  · rintro s m e x rfl hx
    dsimp only
    refine ⟨?_, ?_, ?_⟩
    · rintro rfl
      exact ⟨rfl, rfl⟩
    · rintro hm rfl
      rw [if_neg hm]
      exact ⟨rfl, rfl⟩
    · rintro hm rfl
      have hroot := squareRoot_delivers (x := e) (sat := false) hf hmode hm
      have hx : x = m * 2 ^ e := by rw [stands_fin.1 hx, sgn, if_neg Bool.false_ne_true, one_mul]
      rw [if_neg hm, if_neg Bool.false_ne_true, hx]
      simpa [sgn] using hroot

/-- R181: the exponent of the term beyond 3000 either way. -/
theorem recon_cases (hmode : mode ≤ 4) (q : Word) (k : Lane) :
    (-3000 ≤ k.toInt → k.toInt ≤ 3000 →
      Sums F64 mode (F64.read d) (.fin (decide (q.toInt < 0)) q.toInt.natAbs k.toInt) (recon mode d q k)) ∧
    (3000 < k.toInt → recon mode d q k = recon mode d q 3000) ∧
    (k.toInt < -3000 → recon mode d q k = recon mode d q (-3000)) := by
  have hsum : ∀ j : Int, max (-3000) (min 3000 k.toInt) = j → recon mode d q k =
      F64.sum mode (F64.read d) (.fin (decide (q.toInt < 0)) q.toInt.natAbs j) 0 := fun j hj => by
    rw [recon, hj]
  refine ⟨fun hlow hhigh => ?_, fun h => ?_, fun h => ?_⟩
  · rw [hsum k.toInt (by omega)]
    exact sum_sums (f := F64) ⟨by decide, by decide⟩ rfl hmode _ _
  · exact hsum 3000 (by omega)
  · exact hsum (-3000) (by omega)

/-- The values and the flags of the operations that R77 names. -/
theorem floatArithmetic : FloatArithmetic := by
  intro f hf mode hmode a b d
  obtain ⟨hp, hi⟩ := proper_of_ieee hf
  have hmode : mode ≤ 4 := by omega
  refine ⟨sum_sums hp hi hmode _ _, ?_, ?_, ?_, ?_, ?_, ?_, ?_⟩
  · intro y hy
    rw [Fp.neg_of_inverse hy]
    exact sum_sums hp hi hmode _ _
  · rintro r rfl
    exact mul_delivers hp hi hmode
  · rintro r (rfl | rfl)
    · exact fused_nan false
    · exact fused_nan true
  · intro p hm
    rw [FFmt.fma, FFmt.fms, mul_of_multiplies hm]
    refine ⟨sum_sums hp hi hmode _ _, fun y hy => ?_⟩
    rw [Fp.neg_of_inverse hy]
    exact sum_sums hp hi hmode _ _
  · rintro r rfl
    exact div_delivers hp hi hmode
  · rintro r rfl
    exact sqrt_delivers hp hi hmode
  · rintro q k rfl
    exact recon_cases hmode q k

end Sys2Proof.Machine
end

section
/-!
PROOFS. The encodings of the formats (R63 to R65), VFMIN and VFMAX (R160), and the special functions at the
operands that R78 singles out.
-/

namespace Sys2Proof.Machine

open Sys2Proof.Claim

/-! ## Encodings -/

theorem FFmt.signed_eq (f : FFmt) (neg : Bool) (n : Nat) :
    f.signed neg n = (if neg then 2 ^ (f.p + f.e) else 0) + n := by
  cases neg
  · exact (Nat.zero_add n).symm
  · rfl

/-- R64: the fields of an encoding and what they make it. -/
theorem read_fields (f : FFmt) (neg : Bool) {E M : Nat} (hE : E < 2 ^ f.e) (hM : M < 2 ^ f.p) :
    f.read ((if neg then 2 ^ (f.p + f.e) else 0) + E * 2 ^ f.p + M) =
      if E = 2 ^ f.e - 1 ∧ f.ieee then
        if M = 0 then .inf neg else .nan (decide (M < 2 ^ (f.p - 1)))
      else if ¬f.ieee ∧ E * 2 ^ f.p + M = f.signBit - 1 then .nan false
      else if E = 0 then .fin neg M f.unit
      else .fin neg (2 ^ f.p + M) (f.unit + E - 1) := by
  have hpos : 0 < 2 ^ f.p := Nat.two_pow_pos _
  have hlt : E * 2 ^ f.p + M < f.signBit := by
    have hmul : (E + 1) * 2 ^ f.p ≤ 2 ^ f.e * 2 ^ f.p := Nat.mul_le_mul_right _ hE
    rw [FFmt.signBit, Nat.pow_add, Nat.mul_comm (2 ^ f.p)]
    rw [Nat.succ_mul] at hmul
    omega
  have hexp : (E * 2 ^ f.p + M) / 2 ^ f.p = E := by
    rw [Nat.mul_comm, Nat.mul_add_div hpos, Nat.div_eq_of_lt hM, Nat.add_zero]
  have hfrac : (E * 2 ^ f.p + M) % 2 ^ f.p = M := by
    rw [Nat.mul_comm, Nat.mul_add_mod, Nat.mod_eq_of_lt hM]
  rw [Nat.add_assoc, ← FFmt.signed_eq, read_signed f neg hlt, hexp, hfrac]

theorem encodings : Encodings := by
  refine ⟨rfl, by decide +kernel, fun f hf neg E M hE hM => ?_⟩
  have hieee : f.ieee = decide (f ≠ FE4) := by
    simp only [List.mem_cons, List.not_mem_nil, or_false] at hf
    rcases hf with rfl | rfl | rfl | rfl | rfl | rfl <;> rfl
  have htop : f = FE4 → (E * 2 ^ f.p + M = f.signBit - 1 ↔ E = 2 ^ f.e - 1 ∧ M = 7) := by
    rintro rfl
    have hp : 2 ^ FE4.p = 8 := rfl
    have he : 2 ^ FE4.e = 16 := rfl
    have hs : FE4.signBit = 128 := rfl
    rw [hp] at hM
    rw [he] at hE
    rw [hp, he, hs]
    omega
  have hone : 1 < 2 ^ f.e := Nat.one_lt_two_pow (by have := (proper_of_mem hf).exp; omega)
  dsimp only
  rw [read_fields f neg hE hM]
  have hfinite : decide (E = 2 ^ f.e - 1) = false ∨ f = FE4 ∧ M ≠ 7 →
      ¬(E = 2 ^ f.e - 1 ∧ f.ieee = true) ∧ ¬(¬f.ieee = true ∧ E * 2 ^ f.p + M = f.signBit - 1) := by
    intro h
    rw [hieee, decide_eq_true_eq, not_not]
    rw [decide_eq_false_iff_not] at h
    exact ⟨fun hE => h.elim (fun h => h hE.1) fun h => hE.2 h.1,
      fun hE => h.elim (fun h => h ((htop hE.1).1 hE.2).1) fun h => h.2 ((htop hE.1).1 hE.2).2⟩
  have hieee' : f ≠ FE4 → f.ieee = true := fun h => by rw [hieee, decide_eq_true h]
  simp only [decide_eq_true_eq]
  refine ⟨?_, ?_, ?_, ?_, ?_, ?_⟩
  · rintro rfl
    obtain ⟨h1, h2⟩ := hfinite (.inl (decide_eq_false (by omega)))
    rw [if_neg h1, if_neg h2, if_pos rfl]
    exact rfl
  · intro h0 h
    obtain ⟨h1, h2⟩ := hfinite h
    rw [if_neg h1, if_neg h2, if_neg h0, stands_fin, sgn, mul_assoc]
    have hexp : f.unit + E - 1 = (E : Int) - f.bias - f.p := by
      rw [FFmt.unit]
      ring
    rw [hexp]
    push_cast
    rfl
  · intro h
    obtain ⟨h1, h2⟩ := hfinite h
    rw [if_neg h1, if_neg h2]
    split
    · next h0 => exact ⟨_, _, rfl, by simp [h0]⟩
    · next h0 => exact ⟨_, _, rfl, by simp [h0]⟩
  · rintro h hne rfl
    rw [if_pos ⟨h, hieee' hne⟩, if_pos rfl]
  · intro h hne h0
    rw [if_pos ⟨h, hieee' hne⟩, if_neg h0]
  · intro h hf h7
    have hi : ¬f.ieee = true := by
      rw [hieee, decide_eq_true_eq, not_not]
      exact hf
    rw [if_neg fun h => hi h.2, if_pos ⟨hi, (htop hf).2 ⟨h, h7⟩⟩]

/-! ## VFMIN and VFMAX (R160) -/

/-- The rank of a reading that is no NaN. -/
def Ranks (v : Fp) (z : EReal) : Prop :=
  (v = .inf true ∧ z = ⊥) ∨ (v = .inf false ∧ z = ⊤) ∨ ∃ u : ℝ, Stands v u ∧ z = (u : EReal)

/-- An encoding is a sign and a magnitude. -/
theorem exists_signed {f : FFmt} {a : Nat} (ha : a < 2 * f.signBit) :
    ∃ neg n, n < f.signBit ∧ a = f.signed neg n := by
  rcases lt_or_ge a f.signBit with h | h
  · exact ⟨false, a, h, rfl⟩
  · exact ⟨true, a - f.signBit, by omega, (Nat.add_sub_cancel' h).symm⟩

/-- The rank of a magnitude. -/
noncomputable def FFmt.rank (f : FFmt) (n : Nat) : EReal := if n < f.inf then (f.amount n : EReal) else ⊤

theorem maxFin_ieee {f : FFmt} (hf : f.Proper) (hi : f.ieee = true) {n : Nat} :
    n ≤ f.maxFin ↔ n < f.inf := by
  have hone : 1 < 2 ^ f.e := Nat.one_lt_two_pow (by have := hf.exp; omega)
  have hpos : 0 < f.inf := Nat.mul_pos (by omega) (Nat.two_pow_pos _)
  rw [FFmt.maxFin, if_pos hi]
  omega

theorem read_above_inf {f : FFmt} (hi : f.ieee = true) (neg : Bool) {n : Nat} (h1 : f.inf < n)
    (h2 : n < f.signBit) : (f.read (f.signed neg n)).isNan = true := by
  have hpos : 0 < 2 ^ f.p := Nat.two_pow_pos _
  have hexp : n / 2 ^ f.p = 2 ^ f.e - 1 := by
    refine le_antisymm (Nat.le_sub_one_of_lt ?_) ((Nat.le_div_iff_mul_le hpos).2 h1.le)
    rw [Nat.div_lt_iff_lt_mul hpos, ← Nat.pow_add, Nat.add_comm]
    exact h2
  have hfrac : n % 2 ^ f.p ≠ 0 := by
    intro h0
    have hn := Nat.mod_add_div n (2 ^ f.p)
    rw [h0, hexp, Nat.zero_add, Nat.mul_comm] at hn
    exact h1.ne hn
  rw [read_signed f neg h2, if_pos ⟨hexp, hi⟩, if_neg hfrac]
  rfl

/-- An encoding that is no NaN has the rank of its magnitude, with its sign. -/
theorem ranks_signed {f : FFmt} (hf : f.Proper) (hi : f.ieee = true) {neg : Bool} {n : Nat} {z : EReal}
    (hn : n < f.signBit) (h : Ranks (f.read (f.signed neg n)) z) :
    n ≤ f.inf ∧ z = if neg then -f.rank n else f.rank n := by
  rcases lt_trichotomy n f.inf with hlt | rfl | hgt
  · refine ⟨hlt.le, ?_⟩
    obtain ⟨r, j, hread, -, -, -⟩ := read_finite hf neg ((maxFin_ieee hf hi).2 hlt)
    have hstands := stands_finite hf neg ((maxFin_ieee hf hi).2 hlt)
    rcases h with ⟨h, -⟩ | ⟨h, -⟩ | ⟨u, hu, rfl⟩
    · rw [hread] at h
      cases h
    · rw [hread] at h
      cases h
    · rw [stands_unique hu hstands, FFmt.rank, if_pos hlt]
      cases neg <;> simp
  · refine ⟨le_rfl, ?_⟩
    rw [read_infinite hi] at h
    rw [FFmt.rank, if_neg (lt_irrefl _)]
    rcases h with ⟨h, rfl⟩ | ⟨h, rfl⟩ | ⟨u, hu, -⟩
    · cases h
      rfl
    · cases h
      rfl
    · exact hu.elim
  · have hnan := read_above_inf hi neg hgt hn
    rcases h with ⟨h, -⟩ | ⟨h, -⟩ | ⟨u, hu, -⟩
    · rw [h] at hnan
      cases hnan
    · rw [h] at hnan
      cases hnan
    · cases hv : f.read (f.signed neg n) with
      | nan s => rw [hv] at hu; exact hu.elim
      | inf s => rw [hv] at hu; exact hu.elim
      | fin s m e => rw [hv] at hnan; cases hnan

theorem rank_lt_iff {f : FFmt} {n m : Nat} (hn : n ≤ f.inf) (hm : m ≤ f.inf) :
    f.rank n < f.rank m ↔ n < m := by
  unfold FFmt.rank
  rcases hn.eq_or_lt with rfl | hn
  · simp [hm]
  · rw [if_pos hn]
    rcases hm.eq_or_lt with rfl | hm
    · simp [hn]
    · rw [if_pos hm, EReal.coe_lt_coe_iff, (amount_strictMono f).lt_iff_lt]

theorem rank_nonneg (f : FFmt) (n : Nat) : 0 ≤ f.rank n := by
  unfold FFmt.rank
  split
  · exact EReal.coe_nonneg.2 (amount_nonneg f n)
  · exact le_top

theorem rank_zero {f : FFmt} (hf : f.Proper) : f.rank 0 = 0 := by
  have hone : 1 < 2 ^ f.e := Nat.one_lt_two_pow (by have := hf.exp; omega)
  have hpos : 0 < f.inf := Nat.mul_pos (by omega) (Nat.two_pow_pos _)
  rw [FFmt.rank, if_pos hpos, amount_zero, EReal.coe_zero]

theorem rank_eq_zero_iff {f : FFmt} (hf : f.Proper) {n : Nat} (hn : n ≤ f.inf) : f.rank n = 0 ↔ n = 0 := by
  rw [← rank_zero hf, ← Nat.le_zero, ← not_lt (a := 0), ← rank_lt_iff (Nat.zero_le _) hn, rank_zero hf,
    (rank_nonneg f n).lt_iff_ne', not_ne_iff]

theorem key_signed (f : FFmt) (neg : Bool) {n : Nat} (hn : n < f.signBit) :
    f.key (f.signed neg n) = if neg then -(n : Int) - 1 else n := by
  obtain ⟨hneg, -, -, hmag⟩ := signed_fields f neg hn
  rw [FFmt.key, hmag]
  cases neg
  · rw [if_neg (of_decide_eq_false hneg)]
    rfl
  · rw [if_pos (of_decide_eq_true hneg)]
    rfl

/-- The order of the keys is the order of the numbers, with -0 below +0. -/
theorem key_lt_iff {f : FFmt} (hf : f.Proper) (hi : f.ieee = true) {a b : Nat} (ha : a < 2 * f.signBit)
    (hb : b < 2 * f.signBit) {x y : EReal} (hx : Ranks (f.read a) x) (hy : Ranks (f.read b) y) :
    f.key a < f.key b ↔ x < y ∨ (x = 0 ∧ y = 0 ∧ a = f.signBit ∧ b = 0) := by
  obtain ⟨s, n, hn, rfl⟩ := exists_signed ha
  obtain ⟨t, m, hm, rfl⟩ := exists_signed hb
  obtain ⟨hninf, rfl⟩ := ranks_signed hf hi hn hx
  obtain ⟨hminf, rfl⟩ := ranks_signed hf hi hm hy
  have hnpos := rank_nonneg f n
  have hmpos := rank_nonneg f m
  rw [key_signed f s hn, key_signed f t hm]
  cases s <;> cases t <;> simp only [FFmt.signed, if_true, if_false, Bool.false_eq_true]
  · rw [or_iff_left (fun h => by omega), rank_lt_iff hninf hminf]
    exact Int.ofNat_lt
  · refine iff_of_false (by omega) (not_or.2 ⟨not_lt.2 ?_, fun h => by omega⟩)
    exact (EReal.neg_le_zero.2 hmpos).trans hnpos
  · refine iff_of_true (by omega) ?_
    rcases hnpos.eq_or_lt with h0 | h0
    · obtain rfl := (rank_eq_zero_iff hf hninf).1 h0.symm
      rw [rank_zero hf, neg_zero]
      refine hmpos.lt_or_eq.imp_right fun h => ⟨rfl, h.symm, Nat.add_zero _, ?_⟩
      exact (rank_eq_zero_iff hf hminf).1 h.symm
    · exact .inl ((EReal.neg_lt_zero.2 h0).trans_le hmpos)
  · rw [or_iff_left (fun h => by omega), EReal.neg_lt_neg_iff, rank_lt_iff hminf hninf]
    omega

/-- R160: VFMIN and VFMAX deliver one of their operands. -/
theorem pick_delivers {f : FFmt} (hf : f.Proper) (hi : f.ieee = true) {a b : Nat}
    (ha : a < 2 * f.signBit) (hb : b < 2 * f.signBit) :
    let A := f.read a
    let B := f.read b
    let least := f.pick false a b
    let most := f.pick true a b
    let fl := if A.isSig || B.isSig then flNV else 0
    least.fl = fl ∧ most.fl = fl ∧
    (A.isNan = true → B.isNan = true → least.bits = f.nan ∧ most.bits = f.nan) ∧
    (A.isNan = true → B.isNan = false → least.bits = b ∧ most.bits = b) ∧
    (A.isNan = false → B.isNan = true → least.bits = a ∧ most.bits = a) ∧
    ∀ x y : EReal,
      let below := x < y ∨ (x = 0 ∧ y = 0 ∧ a = f.signBit ∧ b = 0)
      Ranks A x → Ranks B y → (below → least.bits = a ∧ most.bits = b) ∧
        (¬below → least.bits = b ∧ most.bits = a) := by
  have hfl : ∀ big, (f.pick big a b).fl =
      if (f.read a).isSig || (f.read b).isSig then flNV else 0 := fun big => by
    cases hA : (f.read a).isNan <;> cases hB : (f.read b).isNan <;> simp [FFmt.pick, hA, hB, FFmt.nanR]
  refine ⟨hfl _, hfl _, fun hA hB => ?_, fun hA hB => ?_, fun hA hB => ?_, fun x y hx hy => ?_⟩
  · simp [FFmt.pick, hA, hB, FFmt.nanR]
  · simp [FFmt.pick, hA, hB]
  · simp [FFmt.pick, hA, hB]
  · have number : ∀ {v : Fp} {z : EReal}, Ranks v z → v.isNan = false := by
      rintro v z (⟨rfl, -⟩ | ⟨rfl, -⟩ | ⟨u, hu, -⟩)
      · rfl
      · rfl
      · cases v with
        | nan s => exact hu.elim
        | inf s => rfl
        | fin s m e => rfl
    have hpick : ∀ big, (f.pick big a b).bits = if decide (f.key a < f.key b) == big then b else a :=
      fun big => by simp [FFmt.pick, number hx, number hy]
    rw [← key_lt_iff hf hi ha hb hx hy, hpick, hpick]
    exact ⟨fun h => by simp [h], fun h => by simp [h]⟩

end Sys2Proof.Machine
end

section
/-!
PROOFS. The special functions at the operands that R78 singles out, and where their results are exact.
-/

namespace Sys2Proof.Machine

open Sys2Proof.Claim

/-! ## Finite readings -/

theorem read_fin_signed {f : FFmt} (hf : f.Proper) (hi : f.ieee = true) {a m : Nat} {s : Bool} {e : Int}
    (ha : a < 2 * f.signBit) (h : f.read a = .fin s m e) :
    m < 2 ^ (f.p + 1) ∧ ∃ j : ℕ, e = f.unit + j ∧ m + j * 2 ^ f.p ≤ f.maxFin ∧
      a = f.signed s (m + j * 2 ^ f.p) := by
  obtain ⟨neg, n, hn, rfl⟩ := exists_signed ha
  have hfin : n ≤ f.maxFin := by
    rw [maxFin_ieee hf hi]
    rcases lt_trichotomy n f.inf with hlt | rfl | hgt
    · exact hlt
    · rw [read_infinite hi] at h
      cases h
    · have hnan := read_above_inf hi neg hgt hn
      rw [h] at hnan
      cases hnan
  obtain ⟨r, j, hread, rfl, -, hr⟩ := read_finite hf neg hfin
  rw [hread] at h
  cases h
  exact ⟨hr, j, rfl, hfin, rfl⟩

theorem F32_proper : F32.Proper := ⟨by decide, by decide⟩

/-- Every number up to the highest power of two of the format is below its largest finite one. -/
theorem le_maxFin_of_le {f : FFmt} (h : 2 * f.bias * 2 ^ f.p ≤ f.maxFin) (hb : 0 < f.bias) {v : ℝ}
    (hv : v ≤ 2 ^ f.bias) : v ≤ f.amount f.maxFin := by
  have hsteps := amount_steps (f := f) (r := 2 ^ f.p) (j := 2 * f.bias - 1) (.inr le_rfl)
    (Nat.pow_le_pow_right two_pos (Nat.le_succ _))
  have hcode : 2 ^ f.p + (2 * f.bias - 1) * 2 ^ f.p = 2 * f.bias * 2 ^ f.p := by
    rw [Nat.add_comm, ← Nat.succ_mul]
    congr 1
    omega
  have hpow : ((2 ^ f.p : ℕ) : ℝ) * 2 ^ (f.unit + (2 * f.bias - 1 : ℕ)) = 2 ^ f.bias := by
    rw [Nat.cast_pow, Nat.cast_ofNat, ← zpow_natCast, ← zpow_natCast, ← zpow_add₀ two_ne_zero, FFmt.unit]
    congr 1
    omega
  rw [hcode, hpow] at hsteps
  exact hv.trans (hsteps ▸ (amount_strictMono f).monotone h)

theorem F32_le_big {v : ℝ} (hv : v ≤ 2 ^ 127) : v ≤ F32.amount F32.maxFin :=
  le_maxFin_of_le (by decide +kernel) (by decide) hv

theorem stands_F32_one : F32.read (F32.bias * 2 ^ F32.p) = .fin false (2 ^ 23) (-23) := by decide +kernel

/-! ## Reciprocals -/

theorem rcp_delivers (a : Nat) :
    let A := F32.read a
    (∀ s, A = .nan s → NaNs F32 s (F32.rcp a)) ∧ (∀ s, A = .inf s → Claim.Zero F32 s (F32.rcp a)) ∧
      ∀ s m e x, A = .fin s m e → Stands A x →
        (m = 0 → Claim.Infinite F32 s flDZ (F32.rcp a)) ∧ (m ≠ 0 → Delivers F32 0 false (1 / x) (F32.rcp a)) := by
  have hone : Stands (F32.read (F32.bias * 2 ^ F32.p)) 1 := by
    rw [stands_F32_one, stands_fin, sgn_false]
    norm_num [zpow_neg]
  obtain ⟨hnan, -, -, hinf, hfin⟩ :=
    div_delivers (mode := 0) (a := F32.bias * 2 ^ F32.p) (b := a) F32_proper rfl (Nat.zero_le 4)
  rw [stands_F32_one] at *
  refine ⟨fun s h => ?_, fun s h => ?_, fun s m e x h hx => ?_⟩
  · have hdiv := hnan (.inr (by rw [h]; rfl))
    rw [h] at hdiv
    exact hdiv
  · have hdiv := hinf _ _ _ _ rfl h
    rwa [Bool.false_bne] at hdiv
  · obtain ⟨-, hzero, -, hdiv⟩ := hfin _ _ _ _ _ _ _ _ rfl h hone hx
    rw [Bool.false_bne] at hzero
    exact ⟨hzero (by decide), hdiv (by decide)⟩

/-! ## Powers of two -/

/-- The integer part of a magnitude. -/
theorem whole_eq_floor (m : Nat) (e : Int) :
    (if 0 ≤ e then m * 2 ^ e.toNat else m / 2 ^ (-e).toNat) = ⌊m * (2 : ℝ) ^ e⌋₊ := by
  split
  · next h =>
    rw [← Int.toNat_of_nonneg h, zpow_natCast, Int.toNat_natCast]
    exact_mod_cast (Nat.floor_natCast (R := ℝ) (m * 2 ^ e.toNat)).symm
  · next h =>
    have hneg : e = -((-e).toNat : Int) := by omega
    conv_rhs => rw [hneg, zpow_neg, zpow_natCast, ← div_eq_mul_inv]
    exact_mod_cast (Nat.floor_div_eq_div (K := ℝ) m (2 ^ (-e).toNat)).symm

/-- An integer has no fraction. -/
theorem fraction_zero {m n : Nat} {e : Int} (h : m * (2 : ℝ) ^ e = n) (he : ¬0 ≤ e) :
    m % 2 ^ (-e).toNat = 0 := by
  have hexact := (exactAt_iff m e 0).2 ⟨n, by rw [h, zpow_zero, mul_one]⟩
  rw [exactAt, zero_sub, Bool.or_eq_true, decide_eq_true_eq, decide_eq_true_eq] at hexact
  exact hexact.resolve_left he

theorem exp2_large {a m : Nat} {s : Bool} {e : Int} {x : ℝ} (h : F32.read a = .fin s m e)
    (hx : Stands (F32.read a) x) (hlarge : 128 ≤ x) : Claim.Infinite F32 false (flOF ||| flNX) (F32.exp2 a) := by
  rw [h, stands_fin] at hx
  have hm : 0 ≤ m * (2 : ℝ) ^ e := by positivity
  have hs : s = false := by
    by_contra hs
    rw [Bool.not_eq_false] at hs
    rw [hs, sgn_true] at hx
    linarith
  subst hs
  rw [sgn_false, one_mul] at hx
  have hwhole : 128 ≤ ⌊m * (2 : ℝ) ^ e⌋₊ := Nat.le_floor (by rw [← hx]; exact_mod_cast hlarge)
  unfold FFmt.exp2
  rw [h]
  dsimp only
  rw [whole_eq_floor, if_pos ⟨hwhole, Bool.false_ne_true⟩]
  exact ⟨read_infinite rfl false, rfl⟩

theorem exp2_integer {a m : Nat} {s : Bool} {e k : Int} (h : F32.read a = .fin s m e)
    (hx : Stands (F32.read a) k) (hlow : -149 ≤ k) (hhigh : k ≤ 127) :
    Stands (F32.read (F32.exp2 a).bits) ((2 : ℝ) ^ k) ∧ (F32.exp2 a).fl = 0 := by
  rw [h, stands_fin] at hx
  have hm : 0 ≤ m * (2 : ℝ) ^ e := by positivity
  have habs : m * (2 : ℝ) ^ e = k.natAbs := by
    rw [Nat.cast_natAbs, Int.cast_abs, hx, abs_sgn_mul, abs_of_nonneg hm]
  have hsign : (if s then -(k.natAbs : Int) else k.natAbs) = k := by
    rw [habs] at hx
    cases s
    · rw [sgn_false, one_mul] at hx
      exact (if_neg Bool.false_ne_true).trans (Int.cast_injective (α := ℝ) (by rw [Int.cast_natCast, ← hx]))
    · rw [sgn_true, neg_one_mul] at hx
      exact (if_pos rfl).trans
        (Int.cast_injective (α := ℝ) (by rw [Int.cast_neg, Int.cast_natCast, ← hx]))
  have hexp : F32.exp2 a = F32.round 0 false 1 k := by
    unfold FFmt.exp2
    rw [h]
    dsimp only
    rw [whole_eq_floor, habs, Nat.floor_natCast, if_neg ?_, if_neg (by omega), if_pos, hsign]
    · split
      · rfl
      · next he => rw [fraction_zero habs he, Nat.zero_mul]
    · rintro ⟨hle, hs⟩
      rw [if_neg hs] at hsign
      omega
  have hround := round_delivers (f := F32) (mode := 0) (sat := false) (neg := false) (x := k) (v := 2 ^ k)
    F32_proper (Nat.zero_le 4) one_ne_zero (stands_fin.2 (by simp))
  have hrep : Represents F32.p (some F32.unit) ((2 : ℝ) ^ k) := by
    have hmul := represents_mul (p := F32.p) (k := 1) (low := some F32.unit) (q := k) (by decide)
      (by rintro l ⟨⟩; exact hlow)
    rwa [Nat.cast_one, one_mul] at hmul
  have hbig : |(2 : ℝ) ^ k| ≤ F32.amount F32.maxFin := by
    rw [abs_of_pos (by positivity)]
    exact F32_le_big ((zpow_le_zpow_right₀ one_le_two hhigh).trans_eq (zpow_natCast 2 127))
  rw [hexp]
  exact (delivers_of_represents F32_proper hround hrep hbig).2

/-! ## Logarithms of powers of two -/

theorem log2_power {a m : Nat} {s : Bool} {e k : Int} (ha : a < 2 ^ 32) (h : F32.read a = .fin s m e)
    (hx : Stands (F32.read a) ((2 : ℝ) ^ k)) :
    Stands (F32.read (F32.log2 a).bits) (k : ℝ) ∧ (F32.log2 a).fl = 0 ∧
      (k = 0 → (F32.log2 a).bits = 0) := by
  rw [h, stands_fin] at hx
  have hpos : (0 : ℝ) < 2 ^ k := by positivity
  have hs : s = false := by
    by_contra hs
    rw [Bool.not_eq_false] at hs
    rw [hs, sgn_true, neg_one_mul] at hx
    linarith [show 0 ≤ m * (2 : ℝ) ^ e by positivity]
  subst hs
  rw [sgn_false, one_mul] at hx
  have hm : m ≠ 0 := by
    rintro rfl
    rw [Nat.cast_zero, zero_mul] at hx
    exact hpos.ne' hx
  obtain ⟨hlow, hhigh⟩ := leading_bit hm e
  rw [← hx, zpow_le_zpow_iff_right₀ one_lt_two] at hlow
  rw [← hx, zpow_lt_zpow_iff_right₀ one_lt_two] at hhigh
  have hk : (m.log2 : Int) + e = k := by omega
  have hpower : m = 2 ^ m.log2 := by
    rw [← hk, zpow_add₀ two_ne_zero, mul_left_inj' (by positivity), zpow_natCast] at hx
    exact_mod_cast hx.symm
  have hlog : F32.log2 a = F32.roundInt 0 false k 0 := by
    unfold FFmt.log2
    rw [h]
    dsimp only
    rw [if_neg hm, if_neg Bool.false_ne_true, ← hpower, Nat.sub_self, if_pos rfl, hk]
  obtain ⟨hmlt, j, he, hj, -⟩ := read_fin_signed F32_proper rfl ha h
  have hbits : m.log2 < 24 := (Nat.log2_lt hm).2 hmlt
  have hexp : j < 256 := by
    have hmax : F32.maxFin < 2 ^ 31 := by decide +kernel
    rw [show 2 ^ F32.p = 2 ^ 23 from rfl] at hj
    omega
  have hsmall : k.natAbs < 2 ^ 8 := by
    have hunit : F32.unit = -149 := rfl
    omega
  rw [hlog]
  rcases eq_or_ne k 0 with rfl | h0
  · have hread : F32.read 0 = .fin false 0 F32.unit := by decide +kernel
    refine ⟨?_, rfl, fun _ => rfl⟩
    show Stands (F32.read 0) _
    rw [hread, stands_fin]
    simp
  · have hround := roundInt_delivers (f := F32) (mode := 0) (x := 0) (zneg := false) F32_proper
      (Nat.zero_le 4) h0
    rw [zpow_zero, mul_one] at hround
    have hrep : Represents F32.p (some F32.unit) k :=
      ⟨k, 0, hsmall.trans (by decide), by rintro l ⟨⟩; decide, by rw [zpow_zero, mul_one]⟩
    have hbig : |(k : ℝ)| ≤ F32.amount F32.maxFin := by
      refine F32_le_big ?_
      rw [← Int.cast_abs, Int.abs_eq_natAbs, Int.cast_natCast]
      exact_mod_cast hsmall.le.trans (Nat.pow_le_pow_right two_pos (by decide))
    obtain ⟨-, hstands, hnone⟩ := delivers_of_represents F32_proper hround hrep hbig
    exact ⟨hstands, hnone, fun e => absurd e h0⟩

theorem zeroR_zero (f : FFmt) (s : Bool) : Claim.Zero f s (f.zeroR s) := ⟨by cases s <;> rfl, rfl⟩

/-! ## NaN, infinite and zero operands -/

theorem rsq_special (a : Nat) :
    (∀ s, F32.read a = .nan s → NaNs F32 s (F32.rsq a)) ∧
      (F32.read a = .inf true → NaNs F32 true (F32.rsq a)) ∧
      (F32.read a = .inf false → Claim.Zero F32 false (F32.rsq a)) ∧
      ∀ s m e, F32.read a = .fin s m e → (m = 0 → Claim.Infinite F32 s flDZ (F32.rsq a)) ∧
        (m ≠ 0 → s = true → NaNs F32 true (F32.rsq a)) := by
  unfold FFmt.rsq
  generalize F32.read a = A
  refine ⟨?_, ?_, ?_, ?_⟩
  · rintro s rfl
    exact ⟨rfl, rfl⟩
  · rintro rfl
    exact ⟨rfl, rfl⟩
  · rintro rfl
    exact ⟨rfl, rfl⟩
  · rintro s m e rfl
    refine ⟨?_, ?_⟩
    · rintro rfl
      exact ⟨read_infinite rfl s, rfl⟩
    · rintro hm rfl
      dsimp only
      rw [if_neg hm]
      exact ⟨rfl, rfl⟩

theorem exp2_special (a : Nat) :
    (∀ s, F32.read a = .nan s → NaNs F32 s (F32.exp2 a)) ∧
      (F32.read a = .inf true → Claim.Zero F32 false (F32.exp2 a)) ∧
      (F32.read a = .inf false → Claim.Infinite F32 false 0 (F32.exp2 a)) := by
  unfold FFmt.exp2
  generalize F32.read a = A
  refine ⟨?_, ?_, ?_⟩
  · rintro s rfl
    exact ⟨rfl, rfl⟩
  · rintro rfl
    exact ⟨rfl, rfl⟩
  · rintro rfl
    exact ⟨read_infinite rfl false, rfl⟩

theorem log2_special (a : Nat) :
    (∀ s, F32.read a = .nan s → NaNs F32 s (F32.log2 a)) ∧
      (F32.read a = .inf true → NaNs F32 true (F32.log2 a)) ∧
      (F32.read a = .inf false → Claim.Infinite F32 false 0 (F32.log2 a)) ∧
      ∀ s m e, F32.read a = .fin s m e → (m = 0 → Claim.Infinite F32 true flDZ (F32.log2 a)) ∧
        (m ≠ 0 → s = true → NaNs F32 true (F32.log2 a)) := by
  unfold FFmt.log2
  generalize F32.read a = A
  refine ⟨?_, ?_, ?_, ?_⟩
  · rintro s rfl
    exact ⟨rfl, rfl⟩
  · rintro rfl
    exact ⟨rfl, rfl⟩
  · rintro rfl
    exact ⟨read_infinite rfl false, rfl⟩
  · rintro s m e rfl
    refine ⟨?_, ?_⟩
    · rintro rfl
      exact ⟨read_infinite rfl true, rfl⟩
    · rintro hm rfl
      dsimp only
      rw [if_neg hm]
      exact ⟨rfl, rfl⟩

theorem trig_special (cosine : Bool) (a : Nat) :
    (∀ s, F32.read a = .nan s → NaNs F32 s (F32.trig cosine a)) ∧
      (∀ s, F32.read a = .inf s → NaNs F32 true (F32.trig cosine a)) ∧
      ∀ s e, F32.read a = .fin s 0 e →
        F32.trig cosine a = if cosine then { bits := F32.bias * 2 ^ F32.p, fl := 0 } else F32.zeroR s := by
  unfold FFmt.trig
  generalize F32.read a = A
  refine ⟨?_, ?_, ?_⟩
  · rintro s rfl
    exact ⟨rfl, rfl⟩
  · rintro s rfl
    exact ⟨rfl, rfl⟩
  · rintro s e rfl
    exact if_pos rfl

/-! ## The statement -/

theorem floatFunctions : FloatFunctions := by
  refine ⟨fun f hf a b ha hb => ?_, fun a ha => ?_⟩
  · simp only [List.mem_cons, List.not_mem_nil, or_false] at hf
    rcases hf with rfl | rfl <;> exact pick_delivers ⟨by decide, by decide⟩ rfl ha hb
  obtain ⟨rcpNan, rcpInf, rcpFin⟩ := rcp_delivers a
  obtain ⟨rsqNan, rsqNegInf, rsqInf, rsqFin⟩ := rsq_special a
  obtain ⟨exp2Nan, exp2NegInf, exp2Inf⟩ := exp2_special a
  obtain ⟨log2Nan, log2NegInf, log2Inf, log2Fin⟩ := log2_special a
  obtain ⟨sinNan, sinInf, sinZero⟩ := trig_special false a
  obtain ⟨cosNan, cosInf, cosZero⟩ := trig_special true a
  refine ⟨fun g hg s h => ?_, fun s h => ?_, fun s m e x h hx => ?_⟩
  · simp only [List.mem_cons, List.not_mem_nil, or_false] at hg
    rcases hg with rfl | rfl | rfl | rfl | rfl | rfl
    exacts [rcpNan s h, rsqNan s h, exp2Nan s h, log2Nan s h, sinNan s h, cosNan s h]
  · refine ⟨rcpInf s h, sinInf s h, cosInf s h, ?_, ?_⟩
    · rintro rfl
      exact ⟨rsqNegInf h, exp2NegInf h, log2NegInf h⟩
    · rintro rfl
      exact ⟨rsqInf h, exp2Inf h, log2Inf h⟩
  · obtain ⟨rcpZero, rcpValue⟩ := rcpFin s m e x h hx
    obtain ⟨rsqZero, rsqNeg⟩ := rsqFin s m e h
    obtain ⟨log2Zero, log2Neg⟩ := log2Fin s m e h
    refine ⟨?_, fun hm => ⟨rcpValue hm, fun hs => ⟨rsqNeg hm hs, log2Neg hm hs⟩, ?_⟩, exp2_large h hx, ?_, ?_⟩
    · rintro rfl
      refine ⟨rcpZero rfl, rsqZero rfl, log2Zero rfl, ?_, ?_⟩
      · rw [sinZero s e h]
        exact zeroR_zero F32 s
      · have hone : F32.bias * 2 ^ F32.p = 0x3F800000 := by decide +kernel
        rw [cosZero s e h, if_pos rfl, hone]
    · rintro rfl
      rw [h, stands_fin, sgn_false, one_mul] at hx
      have hroot := rsq_delivers F32_proper hm h
      rwa [sgn_false, one_mul, ← hx] at hroot
    · rintro k hlow hhigh rfl
      exact exp2_integer h hx hlow hhigh
    · rintro k rfl
      exact log2_power ha h hx

/-- Settles O60: rounding names the member that R70 names, of the exact value or of digits with a sticky
last bit. -/
theorem floatValues : Obligations.FloatValues := ⟨encodings, floatArithmetic, floatFunctions⟩

end Sys2Proof.Machine
end

section
/-!
PROOFS. Conversions (R165 to R168) and the digits of VSPLIT (R180): their values and flags.
-/

namespace Sys2Proof.Machine

open Sys2Proof.Claim

/-! ## Rounding to an integer -/

theorem floatToInteger : FloatToInteger := by
  intro f m a sat lo hi bad hle
  dsimp only
  unfold toInt
  cases f.read a with
  | nan s => exact rfl
  | inf s => exact rfl
  | fin neg v e =>
    dsimp only
    generalize (if neg then -(roundAt m neg v e 0 : Int) else roundAt m neg v e 0) = u
    refine ⟨fun h1 h2 => ?_, fun h => if_pos h, fun h => ?_⟩
    · rw [if_neg (not_lt.2 h1), if_neg (not_lt.2 h2)]
      refine ⟨rfl, ?_⟩
      cases exactAt v e 0
      · exact ⟨iff_of_false (by decide : ¬flNX = 0) Bool.false_ne_true, .inr rfl⟩
      · exact ⟨iff_of_true rfl rfl, .inl rfl⟩
    · rw [if_neg (not_lt.2 (hle.trans h.le)), if_pos h]

/-- R70: the integer that a mode names. -/
theorem nearest_integer {mode v : Nat} {neg : Bool} {e : Int} {x : ℝ} (hx : Stands (.fin neg v e) x) :
    Nearest (fun y => ∃ n : Int, y = n) (fun y => ∃ n : Int, y = 2 * n) mode x
      (sgn neg * (roundAt mode neg v e 0 : ℝ)) := by
  have hround := roundAt_rounds mode neg v e 0
  rw [zpow_zero, div_one] at hround
  rw [stands_fin.1 hx]
  refine nearest_sgn ?_ ?_ (nearest_of_rounds (low := 0) ?_ (fun w hw _ => hw) ⟨_, rfl⟩ ?_ hround)
  · rintro w ⟨n, rfl⟩
    exact ⟨-n, (Int.cast_neg n).symm⟩
  · rintro w ⟨n, rfl⟩
    exact ⟨-n, by push_cast; ring⟩
  · rw [Nat.cast_zero]
    positivity
  · rintro ⟨j, hj⟩
    exact ⟨j, by rw [hj]; push_cast; ring⟩

theorem exactAt_integer {v : Nat} {neg : Bool} {e : Int} {x : ℝ} (hx : Stands (.fin neg v e) x) :
    exactAt v e 0 = true ↔ ∃ n : Int, x = n := by
  have hpos : 0 ≤ v * (2 : ℝ) ^ e := by positivity
  rw [exactAt_iff, stands_fin.1 hx]
  simp only [zpow_zero, mul_one]
  constructor
  · rintro ⟨n, hn⟩
    rw [hn]
    cases neg
    · exact ⟨n, by simp⟩
    · exact ⟨-n, by simp⟩
  · rintro ⟨n, hn⟩
    refine ⟨n.natAbs, ?_⟩
    rw [Nat.cast_natAbs, Int.cast_abs, ← hn, abs_sgn_mul, abs_of_nonneg hpos]

/-- The formats whose integers up to the precision are numbers of the format. -/
structure FFmt.Roomy (f : FFmt) : Prop extends f.Proper where
  ieee : f.ieee = true
  unit : f.unit ≤ 0
  bias : f.p + 1 ≤ f.bias
  big : 2 * f.bias * 2 ^ f.p ≤ f.maxFin

theorem roomy_of_mem {f : FFmt} (h : f ∈ [F32, F64]) : f.Roomy := by
  simp only [List.mem_cons, List.not_mem_nil, or_false] at h
  rcases h with rfl | rfl
  · exact ⟨⟨by decide, by decide⟩, rfl, by decide, by decide, by decide +kernel⟩
  · exact ⟨⟨by decide, by decide⟩, rfl, by decide, by decide, by decide +kernel⟩

/-- An integer of no more bits than the format has is rounded to itself, a zero with its sign. -/
theorem round_integer {f : FFmt} (hf : f.Roomy) {mode k : Nat} (hmode : mode ≤ 4) (neg : Bool)
    (hk : k ≤ 2 ^ (f.p + 1)) :
    (∃ n d, f.read (f.round mode neg k 0).bits = .fin neg n d) ∧
      Stands (f.read (f.round mode neg k 0).bits) (sgn neg * k) := by
  have hp : f.Proper := hf.toProper
  rcases Nat.eq_zero_or_pos k with rfl | hpos
  · have hzero : (f.round mode neg 0 0).bits = f.signed neg 0 := rfl
    obtain ⟨r, j, hread, -, -, -⟩ := read_finite hp neg (Nat.zero_le f.maxFin)
    have hstands := stands_finite hp neg (Nat.zero_le f.maxFin)
    rw [hzero, Nat.cast_zero]
    rw [amount_zero] at hstands
    exact ⟨⟨r, _, hread⟩, hstands⟩
  · have hround := round_delivers (sat := false) (neg := neg) (x := 0) hp hmode hpos.ne'
      (stands_fin.2 (by rw [zpow_zero, mul_one]))
    have hrep : Represents f.p (some f.unit) (sgn neg * k) := by
      have hmul := represents_mul (p := f.p) (low := some f.unit) (q := 0) hk (by rintro l ⟨⟩; exact hf.unit)
      rw [zpow_zero, mul_one] at hmul
      cases neg
      · simpa using hmul
      · simpa using represents_neg hmul
    have hbig : |sgn neg * (k : ℝ)| ≤ f.amount f.maxFin := by
      rw [abs_sgn_mul, Nat.abs_cast]
      refine le_maxFin_of_le hf.big (by have := hf.bias; omega) ?_
      calc (k : ℝ) ≤ 2 ^ (f.p + 1) := by exact_mod_cast hk
        _ ≤ 2 ^ f.bias := pow_le_pow_right₀ one_le_two hf.bias
    obtain ⟨⟨n, d, hread⟩, hstands, -⟩ := delivers_of_represents hp hround hrep hbig
    refine ⟨⟨n, d, ?_⟩, hstands⟩
    rw [hread]
    congr 1
    simp [sgn_mul_neg_iff (Nat.cast_pos.2 hpos)]

/-- R166, codes 22 and 23. -/
theorem integral_delivers {f : FFmt} (hf : f.Roomy) {mode a : Nat} (hmode : mode ≤ 4)
    (ha : a < 2 * f.signBit) :
    let r := f.integral mode a
    (∀ s, f.read a = .nan s → NaNs f s r) ∧ (∀ s, f.read a = .inf s → r = { bits := a, fl := 0 }) ∧
      ∀ neg m e x, f.read a = .fin neg m e → Stands (f.read a) x →
        (exactAt m e 0 = true → r = { bits := a, fl := 0 }) ∧
        (exactAt m e 0 = false → r.fl = flNX ∧ (∃ n d, f.read r.bits = .fin neg n d) ∧
          Stands (f.read r.bits) (sgn neg * (roundAt mode neg m e 0 : ℝ))) := by
  dsimp only
  unfold FFmt.integral
  refine ⟨fun s h => ?_, fun s h => ?_, fun neg m e x h hx => ?_⟩
  · rw [h]
    exact ⟨rfl, rfl⟩
  · rw [h]
  · rw [h]
    refine ⟨fun hexact => if_pos hexact, fun hexact => ?_⟩
    dsimp only
    rw [hexact, if_neg Bool.false_ne_true]
    have hm := (read_fin_signed hf.toProper hf.ieee ha h).1
    have he : e ≤ 0 := by
      by_contra he
      rw [exactAt, decide_eq_true (by omega), Bool.true_or] at hexact
      cases hexact
    have hle : roundAt mode neg m e 0 ≤ m := by
      have hround := roundAt_rounds mode neg m e 0
      rw [zpow_zero, div_one] at hround
      exact hround.ge (mul_le_of_le_one_right (Nat.cast_nonneg m) (zpow_le_one_of_nonpos₀ one_le_two he))
    exact ⟨rfl, round_integer hf hmode neg (hle.trans hm.le)⟩

/-! ## One format into another (R166, R168) -/

theorem convert_delivers {src dst : FFmt} (hd : dst.Proper) {mode a : Nat} {sat : Bool} (hmode : mode ≤ 4) :
    let r := convert src dst mode sat a
    (∀ s, src.read a = .nan s → NaNs dst s r) ∧
    (∀ s, src.read a = .inf s →
      (sat = true → r = { bits := (if s then dst.signBit else 0) + dst.maxFin, fl := 0 }) ∧
      (sat = false → if dst.ieee then Claim.Infinite dst s 0 r else NaNs dst true r)) ∧
    ∀ s m e x, src.read a = .fin s m e → Stands (src.read a) x →
      (m = 0 → Claim.Zero dst s r) ∧ (m ≠ 0 → Delivers dst mode sat x r) := by
  unfold convert
  generalize src.read a = A
  refine ⟨?_, ?_, ?_⟩
  · rintro s rfl
    exact ⟨rfl, rfl⟩
  · rintro s rfl
    refine ⟨?_, ?_⟩
    · rintro rfl
      exact congrArg (Fr.mk · 0) (FFmt.signed_eq dst s dst.maxFin)
    · rintro rfl
      cases hi : dst.ieee
      · simp [NaNs, FFmt.nanR]
      · simp [Claim.Infinite, FFmt.infR, read_infinite hi]
  · rintro s m e x rfl hx
    refine ⟨?_, fun hm => round_delivers hd hmode hm hx⟩
    rintro rfl
    exact zeroR_zero dst s

theorem integerRounding : IntegerRounding := by
  refine ⟨fun mode neg v e _ x hx => ⟨nearest_integer hx, exactAt_integer hx⟩, fun f hf mode hmode => ?_, ?_⟩
  · have hr := roomy_of_mem hf
    refine ⟨fun n => ⟨?_, fun hn => ?_⟩, fun a ha => integral_delivers hr hmode ha⟩
    · rintro rfl
      exact rfl
    · have hround := roundInt_delivers (zneg := false) (x := 0) hr.toProper hmode hn
      rwa [zpow_zero, mul_one] at hround
  · intro src hs dst hd mode hmode sat a
    have hieee : dst.ieee = decide (dst ≠ FE4) := by
      simp only [List.mem_cons, List.not_mem_nil, or_false] at hd
      rcases hd with rfl | rfl | rfl | rfl | rfl | rfl <;> rfl
    obtain ⟨hnan, hinf, hfin⟩ := convert_delivers (src := src) (a := a) (sat := sat) (proper_of_mem hd) hmode
    refine ⟨hnan, fun s h => ⟨(hinf s h).1, fun hs => ?_⟩, hfin⟩
    have hnot := (hinf s h).2 hs
    rw [hieee] at hnot
    by_cases he : dst = FE4
    · rw [if_pos he]
      rwa [if_neg (by simp [he])] at hnot
    · rw [if_neg he]
      rwa [if_pos (decide_eq_true he)] at hnot

/-! ## Digits (R180) -/

theorem byte_toInt {d : Nat} (hd : d < 128) (neg : Bool) :
    (BitVec.ofNat 8 (if neg then (256 - d) % 256 else d)).toInt = if neg then -(d : Int) else d := by
  rw [BitVec.toInt_ofNat', Int.bmod_def]
  cases neg <;> simp only [if_true, if_false, Bool.false_eq_true] <;> omega

/-- The digit of a slice, where the number is below `2 ^ e`. -/
theorem splitDigit_below {s x m : Nat} {neg : Bool} {k e : Int} (hx : x < 2 ^ 64)
    (h : F64.read x = .fin neg m k) (hlt : m * (2 : ℝ) ^ k < 2 ^ e) :
    splitDigit s x e =
      (if neg then (256 - ⌊m * (2 : ℝ) ^ (k + 7 * ((s : Int) + 1) - e)⌋₊ % 128) % 256
        else ⌊m * (2 : ℝ) ^ (k + 7 * ((s : Int) + 1) - e)⌋₊ % 128, 0) := by
  have hplace : m = 0 ∨ (m.log2 : Int) + k < e := by
    rcases eq_or_ne m 0 with h0 | h0
    · exact .inl h0
    · exact .inr ((zpow_lt_zpow_iff_right₀ one_lt_two).1 ((leading_bit h0 k).1.trans_lt hlt))
  have hm : m < 2 ^ 53 := (read_fin_signed ⟨by decide, by decide⟩ rfl hx h).1
  unfold splitDigit
  rw [h]
  dsimp only
  rw [if_neg (by omega), ← whole_eq_floor]
  generalize k + 7 * ((s : Int) + 1) - e = j
  have hdigits : (if m = 0 then 0 else if 0 ≤ j then m * 2 ^ j.toNat else
      if j < -64 then 0 else m / 2 ^ (-j).toNat) =
      if 0 ≤ j then m * 2 ^ j.toNat else m / 2 ^ (-j).toNat := by
    split
    · next h0 => simp [h0]
    · split
      · rfl
      · split
        · next hj =>
          have hpow : 2 ^ 53 ≤ 2 ^ (-j).toNat := Nat.pow_le_pow_right two_pos (by omega)
          exact (Nat.div_eq_of_lt (hm.trans_le hpow)).symm
        · rfl
  rw [hdigits]

theorem splitDigit_beyond {s x m : Nat} {neg : Bool} {k e : Int} (h : F64.read x = .fin neg m k)
    (hle : (2 : ℝ) ^ e ≤ m * 2 ^ k) : splitDigit s x e = (0, flNV) := by
  have hm : m ≠ 0 := by
    rintro rfl
    rw [Nat.cast_zero, zero_mul] at hle
    exact absurd hle (not_le.2 (by positivity))
  have hplace : e < (m.log2 : Int) + k + 1 :=
    (zpow_lt_zpow_iff_right₀ one_lt_two).1 (hle.trans_lt (leading_bit hm k).2)
  unfold splitDigit
  rw [h]
  exact if_pos ⟨hm, by omega⟩

theorem splitDigits : SplitDigits := by
  intro s x e hs hx hlow hhigh
  dsimp only
  refine ⟨fun hnone => ?_, fun y hy => ?_⟩
  · unfold splitDigit
    cases h : F64.read x with
    | nan t => rfl
    | inf t => rfl
    | fin neg m k => exact absurd (h ▸ stands_fin.2 rfl) (hnone (sgn neg * (m * 2 ^ k)))
  · cases h : F64.read x with
    | nan t => rw [h] at hy; exact hy.elim
    | inf t => rw [h] at hy; exact hy.elim
    | fin neg m k =>
    have hmag : 0 ≤ m * (2 : ℝ) ^ k := by positivity
    rw [h, stands_fin] at hy
    rw [hy, abs_sgn_mul, abs_of_nonneg hmag]
    refine ⟨splitDigit_beyond h, fun hlt => ?_⟩
    have hscale : m * (2 : ℝ) ^ k * 2 ^ (7 * ((s : Int) + 1) - e) = m * 2 ^ (k + 7 * ((s : Int) + 1) - e) := by
      rw [mul_assoc, ← zpow_add₀ two_ne_zero, add_sub_assoc]
    rw [splitDigit_below hx h hlt, hscale]
    generalize hz : m * (2 : ℝ) ^ (k + 7 * ((s : Int) + 1) - e) = z
    have hfloor : ⌊z⌋ = (⌊z⌋₊ : Int) := (Int.natCast_floor_eq_floor (by rw [← hz]; positivity)).symm
    have hd : ⌊z⌋₊ % 128 < 128 := Nat.mod_lt _ (by decide)
    refine ⟨rfl, ?_, ?_⟩
    · dsimp only
      split <;> omega
    · have hneg : sgn neg * (m * (2 : ℝ) ^ k) < 0 ↔ neg = true ∧ m ≠ 0 := by
        rcases Nat.eq_zero_or_pos m with rfl | hpos
        · simp
        · rw [sgn_mul_neg_iff (by positivity), and_iff_left hpos.ne']
      have hzero : m = 0 → ⌊z⌋₊ = 0 := by
        rintro rfl
        rw [← hz, Nat.cast_zero, zero_mul, Nat.floor_zero]
      rw [byte_toInt hd neg, hfloor]
      simp only [hneg, Int.natCast_emod, Nat.cast_ofNat]
      rcases eq_or_ne m 0 with h0 | h0
      · simp [hzero h0]
      · simp [h0]

end Sys2Proof.Machine
end

section
/-!
PROOFS. What each conversion code names (R165 to R168).
-/

namespace Sys2Proof.Machine

open Sys2Proof.Claim

/-- R70: the rounding of a conversion. -/
theorem fmtCRM_cases (m : BitVec 32) {k : Nat} (hk : k ≤ 5) (h : (m.extractLsb' 2 3).toNat = k) :
    fmtCRM m = if k = 0 then (m.extractLsb' 0 2).toNat else k - 1 := by
  unfold fmtCRM
  rw [h]
  interval_cases k <;> rfl

theorem toIntN_eq (src : FFmt) (n mode : Nat) (signed sat : Bool) (a : Nat) (lo hi bad : Int)
    (h : (lo, hi, bad) = if signed then
      ((-(2 ^ (n - 1) : Nat) : Int), ((2 ^ (n - 1) - 1 : Nat) : Int), (-(2 ^ (n - 1) : Nat) : Int))
      else (0, ((2 ^ n - 1 : Nat) : Int), ((2 ^ n - 1 : Nat) : Int))) :
    toIntN src n signed mode sat a =
      ((BitVec.ofInt n (toInt src mode sat lo hi bad a).1).zeroExtend 64,
        (toInt src mode sat lo hi bad a).2) := by
  cases signed <;> cases h <;> rfl

theorem conversionCodes : ConversionCodes := by
  refine ⟨fun m => ⟨rfl, fun k hk h => fmtCRM_cases m hk h⟩, fun m a sat => ?_⟩
  have hword : a.toNat % 2 ^ 64 = a.toNat := Nat.mod_eq_of_lt a.isLt
  have hself : BitVec.ofNat 64 a.toNat = a := BitVec.ofNat_toNat _ _
  dsimp only
  rw [hword, hself]
  refine ⟨rfl, rfl, rfl, rfl, rfl, rfl, rfl, rfl, rfl, rfl, rfl, rfl, rfl, rfl, rfl, rfl, ?_, ?_, ?_, ?_,
    ?_, ?_, rfl, rfl, ?_, ?_⟩
  · exact toIntN_eq F32 32 _ true sat _ _ _ _ rfl
  · exact toIntN_eq F32 32 _ false sat _ _ _ _ rfl
  · exact toIntN_eq F64 32 _ true sat _ _ _ _ rfl
  · exact toIntN_eq F64 32 _ false sat _ _ _ _ rfl
  · exact toIntN_eq F64 64 _ true sat _ _ _ _ rfl
  · exact toIntN_eq F64 64 _ false sat _ _ _ _ rfl
  · rfl
  · show (BitVec.ofNat 64 (a.toNat % 2 ^ 32), (0 : BitVec 7)) = _
    congr 1
    apply BitVec.eq_of_toNat_eq
    simp

end Sys2Proof.Machine
end

section
/-!
SUPPORT. Elementwise instructions that raise flags (R144, R145): from `vFlagged` to the words of the
statements.
-/

namespace Sys2Proof.Machine

open Sys2Proof.Claim

variable {s : State} {c n : Nat} {g : Group} {i : Instr} {d a b : Src} {f : LaneFn}

/-! ## The flags of the active lanes (R74) -/

theorem foldl_or_bit (fl : Nat → BitVec 7) (k : Nat) (ls : List Nat) (x : BitVec 7) :
    (ls.foldl (fun x l => x ||| fl l) x).getLsbD k = true ↔
      x.getLsbD k = true ∨ ∃ l ∈ ls, (fl l).getLsbD k = true := by
  induction ls generalizing x with
  | nil => simp
  | cons l t ih =>
    rw [List.foldl_cons, ih, BitVec.getLsbD_or, Bool.or_eq_true]
    simp [or_assoc]

theorem raisedIn_bit (exec : Word) (fl : Nat → BitVec 7) (k : Nat) :
    (raisedIn exec fl).getLsbD k = true ↔ ∃ l < 64, bit exec l = true ∧ (fl l).getLsbD k = true := by
  rw [raisedIn, foldl_or_bit]
  simp [mem_lanesOf, and_assoc]

/-- The flags that a group raises, and the lanes that trap, as the machine finds them. -/
theorem raises_found (g : Group) (fl : Nat → BitVec 7) :
    Raises g fl (raisedIn g.exec fl) (trapLanes g.exec (fmtEnables g.format) fl) := by
  refine ⟨raisedIn_bit _ _, fun l hl => ?_⟩
  rw [trapLanes, maskOf_bit _ _ hl, Bool.and_eq_true, decide_eq_true_eq]

theorem raises_unique {fl : Nat → BitVec 7} {r r' : BitVec 7} {t t' : Word} (h : Raises g fl r t)
    (h' : Raises g fl r' t') : r = r' ∧ t = t' :=
  ⟨BitVec.eq_of_getLsbD_eq fun k _ => Bool.eq_iff_iff.2 ((h.1 k).trans (h'.1 k).symm),
    BitVec.eq_of_getLsbD_eq fun l hl => Bool.eq_iff_iff.2 ((h.2 l hl).trans (h'.2 l hl).symm)⟩

/-- Only the active lanes count. -/
theorem raises_congr {fl fl' : Nat → BitVec 7} {r : BitVec 7} {t : Word} (h : Raises g fl r t)
    (he : ∀ l < 64, bit g.exec l = true → fl l = fl' l) : Raises g fl' r t := by
  refine ⟨fun k => (h.1 k).trans (exists_congr fun l => ?_), fun l hl => (h.2 l hl).trans ?_⟩
  · refine and_congr_right fun hl => and_congr_right fun hon => ?_
    rw [he l hl hon]
  · refine and_congr_right fun hon => ?_
    rw [he l hl hon]

/-- The lane results are those of the operation, in the active lanes. -/
theorem laneResults_get (d a b : Src) (f : LaneFn) {l : Nat} (hl : l < 64) (hon : bit g.exec l = true) :
    tget (0, 0) l (laneResults g d a b f) = f g.format (a.val g l) (b.val g l) (d.val g l) :=
  tget_map_self _ (fun l => f g.format (a.val g l) (b.val g l) (d.val g l)) hl hon

/-- What `Raises` says of the operation, in the words of `vFlagged` and `vXc`. -/
theorem raises_results {r : BitVec 7} {t : Word}
    (h : Raises g (fun l => (f g.format (a.val g l) (b.val g l) (d.val g l)).2) r t) :
    raisedIn g.exec (fun l => (tget (0, 0) l (laneResults g d a b f)).2) = r ∧
      trapLanes g.exec (fmtEnables g.format)
        (fun l => (tget (0, 0) l (laneResults g d a b f)).2) = t := by
  refine raises_unique (raises_found g _) (raises_congr h fun l hl hon => ?_)
  rw [laneResults_get d a b f hl hon]

/-! ## The destination -/

/-- A destination is a vector register or a pair. -/
def Src.isVec : Src → Bool
  | .vec _ => true
  | .pair _ => true
  | _ => false

theorem banked_vector (g : Group) (r : Nat) : g.banked .vector r = false := Bool.and_false _

theorem fly_vec (hq : g.flights = []) (L r : Nat) (lanes : Word) (v : Nat → Lane) :
    g.flyV L r lanes v = if lanes = 0 then g else { g with flights :=
      [{ kind := .vector, reg := r, bank := false, lanes, left := L, val := 0
         vec := (lanesOf lanes).map fun l => (l, v l) }] } := by
  rw [Group.flyV, fly_of_no_flights g hq, banked_vector]

/-- A write of another register cancels nothing. -/
theorem cancel_other {y : Flight} {k : RegKind} {r : Nat} {bank : Bool} {lanes : Word} (hr : y.reg ≠ r)
    (hy : y.lanes ≠ 0) :
    ({ g with flights := [y] } : Group).cancel k r bank lanes = { g with flights := [y] } := by
  unfold Group.cancel
  simp [hr, show ¬y.lanes = 0#64 from hy]

/-- The writes in flight of a vector result. -/
theorem flyD_eq (hq : g.flights = []) (hd : d.isVec = true) (L : Nat) (lanes : Word) (x : Nat → Word) :
    g.flyD L d lanes x = if lanes = 0 then g else { g with
      flights := (landWrites d lanes x).map fun y => { y with left := L } } := by
  match d, hd with
  | .vec r, _ => exact fly_vec hq L r lanes _
  | .pair r, _ =>
    show (g.flyV _ _ _ _).flyV _ _ _ _ = _
    rw [fly_vec hq]
    split
    · next h0 => rw [fly_vec hq, if_pos h0]
    · next h0 =>
      unfold Group.flyV Group.fly
      dsimp only
      rw [cancel_other (Nat.ne_of_lt r.lt_succ_self) h0, if_neg h0, banked_vector]
      rfl

theorem flyD_pc (hq : g.flights = []) (hd : d.isVec = true) (L : Nat) (lanes : Word) (x : Nat → Word) :
    (g.flyD L d lanes x).pc = g.pc := by
  rw [flyD_eq hq hd]
  split <;> rfl

theorem halves_append (x : Word) : x.extractLsb' 32 32 ++ (x.truncate 32 : Lane) = x := by
  ext k hk
  rw [BitVec.getElem_append]
  split
  · rw [BitVec.truncate_eq_setWidth, BitVec.getElem_setWidth]
    exact BitVec.getLsbD_eq_getElem hk
  · next h =>
    rw [BitVec.getElem_extractLsb', Nat.add_sub_cancel' (not_lt.1 h)]
    exact BitVec.getLsbD_eq_getElem hk

/-- The writes of a vector result, landed: the lanes written of the destination, and nothing else. -/
theorem landWrites_landed (hd : d.isVec = true) (g : Group) (lanes : Word) (x : Nat → Word) :
    let h := (landWrites d lanes x).foldl Group.land1 g
    Keeps g h { vs := regsOf d } ∧
      ∀ l < 64, d.val h l = if bit lanes l then held d (x l) else d.val g l := by
  have hget : ∀ (v : Nat → Lane) {l : Nat}, l < 64 → bit lanes l = true →
      tget 0 l ((lanesOf lanes).map fun l => (l, v l)) = v l := fun v l hl hon => tget_map_self 0 v hl hon
  have hkeeps : ∀ (h : Group) (r : Nat) (v : Nat → Lane), Keeps h (h.setV r lanes v) { vs := [r] } := by
    intro h r v
    obtain ⟨hs, hhs, hm, hhm, hf⟩ := setV_others h r lanes v
    refine ⟨fun b q _ => ?_, fun b q _ => ?_, fun q l hl hq => ?_, fun _ => hf⟩
    · unfold Group.sIn
      rw [hs, hhs]
    · unfold Group.mIn
      rw [hm, hhm]
    · rw [setV_v _ _ _ _ _ _ hl, if_neg fun e => hq (by simp [e.1])]
  match d, hd with
  | .vec r, _ =>
    refine ⟨hkeeps g r _, fun l hl => ?_⟩
    show zext64 ((g.setV r lanes _).v r l) = _
    rw [setV_v _ _ _ _ _ _ hl]
    by_cases hon : bit lanes l = true
    · rw [if_pos ⟨rfl, hon⟩, if_pos hon, hget _ hl hon]
      rfl
    · rw [if_neg fun e => hon e.2, if_neg hon]
      rfl
  | .pair r, _ =>
    obtain ⟨hs, hm, hv, hf⟩ := hkeeps g r fun l =>
      tget 0 l ((lanesOf lanes).map fun l => (l, ((x l).truncate 32 : Lane)))
    obtain ⟨hs', hm', hv', hf'⟩ := hkeeps (g.setV r lanes fun l =>
      tget 0 l ((lanesOf lanes).map fun l => (l, ((x l).truncate 32 : Lane)))) (r + 1) fun l =>
      tget 0 l ((lanesOf lanes).map fun l => (l, (x l).extractLsb' 32 32))
    refine ⟨⟨fun b q h => ?_, fun b q h => ?_, fun q l hl h => ?_, fun h => ?_⟩, fun l hl => ?_⟩
    · exact (hs' b q (by simp)).trans (hs b q (by simp))
    · exact (hm' b q (by simp)).trans (hm b q (by simp))
    · have h : q ≠ r ∧ q ≠ r + 1 := by simpa [regsOf] using h
      exact (hv' q l hl (by simp [h.2])).trans (hv q l hl (by simp [h.1]))
    · exact (hf' rfl).trans (hf rfl)
    · show Group.v64 ((g.setV r lanes _).setV (r + 1) lanes _) r l = _
      unfold Group.v64
      rw [setV_v _ _ _ _ _ _ hl, setV_v _ _ _ _ _ _ hl, setV_v _ _ _ _ _ _ hl, setV_v _ _ _ _ _ _ hl]
      by_cases hon : bit lanes l = true
      · rw [if_pos ⟨rfl, hon⟩, if_neg (fun e => by omega), if_pos ⟨rfl, hon⟩, if_pos hon, hget _ hl hon,
          hget _ hl hon]
        exact halves_append (x l)
      · rw [if_neg fun e => hon e.2, if_neg fun e => hon e.2, if_neg fun e => hon e.2,
          if_neg fun e => hon e.2, if_neg hon]
        rfl

/-- The group with a vector result in flight, and once it has landed. -/
theorem flyD_landed (hq : g.flights = []) (hd : d.isVec = true) (L : Nat) (lanes : Word) (x : Nat → Word) :
    (∀ y ∈ (g.flyD L d lanes x).flights, y.left = L) ∧
      ({ g.flyD L d lanes x with flights := [] } : Group) = g ∧
      Keeps g (g.flyD L d lanes x).flown { vs := regsOf d } ∧
      ∀ l < 64, d.val (g.flyD L d lanes x).flown l =
        if bit lanes l then held d (x l) else d.val g l := by
  have hg := landed_of_quiet hq
  have hland := landWrites_landed hd g lanes x
  rw [flyD_eq hq hd]
  split
  · next h0 =>
    subst h0
    rw [flown_of_no_flights g hq]
    exact ⟨by simp [hq], hg, Keeps.refl _ _, fun l _ => by simp [bit]⟩
  · have hflown : ({ g with flights := (landWrites d lanes x).map fun y => { y with left := L } } :
        Group).flown = (landWrites d lanes x).foldl Group.land1 g := by
      show List.foldl _ ({ g with flights := [] } : Group) (List.map _ _) = _
      rw [hg, List.foldl_map]
      rfl
    rw [hflown]
    refine ⟨fun y hy => ?_, hg, hland⟩
    obtain ⟨z, -, rfl⟩ := List.mem_map.1 hy
    rfl

end Sys2Proof.Machine
end

section
/-!
SUPPORT. From `vFlagged` and `vXc` to the words of the statements (R144, R147).
-/

namespace Sys2Proof.Machine

open Sys2Proof.Claim

variable {s : State} {c n : Nat} {g : Group} {i : Instr} {d a b : Src} {f : LaneFn} {fm : Form}
  {L : Nat} {acc codes : Bool} {len : Pc}

theorem val_of_sameRegs {h : Group} (hd : d.isVec = true) (e : h.SameRegs g) (l : Nat) :
    d.val h l = d.val g l := by
  match d, hd with
  | .vec r, _ => exact congrArg zext64 (e.v r l)
  | .pair r, _ =>
    show h.v _ _ ++ h.v _ _ = g.v _ _ ++ g.v _ _
    rw [e.v, e.v]

/-- R144: what the body of `vFlagged` answers. -/
theorem vFlagged_body {fl : BitVec 7} {t : Word} {w : Work} {write : Group → Group}
    (h : Raises g (fun l => (f g.format (a.val g l) (b.val g l) (d.val g l)).2) fl t) :
    withFlags w g (raisedIn g.exec fun l => (tget (0, 0) l (laneResults g d a b f)).2)
        (trapLanes g.exec (fmtEnables g.format) fun l => (tget (0, 0) l (laneResults g d a b f)).2) write =
      if fl &&& fmtEnables g.format = 0 then .done w (write { g with flg := g.flg ||| fl })
      else .trapWith w { g with flg := g.flg ||| fl } (0x10 + lowFlag (fl &&& fmtEnables g.format)) 0 t := by
  obtain ⟨hraised, hlanes⟩ := raises_results h
  rw [hraised, hlanes]
  rfl

/-- R144, R145: an instruction that `vFlagged` gives its meaning is elementwise. -/
theorem elementwise_of_vFlagged (hr : Ready s c n g) (hd : d.isVec = true) (hL : L ≤ 8)
    (hi : exec i s = vFlagged fm L d a b acc true f s) (hlen : BitVec.ofNat 52 fm.len = len) :
    Elementwise s c n g i len d a b f := by
  intro hdok haok hbok
  dsimp only
  intro fl t hraises
  have hregs : (vNeed g d a b acc true).regs = true := by simp [vNeed, hdok, haok, hbok]
  have hp := passes_quiet s.work c g (vNeed g d a b acc true) hr.quiet rfl hregs rfl
  have hbody := vFlagged_body (w := s.work) (write := fun g => g.flyD L d g.exec fun l =>
    (tget (0, 0) l (laneResults g d a b f)).1) hraises
  constructor
  · intro hen
    rw [if_pos hen] at hbody
    obtain ⟨hleft, hbase, hkeeps, hval⟩ := flyD_landed (g := { g with flg := g.flg ||| fl }) hr.quiet.flights
      hd L g.exec fun l => (tget (0, 0) l (laneResults g d a b f)).1
    refine completesIn_of_finish (hi.trans (issue_done hr.cur hr.here hp hbody)) ?_ elsewhere_finish L hL
      hleft (congrArg Group.fixed hbase) ⟨hkeeps.1, hkeeps.2, hkeeps.3, hkeeps.4⟩ fun h hregs _ l hl => ?_
    · rw [Group.nextPc, hlen]
      exact congrArg (· + len) (flyD_pc (g := { g with flg := g.flg ||| fl }) hr.quiet.flights hd _ _ _)
    · rw [val_of_sameRegs hd hregs]
      refine (hval l hl).trans ?_
      by_cases hon : bit g.exec l = true
      · rw [if_pos hon, if_pos hon, laneResults_get d a b f hl hon]
      · rw [if_neg hon, if_neg hon]
        rfl
  · intro hen hpending
    rw [if_neg hen] at hbody
    unfold Traps
    rw [hi, vFlagged, issue_eq hr.cur hr.here, issueGroup_passes _ hp]
    refine congrArg (fun w => Host.Outcome.next (commit s w)) ?_
    exact (congrArg (applyRes fm s.work c n g) hbody).trans (raiseTrap_now _ _ _ _ _ _ _ hpending)

/-! ## Variable latency -/

theorem landWrites_congr {lanes : Word} {x y : Nat → Word}
    (h : ∀ l < 64, bit lanes l = true → x l = y l) : landWrites d lanes x = landWrites d lanes y := by
  have hvec : ∀ v : Word → Lane, (lanesOf lanes).map (fun l => (l, v (x l))) =
      (lanesOf lanes).map fun l => (l, v (y l)) := fun v => by
    refine List.map_congr_left fun l hl => ?_
    obtain ⟨hlt, hon⟩ := (mem_lanesOf _ _).1 hl
    rw [h l hlt hon]
  cases d <;> simp only [landWrites, hvec fun w => w.truncate 32, hvec fun w => w.extractLsb' 32 32]

/-- R106: the registers of the destination are pending. -/
theorem awaitD_eq (hq : g.flights = []) (hp : g.pend = []) (hd : d.isVec = true) (lanes : Word) (op : Nat) :
    g.awaitD d lanes op = { g with pend := (regsOf d).map fun q =>
      { kind := .vector, reg := q, bank := false, lanes, op } } := by
  match d, hd with
  | .vec r, _ =>
    rw [Group.awaitD, await_vector hq, hp]
    rfl
  | .pair r, _ =>
    rw [Group.awaitD, await_vector hq, hp, await_pending hq]
    rfl

/-- R147: an instruction that `vXc` gives its meaning issues with its destination pending. -/
theorem deferred_of_vXc {can : BitVec 7} (hr : Ready s c n g) (hd : d.isVec = true)
    (hi : exec i s = vXc fm can d a b f s) (hlen : fm.len = 4) :
    Claim.Deferred s c n g i can d a b f := by
  intro hdok haok hbok hxc
  dsimp only
  intro fl t hraises
  obtain ⟨hraised, hlanes⟩ := raises_results hraises
  have hq := hr.quiet.flights
  have hregs : (vNeed g d a b false true).regs = true := by simp [vNeed, hdok, haok, hbok]
  have hwrites : (landWrites d g.exec fun l => (tget (0, 0) l (laneResults g d a b f)).1) =
      landWrites d g.exec fun l => (f g.format (a.val g l) (b.val g l) (d.val g l)).1 :=
    landWrites_congr fun l hl hon => by rw [laneResults_get d a b f hl hon]
  have hnoflights : ∀ p : Prop, [Decidable p] → (if p then g else { g with flights := [] }) = g := by
    intro p _
    rw [landed_of_quiet hq, ite_self]
  have hpend := awaitD_eq (g := { g with xc := g.xc + 1 }) hq hr.quiet.pend hd g.exec (s.work.core c).opSeq
  refine completesIn_unflown (w' := s.work.setCore c ((s.work.core c).issues _)) hr hi rfl hregs rfl ?_
    (around_finish rfl) hlen ⟨rfl, rfl, rfl, rfl, rfl, rfl, rfl, rfl, rfl, rfl⟩
  rw [if_neg (Nat.not_le.2 hxc)]
  dsimp only
  rw [hraised, hlanes, hwrites, hnoflights, hpend, hq]
  rfl

end Sys2Proof.Machine
end

section
/-!
PROOFS. Conversions, packs, unpacks and splits by lanes (R165 to R170, R180).
-/

namespace Sys2Proof.Machine

open Sys2Proof.Claim

variable {s : State} {c n : Nat} {g : Group} {i : Instr} {d a b : Src} {f : LaneFn} {acc codes : Bool}

/-- An instruction of major 0x14 or 0x18 is elementwise where its codes are defined. -/
theorem conversion_elementwise (hr : Ready s c n g) {x : BitVec 32} {q : BitVec 2} (hd : d.isVec = true)
    (hcodes : codes = true)
    (hi : exec i s = vFlagged (wordForm x q (some Lcvt) wtCvt) Lcvt d a b acc codes f s) :
    Elementwise s c n g i 4 d a b f := by
  subst hcodes
  exact elementwise_of_vFlagged hr hd (by decide) hi rfl

theorem side_isVec (wide : Bool) (r : Nat) : (side wide r).isVec = true := by cases wide <;> rfl

theorem side_of_mem {k r : Nat} (l : List Nat) :
    side (l.contains k) r = if k ∈ l then Src.pair r else Src.vec r := by
  unfold side
  simp only [List.contains_iff_mem]

theorem conversionResults : ConversionResults := by
  intro s c n g hr x d a k
  dsimp only
  rw [← side_of_mem, ← side_of_mem]
  refine ⟨fun hk => ?_, fun hk => ?_⟩
  · exact conversion_elementwise (i := .vcvt x d a k) hr (side_isVec _ _) (decide_eq_true hk) rfl
  · exact conversion_elementwise (i := .vcvts x d a k) hr (side_isVec _ _) (List.contains_iff_mem.2 hk) rfl

/-! ## Integers packed and unpacked (R169, R170) -/

/-- No lane raises a flag. -/
theorem raises_none (g : Group) : Raises g (fun _ => 0) 0 0 := by
  refine ⟨fun k => ?_, fun l _ => ?_⟩ <;> simp [bit]

/-- An elementwise instruction that raises no flag writes its lanes and nothing else. -/
theorem toVector_of_elementwise {len : Pc} {r : Nat} {v : Nat → Lane}
    (h : Elementwise s c n g i len (.vec r) a b f) (hd : g.hasV r = true) (ha : a.ok g = true)
    (hb : b.ok g = true)
    (hv : ∀ l, f g.format (a.val g l) (b.val g l) (zext64 (g.v r l)) = (zext64 (v l), 0)) :
    ToVector s c n g i len r g.exec v := by
  have hraises : Raises g (fun l => (f g.format (a.val g l) (b.val g l) (zext64 (g.v r l))).2) 0 0 := by
    simpa only [hv] using raises_none g
  obtain ⟨t, k, hex, hk, hpc, haround, hfixed, hkeeps, hval⟩ := (h hd ha hb 0 0 hraises).1 BitVec.zero_and
  have hflg : ({ g with flg := g.flg ||| 0 } : Group) = g :=
    congrArg (fun x => { g with flg := x }) BitVec.or_zero
  refine ⟨t, k, hex, hk, hpc, haround, hfixed.trans (congrArg Group.fixed hflg), hkeeps, fun l hl => ?_⟩
  · have hz : zext64 (k.settled.v r l) = zext64 (if bit g.exec l then v l else g.v r l) := by
      refine (hval l hl).trans ?_
      show (if _ then zext64 ((f _ _ _ (zext64 _)).1.truncate 32) else zext64 _) = _
      rw [hv, apply_ite zext64]
      simp [zext64]
    simpa [zext64] using congrArg (BitVec.setWidth 32) hz

theorem toNat_append {m w : Nat} (x : BitVec m) (y : BitVec w) :
    (x ++ y).toNat = y.toNat + 2 ^ w * x.toNat := by
  rw [BitVec.toNat_append, ← Nat.shiftLeft_add_eq_or_of_lt y.isLt, Nat.shiftLeft_eq, Nat.mul_comm, Nat.add_comm]

theorem truncate_zext64 (v : Lane) : ((zext64 v).truncate 32 : Lane) = v := by simp [zext64]

@[simp] theorem toNat_zext64 (v : Lane) : (zext64 v).toNat = v.toNat :=
  BitVec.toNat_setWidth_of_le (by decide)

theorem extract_zext64 (v : Lane) (k w : Nat) : (zext64 v).extractLsb' k w = v.extractLsb' k w := by
  apply BitVec.eq_of_toNat_eq
  simp

/-- Part `j` of a register. -/
theorem ofNat_part (v : Lane) (w j : Nat) :
    BitVec.ofNat w (part w j (zext64 v)) = v.extractLsb' (w * j) w := by
  apply BitVec.eq_of_toNat_eq
  simp [part, Nat.shiftRight_eq_div_pow]

theorem packI2_eq (signed : Bool) (fmt : BitVec 32) (a b : Lane) (d : Word) {q : Int → BitVec 16}
    (hq : ∀ v, clampTo signed 16 v = (q v).toNat) :
    packI2 signed fmt (zext64 a) (zext64 b) d = (zext64 (q b.toInt ++ q a.toInt), 0) := by
  unfold packI2
  rw [truncate_zext64, truncate_zext64, hq, hq, Prod.mk.injEq]
  refine ⟨BitVec.eq_of_toNat_eq ?_, rfl⟩
  rw [BitVec.toNat_ofNat, zext64, BitVec.toNat_setWidth, toNat_append]
  rfl

theorem packI4_eq (signed : Bool) (fmt : BitVec 32) (a b : Lane) (d : Word) {q : Int → BitVec 8}
    (hq : ∀ v, clampTo signed 8 v = (q v).toNat) :
    packI4 signed fmt (zext64 a) (zext64 b) d =
      (zext64 (q (b.extractLsb' 16 16).toInt ++ q (b.extractLsb' 0 16).toInt ++
        q (a.extractLsb' 16 16).toInt ++ q (a.extractLsb' 0 16).toInt), 0) := by
  unfold packI4
  simp only [extract_zext64, hq]
  rw [Prod.mk.injEq]
  refine ⟨BitVec.eq_of_toNat_eq ?_, rfl⟩
  rw [BitVec.toNat_ofNat, zext64, BitVec.toNat_setWidth, toNat_append, toNat_append, toNat_append]
  congr 1
  ring

theorem unpackI_eq (signed : Bool) {w : Nat} (hw : w ≤ 32) (j : Nat) (fmt : BitVec 32) (a : Lane) (b d : Word) :
    unpackI signed w j fmt (zext64 a) b d = (zext64 (if signed then (a.extractLsb' (w * j) w).signExtend 32
      else (a.extractLsb' (w * j) w).zeroExtend 32 : Lane), 0) := by
  unfold unpackI
  dsimp only
  rw [ofNat_part]
  cases signed
  · have h : ∀ x : BitVec w, zext64 x = zext64 (x.zeroExtend 32) := fun x => by
      exact (BitVec.setWidth_setWidth (by omega)).symm
    exact congrArg (·, 0) (h _)
  · rfl

theorem unpackI2_eq (j : Nat) (fmt : BitVec 32) (a : Lane) (b d : Word) :
    unpackI2 j fmt (zext64 a) b d = (zext64 ((a.extractLsb' (16 * j + 8) 8).signExtend 16 ++
      (a.extractLsb' (16 * j) 8).signExtend 16), 0) := by
  have h0 : 8 * (2 * j) = 16 * j := by ring
  have h1 : 8 * (2 * j + 1) = 16 * j + 8 := by ring
  unfold unpackI2
  dsimp only
  rw [ofNat_part, ofNat_part, h0, h1, Prod.mk.injEq]
  refine ⟨BitVec.eq_of_toNat_eq ?_, rfl⟩
  rw [BitVec.toNat_ofNat, zext64, BitVec.toNat_setWidth, toNat_append]
  rfl

theorem packResults : PackResults := by
  intro s c n g hr x d a b k sl y
  have two : ∀ {i : Instr} {w : BitVec 32} {fn : LaneFn}, exec i s = vCvt w x (.vec d.toNat) (.vec a.toNat)
      (.vec b.toNat) true fn s → Elementwise s c n g i 4 (.vec d.toNat) (.vec a.toNat) (.vec b.toNat) fn :=
    conversion_elementwise hr rfl rfl
  have one : ∀ {i : Instr} {w : BitVec 32} {fn : LaneFn} {top : Nat}, k.toNat ≤ top →
      exec i s = vCvt w x (.vec d.toNat) (.vec a.toNat) .none (decide (k.toNat ≤ top)) fn s →
      Elementwise s c n g i 4 (.vec d.toNat) (.vec a.toNat) .none fn :=
    fun hk => conversion_elementwise hr rfl (decide_eq_true hk)
  have i16 := fun fmt a b d => packI2_eq true fmt a b d
    (q := fun v => BitVec.ofInt 16 (max (-32768) (min 32767 v))) fun _ => rfl
  have n16 := fun fmt a b d => packI2_eq false fmt a b d
    (q := fun v => BitVec.ofInt 16 (max 0 (min 65535 v))) fun _ => rfl
  have i8 := fun fmt a b d => packI4_eq true fmt a b d
    (q := fun v => BitVec.ofInt 8 (max (-128) (min 127 v))) fun _ => rfl
  have n8 := fun fmt a b d => packI4_eq false fmt a b d
    (q := fun v => BitVec.ofInt 8 (max 0 (min 255 v))) fun _ => rfl
  refine ⟨two rfl, two rfl, two rfl, two rfl, two rfl, two rfl, two rfl, two rfl,
    fun hd ha hb => ?_, fun hd ha hb => ?_, fun hd ha hb => ?_, fun hd ha hb => ?_,
    fun hk => one hk rfl, fun hk => one hk rfl, fun hk => one hk rfl, fun hk => one hk rfl,
    fun hk hd ha => ?_, fun hk hd ha => ?_, fun hk hd ha => ?_, fun hk hd ha => ?_,
    fun hk hd ha => ?_, ?_⟩
  · exact toVector_of_elementwise (two rfl) hd ha hb fun l => i16 _ _ _ _
  · exact toVector_of_elementwise (two rfl) hd ha hb fun l => n16 _ _ _ _
  · exact toVector_of_elementwise (two rfl) hd ha hb fun l => i8 _ _ _ _
  · exact toVector_of_elementwise (two rfl) hd ha hb fun l => n8 _ _ _ _
  · exact toVector_of_elementwise (one hk rfl) hd ha rfl fun l => unpackI_eq true (by decide) _ _ _ _ _
  · exact toVector_of_elementwise (one hk rfl) hd ha rfl fun l => unpackI_eq false (by decide) _ _ _ _ _
  · exact toVector_of_elementwise (one hk rfl) hd ha rfl fun l => unpackI2_eq _ _ _ _ _
  · exact toVector_of_elementwise (one hk rfl) hd ha rfl fun l => unpackI_eq true (by decide) _ _ _ _ _
  · exact toVector_of_elementwise (one hk rfl) hd ha rfl fun l => unpackI_eq false (by decide) _ _ _ _ _
  · exact conversion_elementwise (i := .vsplit x sl y d a b) hr rfl rfl rfl

end Sys2Proof.Machine
end

section
/-!
PROOFS. Conversions complete where no trap of a flag is enabled (R144).
-/

namespace Sys2Proof.Machine

open Sys2Proof.Claim

variable {s : State} {c n : Nat} {g : Group} {i : Instr} {d a b : Src} {f : LaneFn}

/-- The instruction runs: its group goes on behind it, with EXEC, LIVE and FMT as they were. -/
def Runs (s : State) (c n : Nat) (g : Group) (i : Instr) : Prop :=
  ∃ t h, exec i s = .next t ∧ t.mem = s.mem ∧ t.work.grp c n = some h ∧ h.pc = g.pc + 4 ∧
    h.exec = g.exec ∧ h.live = g.live ∧ h.fmt = g.fmt

/-- The landing of its writes leaves a group its EXEC, LIVE and FMT. -/
theorem settled_kept (g : Group) :
    g.settled.exec = g.exec ∧ g.settled.live = g.live ∧ g.settled.fmt = g.fmt := by
  unfold Group.settled Group.age
  dsimp only
  generalize hx : List.filter _ _ = fs
  generalize hy : List.filter _ _ = fl
  have h := landAll_apart fl { g with flights := fs }
  have hexec := congrArg Group.exec h
  have hlive := congrArg Group.live h
  have hfmt := congrArg Group.fmt h
  exact ⟨hexec, hlive, hfmt⟩

theorem runs_of_elementwise (hen : fmtEnables g.format = 0) (h : Elementwise s c n g i 4 d a b f)
    (hd : d.ok g = true) (ha : a.ok g = true) (hb : b.ok g = true) : Runs s c n g i := by
  have hnone : ∀ x : BitVec 7, x &&& fmtEnables g.format = 0 := fun x => by
    rw [hen]
    exact BitVec.and_zero
  obtain ⟨t, k, hex, hk, hpc, haround, hfixed, -, -⟩ := (h hd ha hb _ _ (raises_found g _)).1 (hnone _)
  obtain ⟨hexec, hlive, hfmt⟩ := settled_kept k
  have hexec' := congrArg Group.exec hfixed
  have hlive' := congrArg Group.live hfixed
  have hfmt' := congrArg Group.fmt hfixed
  exact ⟨t, k, hex, haround.mem, hk, hpc, hexec.symm.trans hexec', hlive.symm.trans hlive',
    hfmt.symm.trans hfmt'⟩

theorem side_ok {k r : Nat} {l : List Nat}
    (h : if decide (k ∈ l) = true then g.hasPair r = true else g.hasV r = true) :
    (side (l.contains k) r).ok g = true := by
  rw [side_of_mem]
  by_cases hk : k ∈ l
  · rw [if_pos (decide_eq_true hk)] at h
    rwa [if_pos hk]
  · rw [if_neg (by simpa using hk)] at h
    rwa [if_neg hk]

theorem conversionsComplete : ConversionsComplete := by
  intro s c n g hr hen x d a b k sl y
  have two : ∀ {i : Instr} {w : BitVec 32} {fn : LaneFn}, g.hasV d.toNat = true → g.hasV a.toNat = true →
      g.hasV b.toNat = true →
      exec i s = vCvt w x (.vec d.toNat) (.vec a.toNat) (.vec b.toNat) true fn s → Runs s c n g i :=
    fun hd ha hb hi => runs_of_elementwise hen (conversion_elementwise hr rfl rfl hi) hd ha hb
  have one : ∀ {i : Instr} {w : BitVec 32} {fn : LaneFn} {top : Nat}, g.hasV d.toNat = true →
      g.hasV a.toNat = true → k.toNat ≤ top →
      exec i s = vCvt w x (.vec d.toNat) (.vec a.toNat) .none (decide (k.toNat ≤ top)) fn s →
      Runs s c n g i :=
    fun hd ha hk hi => runs_of_elementwise hen
      (conversion_elementwise hr rfl (decide_eq_true hk) hi) hd ha rfl
  refine ⟨fun hd ha => ⟨fun hk => ?_, fun hk => ?_⟩,
    fun hd ha => ⟨fun hb => ⟨two hd ha hb rfl, two hd ha hb rfl, two hd ha hb rfl, two hd ha hb rfl,
      two hd ha hb rfl, two hd ha hb rfl, two hd ha hb rfl, two hd ha hb rfl, two hd ha hb rfl,
      two hd ha hb rfl, two hd ha hb rfl, two hd ha hb rfl⟩,
      fun hk => ⟨one hd ha hk rfl, one hd ha hk rfl, one hd ha hk rfl, one hd ha hk rfl, one hd ha hk rfl,
        one hd ha hk rfl, one hd ha hk rfl⟩,
      fun hk => ⟨one hd ha hk rfl, one hd ha hk rfl⟩⟩,
    fun hd ha hb => ?_⟩
  · exact runs_of_elementwise hen (conversion_elementwise (i := .vcvt x d a k) hr (side_isVec _ _)
      (decide_eq_true hk) rfl) (side_ok hd) (side_ok ha) rfl
  · exact runs_of_elementwise hen (conversion_elementwise (i := .vcvts x d a k) hr (side_isVec _ _)
      (List.contains_iff_mem.2 hk) rfl) (side_ok hd) (side_ok ha) rfl
  · exact runs_of_elementwise hen (conversion_elementwise (i := .vsplit x sl y d a b) hr rfl rfl rfl) hd ha hb

/-- Settles O11: a conversion is its lane function run by `vFlagged`; what the codes compute is rounding
to an integer, and one rounding of a value that the source holds. -/
theorem conversions : Obligations.Conversions :=
  ⟨conversionResults, floatToInteger, packResults, conversionCodes, splitDigits, integerRounding,
    conversionsComplete⟩

end Sys2Proof.Machine
end

section
/-!
PROOFS. Divisions, roots and special functions issue with a pending destination (R147, R152, R160, R171).
-/

namespace Sys2Proof.Machine

open Sys2Proof.Claim

theorem variableLatencyIssue : VariableLatencyIssue := by
  intro s c n g hr x d a b
  have int : ∀ {i : Instr} {w : BitVec 32} {b : Src} (f : Lane → Lane → Lane × BitVec 7),
      exec i s = vDiv w x d a b f s → Claim.Deferred s c n g i (flIDZ ||| flIOV) (.vec d.toNat)
        (.vec a.toNat) b (divFn f) :=
    fun _ hi => deferred_of_vXc hr rfl hi rfl
  have f32 : ∀ {i : Instr} {w : BitVec 32} {b : Src} (f : Nat → Nat → Nat → Nat → Fr),
      exec i s = vF32X w x d a b f s → Claim.Deferred s c n g i flFloat (.vec d.toNat) (.vec a.toNat) b
        (fnLow f) :=
    fun _ hi => deferred_of_vXc hr rfl hi rfl
  have f64 : ∀ {i : Instr} {w : BitVec 32} {b : Src} (f : Nat → Nat → Nat → Nat → Fr),
      exec i s = vF64X w x d a b f s → Claim.Deferred s c n g i flFloat (.pair d.toNat) (.pair a.toNat) b
        (fn f) :=
    fun _ hi => deferred_of_vXc hr rfl hi rfl
  exact ⟨int (divS false) rfl, int (divU false) rfl, int (divS true) rfl, int (divU true) rfl,
    int (divS false) rfl, int (divU false) rfl, int (divS true) rfl, int (divU true) rfl,
    f32 (opDiv F32) rfl, f32 (opDiv F32) rfl, f32 (opSqrt F32) rfl, f64 (opDiv F64) rfl, f64 (opSqrt F64) rfl,
    f32 (fun _ a _ _ => F32.rcp a) rfl, f32 (fun _ a _ _ => F32.rsq a) rfl,
    f32 (fun _ a _ _ => F32.exp2 a) rfl, f32 (fun _ a _ _ => F32.log2 a) rfl,
    f32 (fun _ a _ _ => F32.trig false a) rfl, f32 (fun _ a _ _ => F32.trig true a) rfl⟩

/-! ## The corners of integer division (R75) -/

theorem divS_of_regular (rem : Bool) {a b : Lane} (hb : b ≠ 0) (h : ¬(a = 0x80000000 ∧ b = 0xFFFFFFFF)) :
    divS rem a b = (if rem then a.srem b else a.sdiv b, 0) := by
  unfold divS
  rw [if_neg hb, if_neg h]

theorem divU_of_regular (rem : Bool) {a b : Lane} (hb : b ≠ 0) :
    divU rem a b = (if rem then a % b else a / b, 0) := by
  unfold divU
  rw [if_neg hb]

/-- The quotient is truncated: only the least value divided by -1 leaves the range. -/
theorem toInt_sdiv_regular {a b : Lane} (h : ¬(a = 0x80000000 ∧ b = 0xFFFFFFFF)) :
    (a.sdiv b).toInt = a.toInt.tdiv b.toInt :=
  BitVec.toInt_sdiv_of_ne_or_ne a b (not_and_or.1 h)

theorem divS_by_zero (rem : Bool) (a : Lane) :
    divS rem a 0 = (if rem then a else if a.toInt < 0 then 0x80000000 else 0x7FFFFFFF, flIDZ) := by
  unfold divS
  rw [if_pos rfl, BitVec.msb_eq_toInt]
  simp only [decide_eq_true_eq]

theorem divisionCorners : DivisionCorners := by
  intro a b
  refine ⟨divS_by_zero false a, divS_by_zero true a, rfl, rfl, rfl, rfl, fun hb h => ?_, fun hb => ?_⟩
  · rw [divS_of_regular false hb h, divS_of_regular true hb h]
    exact ⟨toInt_sdiv_regular h, BitVec.toInt_srem a b, rfl, rfl⟩
  · rw [divU_of_regular false hb, divU_of_regular true hb]
    exact ⟨congrArg (·, 0) BitVec.udiv_def, congrArg (·, 0) BitVec.umod_def⟩

end Sys2Proof.Machine
end

section
/-!
PROOFS. A result of variable latency lands (R147, R106, R134).
-/

namespace Sys2Proof.Machine

open Sys2Proof.Claim

variable {s : State} {c id : Nat} {x : XcOp} {g : Group}

/-- The group as a result finds it, before the writes land: the result is no longer pending, XC no longer
counts it, and FLG has its flags. -/
def Group.receives (g : Group) (id : Nat) (x : XcOp) : Group :=
  { g.unpend id with flg := g.flg ||| x.flags, xc := if x.counted then g.xc - 1 else g.xc }

/-- The group once the writes of the result have landed. -/
def Group.takesResult (g : Group) (id : Nat) (x : XcOp) : Group :=
  x.writes.foldl Group.land1 (g.receives id x)

/-- The core without the operation. -/
def Core.without (k : Core) (id : Nat) : Core := { k with xcs := tdel id k.xcs }

theorem takesResult_apart (g : Group) (id : Nat) (x : XcOp) :
    (g.takesResult id x).apart = (g.receives id x).apart := landAll_apart _ _

/-- What the landing of a result leaves of its group. -/
theorem takesResult_fields (g : Group) (id : Nat) (x : XcOp) :
    (g.takesResult id x).flg = g.flg ||| x.flags ∧
      (g.takesResult id x).xc = (if x.counted then g.xc - 1 else g.xc) ∧
      (g.takesResult id x).pend = (g.unpend id).pend ∧ (g.takesResult id x).pc = g.pc ∧
      (g.takesResult id x).exec = g.exec ∧ (g.takesResult id x).flights = g.flights ∧
      (g.takesResult id x).wait = g.wait := by
  have h := takesResult_apart g id x
  have hflg := congrArg Group.flg h
  have hxc := congrArg Group.xc h
  have hpend := congrArg Group.pend h
  have hpc := congrArg Group.pc h
  have hexec := congrArg Group.exec h
  have hflights := congrArg Group.flights h
  have hwait := congrArg Group.wait h
  exact ⟨hflg, hxc, hpend, hpc, hexec, hflights, hwait⟩

theorem land1_vector {f : Flight} (hk : f.kind = .vector) (g : Group) (r : Nat) {l : Nat} (hl : l < 64) :
    (g.land1 f).v r l = if r = f.reg ∧ bit f.lanes l = true then tget 0 l f.vec else g.v r l := by
  unfold Group.land1
  rw [hk]
  exact setV_v _ _ _ _ _ _ hl

theorem land1_scalar {f : Flight} (hk : f.kind = .scalar) (g : Group) :
    (g.land1 f).sIn f.bank f.reg = (g.sIn f.bank f.reg &&& ~~~f.lanes) ||| (f.val &&& f.lanes) := by
  unfold Group.land1
  rw [hk]
  exact (setS_sIn _ _ _ _ _ _ _).trans (if_pos ⟨rfl, rfl⟩)

/-- A result of one write gives its register the lanes written. -/
theorem takesResult_one {f : Flight} (hf : x.writes = [f]) (g : Group) (id : Nat) :
    (f.kind = .vector → ∀ l < 64, (g.takesResult id x).v f.reg l =
      if bit f.lanes l then tget 0 l f.vec else g.v f.reg l) ∧
    (f.kind = .scalar → (g.takesResult id x).sIn f.bank f.reg =
      (g.sIn f.bank f.reg &&& ~~~f.lanes) ||| (f.val &&& f.lanes)) := by
  unfold Group.takesResult
  rw [hf]
  refine ⟨fun hk l hl => (land1_vector hk _ _ hl).trans ?_, fun hk => land1_scalar hk _⟩
  simp only [true_and]
  rfl

/-- A result of two writes to different vector registers gives each the lanes written. -/
theorem takesResult_two {e f : Flight} (hf : x.writes = [e, f]) (he : e.kind = .vector)
    (hk : f.kind = .vector) (hne : e.reg ≠ f.reg) (g : Group) (id : Nat) {l : Nat} (hl : l < 64) :
    (g.takesResult id x).v e.reg l = (if bit e.lanes l then tget 0 l e.vec else g.v e.reg l) ∧
      (g.takesResult id x).v f.reg l = if bit f.lanes l then tget 0 l f.vec else g.v f.reg l := by
  unfold Group.takesResult
  rw [hf]
  simp only [List.foldl_cons, List.foldl_nil, land1_vector hk _ _ hl, land1_vector he _ _ hl, hne, hne.symm,
    true_and, false_and, if_false]
  exact ⟨rfl, rfl⟩

/-- The counters other than XC are as they were. -/
theorem waitMet_takesResult (g : Group) (id : Nat) (x : XcOp) (m : BitVec 5) (k : Nat) :
    waitMet (g.takesResult id x) m k =
      waitMet { g with xc := if x.counted then g.xc - 1 else g.xc } m k := by
  have h := congrArg (waitMet · m k) (takesResult_apart g id x)
  exact h

section Steps

variable (hx : tfind id (s.work.core c).xcs = some x) (hg : s.work.grp c x.slot = some g)

include hg

theorem grp_without : (s.work.setCore c ((s.work.core c).without id)).grp c x.slot = some g := by
  have hgroups : ((s.work.core c).without id).groups = (s.work.core c).groups := rfl
  exact (grp_setCore_of_groups hgroups _ _).trans hg

include hx

/-- R147: a result without a trap lands. -/
theorem exec_resultLands (ht : x.trap = none) : exec (.xcResultLand c id) s = .next (commit s
    (((s.work.setCore c ((s.work.core c).without id)).setGrp c x.slot (g.takesResult id x)).settleWait c
      x.slot)) := by
  refine congrArg (fun w => Host.Outcome.next (commit s w)) ?_
  have hgrp := grp_without (id := id) hg
  unfold Core.without at hgrp
  unfold Work.xcLand
  dsimp only
  rw [hx]
  dsimp only
  rw [ht, hgrp]
  rfl

/-- R147: a trap is taken once no earlier work that raises flags is out. -/
theorem exec_resultTraps {cause : Nat} {lanes : Word} {pc : Pc} (ht : x.trap = some (cause, lanes, pc))
    (hfirst : ∀ y ∈ (s.work.core c).xcs, y.1 < id → y.2.slot = x.slot → y.2.counted = false) :
    exec (.xcResultLand c id) s = .next (commit s
      ((s.work.setCore c ((s.work.core c).without id)).takeTrap c x.slot
        { g.receives id x with pc, flights := x.flights } cause 0 lanes)) := by
  refine congrArg (fun w => Host.Outcome.next (commit s w)) ?_
  have hgrp := grp_without (id := id) hg
  unfold Core.without at hgrp
  have hnone : ((s.work.core c).xcs.any fun y =>
      decide (y.1 < id) && decide (y.2.slot = x.slot) && y.2.counted) = false := by
    refine List.any_eq_false.2 fun y hy => ?_
    simp only [Bool.and_eq_true, decide_eq_true_eq, not_and, Bool.not_eq_true]
    exact fun h => hfirst y hy h.1 h.2
  unfold Work.xcLand
  dsimp only
  rw [hx]
  dsimp only
  rw [ht, hgrp, hnone]
  rfl

end Steps

/-- R134: nothing goes on where the group waits neither for loads nor in a WAIT. -/
theorem settleWait_unwaiting {w : Work} {c n : Nat} {g : Group} (hg : w.grp c n = some g)
    (hw : Unwaiting g) : w.settleWait c n = w := by
  unfold Work.settleWait
  rw [hg]
  dsimp only
  split
  · next ops h => exact absurd h (hw.1 ops)
  · next m k h => exact absurd h (hw.2 m k)
  · rfl

/-- R134: a WAIT whose condition holds is over. -/
theorem settleWait_over {w : Work} {c n k : Nat} {m : BitVec 5} {g : Group} (hg : w.grp c n = some g)
    (hw : g.wait = .counters m k) (hmet : waitMet g m k = true) :
    (w.settleWait c n).log = w.log ∧
      ∃ h, (w.settleWait c n).grp c n = some h ∧ h.pc = g.pc + 4 ∧ h.wait = .none := by
  unfold Work.settleWait
  rw [hg]
  dsimp only
  rw [hw]
  dsimp only
  rw [if_pos hmet, grp_returnAt, if_pos ⟨rfl, rfl⟩, hg]
  refine ⟨log_returnAt _ _ _ _ _ _, _, rfl, ?_⟩
  unfold Work.woken
  split <;> exact ⟨rfl, rfl⟩

theorem variableLatencyLanding : VariableLatencyLanding := by
  intro s c id x g hx hg
  refine ⟨fun m k ht hw hmet => ?_, fun ht hw => ?_, fun cause lanes pc ht hfirst => ?_⟩
  · obtain ⟨-, -, -, hpc, -, -, hwait⟩ := takesResult_fields g id x
    obtain ⟨hlog, h, hh, hnext, hover⟩ := settleWait_over
      (w := (s.work.setCore c ((s.work.core c).without id)).setGrp c x.slot (g.takesResult id x))
      (grp_setGrp_same _ _ _ _) (hwait.trans hw) ((waitMet_takesResult g id x m k).trans hmet)
    exact ⟨_, h, exec_resultLands hx hg ht, commit_mem _ _ hlog, (commit_grp _ _ _ _).trans hh,
      hnext.trans (congrArg (· + 4) hpc), hover⟩
  · obtain ⟨hflg, hxc, hpend, hpc, hexec, hflights, hwait⟩ := takesResult_fields g id x
    have hun : Unwaiting (g.takesResult id x) := by
      unfold Unwaiting
      rwa [hwait]
    have hstep := exec_resultLands hx hg ht
    rw [settleWait_unwaiting (grp_setGrp_same _ _ _ _) hun] at hstep
    have hxcs := congrArg Core.xcs (core_setGrp_rest (s.work.setCore c ((s.work.core c).without id)) c
      x.slot c (g.takesResult id x))
    rw [core_setCore_same] at hxcs
    have hgone : tfind id (tdel id (s.work.core c).xcs) = none := tfind_tdel_same id _
    refine ⟨_, _, hstep, commit_mem _ _ rfl, (commit_grp _ _ _ _).trans (grp_setGrp_same _ _ _ _),
      (congrArg (tfind id) hxcs).trans hgone, hflg, hxc, ?_, hpc, hexec, hflights,
      fun f hf => takesResult_one hf g id, fun e f hf he hk hne l hl => takesResult_two hf he hk hne g id hl⟩
    rw [hpend]
    exact pend_unpend g id
  · exact exec_resultTraps hx hg ht hfirst

/-- Settles O10: `vXc` records the lane results as an operation whose landing is one event, and a wait
counts that landing. -/
theorem variableLatency : Obligations.VariableLatency :=
  ⟨variableLatencyIssue, divisionCorners, variableLatencyLanding⟩

end Sys2Proof.Machine
end
